-- ==== Sys2Proof/Word.lean ====
section
/-!
DEFINITION. The word types of the Usson (spec/01, R13, R14, R17): bytes, 32-bit words, doublewords, lane masks,
80-bit virtual addresses and 52-bit physical addresses.
-/
namespace Sys2Proof

/-- Eight bits (R13). -/
abbrev Byte := BitVec 8
/-- A 32-bit word (R13). -/
abbrev Word := BitVec 32
/-- A 64-bit doubleword (R13). -/
abbrev DWord := BitVec 64
/-- One bit for each of a warp's 64 lanes (R6). -/
abbrev Mask := BitVec 64
/-- A virtual address (R11). -/
abbrev VA := BitVec 80
/-- A physical address (R11). -/
abbrev PA := BitVec 52
/-- A lane number (R6). -/
abbrev LaneNo := Fin 64

end Sys2Proof
end

