-- ==== Sys2Proof/Config.lean ====
section
/-!
DEFINITION. What an implementation fixes and the spec leaves open: fused, strapped and firmware values, and the free values.
A free value is a constant with no body, so that no proof can see it; the assumption log names each one.
-/
namespace Sys2Proof.Config

/-- Free bytes: what a byte holds that the manual calls unpredictable (R465), by a counter that the step advances, so that
each byte that becomes unpredictable takes one value and keeps it. Log entry 3. -/
opaque freeByte : Nat → Byte
/-- Free doublewords, for a value that the manual leaves unstated, by the same counter. Log entry 3. -/
opaque freeDWord : Nat → DWord
/-- What a line reads as under a key other than the one it was written under (R465): from the key it was written under, the key it is read
under, its line number and what it holds under the first. Log entry 3. -/
opaque recrypt : BitVec 7 → BitVec 7 → Nat → BitVec 1024 → BitVec 1024
/-- STEP of DEV_ID (R454): fused. Log entry 4. -/
opaque stepping : BitVec 8
/-- UNITS of RSV (R454) minus 1: the firmware reservation is 1 to 8 units of 64 GiB. Log entry 4. -/
opaque unitsMinusOne : BitVec 3
/-- SVN of BOOT_STAT (R454): fused. Log entry 4. -/
opaque svn : BitVec 32
/-- VERTEX of FAB_ID (R405): strapped. Log entry 4. -/
opaque vertex : BitVec 10
/-- Which of the primes from 2 to 31 firmware reports as Q of FAB_CFG (R405). Log entry 4. -/
opaque planeIndex : Fin 11
/-- The prime of an index. -/
def planePrime (n : Fin 11) : BitVec 5 := [2#5, 3#5, 5#5, 7#5, 11#5, 13#5, 17#5, 19#5, 23#5, 29#5, 31#5].getD n.val 2#5
/-- Q of FAB_CFG (R405). -/
def planeOrder : BitVec 5 := planePrime planeIndex
/-- JBASE (R207): firmware. Log entry 4. -/
opaque journalBase : BitVec 52
/-- JCAP (R207): firmware; the exponent of a power of two of at least 65,536 slots, less 16. Log entry 4. -/
opaque journalCapLog : BitVec 4
/-- The capacity in records of the undo log inside the firmware reservation (R170, R454). Log entry 4. -/
opaque undoCapacity : Nat
/-- Two devices stand in the same cooling or power zone, as the signed configuration names them (R423). Log entry 4. -/
opaque sameZone : BitVec 10 → BitVec 10 → Bool
/-- The answer of the security controller to an SPDM request (R456), by code and body: measurements, certificates and
signatures that the manual does not give. Log entry 5. -/
opaque spdmAnswer : Byte → List Byte → List Byte
/-- The answer of the management endpoint to MCTP control traffic (R457). Log entry 5. -/
opaque mctpAnswer : Byte → List Byte → List Byte
/-- One AV1 temporal unit (R368): from the unit's bytes, the decoder's state after the unit before and the contents of the reference
slots, the doubleword of R369 without DONE (CODE zero, or DECODE_STREAM with detail 0x90 or 0x91), the slots read, the slots
refreshed, the decoder's state, what the refreshed slots hold, and the output samples. The AV1 specification defines it, not the
manual. Log entry 6. -/
opaque av1Unit : List Byte → List Byte → List (List Byte) → DWord × BitVec 8 × BitVec 8 × List Byte × List Byte × List Byte
/-- Drive n is formatted with LBAs of 4,096 bytes rather than 512 (R428). Log entry 4. -/
opaque wideLba : BitVec 2 → Bool
/-- The link key of an export secret, direction and generation (R417). Log entry 5. -/
opaque linkKey : BitVec 10 → BitVec 10 → BitVec 1 → BitVec 64 → BitVec 256

end Sys2Proof.Config
end

