-- ==== Sys2Proof/Syntax.lean ====
section
/-!
DEFINITION. The instruction set of the Usson as one inductive: the 218 instruction words of the opcode map (spec/10, R234 to R249)
and the 107 events of the device (spec/95), which have no word and reach the machine through its input list. A word's fields keep
the names of spec/opcode_table.json; an event carries what the event names. The words that have fields stand first, then the events
that the machine itself posts, the other events with a payload, and the words and events without one.
-/
namespace Sys2Proof

/-- What an ABORT message carries: the interval to return to, and whether a committed image is lost (R179, R182). -/
structure AbortBody where
  interval : Nat
  lost : Bool
  deriving DecidableEq, Repr

/-- What a HEARTBEAT message carries: its source, and its kind: 0 to the fabric manager, 1 with the report of a fatal fault, 2 the
manager's own (R178, log entry 49). -/
structure HeartbeatBody where
  dev : BitVec 10
  kind : BitVec 2
  deriving DecidableEq, Repr

/-- What a MIRROR message carries beside its place: the bytes of a line, and the state of line and frame (R171, log entry 48). -/
structure MirrorBody where
  bytes : BitVec 1024
  state : BitVec 16
  deriving DecidableEq, Repr

/-- One constructor per row of the opcode table. -/
inductive Instr where
  /-- R270. Makes the warp ineligible for 64·n core clocks of CYC. -/
  | sleep (n : BitVec 10)
  /-- R268. Moves the whole of EXEC to the VA held in a scalar pair. -/
  | jmpi (a : BitVec 8)
  /-- R266. Pushes a call entry, writes LR and jumps to the VA held in a scalar pair. -/
  | calli (a : BitVec 8)
  /-- R373. Raises SOFTWARE_TRAP precisely with code n when any lane is active. -/
  | trap (n : BitVec 10)
  /-- R376. Sets or disarms the one-shot CYC deadline CYCDL. -/
  | ttrap (a : BitVec 8)
  /-- R376. Sets or disarms the one-shot WALL deadline WALLDL. -/
  | tdead (a : BitVec 8)
  /-- R264. Unconditional branch: cond 0x00 reads p0, so every active lane takes it. -/
  | br (o : BitVec 16) (w : BitVec 4)
  /-- R264. Per-lane branch taken where a predicate holds; it splits the warp when lanes disagree. -/
  | brP (o : BitVec 16) (w : BitVec 4) (p : BitVec 4)
  /-- R264. Per-lane branch taken where a predicate does not hold. -/
  | brNp (o : BitVec 16) (w : BitVec 4) (p : BitVec 4)
  /-- R264. Uniform branch taken when a scalar s0 to s15 is zero. -/
  | brZ (o : BitVec 16) (w : BitVec 4) (s : BitVec 4)
  /-- R264. Uniform branch taken when a scalar s0 to s15 is non-zero. -/
  | brNz (o : BitVec 16) (w : BitVec 4) (s : BitVec 4)
  /-- R266. Pushes a call entry, writes LR and LRHI, and enters the target. -/
  | call (o : BitVec 16) (w : BitVec 4)
  /-- R265. Sets the pending reconvergence point RP to its target. -/
  | rcv (o : BitVec 16) (w : BitVec 4)
  /-- R249. At word 1 of the code it names the run-ahead processor's start and acts as a NOP for warps; anywhere else it faults. -/
  | rapent (o : BitVec 16) (w : BitVec 4)
  /-- R375. Reads a special register into a scalar register. -/
  | rdsr (d : BitVec 8) (n : BitVec 10)
  /-- R375. Writes a special register from a scalar register, with the R16 field checks. -/
  | wrsr (a : BitVec 8) (n : BitVec 10)
  /-- R274. Scalar add, wrapping or saturating. -/
  | sadd (d : BitVec 8) (a : BitVec 8) (b : BitVec 8)
  /-- R274. Scalar subtract. -/
  | ssub (d : BitVec 8) (a : BitVec 8) (b : BitVec 8)
  /-- R274. Scalar multiply. -/
  | smul (d : BitVec 8) (a : BitVec 8) (b : BitVec 8)
  /-- R274. High 64 bits of the exact scalar product. -/
  | smulh (d : BitVec 8) (a : BitVec 8) (b : BitVec 8)
  /-- R274. Scalar bitwise and. -/
  | sand (d : BitVec 8) (a : BitVec 8) (b : BitVec 8)
  /-- R274. Scalar bitwise or. -/
  | sor (d : BitVec 8) (a : BitVec 8) (b : BitVec 8)
  /-- R274. Scalar bitwise exclusive or. -/
  | sxor (d : BitVec 8) (a : BitVec 8) (b : BitVec 8)
  /-- R274. Scalar a and not b. -/
  | sandn (d : BitVec 8) (a : BitVec 8) (b : BitVec 8)
  /-- R274. Scalar shift left. -/
  | sshl (d : BitVec 8) (a : BitVec 8) (b : BitVec 8)
  /-- R274. Scalar logical shift right. -/
  | sshr (d : BitVec 8) (a : BitVec 8) (b : BitVec 8)
  /-- R274. Scalar arithmetic shift right. -/
  | sasr (d : BitVec 8) (a : BitVec 8) (b : BitVec 8)
  /-- R274. Scalar rotate left. -/
  | srot (d : BitVec 8) (a : BitVec 8) (b : BitVec 8)
  /-- R274. Scalar compare equal. -/
  | seq (d : BitVec 8) (a : BitVec 8) (b : BitVec 8)
  /-- R274. Scalar compare less than. -/
  | slt (d : BitVec 8) (a : BitVec 8) (b : BitVec 8)
  /-- R274. Scalar compare less or equal. -/
  | sle (d : BitVec 8) (a : BitVec 8) (b : BitVec 8)
  /-- R274. Scalar compare not equal. -/
  | sne (d : BitVec 8) (a : BitVec 8) (b : BitVec 8)
  /-- R274. Scalar minimum. -/
  | smin (d : BitVec 8) (a : BitVec 8) (b : BitVec 8)
  /-- R274. Scalar maximum. -/
  | smax (d : BitVec 8) (a : BitVec 8) (b : BitVec 8)
  /-- R275. Scalar quotient rounded toward zero; defined results for division by zero and overflow. -/
  | sdiv (d : BitVec 8) (a : BitVec 8) (b : BitVec 8)
  /-- R275. Scalar remainder with the sign of a. -/
  | srem (d : BitVec 8) (a : BitVec 8) (b : BitVec 8)
  /-- R276. Scalar move. -/
  | smov (d : BitVec 8) (a : BitVec 8)
  /-- R276. Scalar bitwise not. -/
  | snot (d : BitVec 8) (a : BitVec 8)
  /-- R276. Scalar negate. -/
  | sneg (d : BitVec 8) (a : BitVec 8)
  /-- R276. Scalar count of leading zeros. -/
  | sclz (d : BitVec 8) (a : BitVec 8)
  /-- R276. Scalar population count. -/
  | spopc (d : BitVec 8) (a : BitVec 8)
  /-- R276. Scalar bit reversal. -/
  | sbrev (d : BitVec 8) (a : BitVec 8)
  /-- R277. Per-lane integer add. -/
  | vadd (d : BitVec 8) (a : BitVec 8) (b : BitVec 8)
  /-- R277. Per-lane integer subtract. -/
  | vsub (d : BitVec 8) (a : BitVec 8) (b : BitVec 8)
  /-- R277. Per-lane integer multiply. -/
  | vmul (d : BitVec 8) (a : BitVec 8) (b : BitVec 8)
  /-- R277. Per-lane high half of the integer product. -/
  | vmulh (d : BitVec 8) (a : BitVec 8) (b : BitVec 8)
  /-- R277. Per-lane bitwise and. -/
  | vand (d : BitVec 8) (a : BitVec 8) (b : BitVec 8)
  /-- R277. Per-lane bitwise or. -/
  | vor (d : BitVec 8) (a : BitVec 8) (b : BitVec 8)
  /-- R277. Per-lane bitwise exclusive or. -/
  | vxor (d : BitVec 8) (a : BitVec 8) (b : BitVec 8)
  /-- R277. Per-lane a and not b. -/
  | vandn (d : BitVec 8) (a : BitVec 8) (b : BitVec 8)
  /-- R277. Per-lane shift left. -/
  | vshl (d : BitVec 8) (a : BitVec 8) (b : BitVec 8)
  /-- R277. Per-lane logical shift right. -/
  | vshr (d : BitVec 8) (a : BitVec 8) (b : BitVec 8)
  /-- R277. Per-lane arithmetic shift right. -/
  | vasr (d : BitVec 8) (a : BitVec 8) (b : BitVec 8)
  /-- R277. Per-lane rotate left. -/
  | vrot (d : BitVec 8) (a : BitVec 8) (b : BitVec 8)
  /-- R277. Per-lane integer minimum. -/
  | vmin (d : BitVec 8) (a : BitVec 8) (b : BitVec 8)
  /-- R277. Per-lane integer maximum. -/
  | vmax (d : BitVec 8) (a : BitVec 8) (b : BitVec 8)
  /-- R277. Per-lane absolute difference, written as an unsigned pattern. -/
  | vabsd (d : BitVec 8) (a : BitVec 8) (b : BitVec 8)
  /-- R277. Per-lane integer d + a × b. -/
  | vmadi (d : BitVec 8) (a : BitVec 8) (b : BitVec 8)
  /-- R273. Per-lane compare equal into a predicate. -/
  | vcmpEq (d : BitVec 4) (a : BitVec 8) (b : BitVec 8)
  /-- R273. Per-lane compare less than into a predicate. -/
  | vcmpLt (d : BitVec 4) (a : BitVec 8) (b : BitVec 8)
  /-- R273. Per-lane compare less or equal into a predicate. -/
  | vcmpLe (d : BitVec 4) (a : BitVec 8) (b : BitVec 8)
  /-- R273. Per-lane compare not equal into a predicate. -/
  | vcmpNe (d : BitVec 4) (a : BitVec 8) (b : BitVec 8)
  /-- R278. Per-lane move. -/
  | vmov (d : BitVec 8) (a : BitVec 8)
  /-- R278. Per-lane bitwise not. -/
  | vnot (d : BitVec 8) (a : BitVec 8)
  /-- R278. Per-lane integer negate. -/
  | vneg (d : BitVec 8) (a : BitVec 8)
  /-- R278. Per-lane integer absolute value. -/
  | vabs (d : BitVec 8) (a : BitVec 8)
  /-- R278. Per-lane count of leading zeros. -/
  | vclz (d : BitVec 8) (a : BitVec 8)
  /-- R278. Per-lane population count. -/
  | vpopc (d : BitVec 8) (a : BitVec 8)
  /-- R278. Per-lane bit reversal. -/
  | vbrev (d : BitVec 8) (a : BitVec 8)
  /-- R281. Per-lane sign inversion of a floating-point value. -/
  | vfneg (d : BitVec 8) (a : BitVec 8)
  /-- R281. Per-lane clearing of a floating-point sign. -/
  | vfabs (d : BitVec 8) (a : BitVec 8)
  /-- R281. Per-lane correctly rounded reciprocal. -/
  | vrcp (d : BitVec 8) (a : BitVec 8)
  /-- R281. Per-lane correctly rounded reciprocal square root. -/
  | vrsqrt (d : BitVec 8) (a : BitVec 8)
  /-- R281. Per-lane correctly rounded square root. -/
  | vsqrt (d : BitVec 8) (a : BitVec 8)
  /-- R281. Per-lane correctly rounded 2^a. -/
  | vexp2 (d : BitVec 8) (a : BitVec 8)
  /-- R281. Per-lane correctly rounded log2 a. -/
  | vlog2 (d : BitVec 8) (a : BitVec 8)
  /-- R281. Per-lane correctly rounded sin(π·a). -/
  | vsin (d : BitVec 8) (a : BitVec 8)
  /-- R281. Per-lane correctly rounded cos(π·a). -/
  | vcos (d : BitVec 8) (a : BitVec 8)
  /-- R281. Per-lane correctly rounded tanh(a). -/
  | vtanh (d : BitVec 8) (a : BitVec 8)
  /-- R279. Per-lane rounded floating-point add. -/
  | vfadd (d : BitVec 8) (a : BitVec 8) (b : BitVec 8)
  /-- R279. Per-lane rounded floating-point subtract. -/
  | vfsub (d : BitVec 8) (a : BitVec 8) (b : BitVec 8)
  /-- R279. Per-lane rounded floating-point multiply. -/
  | vfmul (d : BitVec 8) (a : BitVec 8) (b : BitVec 8)
  /-- R279. Per-lane floating-point minimum. -/
  | vfmin (d : BitVec 8) (a : BitVec 8) (b : BitVec 8)
  /-- R280. Per-lane multiply-add with two roundings. -/
  | vfmad (d : BitVec 8) (a : BitVec 8) (b : BitVec 8)
  /-- R280. Per-lane fused multiply-add with one rounding. -/
  | vfmac (d : BitVec 8) (a : BitVec 8) (b : BitVec 8)
  /-- R280. Per-lane fused d − a × b with one rounding. -/
  | vfnmac (d : BitVec 8) (a : BitVec 8) (b : BitVec 8)
  /-- R279. Per-lane floating-point maximum. -/
  | vfmax (d : BitVec 8) (a : BitVec 8) (b : BitVec 8)
  /-- R283. Per-lane conversion between the element types named in b. -/
  | vcvt (d : BitVec 8) (a : BitVec 8) (t : BitVec 4) (s : BitVec 4)
  /-- R285. Forms the shared scale byte of each half-warp block as the encoder does. -/
  | vmxscale (d : BitVec 8) (a : BitVec 8)
  /-- R286. Per-lane quantisation of an F32 value to a code under a scale byte. -/
  | vmxq (d : BitVec 8) (a : BitVec 8) (b : BitVec 8)
  /-- R287. Per-lane dequantisation of a code and scale byte to F32. -/
  | vmxdq (d : BitVec 8) (a : BitVec 8) (b : BitVec 8)
  /-- R288. Reads each lane's value from an indexed lane. -/
  | vshflIdx (d : BitVec 8) (a : BitVec 8) (b : BitVec 8)
  /-- R288. Reads each lane's value from lane l − n. -/
  | vshflUp (d : BitVec 8) (a : BitVec 8) (b : BitVec 8)
  /-- R288. Reads each lane's value from lane l + n. -/
  | vshflDown (d : BitVec 8) (a : BitVec 8) (b : BitVec 8)
  /-- R288. Reads each lane's value from lane l xor n. -/
  | vshflXor (d : BitVec 8) (a : BitVec 8) (b : BitVec 8)
  /-- R289. Broadcasts lane k of a register to the active lanes. -/
  | vbcast (d : BitVec 8) (a : BitVec 8) (k : BitVec 8)
  /-- R289. Broadcasts a scalar register to the active lanes. -/
  | vs2v (d : BitVec 8) (a : BitVec 8)
  /-- R289. Copies lane k of a vector register to a scalar register. -/
  | v2s (d : BitVec 8) (a : BitVec 8) (k : BitVec 8)
  /-- R290. Sets each active lane's predicate if any active lane holds the source predicate. -/
  | voteAny (d : BitVec 4) (a : BitVec 4)
  /-- R290. Sets each active lane's predicate if every active lane holds the source predicate. -/
  | voteAll (d : BitVec 4) (a : BitVec 4)
  /-- R290. Writes to a scalar the mask of active lanes whose predicate is set. -/
  | voteBallot (d : BitVec 8) (a : BitVec 4)
  /-- R290. Sets each active lane's predicate if all active lanes hold the same value. -/
  | voteUni (d : BitVec 4) (a : BitVec 8)
  /-- R291. Inclusive prefix sum over the active lanes. -/
  | vscanAdd (d : BitVec 8) (a : BitVec 8)
  /-- R291. Inclusive prefix minimum over the active lanes. -/
  | vscanMin (d : BitVec 8) (a : BitVec 8)
  /-- R291. Inclusive prefix maximum over the active lanes. -/
  | vscanMax (d : BitVec 8) (a : BitVec 8)
  /-- R291. Inclusive prefix bitwise or over the active lanes. -/
  | vscanOr (d : BitVec 8) (a : BitVec 8)
  /-- R292. Fixed-tree sum of the active lanes, written to every active lane. -/
  | vreduceAdd (d : BitVec 8) (a : BitVec 8)
  /-- R292. Fixed-tree minimum of the active lanes. -/
  | vreduceMin (d : BitVec 8) (a : BitVec 8)
  /-- R292. Fixed-tree maximum of the active lanes. -/
  | vreduceMax (d : BitVec 8) (a : BitVec 8)
  /-- R292. Fixed-tree bitwise or of the active lanes. -/
  | vreduceOr (d : BitVec 8) (a : BitVec 8)
  /-- R271. Writes all 64 lanes of a predicate from a scalar. -/
  | mset (d : BitVec 4) (a : BitVec 8)
  /-- R271. Reads a predicate into a scalar. -/
  | mget (d : BitVec 8) (a : BitVec 4)
  /-- R271. Sets EXEC from a scalar, masked by the current mask M. -/
  | msetx (a : BitVec 8)
  /-- R271. Reads EXEC into a scalar. -/
  | mgetx (d : BitVec 8)
  /-- R272. Per-lane predicate and. -/
  | pand (d : BitVec 4) (a : BitVec 4) (b : BitVec 4)
  /-- R272. Per-lane predicate or. -/
  | por (d : BitVec 4) (a : BitVec 4) (b : BitVec 4)
  /-- R272. Per-lane predicate exclusive or. -/
  | pxor (d : BitVec 4) (a : BitVec 4) (b : BitVec 4)
  /-- R272. Per-lane predicate a and not b. -/
  | pandn (d : BitVec 4) (a : BitVec 4) (b : BitVec 4)
  /-- R293. Arrives at a collective that re-sorts the threads of the stage's warps on the core by key, once every participant has arrived. -/
  | reord (a : BitVec 8) (b : BitVec 8)
  /-- R299. Contiguous vector load through a handle with a scalar index. -/
  | ldv (d : BitVec 8) (i : BitVec 8) (h : BitVec 4) (w : BitVec 2) (g : BitVec 1) (s : BitVec 3)
  /-- R299. Per-lane load at per-lane offsets. -/
  | gather (d : BitVec 8) (i : BitVec 8) (h : BitVec 4) (w : BitVec 2) (g : BitVec 1) (s : BitVec 3)
  /-- R299. Contiguous vector store through a handle. -/
  | stv (d : BitVec 8) (i : BitVec 8) (h : BitVec 4) (w : BitVec 2) (g : BitVec 1) (s : BitVec 3)
  /-- R299. Per-lane store at per-lane offsets. -/
  | scatter (d : BitVec 8) (i : BitVec 8) (h : BitVec 4) (w : BitVec 2) (g : BitVec 1) (s : BitVec 3)
  /-- R301. Per-lane load from the context's constant bank. -/
  | ldc (d : BitVec 8) (i : BitVec 8) (w : BitVec 2) (g : BitVec 1) (s : BitVec 3)
  /-- R300. Warp-once scalar load. -/
  | sld (d : BitVec 8) (i : BitVec 8) (h : BitVec 4) (w : BitVec 2) (g : BitVec 1) (s : BitVec 3)
  /-- R300. Warp-once scalar store. -/
  | sst (d : BitVec 8) (i : BitVec 8) (h : BitVec 4) (w : BitVec 2) (g : BitVec 1) (s : BitVec 3)
  /-- R299. Gather that is an acquire at MODE.DS. -/
  | lda (d : BitVec 8) (i : BitVec 8) (h : BitVec 4) (w : BitVec 2) (g : BitVec 1) (s : BitVec 3)
  /-- R299. Scatter that is a release at MODE.DS. -/
  | stl (d : BitVec 8) (i : BitVec 8) (h : BitVec 4) (w : BitVec 2) (g : BitVec 1) (s : BitVec 3)
  /-- R304. Loads a whole tile named by coordinate into a register range, decoding Attar streams. -/
  | tld (d : BitVec 8) (i : BitVec 8) (h : BitVec 4)
  /-- R305. Stores a whole tile from a register range, through the encoder for Attar handles. -/
  | tst (d : BitVec 8) (i : BitVec 8) (h : BitVec 4)
  /-- R307. Binds a handle register from a handle-table entry after the checks of R28. -/
  | hbind (h : BitVec 4) (a : BitVec 8)
  /-- R308. Installs a checked 128-bit pointer into a handle register. -/
  | hset (h : BitVec 4) (a : BitVec 8)
  /-- R309. Reads a doubleword of a handle's entry copy or a derived count into a scalar. -/
  | hqry (d : BitVec 8) (h : BitVec 4) (q : BitVec 4)
  /-- R311. Brings lines of a range into caches or mapped stash without making an access. -/
  | pref (d : BitVec 8) (a : BitVec 8) (h : BitVec 4)
  /-- R312. Writes back dirty IP copies of a range. -/
  | flush (d : BitVec 8) (a : BitVec 8) (h : BitVec 4)
  /-- R312. Discards IP copies of a range. -/
  | inval (d : BitVec 8) (a : BitVec 8) (h : BitVec 4)
  /-- R313. Publishes the WOS lines of a range as a release at system scope. -/
  | pub (d : BitVec 8) (a : BitVec 8) (h : BitVec 4)
  /-- R314. Writes a stash map entry binding stash lines to a global range. -/
  | smap (d : BitVec 8) (a : BitVec 8) (h : BitVec 4)
  /-- R315. Removes a stash map entry after writing back dirty IP lines. -/
  | sunmap (a : BitVec 8)
  /-- R319. Returning atomic add per active lane. -/
  | atomAdd (d : BitVec 8) (i : BitVec 8) (h : BitVec 4) (w : BitVec 1) (r : BitVec 2)
  /-- R319. Returning atomic minimum. -/
  | atomMin (d : BitVec 8) (i : BitVec 8) (h : BitVec 4) (w : BitVec 1) (r : BitVec 2)
  /-- R319. Returning atomic maximum. -/
  | atomMax (d : BitVec 8) (i : BitVec 8) (h : BitVec 4) (w : BitVec 1) (r : BitVec 2)
  /-- R319. Returning atomic and. -/
  | atomAnd (d : BitVec 8) (i : BitVec 8) (h : BitVec 4) (w : BitVec 1) (r : BitVec 2)
  /-- R319. Returning atomic or. -/
  | atomOr (d : BitVec 8) (i : BitVec 8) (h : BitVec 4) (w : BitVec 1) (r : BitVec 2)
  /-- R319. Returning atomic exclusive or. -/
  | atomXor (d : BitVec 8) (i : BitVec 8) (h : BitVec 4) (w : BitVec 1) (r : BitVec 2)
  /-- R319. Returning atomic exchange. -/
  | atomXchg (d : BitVec 8) (i : BitVec 8) (h : BitVec 4) (w : BitVec 1) (r : BitVec 2)
  /-- R319. Returning atomic compare-and-swap. -/
  | atomCas (d : BitVec 8) (i : BitVec 8) (h : BitVec 4) (w : BitVec 1) (r : BitVec 2)
  /-- R319. Non-returning reduction add, possibly combined in a U copy. -/
  | redAdd (d : BitVec 8) (i : BitVec 8) (h : BitVec 4) (w : BitVec 1) (r : BitVec 2)
  /-- R319. Non-returning reduction minimum. -/
  | redMin (d : BitVec 8) (i : BitVec 8) (h : BitVec 4) (w : BitVec 1) (r : BitVec 2)
  /-- R319. Non-returning reduction maximum. -/
  | redMax (d : BitVec 8) (i : BitVec 8) (h : BitVec 4) (w : BitVec 1) (r : BitVec 2)
  /-- R319. Non-returning reduction and. -/
  | redAnd (d : BitVec 8) (i : BitVec 8) (h : BitVec 4) (w : BitVec 1) (r : BitVec 2)
  /-- R319. Non-returning reduction or. -/
  | redOr (d : BitVec 8) (i : BitVec 8) (h : BitVec 4) (w : BitVec 1) (r : BitVec 2)
  /-- R319. Non-returning reduction exclusive or. -/
  | redXor (d : BitVec 8) (i : BitVec 8) (h : BitVec 4) (w : BitVec 1) (r : BitVec 2)
  /-- R324. Arrives once on a stash barrier word and returns the phase token. -/
  | barArrive (d : BitVec 8) (a : BitVec 8) (h : BitVec 4)
  /-- R324. Returns at once if the phase differs from the token, otherwise parks on the word. -/
  | barWait (d : BitVec 8) (a : BitVec 8) (h : BitVec 4)
  /-- R324. Arrives n times on a stash barrier word. -/
  | barArriveN (d : BitVec 8) (a : BitVec 8) (h : BitVec 4)
  /-- R325. Claims register blocks, parking until the pool grants them. -/
  | rclm (a : BitVec 8)
  /-- R325. Releases register blocks to the pool. -/
  | rrel (a : BitVec 8)
  /-- R325. Reads the warp's claimed-block mask. -/
  | rqry (d : BitVec 8)
  /-- R325. Reads a snapshot of the core's register pool. -/
  | rqpool (d : BitVec 8)
  /-- R326. The run-ahead processor appends an entry to a block queue, parking while it is full. -/
  | qpush (q : BitVec 3) (a : BitVec 8)
  /-- R328. Scalar key-value translation by the run-ahead processor. -/
  | kvxs (d : BitVec 8) (a : BitVec 8) (h : BitVec 4)
  /-- R327. Per-lane key-value block translation, recording unplaced blocks in REPLAY and posting migration requests. -/
  | kvx (d : BitVec 8) (i : BitVec 8) (h : BitVec 4)
  /-- R331. Remote load from a tether window or peer device. -/
  | rld (d : BitVec 8) (o : BitVec 8) (p : BitVec 8) (h : BitVec 2)
  /-- R331. Remote store. -/
  | rst (d : BitVec 8) (o : BitVec 8) (p : BitVec 8) (h : BitVec 2)
  /-- R331. Remote returning atomic. -/
  | ratom (d : BitVec 8) (o : BitVec 8) (p : BitVec 8) (h : BitVec 2)
  /-- R331. Remote non-returning reduction. -/
  | rred (d : BitVec 8) (o : BitVec 8) (p : BitVec 8) (h : BitVec 2)
  /-- R333. Multicast store to every member's window through the multicast home. -/
  | mcst (d : BitVec 8) (o : BitVec 8) (p : BitVec 8) (h : BitVec 2)
  /-- R342. Matrix multiply-accumulate of an A and B tile into an accumulator. -/
  | mma (c : BitVec 2) (a : BitVec 4) (b : BitVec 4) (s : BitVec 6) (t : BitVec 6) (z : BitVec 1)
  /-- R344. Matrix multiply-accumulate with a diagonal mask. -/
  | mmat (c : BitVec 2) (a : BitVec 4) (b : BitVec 4) (s : BitVec 6) (t : BitVec 6) (z : BitVec 1)
  /-- R345. Accord-paired matrix multiply sharing the B fetch and decode. -/
  | mmap (c : BitVec 2) (a : BitVec 4) (b : BitVec 4) (s : BitVec 6) (t : BitVec 6) (z : BitVec 1)
  /-- R347. Zeroes the active rows of an accumulator and resets their row state. -/
  | accz (c : BitVec 2)
  /-- R348. Loads a tile or row state into an accumulator. -/
  | accld (c : BitVec 2) (h : BitVec 4) (s : BitVec 6)
  /-- R349. Stores an accumulator or row state, converting or encoding it. -/
  | accst (c : BitVec 2) (h : BitVec 4) (s : BitVec 6)
  /-- R351. Paired guidance step applied to the conditional twin's accumulator. -/
  | accg (c : BitVec 2) (s : BitVec 6)
  /-- R352. Updates the row maxima and correction factors from an accumulator. -/
  | accmax (c : BitVec 2) (s : BitVec 6)
  /-- R353. Replaces accumulator elements with E4M3-quantised exponentials. -/
  | accexp (c : BitVec 2) (s : BitVec 6)
  /-- R354. Rescales and sums rows into the row state and optionally normalises. -/
  | accsum (c : BitVec 2) (m : BitVec 2) (s : BitVec 6)
  /-- R365. Copy engine copies bytes between two references. -/
  | cpy (d : BitVec 6) (a : BitVec 6) (b : BitVec 6)
  /-- R365. Copy engine gathers indexed rows. -/
  | gath (d : BitVec 6) (a : BitVec 6) (b : BitVec 6)
  /-- R365. Copy engine scatters rows to indexed places. -/
  | scat (d : BitVec 6) (a : BitVec 6) (b : BitVec 6)
  /-- R365. Copies one Attar tile stream and its entry. -/
  | tcpy (r : BitVec 1) (d : BitVec 6) (a : BitVec 6) (b : BitVec 6)
  /-- R365. Writes a 64-bit pattern over a range. -/
  | fill (d : BitVec 6) (a : BitVec 6) (b : BitVec 6)
  /-- R365. Decodes one Attar tile to codes and scales or to F32 values. -/
  | tdec (d : BitVec 6) (a : BitVec 6) (b : BitVec 6)
  /-- R366. Encoder writes a tile from values at its existing OFFSET. -/
  | encv (d : BitVec 6) (a : BitVec 6) (b : BitVec 6)
  /-- R366. Encoder writes a tile from codes and scales at its existing OFFSET. -/
  | encc (d : BitVec 6) (a : BitVec 6) (b : BitVec 6)
  /-- R366. Encoder writes a tile from values at a given OFFSET, packing tightly. -/
  | encvp (d : BitVec 6) (a : BitVec 6) (b : BitVec 6)
  /-- R366. Encoder writes a tile from codes at a given OFFSET. -/
  | enccp (d : BitVec 6) (a : BitVec 6) (b : BitVec 6)
  /-- R367. Migration engine moves whole 64 KiB pages between HBM4E and LPDDR-6. -/
  | migp (d : BitVec 6) (a : BitVec 6) (b : BitVec 6)
  /-- R367. Migration engine moves one key-value block under R113. -/
  | migb (r : BitVec 1) (d : BitVec 6) (a : BitVec 6) (b : BitVec 6)
  /-- R368. AV1 engine decodes a batch of temporal units into output frames. -/
  | avdec (r : BitVec 1) (d : BitVec 6) (a : BitVec 6) (b : BitVec 6)
  /-- R371. Collective broadcast from the root. -/
  | cbcast (d : BitVec 6) (a : BitVec 6) (b : BitVec 6)
  /-- R371. Collective reduction to the root. -/
  | creduce (d : BitVec 6) (a : BitVec 6) (b : BitVec 6)
  /-- R371. Collective reduction to every member. -/
  | callred (d : BitVec 6) (a : BitVec 6) (b : BitVec 6)
  /-- R371. Collective gather to every member. -/
  | cgath (d : BitVec 6) (a : BitVec 6) (b : BitVec 6)
  /-- R372. Defines a tile in the lowest free tile-table entry. -/
  | tdef (d : BitVec 6) (a : BitVec 6)
  /-- R372. Releases a tile-table entry. -/
  | trel (r : BitVec 1) (d : BitVec 6) (a : BitVec 6)
  /-- R372. Marks a tile filled by the warp's stash stores, FILLING then READY. -/
  | trdy (r : BitVec 1) (d : BitVec 6) (a : BitVec 6)
  /-- R372. Drains a READY tile to EMPTY once earlier readers complete. -/
  | tdrn (r : BitVec 1) (d : BitVec 6) (a : BitVec 6)
  /-- R372. Returns the tile-table entry whose range equals the word. -/
  | tqry (d : BitVec 6) (a : BitVec 6)
  /-- R359. Loads a validated code-table image into a slot. -/
  | ctload (a : BitVec 8) (s : BitVec 6)
  /-- R359. Writes a slot's image to memory. -/
  | ctsave (a : BitVec 8) (s : BitVec 6)
  /-- R359. Empties a code-table slot. -/
  | ctinv (s : BitVec 6)
  /-- R238. Writes a 20-bit immediate, interpreted under MODE.ET, to a scalar register. -/
  | smovi (d : BitVec 8) (i : BitVec 20)
  /-- R238. Writes a 20-bit immediate, interpreted under MODE.ET, to the active lanes. -/
  | movi (d : BitVec 8) (i : BitVec 20)
  /-- R188. A pending load, tile load or returning atomic writes its destination and releases the interlock. -/
  | loadComplete (wid : Nat) (k : Nat)
  /-- R127. A tracked store is acknowledged by its home and its flag decrements. -/
  | storePerformed (wid : Nat)
  /-- R138. A read parked on an unpublished WOS line reaches the deferral limit and takes WOS_TIMEOUT. -/
  | wosTimeout (wid : Nat) (k : Nat)
  /-- R270. A sleeping warp's 64·n clocks elapse and it becomes eligible. -/
  | sleepEnd (wid : Nat)
  /-- R196. A twin waiting at MMAP for PW × 16 clocks issues alone. -/
  | accordWaitExpire (wid : Nat)
  /-- R391. A block parked on intra-block waits for DLTMO traps each parked warp with a DEADLOCK code. -/
  | deadlockDetect (bid : Nat)
  /-- R92. The pool grants the oldest waiting claim once enough slots are available. -/
  | rclmGrant (core : BitVec 8)
  /-- R338. A matrix instruction's operands are fetched, decoded and checked, raising any operand fault. -/
  | matrixAccept (wid : Nat)
  /-- R338. A matrix or ACC instruction's effects are applied and its flag decrements. -/
  | matrixComplete (wid : Nat)
  /-- R226. The die's start sequencer grants a gated engine a start; it is ready 16 clocks later. -/
  | engineStartGrant (die : BitVec 2)
  /-- R226. An engine idle for 256 clocks is power-gated. -/
  | engineGate (engine : BitVec 10)
  /-- R362. An engine command ends with a status that becomes the reply, an imprecise fault or the node result. -/
  | engineCompletion (cmd : Nat)
  /-- R209. A store to a monitored TAIL line makes the queue processor re-read TAIL, or disable the queue on a bad value. -/
  | tailChange (queue : BitVec 10)
  /-- R217. A change to a monitored semaphore line re-evaluates the waits that have not latched. -/
  | semLineChange (ctx : BitVec 16)
  /-- R222. A node completes done or FAULTED, and a FAULTED completion stops its context. -/
  | nodeComplete (seq : BitVec 64)
  /-- R466. A node running longer than WDOG ms is stopped and then completes FAULTED with TIMER. -/
  | nodeWatchdog (seq : BitVec 64)
  /-- R223. The leader of a ready gang node sends RESERVE to each member device and starts the GANGTMO timer. -/
  | gangReserve (seq : BitVec 64)
  /-- R223. GANGTMO expires before all acknowledgements arrive; RELEASE is sent, or GANG_ABORT after attempt 4. -/
  | gangTimeout (seq : BitVec 64)
  /-- R223. Attempt a + 1 of a gang launch starts a × GANGTMO after the timeout. -/
  | gangRetry (seq : BitVec 64)
  /-- R395. The graph engine switches a context out, saving its state to the image. -/
  | contextSwitchOut (ctx : BitVec 16)
  /-- R396. A switched-out context is admitted again and its warps resume. -/
  | contextRestore (ctx : BitVec 16)
  /-- R113. The migration engine serves the next request of a context's ring, moving one block. -/
  | migrationRequest (ctx : BitVec 16)
  /-- R331. A remote load request resolved and performed at the target: beside its message fields, the MODE captured at issue, the handle's
space and the gang (R40, R331). -/
  | rldRequest (src : BitVec 10) (tag : BitVec 16) (ctx : BitVec 16) (mask : BitVec 64) (peer : BitVec 32) (index : BitVec 16) (mode : BitVec 32) (space : BitVec 3) (gang : BitVec 16) (offsets : List (BitVec 32))
  /-- R331. A remote store request at the target. -/
  | rstRequest (src : BitVec 10) (tag : BitVec 16) (ctx : BitVec 16) (mask : BitVec 64) (peer : BitVec 32) (index : BitVec 16) (mode : BitVec 32) (space : BitVec 3) (gang : BitVec 16) (offsets : List (BitVec 32)) (data : List (BitVec 128))
  /-- R331. A remote atomic request at the target. -/
  | ratomRequest (src : BitVec 10) (tag : BitVec 16) (ctx : BitVec 16) (mask : BitVec 64) (peer : BitVec 32) (index : BitVec 16) (mode : BitVec 32) (space : BitVec 3) (gang : BitVec 16) (offsets : List (BitVec 32)) (data : List (BitVec 128))
  /-- R331. A remote reduction request at the target. -/
  | rredRequest (src : BitVec 10) (tag : BitVec 16) (ctx : BitVec 16) (mask : BitVec 64) (peer : BitVec 32) (index : BitVec 16) (mode : BitVec 32) (space : BitVec 3) (gang : BitVec 16) (offsets : List (BitVec 32)) (data : List (BitVec 128))
  /-- R422. A multicast store ordered at the multicast home and copied to each member: `place` is a copy's place in the order (R149). -/
  | mcstRequest (src : BitVec 10) (tag : BitVec 16) (ctx : BitVec 16) (mask : BitVec 64) (peer : BitVec 32) (index : BitVec 16) (mode : BitVec 32) (space : BitVec 3) (gang : BitVec 16) (offsets : List (BitVec 32)) (data : List (BitVec 128)) (place : Option Nat)
  /-- R331. A remote answer that completes lanes, carrying data for RLD and RATOM. -/
  | ack (src : BitVec 10) (tag : BitVec 16) (data : List (BitVec 64))
  /-- R332. A receiver-not-ready answer that schedules a retry of the refused lanes. -/
  | rnr (src : BitVec 10) (tag : BitVec 16) (mask : BitVec 64) (reason : BitVec 8)
  /-- R331. A remote error answer that poisons lanes or raises an imprecise fault. -/
  | err (src : BitVec 10) (tag : BitVec 16) (mask : BitVec 64) (code : BitVec 8) (detail : BitVec 8)
  /-- R332. The back-off expires and the refused lanes are resent, or exhausted after RNRLIMIT. -/
  | rnrRetry (tag : BitVec 16)
  /-- R169. Message that makes a device stop issue, drain, write back and save state, then report cut done. -/
  | cut (n : Nat)
  /-- R169. Message that starts the next interval. -/
  | resume (n : Nat)
  /-- R173. Message that commits an interval: undo records are discarded, mirrors promoted, outputs released. -/
  | commit (n : Nat)
  /-- R179, R182. Message that makes every device of the domain roll back to the last committed cut. -/
  | abort (n : AbortBody)
  /-- R223. A member device's acknowledgement of a gang reservation reaches the leader, and the last one before the timer ends makes the leader send COMMIT. -/
  | gangAcknowledgement (seq : BitVec 64) (member : BitVec 10)
  /-- R223. Message in which a member device journals a gang reservation, parks its members at entry and acknowledges. -/
  | reserve (leader : BitVec 10) (seq : BitVec 64) (ctx : BitVec 16) (card : BitVec 2048)
  /-- R223. Message that lets parked gang members begin. -/
  | gcommit (leader : BitVec 10) (seq : BitVec 64)
  /-- R223. Message that frees a gang reservation. -/
  | grelease (leader : BitVec 10) (seq : BitVec 64)
  /-- R388. An imprecise fault arrives and joins the warp's pending queue or the fault ring. -/
  | lateFault (wid : Nat) (record : BitVec 512)
  /-- R387. At an instruction boundary the oldest pending imprecise fault is delivered as a trap. -/
  | impreciseFaultDelivery (wid : Nat)
  /-- R376. CYC reaches CYCDL and TIMER fires at the next boundary. -/
  | ttrapDeadline (wid : Nat)
  /-- R376. WALL reaches WALLDL and TIMER fires at the next boundary. -/
  | tdeadDeadline (wid : Nat)
  /-- R168. A write of the checkpoint configuration, applied from the next interval or refused with CFGERR. -/
  | ckptCfg (value : BitVec 64)
  /-- R405. A write of the fabric configuration, or CFGERR when out of range. -/
  | fabCfg (value : BitVec 64)
  /-- R460. A write of the power cap, or CAPERR when out of range. -/
  | pwrCfg (value : BitVec 64)
  /-- R464. A write of the telemetry selector that snapshots the counter into TLM_DATA. -/
  | tlmSel (value : BitVec 64)
  /-- R15. A write to a hub control register with no row of its own, including W1C clears and writes ignored while GO = 1. -/
  | registerWrite (offset : BitVec 16) (value : BitVec 64)
  /-- R178. No heartbeat for HBTMO ms, or a fatal fault, makes the fabric manager declare a device dead. -/
  | deviceDeclaredDead (ident : BitVec 10)
  /-- R407. A standby takes a dead identity and loads the buddy's committed mirror. -/
  | standbySubstitute (ident : BitVec 10) (vertex : BitVec 10) (incarn : BitVec 16)
  /-- R177. An uncorrectable soft error clears SOUND and leads the domain to roll back. -/
  | uncorrectableError (line : BitVec 45)
  /-- R169. Message reporting a device's cut done to the fabric manager. -/
  | cutdone (n : Nat) (src : BitVec 10)
  /-- R173. Message carrying a device's sound or unsound vote for an interval. -/
  | vote (n : Nat) (src : BitVec 10) (sound : Bool)
  /-- R178. Heartbeat message. -/
  | heartbeat (src : HeartbeatBody)
  /-- R171. Message carrying a line of a protected page. -/
  | mirror (src : BitVec 10) (frame : BitVec 36) (offset : BitVec 16) (data : MirrorBody)
  /-- R171. Message in which the buddy acknowledges a mirrored page. -/
  | mirrorack (frame : BitVec 36)
  /-- R407. Management message by which the fabric manager writes fabric registers and tables. -/
  | fmwrite (offset : BitVec 16) (value : BitVec 64)
  /-- R456. SPDM request served by the security controller. -/
  | spdm (code : BitVec 8) (body : List (BitVec 8))
  /-- R458. Authenticated request that fills an empty memory-key slot. -/
  | keyset (slot : BitVec 7) (key : BitVec 512) (authorised : Bool)
  /-- R458. Authenticated request that empties a key slot at the next commit. -/
  | keyerase (slot : BitVec 7) (authorised : Bool)
  /-- R419. SPDM vendor request that starts a link rekey once a bank has carried 2^47 flits. -/
  | rekey (port : BitVec 6)
  /-- R419. Message showing the receiver has installed the new key bank, so the transmitter switches KG. -/
  | keyrdy (port : BitVec 6)
  /-- R419. Message that makes the receiver erase the old key bank. -/
  | retire (port : BitVec 6)
  /-- R457. A message at the I3C management endpoint, served or dropped by type. -/
  | mctpMessage (kind : BitVec 8) (secured : Bool) (body : List (BitVec 8))
  /-- R416. A received flit is checked, acknowledged and forwarded or delivered, with stale flits dropped. -/
  | flit (port : BitVec 6) (header : BitVec 64) (payload : List (BitVec 8)) (tagOk : Bool)
  /-- R416. The transmitter resends from the named LSEQ byte for byte. -/
  | nak (port : BitVec 6) (lseq : BitVec 12)
  /-- R412. Sixteen consecutive failed replays take a link DOWN. -/
  | linkDown (port : BitVec 6)
  /-- R403. A port trains, checks the peer's vertex and sets up its SPDM session. -/
  | linkTrain (port : BitVec 6) (vertex : BitVec 10)
  /-- R409. A delivery acknowledgement that lets a flow change its path. -/
  | dack (dst : BitVec 10) (cls : BitVec 2)
  /-- R162. Coherence request for a shared copy at the home. -/
  | readShared (agent : BitVec 12) (line : BitVec 45)
  /-- R162. Coherence request for ownership, invalidating other copies. -/
  | readOwn (agent : BitVec 12) (line : BitVec 45)
  /-- R163. Coherence request for a U copy for reductions. -/
  | readUpdate (agent : BitVec 12) (line : BitVec 45) (op : BitVec 3) (wide : Bool) (type : BitVec 4)
  /-- R162. A dirty line written back to its home. -/
  | writeBack (agent : BitVec 12) (line : BitVec 45) (mask : BitVec 128) (data : BitVec 1024)
  /-- R162. Coherence invalidation of a die's copy and its core copies. -/
  | invalidate (agent : BitVec 12) (line : BitVec 45)
  /-- R161. Coherence update of a copy with written bytes. -/
  | update (agent : BitVec 12) (line : BitVec 45) (mask : BitVec 128) (data : BitVec 1024)
  /-- R164. The home recalls U copies, which return their partials. -/
  | recall (agent : BitVec 12) (line : BitVec 45)
  /-- R164. A returned reduction partial combined at the home in agent order. -/
  | partialReturn (agent : BitVec 12) (line : BitVec 45)
  /-- R162. The home grants a requested line state. -/
  | grant (agent : BitVec 12) (line : BitVec 45) (state : BitVec 3)
  /-- R162. A coherence acknowledgement. -/
  | acknowledge (agent : BitVec 12) (line : BitVec 45)
  /-- R175. A host CXL.mem read or copy request, held while the line carries an interval mark. -/
  | hostMemRead (pa : BitVec 52) (copy : Bool)
  /-- R166. A host CXL.mem write, logged as input and merged into the home line. -/
  | hostMemWrite (pa : BitVec 52) (mask : BitVec 64) (data : BitVec 512)
  /-- R165. A host snoop of a line that the bridge caches. -/
  | hostSnoop (pa : BitVec 52) (state : BitVec 3)
  /-- R428. An NVMe command completes; a failed read or write is handled under R113. -/
  | nvmeCompletion (drive : BitVec 2) (status : BitVec 16)
  /-- R455. After power-good the hub runs the secure boot steps. -/
  | powerGood (verified : Bool)
  /-- R461. Power above CAP or junction at 105 °C delays matrix issue until clear for 1 ms. -/
  | throttle (avg : BitVec 12) (tmax : BitVec 12)
  /-- R461. At 115 °C the device reports a fatal fault. -/
  | thermalFatal (tmax : BitVec 12)
  /-- R461. Once power and temperature have been below their limits for 1 ms, throttling ends and matrix instructions issue back to back again. -/
  | throttleClear (avg : BitVec 12) (tmax : BitVec 12)
  /-- R240. Does nothing and takes a scalar/branch/system issue slot. -/
  | nop
  /-- R269. Marks the active lanes exited; the warp ends when no lane remains, or it resumes a path from the stack. -/
  | exit
  /-- R270. The warp is not selected in the next clock for any slot in which another warp is eligible. -/
  | yield
  /-- R267. Pops the call entry, restores its lanes and jumps to LR. -/
  | ret
  /-- R374. Pops the topmost trap entry, restores EXEC, FLOOR and RP, and resumes at the recorded resume point. -/
  | tret
  /-- R335. Gang-wide rendezvous that returns when every member has reached the round; acts as a release and an acquire at gang scope. -/
  | tattach
  /-- R334. Waits until every remote access of the warp is acknowledged, then marks the warp detached. -/
  | tdetach
  /-- R317. Waits for the store queue to empty. -/
  | fenceWarp
  /-- R317. Fence at block scope. -/
  | fenceBlk
  /-- R317. Fence at device scope. -/
  | fenceDev
  /-- R317. Fence at gang scope. -/
  | fenceGang
  /-- R317. Fence at system scope. -/
  | fenceSys
  /-- R129. Orders the warp's accesses against engine commands and matrix instructions in both directions. -/
  | fenceXp
  /-- R59. Translation request that shoots down a VA range. -/
  | xlateInval
  /-- R58. Translation request that shoots down every translation of a context. -/
  | xlateInvalctx
  /-- R60. Translation request that splinters a large leaf into a table of smaller leaves. -/
  | xlateSplinter
  /-- R63. Translation request that changes the attribute and key of a range in stages. -/
  | xlateAttrchg
  /-- R58. Translation request that rewrites the permissions of a range and shoots it down. -/
  | xlatePerm
  /-- R59. A translation request ends once its shootdown completes, setting DONE or ERR and ECODE. -/
  | xlateRequestEnd
  /-- R209. QCTL request that enables a submission queue, reading the descriptor and HEAD and monitoring TAIL. -/
  | queueEnable
  /-- R207. QCTL request that disables a queue after the cards already read are accepted. -/
  | queueDisable
  /-- R207. CTXCTL request that reports whether a context is stopped. -/
  | ctxQuery
  /-- R207. CTXCTL request that resumes dispatch of a stopped context. -/
  | ctxResume
  /-- R207. CTXCTL request that stops dispatch of a context. -/
  | ctxStop
  /-- R210. The queue processor reads, numbers, journals and checks one card, enters it in the ready pool and advances HEAD. -/
  | cardAccept
  /-- R220. The graph engine dispatches a ready node's next block or command to a fitting unit. -/
  | nodeDispatch
  /-- R220. Each full millisecond a ready node waits raises its effective priority by one. -/
  | priorityAging
  /-- R169. INTERVAL ms after the previous cut, the fabric manager issues the next cut. -/
  | intervalCut
  /-- R170. A full undo log ends the open interval early with a cut. -/
  | undoLogFull
  /-- R178. Each millisecond of WALL the device sends a heartbeat to the fabric manager. -/
  | heartbeatTick
  /-- R181. A full mirror copy to a new buddy completes and commits resume. -/
  | rebuildDone
  /-- R462. The coolant flow signal drops while running and the device reports a fatal fault. -/
  | flowLoss
  /-- R455. The cold plate's flow signal is asserted, which lets the compute dies leave reset at boot step 4. -/
  | flowSignalAsserted
  deriving DecidableEq, Repr

end Sys2Proof
end

