-- ==== Sys2Proof/Machine/State.lean ====
section
/-!
DEFINITION. The state of the Usson as plain data: the architectural state of a warp (spec/08, R187 to R204), of its block and
context, of the memories and the structures that the spec names at the homes, of the hub's registers and queues, and of the
fabric attachment; then the machine right after reset. Each field cites the rule that names it.
-/
namespace Sys2Proof.Machine

/-! ## A warp -/

/-- One lane of a vector register with its poison bit; a poisoned lane holds its fault code zero-extended (R65). -/
structure Lane where
  val : Word
  poison : Bool
  deriving DecidableEq, Repr

/-- One lane of a predicate register with its poison bit and the code it was poisoned with (R65). -/
structure PLane where
  bit : Bool
  poison : Bool
  code : Byte
  deriving DecidableEq, Repr

/-- A scalar register with its poison bit; a poisoned one holds its fault code zero-extended (R65). -/
structure Scalar where
  val : DWord
  poison : Bool
  deriving DecidableEq, Repr

/-- A handle register: the entry copy and the translation part of R33; `regionW` is the W bit of the region captured at
binding (R32), `leaf` the leaf through which the window translates (R36, R38). -/
structure Handle where
  bound : Bool
  tbl : Bool
  index : BitVec 16
  win : BitVec 41
  frame : PA
  entry : BitVec 512
  regionW : Bool
  leaf : BitVec 128
  deriving DecidableEq, Repr

/-- One row of an accumulator tile with its poison bit and code (R336). An F32 element stands in the low half. -/
structure AccRow where
  elems : Vector DWord 64
  poison : Bool
  code : Byte
  deriving DecidableEq, Repr

/-- An accumulator tile: its format tag, true for F64, and its rows (R336). -/
structure Acc where
  f64 : Bool
  rows : Vector AccRow 64
  deriving DecidableEq, Repr

/-- The row state of one row: MAX, SUM, SUMC, CORR as FP32, with its poison bit and code (R336). -/
structure RowState where
  max : Word
  sum : Word
  sumc : Word
  corr : Word
  poison : Bool
  code : Byte
  deriving DecidableEq, Repr

/-- State of a die's copy of a tracked line (R160). -/
inductive LineState where
  | m | e | s | u
  deriving DecidableEq, Repr

/-- What a warp waits for (R391 to R393 tell them apart); `line` is a host line that it asks for (R162), `refill` are register blocks that are
read back from their backing (R93). -/
inductive Park where
  | flags | interlock | storeQueue | barrier (offset : Nat) (token : Bool) | claim (blocks : BitVec 29) | queue (q : BitVec 3)
  | accg | reord | tile | wos | tattach | accord | sleep | detach | fence | matrix | gang | scoreboard | splinter | requests
  | refill (blocks : BitVec 29)
  | line (agent line : Nat) (want : LineState)
  deriving DecidableEq, Repr

/-- Whether a warp runs (R186): `vacant` is a warp slot that holds no warp, `done` a warp that has ended, `halted` one that
R390 stopped. -/
inductive Status where
  | vacant | running | parked (p : Park) | done | halted
  deriving DecidableEq, Repr

/-- What a warp keeps of a path of a split that is not the one in focus, where its partition's pool gave the split an entry (R194): where it
stands, its lanes and current mask, its pending reconvergence point, the clause in its instruction buffer and what it waits for. -/
structure PathCtx where
  pc : VA
  enter : Bool
  clause : BitVec 512
  exec : Mask
  m : Mask
  rp : Option VA
  status : Status
  since : Nat
  woken : Bool
  deriving DecidableEq, Repr

/-- KIND of a divergence-stack entry (R193). -/
inductive EntryKind where
  | join | path | call | trap
  deriving DecidableEq, Repr

/-- A divergence-stack entry (R193). `m` is the current mask in effect when it was pushed; `running` marks a path entry of which a path has
ended, and the other runs (R194). `pooled` marks a split that holds an entry of its partition's pool, `other` the path of it that is not in
focus. -/
structure StackEntry where
  kind : EntryKind
  rpc : VA
  pc : VA
  mask : Mask
  m : Mask
  running : Bool
  pooled : Bool
  other : Option PathCtx
  deriving DecidableEq, Repr

/-- Where one access goes: a stash byte offset of the block (for a mapped line of an IP page also the physical address it
fills from), or a physical address; with the attribute and key of its leaf (R36, R62, R98). -/
structure Place where
  stash : Bool
  off : Nat
  pa : Nat
  va : VA
  attr : BitVec 2
  key : BitVec 7
  deriving DecidableEq, Repr

/-- One lane of a returning atomic that is not yet performed: its place, operation, element type, width in bytes and operands (R319). -/
structure AtomJob where
  place : Place
  op : BitVec 3
  type : BitVec 4
  size : Nat
  x : DWord
  y : DWord
  deriving DecidableEq, Repr

/-- What a lane of a pending load will receive: a value, poison with its origin (R64, R67), the read of an unpublished WOS
line that is parked (R138), or the old value of an atomic to be performed (R319). `fresh` marks a fault raised by this access, as against
poison passed on. -/
inductive LanePlan where
  | value (v : DWord)
  | poison (code detail : Byte) (va : VA) (fresh : Bool)
  | parked (p : Place)
  | atom (a : AtomJob)
  deriving DecidableEq, Repr

/-- One lane of a pending load. -/
structure LaneJob where
  lane : Nat
  plan : LanePlan
  deriving DecidableEq, Repr

/-- The destination of a pending load (R188): vector lanes of a size in bytes and signedness (R296), a scalar, or the
register range of a tile load (R303), whose jobs count lanes across registers. -/
inductive PendKind where
  | vec (d : Nat) (size : Nat) (signed : Bool)
  | scalar (d : Nat) (size : Nat) (signed : Bool)
  | tile (d : Nat)
  deriving DecidableEq, Repr

/-- A pending load, tile load or returning atomic (R188): its interlocked vector registers, its flag (R192), and the
resident clock at which it began to park (R138). `acquire` marks an access that holds the warp's later accesses until it is
performed, and `rel` is the scope of one that is a release (R124); `hreg` is its handle register. -/
structure PendLoad where
  kind : PendKind
  jobs : List LaneJob
  regs : List Nat
  flag : Option (Fin 12)
  pc : VA
  since : Nat
  acquire : Bool
  rel : Option (BitVec 3)
  hreg : BitVec 4
  deriving DecidableEq, Repr

/-- One lane's write in the store queue: `size` low bytes of `data` at a place. -/
structure LaneStore where
  lane : Nat
  place : Place
  size : Nat
  data : DWord
  deriving DecidableEq, Repr

/-- What an entry of the store queue does when it is performed (R120, R141, R137). -/
inductive StoreKind where
  | store
  | red (op : BitVec 3) (wide : Bool) (type : BitVec 4)
  | flush
  | inval
  | pub
  deriving DecidableEq, Repr

/-- An entry of the store queue (R120): its lanes, or the lines it acts on; `sc` marks an access to an SC page, which holds
the warp (R133), and `rel` the scope of a release (R124). `since` is the warp's clock at its issue, which places it in program
order among loads and remote accesses; `active` are the lanes it was issued for, which stand for a lane numbered 64 (R378). -/
structure StoreEntry where
  kind : StoreKind
  lanes : List LaneStore
  flag : Option (Fin 12)
  pc : VA
  hreg : BitVec 4
  sc : Bool
  rel : Option (BitVec 3)
  since : Nat
  active : Mask
  deriving DecidableEq, Repr

/-- A matrix instruction issued and not yet accepted (R338), or an ACCG that waits for its twin (R197, form 3): its form, operands and
captured handles (R37); `paired` marks a co-issued MMAP (R196); `id` is its place in the scoreboard with the stash lines it reads (R105). -/
structure MatReq where
  id : Nat
  paired : Bool
  reads : List (Nat × Nat)
  form : BitVec 2
  acc : Fin 4
  z : Bool
  handleA : Handle
  handleB : Handle
  hregA : BitVec 4
  hregB : BitVec 4
  coordA : List Nat
  coordB : List Nat
  diag : DWord
  fill : DWord
  active : Mask
  skip : Mask
  flag : Option (Fin 12)
  pc : VA
  deriving DecidableEq, Repr

/-- An accepted matrix or ACC instruction that the engine holds (R337, R338): the tile, row state and ZEROCNT it will leave,
its FORM (3 for an ACC form) and the micro-tiles done (R355); the clock from which the engine can work on it, and the clocks of a micro-tile. -/
structure MatWork where
  acc : Fin 4
  tile : Acc
  rowState : Vector RowState 64
  zeroAdd : Nat
  form : BitVec 2
  done : BitVec 8
  since : Nat
  step : Nat
  flag : Option (Fin 12)
  deriving DecidableEq, Repr

/-- A remote access that is not yet acknowledged (R330 to R332): its form, target, remaining lanes and retries. `ready` is the
WALL time at which a retry is sent. -/
structure Remote where
  tag : BitVec 16
  op : BitVec 3
  peer : Word
  target : BitVec 10
  index : BitVec 16
  /-- SPACE of the handle -/
  space : BitVec 3
  lanes : List (Nat × Word × BitVec 128)
  d : Nat
  size : Nat
  signed : Bool
  type : BitVec 4
  scope : BitVec 3
  retries : Nat
  ready : Option Nat
  sent : Bool
  since : Nat
  flag : Option (Fin 12)
  pc : VA
  hreg : BitVec 4
  /-- the scope of an atomic that is a release, which is sent once what it follows is performed (R124) -/
  rel : Option (BitVec 3)
  deriving DecidableEq, Repr

/-- The architectural state of a warp or of a run-ahead processor (R187, R202). -/
structure Warp where
  /-- model's own name of the warp -/
  wid : Nat
  /-- the context number, R205 -/
  ctx : BitVec 16
  /-- model's own name of the block -/
  bid : Nat
  /-- NODEID, R189 -/
  node : BitVec 64
  /-- WIDX of WARPID, R191 -/
  widx : BitVec 8
  /-- STAGE, R184 -/
  stage : BitVec 3
  /-- TWIN, R195 -/
  twin : Bool
  /-- the run-ahead processor of its block, R202 -/
  rap : Bool
  /-- SPAN, CORE, PART and SLOT of LOC, R191 -/
  span : BitVec 2
  core : BitVec 8
  part : BitVec 2
  slot : BitVec 4
  /-- the word to execute next, R187 -/
  pc : VA
  /-- the next word is reached by an entry, R228 -/
  enter : Bool
  /-- the clause held in the instruction buffer, R232 -/
  clause : BitVec 512
  status : Status
  /-- v0 to v231, R187 -/
  v : Vector (Vector Lane 64) 232
  /-- claimed register blocks, R89 -/
  claimed : BitVec 29
  /-- p0 to p15 (p0 is constant and its entry is not read), R187 -/
  p : Vector (Vector PLane 64) 16
  /-- s0 to s63, R187 -/
  s : Vector Scalar 64
  /-- h0 to h15, R33 -/
  h : Vector Handle 16
  /-- a0 to a3, R336 -/
  acc : Vector Acc 4
  /-- the row state, R336 -/
  rowState : Vector RowState 64
  /-- EXEC, R189 -/
  exec : Mask
  /-- MODE, R190 -/
  mode : Word
  /-- LR and LRHI, R189 -/
  lr : DWord
  lrhi : BitVec 16
  /-- TRAPMASK, R378 -/
  trapmask : Mask
  /-- REPLAY, R327 -/
  replay : Mask
  /-- ROWPROG, R343 -/
  rowprog : Mask
  /-- a matrix instruction is resumed by tret with ROWPROG, R343 -/
  rowResume : Bool
  /-- the matrix instruction that trapped in single rows and is to be resumed, whose rows ROWPROG names, R343 -/
  rowAt : Option VA
  /-- PEND, ACC, FORM and MTDONE of ACCSTAT, R358 -/
  accPend : BitVec 13
  /-- ZEROCNT, R353 -/
  zerocnt : DWord
  /-- the poison-origin record, R67 -/
  porig : BitVec 256
  /-- QSUB, R203 -/
  qsub : BitVec 8
  /-- the number of entries of each queue that the warp has read or skipped, R203 -/
  qpos : Vector Nat 8
  /-- CYCDL and WALLDL, R376 -/
  cycdl : DWord
  walldl : DWord
  /-- resident core clocks, CYC, R189 -/
  cyc : DWord
  /-- flag counters F0 to F11, R192 -/
  flags : Vector (BitVec 14) 12
  /-- the divergence stack, top first, R193 -/
  stack : List StackEntry
  /-- STACK.FLOOR, R191 -/
  floor : BitVec 9
  /-- the current mask, R193 -/
  m : Mask
  /-- lanes that have exited, R269 -/
  gone : Mask
  /-- the pending reconvergence point, R265 -/
  rp : Option VA
  /-- the store queue, oldest first, R120 -/
  stores : List StoreEntry
  /-- stores that have left the queue and are not yet acknowledged: the number their forwarded bytes carry and their flag, R121, R161 -/
  unacked : List (Nat × Option (Fin 12))
  /-- pending loads, oldest first, R188 -/
  loads : List PendLoad
  /-- the clock of a FENCE.XP in force: no later engine command or matrix instruction starts before the accesses issued before it are
  performed, R129 -/
  xp : Option Nat
  /-- QPUSH entries that wait for the earlier accesses of the processor: queue, entry, and the clock of their issue, R150 -/
  pushes : List (BitVec 3 × Scalar × Nat)
  /-- a matrix instruction awaiting acceptance, R338 -/
  matReq : Option MatReq
  /-- the accepted matrix or ACC instruction, R338 -/
  mat : Option MatWork
  /-- remote accesses in program order, R330 -/
  remotes : List Remote
  /-- the pending queue of imprecise faults, oldest first, R388 -/
  late : List (BitVec 512)
  /-- the newest record of the pending queue is a summary, R388; and a summary has been delivered -/
  summary : Bool
  summaryDone : Bool
  /-- the fault slot, R381 -/
  faultSlot : BitVec 512
  /-- the keys of a REORD arrival, lane by lane, captured at issue (R203, R293); empty when none has arrived -/
  keys : List Lane
  /-- the live mask of that arrival (R293) -/
  live : BitVec 29
  /-- the queue entry that the key of that arrival popped (R203, R294) -/
  keyPop : Option (Fin 8 × Scalar)
  /-- tdetach has been executed, R334 -/
  detached : Bool
  /-- tattach instructions executed, R335 -/
  attached : Nat
  /-- the clock at which a wait began, in resident clocks (R138, R196, R270, R391) -/
  since : Nat
  /-- the awaited change has happened: a phase flip, a grant, a wake (R153, R92) -/
  woken : Bool
  /-- the age counter: selections of its slot for which it was eligible and passed over since it last issued, R224 -/
  waited : Nat
  /-- it has yielded and not been passed over, nor selected, since (R270) -/
  yields : Bool
  /-- entries of the divergence stack that stand in the context image, R193 -/
  spilled : Nat
  /-- claimed register blocks that stand in their backing and have not been read back, and where in the image that backing lies, R93 -/
  away : BitVec 29
  backing : Nat
  deriving DecidableEq, Repr

/-! ## A block and a context -/

/-- One run-ahead queue of R203: the entries that have not retired, oldest first, and how many have retired. -/
structure Queue where
  entries : List Scalar
  retired : Nat
  deriving DecidableEq, Repr

/-- A mapped line that has been filled: its stash line, and for an IP page, marked so, the bytes written (R98, R99). -/
structure MappedLine where
  line : Nat
  ip : Bool
  dirty : BitVec 128
  deriving DecidableEq, Repr

/-- A block (R183, R187): coordinate, placement, stash, stash map, queues, and what its job card gives. -/
structure Block where
  bid : Nat
  ctx : BitVec 16
  node : BitVec 64
  x : BitVec 20
  y : BitVec 20
  z : BitVec 20
  /-- the first core of the block and its span, R185; its resident slot, R102 -/
  core : BitVec 8
  span : BitVec 2
  bslot : BitVec 6
  /-- bytes of one portion, S of R22, and the first data-store line of each portion (R95) -/
  portion : Nat
  base : Nat
  /-- stash bytes, canonical, an unlisted byte being zero (R96) -/
  stash : List Host.Cell
  smap : Vector (BitVec 128) 16
  mapped : List MappedLine
  queues : Vector Queue 8
  /-- the block has a run-ahead processor (R249) -/
  hasRap : Bool
  cbank : VA
  htab : VA
  code : VA
  accord : Bool
  /-- GCOUNT and MEMBER of GANG, R191; gang id, R213 -/
  gcount : BitVec 9
  member : BitVec 8
  gang : BitVec 16
  /-- the gang launch has committed, R199 -/
  started : Bool
  /-- every warp has ended and the member is held, R200 -/
  held : Bool
  /-- identities of the members' devices, R223 -/
  members : List (BitVec 10)
  /-- protection level, R172 -/
  prot : BitVec 2
  /-- the clock from which the deadlock condition has held, R391 -/
  stuckSince : Option Nat
  /-- the running count of MCST places applied, R149 -/
  mcast : Nat
  /-- the clock of its launch, the age of its warps, R224 -/
  launched : Nat
  /-- unmapped stash lines that stand in the context image and have not been read back, with their place in it, R101 -/
  awayLines : List (Nat × Nat)
  deriving DecidableEq, Repr

/-- A context (R205) with its image header (R398) and code tables (R77). -/
structure Ctx where
  num : BitVec 16
  /-- the descriptor read at enable, R205 -/
  desc : BitVec 1024
  /-- code-table slots, `none` empty (R77) -/
  tables : Vector (Option (BitVec 2048)) 64
  /-- TRAPVA, CFG and SWCNT of the image header, R398 -/
  trapva : VA
  cfg : Bool
  swcnt : DWord
  resident : Bool
  /-- the context is being switched out: its warps stand at their boundaries until its accesses are performed (R395) -/
  leaving : Bool
  /-- its tile-table entries while it is switched out, by 256 times the core plus the entry number (R395) -/
  tilesOut : List (Nat × DWord)
  /-- core clocks for which the context has been resident (R138) -/
  rclk : Nat
  deriving DecidableEq, Repr

/-! ## Memories -/

/-- A cached leaf (R54): its context, the first VA and the log2 of the size of its page, the PA of the entry and the entry. -/
structure TlbEntry where
  ctx : BitVec 16
  base : Nat
  log : Nat
  pte : Nat
  entry : BitVec 128
  deriving DecidableEq, Repr

/-- A cached entry that is no leaf (R54): its context, level and index path, and the table it names. -/
structure WalkEntry where
  ctx : BitVec 16
  level : Nat
  index : Nat
  table : Nat
  deriving DecidableEq, Repr

/-- A line whose stored ciphertext was written under another key than its frame's (R465): the key it was written under, and what it holds
under that key. -/
structure LineOrigin where
  line : Nat
  key : BitVec 7
  data : BitVec 1024
  deriving DecidableEq, Repr

/-- Bytes that a slice has forwarded to a core copy and the copy has not applied: the number of the store, the place in the line, the
bytes (R161). -/
structure Forwarded where
  sid : Nat
  off : Nat
  data : List Byte
  deriving DecidableEq, Repr

/-- A core's copy of a tracked line, which the die directory records (R159, R161): what the core's loads read, and the forwarded bytes it has
yet to apply, oldest first. -/
structure CoreCopy where
  core : Nat
  line : Nat
  data : BitVec 1024
  late : List Forwarded
  deriving DecidableEq, Repr

/-- A frame record (R53): attribute, key, and while CHANGING the new ones (R63). A frame not listed has RC and key 0. -/
structure FrameRec where
  frame : Nat
  attr : BitVec 2
  key : BitVec 7
  changing : Option (BitVec 2 × BitVec 7)
  deriving DecidableEq, Repr

/-- WOS state of a line (R136). -/
inductive Wos where
  | unwritten | filling | published
  deriving DecidableEq, Repr

/-- Who keeps a copy of an IP line (R139). -/
inductive IpHolder where
  | core (c : Nat)
  | die (d : Nat)
  deriving DecidableEq, Repr

/-- A copy of an IP line with its dirty bytes (R139, R140); `loose` are those that nodes of protection level 1 wrote (R172). -/
structure IpCopy where
  holder : IpHolder
  line : Nat
  data : BitVec 1024
  dirty : BitVec 128
  loose : BitVec 128
  deriving DecidableEq, Repr

/-- A directory record: agent number, line and state (R158 to R161). -/
structure DirEntry where
  agent : Nat
  line : Nat
  state : LineState
  deriving DecidableEq, Repr

/-- A U copy (R163): its agent, line, the recorded operation and type, and the partial of each element it has combined. -/
structure UCopy where
  agent : Nat
  line : Nat
  op : BitVec 3
  wide : Bool
  type : BitVec 4
  parts : List (Nat × DWord)
  deriving DecidableEq, Repr

/-- A record of the undo log (R170): a line's bytes and WOS state before its first write, or a frame record. `loose` stands for no
record: bytes of an IP line that a level-1 node wrote, which a rollback leaves unpredictable (R172), and `states` for the WOS states of a
frame that an ATTRCHG changed, which go back with its record. A line's record has ATTR and KEY of its frame and, where the line was written
under another key, its `origin` (R465). -/
inductive UndoRec where
  | line (interval line : Nat) (data : BitVec 1024) (wos : Option Wos) (prot : BitVec 2) (rec_ : FrameRec) (origin : Option LineOrigin)
  | frame (interval : Nat) (rec : FrameRec)
  | loose (interval line : Nat) (mask : BitVec 128)
  | states (interval frame : Nat) (old : List (Nat × Wos))
  deriving DecidableEq, Repr

/-- An output held until its interval commits (R174). -/
inductive Output where
  | write (pa : Nat) (data : List Byte)
  | msix (vector : BitVec 11)
  | nvme (drive : BitVec 2) (lba : Nat) (data : List Byte)
  | keyEraseReply (slot : BitVec 7)
  deriving DecidableEq, Repr

/-- A host write in the input log (R170, KIND 2; R174). -/
structure InputRec where
  interval : Nat
  seq : DWord
  pa : PA
  mask : BitVec 64
  data : BitVec 512
  deriving DecidableEq, Repr

/-- A host request held until the interval that marks its line commits (R175): a snoop with the state it asks for, or a read, which may
ask for a cacheable copy. -/
structure HostReq where
  snoop : Option (BitVec 3)
  copy : Bool
  pa : PA
  interval : Nat
  deriving DecidableEq, Repr

/-- A request for a host line that the bridge serves for its group (R162, R165): the agent, the line, the state wanted, and the agents that
have yet to give theirs up. -/
structure Ask where
  agent : Nat
  line : Nat
  want : LineState
  awaiting : List Nat
  deriving DecidableEq, Repr

/-- The memories of the device and what their homes keep. -/
structure Mem where
  /-- bytes by physical address (R51), canonical; an unlisted byte reads zero (log entry 1) -/
  cells : List Host.Cell
  /-- bytes of host and pooled memory as the host sees them: without the writes held until their interval commits (R174), in the same form -/
  hostMem : List Host.Cell
  /-- bytes of the drives (R428), keyed by drive·2^72 + byte address, in the same canonical form -/
  nvme : List Host.Cell
  tlb : List TlbEntry
  /-- the walk caches (R54) -/
  walks : List WalkEntry
  frames : List FrameRec
  /-- entries in which the Usson has set SPL (R49) -/
  splinters : List Nat
  wos : List (Nat × Wos)
  ip : List IpCopy
  /-- core copies of tracked lines, with the bytes on their way to them (R159, R161) -/
  copies : List CoreCopy
  /-- the number of the next store whose bytes are forwarded -/
  sid : Nat
  dir : List DirEntry
  ucopies : List UCopy
  /-- host halves held by the host: line half number and state (R166) -/
  hostDir : List (Nat × LineState)
  /-- host lines held for the group at the bridge (R165): agent, line, state -/
  bridgeDir : List DirEntry
  /-- requests of the group's dies that wait at the bridge, oldest first (R162, R165) -/
  asks : List Ask
  /-- host lines that agents of this device have asked for and not been granted, and whether the request has been sent (R162, R165) -/
  wants : List (Nat × Nat × LineState × Bool)
  /-- the state in which the bridge holds each 64-byte half of a host line from the host, by half number (R165) -/
  halves : List (Nat × LineState)
  undo : List UndoRec
  /-- lines written in an uncommitted interval, with that interval (R175) -/
  marks : List (Nat × Nat)
  outputs : List (Nat × Output)
  inputs : List InputRec
  hostHeld : List HostReq
  /-- data answered to the host, oldest first; `none` is poisoned data (R425) -/
  hostOut : List (PA × Option (BitVec 512))
  /-- slots 0 to 127 that hold a key (R52) -/
  keyFull : BitVec 128
  /-- escrowed key slots of the buddy ring (R459) -/
  escrow : List (BitVec 10 × BitVec 7)
  /-- the place of the next free value (R465) -/
  free : Nat
  /-- lines whose ciphertext was written under another key than their frame now has (R465) -/
  origins : List LineOrigin
  /-- lines struck by an uncorrectable error, whose value reaches nothing (R177) -/
  bad : List Nat
  /-- the open interval (R169) -/
  interval : Nat
  deriving DecidableEq, Repr

/-! ## Cores -/

/-- A waiting register claim (R92). -/
structure Claim where
  wid : Nat
  age : Nat
  blocks : BitVec 29
  deriving DecidableEq, Repr

/-- A core: FREE and EVICTABLE register slots (R91), waiting claims oldest first (R92), tile table (R102), stash granules in
use (R95), run-ahead and engine bookkeeping. -/
structure CoreState where
  free : Nat
  /-- EVICTABLE slots by the switched-out context that they hold, least recently used first (R91, R92) -/
  evictable : List (BitVec 16 × Nat)
  claims : List Claim
  tiles : Vector DWord 256
  granules : Nat
  deriving DecidableEq, Repr

/-- A matrix engine (R226): gated, its start request and its readiness, its last activity; when it last started an instruction (R461); the
contexts that own its two accumulator banks, most recently used first (R356). -/
structure Engine where
  gated : Bool
  requested : Option Nat
  readyAt : Nat
  idleSince : Nat
  startedAt : Option Nat
  banks : List (BitVec 16)
  deriving DecidableEq, Repr

/-- Who issued an engine command (R360, R213). -/
inductive Issuer where
  | warp (wid : Nat)
  | node (seq : BitVec 64)
  deriving DecidableEq, Repr

/-- An engine command (R360 to R372) from its issue until it completes. `fills` are the tile-table entries it fills or drains, as 256 times
the core plus the entry number, each with the entry before; `started` is set once R106 and R104 let it start; `since` is the clock of its
issue, `parkedAt` the resident clock at which its read began to park (R138). -/
structure Cmd where
  id : Nat
  func : BitVec 7
  reply : Bool
  d : BitVec 6
  opd : DWord
  opa : DWord
  opb : DWord
  issuer : Issuer
  ctx : BitVec 16
  bid : Nat
  core : BitVec 8
  /-- bindings captured at issue for the handle registers, R37 -/
  handles : List Handle
  htab : VA
  unit : Byte
  started : Bool
  fills : List (Nat × DWord)
  reads : List (Nat × Nat)
  writes : List (Nat × Nat)
  flag : Option (Fin 12)
  pc : VA
  active : Mask
  prot : BitVec 2
  since : Nat
  parkedAt : Option Nat
  /-- its node is stopped: it ends after the part in progress (R466) -/
  stopping : Bool
  deriving DecidableEq, Repr

/-! ## The hub -/

/-- STATE of a node (R212). -/
inductive NodeState where
  | accepted | ready | running | finished | faulted
  deriving DecidableEq, Repr

/-- A node of the ready pool (R213 to R222). -/
structure Node where
  seq : BitVec 64
  ctx : BitVec 16
  queue : BitVec 10
  count : DWord
  card : BitVec 2048
  state : NodeState
  /-- sequence numbers of the nodes with an edge into it (R146, R219) -/
  edges : List (BitVec 64)
  latched0 : Bool
  latched1 : Bool
  /-- effective priority and the WALL ns since which it has been ready (R220) -/
  prio : BitVec 3
  readySince : Nat
  /-- blocks dispatched and ended (R221, R222) -/
  dispatched : Nat
  ended : Nat
  firstDispatch : Option Nat
  fcode : Byte
  detail : Byte
  /-- gang launch: attempt, acknowledgements awaited, timer end (R223) -/
  attempt : Nat
  awaiting : List (BitVec 10)
  timer : Option Nat
  committed : Bool
  wall : DWord
  /-- the devices of its gang's members, as its launch attempt read them (R223) -/
  gangDevs : List (BitVec 10)
  /-- stopped by a fault, its check or its watchdog: nothing of it is dispatched any more (R390, R215, R466) -/
  stopped : Bool
  /-- the entry of its queue at acceptance (R208) -/
  qdesc : BitVec 512
  /-- the device that leads its gang where that is not this one: the node stands for a reservation (R223) -/
  leader : Option (BitVec 10)
  /-- WALL ns since which nodes below it have passed it over (R220) -/
  passedSince : Option Nat
  deriving DecidableEq, Repr

/-- A submission queue that is enabled (R208, R209). -/
structure SubQueue where
  num : BitVec 10
  desc : BitVec 512
  head : DWord
  tail : DWord
  deriving DecidableEq, Repr

/-- A gang reservation of a leader (R223): held by the device with its own journal number, which its members' NODEID is where another
device leads, or waiting to be served. `acked` says that its members are resident and that the leader has been told. -/
structure Reservation where
  leader : BitVec 10
  seq : BitVec 64
  ctx : BitVec 16
  card : BitVec 2048
  journal : DWord
  acked : Bool
  deriving DecidableEq, Repr

/-- A command accepted in an interval that has not committed, as a rollback replays it (R174, R179). -/
structure Accepted where
  interval : Nat
  seq : DWord
  ctx : BitVec 16
  queue : BitVec 10
  count : DWord
  card : BitVec 2048
  qdesc : BitVec 512
  deriving DecidableEq, Repr

/-- A completed node whose journal entry is still held: until the interval of its completion has committed and, when it is FAULTED, its
context has been resumed (R212). -/
structure Retained where
  seq : DWord
  ctx : BitVec 16
  interval : Nat
  faulted : Bool
  deriving DecidableEq, Repr

/-- A flit (R413): its header and its payload. -/
structure Flit where
  header : BitVec 64
  payload : List Byte
  deriving DecidableEq, Repr

/-- A port of the Bridle fabric (R405, R416 to R419). -/
structure Port where
  /-- REPLAYS, PEER, TXKG, B0, B1, REKEY and STATE of PORT_STAT -/
  replays : BitVec 16
  peer : BitVec 10
  txkg : Bool
  /-- the key banks that hold keys, of the sending and of the receiving direction; the receiving bank that holds the newest (R418, R419) -/
  txBanks : BitVec 2
  rxBanks : BitVec 2
  rxkg : Bool
  rekey : Bool
  state : BitVec 2
  /-- next LSEQ expected and to be sent; unacknowledged flits, oldest first (R416) -/
  rxSeq : BitVec 12
  txSeq : BitVec 12
  replay : List Flit
  fails : Nat
  /-- a NAK with the LSEQ next expected has been returned and not yet been answered (R416) -/
  nak : Bool
  /-- the interval from which a repaired link carries traffic again, 0 for a link that was never DOWN after training (R412) -/
  quiet : Nat
  /-- generation and flit count of the transmitting bank (R417, R418) -/
  generation : DWord
  count : DWord
  /-- a rekey waits for the end of the one in progress (R418) -/
  rekeyWaits : Bool
  /-- flits queued to send, oldest first -/
  outbox : List Flit
  deriving DecidableEq, Repr

/-- A message the device sends (R415): operation, destination identity, tag, address word, auxiliary word and body. -/
structure Message where
  mop : Byte
  dst : BitVec 10
  tag : BitVec 16
  addr : BitVec 80
  aux : BitVec 16
  body : List Byte
  deriving DecidableEq, Repr

/-- A line that the mirror holds for another device (R171): its source, the line, its bytes, and the state of line and frame as AUX of its
message gives them (log entry 48). -/
structure MirrorLine where
  src : BitVec 10
  line : Nat
  data : BitVec 1024
  state : BitVec 16
  deriving DecidableEq, Repr

/-- How a block move stands after a stage: not ended, ended with no change, moved, abandoned, the image lost, or stopped by a fault. -/
inductive MoveEnd where
  | pending | unchanged | moved | abandoned | lost
  | fault (code detail : Byte)
  deriving DecidableEq, Repr

/-- Where a block move stands (R113): its location to be taken, its image to be read or on its way from a drive, to be written or on its
way to a drive, its entry to be written, to be poisoned, or to be given back where the move ends without effect (`taken`: a location has been
taken for it), a location to be reclaimed; a migb move that a drive has ended keeps its outcome. -/
inductive MovePhase where
  | take | read | nvmeRead | write | nvmeWrite | publish | spoil
  | giveBack (e : MoveEnd) (taken : Bool)
  | reclaim (tier : BitVec 2) (loc : BitVec 80) (e : MoveEnd)
  | done (code detail : Byte) (info : Nat)
  deriving DecidableEq, Repr

/-- A splinter in progress (R60). -/
structure Splinter where
  pte : Nat
  entry : BitVec 128
  log : Nat
  base : Nat
  frame : Nat
  deriving DecidableEq, Repr

/-- The page moves of a migp command (R114, R367): the splinter in progress and those still needed, the ranges whose shootdown is awaited, the
pages still to be moved once the splinters are done, the page in progress, whose `frame` is its destination, and the 64 KiB pages moved. -/
structure PageMove where
  cmd : Nat
  split : Option Splinter
  todo : List (Nat × Nat × Nat)
  spans : List (Nat × Nat)
  pages : Option (List Nat)
  page : Option Splinter
  moved : Nat
  deriving DecidableEq, Repr

/-- A block move of the migration engine (R113): its block-table entry and destination tier; the migb command it serves, or `none` for a
request of the ring; the entry as step 2 wrote it, the location taken, the image, and the drive it waits for. -/
structure Move where
  ctx : BitVec 16
  eva : Nat
  dtier : BitVec 2
  cmd : Option Nat
  old : BitVec 128
  loc : BitVec 80
  phase : MovePhase
  waited : Bool
  image : List Byte
  deriving DecidableEq, Repr

/-- What the hub keeps of the last cuts for a rollback (R169, R179): the on-chip state and the scheduling state at the cut. -/
structure Saved where
  interval : Nat
  w : Warp
  b : Block
  x : Ctx
  warps : List Warp
  blocks : List Block
  ctxs : List Ctx
  cores : Vector CoreState 160
  cmds : List Cmd
  nodes : List Node
  queues : List SubQueue
  retained : List Retained
  reservation : Option Reservation
  waiting : List Reservation
  moves : List Move
  pageMove : Option PageMove
  stopped : List (BitVec 16)
  deriving DecidableEq, Repr

/-- The hub control registers (R453) and the hub's own queues. -/
structure Hub where
  /-- BOOT_STAT STAGE and FAIL (R454); the flow signal (R455) -/
  stage : BitVec 4
  fail : Bool
  flow : Bool
  /-- boot waits at step 4 for the flow signal (R455) -/
  bootWaits : Bool
  /-- CTXBASE, QTBASE, QCTL, CTXCTL, GANGCFG, JHEAD, JTAIL (R207) -/
  ctxbase : DWord
  qtbase : DWord
  qctl : Word
  ctxctl : Word
  gangcfg : DWord
  jhead : DWord
  jtail : DWord
  /-- contexts whose dispatch is stopped (R207) -/
  stopped : List (BitVec 16)
  /-- XLATE_VA0, VA1, CNT, ARG, CTL (R57) -/
  xva0 : DWord
  xva1 : DWord
  xcnt : DWord
  xarg : DWord
  xctl : Word
  /-- the outcome of the running translation request: its ECODE, 0 for none (R58) -/
  xdone : Option (BitVec 4)
  /-- the splinter in progress for the request: where the leaf's entry lies, the entry with SPL set, its log2 size, the first VA of its
  page and the table frame (R60) -/
  xsplit : Option Splinter
  /-- the splinters that the request still needs: page, log2 size, table frame (R61) -/
  xtodo : List (Nat × Nat × Nat)
  /-- the ranges whose shootdown the request awaits (R59) -/
  xspans : List (Nat × Nat)
  /-- CKPT_CFG, and CKPT_STAT (R168) -/
  ckptcfg : DWord
  ckptNext : DWord
  lastCommit : Nat
  incarn : BitVec 16
  rebuild : Bool
  ckptErr : Bool
  sound : Bool
  /-- the cut in progress, votes and cut-done reports received as the fabric manager (R169, R173) -/
  cutting : Bool
  /-- this device has reported cut done and awaits resume (R169) -/
  cutReported : Bool
  /-- the state at the cuts that have not committed, oldest first, and at the last that has (R179) -/
  saved : List Saved
  /-- intervals for which a vote is still to be sent (R173) -/
  votesDue : List Nat
  cutsDone : List (BitVec 10)
  votes : List (Nat × BitVec 10)
  lastCut : Nat
  /-- frames streamed to the buddy that it has not acknowledged (R171) -/
  mirrorPending : List Nat
  /-- mirror messages of intervals whose predecessor has not committed: interval and message (R171) -/
  mirrorQueue : List (Nat × Message)
  /-- mirror messages streamed in intervals that have not committed (R171) -/
  mirrorSent : List (Nat × Message)
  /-- mirror generations held for other devices: pending and committed (R171) -/
  mirrorNew : List MirrorLine
  mirrorOld : List MirrorLine
  /-- devices that are making a full copy of their pages here (R181) -/
  copying : List (BitVec 10)
  /-- identities of the domain that no device holds now (R178, R179); and, as the fabric manager notes them, those whose device has died and
  has not voted since (R182) -/
  awaited : List (BitVec 10)
  frail : List (BitVec 10)
  /-- devices that have reported a fatal fault (R178) -/
  fatals : List (BitVec 10)
  /-- the interval whose cut the fabric manager has issued last (R169) -/
  cutNumber : Nat
  /-- heartbeats received: identity and WALL ns (R178); WALL ns of the last one sent -/
  beats : List (BitVec 10 × Nat)
  lastBeat : Nat
  /-- a fatal fault has been reported (R178) -/
  fatal : Bool
  /-- ready pool, submission queues, round-robin positions of acceptance and of dispatch (R210, R220) -/
  nodes : List Node
  queues : List SubQueue
  turn : BitVec 10
  dispatchTurn : BitVec 10
  reservation : Option Reservation
  /-- RESERVE messages waiting to be served, oldest first (R223) -/
  waiting : List Reservation
  /-- numbers whose journal slots await their STATE 7 entries; accepted commands to replay; completed nodes still journalled (R212) -/
  gaps : List DWord
  accepted : List Accepted
  retained : List Retained
  /-- block moves of the migration engine in progress (R113) -/
  moves : List Move
  /-- page moves of the migration engine in progress (R114) -/
  pageMove : Option PageMove
  /-- the last card accepted from each queue (SERIAL, R219) -/
  serials : List (BitVec 10 × BitVec 64)
  /-- fault records, by context, and writes of hub units, by context and VA, that wait behind a splinter or an ATTRCHG (R47, R63) -/
  ringDue : List (BitVec 16 × BitVec 512)
  writesDue : List (BitVec 16 × Nat × List Byte)
  /-- PWR_CFG and PWR_STAT (R460), throttling since (R461) -/
  cap : BitVec 12
  avg : BitVec 12
  tmax : BitVec 12
  capErr : Bool
  hot : Bool
  thr : Bool
  /-- TLM_SEL and TLM_DATA; counters by index and instance (R464) -/
  tlmSel : DWord
  tlmData : DWord
  counters : List (BitVec 16 × Word × DWord)
  /-- replies of the security controller and of the management endpoint, oldest first (R456, R457) -/
  replies : List (List Byte)
  msix : List (BitVec 11)
  /-- the next free engine-command, block and warp names, and the next remote tag -/
  nextCmd : Nat
  nextBid : Nat
  nextWid : Nat
  nextTag : BitVec 16
  deriving DecidableEq, Repr

/-- A remote request as its target sees it (R331, R415, R420): operation (0 rld, 1 rst, 2 ratom, 3 rred, 4 mcst), source, tag, context,
peer word, handle index, the MODE captured at issue, the handle's space, the gang, its lanes with offset and data, and of a multicast
copy its place in the order (R149). -/
structure RemoteReq where
  op : BitVec 3
  src : BitVec 10
  tag : BitVec 16
  ctx : BitVec 16
  peer : Word
  index : BitVec 16
  mode : Word
  space : BitVec 3
  gang : BitVec 16
  lanes : List (Nat × Word × BitVec 128)
  place : Option Nat
  deriving DecidableEq, Repr

/-- A request held at its target (R331, R138): the resident clock of its context since which it waits, its lanes that wait, the data of the lanes
already performed, and the numbers of its stores whose bytes may be on their way to core copies (R161). -/
structure ParkedReq where
  since : Nat
  request : RemoteReq
  done : List (Nat × DWord)
  sids : List Nat
  deriving DecidableEq, Repr

/-- A copy of a multicast store that a member has not applied: the member, the lanes it has not answered for, the tag of the message, the
retries made, and the WALL time of the next one (R333). A copy held behind an earlier one has no tag. -/
structure McCopy where
  member : Nat
  mask : Mask
  tag : Option (BitVec 16)
  retries : Nat
  ready : Option Nat
  deriving DecidableEq, Repr

/-- A multicast store at its home (R149, R333, R422): its gang and place, the request, the members' identities, the copies that are not
yet applied, and the code and detail of a copy that failed. -/
structure Multicast where
  gang : BitVec 16
  place : Nat
  request : RemoteReq
  members : List (BitVec 10)
  copies : List McCopy
  failed : Option (Byte × Byte)
  deriving DecidableEq, Repr

/-- The fabric attachment (R402 to R430). -/
structure Fabric where
  /-- STANDBY, MATE, BRIDGE, FM, IDENT, VERTEX of FAB_ID -/
  standby : Bool
  mate : Bool
  bridge : Bool
  fm : Bool
  ident : BitVec 10
  vertex : BitVec 10
  /-- FAB_CFG: CFGERR, RNRLIMIT, ADTH -/
  cfgErr : Bool
  rnrlimit : BitVec 5
  adth : BitVec 4
  /-- FAB_DOM: BUDDY, FMID, BRID, DOMAIN -/
  buddy : BitVec 10
  fmid : BitVec 10
  brid : BitVec 10
  domain : BitVec 10
  /-- FAB_DROP -/
  stale : DWord
  ports : Vector Port 36
  /-- location table, by identity; an identity not listed reads 0 (R406) -/
  loc : List (BitVec 10 × DWord)
  /-- route table, by vertex; a vertex not listed reads the reset entry (R408) -/
  route : List (BitVec 10 × DWord)
  /-- off-device windows (R426) -/
  windows : Vector (BitVec 128) 64
  /-- flows: destination and class, with the messages not yet acknowledged by DACK (R409) and the path's middle vertex -/
  flows : List (BitVec 10 × BitVec 2 × Nat × Option (BitVec 10))
  /-- the multicast order of the gangs homed here: gang and next place; the stores not yet applied by every member (R149, R333) -/
  mcast : List (BitVec 16 × Nat)
  multicasts : List Multicast
  /-- remote requests with lanes parked here (R331, R138) -/
  parked : List ParkedReq
  /-- messages to send, oldest first -/
  outbox : List Message
  /-- payload bytes received of messages that are not complete yet: source and class (R415) -/
  partials : List (BitVec 10 × BitVec 2 × List Byte)
  /-- host requests copied to the mate and not released, by interval: the address and, of a write, its mask and data (R427) -/
  copied : List (Nat × PA × Option (BitVec 64 × BitVec 512))
  deriving DecidableEq, Repr

/-! ## The device -/

/-- The state of the device. The warp in focus, its block and its context stand apart from the others; all other agents act
through `inbox`, the events that are to happen, oldest first. -/
structure State where
  w : Warp
  b : Block
  x : Ctx
  warps : List Warp
  blocks : List Block
  ctxs : List Ctx
  cores : Vector CoreState 160
  engines : Vector Engine 640
  cmds : List Cmd
  m : Mem
  hub : Hub
  fab : Fabric
  /-- core clocks since reset (R7) -/
  clk : Nat
  inbox : List Instr
  /-- instructions that the warp in focus may still issue before the other agents take their turn (the model's own, R186) -/
  turn : Nat
  /-- the issue slot whose turn it was, as 4 times the partition plus the slot, and the warps that its partition has selected in this clock
  (R224, R225) -/
  pick : Nat
  picked : List Nat
  /-- the clock of each die's last engine start grant (R226) -/
  grantAt : Vector Nat 4
  deriving DecidableEq, Repr

/-- How a step can end without a next state. -/
inductive Fault where
  /-- Stands for a physical access to a range that R51 marks "none". No instruction raises it: the page rules of R49 turn such an access
  into a trap before it reaches the home. Safe. -/
  | noMemory
  deriving DecidableEq, Repr

/-- Why an instruction is refused. -/
inductive Refusal where
  /-- Answered by an arm of `exec` whose instruction has no meaning yet, with its mnemonic. Safe. -/
  | notModelled (mnemonic : String)
  deriving DecidableEq, Repr

/-! ## Reset -/

/-- A lane that reads zero, unpoisoned (R89). -/
def Lane.zero : Lane := ⟨0#32, false⟩
/-- A clear predicate lane (R187). -/
def PLane.zero : PLane := ⟨false, false, 0#8⟩
/-- A zero scalar (R187). -/
def Scalar.zero : Scalar := ⟨0#64, false⟩
/-- A handle register at warp launch (R33). -/
def Handle.unbound : Handle :=
  { bound := false, tbl := false, index := 0#16, win := 0#41, frame := 0#52, entry := 0#512, regionW := false, leaf := 0#128 }
/-- An accumulator row at warp launch: +0, clean (R336). -/
def AccRow.zero : AccRow := { elems := Vector.replicate 64 0#64, poison := false, code := 0#8 }
/-- An accumulator tile at warp launch: tag F32 (R336). -/
def Acc.zero : Acc := { f64 := false, rows := Vector.replicate 64 AccRow.zero }
/-- The row state at warp launch: MAX −∞, SUM and SUMC +0, CORR 1.0 (R336). -/
def RowState.launch : RowState :=
  { max := 0xFF800000#32, sum := 0#32, sumc := 0#32, corr := 0x3F800000#32, poison := false, code := 0#8 }

/-- A warp slot at warp launch, holding no warp yet (R187, R189). -/
def Warp.empty : Warp :=
  { wid := 0, ctx := 0#16, bid := 0, node := 0#64, widx := 0#8, stage := 0#3, twin := false, rap := false, span := 0#2,
    core := 0#8, part := 0#2, slot := 0#4, pc := 0#80, enter := true, clause := 0#512, status := .vacant,
    v := Vector.replicate 232 (Vector.replicate 64 Lane.zero), claimed := 0#29,
    p := Vector.replicate 16 (Vector.replicate 64 PLane.zero), s := Vector.replicate 64 Scalar.zero,
    h := Vector.replicate 16 Handle.unbound, acc := Vector.replicate 4 Acc.zero,
    rowState := Vector.replicate 64 RowState.launch, exec := 0xFFFFFFFFFFFFFFFF#64, mode := 0#32, lr := 0#64, lrhi := 0#16,
    trapmask := 0#64, replay := 0#64, rowprog := 0#64, rowResume := false, rowAt := none, accPend := 0#13, zerocnt := 0#64, porig := 0#256,
    qsub := 0#8, qpos := Vector.replicate 8 0, cycdl := 0#64, walldl := 0#64, cyc := 0#64,
    flags := Vector.replicate 12 0#14, stack := [], floor := 0#9, m := 0xFFFFFFFFFFFFFFFF#64, gone := 0#64, rp := none,
    stores := [], unacked := [], loads := [], xp := none, pushes := [], matReq := none, mat := none, remotes := [], late := [], summary := false,
    summaryDone := false, faultSlot := 0#512, keys := [], live := 0#29, keyPop := none, detached := false, attached := 0, since := 0, woken := false, waited := 0, yields := false,
    spilled := 0, away := 0#29, backing := 0 }

/-- A block slot that holds no block. -/
def Block.empty : Block :=
  { bid := 0, ctx := 0#16, node := 0#64, x := 0#20, y := 0#20, z := 0#20, core := 0#8, span := 1#2, bslot := 0#6, portion := 0, base := 0,
    stash := [], smap := Vector.replicate 16 0#128, mapped := [], queues := Vector.replicate 8 { entries := [], retired := 0 },
    hasRap := false, cbank := 0#80, htab := 0#80, code := 0#80, accord := false, gcount := 0#9, member := 0#8, gang := 0#16,
    started := true, held := false, members := [], prot := 0#2, stuckSince := none, mcast := 0, launched := 0, awayLines := [] }

/-- A context that no queue has enabled yet; its code-table slots are empty (R77). -/
def Ctx.empty : Ctx :=
  { num := 0#16, desc := 0#1024, tables := Vector.replicate 64 none, trapva := 0#80, cfg := false, swcnt := 0#64,
    resident := true, leaving := false, tilesOut := [], rclk := 0 }

/-- The memories after reset: nothing listed, every frame RC under key 0 (R53), slot 0 full (R458). -/
def Mem.reset : Mem :=
  { cells := [], hostMem := [], nvme := [], tlb := [], walks := [], frames := [], splinters := [], wos := [], ip := [], copies := [], sid := 0, dir := [], ucopies := [],
    hostDir := [], bridgeDir := [], asks := [], wants := [], halves := [], undo := [], marks := [], outputs := [], inputs := [], hostHeld := [], hostOut := [],
    keyFull := 1#128, escrow := [], free := 0, origins := [], bad := [], interval := 1 }

/-- A core after reset: 1,024 FREE slots (R91) and an empty tile table, UNIT 0xFF in every entry (R102). -/
def CoreState.reset : CoreState :=
  { free := 1024, evictable := [], claims := [], tiles := Vector.replicate 256 0xFF00#64, granules := 0 }

/-- A port after reset: DOWN (R405). -/
def Port.reset : Port :=
  { replays := 0#16, peer := 0x3FF#10, txkg := false, txBanks := 0#2, rxBanks := 0#2, rxkg := false, rekey := false, state := 0#2, rxSeq := 0#12,
    txSeq := 0#12, replay := [], fails := 0, nak := false, quiet := 0, generation := 0#64, count := 0#64, rekeyWaits := false, outbox := [] }

/-- The hub after reset: each register at the Reset column of its table. -/
def Hub.reset : Hub :=
  { stage := 0#4, fail := false, flow := false, bootWaits := false, ctxbase := 0#64, qtbase := 0#64, qctl := 0#32, ctxctl := 0#32,
    gangcfg := 0x7D0#64, jhead := 1#64, jtail := 1#64, stopped := [], xva0 := 0#64, xva1 := 0#64, xcnt := 0#64, xarg := 0#64,
    xctl := 0#32, xdone := none, xsplit := none, xtodo := [], xspans := [], moves := [], pageMove := none, serials := [], ringDue := [], writesDue := [], ckptcfg := 0x0000001400000064#64, ckptNext := 0x0000001400000064#64, lastCommit := 0,
    incarn := 1#16, rebuild := false, ckptErr := false, sound := true, cutting := false, cutReported := false, saved := [], votesDue := [], cutsDone := [], votes := [],
    lastCut := 0, mirrorPending := [], mirrorQueue := [], mirrorSent := [], mirrorNew := [], mirrorOld := [],
    copying := [], awaited := [], frail := [], fatals := [], cutNumber := 0, beats := [], lastBeat := 0, fatal := false, nodes := [],
    queues := [], turn := 0#10, dispatchTurn := 0#10, reservation := none, waiting := [], gaps := [], accepted := [], retained := [], cap := 0x960#12, avg := 0#12, tmax := 0#12, capErr := false, hot := false,
    thr := false, tlmSel := 0#64, tlmData := 0#64, counters := [], replies := [], msix := [], nextCmd := 0, nextBid := 1,
    nextWid := 1, nextTag := 0#16 }

/-- The fabric attachment after reset: a standby without identity (R405). -/
def Fabric.reset : Fabric :=
  { standby := true, mate := false, bridge := false, fm := false, ident := 0x3FF#10, vertex := Config.vertex, cfgErr := false,
    rnrlimit := 8#5, adth := 4#4, buddy := 0x3FF#10, fmid := 0x3FF#10, brid := 0x3FF#10, domain := 0#10, stale := 0#64,
    ports := Vector.replicate 36 Port.reset, loc := [], route := [], windows := Vector.replicate 64 0#128, flows := [], mcast := [], multicasts := [], parked := [],
    outbox := [], partials := [], copied := [] }

/-- The device right after reset: no warp, no block, every unit at its reset values. -/
def State.reset : State :=
  { w := Warp.empty, b := Block.empty, x := Ctx.empty, warps := [], blocks := [], ctxs := [],
    cores := Vector.replicate 160 CoreState.reset,
    engines := Vector.replicate 640 { gated := true, requested := none, readyAt := 0, idleSince := 0, startedAt := none, banks := [] },
    cmds := [], m := Mem.reset, hub := Hub.reset, fab := Fabric.reset, clk := 0, inbox := [], turn := 64, pick := 0, picked := [],
    grantAt := Vector.replicate 4 0 }

end Sys2Proof.Machine
end

