-- ==== Sys2Proof/Machine/Vec.lean ====
section
/-!
DEFINITION. Vectors built entry by entry, lane masks, and the bit-level helpers of the manual's pseudocode (spec/01, R14, R18).
-/
namespace Sys2Proof.Machine

/-- The vector of length `n` whose entry `i` is `f i`. -/
def vecOf {α : Type} (n : Nat) (f : Fin n → α) : Vector α n := ⟨(List.ofFn f).toArray, by simp⟩

/-- Lane by lane. -/
def lanesOf {α : Type} (f : Fin 64 → α) : Vector α 64 := vecOf 64 f

/-- The lanes for which `f` holds, as a mask (R6). -/
def laneMask (f : Fin 64 → Bool) : Mask := BitVec.ofFnLE f

/-- The lanes of a mask in ascending order. -/
def laneList (m : Mask) : List (Fin 64) := (List.finRange 64).filter fun l => m.getLsbD l

/-- The lowest lane of a list of lanes' mask for which `f` holds. -/
def firstLane (m : Mask) (f : Fin 64 → Bool) : Option (Fin 64) := (laneList m).find? f

/-- Bits [lo + n − 1 : lo] of a value (R14). -/
def bits {k : Nat} (x : BitVec k) (lo n : Nat) : BitVec n := x.extractLsb' lo n

/-- A field as a number. -/
def bitsNat {k : Nat} (x : BitVec k) (lo n : Nat) : Nat := (x.extractLsb' lo n).toNat

/-- `x` with the field of `n` bits at `lo` replaced by `v`. -/
def setBits {k : Nat} (x : BitVec k) (lo n : Nat) (v : BitVec n) : BitVec k :=
  (x &&& ~~~((BitVec.allOnes n).setWidth k <<< lo)) ||| (v.setWidth k <<< lo)

/-- The value of a field as a number shifted to its place, for building a record. -/
def atBit (lo : Nat) (v : Nat) : Nat := v * 2 ^ lo

/-- The number of leading zeros of a value of width `n`. -/
def clzNat (n v : Nat) : Nat := if v = 0 then n else n - 1 - Nat.log2 v

/-- The number of set bits of the low `n` bits. -/
def popNat (n v : Nat) : Nat := ((List.range n).filter fun i => v.testBit i).length

/-- The low `n` bits in reverse order. -/
def revNat (n v : Nat) : Nat := (List.range n).foldl (fun r i => r * 2 + (v / 2 ^ i) % 2) 0

/-- Byte `i` of a number, counted from the least significant (R14). -/
def byteOf (v i : Nat) : Byte := BitVec.ofNat 8 (v / 256 ^ i)

/-- The number whose little-endian bytes these are (R14). -/
def natOfBytes : List Byte → Nat
  | [] => 0
  | b :: bs => b.toNat + 256 * natOfBytes bs

/-- The `n` little-endian bytes of a number (R14). -/
def bytesOfNat (n v : Nat) : List Byte := (List.range n).map (byteOf v)

/-- Two's complement of the low `n` bits as an integer. -/
def signedNat (n v : Nat) : Int := if (v % 2 ^ n) < 2 ^ (n - 1) then ((v % 2 ^ n : Nat) : Int) else ((v % 2 ^ n : Nat) : Int) - 2 ^ n

/-- An integer reduced to `n` bits. -/
def wrapInt (n : Nat) (v : Int) : Nat := (v % (2 ^ n : Int)).toNat

/-- Rounded-up division. -/
def ceilDiv (a b : Nat) : Nat := (a + b - 1) / b

/-- A list with entry `i` replaced. -/
def setAt {α : Type} (l : List α) (i : Nat) (a : α) : List α := l.set i a

/-- Whether two ranges of numbers, each by start and length, share a member. -/
def rangesMeet (a n b k : Nat) : Bool := 0 < n && 0 < k && a < b + k && b < a + n

end Sys2Proof.Machine
end

