-- ==== Sys2Proof/Machine/Float.lean ====
section
/-!
DEFINITION. Element types (spec/01, R19, R20), their values, rounding (spec/11, R261), special values (R262) and the exact
arithmetic that the floating-point forms round once. Every operation is computed exactly on integers and rounded at the end.
-/
namespace Sys2Proof.Machine

/-- Element types (R19). -/
inductive Elem where
  | n8 | s8 | n16 | s16 | n32 | s32 | n64 | s64 | f16 | bf16 | f32 | f64 | e4m3 | e5m2 | e2m1 | mxi8
  deriving DecidableEq, Repr

/-- The type of a code (R19). -/
def Elem.ofCode (c : BitVec 4) : Elem :=
  match c.toNat with
  | 0 => .n8 | 1 => .s8 | 2 => .n16 | 3 => .s16 | 4 => .n32 | 5 => .s32 | 6 => .n64 | 7 => .s64
  | 8 => .f16 | 9 => .bf16 | 10 => .f32 | 11 => .f64 | 12 => .e4m3 | 13 => .e5m2 | 14 => .e2m1 | _ => .mxi8

/-- The code of a type (R19). -/
def Elem.code : Elem → BitVec 4
  | .n8 => 0 | .s8 => 1 | .n16 => 2 | .s16 => 3 | .n32 => 4 | .s32 => 5 | .n64 => 6 | .s64 => 7
  | .f16 => 8 | .bf16 => 9 | .f32 => 10 | .f64 => 11 | .e4m3 => 12 | .e5m2 => 13 | .e2m1 => 14 | .mxi8 => 15

/-- Width in bits (R19). -/
def Elem.width : Elem → Nat
  | .n8 | .s8 | .e4m3 | .e5m2 | .mxi8 => 8
  | .n16 | .s16 | .f16 | .bf16 => 16
  | .n32 | .s32 | .f32 => 32
  | .n64 | .s64 | .f64 => 64
  | .e2m1 => 4

/-- The integer types (R259). -/
def Elem.isInt : Elem → Bool
  | .n8 | .s8 | .n16 | .s16 | .n32 | .s32 | .n64 | .s64 => true
  | _ => false

/-- The signed integer types (R259). -/
def Elem.isSigned : Elem → Bool
  | .s8 | .s16 | .s32 | .s64 => true
  | _ => false

/-- The types that the floating-point forms accept (R260). -/
def Elem.isFloat : Elem → Bool
  | .f16 | .bf16 | .f32 | .f64 => true
  | _ => false

/-- The types whose vector operands are register pairs (R236). -/
def Elem.isPair : Elem → Bool
  | .n64 | .s64 | .f64 => true
  | _ => false

/-- Rounding codes (R21). -/
inductive Rm where
  | rne | rtz | rdn | rup
  deriving DecidableEq, Repr

/-- The rounding mode of a code (R21). -/
def Rm.ofCode (c : BitVec 2) : Rm :=
  match c.toNat with
  | 0 => .rne | 1 => .rtz | 2 => .rdn | _ => .rup

/-- A floating-point value: NaN, an infinity, or ±m·2^e; a zero keeps its sign. -/
inductive FVal where
  | nan
  | inf (neg : Bool)
  | fin (neg : Bool) (m : Nat) (e : Int)
  deriving DecidableEq, Repr

/-- Fraction bits, exponent bits and bias of a binary format (R19). -/
structure Fmt where
  frac : Nat
  exp : Nat
  bias : Nat
  deriving DecidableEq, Repr

/-- The format of each type with an exponent (R19, R261). -/
def Elem.fmt : Elem → Fmt
  | .f16 => ⟨10, 5, 15⟩ | .bf16 => ⟨7, 8, 127⟩ | .f64 => ⟨52, 11, 1023⟩ | .e4m3 => ⟨3, 4, 7⟩ | .e5m2 => ⟨2, 5, 15⟩
  | .e2m1 => ⟨1, 2, 1⟩ | _ => ⟨23, 8, 127⟩

/-- The smallest normal exponent, emin of R261. -/
def Fmt.emin (f : Fmt) : Int := 1 - f.bias

/-- The largest finite magnitude of R261 as m·2^e. -/
def Elem.maxFin : Elem → Nat × Int
  | .f16 => (2047, 5) | .bf16 => (255, 120) | .f64 => (9007199254740991, 971) | .e4m3 => (14, 5) | .e5m2 => (7, 13)
  | .e2m1 => (3, 1) | _ => (16777215, 104)

/-- The value of a bit pattern of a type with an exponent; integers and MXINT8 elements have their own readings (R19, R283). -/
def Elem.value (t : Elem) (v : Nat) : FVal :=
  match t with
  | .mxi8 => let i := signedNat 8 v; .fin (i < 0) i.natAbs (-6)
  | .n8 | .n16 | .n32 | .n64 => .fin false (v % 2 ^ t.width) 0
  | .s8 | .s16 | .s32 | .s64 => let i := signedNat t.width v; .fin (i < 0) i.natAbs 0
  | _ =>
    let f := t.fmt
    let neg := v.testBit (f.frac + f.exp)
    let x := v / 2 ^ f.frac % 2 ^ f.exp
    let r := v % 2 ^ f.frac
    if (t = .e4m3 ∧ x = 15 ∧ r = 7) then .nan
    else if (t ≠ .e4m3 ∧ t ≠ .e2m1 ∧ x = 2 ^ f.exp - 1) then (if r = 0 then .inf neg else .nan)
    else if x = 0 then .fin neg r (f.emin - f.frac)
    else .fin neg (2 ^ f.frac + r) ((x : Int) - f.bias - f.frac)

/-- The canonical NaN pattern of a type (R262, R283). -/
def Elem.canonNan : Elem → Nat
  | .f16 => 0x7E00 | .bf16 => 0x7FC0 | .f32 => 0x7FC00000 | .f64 => 0x7FF8000000000000 | .e4m3 => 0x7F | .e5m2 => 0x7E
  | _ => 0

/-- The bit pattern of a value that the type holds exactly. -/
def Elem.pattern (t : Elem) (x : FVal) : Nat :=
  let f := t.fmt
  let sgn := fun (neg : Bool) => if neg then 2 ^ (f.frac + f.exp) else 0
  match x with
  | .nan => t.canonNan
  | .inf neg => sgn neg + (2 ^ f.exp - 1) * 2 ^ f.frac
  | .fin neg m e =>
    if t = .mxi8 then wrapInt 8 ((if neg then -1 else 1) * (m : Int) * 2 ^ (e + 6).toNat / 2 ^ (-(e + 6)).toNat)
    else if m = 0 then sgn neg
    else
      let top : Int := Nat.log2 m + e
      if top < f.emin then sgn neg + m * 2 ^ (e - (f.emin - f.frac)).toNat / 2 ^ ((f.emin - f.frac) - e).toNat
      else
        let scaled := m * 2 ^ (f.frac - Nat.log2 m) / 2 ^ (Nat.log2 m - f.frac)
        sgn neg + (top + f.bias).toNat * 2 ^ f.frac + scaled % 2 ^ f.frac

/-- The multiple of the quantum 2^q that `rm` selects for the magnitude (m + δ)·2^e, where δ lies strictly between 0 and 1
when `sticky` and is 0 otherwise (R261). -/
def roundMag (rm : Rm) (neg : Bool) (m : Nat) (e q : Int) (sticky : Bool) : Nat :=
  let up := (e - q).toNat
  let k := (q - e).toNat
  let n := m * 2 ^ up / 2 ^ k
  let r := m * 2 ^ up % 2 ^ k
  let exact := r = 0 && !sticky
  let half := 2 ^ k
  let above := 2 * r > half || (2 * r = half && sticky)
  let tie := 2 * r = half && !sticky
  let bump := match rm with
    | .rne => above || (tie && n % 2 = 1)
    | .rtz => false
    | .rdn => neg && !exact
    | .rup => !neg && !exact
  if bump then n + 1 else n

/-- Whether ±m·2^e exceeds m'·2^e' in magnitude. -/
def magGt (m : Nat) (e : Int) (m' : Nat) (e' : Int) : Bool :=
  let d := min e e'
  m * 2 ^ (e - d).toNat > m' * 2 ^ (e' - d).toNat

/-- `round(x, t, rm)` of R261 for the exact non-zero magnitude (m + δ)·2^e; a zero stays a zero of its sign. An MXINT8 element has the
quantum 2^−6 throughout and is clamped. -/
def roundTo (t : Elem) (rm : Rm) (sat : Bool) (neg : Bool) (m : Nat) (e : Int) (sticky : Bool) : FVal :=
  if m = 0 && !sticky then .fin neg 0 0
  else if t = .mxi8 then .fin neg (min (roundMag rm neg m e (-6) sticky) (if neg then 128 else 127)) (-6)
  else
    let f := t.fmt
    let ex := max ((Nat.log2 m : Int) + e) f.emin
    let q := ex - f.frac
    let n := roundMag rm neg m e q sticky
    let (mm, me) := t.maxFin
    if magGt n q mm me then
      if sat || rm = .rtz || (rm = .rdn && !neg) || (rm = .rup && neg) || t = .e2m1 then .fin neg mm me
      else if t = .e4m3 then .nan
      else .inf neg
    else .fin neg n q

/-- Rounding of an exact value; NaN and infinities pass (R261, R262). -/
def FVal.round (t : Elem) (rm : Rm) (sat : Bool) : FVal → FVal
  | .fin neg m e => roundTo t rm sat neg m e false
  | x => x

/-- The flush of R262: a non-zero value below 2^emin becomes a zero of its sign. -/
def FVal.flush (t : Elem) (ftz : Bool) : FVal → FVal
  | .fin neg m e => if ftz && t.isFloat && m ≠ 0 && (Nat.log2 m : Int) + e < t.fmt.emin then .fin neg 0 0 else .fin neg m e
  | x => x

/-- The value with the opposite sign; a NaN stays a NaN. -/
def FVal.neg : FVal → FVal
  | .nan => .nan
  | .inf s => .inf (!s)
  | .fin s m e => .fin (!s) m e

/-- The signed integer m·2^(e − d) of a finite value at the exponent `d` not above its own. -/
def scaledInt (neg : Bool) (m : Nat) (e d : Int) : Int := (if neg then -1 else 1) * ((m * 2 ^ (e - d).toNat : Nat) : Int)

/-- The exact sum (R262): opposite signs that cancel give +0, or −0 toward −∞; ∞ − ∞ is NaN. -/
def FVal.add (rm : Rm) : FVal → FVal → FVal
  | .nan, _ => .nan
  | _, .nan => .nan
  | .inf a, .inf b => if a = b then .inf a else .nan
  | .inf a, _ => .inf a
  | _, .inf b => .inf b
  | .fin a m e, .fin b n f =>
    let d := min e f
    let s := scaledInt a m e d + scaledInt b n f d
    if s = 0 then .fin (if a = b then a else rm = .rdn) 0 0 else .fin (s < 0) s.natAbs d

/-- The exact product (R262): 0 × ∞ is NaN, and the sign is the exclusive or. -/
def FVal.mul : FVal → FVal → FVal
  | .nan, _ => .nan
  | _, .nan => .nan
  | .inf a, .inf b => .inf (a ^^ b)
  | .inf a, .fin b m _ => if m = 0 then .nan else .inf (a ^^ b)
  | .fin a m _, .inf b => if m = 0 then .nan else .inf (a ^^ b)
  | .fin a m e, .fin b n f => .fin (a ^^ b) (m * n) (e + f)

/-- Whether the first value is less than the second; neither is a NaN, and −0 equals +0. -/
def FVal.lt : FVal → FVal → Bool
  | .nan, _ => false
  | _, .nan => false
  | .inf a, .inf b => a && !b
  | .inf a, _ => a
  | _, .inf b => !b
  | .fin a m e, .fin b n f => let d := min e f; scaledInt a m e d < scaledInt b n f d

/-- Equality of values, −0 equal to +0; a NaN equals nothing. -/
def FVal.eqv : FVal → FVal → Bool
  | .nan, _ => false
  | _, .nan => false
  | .inf a, .inf b => a = b
  | .fin a m e, .fin b n f => let d := min e f; scaledInt a m e d = scaledInt b n f d
  | _, _ => false

/-- The sign bit of a value. -/
def FVal.sign : FVal → Bool
  | .nan => false
  | .inf s => s
  | .fin s _ _ => s

/-- The lesser operand of vfmin (R279): −0 is less than +0, and one NaN gives the other operand. -/
def FVal.min (a b : FVal) : FVal :=
  match a, b with
  | .nan, y => y
  | x, .nan => x
  | x, y => if x.lt y then x else if y.lt x then y else if x.sign then x else y

/-- The greater operand of vfmax (R279). -/
def FVal.max (a b : FVal) : FVal :=
  match a, b with
  | .nan, y => y
  | x, .nan => x
  | x, y => if x.lt y then y else if y.lt x then x else if x.sign then y else x

/-- The greater of two values, NaN when either is (R352). -/
def FVal.maxNan (a b : FVal) : FVal :=
  match a, b with
  | .nan, _ => .nan
  | _, .nan => .nan
  | x, y => if x.lt y then y else x

/-- The integer square root, bit by bit. -/
def isqrt (n : Nat) : Nat :=
  (List.range (Nat.log2 n / 2 + 1)).reverse.foldl (fun r i => if (r + 2 ^ i) * (r + 2 ^ i) ≤ n then r + 2 ^ i else r) 0

/-- a / b rounded (R282, R354). -/
def fdiv (t : Elem) (rm : Rm) (sat : Bool) (a b : FVal) : FVal :=
  match a, b with
  | .nan, _ => .nan
  | _, .nan => .nan
  | .inf _, .inf _ => .nan
  | .inf s, .fin u _ _ => .inf (s ^^ u)
  | .fin s _ _, .inf u => .fin (s ^^ u) 0 0
  | .fin s m e, .fin u n f =>
    if n = 0 then (if m = 0 then .nan else .inf (s ^^ u))
    else if m = 0 then .fin (s ^^ u) 0 0
    else
      let k := 80 + Nat.log2 n
      roundTo t rm sat (s ^^ u) (m * 2 ^ k / n) (e - f - k) (m * 2 ^ k % n ≠ 0)

/-- √a rounded (R281, R282). -/
def fsqrt (t : Elem) (rm : Rm) (sat : Bool) (a : FVal) : FVal :=
  match a with
  | .nan => .nan
  | .inf s => if s then .nan else .inf false
  | .fin s m e =>
    if m = 0 then .fin s 0 0
    else if s then .nan
    else
      let odd := e % 2 = 1
      let n := (if odd then 2 * m else m) * 2 ^ 160
      let r := isqrt n
      roundTo t rm sat false r ((if odd then e - 1 else e) / 2 - 80) (r * r ≠ n)

/-- 1/√a rounded (R281, R282). -/
def frsqrt (t : Elem) (rm : Rm) (sat : Bool) (a : FVal) : FVal :=
  match a with
  | .nan => .nan
  | .inf s => if s then .nan else .fin false 0 0
  | .fin s m e =>
    if m = 0 then .inf s
    else if s then .nan
    else
      let odd := e % 2 = 1
      let d := if odd then 2 * m else m
      let k := 100 + Nat.log2 d
      let r := isqrt (2 ^ (2 * k) / d)
      roundTo t rm sat false r (-((if odd then e - 1 else e) / 2) - k) (r * r * d ≠ 2 ^ (2 * k))

/-! ### Transcendental functions, on fixed-point integers of `prec` fraction bits (R281) -/

/-- Fraction bits of the fixed-point evaluations: far beyond any distance of a result from a rounding boundary (log entry 8). -/
def prec : Nat := 640

/-- Σ z^(2k+1)/(2k+1) for the fixed-point z of magnitude at most 1/3, with signs alternating when `alt`. -/
def oddSeries (alt : Bool) (z : Nat) : Int :=
  ((List.range 300).foldl (fun (s : Int × Nat) k =>
    let term := s.2 / (2 * k + 1)
    (if alt && k % 2 = 1 then s.1 - term else s.1 + term, s.2 * z / 2 ^ prec * z / 2 ^ prec)) (0, z)).1

/-- ln 2 as 2·artanh(1/3). -/
def ln2Fix : Nat := (2 * oddSeries false (2 ^ prec / 3)).toNat

/-- π as 16·arctan(1/5) − 4·arctan(1/239). -/
def piFix : Nat := (16 * oddSeries true (2 ^ prec / 5) - 4 * oddSeries true (2 ^ prec / 239)).toNat

/-- e^x for the fixed-point x in [0, 1). -/
def expFix (x : Nat) : Nat :=
  ((List.range 200).foldl (fun (s : Nat × Nat) k => (s.1 + s.2, s.2 * x / 2 ^ prec / (k + 1))) (0, 2 ^ prec)).1

/-- sin x for the fixed-point x in [0, 2). -/
def sinFix (x : Nat) : Nat :=
  ((List.range 150).foldl (fun (s : Int × Nat) k =>
    (if k % 2 = 1 then s.1 - s.2 else s.1 + s.2, s.2 * x / 2 ^ prec * x / 2 ^ prec / ((2 * k + 2) * (2 * k + 3)))) (0, x)).1.toNat

/-- The integer part and the fixed-point fraction of ±m·2^e, rounded toward −∞; the exponent is held to ±4096, beyond which
every result is decided by its sign. -/
def splitFix (neg : Bool) (m : Nat) (e : Int) : Int × Nat :=
  let v := scaledInt neg m (min e 4096) (min (min e 4096) (-(prec : Int)))
  let low := (-(min (min e 4096) (-(prec : Int)))).toNat
  (v / 2 ^ low, ((v % 2 ^ low) / 2 ^ (low - prec)).toNat)

/-- 2^a rounded (R281, R282). -/
def fexp2 (t : Elem) (rm : Rm) (sat : Bool) (a : FVal) : FVal :=
  match a with
  | .nan => .nan
  | .inf s => if s then .fin false 0 0 else .inf false
  | .fin s m e =>
    let (k, f) := splitFix s m e
    let k' := max (min k 5000) (-5000)
    if f = 0 then roundTo t rm sat false 1 k' false
    else roundTo t rm sat false (expFix (f * ln2Fix / 2 ^ prec)) (k' - prec) true

/-- A signed fixed-point number, not exact, rounded: its magnitude lies strictly above the integer below it. -/
def roundFix (t : Elem) (rm : Rm) (sat : Bool) (v : Int) : FVal :=
  if 0 ≤ v then roundTo t rm sat false v.toNat (-(prec : Int)) true
  else roundTo t rm sat true (v.natAbs - 1) (-(prec : Int)) true

/-- log₂ a rounded (R281, R282). -/
def flog2 (t : Elem) (rm : Rm) (sat : Bool) (a : FVal) : FVal :=
  match a with
  | .nan => .nan
  | .inf s => if s then .nan else .inf false
  | .fin s m e =>
    if m = 0 then .inf true
    else if s then .nan
    else
      let l := Nat.log2 m
      let k : Int := l + e
      if m = 2 ^ l then roundTo t rm sat (k < 0) k.natAbs 0 false
      else
        let z := (m - 2 ^ l) * 2 ^ prec / (m + 2 ^ l)
        roundFix t rm sat (k * 2 ^ prec + 2 * oddSeries false z * 2 ^ prec / ln2Fix)

/-- sin(π·r/2^prec) for the fixed-point r in [0, 2): the sign and the fixed-point magnitude, and whether it is exact. -/
def sinTurn (r : Nat) : Bool × Nat × Bool :=
  let one := 2 ^ prec
  let neg := r ≥ one
  let q := if neg then r - one else r
  let q' := if 2 * q > one then one - q else q
  if q' = 0 then (false, 0, true)
  else if 2 * q' = one then (neg, one, true)
  else (neg, sinFix (q' * piFix / one), false)

/-- The residue of ±m·2^e modulo 2, as a fixed-point number. -/
def turnOf (neg : Bool) (m : Nat) (e : Int) : Nat :=
  let (k, f) := splitFix neg m e
  (k % 2).toNat * 2 ^ prec + f

/-- sin(π·a) rounded (R281, R282): an exact zero takes the sign of a. -/
def fsin (t : Elem) (rm : Rm) (sat : Bool) (a : FVal) : FVal :=
  match a with
  | .fin s m e =>
    let (neg, v, exact) := sinTurn (turnOf s m e)
    if v = 0 && exact then .fin s 0 0 else roundTo t rm sat neg v (-(prec : Int)) (!exact)
  | _ => .nan

/-- cos(π·a) rounded (R281, R282): an exact zero is +0. -/
def fcos (t : Elem) (rm : Rm) (sat : Bool) (a : FVal) : FVal :=
  match a with
  | .fin s m e =>
    let one := 2 ^ prec
    let r := turnOf s m e
    let (neg, v, exact) := sinTurn ((r + one / 2) % (2 * one))
    if v = 0 && exact then .fin false 0 0 else roundTo t rm sat neg v (-(prec : Int)) (!exact)
  | _ => .nan

/-- tanh a rounded (R281, R282). -/
def ftanh (t : Elem) (rm : Rm) (sat : Bool) (a : FVal) : FVal :=
  match a with
  | .nan => .nan
  | .inf s => .fin s 1 0
  | .fin s m e =>
    let one := 2 ^ prec
    if m = 0 then .fin s 0 0
    else if (Nat.log2 m : Int) + e ≥ 8 then roundTo t rm sat s (one - 1) (-(prec : Int)) true
    else
      -- u = e^(−2|a|) = 2^(−y)
      let x := (splitFix false m (e + 1)).1.toNat * one + (splitFix false m (e + 1)).2
      let y := x * one / ln2Fix
      let k := y / one
      let f := y % one
      let u := one * one / expFix (f * ln2Fix / one) / 2 ^ k
      roundTo t rm sat s (min (one - 1) ((one - u) * one / (one + u))) (-(prec : Int)) true

/-- The identity rounding of an exact finite number given as an integer times 2^e. -/
def roundInt (t : Elem) (rm : Rm) (sat : Bool) (v : Int) (e : Int) : FVal := roundTo t rm sat (v < 0) v.natAbs e false

/-- A value rounded to an integer under `rm` (R261, the integer target). -/
def FVal.toIntRound (rm : Rm) : FVal → Int
  | .fin neg m e => let n := roundMag rm neg m e 0 false; if neg then -(n : Int) else n
  | _ => 0

end Sys2Proof.Machine
end

