-- ==== Sys2Proof/Machine/Attar.lean ====
section
/-!
DEFINITION. Attar (spec/04): code tables (R75, R76), the tile stream decoded with the checks of R86, the scale bytes and codes of value
mode (R83), and the stream that the encoder writes (R72 to R74, R84). Everything here is a function of bytes; the accesses that
fetch and store streams are those of the instructions.
-/
namespace Sys2Proof.Machine

/-! ### Scaled values (R20, R71, R83) -/

/-- emax of R83. -/
def emaxOf : Elem → Int
  | .e4m3 => 8 | .e5m2 => 15 | .e2m1 => 2 | _ => 0

/-- floor(log2) of a non-zero magnitude. -/
def FVal.top : FVal → Option Int
  | .fin _ m e => if m = 0 then none else some (Nat.log2 m + e)
  | _ => none

/-- NaN or infinite. -/
def FVal.special : FVal → Bool
  | .fin .. => false
  | _ => true

/-- The scale byte of a block from floor(log2 amax), `none` when every value is zero (R83): above 254 it is 0xFF. -/
def scaleFrom (t : Elem) (bad : Bool) (top : Option Int) : Byte :=
  if bad then 0xFF#8
  else match top with
  | none => 0#8
  | some k => let e := max 0 (k - emaxOf t + 127); if 254 < e then 0xFF#8 else BitVec.ofNat 8 e.toNat

/-- The greatest floor(log2) of a list of values. -/
def topOf (vals : List FVal) : Option Int := (vals.filterMap FVal.top).foldl (fun r k => some (match r with
  | some q => max q k
  | none => k)) none

/-- The scale byte of a block of values (R83). -/
def scaleOf (t : Elem) (vals : List FVal) : Byte := scaleFrom t (vals.any FVal.special) (topOf vals)

/-- The code of ±(m + δ)·2^e under a scale byte (R83): RNE, saturated symmetrically, a zero coded as 0. -/
def codeOfParts (t : Elem) (scale : Byte) (neg : Bool) (m : Nat) (e : Int) (sticky : Bool) : Nat :=
  if scale = 0xFF#8 then 0
  else match roundTo t .rne true neg m (e - ((scale.toNat : Int) - 127)) sticky with
  | .fin s n q => if n = 0 then 0 else
      let c := t.pattern (.fin s n q)
      if t = .mxi8 ∧ c = 0x80 then 0x81 else c
  | _ => 0

/-- The code of a value under a scale byte (R83, R286). -/
def codeOf (t : Elem) (scale : Byte) : FVal → Nat
  | .fin neg m e => codeOfParts t scale neg m e false
  | _ => 0

/-- The value of a code under a scale byte (R71, R287): NaN for the scale 0xFF. -/
def codeValue (t : Elem) (scale : Byte) (code : Nat) : FVal :=
  if scale = 0xFF#8 then .nan
  else match t.value code with
  | .fin s m e => .fin s m (e + ((scale.toNat : Int) - 127))
  | x => x

/-! ### Code tables (R75, R76) -/

/-- LEN of each symbol of an image. -/
def imageLens (img : BitVec 2048) : List Nat := (List.range 256).map fun i => bitsNat img (8 * i) 8

/-- A valid image (R75). -/
def imageValid (img : BitVec 2048) : Bool :=
  let ls := imageLens img
  ls.all (fun l => l ≤ 16) && ls.any (fun l => l ≠ 0) &&
    (ls.foldl (fun n l => if l = 0 then n else n + 2 ^ (16 - l)) 0) ≤ 65536

/-- The codes of an image as (length, code, symbol), shortest first (R76). -/
def codesOf (img : BitVec 2048) : List (Nat × Nat × Nat) :=
  let ls := (imageLens img).zipIdx
  ((List.range 16).foldl (fun (acc : Nat × List (Nat × Nat × Nat)) i =>
    let row := (ls.filter fun p => p.1 = i + 1).zipIdx.map fun p => (i + 1, acc.1 + p.2, p.1.2)
    ((acc.1 + row.length) * 2, acc.2 ++ row)) (0, [])).2

/-- The code of a symbol. -/
def codeFor (cs : List (Nat × Nat × Nat)) (sym : Nat) : Option (Nat × Nat) :=
  (cs.find? fun c => c.2.2 = sym).map fun c => (c.1, c.2.1)

/-! ### Tile shapes -/

/-- Scale blocks of `n` elements (R71). -/
def tileScales (n : Nat) : Nat := n / 32
/-- Symbols of `n` elements of a type (R71). -/
def tileSymbols (t : Elem) (n : Nat) : Nat := if t = .e2m1 then n / 2 else n
/-- Lr in 32-byte units (R84). -/
def rawUnits (t : Elem) (n : Nat) : Nat := ceilDiv (16 + tileScales n + tileSymbols t n) 32

/-- The element codes that a list of symbols holds (R71). -/
def symbolsToCodes (t : Elem) (syms : List Nat) : List Nat :=
  if t = .e2m1 then syms.flatMap fun s => [s % 16, s / 16 % 16] else syms

/-- The symbols of element codes (R71). -/
def codesToSymbols (t : Elem) (codes : List Nat) : List Nat :=
  if t = .e2m1 then pairUp codes else codes
where
  /-- two codes to a symbol -/
  pairUp : List Nat → List Nat
    | a :: b :: r => (a % 16 + 16 * (b % 16)) :: pairUp r
    | [a] => [a % 16]
    | [] => []

/-! ### Decoding (R86) -/

/-- A failure of a stream: code, detail, substream and bit offset. -/
structure StreamFault where
  code : Byte
  detail : Byte
  sub : Nat
  bit : Nat
  deriving DecidableEq, Repr

/-- A failure of the header. -/
def headerFault (d : Byte) : StreamFault := ⟨0x20, d, 15, 0⟩

/-- One bit of a substream that starts at payload byte `lo` of `bytes` (R74). -/
def subBit (bytes : Array Byte) (lo b : Nat) : Nat := (bytes.getD (lo + b / 8) 0#8).toNat / 2 ^ (7 - b % 8) % 2

/-- The symbol whose code begins at bit `pos`: the code is read one bit at a time (R76, order 7 of R86). -/
def readSymbol (cs : List (Nat × Nat × Nat)) (bytes : Array Byte) (lo lim pos : Nat) : Nat → Nat → Nat → Except Byte (Nat × Nat)
  | 0, _, _ => .error 0x06
  | fuel + 1, n, v =>
    if lim ≤ pos + n then .error 0x07
    else
      let v := 2 * v + subBit bytes lo (pos + n)
      match cs.find? fun c => c.1 = n + 1 && c.2.1 = v with
      | some c => .ok (c.2.2, pos + n + 1)
      | none => readSymbol cs bytes lo lim pos fuel (n + 1) v

/-- The symbols of a substream in order, the bit after the last, and the first failure: symbol number, detail, bit. -/
def readSub (cs : List (Nat × Nat × Nat)) (bytes : Array Byte) (lo lim : Nat) : Nat → Nat → Nat → List Nat × Nat × Option (Nat × Byte × Nat)
  | 0, _, pos => ([], pos, none)
  | k + 1, i, pos =>
    match readSymbol cs bytes lo lim pos 16 0 0 with
    | .error d => ([], pos, some (i, d, pos))
    | .ok (s, q) =>
      let r := readSub cs bytes lo lim k (i + 1) q
      (s :: r.1, r.2)

/-- Entry `j mod 8` of entry `j / 8` of the substreams: the symbols in ascending j (R74). -/
def interleave (subs : List (List Nat)) (m : Nat) : List Nat :=
  let a := (subs.map List.toArray).toArray
  (List.range m).map fun j => (a.getD (j % 8) #[]).getD (j / 8) 0

/-- A coded payload decoded (R74, orders 7 and 8 of R86): `ends` are the substreams' first and last payload bytes. -/
def decodeCoded (cs : List (Nat × Nat × Nat)) (bytes : Array Byte) (ends : List (Nat × Nat)) (m : Nat) : Except StreamFault (List Nat) :=
  let subs := ends.map fun p => readSub cs bytes p.1 (8 * (p.2 - p.1)) (m / 8) 0 0
  let bad := (subs.zipIdx.filterMap fun p => p.1.2.2.map fun f => (8 * f.1 + p.2, f.2.1, p.2, f.2.2))
  match bad.foldl (fun (r : Option (Nat × Byte × Nat × Nat)) f => match r with
      | some q => if f.1 < q.1 then some f else some q
      | none => some f) none with
  | some f => .error ⟨0x20, f.2.1, f.2.2.1, f.2.2.2⟩
  | none =>
    let trailing := (subs.zip ends).zipIdx.find? fun p =>
      let pos := p.1.1.2.1
      let lim := 8 * (p.1.2.2 - p.1.2.1)
      (if p.2 = 7 then 256 else 8) ≤ lim - pos || ((List.range (lim - pos)).any fun i => subBit bytes p.1.2.1 (pos + i) ≠ 0)
    match trailing with
    | some p => .error ⟨0x20, 0x08, p.2, p.1.1.2.1⟩
    | none => .ok (interleave (subs.map (·.1)) m)

/-- Which code table a header names: DEF, or TAB (R73). -/
def headerTable (h : BitVec 128) (ctab : Nat) : Nat := if h.getLsbD 14 then ctab else bitsNat h 8 6

/-- A stream decoded (R81, R86): element codes and scale bytes. `rawEntry` is the entry's RAW; `slots` are the context's code tables. -/
def decodeStream (t : Elem) (n : Nat) (ctab : Nat) (rawEntry : Bool) (slots : Nat → Option (BitVec 2048)) (stream : List Byte) :
    Except StreamFault (List Nat × List Byte) :=
  let len := stream.length
  let s := tileScales n
  let m := tileSymbols t n
  let p := 16 + s
  if len < 16 then .error (headerFault 0x05)
  else
    let bytes := stream.toArray
    let h : BitVec 128 := BitVec.ofNat 128 (natOfBytes (stream.take 16))
    let raw := h.getLsbD 15
    let off := fun k => if k = 0 then 0 else bitsNat h (16 * k) 16
    let offs := (List.range 8).map off
    if h.extractLsb' 0 4 ≠ 5#4 || (raw && (bitsNat h 8 7 ≠ 0 || bitsNat h 16 112 ≠ 0)) || (h.getLsbD 14 && bitsNat h 8 6 ≠ 0)
      then .error (headerFault 0x02)
    else if h.extractLsb' 4 4 ≠ t.code then .error (headerFault 0x03)
    else if raw ≠ rawEntry then .error (headerFault 0x04)
    else if raw then
      if len < p + m then .error (headerFault 0x05)
      else .ok (symbolsToCodes t (((stream.drop p).take m).map BitVec.toNat), (stream.drop 16).take s)
    else if len < p || !((List.range 7).all fun k => off k ≤ off (k + 1)) || len ≤ p + off 7 then .error (headerFault 0x05)
    else
      match slots (headerTable h ctab) with
      | none => .error ⟨0x21, 0x00, 15, 0⟩
      | some img =>
        let ends := (offs.zip (offs.drop 1 ++ [len - p])).map fun q => (p + q.1, p + q.2)
        match decodeCoded (codesOf img) bytes ends m with
        | .error e => .error e
        | .ok syms => .ok (symbolsToCodes t syms, (stream.drop 16).take s)

/-! ### Encoding (R72 to R74, R84) -/

/-- The bits of a code, most significant first. -/
def codeBits (len code : Nat) : List Bool := (List.range len).map fun i => code.testBit (len - 1 - i)

/-- Bits packed into bytes, first bit highest, the last byte filled with zeros (R74). -/
def packBits : Nat → List Bool → List Byte
  | 0, _ => []
  | _, [] => []
  | fuel + 1, bs =>
    BitVec.ofNat 8 ((List.range 8).foldl (fun v i => 2 * v + ((bs.getD i false).toNat)) 0) :: packBits fuel (bs.drop 8)

/-- Substream `k` of a list of symbols; `none` when a symbol has no code. -/
def encodeSub (cs : List (Nat × Nat × Nat)) (syms : List Nat) (k : Nat) : Option (List Byte) :=
  let mine := (syms.zipIdx.filter fun p => p.2 % 8 = k).map (·.1)
  let codes := mine.map (codeFor cs)
  if codes.all Option.isSome then
    let bs := codes.flatMap fun c => match c with
      | some c => codeBits c.1 c.2
      | none => []
    some (packBits (bs.length + 1) bs)
  else none

/-- Zero padding to a whole number of 32-byte units (R72). -/
def padTo32 (bs : List Byte) : List Byte := bs ++ List.replicate (32 * ceilDiv bs.length 32 - bs.length) 0#8

/-- The stream of a tile's codes and scales (R84): coded when every symbol has a code and the coded stream is shorter, else raw; with
RAW first. `table` is the captured image; `useDef` and `tab` are DEF and TAB of the request. -/
def encodeStream (t : Elem) (codes : List Nat) (scales : List Byte) (table : Option (BitVec 2048)) (useDef : Bool) (tab : Nat) :
    Bool × List Byte :=
  let n := codes.length
  let syms := codesToSymbols t codes
  let rawHead := bytesOfNat 16 (0x8005 + 16 * t.code.toNat)
  let raw := padTo32 (rawHead ++ scales ++ syms.map (BitVec.ofNat 8))
  match table with
  | none => (true, raw)
  | some img =>
    let cs := codesOf img
    let subs := (List.range 8).map (encodeSub cs syms)
    if subs.all Option.isSome then
      let parts := subs.map fun o => o.getD []
      let offs := (List.range 8).map fun k => ((parts.take k).map List.length).foldl (· + ·) 0
      let head := (if useDef then 0x4000 else 256 * tab) + 16 * t.code.toNat + 5 +
        ((offs.zipIdx.drop 1).map fun p => p.1 * 2 ^ (16 * p.2)).foldl (· + ·) 0
      let coded := padTo32 (bytesOfNat 16 head ++ scales ++ parts.flatten)
      if coded.length / 32 < rawUnits t n then (false, coded) else (true, raw)
    else (true, raw)

/-- Scales and codes of a tile in value mode (R83): `edge i` says that element `i` is an edge element. -/
def quantTile (t : Elem) (vals : List FVal) (edge : Nat → Bool) : List Nat × List Byte :=
  let n := vals.length
  let marked := vals.zipIdx
  let scales := (List.range (tileScales n)).map fun b =>
    scaleOf t (((marked.drop (32 * b)).take 32).filterMap fun p => if edge p.2 then none else some p.1)
  let sc := scales.toArray
  (marked.map fun p => if edge p.2 then 0 else codeOf t (sc.getD (p.2 / 32) 0#8) p.1, scales)

end Sys2Proof.Machine
end

