-- ==== Sys2Proof/Machine/Mem.lean ====
section
/-!
DEFINITION. Memory: byte cells in canonical form, and what the homes of spec/05 to spec/07 keep beside the bytes: frame records
(R53), WOS states (R136), IP copies (R139), directories and U copies (R158 to R164), undo records, interval marks and held
outputs (R170 to R175).
-/
namespace Sys2Proof.Machine

/-! ### Cells -/

/-- A byte of a canonical cell list; an unlisted byte reads zero (log entry 1). -/
def cellGet : List Host.Cell → Nat → Byte
  | [], _ => 0#8
  | (k, v) :: t, a => if a = k then v else if a < k then 0#8 else cellGet t a

/-- The canonical list with one byte written. -/
def cellSet : List Host.Cell → Nat → Byte → List Host.Cell
  | [], a, b => if b = 0#8 then [] else [(a, b)]
  | (k, v) :: t, a, b =>
    if a < k then (if b = 0#8 then (k, v) :: t else (a, b) :: (k, v) :: t)
    else if a = k then (if b = 0#8 then t else (a, b) :: t)
    else (k, v) :: cellSet t a b

/-- The canonical form: addresses strictly rising from `lo` on, no byte listed that reads as an unlisted one. -/
def cellsWfFrom : Nat → List Host.Cell → Bool
  | _, [] => true
  | lo, (k, v) :: t => lo ≤ k && v != 0#8 && cellsWfFrom (k + 1) t

/-- The canonical form of a cell list. -/
def cellsWf (l : List Host.Cell) : Bool := cellsWfFrom 0 l

/-- `n` bytes from an address up. -/
def cellBytes (l : List Host.Cell) (a n : Nat) : List Byte := (List.range n).map fun i => cellGet l (a + i)

/-- The list with bytes written from an address up. -/
def cellPut : List Host.Cell → Nat → List Byte → List Host.Cell
  | l, _, [] => l
  | l, a, b :: bs => cellPut (cellSet l a b) (a + 1) bs

/-- The little-endian number of `n` bytes at an address (R14). -/
def cellNat (l : List Host.Cell) (a n : Nat) : Nat := natOfBytes (cellBytes l a n)

/-- The canonical form of the memories. -/
def Memory.wf (m : Mem) : Bool := cellsWf m.cells && cellsWf m.hostMem && cellsWf m.nvme

/-! ### The physical address map (R51) -/

/-- The first reserved byte of LPDDR-6 where the reservation has `n + 1` units of 64 GiB (R51, R454). -/
def reservedOf (n : BitVec 3) : Nat := 0x20000000000 - (n.toNat + 1) * 0x1000000000
/-- The first reserved byte of LPDDR-6 (R51, R454). -/
def reservedFrom : Nat := reservedOf Config.unitsMinusOne

/-- HBM4E. -/
def inHbm (pa : Nat) : Bool := pa < 0x6000000000
/-- LPDDR-6. -/
def inLpddr (pa : Nat) : Bool := 0x10000000000 ≤ pa && pa < 0x20000000000
/-- Device memory. -/
def inDevice (pa : Nat) : Bool := inHbm pa || inLpddr pa
/-- Off-device addresses. -/
def offDevice (pa : Nat) : Bool := 0x8000000000000 ≤ pa && pa < 0x10000000000000
/-- The firmware reservation. -/
def inReserved (pa : Nat) : Bool := inLpddr pa && reservedFrom ≤ pa

/-- The line of an address. -/
def lineOf (pa : Nat) : Nat := pa / 128

/-- The home die of a line of device memory (R157). -/
def homeDie (pa : Nat) : Nat := if inHbm pa then pa / 0x1800000000 else pa / 65536 % 4

/-- The slice of a line within its die, j of R108. -/
def sliceOf (pa : Nat) : Nat :=
  (List.range 9).foldl (fun j i => Nat.xor j (pa / 2 ^ (7 + 5 * i) % 32)) 0

/-- The global number of the slice that holds a line on a caching die (R108). -/
def globalSlice (die pa : Nat) : Nat := 32 * die + sliceOf pa

/-! ### Frame records and WOS states -/

/-- The frame record of a physical address (R53): RC under key 0 unless ATTRCHG changed it. -/
def frameRec (m : Mem) (pa : Nat) : FrameRec :=
  (m.frames.find? fun r => r.frame = pa / 65536).getD { frame := pa / 65536, attr := 0#2, key := 0#7, changing := none }

/-- The frame records with one replaced. -/
def setFrameRec (m : Mem) (r : FrameRec) : Mem := { m with frames := r :: m.frames.filter fun q => q.frame ≠ r.frame }

/-- The WOS state of a line (R136). -/
def wosState (m : Mem) (pa : Nat) : Wos := ((m.wos.find? fun e => e.1 = lineOf pa).map (·.2)).getD .unwritten

/-- A line's WOS state set; UNWRITTEN is not listed. -/
def setWos (m : Mem) (line : Nat) (w : Wos) : Mem :=
  { m with wos := (if w = .unwritten then [] else [(line, w)]) ++ m.wos.filter fun e => e.1 ≠ line }

/-! ### Undo records, marks and outputs -/

/-- The bytes of a line as one value. -/
def lineData (m : Mem) (line : Nat) : BitVec 1024 := BitVec.ofNat 1024 (cellNat m.cells (line * 128) 128)

/-- The first write of the open interval to a line appends its pre-image, with ATTR and KEY of its frame, and marks it (R170, R175). -/
def logLine (m : Mem) (line : Nat) (prot : BitVec 2) : Mem :=
  if m.marks.any fun k => k.1 = line && k.2 = m.interval then m
  else
    let st := (m.wos.find? fun e => e.1 = line).map (·.2)
    { m with
      marks := (line, m.interval) :: m.marks
      undo := .line m.interval line (lineData m line) st prot (frameRec m (line * 128)) (m.origins.find? fun o => o.line = line) :: m.undo }

/-- The first change of a frame record in the open interval appends the old record (R170). -/
def logFrame (m : Mem) (r : FrameRec) : Mem :=
  if m.undo.any fun u => match u with
    | .frame i f => i = m.interval && f.frame = r.frame
    | .line .. | .loose .. | .states .. => false
  then m else { m with undo := .frame m.interval r :: m.undo }

/-- The WOS states of a frame noted for a rollback before an ATTRCHG changes them. -/
def noteStates (m : Mem) (frame : Nat) : Mem :=
  { m with undo := .states m.interval frame (m.wos.filter fun e => e.1 / 512 = frame) :: m.undo }

/-- The lines that a byte range touches. -/
def linesOf (pa n : Nat) : List Nat :=
  if n = 0 then [] else (List.range (lineOf (pa + n - 1) + 1 - lineOf pa)).map (lineOf pa + ·)

/-- Lines of host memory marked as written in the open interval (R175). -/
def markRange (m : Mem) (pa n : Nat) : Mem :=
  { m with marks := ((linesOf pa n).filter fun l => !m.marks.contains (l, m.interval)).map (·, m.interval) ++ m.marks }

/-- Every line of a range logged. -/
def logRange (m : Mem) (pa n : Nat) (prot : BitVec 2) : Mem := (linesOf pa n).foldl (fun q l => logLine q l prot) m

/-- Bytes of an IP line that a level-1 node writes are noted, not logged (R172). -/
def looseRange (m : Mem) (pa n : Nat) : Mem :=
  { m with undo := .loose m.interval (lineOf pa) (BitVec.ofNat 128 ((2 ^ n - 1) * 2 ^ (pa % 128))) :: m.undo }

/-! ### Keys (R465) -/

/-- What a line's stored ciphertext reads as under a key (R465). -/
def lineUnder (m : Mem) (key : BitVec 7) (line : Nat) : BitVec 1024 :=
  match m.origins.find? fun o => o.line = line with
  | some o => if o.key = key then o.data else Config.recrypt o.key key line o.data
  | none =>
    let k := (frameRec m (line * 128)).key
    if k = key then lineData m line else Config.recrypt k key line (lineData m line)

/-- A line whose frame takes another key: its bytes become what its ciphertext reads as under that key, and the ciphertext stays (R63, R465). -/
def rekeyLine (m : Mem) (key : BitVec 7) (line : Nat) : Mem :=
  let o := (m.origins.find? fun o => o.line = line).getD { line := line, key := (frameRec m (line * 128)).key, data := lineData m line }
  { m with cells := cellPut m.cells (line * 128) (bytesOfNat 128 (lineUnder m key line).toNat),
           origins := (if o.key = key then [] else [o]) ++ m.origins.filter fun q => q.line ≠ line }

/-- The lines of a range are written: their ciphertext is that of their frames' own keys. -/
def sealLines (m : Mem) (pa n : Nat) : Mem := { m with origins := m.origins.filter fun o => !(linesOf pa n).contains o.line }

/-- A frame record put in place of another: the lines of the frame keep their ciphertext (R170, R465). -/
def restoreFrame (m : Mem) (r : FrameRec) : Mem :=
  let m := if (frameRec m (65536 * r.frame)).key = r.key then m else ((List.range 512).map (512 * r.frame + ·)).foldl (fun m l => rekeyLine m r.key l) m
  setFrameRec m r

/-! ### Writing at the home -/

/-- Bytes stored in the line they belong to, core copies untouched: logged first (R170); a write to host or pooled memory is also held as an
output (R174). -/
def cellWrite (m : Mem) (pa : Nat) (data : List Byte) (prot : BitVec 2) : Mem :=
  let m := if offDevice pa then { (markRange m pa data.length) with outputs := m.outputs ++ [(m.interval, .write pa data)] }
           else if prot = 1#2 && (frameRec m pa).attr = 3#2 then looseRange m pa data.length else logRange m pa data.length prot
  { (sealLines m pa data.length) with cells := cellPut m.cells pa data }

/-- The core copies of the lines of a range invalidated; bytes on their way to them are no longer awaited (R161, R162). -/
def dropCopies (m : Mem) (pa n : Nat) : Mem := { m with copies := m.copies.filter fun c => !(linesOf pa n).contains c.line }

/-- Bytes written at their home, no copy of the line left (R162). -/
def homeWrite (m : Mem) (pa : Nat) (data : List Byte) (prot : BitVec 2) : Mem :=
  cellWrite (dropCopies m pa data.length) pa data prot

/-- Bytes read at their home. -/
def homeRead (m : Mem) (pa n : Nat) : List Byte := cellBytes m.cells pa n

/-- A little-endian number read at its home. -/
def homeNat (m : Mem) (pa n : Nat) : Nat := cellNat m.cells pa n

/-! ### Core copies (R159, R161) -/

/-- Bytes `[off, off + n)` of a line's data. -/
def dataBytes (d : BitVec 1024) (off n : Nat) : List Byte := (List.range n).map fun i => d.extractLsb' (8 * (off + i)) 8

/-- A line's data with bytes replaced from `off` on. -/
def dataPut (d : BitVec 1024) (off : Nat) : List Byte → BitVec 1024
  | [] => d
  | b :: bs => dataPut (setBits d (8 * off) 8 b) (off + 1) bs

/-- A core's copy of a line. -/
def copyFind (m : Mem) (core line : Nat) : Option CoreCopy := m.copies.find? fun c => c.core = core && c.line = line

/-- A copy that has applied every byte forwarded to it. -/
def CoreCopy.caught (c : CoreCopy) : CoreCopy := { c with data := c.late.foldl (fun d f => dataPut d f.off f.data) c.data, late := [] }

/-- A copy that has applied the oldest bytes forwarded to it. -/
def CoreCopy.applyOne (c : CoreCopy) : CoreCopy :=
  match c.late with
  | [] => c
  | f :: t => { c with data := dataPut c.data f.off f.data, late := t }

/-- Bytes applied by a die's slice (R161, steps 2 and 3) for a core of it or, with `none`, an engine: the core's own copy takes them at once,
behind those on their way to it, and they are forwarded to the other core copies of the die. A copy elsewhere is gone with the ownership
(R162). -/
def sliceApply (m : Mem) (own : Option Nat) (die pa : Nat) (data : List Byte) (prot : BitVec 2) : Mem :=
  let line := lineOf pa
  let m := cellWrite m pa data prot
  { m with copies := m.copies.filterMap fun c =>
      if c.line ≠ line then some c
      else if some c.core = own then some { c.caught with data := dataPut c.caught.data (pa % 128) data }
      else if c.core / 40 = die then some { c with late := c.late ++ [⟨m.sid, pa % 128, data⟩] }
      else none }

/-- Bytes of a store from a core applied by its die's slice. -/
def sliceWrite (m : Mem) (core pa : Nat) (data : List Byte) (prot : BitVec 2) : Mem := sliceApply m (some core) (core / 40) pa data prot

/-- The next store has a number of its own. -/
def nextStore (m : Mem) : Mem := { m with sid := m.sid + 1 }

/-- Bytes of an engine's store applied by a die's slice; the engine goes on before the core copies have them (R129). -/
def sliceWriteEngine (m : Mem) (die pa : Nat) (data : List Byte) (prot : BitVec 2) : Mem :=
  nextStore (sliceApply m none die pa data prot)

/-- Bytes of a store are still on their way to a core copy (R161, step 4). -/
def forwarding (m : Mem) (sid : Nat) : Bool := m.copies.any fun c => c.late.any fun f => f.sid = sid

/-- Bytes are on their way to copies of a set of cores. -/
def forwardingTo (m : Mem) (cores : Nat → Bool) : Bool := m.copies.any fun c => cores c.core && !c.late.isEmpty

/-- The copies of a line on a die apply the oldest bytes forwarded to them. -/
def applyForwards (m : Mem) (die line : Nat) : Mem :=
  { m with copies := m.copies.map fun c => if c.line = line && c.core / 40 = die then c.applyOne else c }

/-- A core's implicit cache takes a line (R100, R159). -/
def copyFill (m : Mem) (core line : Nat) : Mem :=
  if (copyFind m core line).isSome then m
  else { m with copies := { core := core, line := line, data := lineData m line, late := [] } :: m.copies }

/-! ### Directories (R158 to R164) -/

/-- The directory with one agent's copy of a line set or, with `none`, removed. -/
def dirSet (m : Mem) (agent line : Nat) (st : Option LineState) : Mem :=
  { m with dir := (match st with
      | some q => [{ agent := agent, line := line, state := q }]
      | none => []) ++ m.dir.filter fun e => !(e.agent = agent && e.line = line) }

/-- The state of an agent's copy (R160). -/
def dirGet (m : Mem) (agent line : Nat) : Option LineState :=
  (m.dir.find? fun e => e.agent = agent && e.line = line).map (·.state)

/-- The core copies of a line that belong to a die (R161). -/
def dieCopies (m : Mem) (die line : Nat) : List CoreCopy := m.copies.filter fun c => c.line = line && c.core / 40 = die

/-- A line given up by a die: its copy and those of its cores (R161, R162). -/
def dieDrop (m : Mem) (agent line : Nat) : Mem :=
  { (dirSet m agent line none) with copies := m.copies.filter fun c => !(c.line = line && c.core / 40 = agent % 4) }

/-- An agent takes ownership of a line: every other die's copy is invalidated with those of its cores, and the host's halves (R162, R166). -/
def dirOwn (m : Mem) (agent line : Nat) : Mem :=
  { m with dir := { agent := agent, line := line, state := .m } :: m.dir.filter fun e => e.line ≠ line,
           copies := m.copies.filter fun c => c.line ≠ line || c.core / 40 = agent % 4,
           hostDir := m.hostDir.filter fun e => e.1 / 2 ≠ line }

/-- An agent obtains a shared copy: E when no other agent holds one, the host's halves counting, and the line may be written; else S, an
owner keeping S (R159, R162). -/
def dirShare (m : Mem) (agent line : Nat) : Mem :=
  if (dirGet m agent line).isSome then m
  else if m.dir.any (fun e => e.line = line) || m.hostDir.any (fun e => e.1 / 2 = line) || (frameRec m (line * 128)).attr = 2#2 then
    { m with dir := { agent := agent, line := line, state := .s } ::
               m.dir.map (fun e => if e.line = line then { e with state := .s } else e)
             hostDir := m.hostDir.map fun e => if e.1 / 2 = line then (e.1, .s) else e }
  else { m with dir := { agent := agent, line := line, state := .e } :: m.dir }

/-! ### Atomic operations (R318, R319) -/

/-- The new value of one read-and-write on the patterns of a width (R319): floating-point operations round with RNE and flush
nothing; `cas` compares with `x` and writes `y`. -/
def atomValue (op : BitVec 3) (t : Elem) (w : Nat) (old x y : Nat) : Nat :=
  match op.toNat with
  | 0 => if t.isFloat then t.pattern (((t.value old).add .rne (t.value x)).round t .rne false) else (old + x) % 2 ^ w
  | 1 => if t.isFloat then t.pattern ((t.value old).min (t.value x))
         else if t.isSigned then (if signedNat w x < signedNat w old then x else old) else (if x < old then x else old)
  | 2 => if t.isFloat then t.pattern ((t.value old).max (t.value x))
         else if t.isSigned then (if signedNat w old < signedNat w x then x else old) else (if old < x then x else old)
  | 3 => Nat.land old x
  | 4 => Nat.lor old x
  | 5 => Nat.xor old x
  | 6 => x
  | _ => if old = x then y else old

/-- A U copy put in its place among copies of ascending agent number. -/
def insertByAgent (u : UCopy) : List UCopy → List UCopy
  | [] => [u]
  | v :: t => if u.agent ≤ v.agent then u :: v :: t else v :: insertByAgent u t

/-- A line with U copies recalled (R164): the partials are combined at the home in ascending agent number. -/
def recallLine (m : Mem) (line : Nat) : Mem :=
  let us := m.ucopies.filter fun u => u.line = line
  if us.isEmpty then m
  else
    let sorted := us.foldr insertByAgent []
    let m := logLine m line 0#2
    let cells := sorted.foldl (fun cs u =>
      u.parts.foldl (fun cs p =>
        let n := if u.wide then 8 else 4
        cellPut cs p.1 (bytesOfNat n (atomValue u.op (Elem.ofCode u.type) (8 * n) (cellNat cs p.1 n) p.2.toNat 0))) cs) m.cells
    { (sealLines m (line * 128) 128) with
      cells := cells
      ucopies := m.ucopies.filter (fun u => u.line ≠ line)
      dir := m.dir.filter fun e => !(e.line = line && e.state = .u) }

/-- Every line of a range recalled. -/
def recallRange (m : Mem) (pa n : Nat) : Mem := (linesOf pa n).foldl recallLine m

/-- U granted to a die: the M, E and S copies of the others and the host's halves go as for ownership (R162, R163, R166). -/
def grantU (m : Mem) (agent line : Nat) : Mem :=
  { m with dir := { agent := agent, line := line, state := .u } :: m.dir.filter (fun e => e.line ≠ line || e.state = .u),
           copies := m.copies.filter fun c => c.line ≠ line,
           hostDir := m.hostDir.filter fun e => e.1 / 2 ≠ line }

/-- A line marked as written in the open interval by a partial that has not reached its home (R175); its pre-image is logged with it. -/
def markLine (m : Mem) (line : Nat) : Mem := logLine m line 0#2

/-- A non-returning reduction on an RC line from an agent (R163): applied to the line where the agent owns it or is the home
die's, else combined into the agent's U copy. `home` says that the agent's die is the home die; `core` is the core that issued it. -/
def reduceAt (m : Mem) (core agent : Nat) (home : Bool) (pa : Nat) (op : BitVec 3) (wide : Bool) (t : BitVec 4) (x : Nat) : Mem :=
  let n := if wide then 8 else 4
  let line := lineOf pa
  let apply := fun (m : Mem) =>
    sliceWrite m core pa (bytesOfNat n (atomValue op (Elem.ofCode t) (8 * n) (homeNat m pa n) x 0)) 0#2
  let others := m.ucopies.any fun u => u.line = line && !(u.op = op && u.wide = wide && u.type = t)
  let m := if others then recallLine m line else m
  if home then
    (if m.ucopies.any fun u => u.line = line then apply m else apply (dirOwn m agent line))
  else if dirGet m agent line = some .m || dirGet m agent line = some .e then apply (dirSet m agent line (some .m))
  else
    match m.ucopies.find? fun u => u.line = line && u.agent = agent with
    | some u =>
      let old := (u.parts.find? fun p => p.1 = pa).map (·.2)
      let new := match old with
        | some o => BitVec.ofNat 64 (atomValue op (Elem.ofCode t) (8 * n) o.toNat x 0)
        | none => BitVec.ofNat 64 x
      { (markLine m line) with
        ucopies := { u with parts := (pa, new) :: u.parts.filter (fun p => p.1 ≠ pa) } ::
          m.ucopies.filter (fun v => !(v.line = line && v.agent = agent)) }
    | none =>
      { (markLine (grantU m agent line) line) with
               ucopies := { agent := agent, line := line, op := op, wide := wide, type := t, parts := [(pa, BitVec.ofNat 64 x)] } ::
                 m.ucopies }

/-! ### IP copies (R139 to R141) -/

/-- A holder's copy of an IP line. -/
def ipFind (m : Mem) (h : IpHolder) (line : Nat) : Option IpCopy := m.ip.find? fun c => c.holder = h && c.line = line

/-- The copies with one set. -/
def ipSet (m : Mem) (c : IpCopy) : Mem := { m with ip := c :: m.ip.filter fun q => !(q.holder = c.holder && q.line = c.line) }

/-- The copies with one removed. -/
def ipDrop (m : Mem) (h : IpHolder) (line : Nat) : Mem := { m with ip := m.ip.filter fun q => !(q.holder = h && q.line = line) }

/-- The mask of `n` bytes from `off` on within a line. -/
def byteMask (off n : Nat) : BitVec 128 := BitVec.ofNat 128 ((2 ^ n - 1) * 2 ^ off)

/-- Bytes written into a copy by a node of a protection level (R139, R172). -/
def IpCopy.put (c : IpCopy) (off : Nat) (data : List Byte) (prot : BitVec 2) : IpCopy :=
  let k := byteMask off data.length
  { c with data := dataPut c.data off data, dirty := c.dirty ||| k, loose := if prot = 1#2 then c.loose ||| k else c.loose &&& ~~~k }

/-- The dirty bytes of a copy written back to memory (R140); those of `loose` by a node of level 1 (R172). -/
def writeBack (m : Mem) (line : Nat) (data : BitVec 1024) (dirty loose : BitVec 128) : Mem :=
  (List.range 128).foldl (fun q i =>
    if dirty.getLsbD i then homeWrite q (line * 128 + i) [data.extractLsb' (8 * i) 8] (if loose.getLsbD i then 1#2 else 0#2) else q) m

/-- A copy's dirty bytes written back (R140). -/
def IpCopy.home (m : Mem) (c : IpCopy) : Mem := writeBack m c.line c.data c.dirty c.loose

/-- Whether IP copies of a line exist: lines of pooled memory have none (R139). -/
def ipCached (pooled : Bool) (pa : Nat) : Bool := !(offDevice pa && pooled)

/-- An IP load by a warp of a core (R139): the core's copy, else the die's, else memory, which fills both under the handle's
policy (`cached`: the implicit cache takes the line). -/
def ipLoad (m : Mem) (core : Nat) (cached pooled : Bool) (pa n : Nat) : Mem × List Byte :=
  let line := lineOf pa
  let off := pa % 128
  if !ipCached pooled pa then (m, homeRead m pa n)
  else
    match ipFind m (.core core) line with
    | some c => (m, dataBytes c.data off n)
    | none =>
      let d : Nat := core / 40
      let data := match ipFind m (.die d) line with
        | some c => c.data
        | none => lineData m line
      let m := if (ipFind m (.die d) line).isSome then m else ipSet m { holder := .die d, line := line, data := data, dirty := 0#128, loose := 0#128 }
      let m := if cached then ipSet m { holder := .core core, line := line, data := data, dirty := 0#128, loose := 0#128 } else m
      (m, dataBytes data off n)

/-- An IP store by a warp of a core (R139): into the die's copy, which is made where absent, with its dirty bytes; a copy in
the core's implicit cache is updated too. -/
def ipStore (m : Mem) (core : Nat) (pooled : Bool) (pa : Nat) (data : List Byte) (prot : BitVec 2) : Mem :=
  let line := lineOf pa
  let off := pa % 128
  if !ipCached pooled pa then homeWrite m pa data prot
  else
    let d : Nat := core / 40
    let c := (ipFind m (.die d) line).getD { holder := .die d, line := line, data := lineData m line, dirty := 0#128, loose := 0#128 }
    let m := ipSet m (c.put off data prot)
    match ipFind m (.core core) line with
    | some q => ipSet m { q with data := dataPut q.data off data }
    | none => m

/-- An engine on a compute die reads the die's copy, a hub engine memory (R139). -/
def ipEngineRead (m : Mem) (die : Option Nat) (pooled : Bool) (pa n : Nat) : List Byte :=
  match die with
  | some d => if !ipCached pooled pa then homeRead m pa n
              else match ipFind m (.die d) (lineOf pa) with
                | some c => dataBytes c.data (pa % 128) n
                | none => homeRead m pa n
  | none => homeRead m pa n

/-- An engine's IP store (R139). -/
def ipEngineWrite (m : Mem) (die : Option Nat) (pooled : Bool) (pa : Nat) (data : List Byte) (prot : BitVec 2) : Mem :=
  match die with
  | some d =>
    if !ipCached pooled pa then homeWrite m pa data prot
    else
      let c := (ipFind m (.die d) (lineOf pa)).getD { holder := .die d, line := lineOf pa, data := lineData m (lineOf pa), dirty := 0#128, loose := 0#128 }
      ipSet m (c.put (pa % 128) data prot)
  | none => homeWrite m pa data prot

/-! ### Unpredictable bytes -/

/-- Every byte of a frame becomes unpredictable (R63, R465): each takes one free value and keeps it until it is written. -/
def scramble (m : Mem) (pa n : Nat) : Mem :=
  { (sealLines (dropCopies m pa n) pa n) with
    cells := cellPut m.cells pa ((List.range n).map fun i => Config.freeByte (m.free + i)), free := m.free + n }

end Sys2Proof.Machine
end

