-- ==== Sys2Proof/Machine/Translate.lean ====
section
/-!
DEFINITION. Virtual memory (spec/03): page-table entries, the walk, translation caches, permissions and keys; and the fields of
handle-table entries (spec/02, R26).
-/
namespace Sys2Proof.Machine

/-! ### Fault codes (spec/14, R379) -/

def cIllegalInstruction : Byte := 0x01
def cIllegalClause : Byte := 0x02
def cIllegalTarget : Byte := 0x03
def cIllegalRegister : Byte := 0x04
def cMisaligned : Byte := 0x05
def cPageFault : Byte := 0x10
def cProtection : Byte := 0x11
def cRegionBounds : Byte := 0x12
def cHandleBounds : Byte := 0x13
def cAliasAttr : Byte := 0x14
def cWosRewrite : Byte := 0x15
def cWosTimeout : Byte := 0x16
def cIllegalAtomic : Byte := 0x17
def cDecodeStream : Byte := 0x20
def cCodeTableMissing : Byte := 0x21
def cTilePoison : Byte := 0x22
def cRnrExhausted : Byte := 0x30
def cTetherGone : Byte := 0x31
def cGangAbort : Byte := 0x32
def cDeadlockBarrier : Byte := 0x40
def cDeadlockRegs : Byte := 0x41
def cDeadlockQueue : Byte := 0x42
def cStackOverflow : Byte := 0x43
def cTimer : Byte := 0x60
def cSoftwareTrap : Byte := 0x61
def cDoubleTrap : Byte := 0x62
def cStoreImprecise : Byte := 0x70

/-! ### Page attributes (R21) -/

def aRc : BitVec 2 := 0
def aSc : BitVec 2 := 1
def aWos : BitVec 2 := 2
def aIp : BitVec 2 := 3

/-! ### Page-table entries (R48, R49) -/

/-- A leaf that a walk ends in: its entry, the log2 of its page size, the address it was read from. -/
structure Leaf where
  entry : BitVec 128
  log : Nat
  pte : Nat
  deriving DecidableEq, Repr

def pteV (e : BitVec 128) : Bool := e.getLsbD 92
def pteLG (e : BitVec 128) : Bool := e.getLsbD 93
def pteAC (e : BitVec 128) : Bool := e.getLsbD 94
def pteD (e : BitVec 128) : Bool := e.getLsbD 95
def pteR (e : BitVec 128) : Bool := e.getLsbD 96
def pteW (e : BitVec 128) : Bool := e.getLsbD 97
def pteX (e : BitVec 128) : Bool := e.getLsbD 98
def pteA (e : BitVec 128) : Bool := e.getLsbD 99
def pteAttr (e : BitVec 128) : BitVec 2 := e.extractLsb' 100 2
def pteKey (e : BitVec 128) : BitVec 7 := e.extractLsb' 102 7
def pteSPL (e : BitVec 128) : Bool := e.getLsbD 109
/-- The physical address of the frame or of the next table. -/
def pteFrame (e : BitVec 128) : Nat := bitsNat e 16 36 * 65536

/-- Shift and index width of each level (R47). -/
def levelShift (level : Nat) : Nat := match level with | 0 => 64 | 1 => 52 | 2 => 40 | 3 => 28 | _ => 16
def levelBits (level : Nat) : Nat := if level = 0 then 16 else 12

/-- Whether a valid entry is a leaf at a level (R47). -/
def pteLeaf (e : BitVec 128) (level : Nat) : Bool := level = 4 || ((level = 2 || level = 3) && pteLG e)

/-- A page covers a reserved byte (R51). -/
def coversReserved (frame size : Nat) : Bool := frame < 0x20000000000 && reservedFrom < frame + size

/-- A malformed entry (R49): `splinters` are the entries in which the Usson has set SPL. -/
def pteMalformed (splinters : List Nat) (e : BitVec 128) (level pte : Nat) : Bool :=
  let zero := bitsNat e 110 18 ≠ 0 || bitsNat e 52 40 ≠ 0 || bitsNat e 0 16 ≠ 0
  let lg := pteLG e && (level = 0 || level = 1 || level = 4)
  if pteLeaf e level then
    let size := 2 ^ levelShift level
    let f := pteFrame e
    zero || lg || (level = 2 && (bitsNat e 16 24 ≠ 0 || inDevice f)) || (level = 3 && bitsNat e 16 12 ≠ 0)
      || !(inDevice f || offDevice f) || coversReserved f size || (pteSPL e && !splinters.contains pte)
  else zero || lg || bitsNat e 94 16 ≠ 0 || !inDevice (pteFrame e) || inReserved (pteFrame e)

/-- How a walk ends (R47). -/
inductive WalkEnd where
  | fault (detail : Byte)
  | stall
  | leaf (l : Leaf)
  deriving DecidableEq, Repr

/-- A table entry as a walker reads it: under key 0 whatever the frame record says, partials of U copies combined (R46, R164). -/
def pteRead (m : Mem) (pte : Nat) : BitVec 128 :=
  let m := recallLine m (lineOf pte)
  if m.origins.isEmpty && (frameRec m pte).key = 0#7 then BitVec.ofNat 128 (homeNat m pte 16)
  else (lineUnder m 0#7 (lineOf pte)).extractLsb' (8 * (pte % 128)) 128

/-- The line of a table taken by the Usson to write it: partials combined, every copy and the host's halves given up (R162, R164, R166). -/
def takeLine (m : Mem) (pa : Nat) : Mem :=
  let m := recallLine m (lineOf pa)
  { m with dir := m.dir.filter (fun e => e.line ≠ lineOf pa)
           hostDir := m.hostDir.filter (fun e => e.1 / 2 ≠ lineOf pa) }

/-- Where a level of a walk finds its entry. -/
def pteAt (table va level : Nat) : Nat := table + 16 * (va / 2 ^ levelShift level % 2 ^ levelBits level)

/-- The table that the walk caches give for a level (R54). -/
def walkFind (m : Mem) (ctx : BitVec 16) (va level : Nat) : Option Nat :=
  (m.walks.find? fun w => w.ctx = ctx && w.level = level && w.index = va / 2 ^ levelShift level).map (·.table)

/-- The walk of R47 from a table, over the levels that remain; an entry that is no leaf is taken from the walk caches where they hold it
(R54). -/
def walk (m : Mem) (ctx : BitVec 16) (va : Nat) : List Nat → Nat → WalkEnd
  | [], _ => .fault 0x20
  | level :: rest, table =>
    match walkFind m ctx va level with
    | some next => walk m ctx va rest next
    | none =>
      let pte := pteAt table va level
      let e := pteRead m pte
      if !pteV e then .fault (BitVec.ofNat 8 (0x10 + level))
      else if pteMalformed m.splinters e level pte then .fault (BitVec.ofNat 8 (0x20 + level))
      else if pteLeaf e level then (if pteSPL e then .stall else .leaf { entry := e, log := levelShift level, pte := pte })
      else walk m ctx va rest (pteFrame e)

/-- The walk cache entries of a walk that ends in a leaf (R54). -/
def walkPath (m : Mem) (ctx : BitVec 16) (va : Nat) : List Nat → Nat → List WalkEntry
  | [], _ => []
  | level :: rest, table =>
    match walkFind m ctx va level with
    | some next => walkPath m ctx va rest next
    | none =>
      let e := pteRead m (pteAt table va level)
      if pteLeaf e level then []
      else { ctx := ctx, level := level, index := va / 2 ^ levelShift level, table := pteFrame e } :: walkPath m ctx va rest (pteFrame e)

/-- The cached leaf of a virtual address (R54). -/
def tlbFind (m : Mem) (ctx : BitVec 16) (va : Nat) : Option TlbEntry :=
  m.tlb.find? fun t => t.ctx = ctx && va / 2 ^ t.log = t.base / 2 ^ t.log

/-- Bytes of one line of a table written by the Usson, under key 0 (R46); a write to a table is logged as any other (R56, R170). -/
def tablePut (m : Mem) (pa : Nat) (bs : List Byte) : Mem :=
  let m := takeLine m pa
  let k := (frameRec m pa).key
  if m.origins.isEmpty && k = 0#7 then homeWrite m pa bs 0#2
  else
    let line := lineOf pa
    let data := dataPut (lineUnder m 0#7 line) (pa % 128) bs
    let seen := if k = 0#7 then data else Config.recrypt 0#7 k line data
    let m := homeWrite m (line * 128) (bytesOfNat 128 seen.toNat) 0#2
    { m with origins := (if k = 0#7 then [] else [{ line := line, key := 0#7, data := data }]) ++ m.origins }

/-- A page-table entry rewritten in memory by the Usson. -/
def ptePut (m : Mem) (pte : Nat) (e : BitVec 128) : Mem := tablePut m pte (bytesOfNat 16 e.toNat)

/-- AC set, and D when `dirty` (R56). -/
def pteTouch (e : BitVec 128) (dirty : Bool) : BitVec 128 :=
  e ||| (1#128 <<< 94) ||| (if dirty then 1#128 <<< 95 else 0#128)

/-- A walk whose leaf is cached, with AC and D set in memory as R56 says. -/
def walkFill (m : Mem) (ctx : BitVec 16) (root va : Nat) (dirty : Bool) : Mem × WalkEnd :=
  match walk m ctx va [0, 1, 2, 3, 4] root with
  | .leaf l =>
    let m := { m with walks := walkPath m ctx va [0, 1, 2, 3, 4] root ++ m.walks }
    let e := pteTouch l.entry dirty
    let m := if e = l.entry then m else ptePut m l.pte e
    ({ m with tlb := { ctx := ctx, base := va / 2 ^ l.log * 2 ^ l.log, log := l.log, pte := l.pte, entry := e } ::
        m.tlb.filter fun t => !(t.ctx = ctx && t.log = l.log && t.base = va / 2 ^ l.log * 2 ^ l.log) }, .leaf { l with entry := e })
  | r => (m, r)

/-- The translation of a virtual address (R47, R54, R56): a cached leaf stays in use until a shootdown removes it; a first store
through it sets D in the entry, and walks again if the entry has changed. -/
def xlate (m : Mem) (ctx : BitVec 16) (root va : Nat) (dirty : Bool) : Mem × WalkEnd :=
  match tlbFind m ctx va with
  | some t =>
    if !dirty || pteD t.entry then (m, .leaf { entry := t.entry, log := t.log, pte := t.pte })
    else if pteRead m t.pte = t.entry then
      let e := pteTouch t.entry true
      let m := ptePut m t.pte e
      ({ m with tlb := m.tlb.map fun q => if q = t then { q with entry := e } else q }, .leaf { entry := e, log := t.log, pte := t.pte })
    else walkFill { m with tlb := m.tlb.filter fun q => q ≠ t } ctx root va dirty
  | none => walkFill m ctx root va dirty

/-! ### Permissions, keys and windows -/

/-- Kinds of access for R50. -/
inductive Access where
  | load | store | fetch | atomic | reduce
  deriving DecidableEq, Repr

/-- The detail of a refused access (R50). -/
def permDetail (a : Access) (e : BitVec 128) : Option Byte :=
  match a with
  | .load => if pteR e then none else some 0x01
  | .store => if pteW e then none else some 0x02
  | .fetch => if pteX e then none else some 0x03
  | .atomic => if !pteR e then some 0x01 else if !pteW e then some 0x02 else if !pteA e then some 0x04 else none
  | .reduce => if !pteW e then some 0x02 else if !pteA e then some 0x04 else none

/-- An access that writes needs D (R56). -/
def Access.writes : Access → Bool
  | .load | .fetch => false
  | _ => true

/-- The off-device window that maps a physical address, the lowest-numbered one (R426). -/
def windowOf (f : Fabric) (pa : Nat) : Option (BitVec 128) :=
  f.windows.toList.find? fun w =>
    w.getLsbD 63 && bitsNat w 28 24 * 2 ^ 28 ≤ pa && pa < bitsNat w 28 24 * 2 ^ 28 + (bitsNat w 0 12 + 1) * 2 ^ 28

/-- Whether an off-device address lies in pooled memory (R426). -/
def pooledAt (f : Fabric) (pa : Nat) : Bool := offDevice pa && ((windowOf f pa).map fun w => w.getLsbD 62).getD false

/-- The checks of a leaf after the walk: permission (R50), key slot and off-device attributes (R52), the window (R51). An off-device leaf that
breaks R52 and lies in no window takes 0x06 of R52; the spec does not order the two (log entry 56). -/
def leafCheck (s : State) (a : Access) (e : BitVec 128) (pa : Nat) : Option (Byte × Byte) :=
  match permDetail a e with
  | some d => some (cProtection, d)
  | none =>
    if offDevice pa then
      if pteKey e ≠ 0#7 || !(pteAttr e = aRc || pteAttr e = aIp) then some (cProtection, 0x06)
      else if (windowOf s.fab pa).isNone then some (cPageFault, 0x30) else none
    else if !s.m.keyFull.getLsbD (pteKey e).toNat then some (cProtection, 0x05)
    else none

/-- The outcome of resolving one access. -/
inductive Resolved where
  | ok (s : State) (p : Place)
  | fault (code detail : Byte) (va : VA)
  | stall

/-- The physical address of a virtual address under a leaf. -/
def leafPa (l : Leaf) (va : Nat) : Nat := pteFrame l.entry + va % 2 ^ l.log

/-- The place that a leaf gives a virtual address. -/
def leafPlace (l : Leaf) (va : Nat) : Place :=
  { stash := false, off := 0, pa := leafPa l va, va := BitVec.ofNat 80 va, attr := pteAttr l.entry, key := pteKey l.entry }

/-- ROOT of the context's descriptor, as a physical address (R205). -/
def ctxRoot (x : Ctx) : Nat := bitsNat x.desc 44 32 * 2 ^ 20

/-- IMAGE of a context (R205). -/
def ctxImage (x : Ctx) : Nat := bitsNat x.desc 640 80

/-- A virtual access of a context: walk, permission, key and window (R47 to R52). -/
def resolveVaOf (s : State) (x : Ctx) (a : Access) (va : Nat) : Resolved :=
  match xlate s.m x.num (ctxRoot x) va a.writes with
  | (_, .fault d) => .fault cPageFault d (BitVec.ofNat 80 va)
  | (_, .stall) => .stall
  | (m, .leaf l) =>
    match leafCheck s a l.entry (leafPa l va) with
    | some (c, d) => .fault c d (BitVec.ofNat 80 va)
    | none => .ok { s with m := m } (leafPlace l va)

/-- A virtual access of the context in focus. -/
def resolveVa (s : State) (a : Access) (va : Nat) : Resolved := resolveVaOf s s.x a va

/-- The comparison with the frame record at the home (R62, R63): the detail of ALIAS_ATTR. Where attribute and key both differ, the spec does
not say which detail is reported; the model reports 0x01 (log entry 56). -/
def homeCheck (m : Mem) (p : Place) : Option Byte :=
  if p.stash || offDevice p.pa then none
  else
    let r := frameRec m p.pa
    match r.changing with
    | some (a, k) =>
      if (p.attr = r.attr && p.key = r.key) || (p.attr = a && p.key = k) then none
      else if p.attr ≠ r.attr && p.attr ≠ a then some 0x01 else some 0x03
    | none => if p.attr ≠ r.attr then some 0x01 else if p.key ≠ r.key then some 0x03 else none

/-- The comparison for a read: one that would park on an unpublished WOS line of a CHANGING record is released instead (R63). -/
def readCheck (m : Mem) (p : Place) : Option Byte :=
  match homeCheck m p with
  | some d => some d
  | none =>
    if !p.stash && !offDevice p.pa && (frameRec m p.pa).changing.isSome && p.attr = aWos && (frameRec m p.pa).attr = aWos
        && p.key = (frameRec m p.pa).key && wosState m p.pa ≠ .published then some 0x02 else none

/-- An access under the new attribute and key waits at a CHANGING record (R63), and every access to a line that an uncorrectable error has
struck waits for the rollback (R177). -/
def homeStalls (m : Mem) (p : Place) : Bool :=
  !p.stash && (m.bad.contains (lineOf p.pa) || (!offDevice p.pa &&
    match (frameRec m p.pa).changing with
    | some (a, k) => p.attr = a && p.key = k && !(p.attr = (frameRec m p.pa).attr && p.key = (frameRec m p.pa).key)
    | none => false))

/-! ### Handle entries (R26) -/

def hBase (e : BitVec 512) : Nat := bitsNat e 0 80
def hRegion (e : BitVec 512) : Nat := bitsNat e 80 12
def hSpace (e : BitVec 512) : Nat := bitsNat e 92 3
def hValid (e : BitVec 512) : Bool := e.getLsbD 95
def hPolicy (e : BitVec 512) : Nat := bitsNat e 96 3
def hType (e : BitVec 512) : Elem := Elem.ofCode (e.extractLsb' 99 4)
def hAttar (e : BitVec 512) : Bool := e.getLsbD 103
def hCtab (e : BitVec 512) : Nat := bitsNat e 104 6
def hRank (e : BitVec 512) : Nat := bitsNat e 110 2
def hLength (e : BitVec 512) : Nat := bitsNat e 128 56
def hRo (e : BitVec 512) : Bool := e.getLsbD 184
def hBidx (e : BitVec 512) : Nat := bitsNat e 192 80
def hDim (e : BitVec 512) (i : Nat) : Nat := bitsNat e (272 + 28 * i) 28
def hTile (e : BitVec 512) (i : Nat) : Nat := bitsNat e (384 + 12 * i) 12
def hGrid (e : BitVec 512) (i : Nat) : Nat := bitsNat e (432 + 20 * i) 20
/-- A zero extent above RANK reads as 1 (R26, R42). -/
def orOne (n : Nat) : Nat := if n = 0 then 1 else n
/-- Every shape field is zero (R42). -/
def hShapeless (e : BitVec 512) : Bool := bitsNat e 272 240 = 0
/-- Elements of one tile, N of R70. -/
def hElems (e : BitVec 512) : Nat :=
  if hShapeless e then 0 else orOne (hTile e 0) * orOne (hTile e 1) * orOne (hTile e 2) * orOne (hTile e 3)

/-- The handle of a register number. -/
def handleAt (w : Warp) (h : BitVec 4) : Handle := w.h[h.toNat]

/-! ### The stash (R22, R97, R98) -/

/-- The stash map entry that covers a stash line (R97). -/
def smapOf (b : Block) (line : Nat) : Option (BitVec 128) :=
  b.smap.toList.find? fun e => e.getLsbD 127 && bitsNat e 89 15 ≤ line && line < bitsNat e 89 15 + bitsNat e 104 11 + 1

/-- The global VA that a mapped stash offset stands for (R97). -/
def smapVa (e : BitVec 128) (off : Nat) : Nat := bitsNat e 0 80 + (off - bitsNat e 89 15 * 128)

/-- The place of an unmapped stash byte. -/
def stashPlace (off : Nat) (va : Nat) (attr : BitVec 2) (pa : Nat) : Place :=
  { stash := true, off := off, pa := pa, va := BitVec.ofNat 80 va, attr := attr, key := 0#7 }

/-! ### Tracked lines (R157 to R166) -/

/-- The agent number of the die of a core (R158). -/
def agentOf (s : State) (core : Nat) : Nat := 4 * s.fab.ident.toNat + core / 40

/-- A line of host memory, which is homed at the host, the bridge acting for it (R157). -/
def hostLineAt (s : State) (pa : Nat) : Bool := offDevice pa && !pooledAt s.fab pa

/-- The states in which the dies of this device hold host lines: the bridge's directory at the bridge, the device's own elsewhere (R165). -/
def hostDirOf (s : State) : List DirEntry := if s.fab.bridge then s.m.bridgeDir else s.m.dir

/-- A die may read a line, or write it when `own`: a host line is asked for at the bridge first (R162, R165). -/
def lineHeld (s : State) (core pa : Nat) (own : Bool) : Bool :=
  !hostLineAt s pa ||
    (hostDirOf s).any fun e => e.agent = agentOf s core && e.line = lineOf pa && (!own || e.state = .m || e.state = .e)

/-- A host line asked for by the die of a core, once (R162). -/
def wantLine (m : Mem) (agent line : Nat) (want : LineState) : Mem :=
  if m.wants.any fun w => w.1 = agent && w.2.1 = line && w.2.2.1 = want then m
  else { m with wants := m.wants ++ [(agent, line, want, false)] }

/-- A global line obtained for reading by the die of a core: U copies recalled (R164), the die's copy recorded (R159, R162). Pooled lines
are not cached (R167), and a host line is held already (`lineHeld`). -/
def shareLine (s : State) (core pa : Nat) : State :=
  if offDevice pa then s else { s with m := dirShare (recallLine s.m (lineOf pa)) (agentOf s core) (lineOf pa) }

/-- A global line obtained for writing by the die of a core (R162, R164); one of an unpublished WOS page has no copy (R159). -/
def ownLine (s : State) (core pa : Nat) : State :=
  let line := lineOf pa
  let toM := fun (l : List DirEntry) => l.map fun e => if e.agent = agentOf s core && e.line = line then { e with state := .m } else e
  if hostLineAt s pa then
    (if s.fab.bridge then { s with m := { s.m with bridgeDir := toM s.m.bridgeDir } } else { s with m := { s.m with dir := toM s.m.dir } })
  else if offDevice pa then s
  else if (frameRec s.m pa).attr = aWos then { s with m := recallLine s.m line }
  else { s with m := dirOwn (recallLine s.m line) (agentOf s core) line }

/-- A core may keep a copy of a line on a page with an attribute (R159): RC pages of device and host memory, published WOS lines. -/
def copyable (s : State) (attr : BitVec 2) (pa : Nat) : Bool := !pooledAt s.fab pa && (attr = aRc || (attr = aWos && wosState s.m pa = .published))

/-- A wait bounded by the context's WOS deferral limit (R138), counted in resident WALL time: true once the limit has passed. -/
def wosExpired (s : State) (since : Nat) : Bool := (s.w.cyc.toNat - since) * 10 / 16 ≥ bitsNat s.x.desc 76 20 * 1000

/-! ### Mapped lines (R97, R98) -/

/-- A mapped line filled at its first touch (R98): on an IP page its copy is taken from the global line; on an RC or WOS page the core holds
a copy of that line as a sharer. -/
def fillMapped (s : State) (line : Nat) (p : Place) : State :=
  if p.attr = aIp then
    let r := ipLoad s.m s.w.core.toNat false (pooledAt s.fab p.pa) (p.pa / 128 * 128) 128
    { s with m := r.1, b := { s.b with stash := cellPut s.b.stash (line * 128) r.2,
                                       mapped := { line := line, ip := true, dirty := 0#128 } :: s.b.mapped } }
  else
    let s := shareLine s s.w.core.toNat p.pa
    { s with m := copyFill s.m s.w.core.toNat (lineOf p.pa),
             b := { s.b with mapped := { line := line, ip := false, dirty := 0#128 } :: s.b.mapped.filter fun q => q.line ≠ line } }

/-- An unmapped stash line that a newcomer took is read back from the context image on its first touch (R101); `none` while its page is being
splintered. A line of the image that cannot be read keeps what the hub has of it (log entry 43). -/
def stashReturn (s : State) (line : Nat) : Option State :=
  match s.b.awayLines.find? fun e => e.1 = line with
  | none => some s
  | some e =>
    if s.hub.writesDue.any fun d => d.1 = s.x.num then none else
    let here := fun (s : State) (stash : List Host.Cell) =>
      { s with b := { s.b with stash := stash, awayLines := s.b.awayLines.filter fun q => q.1 ≠ line } }
    match resolveVa s .load (ctxImage s.x + e.2) with
    | .stall => none
    | .fault .. => some (here s s.b.stash)
    | .ok s p => some (here s (cellPut s.b.stash (128 * line) (homeRead (recallLine s.m (lineOf p.pa)) p.pa 128)))

/-- The place of an access to a stash offset (R36, R98): an unmapped line is stash; a mapped line on an RC, SC or WOS page is its
global line, and its first touch on an RC or WOS page fills it, waiting where the line is unpublished; on an IP page it is the block's copy,
which the first touch fills. A line of pooled memory is never copied (R167). -/
def resolveStash (s : State) (a : Access) (off : Nat) : Resolved :=
  match smapOf s.b (off / 128) with
  | none =>
    match stashReturn s (off / 128) with
    | some s => .ok s (stashPlace off 0 0#2 0)
    | none => .stall
  | some e =>
    let va := smapVa e off
    if s.b.mapped.any fun q => q.ip && q.line = off / 128 then .ok s (stashPlace off va aIp 0)
    else
      match xlate s.m s.x.num (ctxRoot s.x) va false with
      | (_, .fault d) => .fault cPageFault d (BitVec.ofNat 80 va)
      | (_, .stall) => .stall
      | (_, .leaf l) =>
        if pteAttr l.entry = aSc || pooledAt s.fab (leafPa l va)
            || (pteAttr l.entry ≠ aIp && (copyFind s.m s.w.core.toNat (lineOf (leafPa l va))).isSome) then resolveVa s a va
        else
          match resolveVa s .load va with
          | .ok s p =>
            if homeStalls s.m p then .stall
            else match homeCheck s.m p with
            | some d => .fault cAliasAttr d (BitVec.ofNat 80 va)
            | none =>
              if p.attr = aIp then .ok (fillMapped s (off / 128) p) (stashPlace off va aIp p.pa)
              else if !lineHeld s s.w.core.toNat p.pa false then
                (if a = .load then .ok s p else resolveVa s a va)
              else if p.attr = aWos && wosState s.m p.pa ≠ .published then
                (if a = .load then .ok s p
                 else if s.w.status = .parked .splinter && wosExpired s s.w.since then .fault cWosTimeout 0x00 (BitVec.ofNat 80 va)
                 else .stall)
              else if a = .load then .ok (fillMapped s (off / 128) p) p else resolveVa (fillMapped s (off / 128) p) a va
          | r => r

/-- The stash offset that a stash map entry of the block gives a VA (R97). -/
def mapOffset (b : Block) (va : Nat) : Option Nat :=
  (b.smap.toList.find? fun e => e.getLsbD 127 && bitsNat e 0 80 ≤ va && va < bitsNat e 0 80 + 128 * (bitsNat e 104 11 + 1)).map fun e =>
    128 * bitsNat e 89 15 + (va - bitsNat e 0 80)

/-- A warp's access to a VA on an IP page that a stash map of its block covers uses the block's mapped line (R139). -/
def throughMap (s : State) (a : Access) (p : Place) : Resolved :=
  if p.stash || p.attr ≠ aIp || pooledAt s.fab p.pa then .ok s p
  else
    match mapOffset s.b p.va.toNat with
    | some off => resolveStash s a off
    | none => .ok s p

end Sys2Proof.Machine
end

