-- ==== Sys2Proof/Machine/Ops.lean ====
section
/-!
DEFINITION. The named operations over registers, paths and memory that the meanings share: how an instruction stops (a precise
trap or a wait), registers, the divergence stack (spec/08, R193), the program counter and clauses (spec/10, R227, R228), the fault
record and ring (spec/14, R380, R381), taking a trap (R382 to R385), returning from one (R386), halting (R390).
-/
namespace Sys2Proof.Machine

/-! ### How an instruction stops -/

/-- A precise fault (R377, R380): its code and detail, the lanes of TRAPMASK (`none`: the instruction's active lanes, R378), and
the record fields that its cause fills. `next` marks SOFTWARE_TRAP, which resumes at the successor (R383). -/
structure TrapInfo where
  code : Byte
  detail : Byte
  mask : Option Mask := none
  va : VA := 0#80
  hreg : BitVec 4 := 0#4
  subs : BitVec 4 := 0xF#4
  bitoff : BitVec 20 := 0#20
  swn : BitVec 10 := 0#10
  next : Bool := false
  deriving DecidableEq, Repr

/-- What ends an instruction without its own effect: a precise trap, or a wait after which it is tried again. -/
inductive Stop where
  | trap (t : TrapInfo)
  | wait (p : Park)
  deriving DecidableEq, Repr

/-- A computation that may stop the instruction. -/
abbrev Run (α : Type) := Except Stop α

/-- A precise fault by code and detail. -/
def trap {α : Type} (code detail : Byte) : Run α := .error (.trap { code := code, detail := detail })

/-- A consumer trap (R66): the poison's code, DETAIL 0xFF, the poisoned lanes. -/
def consume {α : Type} (code : Byte) (mask : Option Mask) : Run α :=
  .error (.trap { code := code, detail := 0xFF, mask := mask })

/-- A wait. -/
def park {α : Type} (p : Park) : Run α := .error (.wait p)

/-- The trap unless a condition holds. -/
def require (ok : Bool) (code detail : Byte) : Run Unit := if ok then .ok () else trap code detail

/-! ### Registers -/

/-- MODE.ET (R190). -/
def modeEt (w : Warp) : Elem := Elem.ofCode (w.mode.extractLsb' 5 4)
/-- MODE.RM (R190). -/
def modeRm (w : Warp) : Rm := Rm.ofCode (w.mode.extractLsb' 9 2)
/-- MODE.SAT, MODE.FTZ, MODE.SP, MODE.CMP (R190). -/
def modeSat (w : Warp) : Bool := w.mode.getLsbD 11
def modeFtz (w : Warp) : Bool := w.mode.getLsbD 12
def modeSp (w : Warp) : Bool := w.mode.getLsbD 13
def modeCmp (w : Warp) : Bool := w.mode.getLsbD 23
/-- MODE.DS (R190). -/
def modeDs (w : Warp) : BitVec 3 := w.mode.extractLsb' 14 3
/-- MODE.CB (R190). -/
def modeCb (w : Warp) : Nat := bitsNat w.mode 17 6
/-- MODE.PW (R190). -/
def modePw (w : Warp) : Nat := bitsNat w.mode 24 6

/-- A predicate lane; p0 reads all ones (R17). -/
def predLane (w : Warp) (n : BitVec 4) (l : Fin 64) : PLane :=
  if n = 0#4 then ⟨true, false, 0#8⟩ else w.p[n.toNat][l]

/-- The guard of a lane (R18). -/
def guardBit (w : Warp) (l : Fin 64) : Bool := (predLane w (w.mode.extractLsb' 0 4) l).bit ^^ w.mode.getLsbD 4

/-- The active lanes: EXEC and the guard (R18); the run-ahead processor always acts (R258). -/
def active (w : Warp) : Mask := if w.rap then BitVec.allOnes 64 else w.exec &&& laneMask (guardBit w)

/-- A lane of a vector register. -/
def vLane (w : Warp) (n : Fin 232) (l : Fin 64) : Lane := w.v[n][l]

/-- A vector register written in the lanes of a mask; the other lanes keep their values and poison bits (R258). -/
def setV (w : Warp) (n : Fin 232) (m : Mask) (f : Fin 64 → Lane) : Warp :=
  { w with v := w.v.set n (lanesOf fun l => if m.getLsbD l then f l else w.v[n][l]) }

/-- A scalar register. -/
def sReg (w : Warp) (n : Fin 64) : Scalar := w.s[n]

/-- A scalar register written. -/
def setS (w : Warp) (n : Fin 64) (x : Scalar) : Warp := { w with s := w.s.set n x }

/-- A predicate written in the lanes of a mask; p0 is never written (R235). -/
def setP (w : Warp) (n : BitVec 4) (m : Mask) (f : Fin 64 → PLane) : Warp :=
  { w with p := w.p.set n.toNat (lanesOf fun l => if m.getLsbD l then f l else w.p[n.toNat][l]) }

/-- The value of a poisoned register: its code zero-extended (R65). -/
def poisonLane (code : Byte) : Lane := ⟨code.setWidth 32, true⟩
/-- A poisoned scalar (R65). -/
def poisonScalar (code : Byte) : Scalar := ⟨code.setWidth 64, true⟩

/-- Register block `b` is claimed (R89). -/
def blockClaimed (w : Warp) (b : Nat) : Bool := w.claimed.getLsbD b

/-! ### Time (R7) -/

/-- WALL: time-base nanoseconds, ten for sixteen core clocks. -/
def wall (s : State) : Nat := s.clk * 10 / 16

/-- A telemetry counter increased, saturating (R463, R464). -/
def count (s : State) (index : BitVec 16) (inst : Word) (n : Nat) : State :=
  let old := ((s.hub.counters.find? fun c => c.1 = index && c.2.1 = inst).map (·.2.2)).getD 0#64
  let new := BitVec.ofNat 64 (min (old.toNat + n) (2 ^ 64 - 1))
  { s with hub := { s.hub with counters := (index, inst, new) :: s.hub.counters.filter fun c => !(c.1 = index && c.2.1 = inst) } }

/-! ### Clauses and the program counter (R227, R228) -/

/-- Word `j` of the clause in the instruction buffer. -/
def clauseWord (w : Warp) (j : Nat) : Word := w.clause.extractLsb' (32 * j) 32
/-- LIT of the header: the number of literal words. -/
def litCount (w : Warp) : Nat := bitsNat w.clause 9 3
/-- Which word of its clause an address names. -/
def wordIndex (pc : VA) : Nat := bitsNat pc 2 4
/-- The VA of the clause of an address. -/
def clauseVa (pc : VA) : VA := pc &&& ~~~0x3F#80

/-- The successor of the word at the program counter, and whether moving there is an entry (R228). -/
def succOf (w : Warp) : VA × Bool :=
  if wordIndex w.pc < 15 - litCount w then (w.pc + 4#80, false) else (clauseVa w.pc + 68#80, true)

/-- What a warp keeps of the path in focus when another comes into it (R194). -/
def pathOf (w : Warp) : PathCtx :=
  { pc := w.pc, enter := w.enter, clause := w.clause, exec := w.exec, m := w.m, rp := w.rp, status := w.status, since := w.since, woken := w.woken }

/-- A path of a split in focus (R194). -/
def takePath (w : Warp) (c : PathCtx) : Warp :=
  { w with pc := c.pc, enter := c.enter, clause := c.clause, exec := c.exec, m := c.m, rp := c.rp, status := c.status, since := c.since, woken := c.woken }

/-- A path that has ended, a reconvergence, or the resumption after an EXIT that left EXEC empty (R193, R194, R269, R384): `ended` says that
the running path has no lane left. The recursion takes one entry of the stack at a time. -/
def unwind : Nat → Bool → Warp → Warp
  | 0, _, w => w
  | fuel + 1, ended, w =>
    match w.stack with
    | [] => w
    | e :: rest =>
      match e.kind with
      | .path =>
        if ended || w.pc = e.rpc then
          if let some c := e.other.filter fun c => c.m ≠ 0#64 then
            unwind fuel false { takePath w c with stack := { e with running := true, other := none } :: rest }
          else if !e.running && !e.pooled && e.mask ≠ 0#64 then
            unwind fuel false { w with stack := { e with running := true } :: rest, exec := e.mask, m := e.mask, pc := e.pc, enter := true }
          else
            match rest with
            | j :: below => unwind fuel (j.mask = 0#64) { w with stack := below, exec := j.mask, m := j.mask, pc := j.pc, enter := true }
            | [] => { w with stack := [] }
        else w
      | .join =>
        if ended || w.pc = e.rpc then
          unwind fuel (e.mask = 0#64) { w with stack := rest, exec := e.mask, m := e.mask, pc := e.pc, enter := true }
        else w
      | .call =>
        if ended then
          unwind fuel (e.mask = 0#64) { w with stack := rest, exec := e.mask, m := e.m &&& ~~~w.gone, pc := e.pc, enter := true }
        else w
      | .trap =>
        if ended then
          unwind fuel (e.mask = 0#64) { w with
            stack := rest, exec := e.mask, m := e.m &&& ~~~w.gone, pc := e.pc, enter := true, trapmask := 0#64, floor := floorOf rest, rp := rpOf e, rowResume := w.rowAt = some e.pc }
        else w
where
  /-- the depth of the topmost trap entry, 0 when there is none (R386) -/
  floorOf : List StackEntry → BitVec 9
    | [] => 0#9
    | e :: t => if e.kind = .trap then BitVec.ofNat 9 (t.length + 1) else floorOf t
  /-- RP from a trap entry's RPC: a VA whose low bits are zero records none (R383, R386) -/
  rpOf (e : StackEntry) : Option VA := if e.rpc.extractLsb' 0 6 = 0#6 then none else some e.rpc

/-- The paths that end because the program counter stands at their reconvergence point (R193). -/
def settle (w : Warp) : Warp := unwind (2 * w.stack.length + 1) false w

/-- The warp running at a target, reached by an entry (R228). -/
def jumpTo (w : Warp) (target : VA) : Warp :=
  settle { w with pc := target, enter := true, status := .running, woken := false, rowResume := false }

/-- The warp running at the successor of its word (R228). -/
def stepOver (w : Warp) : Warp :=
  settle { w with pc := (succOf w).1, enter := (succOf w).2, status := .running, woken := false, rowResume := false }

/-- The state after an instruction that falls through to its successor. -/
def advance (s : State) : State := { s with w := stepOver s.w }

/-! ### Accesses of the hub -/

/-- What a hub unit computes: a fault, or with `none` a wait behind a splinter or an ATTRCHG (R49, R63). -/
abbrev HubRun (α : Type) := Except (Option TrapInfo) α

/-- The place of an access of a hub unit for a context, once its home admits it. -/
def hubPlace (s : State) (x : Ctx) (a : Access) (va : Nat) : HubRun (State × Place) :=
  match resolveVaOf s x a va with
  | .fault c d v => .error (some { code := c, detail := d, va := v })
  | .stall => .error none
  | .ok s p =>
    match homeCheck s.m p with
    | some d => .error (some { code := cAliasAttr, detail := d, va := p.va })
    | none => if homeStalls s.m p then .error none else .ok (s, p)

/-- The number of `n` bytes at a VA. -/
def hubFetch (s : State) (x : Ctx) (va n : Nat) : HubRun (State × Nat) :=
  match hubPlace s x .load va with
  | .error e => .error e
  | .ok (s, p) =>
    if p.attr = aWos && wosState s.m p.pa ≠ .published then .error none
    else let m := recallRange s.m p.pa n; .ok ({ s with m := m }, homeNat m p.pa n)

/-- Bytes written at a place. -/
def placePut (s : State) (p : Place) (data : List Byte) : State :=
  let m := (linesOf p.pa data.length).foldl (fun m l => takeLine m (128 * l)) s.m
  let m := if p.attr = aWos then setWos m (lineOf p.pa) .filling else m
  { s with m := homeWrite m p.pa data 0#2 }

/-- Bytes written at a VA. -/
def hubPut (s : State) (x : Ctx) (va : Nat) (data : List Byte) : HubRun State :=
  match hubPlace s x .store va with
  | .error e => .error e
  | .ok (s, p) =>
    if p.attr = aWos && wosState s.m p.pa = .published then .error (some { code := cWosRewrite, detail := 0x00, va := p.va })
    else .ok (placePut s p data)

/-- Bytes written for a context by a hub unit that does not await the outcome: a write that meets a splinter or an ATTRCHG waits with those
behind it (R47, R63), one that faults leaves memory as it is. -/
def hubPost (s : State) (x : Ctx) (va : Nat) (data : List Byte) : State :=
  if s.hub.writesDue.any fun d => d.1 = x.num then { s with hub := { s.hub with writesDue := s.hub.writesDue ++ [(x.num, va, data)] } }
  else
    match hubPut s x va data with
    | .ok s => s
    | .error none => { s with hub := { s.hub with writesDue := s.hub.writesDue ++ [(x.num, va, data)] } }
    | .error (some _) => s

/-! ### The fault record and the fault ring (R380, R381) -/

/-- The next sequence number of the event arbiter (R211). -/
def nextSeq (s : State) : State × DWord := ({ s with hub := { s.hub with jtail := s.hub.jtail + 1#64 } }, s.hub.jtail)

/-- A number for an event that is no accepted command; its journal slot will hold an entry with STATE 7 (R212). -/
def takeSeq (s : State) : State × DWord :=
  let r := nextSeq s
  ({ r.1 with hub := { r.1.hub with gaps := r.1.hub.gaps ++ [r.2] } }, r.2)

/-- A fault record (R380), with HND clear. -/
def faultRecord (w : Warp) (b : Block) (seq : DWord) (pc : VA) (t : TrapInfo) (mask : Mask) (imp exited : Bool) (icode : Byte) : BitVec 512 :=
  BitVec.ofNat 512 (atBit 448 seq.toNat + atBit 384 w.node.toNat + atBit 304 pc.toNat + atBit 224 t.va.toNat + atBit 160 mask.toNat
    + atBit 140 b.z.toNat + atBit 120 b.y.toNat + atBit 100 b.x.toNat + atBit 92 (if w.rap then 0xFF else w.widx.toNat)
    + atBit 84 t.code.toNat + atBit 76 t.detail.toNat + atBit 72 t.hreg.toNat + atBit 68 t.subs.toNat + atBit 48 t.bitoff.toNat
    + atBit 38 t.swn.toNat + atBit 37 imp.toNat + atBit 36 exited.toNat + atBit 24 icode.toNat)

/-- A record of the hub, about a node or, with NODEID 0, a queue (R209, R212, R381): WIDX 0xFE. -/
def hubRecord (seq : DWord) (node : BitVec 64) (t : TrapInfo) : BitVec 512 :=
  faultRecord { Warp.empty with node := node, widx := 0xFE#8 } Block.empty seq 0#80 t 0#64 false false 0x00

/-- A record with HND set (R380). -/
def withHnd (r : BitVec 512) : BitVec 512 := r ||| (1#512 <<< 35)
/-- A record with EXITED set (R389). -/
def withExited (r : BitVec 512) : BitVec 512 := r ||| (1#512 <<< 36)
/-- CODE, DETAIL, TRAPMASK of a record (R380). -/
def recCode (r : BitVec 512) : Byte := r.extractLsb' 84 8
def recDetail (r : BitVec 512) : Byte := r.extractLsb' 76 8
def recMask (r : BitVec 512) : Mask := r.extractLsb' 160 64

/-- FREC of a context (R205). -/
def ctxFrec (x : Ctx) : Nat := bitsNat x.desc 512 80

/-- LOST increased, when it can be written (R381). -/
def countLost (s : State) (x : Ctx) : HubRun State :=
  match hubFetch s x (ctxFrec x + 0x10010) 8 with
  | .ok (s, n) => hubPut s x (ctxFrec x + 0x10010) (bytesOfNat 8 (n + 1))
  | .error e => .error e

/-- A record written into the context's fault ring, or counted in LOST where the ring is full (R381). -/
def ringWrite (s : State) (x : Ctx) (r : BitVec 512) : HubRun State :=
  let f := ctxFrec x
  match hubFetch s x (f + 0x10000) 8 with
  | .error e => .error e
  | .ok (s, tail) =>
    match hubFetch s x (f + 0x10008) 8 with
    | .error e => .error e
    | .ok (s, head) =>
      if (tail + 2 ^ 64 - head) % 2 ^ 64 = 1024 then countLost s x
      else
        match hubPut s x (f + 64 * (tail % 1024)) (bytesOfNat 64 r.toNat) with
        | .error e => .error e
        | .ok s => hubPut s x (f + 0x10000) (bytesOfNat 8 (tail + 1))

/-- A record appended to the context's fault ring (R381): dropped and counted where it cannot be written, kept with those behind it where its
access must wait (R47, R63). -/
def appendRing (s : State) (x : Ctx) (r : BitVec 512) : State :=
  let later := { s with hub := { s.hub with ringDue := s.hub.ringDue ++ [(x.num, r)] } }
  if s.hub.ringDue.any fun d => d.1 = x.num then later
  else
    match ringWrite s x r with
    | .ok s => s
    | .error none => later
    | .error (some _) =>
      count (match countLost s x with
        | .ok s => s
        | .error _ => s) 0x0015#16 (x.num.setWidth 32) 1

/-- The place of a warp's record in its context image (R397). -/
def warpRecord (x : Ctx) (w : Warp) : Nat :=
  ctxImage x + 0x20000000 + 0x40000 * (64 * w.core.toNat + 16 * w.part.toNat + w.slot.toNat)

/-- The fault slot of the warp in focus, written there and in its context image where the image is mapped (R381). -/
def writeSlot (s : State) (r : BitVec 512) : State :=
  let s := { s with w := { s.w with faultSlot := r } }
  hubPost s s.x (warpRecord s.x s.w) (bytesOfNat 64 r.toNat)

/-! ### Halting, traps, and the return from one -/

/-- A node that a fault will end: its code and detail are kept, the first one standing (R390, R222). -/
def failNode (s : State) (node : BitVec 64) (code detail : Byte) : State :=
  { s with hub := { s.hub with nodes := s.hub.nodes.map fun n =>
      if n.seq = node && n.fcode = 0#8 then { n with fcode := code, detail := detail } else n } }

/-- A fault of a hub unit that ends a node (R222): its record goes to the ring (R381), and the node is marked. -/
def faultNode (s : State) (x : Ctx) (node : BitVec 64) (t : TrapInfo) : State :=
  let r := takeSeq s
  failNode (appendRing r.1 x (hubRecord r.2 node t)) node t.code t.detail

/-- A node of a context of which nothing more is dispatched (R390). -/
def stopNode (s : State) (ctx : BitVec 16) (node : BitVec 64) : State :=
  { s with hub := { s.hub with nodes := s.hub.nodes.map fun n => if n.seq = node && n.ctx = ctx then { n with stopped := true } else n } }

/-- A warp of a node halted, unless it has ended; a matrix instruction not yet accepted and a wait end with it (R390). -/
def haltWarp (ctx : BitVec 16) (node : BitVec 64) (w : Warp) : Warp :=
  if w.ctx = ctx && w.node = node && w.status ≠ .vacant && w.status ≠ .done then { w with status := .halted, matReq := none } else w

/-- Every warp of the node of the warp in focus halted, and the node marked with its code (R390). -/
def haltNode (s : State) (code detail : Byte) : State :=
  let s := stopNode (failNode s s.w.node code detail) s.w.ctx s.w.node
  { s with w := { s.w with status := .halted, matReq := none }, warps := s.warps.map (haltWarp s.w.ctx s.w.node) }

/-- A record delivered to the warp in focus as a trap (R382, R383): a run-ahead processor or a context without a handler halts;
otherwise the handler is entered, EXEC, MODE, registers and flags keeping their values. -/
def deliver (s : State) (r : BitVec 512) (mask : Mask) (resume : VA) : State :=
  if s.w.rap then haltNode (appendRing s s.x r) (recCode r) (recDetail r)
  else if s.x.trapva = 0#80 then haltNode (appendRing (writeSlot s r) s.x r) (recCode r) (recDetail r)
  else
    let s := writeSlot s (withHnd r)
    if s.w.stack.length = 256 then
      haltNode (appendRing s s.x (BitVec.ofNat 512 (setBits (setBits r 84 8 cDoubleTrap) 24 8 (recCode r)).toNat)) cDoubleTrap 0x00
    else
      let e : StackEntry := { kind := .trap, pc := resume, mask := s.w.exec, rpc := s.w.rp.getD (clauseVa resume), m := s.w.m, running := false, pooled := false, other := none }
      { s with w := { s.w with stack := e :: s.w.stack, trapmask := mask, floor := BitVec.ofNat 9 (s.w.stack.length + 1), rp := none,
                               rowResume := false, keys := [], keyPop := none, m := s.w.exec, pc := s.x.trapva, enter := true, status := .running, woken := false } }

/-- A trap entry stands on the warp's stack (R383). -/
def inHandler (w : Warp) : Bool := w.stack.any fun e => e.kind = .trap

/-- A precise fault at the program counter (R377 to R385): inside a handler it is a double trap, which halts the warp and keeps the
fault slot. -/
def takeTrap (s : State) (t : TrapInfo) : State :=
  let (s, seq) := takeSeq s
  let mask := t.mask.getD (active s.w)
  if inHandler s.w then
    let r := faultRecord s.w s.b seq s.w.pc { t with code := cDoubleTrap } mask false false t.code
    haltNode (appendRing s s.x r) cDoubleTrap t.detail
  else deliver s (faultRecord s.w s.b seq s.w.pc t mask false false 0x00) mask (if t.next then (succOf s.w).1 else s.w.pc)

/-- The topmost trap entry and the entries below it. -/
def dropToTrap : List StackEntry → Option (StackEntry × List StackEntry)
  | [] => none
  | e :: t => if e.kind = .trap then some (e, t) else dropToTrap t

/-- The return from a trap (R374, R386): `none` when no trap entry stands. -/
def trapReturn (w : Warp) : Option Warp :=
  match dropToTrap w.stack with
  | none => none
  | some (e, rest) =>
    some (unwind (2 * rest.length + 1) (e.mask = 0#64) { w with
      stack := rest, exec := e.mask, m := e.m &&& ~~~w.gone, pc := e.pc, enter := true, trapmask := 0#64,
      floor := unwind.floorOf rest, rp := unwind.rpOf e, rowResume := w.rowAt = some e.pc, status := .running, woken := false })

/-- The warp waiting at its instruction; `since` keeps the clock at which the wait for the same thing began. A read that parks on an unpublished
line has been tried since it was last woken (R63). -/
def waiting (w : Warp) (p : Park) : Warp :=
  { w with status := .parked p, since := if w.status = .parked p then w.since else w.cyc.toNat, woken := w.woken && p ≠ .wos }

/-- A wait for a host line asks for it (R162). -/
def wantFor (m : Mem) (p : Park) : Mem :=
  match p with
  | .line a l st => wantLine m a l st
  | _ => m

/-- The outcome of an instruction: its next state; a precise fault taken; or the warp waiting at it, to try it again. -/
def finish (s : State) (r : Run State) : Host.Outcome State Fault Refusal :=
  match r with
  | .ok t => .next t
  | .error (.trap t) => .next (takeTrap s t)
  | .error (.wait p) => .next { s with w := waiting s.w p, m := wantFor s.m p, turn := 0 }

end Sys2Proof.Machine
end

