-- ==== Sys2Proof/Machine/Access.lean ====
section
/-!
DEFINITION. One access performed at its place: the stash of the block (spec/05, R96 to R100), an IP copy (spec/06, R139), the home of a
global line with its directory and its WOS state (spec/06, R136; spec/07, R157 to R162), and the wait of a read parked on an
unpublished line (R138).
-/
namespace Sys2Proof.Machine

/-- A whole-instruction read parked on an unpublished line: WOS_TIMEOUT once the limit has passed, precise (R138, R231, R304). -/
def wosPark {α : Type} (s : State) : Run α :=
  if s.w.status = .parked .wos && wosExpired s s.w.since then trap cWosTimeout 0x00 else park .wos

/-- A read or a write by the die of a core waits for a host line that it does not hold, and asks for it (R162, R165). -/
def awaitLine (s : State) (core : Nat) (p : Place) (own : Bool) : Run Unit :=
  if p.stash || p.attr = aIp || lineHeld s core p.pa own then .ok ()
  else park (.line (agentOf s core) (lineOf p.pa) (if own then .m else .s))

/-- `n` bytes within one line, read at their place by a warp of a core: from the core's copy where it has one, which may be behind the home by
the bytes on their way to it (R161); `cached`: the handle's policy lets the implicit cache take the line (R100). -/
def loadAt (s : State) (core : Nat) (cached : Bool) (p : Place) (n : Nat) : State × List Byte :=
  if p.stash then (s, cellBytes s.b.stash p.off n)
  else if p.attr = aIp then
    let r := ipLoad s.m core cached (pooledAt s.fab p.pa) p.pa n
    ({ s with m := r.1 }, r.2)
  else if p.attr = aSc then ({ s with m := recallLine s.m (lineOf p.pa) }, homeRead (recallLine s.m (lineOf p.pa)) p.pa n)
  else
    match copyFind s.m core (lineOf p.pa) with
    | some c => (s, dataBytes c.data (p.pa % 128) n)
    | none =>
      let s := if p.attr = aWos && wosState s.m p.pa ≠ .published then s else shareLine s core p.pa
      let bs := homeRead s.m p.pa n
      (if cached && copyable s p.attr p.pa then { s with m := copyFill s.m core (lineOf p.pa) } else s, bs)

/-- A mapped IP line's written bytes (R98): marked dirty. -/
def markMapped (b : Block) (off n : Nat) : Block :=
  { b with mapped := b.mapped.map fun q =>
      if q.ip && q.line = off / 128 then { q with dirty := q.dirty ||| byteMask (off % 128) n } else q }

/-- Bytes within one line written at their place by a warp of a core, once the home has admitted them. -/
def storeAt (s : State) (core : Nat) (p : Place) (data : List Byte) : State :=
  if p.stash then { s with b := markMapped { s.b with stash := cellPut s.b.stash p.off data } p.off data.length }
  else if p.attr = aIp then { s with m := ipStore s.m core (pooledAt s.fab p.pa) p.pa data s.b.prot }
  else if p.attr = aSc then { s with m := homeWrite (recallLine s.m (lineOf p.pa)) p.pa data s.b.prot }
  else
    let s := ownLine s core p.pa
    let m := if p.attr = aWos then setWos s.m (lineOf p.pa) .filling else s.m
    { s with m := sliceWrite m core p.pa data s.b.prot }

/-- Why the home refuses a store that reaches it: ALIAS_ATTR (R62) or WOS_REWRITE (R136). -/
def storeRefused (s : State) (p : Place) : Option (Byte × Byte) :=
  if p.stash then none
  else match homeCheck s.m p with
  | some d => some (cAliasAttr, d)
  | none => if p.attr = aWos && wosState s.m p.pa = .published then some (cWosRewrite, 0x00) else none

/-- A read of an unpublished WOS line, which parks (R136). -/
def unpublished (s : State) (p : Place) : Bool := !p.stash && p.attr = aWos && wosState s.m p.pa ≠ .published

/-! ### The order of a warp's accesses (R124, R133) -/

/-- A lane of a pending load is still to be read (R138). -/
def PendLoad.parked (p : PendLoad) : Bool := p.jobs.any fun j => match j.plan with
  | .parked _ => true
  | _ => false

/-- An atomic of a pending load is still to be performed, on a page that a condition picks. -/
def PendLoad.atomOn (f : Place → Bool) (p : PendLoad) : Bool := p.jobs.any fun j => match j.plan with
  | .atom a => f a.place
  | _ => false

/-- A pending load has a lane that is not performed (R117). -/
def PendLoad.waits (p : PendLoad) : Bool := p.parked || p.atomOn fun _ => true

/-- An access may be made now: no SC access holds the warp (R133), no acquire is unperformed (R124), and no queued INVAL could leave it
a copy to be discarded (R141). -/
def memReady (s : State) : Run Unit :=
  if s.w.stores.any fun e => e.sc || e.kind = .inval then park .storeQueue
  else if (s.w.loads.any fun l => (l.acquire && l.waits) || l.atomOn fun p => !p.stash && p.attr = aSc)
      || s.w.remotes.any fun r => r.op = 2#3 && r.peer.getLsbD 13 then park .fence
  else .ok ()

/-- A read may be made now: besides, no earlier atomic is unperformed, the reads of a warp being performed in program order (R121). -/
def loadReady (s : State) : Run Unit :=
  match memReady s with
  | .error e => .error e
  | .ok _ => if s.w.loads.any fun l => l.atomOn fun _ => true then park .fence else .ok ()

/-! ### Forwarding (R120) -/

/-- The byte that a queued lane write gives byte `i` of a place, if it covers it. -/
def LaneStore.byteAt (x : LaneStore) (p : Place) (i : Nat) : Option Byte :=
  if x.place.stash ≠ p.stash then none
  else
    let a := (if p.stash then p.off else p.pa) + i
    let b := if p.stash then x.place.off else x.place.pa
    if b ≤ a && a < b + x.size then some (byteOf x.data.toNat (a - b)) else none

/-- What the store queue says of one byte: nothing, its youngest write, or a wait for an entry that is no plain store. -/
inductive Forward where
  | none | byte (b : Byte) | wait
  deriving DecidableEq, Repr

/-- The youngest entry that covers byte `i` of a place; the list is youngest first. -/
def forwardByte (p : Place) (i : Nat) : List StoreEntry → Forward
  | [] => .none
  | e :: t =>
    match e.lanes.reverse.findSome? fun x => x.byteAt p i with
    | .none => forwardByte p i t
    | some b => if e.kind = .store then .byte b else .wait

/-- An entry of the store queue covers a byte of the range. -/
def queueCovers (w : Warp) (p : Place) (n : Nat) : Bool :=
  (List.range n).any fun i => forwardByte p i w.stores.reverse ≠ .none

/-- What the queue says of `n` bytes: `none` when no entry covers any, all bytes forwarded, or a wait when only some are covered. -/
def forwarded (w : Warp) (p : Place) (n : Nat) : Run (Option (List Byte)) :=
  let fs := (List.range n).map fun i => forwardByte p i w.stores.reverse
  if fs.all (· = .none) then .ok Option.none
  else
    let bs := fs.filterMap fun f => match f with
      | .byte b => some b
      | _ => Option.none
    if bs.length = n then .ok (some bs) else park .storeQueue

/-- `n` bytes at a VA of the context, read as one access of the warp whose faults are precise and never deferred (R231, R307, R359), behind
its own queued stores to them (R119) and the accesses that hold its later ones (R124, R133). -/
def readVa (s : State) (va n : Nat) : Run (State × List Byte) :=
  match loadReady s with
  | .error e => .error e
  | .ok _ =>
  match resolveVa s .load va with
  | .fault c d v => .error (.trap { code := c, detail := d, va := v })
  | .stall => park .splinter
  | .ok t p =>
    match throughMap t .load p with
    | .fault c d v => .error (.trap { code := c, detail := d, va := v })
    | .stall => park .splinter
    | .ok s p =>
    match readCheck s.m p with
    | some d => .error (.trap { code := cAliasAttr, detail := d, va := p.va })
    | none =>
      if homeStalls s.m p then park .splinter
      else if queueCovers s.w p n then park .storeQueue
      else if unpublished s p then wosPark s
      else
        match awaitLine s s.w.core.toNat p false with
        | .error e => .error e
        | .ok _ => .ok (loadAt s s.w.core.toNat true p n)

end Sys2Proof.Machine
end

