-- ==== Sys2Proof/Machine/Flags.lean ====
section
/-!
DEFINITION. The flag counters F0 to F11 (spec/08, R192) and the flags that a clause header names (spec/10, R227, R241).
-/
namespace Sys2Proof.Machine

/-- The flag that a header field names: 0 to 11, or none when untracked (R227). -/
def flagOf (code : BitVec 4) : Option (Fin 12) := if h : code.toNat < 12 then some ⟨code.toNat, h⟩ else none

/-- LDF of the clause: the flag of operations of kind L (R227, R241). -/
def ldFlag (w : Warp) : Option (Fin 12) := flagOf (w.clause.extractLsb' 16 4)
/-- STF of the clause: the flag of operations of kind S (R227, R241). -/
def stFlag (w : Warp) : Option (Fin 12) := flagOf (w.clause.extractLsb' 12 4)

/-- A tracked operation issues (R192). -/
def flagInc (w : Warp) (f : Option (Fin 12)) : Warp :=
  match f with
  | some i => { w with flags := w.flags.set i (w.flags[i] + 1#14) }
  | none => w

/-- A tracked operation completes (R127, R192). -/
def flagDec (w : Warp) (f : Option (Fin 12)) : Warp :=
  match f with
  | some i => { w with flags := w.flags.set i (w.flags[i] - 1#14) }
  | none => w

/-- A flag is set while its counter is non-zero (R192). -/
def flagSet (w : Warp) (i : Fin 12) : Bool := w.flags[i] ≠ 0#14

/-- SET of FLAGS (R191). -/
def flagBits (w : Warp) : BitVec 12 := BitVec.ofFnLE fun i => flagSet w i

/-- A flag of the clause's wait mask is set (R228, step 4). -/
def flagsHold (w : Warp) : Bool := (w.clause.extractLsb' 20 12 &&& flagBits w) ≠ 0#12

end Sys2Proof.Machine
end

