-- ==== Sys2Proof/Machine/Operands.lean ====
section
/-!
DEFINITION. Operand fields: the values each role accepts (spec/10, R235, R236), the readers of vector and scalar sources with
queues, literals and constants (R203, R230, R231), the interlock (R188), poison read from operands (spec/03, R65, R66), and the
front end that every instruction word passes before its own checks (R239, R250).
-/
namespace Sys2Proof.Machine

/-! ### Roles of register fields (R235, R236) -/

/-- A register field of an instruction and its role. -/
inductive Opd where
  /-- a vector source; `wide`: a 64-bit operand -/
  | vsrc (f : Byte) (wide : Bool)
  /-- `n` vector registers written or stored from, the field a multiple of `align` -/
  | vreg (f : Byte) (n align : Nat)
  /-- a scalar source -/
  | ssrc (f : Byte)
  /-- a scalar destination -/
  | sdst (f : Byte)
  /-- `n` scalar registers, the field a multiple of `n`: a pair for 2 -/
  | sregs (f : Byte) (n : Nat)
  /-- a predicate destination -/
  | pdst (f : BitVec 4)
  deriving DecidableEq, Repr

/-- The first unclaimed register of a range (R90). -/
def unclaimedIn (w : Warp) (f n : Nat) : Option Byte :=
  ((List.range n).find? fun i => !blockClaimed w ((f + i) / 8)).map fun i => BitVec.ofNat 8 (f + i)

/-- The highest scalar register, s31 in the run-ahead processor (R202). -/
def scalarLimit (w : Warp) : Nat := if w.rap then 32 else 64

/-- A literal number (R230) or constant number (R231) that the field may not name. -/
def badImmediate (w : Warp) (f : Nat) (wide : Bool) : Bool :=
  if f < 248 then litCount w ≤ f - 240 + wide.toNat else wide && f = 255

/-- The detail of ILLEGAL_REGISTER when a field's value is outside its role (R235, R236, R230, R231, R203) or names an unclaimed
register (R90). -/
def Opd.bad (w : Warp) : Opd → Option Byte
  | .vsrc f wide =>
    if f.toNat < 232 then
      if wide && f.toNat % 2 = 1 then some f else unclaimedIn w f.toNat (if wide then 2 else 1)
    else if f.toNat < 240 then if w.qsub.getLsbD (f.toNat - 232) then none else some f
    else if badImmediate w f.toNat wide then some f else none
  | .vreg f n align =>
    if 232 ≤ f.toNat || f.toNat % align ≠ 0 then some f else unclaimedIn w f.toNat n
  | .ssrc f =>
    if f.toNat < scalarLimit w then none
    else if f.toNat < 240 then some f
    else if badImmediate w f.toNat false then some f else none
  | .sdst f => if f.toNat < scalarLimit w then none else some f
  | .sregs f n => if f.toNat < scalarLimit w && f.toNat % n = 0 then none else some f
  | .pdst f => if f = 0#4 then some 0#8 else none

/-- The vector registers a field names. -/
def Opd.vectors : Opd → List Nat
  | .vsrc f wide => if f.toNat < 232 then (if wide then [f.toNat, f.toNat + 1] else [f.toNat]) else []
  | .vreg f n _ => (List.range n).map (f.toNat + ·)
  | _ => []

/-- The scalar registers a field names. -/
def Opd.scalars : Opd → List Nat
  | .ssrc f => if f.toNat < 64 then [f.toNat] else []
  | .sdst f => [f.toNat]
  | .sregs f n => (List.range n).map (f.toNat + ·)
  | _ => []

/-- The queue a field names. -/
def Opd.queue : Opd → Option (Fin 8)
  | .vsrc f _ => if h : 232 ≤ f.toNat ∧ f.toNat < 240 then some ⟨f.toNat - 232, by omega⟩ else none
  | _ => none

/-! ### The interlock (R188) -/

/-- A vector register that an access in flight will write. -/
def vPending (w : Warp) (r : Nat) : Bool :=
  (w.loads.any fun l => l.regs.contains r) ||
    w.remotes.any fun m => (m.op = 0 || m.op = 2) && (m.d = r || (m.size = 8 && m.d + 1 = r))

/-- A scalar register that an access in flight or an engine's reply will write (R188, R360); a tile function that has not started is still
being issued (R372). -/
def sPending (s : State) (r : Nat) : Bool :=
  (s.w.loads.any fun l => match l.kind with
    | .scalar d _ _ => d = r
    | _ => false) ||
    s.cmds.any fun c => c.reply && c.d.toNat = r && c.issuer = .warp s.w.wid && (c.started || c.func.toNat < 0x50)

/-- A field names a register that is still to be written. -/
def Opd.pending (s : State) (o : Opd) : Bool := o.vectors.any (vPending s.w) || o.scalars.any (sPending s)

/-- The register blocks of registers that stand in their backing (R93). -/
def awayBlocks (w : Warp) (rs : List Nat) : BitVec 29 :=
  rs.foldl (fun m r => if w.away.getLsbD (r / 8) then m ||| (1#29 <<< (r / 8)) else m) 0#29

/-- The warp stalls until the blocks of the registers that it names have been read back (R93). -/
def registersHere (w : Warp) (rs : List Nat) : Run Unit :=
  if w.away = 0#29 || awayBlocks w rs = 0#29 then .ok () else park (.refill (awayBlocks w rs))

/-! ### Readers -/

/-- A source as every lane reads it: 32 or 64 bits, zero-extended, with its poison; a poisoned one holds its code. -/
abbrev Src := Fin 64 → Scalar

/-- A lane's register as a source. -/
def Lane.scalar (x : Lane) : Scalar := ⟨x.val.setWidth 64, x.poison⟩

/-- Vector register `n` in lane `l`. -/
def vAt (w : Warp) (n : Nat) (l : Fin 64) : Lane := vLane w (Fin.ofNat 232 n) l

/-- The pair of registers `n` and `n + 1` in lane `l`; where either is poisoned, with the code of the lower poisoned one (R65). -/
def pairAt (w : Warp) (n : Nat) (l : Fin 64) : Scalar :=
  let lo := vAt w n l
  let hi := vAt w (n + 1) l
  if lo.poison then lo.scalar else if hi.poison then hi.scalar else ⟨hi.val ++ lo.val, false⟩

/-- A vector register or pair as a source. -/
def vecSrc (w : Warp) (wide : Bool) (n : Nat) : Src := fun l => if wide then pairAt w n l else (vAt w n l).scalar

/-- The next entry of queue `q` for the warp, if it has been pushed (R203). -/
def queueHead (s : State) (q : Fin 8) : Option Scalar :=
  let k := s.b.queues[q]
  k.entries[s.w.qpos[q] - k.retired]?

/-- A queue entry as a source (R203). -/
def queueSrc (wide : Bool) (e : Scalar) : Scalar :=
  if e.poison then e else if wide then e else ⟨(e.val.setWidth 32).setWidth 64, false⟩

/-- Literal `k` (R230). -/
def literal (w : Warp) (k : Nat) : Word := clauseWord w (16 - litCount w + k)

/-- The VA of constant `k` (R231). -/
def constVa (s : State) (k : Nat) : Nat := (s.b.cbank.toNat + 4 * (modeCb s.w * 8 + k)) % 2 ^ 80

/-- A vector source (R235). -/
def readV (s : State) (wide : Bool) (f : Byte) : Run (State × Src) :=
  let n := f.toNat
  if n < 232 then .ok (s, vecSrc s.w wide n)
  else if n < 240 then
    match queueHead s (Fin.ofNat 8 (n - 232)) with
    | some e => .ok (s, fun _ => queueSrc wide e)
    | none => park (.queue (BitVec.ofNat 3 (n - 232)))
  else if n < 248 then
    let lo := literal s.w (n - 240)
    .ok (s, fun _ => ⟨if wide then literal s.w (n - 239) ++ lo else lo.setWidth 64, false⟩)
  else
    match readVa s (constVa s (n - 248)) (if wide then 8 else 4) with
    | .ok (s, bs) => .ok (s, fun _ => ⟨BitVec.ofNat 64 (natOfBytes bs), false⟩)
    | .error e => .error e

/-- A 32-bit word in a scalar field: sign-extended under a signed MODE.ET (R230). -/
def extendWord (w : Warp) (x : Word) : DWord := if (modeEt w).isSigned && (modeEt w).isInt then x.signExtend 64 else x.setWidth 64

/-- A scalar source (R235). -/
def readS (s : State) (f : Byte) : Run (State × Scalar) :=
  let n := f.toNat
  if n < 240 then .ok (s, sReg s.w (Fin.ofNat 64 n))
  else if n < 248 then .ok (s, ⟨extendWord s.w (literal s.w (n - 240)), false⟩)
  else
    match readVa s (constVa s (n - 248)) 4 with
    | .ok (s, bs) => .ok (s, ⟨extendWord s.w (BitVec.ofNat 32 (natOfBytes bs)), false⟩)
    | .error e => .error e

/-! ### Poison of operands (R65, R66) -/

/-- The fault code that a poisoned value holds. -/
def Scalar.code (x : Scalar) : Byte := x.val.setWidth 8

/-- The code of the first poisoned source in operand order (R65). -/
def firstPoison : List Scalar → Option Byte
  | [] => none
  | x :: t => if x.poison then some x.code else firstPoison t

/-- The consumer rule of R66 for a vector operand: the poisoned active lanes trap with the code of the lowest. -/
def consumeV (m : Mask) (x : Src) : Run Unit :=
  match firstLane m fun l => (x l).poison with
  | some l => consume (x l).code (some (m &&& laneMask fun l => (x l).poison))
  | none => .ok ()

/-- The consumer rule for a scalar operand. -/
def consumeS (x : Scalar) : Run Unit := if x.poison then consume x.code none else .ok ()

/-- The guard consumer of R66: a poisoned guard lane of a lane set in EXEC. -/
def consumeGuard (w : Warp) : Run Unit :=
  if w.rap then .ok ()
  else
    let g := w.mode.extractLsb' 0 4
    match firstLane w.exec fun l => (predLane w g l).poison with
    | some l => consume (predLane w g l).code (some (w.exec &&& laneMask fun l => (predLane w g l).poison))
    | none => .ok ()

/-! ### Queues (R203) -/

/-- A warp of the block that still pops entries of `q`. -/
def subscriber (bid : Nat) (q : Fin 8) (w : Warp) : Bool :=
  w.bid = bid && !w.rap && w.status ≠ .vacant && w.status ≠ .done && w.qsub.getLsbD q

/-- The entries of a queue that every subscriber has popped retire. -/
def retireQueue (s : State) (q : Fin 8) : State :=
  let k := s.b.queues[q]
  let least := ((s.w :: s.warps).filter (subscriber s.b.bid q)).foldl (fun n w => min n w.qpos[q]) (k.retired + k.entries.length)
  { s with b := { s.b with queues := s.b.queues.set q { entries := k.entries.drop (least - k.retired), retired := max least k.retired } } }

/-- One entry of a queue popped by the warp. -/
def popQueue (s : State) (q : Fin 8) : State :=
  retireQueue { s with w := { s.w with qpos := s.w.qpos.set q (s.w.qpos[q] + 1) } } q

/-- The queues that an instruction names, each popped once. -/
def popQueues (opds : List Opd) (s : State) : State := (opds.filterMap Opd.queue).eraseDups.foldl popQueue s

/-! ### The front end of every instruction word (R239) -/

/-- The RAP column of R241 for a form (R250). -/
inductive RapUse where
  | no | yes | only
  deriving DecidableEq, Repr

/-- What the front end needs to know of a form: its use by the run-ahead processor, its register fields from bit 31 down, and the handle
register through which it accesses, which a consumer trap of it names (R380). -/
structure Form where
  rap : RapUse
  opds : List Opd
  hreg : BitVec 4 := 0#4
  deriving DecidableEq, Repr

/-- Orders 3 and 4 of R239. -/
def Form.refused (fm : Form) (w : Warp) : Option Byte :=
  if w.rap && fm.rap = .no then some 0x03 else if !w.rap && fm.rap = .only then some 0x04 else none

/-- Orders 3 to 5 of R239, the stalls of R188 and R93, and the guard's consumer rule of R66. -/
def Form.check (fm : Form) (s : State) : Run Unit :=
  match fm.refused s.w with
  | some d => trap cIllegalInstruction d
  | none =>
    match fm.opds.findSome? (Opd.bad s.w) with
    | some d => trap cIllegalRegister d
    | none =>
      if fm.opds.any (Opd.pending s) then park .interlock
      else match registersHere s.w (fm.opds.flatMap Opd.vectors) with
      | .error e => .error e
      | .ok _ => consumeGuard s.w

/-- HREG of a consumer trap filled in (R380). -/
def namesHandle {α : Type} (h : BitVec 4) : Run α → Run α
  | .error (.trap t) => .error (.trap (if t.detail = 0xFF#8 then { t with hreg := h } else t))
  | r => r

/-- An instruction word issued: the front end, then its own checks and effect `k`, then its queue pops. -/
def issue (fm : Form) (s : State) (k : State → Run State) : Host.Outcome State Fault Refusal :=
  finish s (namesHandle fm.hreg (match fm.check s with
    | .ok _ => (match k s with
      | .ok t => .ok (popQueues fm.opds t)
      | .error e => .error e)
    | .error e => .error e))

/-- An instruction word issued whose effect pops its queue itself (R294). -/
def issueOwn (fm : Form) (s : State) (k : State → Run State) : Host.Outcome State Fault Refusal :=
  finish s (namesHandle fm.hreg (match fm.check s with
    | .ok _ => k s
    | .error e => .error e))

/-- NOP and the fences, which read no register, the guard included (R240, R317). -/
def issueSilent (s : State) (k : State → Run State) : Host.Outcome State Fault Refusal := finish s (k s)

/-- An instruction performed once for the warp when a lane is active, always in the run-ahead processor (R258). -/
def warpOnce (s : State) (k : State → Run State) : Run State := if active s.w = 0#64 then .ok (advance s) else k s

end Sys2Proof.Machine
end

