-- ==== Sys2Proof/Machine/Focus.lean ====
section
/-!
DEFINITION. The warp, block and context in focus and the others: looking one up, replacing it, bringing a warp into focus. The focus
is the model's own: it says for which agent the next step issues (log entry 10).
-/
namespace Sys2Proof.Machine

/-- Every warp and run-ahead processor, the one in focus first. -/
def allWarps (s : State) : List Warp := s.w :: s.warps
/-- Every block, the one in focus first. -/
def allBlocks (s : State) : List Block := s.b :: s.blocks
/-- Every context, the one in focus first. -/
def allCtxs (s : State) : List Ctx := s.x :: s.ctxs

/-- The warp of a name. -/
def warpOf (s : State) (wid : Nat) : Option Warp := (allWarps s).find? fun w => w.wid = wid && w.status ≠ .vacant
/-- The block of a name. -/
def blockOf (s : State) (bid : Nat) : Option Block := (allBlocks s).find? fun b => b.bid = bid && bid ≠ 0
/-- The record of a context number. -/
def ctxOf (s : State) (num : BitVec 16) : Option Ctx := (allCtxs s).find? fun x => x.num = num

/-- The record of a context, an empty one where the hub holds none. -/
def ctxFor (s : State) (num : BitVec 16) : Ctx := (ctxOf s num).getD { Ctx.empty with num := num }

/-- Every warp changed by `f`. -/
def mapWarps (s : State) (f : Warp → Warp) : State := { s with w := f s.w, warps := s.warps.map f }
/-- Every block changed by `f`. -/
def mapBlocks (s : State) (f : Block → Block) : State := { s with b := f s.b, blocks := s.blocks.map f }
/-- Every context changed by `f`. -/
def mapCtxs (s : State) (f : Ctx → Ctx) : State := { s with x := f s.x, ctxs := s.ctxs.map f }

/-- One warp changed. -/
def onWarp (s : State) (wid : Nat) (f : Warp → Warp) : State := mapWarps s fun w => if w.wid = wid then f w else w
/-- One block changed. -/
def onBlock (s : State) (bid : Nat) (f : Block → Block) : State := mapBlocks s fun b => if b.bid = bid then f b else b
/-- One context changed. -/
def onCtx (s : State) (num : BitVec 16) (f : Ctx → Ctx) : State := mapCtxs s fun x => if x.num = num then f x else x

/-- The block and the context of the warp in focus brought into focus with it. -/
def refocus (s : State) : State :=
  let s := if s.b.bid = s.w.bid then s else
    match s.blocks.find? fun b => b.bid = s.w.bid with
    | some b => { s with b := b, blocks := (if s.b.bid = 0 then [] else [s.b]) ++ s.blocks.filter fun c => c.bid ≠ b.bid }
    | none => { s with b := Block.empty, blocks := (if s.b.bid = 0 then [] else [s.b]) ++ s.blocks }
  if s.x.num = s.w.ctx then s else
    match s.ctxs.find? fun x => x.num = s.w.ctx with
    | some x => { s with x := x, ctxs := s.x :: s.ctxs.filter fun y => y.num ≠ x.num }
    | none => { s with x := { Ctx.empty with num := s.w.ctx }, ctxs := s.x :: s.ctxs }

/-- A warp brought into focus; the one that was stays among the others. -/
def focusOn (s : State) (wid : Nat) : State :=
  if s.w.wid = wid then s else
    match s.warps.find? fun w => w.wid = wid with
    | some w => refocus { s with w := w, warps := (s.warps.filter fun v => v.wid ≠ wid) ++ (if s.w.status = .vacant then [] else [s.w]) }
    | none => s

/-- An operation of the warp of a name, brought into focus for it; nothing where no such warp is. -/
def withWarp (s : State) (wid : Nat) (f : State → State) : State :=
  if (warpOf s wid).isSome then focusOn (f (focusOn s wid)) s.w.wid else s

/-- An operation of a warp that is on its core: nothing while its context is switched out (R395). -/
def onCoreWarp (s : State) (wid : Nat) (f : State → State) : State := withWarp s wid fun s => if s.x.resident then f s else s

/-- An agent that is no warp: a warp slot on a core of a block, with a MODE. -/
def agentWarp (b : Block) (core : Nat) (mode : Word) : Warp :=
  { Warp.empty with ctx := b.ctx, bid := b.bid, node := b.node, core := BitVec.ofNat 8 core, mode := mode }

/-- An operation made by an agent with a block and its context in focus; what was in focus comes back. -/
def asAgent {α : Type} (s : State) (w : Warp) (b : Block) (x : Ctx) (f : State → State × α) : State × α :=
  let r := f { s with
    w := w, b := b, x := x, warps := s.w :: s.warps
    blocks := (allBlocks s).filter fun c => c.bid ≠ b.bid && c.bid ≠ 0
    ctxs := (allCtxs s).filter fun y => y.num ≠ x.num }
  match r.1.warps with
  | v :: vs => (refocus { r.1 with w := v, warps := vs, b := if r.1.b.bid = 0 then Block.empty else r.1.b }, r.2)
  | [] => r

/-- Nothing new begins on the device: during a cut (R169), and while an identity of its domain has no device (R179). -/
def hubHeld (h : Hub) : Bool := h.cutting || !h.awaited.isEmpty
/-- Nothing that has begun goes on either: between the report of a cut and its resume (R169), and while an identity has no device. -/
def hubSealed (h : Hub) : Bool := h.cutReported || !h.awaited.isEmpty

/-- The warps of a block that have not ended, its run-ahead processor apart. -/
def liveWarps (s : State) (bid : Nat) : List Warp :=
  (allWarps s).filter fun w => w.bid = bid && !w.rap && w.status ≠ .vacant && w.status ≠ .done

/-- One core clock passes: CYC, and the clock of R138, count while the context is resident (R7, R189). -/
def tick (s : State) : State :=
  let run := fun (w : Warp) =>
    if w.status = .vacant || w.status = .done || !((ctxOf s w.ctx).map (·.resident)).getD true then w
    else { w with cyc := w.cyc + 1#64 }
  let count := fun (x : Ctx) => if x.resident then { x with rclk := x.rclk + 1 } else x
  { mapCtxs (mapWarps s run) count with clk := s.clk + 1 }

end Sys2Proof.Machine
end

