-- ==== Sys2Proof/Machine/Ending.lean ====
section
/-!
DEFINITION. Lanes that exit and the end of a warp (spec/11, R269; spec/03, R68; spec/05, R90; spec/14, R388, R389).
-/
namespace Sys2Proof.Machine

/-- Lanes marked exited: cleared from EXEC, the current mask and every stack entry (R193, R269). -/
def exitLanes (w : Warp) (x : Mask) : Warp :=
  { w with exec := w.exec &&& ~~~x, m := w.m &&& ~~~x, gone := w.gone ||| x,
           stack := w.stack.map fun e =>
             { e with mask := e.mask &&& ~~~x, other := e.other.map fun c => { c with exec := c.exec &&& ~~~x, m := c.m &&& ~~~x } } }

/-- Register slots given back to a core's pool (R90, R91). -/
def freeSlots (s : State) (core n : Nat) : State :=
  { s with cores := vecOf 160 fun i => if i.val = core then { s.cores[i] with free := s.cores[i].free + n } else s.cores[i] }

/-- The undelivered records of an ended warp go to the ring with EXITED, and its node will be FAULTED (R389). -/
def flushLate (s : State) (records : List (BitVec 512)) : State :=
  records.foldl (fun s r => failNode (appendRing s s.x (withExited r)) s.w.node (recCode r) (recDetail r)) s

/-- The warp in focus ends: its register blocks are released, poison still held is discarded and counted, undelivered late faults
reach the ring, and its queue entries count as popped (R68, R90, R203, R269, R388, R389). -/
def endWarp (s : State) : State :=
  let w := s.w
  let s := if w.porig.getLsbD 255 then count s 0x0010#16 (s.x.num.setWidth 32) 1 else s
  let s := freeSlots s w.core.toNat (popNat 29 w.claimed.toNat)
  let s := flushLate s w.late
  let s := if w.summaryDone then failNode s w.node cStoreImprecise 0x02 else s
  let s := { s with w := { w with status := .done, claimed := 0#29, late := [], exec := 0#64, matReq := none } }
  (List.finRange 8).foldl retireQueue s

/-- What follows once lanes have exited: the warp ends when no lane remains; a path without lanes resumes from the stack; otherwise the
warp goes on at its successor (R269). EXEC empty with an empty stack ends the warp too (log entry 11). -/
def afterExit (s : State) : State :=
  if s.w.gone = BitVec.allOnes 64 then endWarp s
  else if s.w.exec = 0#64 then
    let w := unwind (2 * s.w.stack.length + 1) true { s.w with status := .running, woken := false }
    if w.exec = 0#64 && w.stack.isEmpty then endWarp { s with w := w } else { s with w := w }
  else advance s

end Sys2Proof.Machine
end

