-- ==== Sys2Proof/Machine/Handles.lean ====
section
/-!
DEFINITION. Handles (spec/02, R22 to R39; spec/12, R307 to R309): the checks of a binding, the translation window, the resolution of
a lane's offset, and HBIND, HSET and HQRY.
-/
namespace Sys2Proof.Machine

/-! ### Binding (R28, R31, R35) -/

/-- A region bounds entry (R30). -/
def regLo (r : BitVec 256) : Nat := bitsNat r 0 80
def regHi (r : BitVec 256) : Nat := bitsNat r 96 80
def regV (r : BitVec 256) : Bool := r.getLsbD 176
def regR (r : BitVec 256) : Bool := r.getLsbD 177
def regW (r : BitVec 256) : Bool := r.getLsbD 178

/-- The shape fields of an entry are consistent (check 3 of R28). -/
def shapeOk (e : BitVec 512) : Bool :=
  hShapeless e ||
    ((List.range 4).all fun i =>
      if i ≤ hRank e then hDim e i ≠ 0 && hTile e i ≠ 0 && hGrid e i = ceilDiv (hDim e i) (hTile e i)
      else hDim e i = 0 && hTile e i = 0 && hGrid e i = 0) &&
    hElems e ≤ 65536

/-- The types that Attar accepts (R70). -/
def attarType (t : Elem) : Bool := t = .e4m3 || t = .e5m2 || t = .e2m1 || t = .mxi8

/-- The length of a block's stash range (R22). -/
def stashRange (b : Block) : Nat := b.portion * b.span.toNat

/-- The checks of R28 in order: the fault and its number. -/
def bindCheck (b : Block) (e : BitVec 512) (r : BitVec 256) : Option (Byte × Byte) :=
  let sp := hSpace e
  if !hValid e then some (cHandleBounds, 1)
  else if bitsNat e 112 16 ≠ 0 || bitsNat e 185 7 ≠ 0 || 4 < sp || 3 < hPolicy e || hLength e = 0
      || ((sp = 1 || sp = 3 || sp = 4) && hPolicy e ≠ 0) || (!hAttar e && hBidx e ≠ 0) then some (cHandleBounds, 2)
  else if !shapeOk e then some (cHandleBounds, 3)
  else if hAttar e && (!attarType (hType e) || hElems e % 32 ≠ 0 || hBidx e % 8 ≠ 0 || 2 < sp || hShapeless e) then some (cHandleBounds, 4)
  else if hType e = .e2m1 && (hDim e 0 % 2 = 1 || hTile e 0 % 2 = 1) then some (cHandleBounds, 5)
  else if (sp = 0 || sp = 2) &&
      (!regV r || !regR r || regHi r ≤ regLo r || hBase e < regLo r || regHi r < hBase e + hLength e) then some (cRegionBounds, 6)
  else if (sp = 1 && stashRange b < hBase e + hLength e) || (sp = 3 && (b.gcount = 0#9 || stashRange b < hBase e + hLength e))
    then some (cHandleBounds, 7)
  else none

/-- Stores are permitted through a binding (R32). -/
def Handle.writable (h : Handle) : Bool := h.regionW && !hRo h.entry

/-- Bytes from an address to the end of its page. -/
def toPageEnd (va log : Nat) : Nat := 2 ^ log - va % 2 ^ log

/-- The translation part of a global or constant binding set from a leaf (R35). -/
def Handle.withWindow (h : Handle) (l : Leaf) : Handle :=
  { h with frame := BitVec.ofNat 52 (leafPa l (hBase h.entry)), leaf := l.entry,
           win := BitVec.ofNat 41 (min (toPageEnd (hBase h.entry) l.log) (hLength h.entry)) }

/-- The translation part set when a binding completes (R35, R56): no window on a page that is being splintered. -/
def setWindow (s : State) (h : Handle) : State × Handle :=
  if hSpace h.entry = 0 || hSpace h.entry = 2 then
    match xlate s.m s.x.num (ctxRoot s.x) (hBase h.entry) false with
    | (m, .leaf l) =>
      if s.m.splinters.contains l.pte then ({ s with m := m }, h)
      else if h.writable && pteW l.entry then
        match xlate m s.x.num (ctxRoot s.x) (hBase h.entry) true with
        | (m, .leaf l) => ({ s with m := m }, h.withWindow l)
        | (m, _) => ({ s with m := m }, h)
      else ({ s with m := m }, h.withWindow l)
    | (m, _) => ({ s with m := m }, h)
  else if hSpace h.entry = 1 then (s, { h with frame := BitVec.ofNat 52 (hBase h.entry), win := BitVec.ofNat 41 (hLength h.entry) })
  else (s, h)

/-- A handle register written. -/
def setHandle (s : State) (n : BitVec 4) (h : Handle) : State := { s with w := { s.w with h := s.w.h.set n.toNat h } }

/-- The region entry that an entry names, when its space has one (R29, R30). -/
def readRegion (s : State) (region : Nat) : Run (State × BitVec 256) :=
  match readVa s ((s.b.htab.toNat + 0x400000 + 32 * region) % 2 ^ 80) 32 with
  | .error e => .error e
  | .ok (s, bs) => .ok (s, BitVec.ofNat 256 (natOfBytes bs))

/-- The handle that table entry `i` gives, with the checks of R28 (R307). -/
def bindEntry (s : State) (i : Nat) : Run (State × Handle) :=
  match readVa s ((s.b.htab.toNat + 64 * i) % 2 ^ 80) 64 with
  | .error e => .error e
  | .ok (s, bs) =>
    let e := BitVec.ofNat 512 (natOfBytes bs)
    let finishBind := fun (s : State) (r : BitVec 256) =>
      match bindCheck s.b e r with
      | some (c, d) => trap c d
      | none =>
        let global := hSpace e = 0 || hSpace e = 2
        .ok (setWindow s { bound := true, tbl := true, index := BitVec.ofNat 16 i, win := 0#41, frame := 0#52, entry := e,
                           regionW := !global || regW r, leaf := 0#128 })
    -- the region is read only by check 6, after the checks before it
    match bindCheck s.b e (BitVec.allOnes 256) with
    | some (c, d) => if c = cRegionBounds || d = 7#8 then
        (if hSpace e = 0 || hSpace e = 2 then
          match readRegion s (hRegion e) with
          | .error x => .error x
          | .ok (s, r) => finishBind s r
        else finishBind s 0#256) else trap c d
    | none => finishBind s 0#256

/-- The entry that HSET installs (R31). -/
def pointerEntry (t : Elem) (region va len : Nat) (w : Bool) : BitVec 512 :=
  BitVec.ofNat 512 (va + atBit 80 region + atBit 95 1 + atBit 99 t.code.toNat + atBit 128 len + atBit 184 (!w).toNat)

/-- HBIND (R307). -/
def execHbind (h : BitVec 4) (a : BitVec 8) (s : State) : Host.Outcome State Fault Refusal :=
  issue { rap := .yes, opds := [.ssrc a] } s fun s =>
    match readS s a with
    | .error e => .error e
    | .ok (s, x) =>
      match consumeS x with
      | .error e => .error e
      | .ok _ =>
        if 65536 ≤ x.val.toNat then trap cHandleBounds 0x08
        else warpOnce s fun s =>
          match bindEntry s x.val.toNat with
          | .error e => .error e
          | .ok (s, b) => .ok (advance (setHandle s h b))

/-- HSET (R308, R31). -/
def execHset (h : BitVec 4) (a : BitVec 8) (s : State) : Host.Outcome State Fault Refusal :=
  issue { rap := .yes, opds := [.sregs a 2] } s fun s =>
    let lo := sReg s.w (Fin.ofNat 64 a.toNat)
    let hi := sReg s.w (Fin.ofNat 64 (a.toNat + 1))
    match consumeS lo with
    | .error e => .error e
    | .ok _ =>
      match consumeS hi with
      | .error e => .error e
      | .ok _ =>
        let p := hi.val ++ lo.val
        if bitsNat p 92 36 ≠ 0 then trap cRegionBounds 0x01
        else
          match readRegion s (bitsNat p 80 12) with
          | .error e => .error e
          | .ok (s, r) =>
            let va := bitsNat p 0 80
            if !regV r || !regR r || regHi r ≤ regLo r then trap cRegionBounds 0x02
            else if va < regLo r || regHi r ≤ va then trap cRegionBounds 0x03
            else warpOnce s fun s =>
              let e := pointerEntry (modeEt s.w) (bitsNat p 80 12) va (min (regHi r - va) (2 ^ 56 - 1)) (regW r)
              let r := setWindow s { bound := true, tbl := false, index := 0#16, win := 0#41, frame := 0#52, entry := e,
                                     regionW := regW r, leaf := 0#128 }
              .ok (advance (setHandle r.1 h r.2))

/-- The answer of HQRY (R309). -/
def handleQuery (h : Handle) (q : BitVec 4) : DWord :=
  let e := h.entry
  if q.toNat < 8 then e.extractLsb' (64 * q.toNat) 64
  else if q = 8#4 then
    BitVec.ofNat 64 (if hShapeless e then 0 else orOne (hGrid e 0) * orOne (hGrid e 1) * orOne (hGrid e 2) * orOne (hGrid e 3))
  else if q = 9#4 then BitVec.ofNat 64 (hElems e)
  else BitVec.ofNat 64 (if hAttar e then 32 * rawUnits (hType e) (hElems e) else 0)

/-- HQRY (R309). -/
def execHqry (d : BitVec 8) (h : BitVec 4) (q : BitVec 4) (s : State) : Host.Outcome State Fault Refusal :=
  issue { rap := .yes, opds := [.sdst d] } s fun s =>
    let b := handleAt s.w h
    if !b.bound then .error (.trap { code := cHandleBounds, detail := 0x00, hreg := h })
    else warpOnce s fun s => .ok (advance { s with w := setS s.w (Fin.ofNat 64 d.toNat) ⟨handleQuery b q, false⟩ })

/-! ### Resolution of a lane (R36) -/

/-- FRAME and WIN set again by an access that translated the page of BASE through the TLB (R38). -/
def rewindow (s : State) (n : BitVec 4) (va : Nat) : State :=
  let h := handleAt s.w n
  if h.win ≠ 0#41 then s
  else
    match tlbFind s.m s.x.num (hBase h.entry) with
    | some t =>
      if va / 2 ^ t.log = hBase h.entry / 2 ^ t.log && !s.m.splinters.contains t.pte then setHandle s n (h.withWindow { entry := t.entry, log := t.log, pte := t.pte }) else s
    | none => s

/-- The write refused by RO or the region (R26, R32). -/
def refusedWrite (h : Handle) (a : Access) : Bool := a.writes && !h.writable

/-- A lane's offset resolved through a handle (R36, R297): bounds, alignment, then the window or the TLB with the checks of the leaf, and
the region's W. A write through a window whose leaf has D clear goes through the TLB, which sets D (R56). A stash access uses BASE + o, which
is FRAME + o while FRAME holds the binding's offset: R39 clears FRAME at a restore and gives a stash handle no page whose translation could
set it again (log entry 37). -/
def resolveLane (s : State) (n : BitVec 4) (a : Access) (off : Int) (size : Nat) : Resolved :=
  let h := handleAt s.w n
  let e := h.entry
  if off < 0 || (hLength e : Int) < off + size then .fault cHandleBounds 0x00 0#80
  else
    let o := off.toNat
    let va := (hBase e + o) % 2 ^ 80
    if va % size ≠ 0 then .fault cMisaligned 0x00 0#80
    else if hSpace e = 1 then
      if refusedWrite h a then .fault cProtection 0x00 0#80 else resolveStash s a va
    else
      let r := if o + size ≤ h.win.toNat && !(a.writes && !pteD h.leaf) then
          (match leafCheck s a h.leaf (h.frame.toNat + o) with
          | some (c, d) => .fault c d (BitVec.ofNat 80 va)
          | none => .ok s { stash := false, off := 0, pa := h.frame.toNat + o, va := BitVec.ofNat 80 va, attr := pteAttr h.leaf, key := pteKey h.leaf })
        else resolveVa s a va
      match r with
      | .ok s p => if refusedWrite h a then .fault cProtection 0x00 (BitVec.ofNat 80 va) else throughMap (rewindow s n va) a p
      | r => r

/-- Instruction-wide checks of a handle: bound (R34), a space that admits the access (R23), and no byte access through an Attar
handle (R43). -/
def handleFault (h : Handle) (writes bytes : Bool) : Option (Byte × Byte) :=
  if !h.bound then some (cHandleBounds, 0x00)
  else if 3 ≤ hSpace h.entry || (hSpace h.entry = 2 && writes) then some (cProtection, 0x00)
  else if bytes && hAttar h.entry then some (cProtection, 0x00)
  else none

end Sys2Proof.Machine
end

