-- ==== Sys2Proof/Machine/Late.lean ====
section
/-!
DEFINITION. Late faults of a warp and of a block (spec/14, R388, R389), the cores and their tile tables (spec/05, R102), and the warps
that a change of a barrier word wakes (spec/06, R153).
-/
namespace Sys2Proof.Machine

/-! ### Late faults (R388, R389) -/

/-- The summary that replaces the newest record of a full queue (R388): the identity of the warp, and nothing that only one of
the faults fills (R380; log entry 12). -/
def summaryOf (r : BitVec 512) (detail : Nat) : BitVec 512 :=
  BitVec.ofNat 512 (atBit 448 (bitsNat r 448 64) + atBit 384 (bitsNat r 384 64) + atBit 92 (bitsNat r 92 68)
    + atBit 84 cStoreImprecise.toNat + atBit 76 detail + atBit 68 0xF + atBit 37 1)

/-- A record joining the pending queue of eight (R388): the queue, whether its newest record is a summary, and the records merged
into that summary, which go to the ring. -/
def joinLate (late : List (BitVec 512)) (summary : Bool) (r : BitVec 512) : List (BitVec 512) × Bool × List (BitVec 512) :=
  match late.getLast? with
  | none => ([r], false, [])
  | some q =>
    if summary then (late.dropLast ++ [summaryOf q (min 255 ((recDetail q).toNat + 1))], true, [r])
    else if late.length < 8 then (late ++ [r], false, [])
    else (late.dropLast ++ [summaryOf q 2], true, [q, r])

/-- A record of an imprecise fault of the warp in focus (R388 to R390, R202). -/
def lateArrives (s : State) (r : BitVec 512) : State :=
  match s.w.status with
  | .done => failNode (appendRing s s.x (withExited r)) s.w.node (recCode r) (recDetail r)
  | .halted => appendRing s s.x r
  | .vacant => s
  | _ =>
    if s.w.rap then haltNode (appendRing s s.x r) (recCode r) (recDetail r)
    else
      let q := joinLate s.w.late s.w.summary r
      q.2.2.foldl (fun s r => appendRing s s.x r) { s with w := { s.w with late := q.1, summary := q.2.1 } }

/-- A fault of an access of the warp in focus that arrives after its instruction: its instruction, handle, cause and failed lanes (R378,
R380); `imp` is IMP of its record. -/
def raiseAfter (s : State) (pc : VA) (hreg : BitVec 4) (code detail : Byte) (va : VA) (mask : Mask) (imp : Bool) : State :=
  let (s, seq) := takeSeq s
  lateArrives s (faultRecord s.w s.b seq pc { code := code, detail := detail, va := va, hreg := hreg } mask imp false 0x00)

/-- An imprecise fault of an access of the warp in focus (R388). -/
def raiseLate (s : State) (pc : VA) (hreg : BitVec 4) (code detail : Byte) (va : VA) (mask : Mask) : State :=
  raiseAfter s pc hreg code detail va mask true

/-- An imprecise fault reported at the block in focus (R389): to its lowest-indexed warp that has not ended, else to the ring with WIDX
0xFE. -/
def raiseBlock (s : State) (code detail : Byte) (va : VA) : State :=
  let back := s.w.wid
  let live := liveWarps s s.b.bid
  match live.foldl (fun (r : Option Warp) w => match r with
      | some q => if w.widx < q.widx then some w else some q
      | none => some w) none with
  | some w =>
    let t := focusOn s w.wid
    focusOn (raiseLate t 0#80 0#4 code detail va 0#64) back
  | none =>
    let (s, seq) := takeSeq s
    let r := faultRecord { s.w with widx := 0xFE, rap := false } s.b seq 0#80 { code := code, detail := detail, va := va } 0#64 true true 0x00
    failNode (appendRing s s.x r) s.b.node code detail

/-! ### Cores and tile tables (R91, R102) -/

/-- A context holds its cores: it is not switched out. -/
def ctxResident (s : State) (c : BitVec 16) : Bool := ((ctxOf s c).map (·.resident)).getD true

/-- A core by number. -/
def coreAt (s : State) (k : Nat) : CoreState := if h : k < 160 then s.cores[k] else CoreState.reset

/-- A core changed. -/
def onCore (s : State) (k : Nat) (f : CoreState → CoreState) : State :=
  { s with cores := vecOf 160 fun i => if i.val = k then f s.cores[i] else s.cores[i] }

def tState (e : DWord) : Nat := bitsNat e 62 2
def tPoison (e : DWord) : Bool := e.getLsbD 61
def tDef (e : DWord) : Bool := e.getLsbD 60
def tBslot (e : DWord) : Nat := bitsNat e 54 6
/-- Lines of a tile. -/
def tLines (e : DWord) : Nat := bitsNat e 43 11 + 1
def tLine (e : DWord) : Nat := bitsNat e 30 13
def tUnit (e : DWord) : Nat := bitsNat e 8 8
def tCode (e : DWord) : Nat := bitsNat e 0 8

/-- The core that holds a stash offset of a block, and its line in that core's data store (R22, R95). -/
def stashCore (b : Block) (off : Nat) : Nat := b.core.toNat + off / b.portion
def stashLine (b : Block) (off : Nat) : Nat := b.base + off % b.portion / 128

/-- The runs of data-store lines that `n` bytes at a stash offset cover, one for each span core: core, first line, lines. -/
def stashRuns (b : Block) (off n : Nat) : List (Nat × Nat × Nat) :=
  (List.range b.span.toNat).filterMap fun i =>
    let lo := max off (i * b.portion)
    let hi := min (off + n) ((i + 1) * b.portion)
    if lo < hi then
      some (b.core.toNat + i, b.base + (lo - i * b.portion) / 128, (hi - 1 - i * b.portion) / 128 + 1 - (lo - i * b.portion) / 128)
    else none

/-- The tile-table entries of a core by number as a block's context sees them: while it is switched out, those saved with it (R95, R395). -/
def tileTable (s : State) (ctx : BitVec 16) (core : Nat) : List (DWord × Nat) :=
  match (ctxOf s ctx).filter fun x => !x.resident with
  | some x => x.tilesOut.filterMap fun e => if e.1 / 256 = core then some (e.2, e.1 % 256) else none
  | none => (coreAt s core).tiles.toList.zipIdx

/-- The defined tiles of a block that meet `n` bytes at a stash offset: core, entry number, entry (R104). -/
def tilesAt (s : State) (b : Block) (off n : Nat) : List (Nat × Nat × DWord) :=
  (stashRuns b off n).flatMap fun r =>
    (tileTable s b.ctx r.1).filterMap fun e =>
      if tDef e.1 && tBslot e.1 = b.bslot.toNat && rangesMeet (tLine e.1) (tLines e.1) r.2.1 r.2.2 then some (r.1, e.2, e.1) else none

/-- A plain access of these stash bytes lies in a poisoned tile (R104). -/
def inPoisonedTile (s : State) (off n : Nat) : Bool := (tilesAt s s.b off n).any fun t => tPoison t.2.2

/-! ### Register blocks in their backing (R93, R397, R399) -/

/-- Numbers of `n` bytes each, one after the other. -/
def packNats (n : Nat) (l : List Nat) : List Byte := l.flatMap (bytesOfNat n)

/-- A mask of the entries of a list for which `f` holds. -/
def bitsOf {α : Type} (f : α → Bool) (l : List α) : Nat := l.zipIdx.foldl (fun n e => if f e.1 then n + 2 ^ e.2 else n) 0

/-- The registers of a block. -/
def blockRegisters (w : Warp) (k : Nat) : List (List Lane) := (w.v.toList.extract (8 * k) (8 * k + 8)).map (·.toList)

/-- What the backing of a register block holds: its words, and its poison bits. -/
def blockImage (w : Warp) (k : Nat) : List Byte := (blockRegisters w k).flatMap fun r => packNats 4 (r.map (·.val.toNat))
def blockPoison (w : Warp) (k : Nat) : List Byte := packNats 8 ((blockRegisters w k).map (bitsOf (·.poison)))

/-- A register block of a switched-out warp written to its backing, its slot being taken (R91). -/
def spillBlock (s : State) (q : Nat × Nat) : State :=
  match warpOf s q.1 with
  | none => s
  | some w =>
    let x := ctxFor s w.ctx
    let s := hubPost s x (warpRecord x w + 0x20000 + 0x800 * q.2) (blockImage w q.2)
    let s := hubPost s x (warpRecord x w + 0x2F000 + 64 * q.2) (blockPoison w q.2)
    onWarp s w.wid fun w => { w with away := w.away ||| (1#29 <<< q.2) }

/-- The register blocks of a context's warps on a core that are in slots: warp and block. -/
def slotBlocks (s : State) (core : Nat) (ctx : BitVec 16) : List (Nat × Nat) :=
  ((allWarps s).filter fun w => w.ctx = ctx && w.core.toNat = core && !w.rap).flatMap fun w =>
    ((List.range 29).filter fun k => w.claimed.getLsbD k && !w.away.getLsbD k).map fun k => (w.wid, k)

/-- A register as its backing holds it: 64 words and the poison bits (R399). -/
def backedRegister (words poison : Nat) : Vector Lane 64 :=
  lanesOf fun l => ⟨BitVec.ofNat 32 (words / 2 ^ (32 * l.val)), poison.testBit l.val⟩

/-- One register block of the warp in focus read back from its backing (R93, R399); where the image cannot be read, what the hub has of it
stands (log entry 43). -/
def refillBlock (s : State) (k : Nat) : HubRun State :=
  if s.hub.writesDue.any fun d => d.1 = s.x.num then .error none else
  let here := fun (s : State) (v : Vector (Vector Lane 64) 232) => { s with w := { s.w with v := v, away := s.w.away &&& ~~~(1#29 <<< k) } }
  let at_ := ctxImage s.x + s.w.backing
  match hubFetch s s.x (at_ + 0x20000 + 0x800 * k) 2048 with
  | .error none => .error none
  | .error (some _) => .ok (here s s.w.v)
  | .ok (s, n) =>
    match hubFetch s s.x (at_ + 0x2F000 + 64 * k) 64 with
    | .error none => .error none
    | .error (some _) => .ok (here s s.w.v)
    | .ok (s, q) =>
      .ok (here s (vecOf 232 fun r =>
        if r.val / 8 = k then backedRegister (n / 2 ^ (2048 * (r.val % 8))) (q / 2 ^ (64 * (r.val % 8))) else s.w.v[r]))

/-- The blocks of a mask read back, as far as their pages can be read. -/
def refillBlocks (blocks : BitVec 29) (s : State) : State :=
  ((List.range 29).filter fun k => blocks.getLsbD k && s.w.away.getLsbD k).foldl (fun s k => match refillBlock s k with
    | .ok s => s
    | .error _ => s) s

/-- The blocks for which the warp in focus stalls read back. -/
def refillStall (s : State) : State :=
  match s.w.status with
  | .parked (.refill k) => refillBlocks k s
  | _ => s

/-! ### Accumulators in their backing (R356, R397, R399) -/

/-- A row of an accumulator tile in 256 bytes (R399), an F64 row holding 32 elements. -/
def accRowImage (a : Acc) (r : AccRow) : List Byte :=
  if a.f64 then packNats 8 ((r.elems.toList.take 32).map (·.toNat)) else packNats 4 (r.elems.toList.map fun x => x.toNat % 2 ^ 32)

/-- A warp's accumulator tiles as its record holds them, by offset. -/
def accAreas (w : Warp) : List (Nat × List Byte) :=
  w.acc.toList.zipIdx.map fun a => (0x10000 + 0x4000 * a.2, a.1.rows.toList.flatMap (accRowImage a.1))

/-- The accumulator tiles of a warp written to its context's image. -/
def spillAcc (s : State) (w : Warp) : State :=
  let x := ctxFor s w.ctx
  (accAreas w).foldl (fun s a => hubPost s x (warpRecord x w + a.1) a.2) s

/-! ### Barrier words (R151, R153) -/

/-- The doubleword at a stash offset. -/
def stashWord (b : Block) (off : Nat) : DWord := BitVec.ofNat 64 (cellNat b.stash off 8)

/-- A warp, or the other path of its split, parked on a barrier word whose PHASE differs between two states of the block is woken (R153). -/
def wakeOne (before after : Block) (w : Warp) : Warp :=
  let flips := fun (t : Status) => match t with
    | .parked (.barrier off _) => (stashWord before off).getLsbD 32 ≠ (stashWord after off).getLsbD 32
    | _ => false
  if w.bid ≠ after.bid then w
  else
    { w with woken := w.woken || flips w.status,
             stack := w.stack.map fun e => { e with other := e.other.map fun c => { c with woken := c.woken || flips c.status } } }

/-- The warps woken by what a write did to the stash of the block in focus. -/
def wakeBarriers (before : Block) (s : State) : State :=
  if s.b.stash = before.stash then s else mapWarps s (wakeOne before s.b)

end Sys2Proof.Machine
end

