-- ==== Sys2Proof/Machine/Scalar.lean ====
section
/-!
DEFINITION. Scalar integer operations (spec/11, R274 to R276) and SMOVI (spec/10, R238).
-/
namespace Sys2Proof.Machine

/-- Scalar forms are signed under S8, S16, S32 and S64 (R259). -/
def scalarSigned (w : Warp) : Bool := (modeEt w).isInt && (modeEt w).isSigned

/-- A 64-bit value as the exact integer of R259. -/
def scalarInt (w : Warp) (x : DWord) : Int := if scalarSigned w then x.toInt else (x.toNat : Int)

/-- An exact integer result clamped to a width and signedness (R263). -/
def clampInt (width : Nat) (signed : Bool) (v : Int) : Int :=
  let lo : Int := if signed then -(2 ^ (width - 1) : Int) else 0
  let hi : Int := if signed then 2 ^ (width - 1) - 1 else 2 ^ width - 1
  max lo (min hi v)

/-- An exact result clamped under MODE.SAT, else taken modulo 2^64 (R263). -/
def scalarResult (w : Warp) (v : Int) : DWord := BitVec.ofInt 64 (if modeSat w then clampInt 64 (scalarSigned w) v else v)

/-- A scalar result with the poison of its sources (R65). -/
def scalarOut (srcs : List Scalar) (v : DWord) : Scalar :=
  match firstPoison srcs with
  | some c => poisonScalar c
  | none => ⟨v, false⟩

/-- A warp-once scalar form of two sources (R258, R274). -/
def scalarBin (d a b : BitVec 8) (f : Warp → DWord → DWord → DWord) (s : State) : Host.Outcome State Fault Refusal :=
  issue { rap := .yes, opds := [.sdst d, .ssrc a, .ssrc b] } s fun s => warpOnce s fun s =>
    match readS s a with
    | .error e => .error e
    | .ok (s, x) =>
      match readS s b with
      | .error e => .error e
      | .ok (s, y) => .ok (advance { s with w := setS s.w (Fin.ofNat 64 d.toNat) (scalarOut [x, y] (f s.w x.val y.val)) })

/-- A warp-once scalar form of one source (R258, R276). -/
def scalarUn (d a : BitVec 8) (f : Warp → DWord → DWord) (s : State) : Host.Outcome State Fault Refusal :=
  issue { rap := .yes, opds := [.sdst d, .ssrc a] } s fun s => warpOnce s fun s =>
    match readS s a with
    | .error e => .error e
    | .ok (s, x) => .ok (advance { s with w := setS s.w (Fin.ofNat 64 d.toNat) (scalarOut [x] (f s.w x.val)) })

/-- 1 when a comparison holds. -/
def truth (b : Bool) : DWord := if b then 1#64 else 0#64

/-- The shift amount b[5:0] (R274). -/
def shiftAmount (b : DWord) : Nat := bitsNat b 0 6

/-- The quotient of R275, rounded toward zero. -/
def scalarDiv (w : Warp) (x y : DWord) : DWord :=
  if y = 0#64 then BitVec.allOnes 64
  else scalarResult w ((scalarInt w x).tdiv (scalarInt w y))

/-- The remainder of R275, with the sign of a. -/
def scalarRem (w : Warp) (x y : DWord) : DWord :=
  if y = 0#64 then x else BitVec.ofInt 64 ((scalarInt w x).tmod (scalarInt w y))

/-- SADD (R274, R263). -/
def execSadd (d a b : BitVec 8) (s : State) : Host.Outcome State Fault Refusal :=
  scalarBin d a b (fun w x y => scalarResult w (scalarInt w x + scalarInt w y)) s
/-- SSUB (R274, R263). -/
def execSsub (d a b : BitVec 8) (s : State) : Host.Outcome State Fault Refusal :=
  scalarBin d a b (fun w x y => scalarResult w (scalarInt w x - scalarInt w y)) s
/-- SMUL (R274, R263). -/
def execSmul (d a b : BitVec 8) (s : State) : Host.Outcome State Fault Refusal :=
  scalarBin d a b (fun w x y => scalarResult w (scalarInt w x * scalarInt w y)) s
/-- SMULH (R274): bits [127:64] of the exact product. -/
def execSmulh (d a b : BitVec 8) (s : State) : Host.Outcome State Fault Refusal :=
  scalarBin d a b (fun w x y => BitVec.ofInt 64 ((scalarInt w x * scalarInt w y) / 2 ^ 64)) s
/-- SAND (R274). -/
def execSand (d a b : BitVec 8) (s : State) : Host.Outcome State Fault Refusal := scalarBin d a b (fun _ x y => x &&& y) s
/-- SOR (R274). -/
def execSor (d a b : BitVec 8) (s : State) : Host.Outcome State Fault Refusal := scalarBin d a b (fun _ x y => x ||| y) s
/-- SXOR (R274). -/
def execSxor (d a b : BitVec 8) (s : State) : Host.Outcome State Fault Refusal := scalarBin d a b (fun _ x y => x ^^^ y) s
/-- SANDN (R274). -/
def execSandn (d a b : BitVec 8) (s : State) : Host.Outcome State Fault Refusal := scalarBin d a b (fun _ x y => x &&& ~~~y) s
/-- SSHL (R274). -/
def execSshl (d a b : BitVec 8) (s : State) : Host.Outcome State Fault Refusal := scalarBin d a b (fun _ x y => x <<< shiftAmount y) s
/-- SSHR (R274). -/
def execSshr (d a b : BitVec 8) (s : State) : Host.Outcome State Fault Refusal := scalarBin d a b (fun _ x y => x >>> shiftAmount y) s
/-- SASR (R274). -/
def execSasr (d a b : BitVec 8) (s : State) : Host.Outcome State Fault Refusal :=
  scalarBin d a b (fun _ x y => x.sshiftRight (shiftAmount y)) s
/-- SROT (R274). -/
def execSrot (d a b : BitVec 8) (s : State) : Host.Outcome State Fault Refusal :=
  scalarBin d a b (fun _ x y => x.rotateLeft (shiftAmount y)) s
/-- SEQ (R274). -/
def execSeq (d a b : BitVec 8) (s : State) : Host.Outcome State Fault Refusal := scalarBin d a b (fun _ x y => truth (x == y)) s
/-- SLT (R274). -/
def execSlt (d a b : BitVec 8) (s : State) : Host.Outcome State Fault Refusal :=
  scalarBin d a b (fun w x y => truth (scalarInt w x < scalarInt w y)) s
/-- SLE (R274). -/
def execSle (d a b : BitVec 8) (s : State) : Host.Outcome State Fault Refusal :=
  scalarBin d a b (fun w x y => truth (scalarInt w x ≤ scalarInt w y)) s
/-- SNE (R274). -/
def execSne (d a b : BitVec 8) (s : State) : Host.Outcome State Fault Refusal := scalarBin d a b (fun _ x y => truth (x != y)) s
/-- SMIN (R274). -/
def execSmin (d a b : BitVec 8) (s : State) : Host.Outcome State Fault Refusal :=
  scalarBin d a b (fun w x y => if scalarInt w y < scalarInt w x then y else x) s
/-- SMAX (R274). -/
def execSmax (d a b : BitVec 8) (s : State) : Host.Outcome State Fault Refusal :=
  scalarBin d a b (fun w x y => if scalarInt w x < scalarInt w y then y else x) s
/-- SDIV (R275). -/
def execSdiv (d a b : BitVec 8) (s : State) : Host.Outcome State Fault Refusal := scalarBin d a b scalarDiv s
/-- SREM (R275). -/
def execSrem (d a b : BitVec 8) (s : State) : Host.Outcome State Fault Refusal := scalarBin d a b scalarRem s

/-- SMOV (R276). -/
def execSmov (d a : BitVec 8) (s : State) : Host.Outcome State Fault Refusal := scalarUn d a (fun _ x => x) s
/-- SNOT (R276). -/
def execSnot (d a : BitVec 8) (s : State) : Host.Outcome State Fault Refusal := scalarUn d a (fun _ x => ~~~x) s
/-- SNEG (R276, R263). -/
def execSneg (d a : BitVec 8) (s : State) : Host.Outcome State Fault Refusal := scalarUn d a (fun w x => scalarResult w (-scalarInt w x)) s
/-- SCLZ (R276). -/
def execSclz (d a : BitVec 8) (s : State) : Host.Outcome State Fault Refusal :=
  scalarUn d a (fun _ x => BitVec.ofNat 64 (clzNat 64 x.toNat)) s
/-- SPOPC (R276). -/
def execSpopc (d a : BitVec 8) (s : State) : Host.Outcome State Fault Refusal :=
  scalarUn d a (fun _ x => BitVec.ofNat 64 (popNat 64 x.toNat)) s
/-- SBREV (R276). -/
def execSbrev (d a : BitVec 8) (s : State) : Host.Outcome State Fault Refusal :=
  scalarUn d a (fun _ x => BitVec.ofNat 64 (revNat 64 x.toNat)) s

/-! ### Immediates (R238) -/

/-- The 32-bit value of an immediate under MODE.ET. -/
def immediate32 (t : Elem) (i : BitVec 20) : Word := if t.isInt || t.code = 0xF#4 then i.signExtend 32 else i ++ 0#12

/-- The 64-bit value of an immediate under MODE.ET: the binary64 of an FP32 value under F64. -/
def immediate64 (t : Elem) (i : BitVec 20) : DWord :=
  if t.isInt || t.code = 0xF#4 then i.signExtend 64
  else if t = .f64 then BitVec.ofNat 64 (Elem.f64.pattern (Elem.f32.value (i ++ 0#12).toNat))
  else (i ++ 0#12 : BitVec 32).setWidth 64

/-- SMOVI (R238). -/
def execSmovi (d : BitVec 8) (i : BitVec 20) (s : State) : Host.Outcome State Fault Refusal :=
  issue { rap := .yes, opds := [.sdst d] } s fun s => warpOnce s fun s =>
    .ok (advance { s with w := setS s.w (Fin.ofNat 64 d.toNat) ⟨immediate64 (modeEt s.w) i, false⟩ })

end Sys2Proof.Machine
end

