-- ==== Sys2Proof/Machine/VecOps.lean ====
section
/-!
DEFINITION. The shapes that the vector forms share (spec/11, R258 to R260): per-lane forms of one, two and three sources, their result
written to a register or pair, the type checks, and integers in lanes (R259, R263).
-/
namespace Sys2Proof.Machine

/-- A result written to a vector register or pair in the lanes of a mask (R236, R258); a poisoned one fills both registers with its
code (R65). -/
def writeV (w : Warp) (wide : Bool) (d : Byte) (m : Mask) (f : Src) : Warp :=
  let lo := setV w (Fin.ofNat 232 d.toNat) m fun l => ⟨(f l).val.setWidth 32, (f l).poison⟩
  if wide then
    setV lo (Fin.ofNat 232 (d.toNat + 1)) m fun l => ⟨if (f l).poison then (f l).val.setWidth 32 else (f l).val.extractLsb' 32 32, (f l).poison⟩
  else lo

/-- Registers of an operand: two for a pair. -/
def regsOf (wide : Bool) : Nat := if wide then 2 else 1

/-- A vector destination or stored operand of one register or one pair. -/
def vdst (d : Byte) (wide : Bool) : Opd := .vreg d (regsOf wide) (regsOf wide)

/-- MODE.ET names pairs (R236). -/
def wideEt (s : State) : Bool := (modeEt s.w).isPair

/-- A per-lane form of one source (R258). -/
def perLane1 (wd wa : Bool) (d a : Byte) (check : Warp → Run Unit) (f : Warp → DWord → DWord) (s : State) :
    Host.Outcome State Fault Refusal :=
  issue { rap := .no, opds := [vdst d wd, .vsrc a wa] } s fun s =>
    match check s.w with
    | .error e => .error e
    | .ok _ =>
      match readV s wa a with
      | .error e => .error e
      | .ok (s, x) => .ok (advance { s with w := writeV s.w wd d (active s.w) fun l => scalarOut [x l] (f s.w (x l).val) })

/-- A per-lane form of two sources (R258). -/
def perLane2 (wide : Bool) (d a b : Byte) (check : Warp → Run Unit) (f : Warp → DWord → DWord → DWord) (s : State) :
    Host.Outcome State Fault Refusal :=
  issue { rap := .no, opds := [vdst d wide, .vsrc a wide, .vsrc b wide] } s fun s =>
    match check s.w with
    | .error e => .error e
    | .ok _ =>
      match readV s wide a with
      | .error e => .error e
      | .ok (s, x) =>
        match readV s wide b with
        | .error e => .error e
        | .ok (s, y) =>
          .ok (advance { s with w := writeV s.w wide d (active s.w) fun l => scalarOut [x l, y l] (f s.w (x l).val (y l).val) })

/-- A per-lane form that also reads its destination, as its third source (R277, R280). -/
def perLane3 (wide : Bool) (d a b : Byte) (check : Warp → Run Unit) (f : Warp → DWord → DWord → DWord → DWord) (s : State) :
    Host.Outcome State Fault Refusal :=
  issue { rap := .no, opds := [vdst d wide, .vsrc a wide, .vsrc b wide] } s fun s =>
    match check s.w with
    | .error e => .error e
    | .ok _ =>
      match readV s wide a with
      | .error e => .error e
      | .ok (s, x) =>
        match readV s wide b with
        | .error e => .error e
        | .ok (s, y) =>
          let z := vecSrc s.w wide d.toNat
          let out : Src := fun l => scalarOut [x l, y l, z l] (f s.w (x l).val (y l).val (z l).val)
          .ok (advance { s with w := writeV s.w wide d (active s.w) out })

/-! ### Type checks -/

/-- No check: the bit forms (R259). -/
def anyType (_ : Warp) : Run Unit := .ok ()
/-- The numeric integer forms refuse the other types (R259). -/
def intType (w : Warp) : Run Unit := require (modeEt w).isInt cIllegalInstruction 0x10
/-- The floating-point forms refuse the other types (R260). -/
def floatType (w : Warp) : Run Unit := require (modeEt w).isFloat cIllegalInstruction 0x11
/-- The forms that F64 is refused to (R260). -/
def floatNot64 (w : Warp) : Run Unit :=
  if !(modeEt w).isFloat then trap cIllegalInstruction 0x11 else require (modeEt w ≠ .f64) cIllegalInstruction 0x12
/-- VCMP, VSCAN and VREDUCE accept integers and floating-point types (R259, R260). -/
def numberType (w : Warp) : Run Unit := require ((modeEt w).isInt || (modeEt w).isFloat) cIllegalInstruction 0x11
/-- The quantising forms take the coded types (R284). -/
def codedType (w : Warp) : Run Unit :=
  require (modeEt w = .e4m3 || modeEt w = .e5m2 || modeEt w = .e2m1 || modeEt w = .mxi8) cIllegalInstruction 0x13

/-! ### Integers in lanes (R259) -/

/-- The width w of the table of R259. -/
def laneWidth (t : Elem) : Nat := if t.isInt || t = .f64 then t.width else 32

/-- An operand as an exact integer. -/
def laneInt (t : Elem) (x : DWord) : Int := if t.isSigned then signedNat t.width x.toNat else ((x.toNat % 2 ^ laneWidth t : Nat) : Int)

/-- The w-bit pattern of an operand. -/
def lanePattern (t : Elem) (x : DWord) : Nat := x.toNat % 2 ^ laneWidth t

/-- A w-bit pattern extended by the signedness of the type. -/
def extendPattern (t : Elem) (p : Nat) : DWord := if t.isSigned then BitVec.ofInt 64 (signedNat t.width p) else BitVec.ofNat 64 p

/-- An exact integer result taken modulo 2^w and extended. -/
def wrapLane (t : Elem) (v : Int) : DWord := extendPattern t (wrapInt (laneWidth t) v)

/-- An exact integer result of a form that R263 lists: clamped under MODE.SAT, else wrapped. -/
def satLane (w : Warp) (v : Int) : DWord :=
  let t := modeEt w
  wrapLane t (if modeSat w then clampInt t.width t.isSigned v else v)

/-- A result of a bit form: a w-bit pattern. -/
def bitLane (w : Warp) (p : Nat) : DWord := extendPattern (modeEt w) (p % 2 ^ laneWidth (modeEt w))

end Sys2Proof.Machine
end

