-- ==== Sys2Proof/Machine/Load.lean ====
section
/-!
DEFINITION. Loads (spec/12, R295 to R301): lane offsets, what each lane reads, forwarding from the store queue (spec/06, R120), the
pending load, and the forms ldv, gather, lda, ldc and sld.
-/
namespace Sys2Proof.Machine

/-! ### Sizes and offsets (R296, R237) -/

/-- The access size of MODE.ET in bytes (R296). -/
def accessSize (w : Warp) : Nat := max 1 ((modeEt w).width / 8)

/-- A loaded value is sign-extended (R296). -/
def loadSigned (w : Warp) : Bool := (modeEt w).isInt && (modeEt w).isSigned

/-- An index at its width, extended and shifted (R237), as a 64-bit signed offset (R36), with `add` bytes more. -/
def indexOffset (iw : BitVec 2) (sg : BitVec 1) (sc : BitVec 3) (add : Nat) (x : DWord) : Int :=
  let n := 8 * 2 ^ iw.toNat
  let v : Int := if sg = 1#1 then signedNat n x.toNat else ((x.toNat % 2 ^ n : Nat) : Int)
  signedNat 64 (wrapInt 64 (v * 2 ^ sc.toNat + add))

/-- What a lane brings to an access: the code of its poisoned index, or its offset. -/
abbrev LaneReq := Nat × (Byte ⊕ Int)

/-- The offsets of a vector index in the active lanes. -/
def vectorOffsets (w : Warp) (x : Src) (f : DWord → Int) : List LaneReq :=
  (laneList (active w)).map fun l => (l.val, if (x l).poison then .inl (x l).code else .inr (f (x l).val))

/-- The offsets of a scalar index: lane number × size added (R237). -/
def scalarOffsets (w : Warp) (x : Scalar) (size : Nat) (f : Nat → DWord → Int) : List LaneReq :=
  (laneList (active w)).map fun l => (l.val, if x.poison then .inl x.code else .inr (f (l.val * size) x.val))

/-! ### Outstanding requests (R6, R55) -/

/-- The outstanding memory requests of a warp, one for each lane access that is not performed. -/
def requestsOf (w : Warp) : Nat :=
  (w.loads.map fun p => p.jobs.length).sum + (w.stores.map fun e => e.lanes.length).sum + w.unacked.length
    + (w.remotes.map fun r => r.lanes.length).sum

/-- The core of the warp in focus has `n` of its 8,192 outstanding requests free (R6); one lane access never waits for more than all. -/
def requestsFree (s : State) (n : Nat) : Run Unit :=
  let used := ((allWarps s).filter fun w => w.core = s.w.core && w.status ≠ .vacant).foldl (fun k w => k + requestsOf w) 0
  if used ≠ 0 && 8192 < used + n then park .requests else .ok ()

/-- `n` lanes may be read now: no access holds them back, and the core has requests for them (R55). -/
def readReady (s : State) (n : Nat) : Run Unit :=
  match loadReady s with
  | .error e => .error e
  | .ok _ => requestsFree s n

/-! ### One lane (R297) -/

/-- The implicit cache takes lines read through a handle (R27, R100). -/
def Handle.cached (h : Handle) : Bool := hPolicy h.entry ≠ 2

/-- The bytes of an admitted read: forwarded, parked on an unpublished line (R138), or read at their place. -/
def readPlace (s : State) (cached : Bool) (p : Place) (size : Nat) : Run (State × LanePlan) :=
  match readCheck s.m p with
  | some d => .ok (s, .poison cAliasAttr d p.va true)
  | none =>
    if homeStalls s.m p then park .splinter
    else
      match forwarded s.w p size with
      | .error e => .error e
      | .ok (some bs) => .ok (s, .value (BitVec.ofNat 64 (natOfBytes bs)))
      | .ok none =>
        if unpublished s p then .ok (s, .parked p)
        else match awaitLine s s.w.core.toNat p false with
        | .error e => .error e
        | .ok _ =>
          let r := loadAt s s.w.core.toNat cached p size
          .ok (r.1, .value (BitVec.ofNat 64 (natOfBytes r.2)))

/-- One lane of a load through a handle (R297, R104). -/
def planLane (n : BitVec 4) (size : Nat) (s : State) (off : Int) : Run (State × LanePlan) :=
  let h := handleAt s.w n
  match resolveLane s n .load off size with
  | .fault c d v => .ok (s, .poison c d v true)
  | .stall => park .splinter
  | .ok t p =>
    if hSpace h.entry = 1 && inPoisonedTile s (hBase h.entry + off.toNat) size then .ok (t, .poison cTilePoison 0x00 0#80 true)
    else readPlace t h.cached p size

/-- The lanes of a load, one after another; a poisoned index makes no access (R64). -/
def planLanes (f : State → Int → Run (State × LanePlan)) : List LaneReq → State → Run (State × List LaneJob)
  | [], s => .ok (s, [])
  | (l, .inl c) :: t, s =>
    match planLanes f t s with
    | .error e => .error e
    | .ok (s, js) => .ok (s, ⟨l, .poison c 0x00 0#80 false⟩ :: js)
  | (l, .inr o) :: t, s =>
    match f s o with
    | .error e => .error e
    | .ok (s, p) =>
      match planLanes f t s with
      | .error e => .error e
      | .ok (s, js) => .ok (s, ⟨l, p⟩ :: js)

/-- Lanes that an instruction-wide fault poisons, a poisoned index first (R24, R64). -/
def poisonLanes (c d : Byte) (reqs : List LaneReq) : List LaneJob :=
  reqs.map fun r => ⟨r.1, match r.2 with
    | .inl p => .poison p 0x00 0#80 false
    | .inr _ => .poison c d 0#80 true⟩

/-- The lanes of a plain load through a handle (R297, R299). -/
def planLoad (n : BitVec 4) (size : Nat) (reqs : List LaneReq) (s : State) : Run (State × List LaneJob) :=
  match handleFault (handleAt s.w n) false true with
  | some (c, d) => .ok (s, poisonLanes c d reqs)
  | none => planLanes (planLane n size) reqs s

/-- One deferred fault recorded (R67). -/
def originAdd (r : BitVec 256) (code detail : Byte) (lane : Nat) (va pc : VA) : BitVec 256 :=
  if r.getLsbD 255 then setBits r 240 8 (BitVec.ofNat 8 (min 255 (bitsNat r 240 8 + 1)))
  else BitVec.ofNat 256 (atBit 255 1 + atBit 232 detail.toNat + atBit 224 code.toNat + atBit 218 (lane % 64) + atBit 128 va.toNat + pc.toNat)

/-- The deferred faults of a load's lanes recorded in lane order (R64, R67). -/
def recordOrigins (w : Warp) (p : PendLoad) : Warp :=
  { w with porig := p.jobs.foldl (fun r j => match j.plan with
      | .poison c d va true => originAdd r c d j.lane va p.pc
      | _ => r) w.porig }

/-- A load whose deferred faults have been recorded. -/
def settledLoad (p : PendLoad) : PendLoad :=
  { p with jobs := p.jobs.map fun j => match j.plan with
      | .poison c d va true => { j with plan := .poison c d va false }
      | _ => j }

/-- A pending load added to a warp; the deferred faults found at its issue are recorded (R64, R67). -/
def addLoad (w : Warp) (p : PendLoad) : Warp := { recordOrigins w p with loads := w.loads ++ [settledLoad p] }

/-- A load issued: its lanes wait to be written, its registers interlock, its flag is tracked (R188, R192). -/
def pendAtomic (s : State) (kind : PendKind) (regs : List Nat) (jobs : List LaneJob) (acquire : Bool) (rel : Option (BitVec 3))
    (n : BitVec 4) : State :=
  let f := ldFlag s.w
  advance { s with
    w := flagInc (addLoad s.w { kind := kind, jobs := jobs, regs := regs, flag := f, pc := s.w.pc,
                                since := s.w.cyc.toNat, acquire := acquire, rel := rel, hreg := n }) f }

/-- A load issued that is no release. -/
def pendLoad (s : State) (kind : PendKind) (regs : List Nat) (jobs : List LaneJob) (acquire : Bool) : State :=
  pendAtomic s kind regs jobs acquire none 0#4

/-- The registers of a destination or pair. -/
def pairRegs (d : Byte) (wide : Bool) : List Nat := if wide then [d.toNat, d.toNat + 1] else [d.toNat]

/-- A load into vector lanes whose requests are known (R295, R297). -/
def vectorLoad (d : Byte) (reqs : List LaneReq) (plan : List LaneReq → State → Run (State × List LaneJob)) (acquire : Bool)
    (s : State) : Run State :=
  if reqs.isEmpty then .ok (advance s)
  else
    match readReady s reqs.length with
    | .error e => .error e
    | .ok _ =>
      match plan reqs s with
      | .error e => .error e
      | .ok (s, js) => .ok (pendLoad s (.vec d.toNat (accessSize s.w) (loadSigned s.w)) (pairRegs d (wideEt s)) js acquire)

/-! ### Load forms -/

/-- A load with a vector index (R299). -/
def gatherForm (d i : Byte) (h : BitVec 4) (w : BitVec 2) (g : BitVec 1) (sc : BitVec 3) (acquire : Bool) (s : State) :
    Host.Outcome State Fault Refusal :=
  issue { rap := .no, opds := [vdst d (wideEt s), .vsrc i (w = 3#2)], hreg := h } s fun s =>
    match readV s (w = 3#2) i with
    | .error e => .error e
    | .ok (s, x) => vectorLoad d (vectorOffsets s.w x (indexOffset w g sc 0)) (planLoad h (accessSize s.w)) acquire s

/-- LDV (R299): contiguous load. -/
def execLdv (d i : BitVec 8) (h : BitVec 4) (w : BitVec 2) (g : BitVec 1) (k : BitVec 3) (s : State) : Host.Outcome State Fault Refusal :=
  issue { rap := .no, opds := [vdst d (wideEt s), .ssrc i], hreg := h } s fun s =>
    match readS s i with
    | .error e => .error e
    | .ok (s, x) =>
      vectorLoad d (scalarOffsets s.w x (accessSize s.w) (indexOffset w g k)) (planLoad h (accessSize s.w)) false s

/-- GATHER (R299). -/
def execGather (d i : BitVec 8) (h : BitVec 4) (w : BitVec 2) (g : BitVec 1) (k : BitVec 3) (s : State) : Host.Outcome State Fault Refusal :=
  gatherForm d i h w g k false s

/-- LDA (R299, R124): a gather that is an acquire at MODE.DS. -/
def execLda (d i : BitVec 8) (h : BitVec 4) (w : BitVec 2) (g : BitVec 1) (k : BitVec 3) (s : State) : Host.Outcome State Fault Refusal :=
  gatherForm d i h w g k true s

/-- One lane of a load from the constant bank (R301). -/
def planConst (size : Nat) (s : State) (off : Int) : Run (State × LanePlan) :=
  if off < 0 || 0x100000 < off + size then .ok (s, .poison cHandleBounds 0x00 0#80 true)
  else
    let va := (s.b.cbank.toNat + off.toNat) % 2 ^ 80
    if va % size ≠ 0 then .ok (s, .poison cMisaligned 0x00 0#80 true)
    else
      match resolveVa s .load va with
      | .fault c d v => .ok (s, .poison c d v true)
      | .stall => park .splinter
      | .ok s p =>
        match throughMap s .load p with
        | .fault c d v => .ok (s, .poison c d v true)
        | .stall => park .splinter
        | .ok s p => readPlace s true p size

/-- LDC (R301). -/
def execLdc (d i : BitVec 8) (w : BitVec 2) (g : BitVec 1) (k : BitVec 3) (s : State) : Host.Outcome State Fault Refusal :=
  issue { rap := .no, opds := [vdst d (wideEt s), .vsrc i (w = 3#2)] } s fun s =>
    match readV s (w = 3#2) i with
    | .error e => .error e
    | .ok (s, x) => vectorLoad d (vectorOffsets s.w x (indexOffset w g k 0)) (planLanes (planConst (accessSize s.w))) false s

/-- SLD (R300): one access at lane number 0. -/
def execSld (d i : BitVec 8) (h : BitVec 4) (w : BitVec 2) (g : BitVec 1) (k : BitVec 3) (s : State) : Host.Outcome State Fault Refusal :=
  issue { rap := .yes, opds := [.sdst d, .ssrc i], hreg := h } s fun s => warpOnce s fun s =>
    match readS s i with
    | .error e => .error e
    | .ok (s, x) =>
      match loadReady s with
      | .error e => .error e
      | .ok _ =>
        match requestsFree s 1 with
        | .error e => .error e
        | .ok _ =>
        match planLoad h (accessSize s.w) [(0, if x.poison then .inl x.code else .inr (indexOffset w g k 0 x.val))] s with
        | .error e => .error e
        | .ok (s, js) => .ok (pendLoad s (.scalar d.toNat (accessSize s.w) (loadSigned s.w)) [] js false)

end Sys2Proof.Machine
end

