-- ==== Sys2Proof/Machine/Store.lean ====
section
/-!
DEFINITION. Stores (spec/12, R298 to R300): the checks made at issue and the entry of the store queue (spec/06, R120); the forms stv,
scatter, stl and sst.
-/
namespace Sys2Proof.Machine

/-! ### Lanes of a store at issue (R298) -/

/-- One lane of a store at issue: its lane number, its offset, and the bytes it writes. -/
structure StoreReq where
  lane : Nat
  off : Int
  data : DWord
  deriving DecidableEq, Repr

/-- A lane fault found at issue. -/
structure LaneFault where
  lane : Nat
  code : Byte
  detail : Byte
  va : VA
  deriving DecidableEq, Repr

/-- The lanes resolved one after another: the writes, and the faults found. -/
def resolveStores (n : BitVec 4) (a : Access) (size : Nat) : List StoreReq → State → Run (State × List LaneStore × List LaneFault)
  | [], s => .ok (s, [], [])
  | q :: t, s =>
    match resolveLane s n a q.off size with
    | .stall => park .splinter
    | .fault c d v =>
      (match resolveStores n a size t s with
      | .error e => .error e
      | .ok (s, ls, fs) => .ok (s, ls, ⟨q.lane, c, d, v⟩ :: fs))
    | .ok s p =>
      match resolveStores n a size t s with
      | .error e => .error e
      | .ok (s, ls, fs) => .ok (s, { lane := q.lane, place := p, size := size, data := q.data } :: ls, fs)

/-- The mask of lanes of a list. -/
def maskOf (ls : List Nat) : Mask := laneMask fun l => ls.contains l.val

/-- The precise fault of the lanes found faulty: the lowest lane's cause (R298, R378). -/
def laneTrap {α : Type} (n : BitVec 4) (fs : List LaneFault) (f : LaneFault) : Run α :=
  .error (.trap { code := f.code, detail := f.detail, mask := some (maskOf (fs.map (·.lane))), va := f.va, hreg := n })

/-- An entry joining the store queue (R120); the queue holds at most 256 entries (log entry 13), and its lanes are outstanding requests of the
core (R6). -/
def pushStore (s : State) (kind : StoreKind) (lanes : List LaneStore) (n : BitVec 4) (rel : Option (BitVec 3)) : Run State :=
  match (if 256 ≤ s.w.stores.length then park .storeQueue else requestsFree s lanes.length) with
  | .error e => .error e
  | .ok _ =>
    let f := stFlag s.w
    let sc := lanes.any fun l => !l.place.stash && l.place.attr = aSc
    .ok (advance { s with
      w := flagInc { s.w with stores := s.w.stores ++ [{ kind := kind, lanes := lanes, flag := f, pc := s.w.pc, hreg := n, sc := sc,
                                                           rel := rel, since := s.w.cyc.toNat, active := active s.w }] } f })

/-- A store whose operands are clean (R298): the instruction-wide checks, the lanes, the queue. -/
def storeLanes (n : BitVec 4) (size : Nat) (reqs : List StoreReq) (rel : Option (BitVec 3)) (s : State) : Run State :=
  match handleFault (handleAt s.w n) true true with
  | some (c, d) => .error (.trap { code := c, detail := d, hreg := n })
  | none =>
    if reqs.isEmpty then .ok (advance s)
    else
      match memReady s with
      | .error e => .error e
      | .ok _ =>
        match resolveStores n .store size reqs s with
        | .error e => .error e
        | .ok (_, _, f :: fs) => laneTrap n (f :: fs) f
        | .ok (s, ls, []) => pushStore s .store ls n rel

/-- The stored lanes of a register or pair at their offsets. -/
def storeReqs (w : Warp) (wide : Bool) (d : Byte) (off : Fin 64 → Int) : List StoreReq :=
  (laneList (active w)).map fun l => ⟨l.val, off l, (vecSrc w wide d.toNat l).val⟩

/-! ### Store forms -/

/-- A store with a vector index (R299). -/
def scatterForm (d i : Byte) (h : BitVec 4) (w : BitVec 2) (g : BitVec 1) (sc : BitVec 3) (rel : Option (BitVec 3)) (s : State) :
    Host.Outcome State Fault Refusal :=
  issue { rap := .no, opds := [vdst d (wideEt s), .vsrc i (w = 3#2)], hreg := h } s fun s =>
    match readV s (w = 3#2) i with
    | .error e => .error e
    | .ok (s, x) =>
      match consumeV (active s.w) x with
      | .error e => .error e
      | .ok _ =>
        match consumeV (active s.w) (vecSrc s.w (wideEt s) d.toNat) with
        | .error e => .error e
        | .ok _ => storeLanes h (accessSize s.w) (storeReqs s.w (wideEt s) d fun l => indexOffset w g sc 0 (x l).val) rel s

/-- STV (R299): contiguous store. -/
def execStv (d i : BitVec 8) (h : BitVec 4) (w : BitVec 2) (g : BitVec 1) (k : BitVec 3) (s : State) : Host.Outcome State Fault Refusal :=
  issue { rap := .no, opds := [vdst d (wideEt s), .ssrc i], hreg := h } s fun s =>
    match readS s i with
    | .error e => .error e
    | .ok (s, x) =>
      match (if active s.w = 0#64 then .ok () else consumeS x) with
      | .error e => .error e
      | .ok _ =>
        match consumeV (active s.w) (vecSrc s.w (wideEt s) d.toNat) with
        | .error e => .error e
        | .ok _ =>
          storeLanes h (accessSize s.w)
            (storeReqs s.w (wideEt s) d fun l => indexOffset w g k (l.val * accessSize s.w) x.val) none s

/-- SCATTER (R299). -/
def execScatter (d i : BitVec 8) (h : BitVec 4) (w : BitVec 2) (g : BitVec 1) (k : BitVec 3) (s : State) : Host.Outcome State Fault Refusal :=
  scatterForm d i h w g k none s

/-- STL (R299, R124): a scatter that is a release at MODE.DS. -/
def execStl (d i : BitVec 8) (h : BitVec 4) (w : BitVec 2) (g : BitVec 1) (k : BitVec 3) (s : State) : Host.Outcome State Fault Refusal :=
  scatterForm d i h w g k (some (modeDs s.w)) s

/-- SST (R300): one access at lane number 0. -/
def execSst (d i : BitVec 8) (h : BitVec 4) (w : BitVec 2) (g : BitVec 1) (k : BitVec 3) (s : State) : Host.Outcome State Fault Refusal :=
  issue { rap := .yes, opds := [.ssrc d, .ssrc i], hreg := h } s fun s =>
    if active s.w = 0#64 then storeLanes h (accessSize s.w) [] none s
    else
      match readS s i with
      | .error e => .error e
      | .ok (s, x) =>
        match consumeS x with
        | .error e => .error e
        | .ok _ =>
          match readS s d with
          | .error e => .error e
          | .ok (s, y) =>
            match consumeS y with
            | .error e => .error e
            | .ok _ => storeLanes h (accessSize s.w) [⟨0, indexOffset w g k 0 x.val, y.val⟩] none s

end Sys2Proof.Machine
end

