-- ==== Sys2Proof/Machine/TileData.lean ====
section
/-!
DEFINITION. Tiles named by coordinate (spec/02, R42 to R45) and the bytes they lie in: reads on the warp's path and on the engines' paths
(spec/06, R128, R139), dense elements in place, block-index entries and Attar streams (spec/04, R79, R80, R86), and the naming of
tile-table entries (spec/05, R104).
-/
namespace Sys2Proof.Machine

/-! ### Reading bytes -/

/-- Why bytes of a tile could not be read. -/
inductive ReadStop where
  | fault (code detail : Byte) (va : VA)
  | stream (f : StreamFault)
  | poisoned (code : Byte)
  | wait (p : Park)
  deriving DecidableEq, Repr

/-- A read that may stop. -/
abbrev Reading (α : Type) := Except ReadStop α

/-- Who reads: the warp, through its store queue and the core's copies, or an engine path of a compute die or of the hub (R128, R139).
`expired` says that a read parked on an unpublished line has reached the deferral limit (R138); `hreg` is the handle register of a warp's
access, whose window it may set again (R38). -/
structure Reader where
  warp : Bool
  hreg : Option (BitVec 4)
  cached : Bool
  die : Option Nat
  expired : Bool
  deriving DecidableEq, Repr

/-- The offsets and lengths of the parts of `[a, a + n)` between multiples of `unit`. -/
def chunks (unit a n : Nat) : List (Nat × Nat) :=
  if n = 0 then []
  else (List.range ((a + n - 1) / unit + 1 - a / unit)).map fun i =>
    let lo := max a (unit * (a / unit + i))
    let hi := min (a + n) (unit * (a / unit + i + 1))
    (lo - a, hi - lo)

/-- Bytes within one line read by an engine at their place (R139). -/
def engineRead (s : State) (die : Option Nat) (p : Place) (n : Nat) : State × List Byte :=
  if p.stash then (s, cellBytes s.b.stash p.off n)
  else if p.attr = aIp then (s, ipEngineRead s.m die (pooledAt s.fab p.pa) p.pa n)
  else
    let s := match die with
      | some d => if p.attr = aSc then { s with m := recallLine s.m (lineOf p.pa) } else shareLine s (40 * d) p.pa
      | none => { s with m := recallLine s.m (lineOf p.pa) }
    (s, homeRead s.m p.pa n)

/-- An admitted read within one line. -/
def readPiece (r : Reader) (s : State) (p : Place) (n : Nat) : Reading (State × List Byte) :=
  match readCheck s.m p with
  | some d => .error (.fault cAliasAttr d p.va)
  | none =>
    if homeStalls s.m p then .error (.wait .splinter)
    else
      match (if r.warp then forwarded s.w p n else .ok none) with
      | .error (.wait q) => .error (.wait q)
      | .error (.trap _) => .error (.wait .storeQueue)
      | .ok (some bs) => .ok (s, bs)
      | .ok none =>
        if unpublished s p then .error (if r.expired then .fault cWosTimeout 0x00 p.va else .wait .wos)
        else
          match (if !r.warp && r.die.isNone then .ok () else awaitLine s (if r.warp then s.w.core.toNat else 40 * r.die.getD 0) p false) with
          | .error (.wait q) => .error (.wait q)
          | .error (.trap _) => .error (.wait .splinter)
          | .ok _ => if r.warp then .ok (loadAt s s.w.core.toNat r.cached p n) else .ok (engineRead s r.die p n)

/-- The resolution of a byte of a handle's object (R36), its bounds being checked by the caller. -/
def resolveByte (s : State) (h : Handle) (a : Access) (off : Nat) : Resolved :=
  let va := (hBase h.entry + off) % 2 ^ 80
  if hSpace h.entry = 1 then (if refusedWrite h a then .fault cProtection 0x00 0#80 else resolveStash s a va)
  else
    match resolveVa s a va with
    | .ok s p => if refusedWrite h a then .fault cProtection 0x00 (BitVec.ofNat 80 va) else .ok s p
    | r => r

/-- Parts read one after another, each resolved by `f`. -/
def readParts (r : Reader) (f : State → Nat → Resolved) : List (Nat × Nat) → State → Reading (State × List Byte)
  | [], s => .ok (s, [])
  | (o, n) :: t, s =>
    match (match f s o with
      | .ok s p => if r.warp then throughMap s .load p else .ok s p
      | q => q) with
    | .fault c d v => .error (.fault c d v)
    | .stall => .error (.wait .splinter)
    | .ok s p =>
      match readPiece r s p n with
      | .error e => .error e
      | .ok (s, bs) =>
        match readParts r f t s with
        | .error e => .error e
        | .ok (s, rest) => .ok (s, bs ++ rest)

/-- The window of a handle register set again by an access to bytes of its object through the TLB (R38). -/
def rewindowOver (n : BitVec 4) (h : Handle) (off : Nat) (parts : List (Nat × Nat)) (s : State) : State :=
  if hSpace h.entry = 0 || hSpace h.entry = 2 then parts.foldl (fun s q => rewindow s n ((hBase h.entry + off + q.1) % 2 ^ 80)) s else s

/-- `n` bytes at an offset of a handle's object. -/
def readHandle (r : Reader) (h : Handle) (off n : Nat) (s : State) : Reading (State × List Byte) :=
  let parts := chunks 128 (hBase h.entry + off) n
  match readParts r (fun s o => resolveByte s h .load (off + o)) parts s with
  | .error e => .error e
  | .ok (s, bs) =>
    match r.hreg with
    | some k => .ok (rewindowOver k h off parts s, bs)
    | none => .ok (s, bs)

/-- `n` bytes at a VA. -/
def readBytesVa (r : Reader) (va n : Nat) (s : State) : Reading (State × List Byte) :=
  readParts r (fun s o => resolveVa s .load ((va + o) % 2 ^ 80)) (chunks 128 va n) s

/-! ### Coordinates (R42 to R45) -/

/-- The four coordinates of a pair (R236). -/
def coordsOf (lo hi : DWord) : List Nat := [bitsNat lo 0 32, bitsNat lo 32 32, bitsNat hi 0 32, bitsNat hi 32 32]

/-- A tile coordinate is valid (R42). -/
def coordValid (e : BitVec 512) (c : List Nat) : Bool :=
  (List.range 4).all fun i => if i ≤ hRank e then c.getD i 0 < hGrid e i else c.getD i 0 = 0

/-- The linear index of a tile (R42). -/
def tileIndex (e : BitVec 512) (c : List Nat) : Nat :=
  c.getD 0 0 + orOne (hGrid e 0) * (c.getD 1 0 + orOne (hGrid e 1) * (c.getD 2 0 + orOne (hGrid e 2) * c.getD 3 0))

/-- Coordinate `k` of element `i` within its tile (R70). -/
def elemCoord (e : BitVec 512) (i k : Nat) : Nat :=
  i / ((List.range k).foldl (fun n j => n * orOne (hTile e j)) 1) % orOne (hTile e k)

/-- The position of element `i` of a tile, `none` for an edge element (R44, R45). -/
def elemPos (e : BitVec 512) (c : List Nat) (i : Nat) : Option Nat :=
  let g := fun k => c.getD k 0 * orOne (hTile e k) + elemCoord e i k
  if (List.range 4).all fun k => g k < orOne (hDim e k) then
    some (g 0 + orOne (hDim e 0) * (g 1 + orOne (hDim e 1) * (g 2 + orOne (hDim e 2) * g 3)))
  else none

/-- The positions of a tile's elements. -/
def tilePositions (e : BitVec 512) (c : List Nat) : List (Option Nat) := (List.range (hElems e)).map (elemPos e c)

/-- The byte offset and length of the element at a position; two E2M1 elements share a byte (R44, R19). -/
def elemBytes (e : BitVec 512) (pos : Nat) : Nat × Nat :=
  let w := (hType e).width
  if w = 4 then (pos / 2, 1) else (pos * (w / 8), w / 8)

/-- The element's bits within its bytes. -/
def elemOf (e : BitVec 512) (pos : Nat) (bytes : List Byte) : Nat :=
  let v := natOfBytes bytes
  if (hType e).width = 4 then v / 16 ^ (pos % 2) % 16 else v

/-! ### Naming of tile-table entries (R104) -/

/-- The tiles that a reader names: it waits until each is READY; whether one is poisoned. -/
def nameTiles (s : State) (h : Handle) (off n : Nat) : Reading Bool :=
  if hSpace h.entry ≠ 1 || n = 0 then .ok false
  else
    let ts := tilesAt s s.b (hBase h.entry + off) n
    if ts.any fun t => tState t.2.2 ≠ 2 then .error (.wait .tile) else .ok (ts.any fun t => tPoison t.2.2)

/-- From the first byte of the non-edge elements of a tile to the last (R105): offset and length. -/
def denseSpan (e : BitVec 512) (ps : List (Option Nat)) : Nat × Nat :=
  let offs := (ps.filterMap id).map (elemBytes e)
  match offs with
  | [] => (0, 0)
  | o :: _ =>
    let lo := offs.foldl (fun m p => min m p.1) o.1
    let hi := offs.foldl (fun m p => max m (p.1 + p.2)) 0
    (lo, hi - lo)

/-! ### The elements of a tile -/

/-- Dense elements read in place one after another; an edge element is zero and is not read (R44, R45). -/
def denseElems (r : Reader) (h : Handle) : List (Option Nat) → State → Reading (State × List Nat)
  | [], s => .ok (s, [])
  | none :: t, s =>
    match denseElems r h t s with
    | .error e => .error e
    | .ok (s, vs) => .ok (s, 0 :: vs)
  | some p :: t, s =>
    let ob := elemBytes h.entry p
    if hLength h.entry < ob.1 + ob.2 then .error (.fault cHandleBounds 0x44 0#80)
    else
      match readHandle r h ob.1 ob.2 s with
      | .error e => .error e
      | .ok (s, bs) =>
        match denseElems r h t s with
        | .error e => .error e
        | .ok (s, vs) => .ok (s, elemOf h.entry p bs :: vs)

/-- The fields of a block-index entry (R79). -/
def bxPresent (x : DWord) : Bool := x.getLsbD 63
def bxPoison (x : DWord) : Bool := x.getLsbD 62
def bxRaw (x : DWord) : Bool := x.getLsbD 61
def bxLen (x : DWord) : Nat := bitsNat x 40 12
def bxOffset (x : DWord) : Nat := bitsNat x 0 40
/-- A malformed entry (R80, step 1). -/
def bxBad (x : DWord) : Bool := bitsNat x 52 9 ≠ 0 || (bxPresent x && bxLen x = 0)
/-- The VA of tile `n`'s entry (R43). -/
def bxVa (e : BitVec 512) (n : Nat) : Nat := (hBidx e + 8 * n) % 2 ^ 80

/-- Codes and scales of an Attar tile (R80, R86): `slots` are the captured code tables. -/
def attarTile (r : Reader) (h : Handle) (n : Nat) (s : State) : Reading (State × List Nat × List Byte) :=
  match readBytesVa r (bxVa h.entry n) 8 s with
  | .error e => .error e
  | .ok (s, bs) =>
    let x : DWord := BitVec.ofNat 64 (natOfBytes bs)
    let t := hType h.entry
    let k := hElems h.entry
    if bxBad x then .error (.stream (headerFault 0x01))
    else if bxPoison x then .error (.poisoned cTilePoison)
    else if !bxPresent x then .ok (s, List.replicate k 0, List.replicate (tileScales k) 0#8)
    else if hLength h.entry < 32 * (bxOffset x + bxLen x) then .error (.fault cHandleBounds 0x43 0#80)
    else
      match nameTiles s h (32 * bxOffset x) (32 * bxLen x) with
      | .error e => .error e
      | .ok true => .error (.poisoned cTilePoison)
      | .ok false =>
        match readHandle r h (32 * bxOffset x) (32 * bxLen x) s with
        | .error e => .error e
        | .ok (s, bytes) =>
          match decodeStream t k (hCtab h.entry) (bxRaw x) (fun i => s.x.tables.toList.getD i none) bytes with
          | .error f => .error (.stream f)
          | .ok (codes, scales) => .ok (s, codes, scales)

/-- The elements of the tile at valid coordinates (R304): element bit patterns or codes, edge elements zero, and the scale bytes of an Attar
tile. -/
def tileElems (r : Reader) (h : Handle) (c : List Nat) (s : State) : Reading (State × List Nat × List Byte) :=
  let ps := tilePositions h.entry c
  if hAttar h.entry then
    match attarTile r h (tileIndex h.entry c) s with
    | .error e => .error e
    | .ok (s, codes, scales) => .ok (s, (codes.zip ps).map fun q => if q.2.isSome then q.1 else 0, scales)
  else
    let span := denseSpan h.entry ps
    match nameTiles s h span.1 span.2 with
    | .error e => .error e
    | .ok true => .error (.poisoned cTilePoison)
    | .ok false =>
      match denseElems r h ps s with
      | .error e => .error e
      | .ok (s, vs) => .ok (s, vs, [])

/-- The FP32 pattern of a code under its scale, as vmxdq writes it (R287). -/
def dequant (t : Elem) (scale : Byte) (code : Nat) : Nat := Elem.f32.pattern ((codeValue t scale code).round .f32 .rne false)

/-! ### Bytes written by the warp (R298, R305) -/

/-- Bytes at an offset of a handle's object as lanes of the store queue, resolved at issue. -/
def storeParts (n : BitVec 4) (f : State → Nat → Resolved) (data : List Byte) : List (Nat × Nat) → State → Run (State × List LaneStore)
  | [], s => .ok (s, [])
  | (o, k) :: t, s =>
    match (match f s o with
      | .ok s p => throughMap s .store p
      | q => q) with
    | .stall => park .splinter
    | .fault c d v => .error (.trap { code := c, detail := d, va := v, hreg := n })
    | .ok s p =>
      match storeParts n f data t s with
      | .error e => .error e
      | .ok (s, ls) =>
        .ok (s, { lane := 64, place := p, size := k, data := BitVec.ofNat 64 (natOfBytes ((data.drop o).take k)) } :: ls)

/-- Bytes stored through a handle. -/
def storeHandle (n : BitVec 4) (h : Handle) (off : Nat) (data : List Byte) (s : State) : Run (State × List LaneStore) :=
  let parts := chunks 8 (hBase h.entry + off) data.length
  match storeParts n (fun s o => resolveByte s h .store (off + o)) data parts s with
  | .error e => .error e
  | .ok (s, ls) => .ok (rewindowOver n h off parts s, ls)

/-- Bytes stored at a VA. -/
def storeVa (n : BitVec 4) (va : Nat) (data : List Byte) (s : State) : Run (State × List LaneStore) :=
  storeParts n (fun s o => resolveVa s .store ((va + o) % 2 ^ 80)) data (chunks 8 va data.length) s

/-- The bytes of dense elements, each with its offset; two E2M1 elements of one byte go together (R44, R305). -/
def denseWrites (e : BitVec 512) (l : List (Option Nat × Nat)) : List (Nat × List Byte) :=
  if (hType e).width = 4 then
    (l.zip (l.drop 1)).zipIdx.filterMap fun q =>
      if q.2 % 2 = 0 then q.1.1.1.map fun p => ((elemBytes e p).1, [BitVec.ofNat 8 (q.1.1.2 % 16 + 16 * (q.1.2.2 % 16))]) else none
  else l.filterMap fun q => q.1.map fun p => ((elemBytes e p).1, bytesOfNat (elemBytes e p).2 q.2)

/-- Dense elements stored one after another; one that lies beyond LENGTH faults (R44, R306). -/
def storeDense (n : BitVec 4) (h : Handle) : List (Nat × List Byte) → State → Run (State × List LaneStore)
  | [], s => .ok (s, [])
  | (off, bs) :: t, s =>
    if hLength h.entry < off + bs.length then .error (.trap { code := cHandleBounds, detail := 0x44, hreg := n })
    else
      match storeHandle n h off bs s with
      | .error e => .error e
      | .ok (s, ls) =>
        match storeDense n h t s with
        | .error e => .error e
        | .ok (s, rest) => .ok (s, ls ++ rest)

/-- The new block-index entry of a stored tile (R85). -/
def bxStored (raw : Bool) (len offset : Nat) : DWord :=
  BitVec.ofNat 64 (atBit 63 1 + atBit 61 raw.toNat + atBit 40 len + offset)

end Sys2Proof.Machine
end

