-- ==== Sys2Proof/Machine/Board.lean ====
section
/-!
DEFINITION. The range-overlap scoreboard of a core (spec/05, R105, R106): the stash lines that engine commands and matrix instructions read
and write, numbered within the block's stash, and the order of issue.
-/
namespace Sys2Proof.Machine

/-- The lines of `n` bytes at a stash offset: first line and count. -/
def linesAt (off n : Nat) : List (Nat × Nat) := if n = 0 then [] else [(off / 128, (off + n - 1) / 128 + 1 - off / 128)]

/-- The stash lines of a tile operand (R105): those of its elements, or with ATTAR = 1 the handle's whole range. -/
def tileLines (h : Handle) (c : List Nat) : List (Nat × Nat) :=
  if hSpace h.entry ≠ 1 then []
  else if hAttar h.entry then linesAt (hBase h.entry) (hLength h.entry)
  else
    let span := denseSpan h.entry (tilePositions h.entry c)
    linesAt (hBase h.entry + span.1) span.2

/-- Two lists of line ranges share a line. -/
def linesMeet (a b : List (Nat × Nat)) : Bool := a.any fun x => b.any fun y => rangesMeet x.1 x.2 y.1 y.2

/-- An entry of a core's scoreboard: its place in the order of issue, its block, the lines it reads and writes. -/
structure BoardEntry where
  id : Nat
  bid : Nat
  reads : List (Nat × Nat)
  writes : List (Nat × Nat)
  deriving DecidableEq, Repr

/-- A tile function that its warp has left before it started, by a trap, holds no entry (R372). -/
def Cmd.left (s : State) (wid : Nat) (c : Cmd) : Bool :=
  0x50 ≤ c.func.toNat && !c.started && !((warpOf s wid).any fun w => w.pc = c.pc && w.status = .parked .scoreboard)

/-- The entries of a core: its warps' engine commands, and the matrix instructions with a stash operand that have not read it yet. -/
def boardOf (s : State) (core : BitVec 8) : List BoardEntry :=
  (s.cmds.filterMap fun c => match c.issuer with
    | .warp k => if c.core = core && !c.left s k then some ⟨c.id, c.bid, c.reads, c.writes⟩ else none
    | .node _ => none) ++
  ((allWarps s).filter fun w => w.core = core).filterMap fun w => w.matReq.bind fun q =>
    if q.reads.isEmpty then none else some ⟨q.id, w.bid, q.reads, []⟩

/-- A core's 64 entries are in use (R105). -/
def boardFull (s : State) (core : BitVec 8) : Bool := 64 ≤ (boardOf s core).length

/-- An earlier entry holds back an operation that reads and writes these lines (R106). -/
def boardHolds (s : State) (core : BitVec 8) (bid id : Nat) (reads writes : List (Nat × Nat)) : Bool :=
  (boardOf s core).any fun e => e.bid = bid && e.id < id && (linesMeet e.writes (reads ++ writes) || linesMeet e.reads writes)

/-- The next place in the order of issue. -/
def takeIssue (s : State) : State × Nat := ({ s with hub := { s.hub with nextCmd := s.hub.nextCmd + 1 } }, s.hub.nextCmd)

end Sys2Proof.Machine
end

