-- ==== Sys2Proof/Machine/Fence.lean ====
section
/-!
DEFINITION. Fences (spec/12, R317; spec/06, R123, R129) and the state they wait for. A store is performed at a scope once the bytes that the
slices forward have reached the core copies within it (R161); a fence waits for all such bytes, those of stores that the warp's loads have
returned among them (R123).
-/
namespace Sys2Proof.Machine

/-- The cores of a block's span. -/
def spanCore (b : Block) (core : Nat) : Bool := b.core.toNat ≤ core && core < b.core.toNat + b.span.toNat

/-- Every store that has left a queue is performed at a scope: no bytes are on their way to a core copy within it (R117, R161). -/
def forwardsDone (s : State) (scope : BitVec 3) : Bool :=
  if scope = 0#3 then true
  else if scope = 1#3 then !forwardingTo s.m (spanCore s.b)
  else !forwardingTo s.m fun _ => true

/-- Every earlier store has left the queue and is performed at the scope, with those that earlier loads returned; every earlier load is
performed; and at gang and system scope every earlier remote access is acknowledged (R123, R148). -/
def drained (s : State) (scope : BitVec 3) : Bool :=
  s.w.stores.isEmpty && !(s.w.loads.any PendLoad.waits) && forwardsDone s scope && (scope.toNat < 3 || s.w.remotes.isEmpty)

/-- The three conditions of R123 for an access issued at a clock of the warp: its earlier stores have left the queue and are performed at the
scope, its earlier loads performed, and at gang or system scope its earlier remote accesses acknowledged. -/
def earlierDone (s : State) (t : Nat) (scope : BitVec 3) : Bool :=
  !(s.w.stores.any fun e => e.since < t) && !(s.w.loads.any fun l => l.since < t && l.waits) && forwardsDone s scope
    && (scope.toNat < 3 || !(s.w.remotes.any fun r => r.since < t))

/-- The wait of a fence or of a release performed at issue. -/
def awaitDrained (s : State) (scope : BitVec 3) : Run Unit :=
  if s.w.stores ≠ [] then park .storeQueue else if drained s scope then .ok () else park .fence

/-- A scope as the warp's block sees it: gang outside a gang is device (R21). -/
def scopeIn (b : Block) (scope : BitVec 3) : BitVec 3 := if scope = 3#3 && b.gcount = 0#9 then 2#3 else scope

/-- A fence at a scope (R123, R317). -/
def fenceAt (scope : BitVec 3) (s : State) : Host.Outcome State Fault Refusal :=
  issueSilent s fun s =>
    match awaitDrained s (scopeIn s.b scope) with
    | .error e => .error e
    | .ok _ => .ok (advance s)

/-- FENCE.WARP (R317): waits for the store queue to empty. -/
def execFenceWarp (s : State) : Host.Outcome State Fault Refusal :=
  issueSilent s fun s => if s.w.stores ≠ [] then park .storeQueue else .ok (advance s)
/-- FENCE.BLK (R317). -/
def execFenceBlk (s : State) : Host.Outcome State Fault Refusal := fenceAt 1#3 s
/-- FENCE.DEV (R317). -/
def execFenceDev (s : State) : Host.Outcome State Fault Refusal := fenceAt 2#3 s
/-- FENCE.GANG (R317). -/
def execFenceGang (s : State) : Host.Outcome State Fault Refusal := fenceAt 3#3 s
/-- FENCE.SYS (R317). -/
def execFenceSys (s : State) : Host.Outcome State Fault Refusal := fenceAt 4#3 s
/-- FENCE.XP (R129, R317). Toward the warp: bytes that engines have written reach the core's copies before a later load. Toward engines:
`xp` holds their later commands, and matrix instructions, until the warp's earlier accesses are performed (`xpReady`); its own later loads and
stores are not held for that. In the run-ahead processor it acts as FENCE.WARP. -/
def execFenceXp (s : State) : Host.Outcome State Fault Refusal :=
  if s.w.rap then execFenceWarp s
  else issueSilent s fun s =>
    if forwardingTo s.m fun c => c = s.w.core.toNat then park .fence
    else .ok (advance { s with w := { s.w with xp := if drained s 2#3 then none else some s.w.cyc.toNat } })

/-- An engine command or a matrix instruction issued at a clock is held behind a FENCE.XP of the warp: an access before that is not performed
(R129). -/
def xpHolds (s : State) (since : Nat) : Bool :=
  match s.w.xp with
  | none => false
  | some t => t < since && !earlierDone s t 2#3

/-- A matrix instruction behind a FENCE.XP waits for the accesses before that. -/
def xpReady (s : State) : Run Unit :=
  if xpHolds s s.w.cyc.toNat then (if s.w.stores ≠ [] then park .storeQueue else park .fence) else .ok ()

end Sys2Proof.Machine
end

