-- ==== Sys2Proof/Machine/Atomic.lean ====
section
/-!
DEFINITION. Atomics and reductions (spec/12, R318 to R322): the operand classes, the indivisible read-and-write of a lane, the returning
forms, and the reductions that enter the store queue.
-/
namespace Sys2Proof.Machine

/-- The operand class of R318: the arithmetic operations take three types at each width. -/
def atomType (op : BitVec 3) (wide : Bool) (t : Elem) : Bool :=
  if 3 ≤ op.toNat then true
  else if wide then t = .n64 || t = .s64 || t = .f64 else t = .n32 || t = .s32 || t = .f32

/-- Whether a read-and-write may be made on the page of a place (R136, R142): the detail of ILLEGAL_ATOMIC. -/
def atomPage (p : Place) : Option Byte := if p.attr = aIp then some 0x01 else if !p.stash && p.attr = aWos then some 0x02 else none

/-- One indivisible read-and-write at its place (R319, R320): the state after and the old value; `f` answers the new value, `none` when
nothing is written. -/
def readWrite (s : State) (core : Nat) (p : Place) (size : Nat) (f : Nat → Option Nat) : State × Nat :=
  let t := if p.stash || p.attr = aSc then s else ownLine s core p.pa
  let r := loadAt t core true p size
  let old := natOfBytes r.2
  match f old with
  | some new => (wakeBarriers r.1.b (storeAt r.1 core p (bytesOfNat size new)), old)
  | none => (r.1, old)

/-- The new value of an atomic (R319); a compare-and-swap writes only when equal. -/
def atomNew (op : BitVec 3) (t : Elem) (size x y : Nat) (old : Nat) : Option Nat :=
  if op = 7#3 && old ≠ x then none else some (atomValue op t (8 * size) old x y)

/-- One lane's atomic performed at its home: its answer, the new state; `none` while it must wait there (R62, R63, R162, R319). -/
def performAtom (s : State) (a : AtomJob) : State × Option LanePlan :=
  match homeCheck s.m a.place with
  | some d => (s, some (.poison cAliasAttr d a.place.va true))
  | none =>
    if homeStalls s.m a.place then (s, none)
    else if !(a.place.stash || lineHeld s s.w.core.toNat a.place.pa true) then
      ({ s with m := wantLine s.m (agentOf s s.w.core.toNat) (lineOf a.place.pa) .m }, none)
    else
      let r := readWrite s s.w.core.toNat a.place a.size (atomNew a.op (Elem.ofCode a.type) a.size a.x.toNat a.y.toNat)
      (r.1, some (.value (BitVec.ofNat 64 r.2)))

/-- The atomics of a list of lanes performed in ascending lane order, those that can be (R319). -/
def performAtoms : List LaneJob → State → State × List LaneJob
  | [], s => (s, [])
  | j :: t, s =>
    let r : State × LaneJob := match j.plan with
      | .atom a => let q := performAtom s a; (q.1, { j with plan := q.2.getD j.plan })
      | _ => (s, j)
    let rest := performAtoms t r.1
    (rest.1, r.2 :: rest.2)

/-- The atomics that can be performed, as one store (R161). -/
def performStep (jobs : List LaneJob) (s : State) : State × List LaneJob :=
  let r := performAtoms jobs s
  ({ r.1 with m := nextStore r.1.m }, r.2)

/-- One lane of a returning atomic at issue (R319 to R321): its faults, or the access to be performed. -/
def atomLane (n : BitVec 4) (op : BitVec 3) (size : Nat) (x y : DWord) (off : Int) (s : State) : Run (State × LanePlan) :=
  match resolveLane s n .atomic off size with
  | .fault c d v => .ok (s, .poison c d v true)
  | .stall => park .splinter
  | .ok s p =>
    match atomPage p with
    | some d => .ok (s, .poison cIllegalAtomic d p.va true)
    | none => .ok (s, .atom { place := p, op := op, type := s.w.mode.extractLsb' 5 4, size := size, x := x, y := y })

/-- The lanes in ascending order (R319). -/
def atomLanes (n : BitVec 4) (op : BitVec 3) (size : Nat) : List (Nat × Int × DWord × DWord) → State → Run (State × List LaneJob)
  | [], s => .ok (s, [])
  | (l, o, x, y) :: t, s =>
    match atomLane n op size x y o s with
    | .error e => .error e
    | .ok (s, p) =>
      match atomLanes n op size t s with
      | .error e => .error e
      | .ok (s, js) => .ok (s, ⟨l, p⟩ :: js)

/-- The ATOM byte offset of a lane (R237). -/
def atomOffset (wide : Bool) (x : DWord) : Int := ((x.toNat % 2 ^ 32 * (if wide then 8 else 4) : Nat) : Int)

/-- Bytes of an atomic operand. -/
def atomSize (wide : Bool) : Nat := if wide then 8 else 4

/-- The vector registers that d names: one, a pair, and for cas the new value's after them (R246). -/
def atomOpd (op : BitVec 3) (wide : Bool) (d : Byte) : Opd :=
  let n := (if wide then 2 else 1) * (if op = 7#3 then 2 else 1)
  .vreg d n n

/-- The lanes of a returning atomic; an instruction-wide fault poisons them all (R24, R321). -/
def atomPlan (n : BitVec 4) (op : BitVec 3) (size : Nat) (reqs : List (Nat × Int × DWord × DWord)) (s : State) :
    Run (State × List LaneJob) :=
  match handleFault (handleAt s.w n) true true with
  | some (c, d) => .ok (s, poisonLanes c d (reqs.map fun q => (q.1, .inr q.2.1)))
  | none => atomLanes n op size reqs s

/-- The earlier accesses that an atomic follows have been made: the warp's earlier stores have left the queue (R121), and before a release
its earlier accesses are performed at the scope (R123, R124). -/
def atomReady (s : State) (p : PendLoad) : Bool :=
  !(s.w.stores.any fun e => e.since < p.since) && !(s.w.loads.any fun l => l.since < p.since && l.atomOn fun _ => true) &&
    match p.rel with
    | none => true
    | some sc => earlierDone s p.since sc

/-- An atomic issued: performed at once where nothing earlier holds it, else kept with its lanes (R121, R124). -/
def issueAtomic (s : State) (kind : PendKind) (regs : List Nat) (jobs : List LaneJob) (acquire : Bool) (rel : Option (BitVec 3))
    (n : BitVec 4) : State :=
  let now := atomReady s { kind := kind, jobs := jobs, regs := regs, flag := none, pc := s.w.pc, since := s.w.cyc.toNat,
                           acquire := acquire, rel := rel, hreg := n }
  let r := if now then performStep jobs s else (s, jobs)
  pendAtomic r.1 kind regs r.2 acquire rel n

/-- A returning atomic (R318 to R322): it follows the warp's earlier stores (R121), and a release its earlier accesses (R124), but the warp
goes on. -/
def atomForm (op : BitVec 3) (d i : Byte) (h : BitVec 4) (w : BitVec 1) (r : BitVec 2) (s : State) : Host.Outcome State Fault Refusal :=
  let wide := w = 1#1
  issue { rap := .no, opds := [atomOpd op wide d, .vsrc i false], hreg := h } s fun s =>
    if !atomType op wide (modeEt s.w) then trap cIllegalInstruction 0x75
    else
      match readV s false i with
      | .error e => .error e
      | .ok (s, ix) =>
        let x := vecSrc s.w wide d.toNat
        let y : Src := if op = 7#3 then vecSrc s.w wide (d.toNat + (if wide then 2 else 1)) else fun _ => Scalar.zero
        match consumeV (active s.w) ix with
        | .error e => .error e
        | .ok _ =>
          match consumeV (active s.w) x with
          | .error e => .error e
          | .ok _ =>
            match consumeV (active s.w) y with
            | .error e => .error e
            | .ok _ =>
              if active s.w = 0#64 then .ok (advance s)
              else
                match loadReady s with
                | .error e => .error e
                | .ok _ =>
                  let reqs := (laneList (active s.w)).map fun l => (l.val, atomOffset wide (ix l).val, (x l).val, (y l).val)
                  match requestsFree s reqs.length with
                  | .error e => .error e
                  | .ok _ =>
                    match atomPlan h op (atomSize wide) reqs s with
                    | .error e => .error e
                    | .ok (s, js) =>
                      .ok (issueAtomic s (.vec d.toNat (atomSize wide) false) (pairRegs d wide) js (r.getLsbD 0)
                        (if r.getLsbD 1 then some (scopeIn s.b (modeDs s.w)) else none) h)

/-- A non-returning reduction (R318 to R322): checked at issue, then an entry of the store queue. -/
def redForm (op : BitVec 3) (d i : Byte) (h : BitVec 4) (w : BitVec 1) (r : BitVec 2) (s : State) : Host.Outcome State Fault Refusal :=
  let wide := w = 1#1
  issue { rap := .no, opds := [vdst d wide, .vsrc i false], hreg := h } s fun s =>
    if !atomType op wide (modeEt s.w) then trap cIllegalInstruction 0x75
    else
      match readV s false i with
      | .error e => .error e
      | .ok (s, ix) =>
        match consumeV (active s.w) ix with
        | .error e => .error e
        | .ok _ =>
          match consumeV (active s.w) (vecSrc s.w wide d.toNat) with
          | .error e => .error e
          | .ok _ =>
            match handleFault (handleAt s.w h) true true with
            | some (c, dt) => .error (.trap { code := c, detail := dt, hreg := h })
            | none =>
              if active s.w = 0#64 then .ok (advance s)
              else
                match memReady s with
                | .error e => .error e
                | .ok _ =>
                  match resolveStores h .reduce (atomSize wide) (storeReqs s.w wide d fun l => atomOffset wide (ix l).val) s with
                  | .error e => .error e
                  | .ok (t, ls, fs) =>
                    let bad := ls.filterMap fun q => (atomPage q.place).map fun dt => (⟨q.lane, cIllegalAtomic, dt, q.place.va⟩ : LaneFault)
                    let all := (fs ++ bad).mergeSort fun a b => a.lane ≤ b.lane
                    match all with
                    | f :: _ => laneTrap h all f
                    | [] =>
                      pushStore t (.red op wide (t.w.mode.extractLsb' 5 4)) ls h
                        (if r.getLsbD 1 then some (scopeIn t.b (modeDs t.w)) else none)

/-- ATOM.ADD (R319). -/
def execAtomAdd (d i : BitVec 8) (h : BitVec 4) (w : BitVec 1) (r : BitVec 2) (s : State) : Host.Outcome State Fault Refusal := atomForm 0#3 d i h w r s
/-- ATOM.MIN (R319). -/
def execAtomMin (d i : BitVec 8) (h : BitVec 4) (w : BitVec 1) (r : BitVec 2) (s : State) : Host.Outcome State Fault Refusal := atomForm 1#3 d i h w r s
/-- ATOM.MAX (R319). -/
def execAtomMax (d i : BitVec 8) (h : BitVec 4) (w : BitVec 1) (r : BitVec 2) (s : State) : Host.Outcome State Fault Refusal := atomForm 2#3 d i h w r s
/-- ATOM.AND (R319). -/
def execAtomAnd (d i : BitVec 8) (h : BitVec 4) (w : BitVec 1) (r : BitVec 2) (s : State) : Host.Outcome State Fault Refusal := atomForm 3#3 d i h w r s
/-- ATOM.OR (R319). -/
def execAtomOr (d i : BitVec 8) (h : BitVec 4) (w : BitVec 1) (r : BitVec 2) (s : State) : Host.Outcome State Fault Refusal := atomForm 4#3 d i h w r s
/-- ATOM.XOR (R319). -/
def execAtomXor (d i : BitVec 8) (h : BitVec 4) (w : BitVec 1) (r : BitVec 2) (s : State) : Host.Outcome State Fault Refusal := atomForm 5#3 d i h w r s
/-- ATOM.XCHG (R319). -/
def execAtomXchg (d i : BitVec 8) (h : BitVec 4) (w : BitVec 1) (r : BitVec 2) (s : State) : Host.Outcome State Fault Refusal := atomForm 6#3 d i h w r s
/-- ATOM.CAS (R319, R246). -/
def execAtomCas (d i : BitVec 8) (h : BitVec 4) (w : BitVec 1) (r : BitVec 2) (s : State) : Host.Outcome State Fault Refusal := atomForm 7#3 d i h w r s
/-- RED.ADD (R319). -/
def execRedAdd (d i : BitVec 8) (h : BitVec 4) (w : BitVec 1) (r : BitVec 2) (s : State) : Host.Outcome State Fault Refusal := redForm 0#3 d i h w r s
/-- RED.MIN (R319). -/
def execRedMin (d i : BitVec 8) (h : BitVec 4) (w : BitVec 1) (r : BitVec 2) (s : State) : Host.Outcome State Fault Refusal := redForm 1#3 d i h w r s
/-- RED.MAX (R319). -/
def execRedMax (d i : BitVec 8) (h : BitVec 4) (w : BitVec 1) (r : BitVec 2) (s : State) : Host.Outcome State Fault Refusal := redForm 2#3 d i h w r s
/-- RED.AND (R319). -/
def execRedAnd (d i : BitVec 8) (h : BitVec 4) (w : BitVec 1) (r : BitVec 2) (s : State) : Host.Outcome State Fault Refusal := redForm 3#3 d i h w r s
/-- RED.OR (R319). -/
def execRedOr (d i : BitVec 8) (h : BitVec 4) (w : BitVec 1) (r : BitVec 2) (s : State) : Host.Outcome State Fault Refusal := redForm 4#3 d i h w r s
/-- RED.XOR (R319). -/
def execRedXor (d i : BitVec 8) (h : BitVec 4) (w : BitVec 1) (r : BitVec 2) (s : State) : Host.Outcome State Fault Refusal := redForm 5#3 d i h w r s

end Sys2Proof.Machine
end

