-- ==== Sys2Proof/Machine/MemCtl.lean ====
section
/-!
DEFINITION. Prefetch, write-back, publication and stash maps (spec/12, R310 to R316; spec/05, R97 to R99; spec/06, R137, R141).
-/
namespace Sys2Proof.Machine

/-! ### Ranges (R310) -/

/-- The first bytes of the lines that overlap `n` bytes at a VA. -/
def lineVas (va n : Nat) : List Nat :=
  if n = 0 then [] else (List.range ((va + n - 1) / 128 + 1 - va / 128)).map fun i => 128 * (va / 128 + i) % 2 ^ 80

/-- The two scalar operands of a MEMCTL form, the offset first; a poisoned one traps (R66). -/
def memctlOperands (s : State) (d a : Byte) : Run (State × Nat × Nat) :=
  match readS s d with
  | .error e => .error e
  | .ok (s, x) =>
    match consumeS x with
    | .error e => .error e
    | .ok _ =>
      match readS s a with
      | .error e => .error e
      | .ok (s, y) =>
        match consumeS y with
        | .error e => .error e
        | .ok _ => .ok (s, x.val.toNat, y.val.toNat)

/-- The precise range check of R310: the VA of the range. -/
def rangeCheck (s : State) (n : BitVec 4) (o len : Nat) : Run Nat :=
  let h := handleAt s.w n
  if !h.bound then .error (.trap { code := cHandleBounds, detail := 0x00, hreg := n })
  else if hSpace h.entry ≠ 0 then .error (.trap { code := cProtection, detail := 0x00, hreg := n })
  else if hLength h.entry < o + len then .error (.trap { code := cHandleBounds, detail := 0x10, hreg := n })
  else .ok ((hBase h.entry + o) % 2 ^ 80)

/-! ### PREF (R311) -/

/-- One line of global or constant space brought near: an RC or published WOS line becomes a shared copy of the die, an IP line fills the
die's copy and, under POLICY, the core's; a line that cannot be read is skipped. -/
def prefLine (cached : Bool) (s : State) (va : Nat) : State :=
  match resolveVa s .load va with
  | .ok t p =>
    if (homeCheck t.m p).isSome || homeStalls t.m p || unpublished t p || p.attr = aSc then s
    else if p.attr = aIp then { t with m := (ipLoad t.m t.w.core.toNat cached (pooledAt t.fab p.pa) p.pa 1).1 }
    else if !lineHeld t t.w.core.toNat p.pa false then { t with m := wantLine t.m (agentOf t t.w.core.toNat) (lineOf p.pa) .s }
    else
      let t := shareLine t t.w.core.toNat p.pa
      if cached && copyable t p.attr p.pa then { t with m := copyFill t.m t.w.core.toNat (lineOf p.pa) } else t
  | _ => s

/-- One stash line: a mapped line not yet filled is filled as at first touch (R98). -/
def prefStash (s : State) (line : Nat) : State :=
  if (smapOf s.b line).isNone then s
  else match resolveStash s .load (128 * line) with
    | .ok t _ => t
    | _ => s

/-- PREF (R310, R311): no access, no fault. -/
def execPref (d a : BitVec 8) (h : BitVec 4) (s : State) : Host.Outcome State Fault Refusal :=
  issue { rap := .yes, opds := [.ssrc d, .ssrc a], hreg := h } s fun s => warpOnce s fun s =>
    match memctlOperands s d a with
    | .error e => .error e
    | .ok (s, o, n) =>
      let b := handleAt s.w h
      let va := hBase b.entry + o
      if !b.bound then .ok (advance s)
      else if hSpace b.entry = 0 || hSpace b.entry = 2 then .ok (advance ((lineVas va n).foldl (prefLine b.cached) s))
      else if hSpace b.entry = 1 then
        .ok (advance (((List.range (stashRange s.b / 128)).filter fun l => rangesMeet (128 * l) 128 va n).foldl prefStash s))
      else .ok (advance s)

/-! ### FLUSH, INVAL, PUB (R312, R313) -/

/-- The leaf of a VA, whatever its permissions: a page without a valid leaf gives none; a page being split waits. -/
def leafOf (s : State) (va : Nat) : Run (State × Option Leaf) :=
  match xlate s.m s.x.num (ctxRoot s.x) va false with
  | (m, .leaf l) => .ok ({ s with m := m }, some l)
  | (_, .stall) => park .splinter
  | (_, .fault _) => .ok (s, none)

/-- The lines of a range whose page has a valid leaf, as store-queue lanes (R312). -/
def mappedLines : List Nat → State → Run (State × List LaneStore)
  | [], s => .ok (s, [])
  | va :: t, s =>
    match leafOf s va with
    | .error e => .error e
    | .ok (s, l) =>
      match mappedLines t s with
      | .error e => .error e
      | .ok (s, ls) => .ok (s, (l.map fun l => ({ lane := 64, place := leafPlace l va, size := 128, data := 0#64 } : LaneStore)).toList ++ ls)

/-- FLUSH and INVAL: an entry of the store queue for the lines of the range on IP pages (R141). -/
def rangeForm (kind : StoreKind) (d a : Byte) (h : BitVec 4) (s : State) : Host.Outcome State Fault Refusal :=
  issue { rap := .no, opds := [.ssrc d, .ssrc a], hreg := h } s fun s =>
    match memctlOperands s d a with
    | .error e => .error e
    | .ok (s, o, n) =>
      match rangeCheck s h o n with
      | .error e => .error e
      | .ok va =>
        if n = 0 then .ok (advance s)
        else warpOnce s fun s =>
          match memReady s with
          | .error e => .error e
          | .ok _ =>
            match mappedLines (lineVas va n) s with
            | .error e => .error e
            | .ok (s, ls) => pushStore s kind (ls.filter fun l => l.place.attr = aIp) h none

/-- FLUSH (R312). -/
def execFlush (d a : BitVec 8) (h : BitVec 4) (s : State) : Host.Outcome State Fault Refusal := rangeForm .flush d a h s
/-- INVAL (R312). -/
def execInval (d a : BitVec 8) (h : BitVec 4) (s : State) : Host.Outcome State Fault Refusal := rangeForm .inval d a h s

/-- The WOS lines of a range to publish; a page without a valid leaf, or a WOS page without W, faults (R313). -/
def publishLines (n : BitVec 4) : List Nat → State → Run (State × List LaneStore)
  | [], s => .ok (s, [])
  | va :: t, s =>
    match xlate s.m s.x.num (ctxRoot s.x) va false with
    | (_, .fault d) => .error (.trap { code := cPageFault, detail := d, va := BitVec.ofNat 80 va, hreg := n })
    | (_, .stall) => park .splinter
    | (m, .leaf l) =>
      if pteAttr l.entry = aWos && !pteW l.entry then
        .error (.trap { code := cProtection, detail := 0x02, va := BitVec.ofNat 80 va, hreg := n })
      else
        match publishLines n t { s with m := m } with
        | .error e => .error e
        | .ok (s, ls) =>
          .ok (s, if pteAttr l.entry = aWos then { lane := 64, place := leafPlace l va, size := 128, data := 0#64 } :: ls else ls)

/-- PUB (R313, R137): a release at system scope that publishes the WOS lines of the range. -/
def execPub (d a : BitVec 8) (h : BitVec 4) (s : State) : Host.Outcome State Fault Refusal :=
  issue { rap := .no, opds := [.ssrc d, .ssrc a], hreg := h } s fun s =>
    match memctlOperands s d a with
    | .error e => .error e
    | .ok (s, o, n) =>
      match rangeCheck s h o n with
      | .error e => .error e
      | .ok va =>
        if n = 0 then .ok (advance s)
        else warpOnce s fun s =>
          match memReady s with
          | .error e => .error e
          | .ok _ =>
            match publishLines h (lineVas va n) s with
            | .error e => .error e
            | .ok (s, ls) => pushStore s .pub ls h (some 4#3)

/-! ### Stash maps (R314 to R316) -/

/-- The write-back of a mapped IP line must wait: its page is being splintered, or its frame's attribute changed (R47, R63). -/
def mappedStalls (s : State) (q : MappedLine) : Bool :=
  q.ip && q.dirty ≠ 0#128 &&
    match smapOf s.b q.line with
    | none => false
    | some e =>
      match resolveVa s .store (smapVa e (128 * q.line)) with
      | .stall => true
      | .ok t p => homeStalls t.m p
      | .fault .. => false

/-- The written bytes of a mapped IP line returned to their home (R99); a refused write-back is an imprecise fault at the block. Its callers
wait while `mappedStalls`. -/
def writeBackMapped (s : State) (q : MappedLine) : State :=
  if !q.ip || q.dirty = 0#128 then s
  else
    match smapOf s.b q.line with
    | none => s
    | some e =>
      let va := smapVa e (128 * q.line)
      match resolveVa s .store va with
      | .fault c d v => raiseBlock s c d v
      | .stall => s
      | .ok s p =>
        match homeCheck s.m p with
        | some d => raiseBlock s cAliasAttr d p.va
        | none =>
          { s with m := writeBack s.m (lineOf p.pa) (BitVec.ofNat 1024 (cellNat s.b.stash (128 * q.line) 128)) q.dirty
                                  (if s.b.prot = 1#2 then q.dirty else 0#128) }

/-- The stash lines of a map entry. -/
def smapLines (e : BitVec 128) : List Nat := (List.range (bitsNat e 104 11 + 1)).map (bitsNat e 89 15 + ·)

/-- Lines of the block's stash made to read as zero, those too that stand in the image (R101). -/
def clearStash (b : Block) (lines : List Nat) : Block :=
  { b with stash := b.stash.filter fun c => !lines.contains (c.1 / 128), mapped := b.mapped.filter (fun q => !lines.contains q.line),
           awayLines := b.awayLines.filter fun e => !lines.contains e.1 }

/-- The removal of a map entry waits for a write-back that must wait (R99). -/
def removalReady (s : State) (k : Fin 16) : Run Unit :=
  let e := s.b.smap[k]
  if e.getLsbD 127 && s.b.mapped.any fun q => (smapLines e).contains q.line && mappedStalls s q then park .splinter else .ok ()

/-- A stash map entry removed (R315): its dirty IP lines are written back, its lines then read as zero. -/
def removeMap (s : State) (k : Fin 16) : State :=
  let e := s.b.smap[k]
  if !e.getLsbD 127 then s
  else
    let lines := smapLines e
    let s := (s.b.mapped.filter fun q => lines.contains q.line).foldl writeBackMapped s
    { s with b := { clearStash s.b lines with smap := s.b.smap.set k 0#128 } }

/-- The checks of a map descriptor (R314): code and detail. -/
def smapFault (b : Block) (h : Handle) (o : Nat) (m : DWord) : Option (Byte × Byte) :=
  let lines := bitsNat m 31 11 + 1
  let first := bitsNat m 16 15
  if bitsNat m 42 22 ≠ 0 || bitsNat m 4 12 ≠ 0 then some (cIllegalInstruction, 0x72)
  else if (hBase h.entry + o) % 128 ≠ 0 then some (cMisaligned, 0x00)
  else if hLength h.entry < o + 128 * lines then some (cHandleBounds, 0x30)
  else if stashRange b < 128 * (first + lines) || 128 * first / b.portion ≠ (128 * (first + lines) - 1) / b.portion
    then some (cHandleBounds, 0x31)
  else if b.smap.toList.zipIdx.any fun e =>
      e.2 ≠ bitsNat m 0 4 && e.1.getLsbD 127 && rangesMeet (bitsNat e.1 89 15) (bitsNat e.1 104 11 + 1) first lines
    then some (cHandleBounds, 0x32)
  else none

/-- The entry of a map (R97). -/
def smapEntry (va : Nat) (m : DWord) : BitVec 128 :=
  BitVec.ofNat 128 (atBit 127 1 + atBit 104 (bitsNat m 31 11) + atBit 89 (bitsNat m 16 15) + va % 2 ^ 80)

/-- SMAP (R314, R316). -/
def execSmap (d a : BitVec 8) (h : BitVec 4) (s : State) : Host.Outcome State Fault Refusal :=
  issue { rap := .no, opds := [.ssrc d, .ssrc a], hreg := h } s fun s =>
    match memctlOperands s d a with
    | .error e => .error e
    | .ok (s, o, m) =>
      let b := handleAt s.w h
      if !b.bound then .error (.trap { code := cHandleBounds, detail := 0x00, hreg := h })
      else if hSpace b.entry ≠ 0 || hAttar b.entry then .error (.trap { code := cProtection, detail := 0x00, hreg := h })
      else
        let m := BitVec.ofNat 64 m
        match smapFault s.b b o m with
        | some (c, dt) => .error (.trap { code := c, detail := dt, hreg := h })
        | none => warpOnce s fun s =>
          match awaitDrained s 1#3 with
          | .error e => .error e
          | .ok _ =>
            match removalReady s (m.extractLsb' 0 4).toFin with
            | .error e => .error e
            | .ok _ =>
            let e := smapEntry (hBase b.entry + o) m
            let s := removeMap s (m.extractLsb' 0 4).toFin
            let blk := clearStash s.b (smapLines e)
            .ok (advance { s with b := { blk with smap := blk.smap.set (m.extractLsb' 0 4).toNat e } })

/-- SUNMAP (R315, R316). -/
def execSunmap (a : BitVec 8) (s : State) : Host.Outcome State Fault Refusal :=
  issue { rap := .no, opds := [.ssrc a] } s fun s =>
    match readS s a with
    | .error e => .error e
    | .ok (s, x) =>
      match consumeS x with
      | .error e => .error e
      | .ok _ =>
        if bitsNat x.val 4 60 ≠ 0 then trap cIllegalInstruction 0x72
        else warpOnce s fun s =>
          match awaitDrained s 1#3 with
          | .error e => .error e
          | .ok _ =>
          match removalReady s (x.val.extractLsb' 0 4).toFin with
          | .error e => .error e
          | .ok _ => .ok (advance (removeMap s (x.val.extractLsb' 0 4).toFin))

end Sys2Proof.Machine
end

