-- ==== Sys2Proof/Machine/Perform.lean ====
section
/-!
DEFINITION. Accesses in flight: a pending load written to its destination (spec/08, R188; spec/03, R64, R67), the entry at the head of a
store queue performed at its homes (spec/06, R120, R124, R137, R141), and the WOS deferral limit (R138).
-/
namespace Sys2Proof.Machine

/-! ### LOAD_COMPLETE (R188) -/

/-- A value extended from its size (R296). -/
def extendLoaded (size : Nat) (signed : Bool) (v : DWord) : DWord :=
  if signed then BitVec.ofInt 64 (signedNat (8 * size) v.toNat) else BitVec.ofNat 64 (v.toNat % 2 ^ (8 * size))

/-- What a lane receives. -/
def planScalar (size : Nat) (signed : Bool) : LanePlan → Scalar
  | .value v => ⟨extendLoaded size signed v, false⟩
  | .poison c _ _ _ => poisonScalar c
  | .parked _ | .atom _ => Scalar.zero

/-- The plan of a lane of a load. -/
def planOf (p : PendLoad) (l : Nat) : LanePlan := ((p.jobs.find? fun j => j.lane = l).map (·.plan)).getD (.value 0#64)

/-- A pending load's lanes written to its destination (R188, R303). -/
def writeLoad (w : Warp) (p : PendLoad) : Warp :=
  let m := maskOf (p.jobs.map (·.lane))
  match p.kind with
  | .vec d size signed => writeV w (size = 8) (BitVec.ofNat 8 d) m fun l => planScalar size signed (planOf p l.val)
  | .scalar d size signed => if p.jobs.isEmpty then w else setS w (Fin.ofNat 64 d) (planScalar size signed (planOf p 0))
  | .tile d =>
    let a := (p.jobs.map (·.plan)).toArray
    (List.range p.regs.length).foldl (fun w r =>
      setV w (Fin.ofNat 232 (d + r)) (BitVec.allOnes 64) fun l =>
        let x := planScalar 4 false (a.getD (64 * r + l.val) (.value 0#64))
        ⟨x.val.setWidth 32, x.poison⟩) w

/-- The size of the accesses of a load. -/
def PendKind.size : PendKind → Nat
  | .vec _ n _ | .scalar _ n _ => n
  | .tile _ => 4

/-- The parked lanes of a load that are now published are read (R136). -/
def readParked (size : Nat) : List LaneJob → State → State × List LaneJob
  | [], s => (s, [])
  | j :: t, s =>
    let r := match j.plan with
      | .parked p =>
        (match readCheck s.m p with
        | some d => (s, ({ j with plan := .poison cAliasAttr d p.va true } : LaneJob))
        | none =>
          if unpublished s p || homeStalls s.m p then (s, j)
          else if !lineHeld s s.w.core.toNat p.pa false then
            ({ s with m := wantLine s.m (agentOf s s.w.core.toNat) (lineOf p.pa) .s }, j)
          else
            let q := loadAt s s.w.core.toNat true p size
            (q.1, { j with plan := .value (BitVec.ofNat 64 (natOfBytes q.2)) }))
      | _ => (s, j)
    let rest := readParked size t r.1
    (rest.1, r.2 :: rest.2)

/-- A warp with the jobs of its pending load `k` replaced. -/
def setJobs (k : Nat) (p : PendLoad) (jobs : List LaneJob) (s : State) : State :=
  { s with w := { s.w with loads := s.w.loads.set k { p with jobs := jobs } } }

/-- The pending load `k` of the warp in focus completes: its atomics are performed once what they follow has been (R121, R124); one with a lane
still parked, or not yet performed, stays (R188, R138). -/
def completeLoad (k : Nat) (s : State) : State :=
  match s.w.loads[k]? with
  | none => s
  | some p =>
    let a := if atomReady s p then performStep p.jobs s else (s, p.jobs)
    let r := readParked p.kind.size a.2 a.1
    let q := { p with jobs := r.2 }
    let r := if q.waits then r else (refillBlocks (awayBlocks r.1.w q.regs) r.1, r.2)
    if q.waits || awayBlocks r.1.w q.regs ≠ 0#29 then (if q = p then { s with m := { s.m with wants := r.1.m.wants } } else setJobs k p r.2 r.1)
    else
      let s := r.1
      { s with w := flagDec (recordOrigins (writeLoad { s.w with loads := s.w.loads.eraseIdx k } q) q) p.flag }

/-- LOAD_COMPLETE (R188). -/
def execLoadComplete (wid k : Nat) (s : State) : Host.Outcome State Fault Refusal := .next (onCoreWarp s wid (completeLoad k))

/-- The parked lanes of pending load `k` take WOS_TIMEOUT once the limit has passed (R138). -/
def expireLoad (k : Nat) (s : State) : State :=
  match s.w.loads[k]? with
  | none => s
  | some p =>
    if !p.parked || !wosExpired s p.since then s
    else
      setJobs k p (p.jobs.map fun j => match j.plan with
        | .parked q => if unpublished s q then { j with plan := .poison cWosTimeout 0x00 q.va true } else j
        | _ => j) s

/-- WOS_TIMEOUT of a parked load lane (R138). -/
def execWosTimeout (wid k : Nat) (s : State) : Host.Outcome State Fault Refusal := .next (onCoreWarp s wid (expireLoad k))

/-! ### STORE_PERFORMED (R120, R127) -/

/-- The conditions of R123 hold for a release in the queue: earlier loads performed, earlier stores and those that loads returned performed at
the scope, and at gang or system scope earlier remote accesses acknowledged. -/
def releaseReady (s : State) (e : StoreEntry) : Bool :=
  match e.rel with
  | none => true
  | some sc => earlierDone s e.since sc

/-- The die holds every line that an entry writes (R162); flushes, discards and publications own no line. -/
def entryHeld (s : State) (e : StoreEntry) : Bool :=
  match e.kind with
  | .store | .red .. => e.lanes.all fun l => l.place.stash || l.place.attr = aIp || lineHeld s s.w.core.toNat l.place.pa true
  | _ => true

/-- An entry may be performed now: a release once what it follows has been, none before an earlier atomic (R121), none on a record that
makes it wait (R63), or whose page is being splintered under a flush (R47). -/
def entryReady (s : State) (e : StoreEntry) : Bool :=
  releaseReady s e && !(s.w.loads.any fun l => l.since < e.since && l.atomOn fun _ => true)
    && !(e.lanes.any fun l => homeStalls s.m l.place) && entryHeld s e
    && !(e.kind = .flush && e.lanes.any fun l => match resolveVa s .store l.place.va.toNat with
        | .stall => true
        | .ok t p => homeStalls t.m p
        | .fault .. => false)

/-- The lines that an entry needs asked for (R162). -/
def wantLanes (s : State) (e : StoreEntry) : State :=
  let far := e.lanes.filter fun l => !(l.place.stash || l.place.attr = aIp || lineHeld s s.w.core.toNat l.place.pa true)
  { s with m := far.foldl (fun m l => wantLine m (agentOf s s.w.core.toNat) (lineOf l.place.pa) .m) s.m }

/-- A reduction performed at its place (R320). -/
def reduceLane (op : BitVec 3) (wide : Bool) (t : BitVec 4) (x : LaneStore) (s : State) : State :=
  let p := x.place
  let n := atomSize wide
  if p.stash || p.attr = aSc || offDevice p.pa then
    (readWrite s s.w.core.toNat p n (atomNew op (Elem.ofCode t) n x.data.toNat 0)).1
  else
    { s with m := reduceAt s.m s.w.core.toNat (agentOf s s.w.core.toNat) (homeDie p.pa = s.w.core.toNat / 40) p.pa op wide t (x.data.toNat % 2 ^ (8 * n)) }

/-- The mapped IP lines of the block whose global line is that of a VA. -/
def mappedAt (s : State) (va : VA) : List MappedLine :=
  s.b.mapped.filter fun q => q.ip && ((smapOf s.b q.line).map fun e => smapVa e (128 * q.line)) = some va.toNat

/-- One line flushed (R141, R312): the block's dirty mapped line and the die's dirty copy are written back; a refused write-back of a mapped
line is a fault at the block (R99), of the die's copy one of the flush. -/
def flushLine (x : LaneStore) (s : State) : State × Option (Byte × Byte) :=
  let line := lineOf x.place.pa
  let die : IpHolder := .die (s.w.core.toNat / 40)
  let maps := (mappedAt s x.place.va).filter fun q => q.dirty ≠ 0#128
  let copy := (ipFind s.m die line).filter fun c => c.dirty ≠ 0#128
  if maps.isEmpty && copy.isNone then (s, none)
  else
    let s := maps.foldl writeBackMapped s
    let s := { s with b := { s.b with mapped := s.b.mapped.map fun q => if maps.contains q then { q with dirty := 0#128 } else q } }
    match copy with
    | none => (s, none)
    | some c =>
      match resolveVa s .store x.place.va.toNat with
      | .fault c d _ => (s, some (c, d))
      | .stall => (s, none)
      | .ok s p =>
        match homeCheck s.m p with
        | some d => (s, some (cAliasAttr, d))
        | none => ({ s with m := ipSet (c.home s.m) { c with dirty := 0#128, loose := 0#128 } }, none)

/-- One line's copies discarded (R141): the core's, the block's mapped line, the die's clean one. -/
def invalLine (x : LaneStore) (s : State) : State :=
  let line := lineOf x.place.pa
  let gone := mappedAt s x.place.va
  let m := ipDrop s.m (.core s.w.core.toNat) line
  let die : IpHolder := .die (s.w.core.toNat / 40)
  let m := match ipFind m die line with
    | some c => if c.dirty = 0#128 then ipDrop m die line else m
    | none => m
  { s with m := m, b := { s.b with mapped := s.b.mapped.filter fun q => !gone.contains q } }

/-- One lane of an entry performed at its home: the state after, or why the home refuses it (R62, R136, R298, R321). -/
def performLane (kind : StoreKind) (x : LaneStore) (s : State) : State × Option (Byte × Byte) :=
  match kind with
  | .store =>
    match storeRefused s x.place with
    | some f => (s, some f)
    | none => (wakeBarriers s.b (storeAt s s.w.core.toNat x.place (bytesOfNat x.size x.data.toNat)), none)
  | .red op wide t =>
    match homeCheck s.m x.place with
    | some d => (s, some (cAliasAttr, d))
    | none => (reduceLane op wide t x s, none)
  | .flush => flushLine x s
  | .inval => (invalLine x s, none)
  | .pub =>
    match homeCheck s.m x.place with
    | some d => (s, some (cAliasAttr, d))
    | none => ({ s with m := setWos (logLine s.m (lineOf x.place.pa) s.b.prot) (lineOf x.place.pa) .published }, none)

/-- The lanes of an entry in order, with the faults found. -/
def performLanes (kind : StoreKind) : List LaneStore → State → State × List LaneFault
  | [], s => (s, [])
  | x :: t, s =>
    let r := performLane kind x s
    let rest := performLanes kind t r.1
    (rest.1, (r.2.map fun f => (⟨x.lane, f.1, f.2, x.place.va⟩ : LaneFault)).toList ++ rest.2)

/-- The lanes of a failed access (R378): those of the entry for a lane numbered 64. -/
def failedMask (e : StoreEntry) (fs : List LaneFault) : Mask :=
  if fs.any fun f => 64 ≤ f.lane then e.active else maskOf (fs.map (·.lane))

/-- A store of the warp in focus acknowledged, unless bytes that its slice forwarded are on their way to a core copy (R161, R127). -/
def acknowledge (s : State) (sid : Nat) (flag : Option (Fin 12)) : State :=
  if forwarding s.m sid then { s with w := { s.w with unacked := s.w.unacked ++ [(sid, flag)] } } else { s with w := flagDec s.w flag }

/-- The stores of a warp whose bytes have reached every copy acknowledged (R161). -/
def ackWarp (m : Mem) (w : Warp) : Warp :=
  (w.unacked.filter fun u => !forwarding m u.1).foldl (fun w u => flagDec w u.2)
    { w with unacked := w.unacked.filter fun u => forwarding m u.1 }

/-- The stores of every warp that are now acknowledged. -/
def ackStores (s : State) : State := mapWarps s (ackWarp s.m)

/-- The oldest entry of the store queue of the warp in focus performed, if it may be. -/
def performStore (s : State) : State :=
  match s.w.stores with
  | [] => s
  | e :: rest =>
    if !entryReady s e then (if entryHeld s e then s else wantLanes s e)
    else
      let r := performLanes e.kind e.lanes { s with w := { s.w with stores := rest } }
      let t := acknowledge { r.1 with m := { r.1.m with sid := s.m.sid + 1 } } s.m.sid e.flag
      match r.2 with
      | [] => t
      | f :: fs => raiseLate t e.pc e.hreg f.code f.detail f.va (failedMask e (f :: fs))

/-- STORE_PERFORMED (R120, R127). -/
def execStorePerformed (wid : Nat) (s : State) : Host.Outcome State Fault Refusal := .next (onCoreWarp s wid performStore)

/-- LATE_FAULT (R388, R389): an imprecise fault of the warp arrives. -/
def execLateFault (wid : Nat) (r : BitVec 512) (s : State) : Host.Outcome State Fault Refusal :=
  .next (withWarp s wid fun s => lateArrives s r)

end Sys2Proof.Machine
end

