-- ==== Sys2Proof/Machine/Tile.lean ====
section
/-!
DEFINITION. Tile loads and stores (spec/12, R302 to R306).
-/
namespace Sys2Proof.Machine

/-- The registers of a tile access (R303): slots of 64 bits, element registers, scale registers, code mode, value mode. -/
structure TileShape where
  wide : Bool
  elems : Nat
  scales : Nat
  code : Bool
  value : Bool
  deriving DecidableEq, Repr

/-- The mode of a tile access and its register range (R303); `none` for a MODE.ET that the handle does not accept. -/
def tileShape (e : BitVec 512) (et : Elem) : Option TileShape :=
  let n := hElems e
  if hAttar e then
    if et = .f32 then some { wide := false, elems := ceilDiv n 64, scales := 0, code := false, value := true }
    else if et = hType e then
      some { wide := false, elems := ceilDiv n 64, scales := ceilDiv (tileScales n) 64, code := true, value := false }
    else none
  else
    let wide := (hType e).isPair
    some { wide := wide, elems := (if wide then 2 else 1) * ceilDiv n 64, scales := 0, code := false, value := false }

/-- The number of registers of a range. -/
def TileShape.regs (t : TileShape) : Nat := t.elems + t.scales

/-- The checks of a tile access up to its registers, in the order of R302 and R303. A space that a tile load is not admitted to is no part of
them: it poisons the range (R24, R64). A handle that is not bound has no shape and so no range to poison: it traps (R34, R295; log entry 40). -/
def tileChecks (s : State) (d : Byte) (n : BitVec 4) (store : Bool) : Run TileShape :=
  let h := handleAt s.w n
  match (if store || !h.bound then handleFault h store false else none) with
  | some (c, dt) => .error (.trap { code := c, detail := dt, hreg := n })
  | none =>
    if store && !h.writable then .error (.trap { code := cProtection, detail := 0x00, hreg := n })
    else
      match tileShape h.entry (modeEt s.w) with
      | none => .error (.trap { code := cIllegalInstruction, detail := 0x70, hreg := n })
      | some t =>
        if 232 < d.toNat + t.regs then trap cIllegalRegister d
        else
          match (Opd.vreg d t.regs (if t.wide then 2 else 1)).bad s.w with
          | some r => trap cIllegalRegister r
          | none =>
            if (List.range t.regs).any fun i => vPending s.w (d.toNat + i) then park .interlock
            else match registersHere s.w ((List.range t.regs).map (d.toNat + ·)) with
            | .error e => .error e
            | .ok _ => .ok t

/-- The coordinate pair of a tile access: its coordinates, or the code of a poisoned register. -/
def coordPair (w : Warp) (i : Byte) : Byte ⊕ List Nat :=
  let lo := sReg w (Fin.ofNat 64 i.toNat)
  let hi := sReg w (Fin.ofNat 64 (i.toNat + 1))
  if lo.poison then .inl lo.code else if hi.poison then .inl hi.code else .inr (coordsOf lo.val hi.val)

/-- The faulting VA field of a stream fault: the coordinates (R380). -/
def coordVa (c : List Nat) : VA := BitVec.ofNat 80 (c.getD 0 0 + atBit 20 (c.getD 1 0) + atBit 40 (c.getD 2 0) + atBit 60 (c.getD 3 0))

/-- The precise fault of a stream (R87). -/
def streamTrap (n : BitVec 4) (c : List Nat) (f : StreamFault) : TrapInfo :=
  { code := f.code, detail := f.detail, va := coordVa c, hreg := n, subs := BitVec.ofNat 4 f.sub, bitoff := BitVec.ofNat 20 f.bit }

/-- Every lane of a register range poisoned by one fault; only the first lane of it is a new deferred fault (R64, R304). -/
def poisonRange (regs : Nat) (code detail : Byte) (va : VA) (fresh : Bool) : List LaneJob :=
  (List.range (64 * regs)).map fun i => ⟨i, .poison code detail va (fresh && i = 0)⟩

/-- The words of a tile load's range, register by register (R303): elements, then scales; the padding is zero. -/
def tileWords (t : TileShape) (e : BitVec 512) (ps : List (Option Nat)) (vals : List Nat) (scales : List Byte) : List Nat :=
  let sc := scales.toArray
  let v := if t.value then
      (vals.zip ps).zipIdx.map fun q => if q.1.2.isSome then dequant (hType e) (sc.getD (q.2 / 32) 0#8) q.1.1 else 0
    else vals
  let a := v.toArray
  (List.range (64 * t.regs)).map fun i =>
    let r := i / 64
    if r < t.elems then
      (if t.wide then a.getD (64 * (r / 2) + i % 64) 0 / 2 ^ (32 * (r % 2)) % 2 ^ 32 else a.getD i 0)
    else (sc.getD (64 * (r - t.elems) + i % 64) 0#8).toNat

/-- The reader of a tile access of the warp (R306): the deferral limit is that of its own park (R138). -/
def warpReader (s : State) (n : BitVec 4) (h : Handle) : Reader :=
  { warp := true, hreg := some n, cached := h.cached, die := none, expired := s.w.status = .parked .wos && wosExpired s s.w.since }

/-- TLD (R302 to R304). -/
def execTld (d i : BitVec 8) (h : BitVec 4) (s : State) : Host.Outcome State Fault Refusal :=
  issue { rap := .no, opds := [.vreg d 0 1, .sregs i 2], hreg := h } s fun s =>
    match tileChecks s d h false with
    | .error e => .error e
    | .ok t =>
      let b := handleAt s.w h
      let regs := (List.range t.regs).map (d.toNat + ·)
      match coordPair s.w i with
      | .inl c => warpOnce s fun s => .ok (pendLoad s (.tile d.toNat) regs (poisonRange t.regs c 0x00 0#80 false) false)
      | .inr c =>
        match handleFault b false false with
        | some (c, dt) => warpOnce s fun s => .ok (pendLoad s (.tile d.toNat) regs (poisonRange t.regs c dt 0#80 true) false)
        | none =>
          if !coordValid b.entry c then .error (.trap { code := cHandleBounds, detail := 0x00, hreg := h })
          else warpOnce s fun s =>
            match loadReady s with
            | .error e => .error e
            | .ok _ =>
              match requestsFree s (64 * t.regs) with
              | .error e => .error e
              | .ok _ =>
                match tileElems (warpReader s h b) b c s with
                | .error (.wait p) => park p
                | .error (.stream f) => .error (.trap (streamTrap h c f))
                | .error (.poisoned code) =>
                  if modeSp s.w then .error (.trap { code := code, detail := 0x00, hreg := h })
                  else .ok (pendLoad s (.tile d.toNat) regs (poisonRange t.regs code 0x00 0#80 true) false)
                | .error (.fault code dt va) => .ok (pendLoad s (.tile d.toNat) regs (poisonRange t.regs code dt va true) false)
                | .ok (s, vals, scales) =>
                  let ws := tileWords t b.entry (tilePositions b.entry c) vals scales
                  .ok (pendLoad s (.tile d.toNat) regs (ws.zipIdx.map fun q => ⟨q.2, .value (BitVec.ofNat 64 q.1)⟩) false)

/-- The stored value of element `i` of a range (R303). -/
def tileSlot (w : Warp) (t : TileShape) (d i : Nat) : Nat :=
  let l : Fin 64 := Fin.ofNat 64 i
  if t.wide then (pairAt w (d + 2 * (i / 64)) l).val.toNat else (vAt w (d + i / 64) l).val.toNat

/-- The first poisoned lane of a range in register, then lane order, with the poisoned lanes of its register (R305). -/
def rangePoison (w : Warp) (d n : Nat) : Option (Byte × Mask) :=
  (List.range n).findSome? fun r =>
    (firstLane (BitVec.allOnes 64) fun l => (vAt w (d + r) l).poison).map fun l =>
      ((vAt w (d + r) l).scalar.code, laneMask fun k => (vAt w (d + r) k).poison)

/-- The codes and scales that a tile store sends to the encoder (R305, R83). -/
def encodeRequest (w : Warp) (t : TileShape) (e : BitVec 512) (ps : List (Option Nat)) (d : Nat) : List Nat × List Byte :=
  let slots := (List.range (hElems e)).map (tileSlot w t d)
  let edges := (ps.map Option.isNone).toArray
  if t.value then quantTile (hType e) (slots.map Elem.f32.value) fun i => edges.getD i false
  else
    ((slots.zip ps).map fun q => if q.2.isSome then q.1 % 2 ^ (hType e).width else 0,
     (List.range (tileScales (hElems e))).map fun k => (vAt w (d + t.elems + k / 64) (Fin.ofNat 64 k)).val.setWidth 8)

/-- An Attar tile stored through the encoder (R85, R305, R306): the stream, then the entry. The tile starts, and its code table is captured, at
issue (R78; log entry 41). -/
def storeAttar (n : BitVec 4) (h : Handle) (c : List Nat) (codes : List Nat) (scales : List Byte) (s : State) : Run (State × List LaneStore) :=
  let e := h.entry
  let idx := tileIndex e c
  match readBytesVa (warpReader s n h) (bxVa e idx) 8 s with
  | .error (.wait p) => park p
  | .error (.fault code dt va) => .error (.trap { code := code, detail := dt, va := va, hreg := n })
  | .error (.stream f) => .error (.trap (streamTrap n c f))
  | .error (.poisoned code) => .error (.trap { code := code, detail := 0x00, hreg := n })
  | .ok (s, bs) =>
    let x : DWord := BitVec.ofNat 64 (natOfBytes bs)
    if bxBad x then .error (.trap (streamTrap n c (headerFault 0x01)))
    else if hLength e < 32 * (bxOffset x + rawUnits (hType e) (hElems e)) then
      .error (.trap { code := cHandleBounds, detail := 0x40, hreg := n })
    else
      let r := encodeStream (hType e) codes scales (s.x.tables.toList.getD (hCtab e) none) true 0
      match storeHandle n h (32 * bxOffset x) r.2 s with
      | .error e => .error e
      | .ok (s, ls) =>
        match storeVa n (bxVa e idx) (bytesOfNat 8 (bxStored r.1 (r.2.length / 32) (bxOffset x)).toNat) s with
        | .error e => .error e
        | .ok (s, le) => .ok (s, ls ++ le)

/-- The writes of a tile store (R305). -/
def tileStores (n : BitVec 4) (h : Handle) (t : TileShape) (c : List Nat) (d : Nat) (s : State) : Run (State × List LaneStore) :=
  let ps := tilePositions h.entry c
  if hAttar h.entry then
    let q := encodeRequest s.w t h.entry ps d
    storeAttar n h c q.1 q.2 s
  else storeDense n h (denseWrites h.entry (ps.zipIdx.map fun q => (q.1, tileSlot s.w t d q.2))) s

/-- TST (R302, R303, R305, R306). -/
def execTst (d i : BitVec 8) (h : BitVec 4) (s : State) : Host.Outcome State Fault Refusal :=
  issue { rap := .no, opds := [.vreg d 0 1, .sregs i 2], hreg := h } s fun s =>
    match tileChecks s d h true with
    | .error e => .error e
    | .ok t =>
      let b := handleAt s.w h
      match coordPair s.w i with
      | .inl c => warpOnce s fun _ => consume c none
      | .inr c =>
        if !coordValid b.entry c then .error (.trap { code := cHandleBounds, detail := 0x00, hreg := h })
        else warpOnce s fun s =>
          match rangePoison s.w d.toNat t.regs with
          | some (code, m) => consume code (some m)
          | none =>
            match memReady s with
            | .error e => .error e
            | .ok _ =>
              match tileStores h b t c d.toNat s with
              | .error e => .error e
              | .ok (s, ls) => pushStore s .store ls h none

end Sys2Proof.Machine
end

