-- ==== Sys2Proof/Machine/Matrix.lean ====
section
/-!
DEFINITION. The matrix instructions (spec/13, R338 to R345): their checks, acceptance with its operand faults, the exact sum rounded once,
twin pairing (spec/08, R195, R196), completion, and the power gating of the engines (spec/09, R226).
-/
namespace Sys2Proof.Machine

/-! ### Shapes and checks (R340, R341) -/

/-- A row of R340: K, the columns, and whether the tag is F64. -/
structure MatShape where
  k : Nat
  w : Nat
  f64 : Bool
  deriving DecidableEq, Repr

/-- E4M3, E5M2 and the MXINT8 element, which pair in any combination. -/
def byteElem (t : Elem) : Bool := t = .e4m3 || t = .e5m2 || t = .mxi8

/-- The row of R340 for a type pair. -/
def matShape (ta tb : Elem) : Option MatShape :=
  if ta = .f64 && tb = .f64 then some ⟨8, 32, true⟩
  else if ta = .f32 && tb = .f32 then some ⟨8, 64, false⟩
  else if (ta = .f16 && tb = .f16) || (ta = .bf16 && tb = .bf16) then some ⟨32, 64, false⟩
  else if byteElem ta && byteElem tb then some ⟨64, 64, false⟩
  else if ta = .e2m1 && tb = .e2m1 then some ⟨128, 64, false⟩
  else none

/-- The element type of a tag. -/
def tagElem (f64 : Bool) : Elem := if f64 then .f64 else .f32

/-- A check of both handles in turn: the first that fails gives the fault. -/
def eitherHandle (w : Warp) (a b : BitVec 4) (code detail : Byte) (badA badB : BitVec 512 → Bool) : Option TrapInfo :=
  if badA (handleAt w a).entry then some { code := code, detail := detail, hreg := a }
  else if badB (handleAt w b).entry then some { code := code, detail := detail, hreg := b }
  else none

/-- Orders 3 to 9 of R341. -/
def matFault (w : Warp) (c : Fin 4) (a b : BitVec 4) (z : Bool) (ca cb : List Nat) : Option TrapInfo :=
  let ea := (handleAt w a).entry
  let eb := (handleAt w b).entry
  if !(handleAt w a).bound then some { code := cHandleBounds, detail := 0x00, hreg := a }
  else if !(handleAt w b).bound then some { code := cHandleBounds, detail := 0x00, hreg := b }
  else
    match eitherHandle w a b cProtection 0x00 (fun e => 3 ≤ hSpace e) (fun e => 3 ≤ hSpace e) with
    | some t => some t
    | none =>
      let flat := fun e => hRank e = 0 || 1 < hTile e 2 || 1 < hTile e 3
      match eitherHandle w a b cIllegalInstruction 0x80 flat flat with
      | some t => some t
      | none =>
        match matShape (hType ea) (hType eb) with
        | none => some { code := cIllegalInstruction, detail := 0x81 }
        | some sh =>
          match eitherHandle w a b cIllegalInstruction 0x80 (fun e => hTile e 0 ≠ sh.k || hTile e 1 ≠ 64)
              (fun e => hTile e 0 ≠ sh.w || hTile e 1 ≠ sh.k) with
          | some t => some t
          | none =>
            if !z && w.acc[c].f64 ≠ sh.f64 then some { code := cIllegalInstruction, detail := 0x82 }
            else eitherHandle w a b cHandleBounds 0x00 (fun e => !coordValid e ca) (fun e => !coordValid e cb)

/-- A poisoned register among the coordinates and, for mmat, the diagonal and the constant (order 2). -/
def matPoison (w : Warp) (form : BitVec 2) (sa sb : Nat) : Option Byte :=
  let r := fun i => sReg w (Fin.ofNat 64 i)
  firstPoison ([r sa, r (sa + 1), r sb, r (sb + 1)] ++ if form = 1#2 then [r (sa + 2), r (sa + 3)] else [])

/-- The mask constant C of mmat (R344): a NaN is the canonical NaN. -/
def fillOf (f64 : Bool) (x : DWord) : DWord :=
  let t := tagElem f64
  let v := x.toNat % 2 ^ t.width
  match t.value v with
  | .nan => BitVec.ofNat 64 t.canonNan
  | _ => BitVec.ofNat 64 v

/-- The request that a checked matrix instruction makes. -/
def matRequest (w : Warp) (id : Nat) (form : BitVec 2) (c : Fin 4) (a b : BitVec 4) (sa sb : Nat) (z : Bool) : MatReq :=
  let r := fun i => (sReg w (Fin.ofNat 64 i)).val
  let ha := handleAt w a
  let hb := handleAt w b
  let ca := coordsOf (r sa) (r (sa + 1))
  let cb := coordsOf (r sb) (r (sb + 1))
  { id := id, paired := false, reads := tileLines ha ca ++ tileLines hb cb, form := form, acc := c, z := z, handleA := ha, handleB := hb,
    hregA := a, hregB := b, coordA := ca, coordB := cb, diag := r (sa + 2), fill := fillOf (hType ha.entry = .f64) (r (sa + 3)),
    active := active w, skip := if w.rowResume then w.rowprog else 0#64, flag := stFlag w, pc := w.pc }

/-! ### Operands (R340, R343, R344) -/

/-- The row of R340 of a request. -/
def MatReq.shape (q : MatReq) : MatShape := (matShape (hType q.handleA.entry) (hType q.handleB.entry)).getD ⟨8, 64, false⟩

/-- An element that mmat masks (R344). -/
def MatReq.masked (q : MatReq) (r c : Nat) : Bool := q.form = 1#2 && signedNat 64 q.diag.toNat < (c : Int) - r
/-- A row, or a column, all of whose 8 × 8 sub-tiles are masked: it reads no operand bytes (R344). -/
def MatReq.rowDark (q : MatReq) (r : Nat) : Bool := q.form = 1#2 && signedNat 64 q.diag.toNat < -((8 * (r / 8) + 7 : Nat) : Int)
def MatReq.colDark (q : MatReq) (c : Nat) : Bool := q.form = 1#2 && signedNat 64 q.diag.toNat < ((8 * (c / 8) : Nat) : Int) - 63
/-- The rows that the instruction updates: active and not skipped (R342, R343). -/
def MatReq.rows (q : MatReq) : List (Fin 64) := laneList (q.active &&& ~~~q.skip)

/-- What is read of an operand: its values, and the code of its poison. -/
structure OpRead where
  vals : Array FVal
  poison : Option Byte

/-- An operand of which no byte is read. -/
def OpRead.unread : OpRead := ⟨#[], none⟩

/-- The reader of matrix operands: the engine path of the core's die (R128, R139). -/
def matReader (s : State) : Reader :=
  { warp := false, hreg := none, cached := false, die := some (s.w.core.toNat / 40), expired := s.w.status = .parked .wos && wosExpired s s.w.since }

/-- The values of the wanted elements of a tile, by element number; the others, and edge elements, are zero. -/
def operandVals (r : Reader) (h : Handle) (c : List Nat) (want : Nat → Bool) (s : State) : Reading (State × Array FVal) :=
  let e := h.entry
  let ps := (tilePositions e c).zipIdx.map fun q => if want q.2 then q.1 else none
  let pick := fun (vs : List Nat) (f : Nat → Nat → FVal) =>
    ((vs.zip ps).zipIdx.map fun q => if q.1.2.isSome then f q.2 q.1.1 else .fin false 0 0).toArray
  if hAttar e then
    match tileElems r h c s with
    | .error x => .error x
    | .ok (s, codes, scales) =>
      let sc := scales.toArray
      .ok (s, pick codes fun i v => codeValue (hType e) (sc.getD (i / 32) 0#8) v)
  else
    match denseElems r h ps s with
    | .error x => .error x
    | .ok (s, vs) => .ok (s, pick vs fun _ v => (hType e).value v)

/-- The poison of an operand under MODE.SP, `sp`: a trap, or a poisoned source (R104). -/
def poisonedOperand {α : Type} (sp : Bool) (n : BitVec 4) (code : Byte) (x : α) : Run α :=
  if sp then .error (.trap { code := code, detail := 0x00, hreg := n }) else .ok x

/-- The tiles that an operand with ATTAR = 0 overlaps, all of it: the instruction waits until they are READY, and one that is poisoned
poisons the operand (R104). Those of a stream are named as it is read. -/
def nameOperand (s : State) (sp : Bool) (n : BitVec 4) (h : Handle) (c : List Nat) : Run (Option Byte) :=
  if hAttar h.entry then .ok none
  else
    let span := denseSpan h.entry (tilePositions h.entry c)
    match nameTiles s h span.1 span.2 with
    | .error (.wait p) => park p
    | .error _ | .ok false => .ok none
    | .ok true => poisonedOperand sp n cTilePoison (some cTilePoison)

/-- A whole operand read at acceptance: its faults are precise (R343), and a poisoned tile traps under MODE.SP = 1 (R104). -/
def wholeOperand (s : State) (sp : Bool) (n : BitVec 4) (h : Handle) (c : List Nat) (want : Nat → Bool) : Run (State × OpRead) :=
  match nameOperand s sp n h c with
  | .error e => .error e
  | .ok p =>
    match operandVals (matReader s) h c want s with
    | .ok (s, a) => .ok (s, ⟨a, p⟩)
    | .error (.wait p) => park p
    | .error (.stream f) => .error (.trap (streamTrap n c f))
    | .error (.fault code dt va) => .error (.trap { code := code, detail := dt, va := va, hreg := n })
    | .error (.poisoned code) => poisonedOperand sp n code (s, ⟨#[], some code⟩)

/-- Operand B; a column group that is masked for every row is not read (R344). -/
def fetchB (q : MatReq) (sp : Bool) (s : State) : Run (State × OpRead) :=
  let w := q.shape.w
  if (List.range w).all q.colDark then (nameOperand s sp q.hregB q.handleB q.coordB).map fun p => (s, ⟨#[], p⟩)
  else wholeOperand s sp q.hregB q.handleB q.coordB fun i => !q.colDark (i % w)

/-- One row of A: its values, or the fault that traps its lane alone (R343). -/
abbrev RowRead := OpRead ⊕ LaneFault

/-- The rows of an A operand with ATTAR = 0, one after another; `poison` is that of the operand. -/
def fetchRows (q : MatReq) (poison : Option Byte) : List (Fin 64) → State → Run (State × List (Fin 64 × RowRead))
  | [], s => .ok (s, [])
  | r :: t, s =>
    let k := q.shape.k
    let put := fun (s : State) (x : RowRead) => match fetchRows q poison t s with
      | .error e => .error e
      | .ok (s, rest) => .ok (s, (r, x) :: rest)
    if q.rowDark r.val then put s (.inl ⟨#[], poison⟩)
    else
      match operandVals (matReader s) q.handleA q.coordA (fun i => i / k = r.val) s with
      | .ok (s, a) => put s (.inl ⟨a, poison⟩)
      | .error (.wait p) => park p
      | .error (.stream f) => .error (.trap (streamTrap q.hregA q.coordA f))
      | .error (.fault code dt va) => put s (.inr ⟨r.val, code, dt, va⟩)
      | .error (.poisoned code) => put s (.inl ⟨#[], some code⟩)

/-- Operand A: whole in an Attar tile, else row by row once the checks of the whole have passed (R343). -/
def fetchA (q : MatReq) (s : State) : Run (State × List (Fin 64 × RowRead)) :=
  let whole := fun (x : OpRead) => q.rows.map fun r => (r, (.inl x : RowRead))
  if q.rows.isEmpty then .ok (s, [])
  else if hAttar q.handleA.entry then
    if q.rows.all fun r => q.rowDark r.val then .ok (s, whole .unread)
    else
      match wholeOperand s (modeSp s.w) q.hregA q.handleA q.coordA fun _ => true with
      | .error e => .error e
      | .ok (s, x) => .ok (s, whole x)
  else
    match nameOperand s (modeSp s.w) q.hregA q.handleA q.coordA with
    | .error e => .error e
    | .ok p => fetchRows q p q.rows s

/-! ### The sum (R342, R344) -/

/-- One element: the exact sum of base and products, rounded once. -/
def matSum (t : Elem) (base : FVal) (prods : List FVal) : DWord :=
  BitVec.ofNat 64 (t.pattern ((prods.foldl (FVal.add .rne) base).round t .rne false))

/-- The products of row `r` and column `c`. -/
def matProducts (sh : MatShape) (a b : Array FVal) (r c : Nat) : List FVal :=
  (List.range sh.k).map fun k => (a.getD (k + sh.k * r) (.fin false 0 0)).mul (b.getD (c + sh.w * k) (.fin false 0 0))

/-- One updated row; the elements computed from a poisoned operand are free values from `free` on (R343). -/
def matRow (q : MatReq) (free : Nat) (old : AccRow) (r : Nat) (a b : OpRead) : AccRow :=
  let sh := q.shape
  let t := tagElem sh.f64
  let lit := (List.range sh.w).any fun c => !q.masked r c
  let code := if lit then (match a.poison with
    | some c => some c
    | none => b.poison) else none
  let kept := if !q.z && old.poison then some old.code else none
  let poison := match code with
    | some c => some c
    | none => kept
  { elems := lanesOf fun c =>
      if sh.w ≤ c.val then old.elems[c]
      else if q.masked r c.val then q.fill
      else if code.isSome then BitVec.ofNat 64 ((Config.freeDWord (free + 64 * r + c.val)).toNat % 2 ^ t.width)
      else matSum t (if q.z then .fin false 0 0 else t.value (old.elems[c].toNat % 2 ^ t.width)) (matProducts sh a.vals b.vals r c.val)
    poison := poison.isSome, code := poison.getD 0#8 }

/-- The tile after the good rows are updated. -/
def matTile (q : MatReq) (free : Nat) (old : Acc) (rows : List (Fin 64 × RowRead)) (b : OpRead) : Acc :=
  { f64 := q.shape.f64
    rows := lanesOf fun r => match rows.find? fun x => x.1 = r with
      | some (_, .inl a) => matRow q free old.rows[r] r.val a b
      | _ => old.rows[r] }

/-! ### Acceptance (R338, R343) -/

/-- The number of the matrix engine of a warp (R5). -/
def engineOf (w : Warp) : Nat := 4 * w.core.toNat + w.part.toNat

/-- One matrix engine changed. -/
def onEngine (s : State) (n : Nat) (f : Engine → Engine) : State :=
  { s with engines := vecOf 640 fun i => if i.val = n then f s.engines[i] else s.engines[i] }

/-- An engine holds an instruction of some warp of a resident context. -/
def engineBusy (s : State) (n : Nat) : Bool := (allWarps s).any fun w => engineOf w = n && (w.matReq.isSome || w.mat.isSome) && ctxResident s w.ctx

/-- An engine is power-gated once 256 clocks have passed since its last instruction, with none started since (R226). -/
def Engine.isGated (e : Engine) (clk : Nat) (busy : Bool) : Bool := e.gated || (!busy && e.idleSince + 256 ≤ clk)

/-- A matrix instruction is issued to the engine of the warp in focus, or goes on there after a restore; a gated engine requests a start (R226). -/
def wakeEngine (s : State) : State :=
  let n := engineOf s.w
  let busy := engineBusy { s with w := { s.w with matReq := none, mat := none } } n
  onEngine s n fun e => if e.isGated s.clk busy && e.requested.isNone then { e with gated := true, requested := some s.clk } else e

/-- The start sequencer delays an instruction: throttled, it starts one per engine in 128 clocks (R461). -/
def delayed (s : State) (e : Engine) : Bool := (s.hub.thr || s.hub.hot) && e.startedAt.any fun t => s.clk < t + 128

/-- A delayed issue counted, by its compute die (R461, R464). -/
def countDelay (s : State) : State :=
  let n := engineOf s.w
  if s.engines.toList[n]?.any (delayed s) then count s 0x0023#16 (BitVec.ofNat 32 (n / 160)) 1 else s

/-- A matrix instruction withdrawn: it is no longer tracked. -/
def dropReq (s : State) (q : MatReq) : State := { s with w := flagDec { s.w with matReq := none, status := .running } q.flag }

/-- The request of the warp in focus accepted with operand B read, or ended by its faults. -/
def acceptWith (q : MatReq) (b : OpRead) (s : State) : Run State :=
  match fetchA q s with
  | .error e => .error e
  | .ok (s, rows) =>
    let tile := matTile q s.m.free s.w.acc[q.acc] rows b
    let s := { s with m := { s.m with free := s.m.free + 4096 } }
    let bad := rows.filterMap fun r => match r.2 with
      | .inr f => some f
      | .inl _ => none
    match bad with
    | [] =>
      .ok (advance (countDelay { s with w := { s.w with
        matReq := none, rowprog := if s.w.rowResume then 0#64 else s.w.rowprog, rowAt := if s.w.rowResume then none else s.w.rowAt
        mat := some { acc := q.acc, tile := tile, rowState := s.w.rowState, zeroAdd := 0, form := q.form, done := 0#8, since := s.clk
                      step := if q.paired then 16 else 8, flag := q.flag } } }))
    | f :: fs =>
      let faulty := maskOf ((f :: fs).map (·.lane))
      let s := dropReq { s with w := { s.w with acc := s.w.acc.set q.acc tile, rowprog := q.skip ||| (q.active &&& ~~~faulty), rowAt := some q.pc } } q
      .ok (takeTrap s { code := f.code, detail := f.detail, va := f.va, hreg := q.hregA, mask := some faulty })

/-- An earlier command or fill holds back a request (R105, R106). -/
def matHeld (s : State) (q : MatReq) : Bool := boardHolds s s.w.core s.w.bid q.id q.reads []

/-- The wait of a request that cannot be accepted yet; the deferral limit of R138 counts from the first such wait on a line. -/
def matWaits (s : State) (p : Park) : State :=
  if p = .wos then { s with w := waiting s.w .wos } else if s.w.status = .parked .wos then { s with w := waiting s.w .matrix } else s

/-- The outcome of an acceptance. -/
def settleMatrix (s : State) (q : MatReq) (r : Run State) : State :=
  match r with
  | .ok t => t
  | .error (.trap i) => takeTrap (dropReq s q) i
  | .error (.wait p) => matWaits s p

/-- A request that issues alone is accepted. -/
def acceptAlone (s : State) (q : MatReq) : State :=
  settleMatrix s q (match (if q.rows.isEmpty then .ok (s, .unread) else fetchB q (modeSp s.w) s) with
    | .error e => .error e
    | .ok (s, b) => acceptWith q b s)

/-- The other twin of a warp (R195). -/
def partnerOf (s : State) : Option Warp :=
  s.warps.find? fun w => w.bid = s.w.bid && !w.rap && w.status ≠ .vacant && w.widx.toNat / 2 = s.w.widx.toNat / 2

/-- Two co-issued requests accepted together: one fetch of B serves both, and its faults trap both (R345), each record naming the twin's own
handle register (R87). -/
def acceptPair (s : State) (q : MatReq) (p : Warp) (q2 : MatReq) : State :=
  let back := s.w.wid
  match (if q.rows.isEmpty && q2.rows.isEmpty then .ok (s, .unread) else fetchB q (modeSp s.w || modeSp p) s) with
  | .error (.wait x) => matWaits s x
  | .error (.trap i) =>
    let t := focusOn (takeTrap (dropReq s q) i) p.wid
    focusOn (takeTrap (dropReq t q2) { i with hreg := q2.hregB }) back
  | .ok (t, b) =>
    match acceptWith q b t with
    | .error (.wait x) => matWaits s x
    | .error (.trap i) => focusOn (settleMatrix (focusOn (takeTrap (dropReq s q) i) p.wid) q2
        (acceptWith q2 b (focusOn (takeTrap (dropReq t q) i) p.wid))) back
    | .ok u =>
      match acceptWith q2 b (focusOn u p.wid) with
      | .ok v => focusOn v back
      | .error (.trap i) => focusOn (takeTrap (dropReq (focusOn u p.wid) q2) i) back
      | .error (.wait x) => matWaits s x

/-- The warp stands at its matrix instruction, decided to issue. -/
def matWaiting (w : Warp) : Bool := w.status = .parked .matrix || w.status = .parked .wos

/-- The matrix instruction of the warp in focus accepted, once its turn in the scoreboard has come. -/
def acceptMatrix (s : State) : State :=
  match s.w.matReq with
  | none => s
  | some q =>
    if !matWaiting s.w || s.w.mat.isSome || matHeld s q then s
    else if !q.paired then acceptAlone s q
    else
      match partnerOf s with
      | none => acceptAlone s q
      | some p =>
        match p.matReq with
        | none => acceptAlone s q
        | some q2 => if !q2.paired then acceptAlone s q else if p.mat.isSome || matHeld (focusOn s p.wid) q2 then s else acceptPair s q p q2

/-- MATRIX_ACCEPT (R338). -/
def execMatrixAccept (wid : Nat) (s : State) : Host.Outcome State Fault Refusal := .next (onCoreWarp s wid acceptMatrix)

/-! ### Pairing (R196) -/

/-- The request decided to issue; `paired` for a co-issue. -/
def decided (w : Warp) (paired : Bool) : Warp :=
  { waiting w .matrix with matReq := w.matReq.map fun q => { q with paired := paired } }

/-- A warp waits at an MMAP. -/
def atMmap (w : Warp) : Option MatReq := if w.status = .parked .accord then w.matReq else none

/-- Operand B of two requests matches: the same binding and equal coordinates (R196). -/
def sameB (q r : MatReq) : Bool :=
  q.handleB.index = r.handleB.index && q.handleB.tbl = r.handleB.tbl && q.coordB = r.coordB

/-- An MMAP that issues alone is counted (R196). -/
def issueAlone (s : State) : State :=
  count { s with w := decided s.w false } 0x0021#16 (BitVec.ofNat 32 (engineOf s.w)) 1

/-- The pair outcome for the twin in focus, which waits at an MMAP (R196). -/
def decidePair (s : State) : State :=
  match atMmap s.w with
  | none => s
  | some q =>
    match partnerOf s with
    | none => issueAlone s
    | some p =>
      match atMmap p with
      | some q2 =>
        if sameB q q2 then onWarp { s with w := decided s.w true } p.wid fun v => decided v true
        else
          let t := focusOn (issueAlone s) p.wid
          focusOn (issueAlone t) s.w.wid
      | none =>
        if p.status = .done then issueAlone s
        else if 16 * modePw s.w ≤ s.w.cyc.toNat - s.w.since then issueAlone s
        else s

/-- ACCORD_WAIT_EXPIRE (R196). -/
def execAccordWaitExpire (wid : Nat) (s : State) : Host.Outcome State Fault Refusal := .next (onCoreWarp s wid decidePair)

/-! ### The instructions (R339, R341) -/

/-- A checked matrix instruction issued: it is tracked, and waits to be accepted (R338). -/
def issueMatrix (s : State) (form : BitVec 2) (c : Fin 4) (a b : BitVec 4) (sa sb : Nat) (z : Bool) : Run State :=
  let (s, id) := takeIssue s
  let q := matRequest s.w id form c a b sa sb z
  if !q.reads.isEmpty && boardFull s s.w.core then park .scoreboard
  else
    let s := wakeEngine s
    let w := flagInc { waiting s.w (if form = 2#2 then .accord else .matrix) with matReq := some q } q.flag
    .ok (decidePair { s with w := w, turn := 0 })

/-- A matrix instruction. -/
def matrixForm (form : BitVec 2) (c : BitVec 2) (a b : BitVec 4) (sa sb : BitVec 6) (z : BitVec 1) (s : State) :
    Host.Outcome State Fault Refusal :=
  issue { rap := .no, opds := [.sregs (sa.setWidth 8) (if form = 1#2 then 4 else 2), .sregs (sb.setWidth 8) 2] } s fun s =>
    if s.w.matReq.isSome then .ok { s with turn := 0 }
    else if s.w.mat.isSome then park .scoreboard
    else if form = 2#2 && !s.b.accord then trap cIllegalInstruction 0x50
    else
      match matPoison s.w form sa.toNat sb.toNat with
      | some code => consume code none
      | none =>
        let r := fun i => (sReg s.w (Fin.ofNat 64 i)).val
        match matFault s.w c.toFin a b (z = 1#1) (coordsOf (r sa.toNat) (r (sa.toNat + 1))) (coordsOf (r sb.toNat) (r (sb.toNat + 1))) with
        | some t => .error (.trap t)
        | none =>
          if active s.w = 0#64 && form ≠ 2#2 then .ok (advance s)
          else
            match xpReady s with
            | .error e => .error e
            | .ok _ => issueMatrix s form c.toFin a b sa.toNat sb.toNat (z = 1#1)

/-- MMA (R339, R342). -/
def execMma (c : BitVec 2) (a b : BitVec 4) (sa sb : BitVec 6) (z : BitVec 1) (s : State) : Host.Outcome State Fault Refusal :=
  matrixForm 0#2 c a b sa sb z s
/-- MMAT (R344). -/
def execMmat (c : BitVec 2) (a b : BitVec 4) (sa sb : BitVec 6) (z : BitVec 1) (s : State) : Host.Outcome State Fault Refusal :=
  matrixForm 1#2 c a b sa sb z s
/-- MMAP (R345, R195, R196). -/
def execMmap (c : BitVec 2) (a b : BitVec 4) (sa sb : BitVec 6) (z : BitVec 1) (s : State) : Host.Outcome State Fault Refusal :=
  matrixForm 2#2 c a b sa sb z s

/-! ### Completion and the engines (R338, R226) -/

/-- The engine of the warp in focus is ready, and the start sequencer lets it start an instruction (R226, R461). -/
def engineReady (s : State) : Bool :=
  match s.engines.toList[engineOf s.w]? with
  | some e => !e.gated && e.readyAt ≤ s.clk && !delayed s e
  | none => true

/-- The context that must give up its bank of an engine for another one: the least recently used (R356). -/
def bankLost (e : Engine) (c : BitVec 16) : Option (BitVec 16) := if e.banks.contains c then none else e.banks[1]?

/-- A context uses a bank of an engine: the one it owns, else a free one, else that of another context, whose warps on the partition write
their accumulators to their image (R355, R356). -/
def takeBank (s : State) (n : Nat) (c : BitVec 16) : State :=
  let s := match s.engines.toList[n]?.bind fun e => bankLost e c with
    | none => s
    | some d => ((allWarps s).filter fun w => w.ctx = d && engineOf w = n && !w.rap && w.status ≠ .vacant && w.status ≠ .done).foldl spillAcc s
  onEngine s n fun e => { e with banks := (c :: e.banks.filter (· ≠ c)).take 2 }

/-- An accepted instruction of the warp in focus applied, in its context's bank of the engine. -/
def applyWork (s : State) (k : MatWork) : State :=
  let s := takeBank s (engineOf s.w) s.w.ctx
  let w := { s.w with mat := none, acc := s.w.acc.set k.acc k.tile, rowState := k.rowState, accPend := 0#13,
                      zerocnt := BitVec.ofNat 64 (min (s.w.zerocnt.toNat + k.zeroAdd) (2 ^ 64 - 1)) }
  onEngine { s with w := flagDec w k.flag } (engineOf s.w) fun e => { e with idleSince := s.clk, startedAt := if k.form ≠ 3#2 then some s.clk else e.startedAt }

/-- The accepted instruction of the warp in focus applied; a matrix instruction waits until its engine is ready. -/
def completeMatrix (s : State) : State :=
  match s.w.mat with
  | none => s
  | some k => if k.form ≠ 3#2 && !engineReady s then s else applyWork s k

/-- MATRIX_COMPLETE (R338). -/
def execMatrixComplete (wid : Nat) (s : State) : Host.Outcome State Fault Refusal := .next (onCoreWarp s wid completeMatrix)

/-- The engine of a die whose start request is the oldest, the lowest number first among equals. -/
def oldestRequest (s : State) (die : Nat) : Option (Nat × Nat) :=
  (s.engines.toList.zipIdx.filter fun e => e.2 / 160 = die).foldl (fun (r : Option (Nat × Nat)) e => match e.1.requested, r with
    | some t, some (u, n) => if t < u then some (t, e.2) else some (u, n)
    | some t, none => some (t, e.2)
    | none, r => r) none

/-- The start sequencer of a die grants the oldest request, one every two clocks: the engine is ready 16 clocks later, and its start wait is
counted (R226). -/
def grantStart (s : State) (die : BitVec 2) : State :=
  match oldestRequest s die.toNat with
  | none => s
  | some (t, n) =>
    if s.clk < s.grantAt[die.toNat] then s
    else
      let s := { s with grantAt := s.grantAt.set die.toNat (s.clk + 2) }
      count (onEngine s n fun e => { e with gated := false, requested := none, readyAt := s.clk + 16, idleSince := s.clk + 16 })
        0x0022#16 (BitVec.ofNat 32 n) (s.clk + 16 - t)

/-- ENGINE_START_GRANT (R226). -/
def execEngineStartGrant (die : BitVec 2) (s : State) : Host.Outcome State Fault Refusal := .next (grantStart s die)

/-- ENGINE_GATE (R226): an engine idle for 256 clocks is gated. -/
def execEngineGate (engine : BitVec 10) (s : State) : Host.Outcome State Fault Refusal :=
  .next (if engineBusy s engine.toNat then s
    else onEngine s engine.toNat fun e => if !e.gated && e.idleSince + 256 ≤ s.clk then { e with gated := true } else e)

end Sys2Proof.Machine
end

