-- ==== Sys2Proof/Machine/VecFloat.lean ====
section
/-!
DEFINITION. Vector floating point (spec/11, R279 to R282), conversion (R283) and scaled quantisation (R285 to R287).
-/
namespace Sys2Proof.Machine

/-- A lane as a value of MODE.ET, after FTZ (R260, R262). -/
def floatIn (w : Warp) (x : DWord) : FVal := ((modeEt w).value x.toNat).flush (modeEt w) (modeFtz w)

/-- An exact result rounded once under MODE, then flushed (R261, R262). -/
def floatRound (w : Warp) (x : FVal) : FVal := (x.round (modeEt w) (modeRm w) (modeSat w)).flush (modeEt w) (modeFtz w)

/-- A value that MODE.ET holds, as a lane. -/
def floatOut (w : Warp) (x : FVal) : DWord := BitVec.ofNat 64 ((modeEt w).pattern x)

/-- A floating-point form of two sources. -/
def floatBin (d a b : BitVec 8) (f : Warp → FVal → FVal → FVal) (s : State) : Host.Outcome State Fault Refusal :=
  perLane2 (wideEt s) d a b floatType (fun w x y => floatOut w (f w (floatIn w x) (floatIn w y))) s

/-- A floating-point form of three sources. -/
def floatTri (d a b : BitVec 8) (f : Warp → FVal → FVal → FVal → FVal) (s : State) : Host.Outcome State Fault Refusal :=
  perLane3 (wideEt s) d a b floatType (fun w x y z => floatOut w (f w (floatIn w x) (floatIn w y) (floatIn w z))) s

/-- A floating-point function of one source whose result is already rounded under MODE (R281). -/
def floatFun (check : Warp → Run Unit) (d a : BitVec 8) (f : Elem → Rm → Bool → FVal → FVal) (s : State) :
    Host.Outcome State Fault Refusal :=
  perLane1 (wideEt s) (wideEt s) d a check
    (fun w x => floatOut w ((f (modeEt w) (modeRm w) (modeSat w) (floatIn w x)).flush (modeEt w) (modeFtz w))) s

/-- A sign operation on the w-bit pattern (R281). -/
def floatSign (d a : BitVec 8) (f : Nat → Nat → Nat) (s : State) : Host.Outcome State Fault Refusal :=
  perLane1 (wideEt s) (wideEt s) d a floatType
    (fun w x => BitVec.ofNat 64 (f (2 ^ ((modeEt w).width - 1)) (x.toNat % 2 ^ (modeEt w).width))) s

/-- VFADD (R279). -/
def execVfadd (d a b : BitVec 8) (s : State) : Host.Outcome State Fault Refusal :=
  floatBin d a b (fun w x y => floatRound w (x.add (modeRm w) y)) s
/-- VFSUB (R279). -/
def execVfsub (d a b : BitVec 8) (s : State) : Host.Outcome State Fault Refusal :=
  floatBin d a b (fun w x y => floatRound w (x.add (modeRm w) y.neg)) s
/-- VFMUL (R279). -/
def execVfmul (d a b : BitVec 8) (s : State) : Host.Outcome State Fault Refusal :=
  floatBin d a b (fun w x y => floatRound w (x.mul y)) s
/-- VFMIN (R279). -/
def execVfmin (d a b : BitVec 8) (s : State) : Host.Outcome State Fault Refusal := floatBin d a b (fun _ x y => x.min y) s
/-- VFMAX (R279). -/
def execVfmax (d a b : BitVec 8) (s : State) : Host.Outcome State Fault Refusal := floatBin d a b (fun _ x y => x.max y) s
/-- VFMAD (R280): two roundings. -/
def execVfmad (d a b : BitVec 8) (s : State) : Host.Outcome State Fault Refusal :=
  floatTri d a b (fun w x y z => floatRound w ((floatRound w (x.mul y)).add (modeRm w) z)) s
/-- VFMAC (R280): one rounding. -/
def execVfmac (d a b : BitVec 8) (s : State) : Host.Outcome State Fault Refusal :=
  floatTri d a b (fun w x y z => floatRound w ((x.mul y).add (modeRm w) z)) s
/-- VFNMAC (R280): d − a × b, one rounding. -/
def execVfnmac (d a b : BitVec 8) (s : State) : Host.Outcome State Fault Refusal :=
  floatTri d a b (fun w x y z => floatRound w ((x.mul y).neg.add (modeRm w) z)) s

/-- VFNEG (R281). -/
def execVfneg (d a : BitVec 8) (s : State) : Host.Outcome State Fault Refusal :=
  floatSign d a (fun sign x => if x < sign then x + sign else x - sign) s
/-- VFABS (R281). -/
def execVfabs (d a : BitVec 8) (s : State) : Host.Outcome State Fault Refusal :=
  floatSign d a (fun sign x => if x < sign then x else x - sign) s
/-- VRCP (R281, R282). -/
def execVrcp (d a : BitVec 8) (s : State) : Host.Outcome State Fault Refusal :=
  floatFun floatType d a (fun t rm sat x => fdiv t rm sat (.fin false 1 0) x) s
/-- VRSQRT (R281, R282). -/
def execVrsqrt (d a : BitVec 8) (s : State) : Host.Outcome State Fault Refusal := floatFun floatType d a frsqrt s
/-- VSQRT (R281, R282). -/
def execVsqrt (d a : BitVec 8) (s : State) : Host.Outcome State Fault Refusal := floatFun floatType d a fsqrt s
/-- VEXP2 (R281, R282). -/
def execVexp2 (d a : BitVec 8) (s : State) : Host.Outcome State Fault Refusal := floatFun floatNot64 d a fexp2 s
/-- VLOG2 (R281, R282). -/
def execVlog2 (d a : BitVec 8) (s : State) : Host.Outcome State Fault Refusal := floatFun floatNot64 d a flog2 s
/-- VSIN (R281, R282). -/
def execVsin (d a : BitVec 8) (s : State) : Host.Outcome State Fault Refusal := floatFun floatNot64 d a fsin s
/-- VCOS (R281, R282). -/
def execVcos (d a : BitVec 8) (s : State) : Host.Outcome State Fault Refusal := floatFun floatNot64 d a fcos s
/-- VTANH (R281, R282). -/
def execVtanh (d a : BitVec 8) (s : State) : Host.Outcome State Fault Refusal := floatFun floatNot64 d a ftanh s

/-! ### Conversion (R283) -/

/-- The largest value of MXINT8 and of E2M1 and the smallest, for infinite sources: the clamped codes of R283. -/
def infTo (t : Elem) (sat neg : Bool) : Nat :=
  match t with
  | .e4m3 => if sat then (if neg then 0xFE else 0x7E) else 0x7F
  | .e2m1 => if neg then 0xF else 0x7
  | .mxi8 => if neg then 0x80 else 0x7F
  | _ => t.pattern (.inf neg)

/-- An integer result of a conversion, extended by the signedness of the result type. -/
def intTo (t : Elem) (v : Int) : DWord := BitVec.ofInt 64 (if t.isSigned then signedNat t.width (wrapInt t.width v) else (wrapInt t.width v : Nat))

/-- VCVT on one lane (R283): result type, source type, MODE.RM, MODE.SAT, MODE.FTZ. -/
def convert (t u : Elem) (rm : Rm) (sat ftz : Bool) (x : Nat) : DWord :=
  let v := (u.value x).flush u ftz
  if t.isInt then
    match v with
    | .nan => 0#64
    | .inf neg => intTo t (clampInt t.width t.isSigned (if neg then -(2 ^ 64 : Int) else 2 ^ 64))
    | .fin neg m e =>
      if u.isInt then
        let i : Int := if neg then -(m : Int) else m
        intTo t (if sat then clampInt t.width t.isSigned i else i)
      else intTo t (clampInt t.width t.isSigned (FVal.toIntRound rm (.fin neg m e)))
  else
    match v with
    | .nan => BitVec.ofNat 64 t.canonNan
    | .inf neg => BitVec.ofNat 64 (infTo t sat neg)
    | .fin neg m e => BitVec.ofNat 64 (t.pattern (((FVal.fin neg m e).round t rm sat).flush t ftz))

/-- VCVT (R283). -/
def execVcvt (d a : BitVec 8) (t : BitVec 4) (u : BitVec 4) (s : State) : Host.Outcome State Fault Refusal :=
  perLane1 (Elem.ofCode t).isPair (Elem.ofCode u).isPair d a anyType
    (fun w x => convert (Elem.ofCode t) (Elem.ofCode u) (modeRm w) (modeSat w) (modeFtz w) x.toNat) s

/-! ### Scaled quantisation (R285 to R287) -/

/-- The lanes of the half of a lane that are active (R285). -/
def halfLanes (m : Mask) (l : Fin 64) : List (Fin 64) := (laneList m).filter fun k => k.val / 32 = l.val / 32

/-- VMXSCALE (R285). -/
def execVmxscale (d a : BitVec 8) (s : State) : Host.Outcome State Fault Refusal :=
  issue { rap := .no, opds := [vdst d false, .vsrc a false] } s fun s =>
    match codedType s.w with
    | .error e => .error e
    | .ok _ =>
      match readV s false a with
      | .error e => .error e
      | .ok (s, x) =>
        let out : Src := fun l =>
          let ls := halfLanes (active s.w) l
          scalarOut (ls.map x) ((scaleOf (modeEt s.w) (ls.map fun k => Elem.f32.value (x k).val.toNat)).setWidth 64)
        .ok (advance { s with w := writeV s.w false d (active s.w) out })

/-- VMXQ (R286). -/
def execVmxq (d a b : BitVec 8) (s : State) : Host.Outcome State Fault Refusal :=
  perLane2 false d a b codedType
    (fun w x y => BitVec.ofNat 64 (codeOf (modeEt w) (y.setWidth 8) (Elem.f32.value x.toNat))) s

/-- VMXDQ (R287): F32, rounded under RNE with subnormals kept, infinite beyond F32 range. -/
def execVmxdq (d a b : BitVec 8) (s : State) : Host.Outcome State Fault Refusal :=
  perLane2 false d a b codedType
    (fun w x y => BitVec.ofNat 64 (Elem.f32.pattern ((codeValue (modeEt w) (y.setWidth 8) x.toNat).round .f32 .rne false))) s

end Sys2Proof.Machine
end

