-- ==== Sys2Proof/Machine/Accum.lean ====
section
/-!
DEFINITION. The accumulator instructions (spec/13, R346 to R354). Each takes effect after every earlier matrix and accumulator instruction
of its warp (R337), and is tracked until MATRIX_COMPLETE applies it (R338).
-/
namespace Sys2Proof.Machine

/-! ### Shared parts -/

/-- An accumulator instruction issued: the front end, then the wait for the earlier work of the warp (R337). -/
def accIssue (opds : List Opd) (s : State) (k : State → Run State) (h : BitVec 4 := 0#4) : Host.Outcome State Fault Refusal :=
  issue { rap := .no, opds := opds, hreg := h } s fun s => if s.w.mat.isSome then park .scoreboard else k s

/-- The effect of an accumulator instruction, tracked until it is applied. -/
def accEffect (s : State) (c : Fin 4) (tile : Acc) (rows : Vector RowState 64) (zeros : Nat) : State :=
  let f := stFlag s.w
  advance { s with w := flagInc { s.w with
    mat := some { acc := c, tile := tile, rowState := rows, zeroAdd := zeros, form := 3#2, done := 0#8, since := s.clk, step := 8, flag := f } } f }

/-- The rows of a mask replaced. -/
def accRows (a : Acc) (m : Mask) (f : Fin 64 → AccRow → AccRow) : Acc :=
  { a with rows := lanesOf fun r => if m.getLsbD r then f r a.rows[r] else a.rows[r] }
/-- The row states of a mask replaced. -/
def stateRows (v : Vector RowState 64) (m : Mask) (f : Fin 64 → RowState → RowState) : Vector RowState 64 :=
  lanesOf fun r => if m.getLsbD r then f r v[r] else v[r]

/-- The FP32 value of an element, and the pattern of a value rounded to FP32 under RNE. -/
def f32Of (x : DWord) : FVal := Elem.f32.value (x.toNat % 2 ^ 32)
def f32Round (x : FVal) : FVal := x.round .f32 .rne false
def f32Bits (x : FVal) : DWord := BitVec.ofNat 64 (Elem.f32.pattern (f32Round x))
def f32Word (x : FVal) : Word := BitVec.ofNat 32 (Elem.f32.pattern (f32Round x))
/-- The columns of a row as values. -/
def rowVals (r : AccRow) : List FVal := (List.finRange 64).map fun (c : Fin 64) => f32Of r.elems[c]

/-- The poison of the first poisoned source. -/
def firstCode : List (Bool × Byte) → Bool × Byte
  | [] => (false, 0#8)
  | (p, c) :: t => if p then (true, c) else firstCode t

/-! ### ACCZ (R347) -/

/-- ACCZ (R347). -/
def execAccz (c : BitVec 2) (s : State) : Host.Outcome State Fault Refusal :=
  accIssue [] s fun s =>
    let m := active s.w
    if m = 0#64 then .ok (advance s)
    else
      let a := accRows { s.w.acc[c.toFin] with f64 := modeEt s.w = .f64 } m fun _ _ => AccRow.zero
      .ok (accEffect s c.toFin a (stateRows s.w.rowState m fun _ _ => RowState.launch) 0)

/-! ### Tiles of ACCLD and ACCST (R348 to R350) -/

/-- What a handle of an accumulator transfer holds. -/
inductive AccCase where
  | state | dense | attar
  deriving DecidableEq, Repr

/-- The kind of transfer, and the tag that a load gives; `none` for any other handle (R348 to R350). -/
def accCase (e : BitVec 512) (f64 : Bool) (c : Fin 4) (store : Bool) : Option (AccCase × Bool) :=
  let t0 := hTile e 0
  let t := hType e
  if hRank e = 0 || hTile e 1 ≠ 64 || 1 < hTile e 2 || 1 < hTile e 3 then none
  else if !hAttar e && t = .f32 && t0 = 4 then (if c = 0 then some (.state, f64) else none)
  else if store then
    (if t0 ≠ (if f64 then 32 else 64) then none
    else if hAttar e then some (.attar, f64)
    else if t = .f64 || t = .f32 || t = .f16 || t = .bf16 || t = .e4m3 || t = .e5m2 || t = .e2m1 || t = .mxi8 then some (.dense, f64)
    else none)
  else if hAttar e then (if t0 = 64 then some (.attar, false) else none)
  else if (t = .f32 || t = .f16 || t = .bf16) && t0 = 64 then some (.dense, false)
  else if t = .f64 && t0 = 32 then some (.dense, true)
  else none

/-- The checks of an accumulator transfer up to its shape, in the order of R341. -/
def accChecks (s : State) (c : Fin 4) (n : BitVec 4) (i : BitVec 6) (store : Bool) : Run (AccCase × Bool × List Nat) :=
  let h := handleAt s.w n
  match coordPair s.w (i.setWidth 8) with
  | .inl code => consume code none
  | .inr co =>
    match handleFault h store false with
    | some (code, dt) => .error (.trap { code := code, detail := dt, hreg := n })
    | none =>
      if store && !h.writable then .error (.trap { code := cProtection, detail := 0x00, hreg := n })
      else
        match accCase h.entry s.w.acc[c].f64 c store with
        | none => .error (.trap { code := cIllegalInstruction, detail := 0x84, hreg := n })
        | some k => .ok (k.1, k.2, co)

/-! ### ACCLD (R348, R350) -/

/-- What a row of a loaded tile receives: its patterns, or the fault that poisons it. -/
inductive RowLoad where
  | vals (v : List DWord)
  | fault (code detail : Byte) (va : VA)
  deriving DecidableEq, Repr

/-- The rows of a dense tile read one after another; a fault poisons its row alone (R348). -/
def loadRows (r : Reader) (h : Handle) (co : List Nat) (exact : Nat → DWord) : List (Fin 64) → State → Run (State × List (Fin 64 × RowLoad))
  | [], s => .ok (s, [])
  | l :: t, s =>
    let t0 := hTile h.entry 0
    let put := fun (s : State) (x : RowLoad) => match loadRows r h co exact t s with
      | .error e => .error e
      | .ok (s, rest) => .ok (s, (l, x) :: rest)
    match denseElems r h ((List.range t0).map fun c => elemPos h.entry co (c + t0 * l.val)) s with
    | .ok (s, vs) => put s (.vals (vs.map exact))
    | .error (.wait p) => park p
    | .error (.fault code dt va) => put s (.fault code dt va)
    | .error (.stream f) => put s (.fault f.code f.detail 0#80)
    | .error (.poisoned code) => put s (.fault code 0x00 0#80)

/-- The pattern that a dense element gives the accumulator: exact (R348). -/
def accExact (t : Elem) (v : Nat) : DWord :=
  if t = .f16 || t = .bf16 then BitVec.ofNat 64 (Elem.f32.pattern (t.value v)) else BitVec.ofNat 64 v

/-- A poisoned tile under MODE.SP (R104, R348). -/
def accPoisoned (s : State) (n : BitVec 4) (code : Byte) : Run (State × List (Fin 64 × RowLoad)) :=
  if modeSp s.w then .error (.trap { code := code, detail := 0x00, hreg := n })
  else .ok (s, (laneList (active s.w)).map fun l => (l, .fault code 0x00 0#80))

/-- The active rows of the tile that ACCLD names. -/
def accRead (s : State) (k : AccCase) (n : BitVec 4) (h : Handle) (co : List Nat) : Run (State × List (Fin 64 × RowLoad)) :=
  let r := warpReader s n h
  let ls := laneList (active s.w)
  if k = .attar then
    match tileElems r h co s with
    | .error (.wait p) => park p
    | .error (.stream f) => .error (.trap (streamTrap n co f))
    | .error (.fault code dt va) => .error (.trap { code := code, detail := dt, va := va, hreg := n })
    | .error (.poisoned code) => accPoisoned s n code
    | .ok (s, codes, scales) =>
      let cs := ((codes.zip (tilePositions h.entry co)).map fun q => (q.1, q.2.isSome)).toArray
      let sc := scales.toArray
      .ok (s, ls.map fun l => (l, .vals ((List.range 64).map fun c =>
        let x := cs.getD (c + 64 * l.val) (0, false)
        if x.2 then BitVec.ofNat 64 (dequant (hType h.entry) (sc.getD ((c + 64 * l.val) / 32) 0#8) x.1) else 0#64)))
  else
    let span := denseSpan h.entry (tilePositions h.entry co)
    match nameTiles s h span.1 span.2 with
    | .error (.wait p) => park p
    | .error _ => park .tile
    | .ok true => accPoisoned s n cTilePoison
    | .ok false => loadRows r h co (accExact (hType h.entry)) ls s

/-- The row that a load leaves: clean, or poisoned with the code as its value (R64, R65). -/
def loadedRow (old : AccRow) : RowLoad → AccRow
  | .vals v => { elems := lanesOf fun c => v.getD c.val old.elems[c], poison := false, code := 0#8 }
  | .fault code _ _ => { elems := Vector.replicate 64 (code.setWidth 64), poison := true, code := code }

/-- The row state that a load leaves (R350). -/
def loadedState (old : RowState) : RowLoad → RowState
  | .vals v =>
    let x := fun i => (v.getD i 0#64).setWidth 32
    { max := x 0, sum := x 1, sumc := x 2, corr := x 3, poison := false, code := 0#8 }
  | .fault code _ _ => { old with poison := true, code := code }

/-- The deferred faults of a load's rows in the origin record (R67). -/
def rowOrigins (w : Warp) (rows : List (Fin 64 × RowLoad)) : Warp :=
  { w with porig := rows.foldl (fun r x => match x.2 with
      | .fault c d va => originAdd r c d x.1.val va w.pc
      | .vals _ => r) w.porig }

/-- ACCLD (R348, R350): a load of the warp. -/
def execAccld (c : BitVec 2) (h : BitVec 4) (i : BitVec 6) (s : State) : Host.Outcome State Fault Refusal :=
  accIssue [.sregs (i.setWidth 8) 2] s (h := h) fun s =>
    match accChecks s c.toFin h i false with
    | .error e => .error e
    | .ok (k, f64, co) =>
      let b := handleAt s.w h
      if !coordValid b.entry co then .error (.trap { code := cHandleBounds, detail := 0x00, hreg := h })
      else if active s.w = 0#64 then .ok (advance s)
      else
        match readReady s 64 with
        | .error e => .error e
        | .ok _ =>
          match accRead s k h b co with
          | .error e => .error e
          | .ok (s, rows) =>
            let s := { s with w := rowOrigins s.w rows }
            let a := s.w.acc[c.toFin]
            let get := fun (l : Fin 64) => (rows.find? fun x => x.1 = l).map (·.2)
            if k = .state then
              .ok (accEffect s c.toFin a (stateRows s.w.rowState (active s.w) fun l r => ((get l).map (loadedState r)).getD r) 0)
            else
              .ok (accEffect s c.toFin (accRows { a with f64 := f64 } (active s.w) fun l r => ((get l).map (loadedRow r)).getD r) s.w.rowState 0)

/-! ### ACCST (R349, R350) -/

/-- The poisoned rows among those to be written: the code of the lowest, and their mask. -/
def storedPoison (rows : List (Fin 64)) (f : Fin 64 → Bool × Byte) : Option (Byte × Mask) :=
  let bad := rows.filter fun r => (f r).1
  bad.head?.map fun r => ((f r).2, maskOf (bad.map (·.val)))

/-- The four words of a row's state (R350). -/
def RowState.words (r : RowState) : List Word := [r.max, r.sum, r.sumc, r.corr]

/-- The dense writes of ACCST: the elements of the active rows, converted as vcvt converts them (R349, R350). -/
def accWrites (w : Warp) (k : AccCase) (a : Acc) (e : BitVec 512) (co : List Nat) : List (Nat × List Byte) :=
  let t0 := hTile e 0
  let conv := fun (x : DWord) => (convert (hType e) (tagElem a.f64) (modeRm w) (modeSat w) (modeFtz w) x.toNat).toNat % 2 ^ (hType e).width
  denseWrites e ((laneList (active w)).flatMap fun l => (List.range t0).map fun c =>
    (elemPos e co (c + t0 * l.val),
      if k = .state then (w.rowState[l].words.getD c 0#32).toNat else conv (a.rows[l].elems.toList.getD c 0#64)))

/-- The codes and scales of an Attar store: a value-mode encode of the elements in FP32 (R349, R83). -/
def accQuant (a : Acc) (e : BitVec 512) (co : List Nat) : List Nat × List Byte :=
  let t0 := hTile e 0
  let edges := ((tilePositions e co).map Option.isNone).toArray
  let vals := (List.finRange 64).flatMap fun (r : Fin 64) => (List.range t0).map fun c =>
    let v := (tagElem a.f64).value (a.rows[r].elems.toList.getD c 0#64).toNat
    if a.f64 then f32Round v else v
  quantTile (hType e) vals fun i => edges.getD i false

/-- ACCST (R349, R350, R306): a store of the warp. -/
def execAccst (c : BitVec 2) (h : BitVec 4) (i : BitVec 6) (s : State) : Host.Outcome State Fault Refusal :=
  accIssue [.sregs (i.setWidth 8) 2] s (h := h) fun s =>
    match accChecks s c.toFin h i true with
    | .error e => .error e
    | .ok (k, _, co) =>
      let b := handleAt s.w h
      let a := s.w.acc[c.toFin]
      let ls := if k = .attar then List.finRange 64 else laneList (active s.w)
      let ls := if active s.w = 0#64 then [] else ls
      match storedPoison ls (fun r => if k = .state then (s.w.rowState[r].poison, s.w.rowState[r].code) else (a.rows[r].poison, a.rows[r].code)) with
      | some (code, m) => consume code (some m)
      | none =>
        if !coordValid b.entry co then .error (.trap { code := cHandleBounds, detail := 0x00, hreg := h })
        else if active s.w = 0#64 then .ok (advance s)
        else
          match memReady s with
          | .error e => .error e
          | .ok _ =>
            match (if k = .attar then storeAttar h b co (accQuant a b.entry co).1 (accQuant a b.entry co).2 s
              else storeDense h b (accWrites s.w k a b.entry co) s) with
            | .error e => .error e
            | .ok (s, ws) => pushStore s .store ws h none

/-! ### ACCG (R351, R197) -/

/-- A warp waits at an ACCG. -/
def atAccg (w : Warp) : Option MatReq := if w.status = .parked .accg then w.matReq else none

/-- The request of an ACCG: its accumulator and the value of sG. -/
def accgRequest (w : Warp) (c : Fin 4) (g : DWord) : MatReq :=
  { id := 0, paired := false, reads := [], form := 3#2, acc := c, z := false, handleA := Handle.unbound, handleB := Handle.unbound,
    hregA := 0#4, hregB := 0#4, coordA := [], coordB := [], diag := g, fill := 0#64, active := active w, skip := 0#64, flag := stFlag w, pc := w.pc }

/-- The guided element (R351): the inner value exact, one rounding. -/
def guided (t : Elem) (u c g : FVal) : DWord := BitVec.ofNat 64 (t.pattern ((u.add .rne (g.mul (c.add .rne u.neg))).round t .rne false))

/-- The conditional twin's tile after ACCG. -/
def accgTile (u c : Acc) (q : MatReq) : Acc :=
  let t := tagElem c.f64
  let n := 2 ^ t.width
  accRows c q.active fun r old =>
    let p := firstCode [(u.rows[r].poison, u.rows[r].code), (old.poison, old.code)]
    { elems := lanesOf fun k => if c.f64 && 32 ≤ k.val then old.elems[k]
        else guided t (t.value (u.rows[r].elems[k].toNat % n)) (t.value (old.elems[k].toNat % n)) (t.value (q.diag.toNat % n))
      poison := p.1, code := p.2 }

/-- The unconditional twin's ACCG done. -/
def accgDone (s : State) (q : MatReq) : State := advance (dropReq s q)
/-- The conditional twin's ACCG done: its tile will be applied. -/
def accgApply (s : State) (q : MatReq) (tile : Acc) : State :=
  advance { s with w := { s.w with matReq := none, status := .running, mat := some { acc := q.acc, tile := tile, rowState := s.w.rowState,
                                                                                      zeroAdd := 0, form := 3#2, done := 0#8, since := s.clk, step := 8, flag := q.flag } } }

/-- The twin in focus and its partner, which both wait at an ACCG, go on or fault together (R351). -/
def accgPair (s : State) (q : MatReq) (p : Warp) (q2 : MatReq) : State :=
  let back := s.w.wid
  let a := s.w.acc[q.acc]
  let b := p.acc[q2.acc]
  if a.f64 ≠ b.f64 then
    let f : TrapInfo := { code := cIllegalInstruction, detail := 0x82 }
    focusOn (takeTrap (dropReq (focusOn (takeTrap (dropReq s q) f) p.wid) q2) f) back
  else if s.w.twin then focusOn (accgDone (focusOn (accgApply s q (accgTile b a q)) p.wid) q2) back
  else focusOn (accgApply (focusOn (accgDone s q) p.wid) q2 (accgTile a b q2)) back

/-- A twin at its ACCG: it faults once its partner has ended, goes on with a partner that waits at one, and else waits (R197). -/
def accgDecide (s : State) (q : MatReq) : State :=
  match partnerOf s with
  | none => takeTrap (dropReq s q) { code := cIllegalInstruction, detail := 0x51 }
  | some p =>
    if p.status = .done then takeTrap (dropReq s q) { code := cIllegalInstruction, detail := 0x51 }
    else
      match atAccg p with
      | some q2 => accgPair s q p q2
      | none => { s with turn := 0 }

/-- ACCG (R351). -/
def execAccg (c : BitVec 2) (g : BitVec 6) (s : State) : Host.Outcome State Fault Refusal :=
  accIssue [.ssrc (g.setWidth 8)] s fun s =>
    match atAccg s.w with
    | some q => .ok (accgDecide s q)
    | none =>
      if !s.b.accord then trap cIllegalInstruction 0x50
      else
        let x := sReg s.w (Fin.ofNat 64 g.toNat)
        match consumeS x with
        | .error e => .error e
        | .ok _ =>
          let q := accgRequest s.w c.toFin x.val
          .ok (accgDecide { s with w := flagInc { waiting s.w .accg with matReq := some q } q.flag } q)

/-! ### ACCMAX (R352) -/

/-- σ times an element, rounded. -/
def scaledElem (sigma : FVal) (x : DWord) : FVal := f32Round (sigma.mul (f32Of x))

/-- The row state that ACCMAX leaves for a row. -/
def maxState (sigma : FVal) (a : AccRow) (r : RowState) : RowState :=
  let x := ((List.finRange 64).map fun (c : Fin 64) => scaledElem sigma a.elems[c]).foldl FVal.maxNan (.inf true)
  let m := Elem.f32.value r.max.toNat
  let n := m.maxNan x
  let corr := match n with
    | .nan => FVal.nan
    | _ => if m.eqv n then .fin false 1 0 else fexp2 .f32 .rne false (m.add .rne n.neg)
  { r with max := f32Word n, corr := f32Word corr, poison := a.poison, code := a.code }

/-- Forms 4 to 6 read a scalar and require the tag F32 (R346). -/
def accScalar (tags : List Bool) (f : BitVec 6) (s : State) : Run DWord :=
  let x := sReg s.w (Fin.ofNat 64 f.toNat)
  match consumeS x with
  | .error e => .error e
  | .ok _ => if tags.any id then trap cIllegalInstruction 0x82 else .ok x.val

/-- ACCMAX (R352). -/
def execAccmax (c : BitVec 2) (f : BitVec 6) (s : State) : Host.Outcome State Fault Refusal :=
  accIssue [.ssrc (f.setWidth 8)] s fun s =>
    let a := s.w.acc[c.toFin]
    match accScalar [a.f64] f s with
    | .error e => .error e
    | .ok x =>
      if active s.w = 0#64 then .ok (advance s)
      else .ok (accEffect s c.toFin a (stateRows s.w.rowState (active s.w) fun l r => maxState (f32Of x) a.rows[l] r) 0)

/-! ### ACCEXP (R353) -/

/-- p[c] of R353: zero, beyond quantising (NaN or ∞), or the exact real (m + δ)·2^e with floor(log2) `top`. -/
inductive Prob where
  | zero
  | bad
  | pow (m : Nat) (e : Int) (sticky : Bool) (top : Int)
  deriving DecidableEq, Repr

/-- 2^d exactly, as a fixed-point number with its remainder (R353). -/
def probPow (s : Bool) (m : Nat) (e : Int) : Prob :=
  let k := splitFix s m e
  let t := max (min k.1 5000) (-5000)
  if k.2 = 0 then .pow 1 t false t else .pow (expFix (k.2 * ln2Fix / 2 ^ prec)) (t - prec) true t

/-- p[c] from y and MAX. -/
def probOf (y mx : FVal) : Prob :=
  if y = .inf true || mx = .inf true then .zero
  else
    match y.add .rne mx.neg with
    | .nan => .bad
    | .inf n => if n then .zero else .bad
    | .fin s m e => probPow s m e

/-- floor(log2) of a probability, and whether it makes its block NaN. -/
def Prob.top : Prob → Option Int
  | .pow _ _ _ t => some t
  | _ => none

/-- The scale byte of a block of 32 probabilities (R353, R83). -/
def probScale (ps : List Prob) : Byte :=
  scaleFrom .e4m3 (ps.any (· = .bad)) ((ps.filterMap Prob.top).foldl (fun r k => some (match r with
    | some q => max q k
    | none => k)) none)

/-- The E4M3 code of a probability under a scale byte. -/
def Prob.code (scale : Byte) : Prob → Nat
  | .pow m e sticky _ => codeOfParts .e4m3 scale false m e sticky
  | _ => 0

/-- The probabilities of a row. -/
def rowProbs (sigma : FVal) (a : AccRow) (mx : FVal) : List Prob :=
  (List.finRange 64).map fun (c : Fin 64) => probOf (scaledElem sigma a.elems[c]) mx

/-- The codes of a row's 64 columns with their scale bytes. -/
def rowCodes (ps : List Prob) : List (Nat × Byte) :=
  [0, 1].flatMap fun b =>
    let blk := (ps.drop (32 * b)).take 32
    let sc := probScale blk
    blk.map fun p => (p.code sc, sc)

/-- The row that ACCEXP leaves: MAX is a source, so that the row state's poison joins the row's (R65). -/
def expRow (sigma : FVal) (a : AccRow) (r : RowState) : AccRow :=
  let q := (rowCodes (rowProbs sigma a (Elem.f32.value r.max.toNat))).toArray
  let p := firstCode [(a.poison, a.code), (r.poison, r.code)]
  { elems := lanesOf fun c => let x := q.getD c.val (0, 0#8); f32Bits (codeValue .e4m3 x.2 x.1), poison := p.1, code := p.2 }

/-- What a row adds to ZEROCNT. -/
def expZeros (sigma : FVal) (a : AccRow) (r : RowState) : Nat :=
  let ps := rowProbs sigma a (Elem.f32.value r.max.toNat)
  ((ps.zip (rowCodes ps)).filter fun q => q.1.top.isSome && q.2.1 = 0 && q.2.2 ≠ 0xFF#8).length

/-- ACCEXP (R353). -/
def execAccexp (c : BitVec 2) (f : BitVec 6) (s : State) : Host.Outcome State Fault Refusal :=
  accIssue [.ssrc (f.setWidth 8)] s fun s =>
    let a := s.w.acc[c.toFin]
    match accScalar [a.f64] f s with
    | .error e => .error e
    | .ok x =>
      let m := active s.w
      if m = 0#64 then .ok (advance s)
      else
        let zeros := ((laneList m).map fun (l : Fin 64) => expZeros (f32Of x) a.rows[l] s.w.rowState[l]).foldl (· + ·) 0
        .ok (accEffect s c.toFin (accRows a m fun l r => expRow (f32Of x) r s.w.rowState[l]) s.w.rowState zeros)

/-! ### ACCSUM (R354) -/

/-- two_sum of R354: the FP32 rounding and the exact remainder, +0 when the rounding is not finite. -/
def twoSum (a b : FVal) : FVal × FVal :=
  let x := a.add .rne b
  let r := f32Round x
  match r with
  | .fin .. => (r, f32Round (x.add .rne r.neg))
  | _ => (r, .fin false 0 0)

/-- SUM and SUMC after the column sums of R354: `cmp` is MODE.CMP. -/
def sumColumns (cmp : Bool) (k sum sumc : FVal) (cols : List FVal) : FVal × FVal :=
  let s := f32Round (sum.mul k)
  if cmp then
    let e := f32Round (sumc.mul k)
    let r := cols.foldl (fun (q : FVal × FVal) x => let t := twoSum q.1 x; (t.1, f32Round (q.2.add .rne t.2))) (s, e)
    twoSum r.1 r.2
  else (cols.foldl (fun q x => f32Round (q.add .rne x)) s, .fin false 0 0)

/-- The row and its state after SUM of R354; with `same`, aM is aN itself, already rescaled. -/
def sumRow (cmp same : Bool) (a m : AccRow) (r : RowState) : AccRow × RowState :=
  let k := Elem.f32.value r.corr.toNat
  let scaled := (rowVals a).map fun x => f32Round (x.mul k)
  let q := sumColumns cmp k (Elem.f32.value r.sum.toNat) (Elem.f32.value r.sumc.toNat) (if same then scaled else rowVals m)
  let p := firstCode [(a.poison, a.code), (r.poison, r.code), (m.poison, m.code)]
  let t := firstCode [(r.poison, r.code), (m.poison, m.code)]
  ({ elems := lanesOf fun c => f32Bits ((f32Of a.elems[c]).mul k), poison := p.1, code := p.2 },
   { r with sum := f32Word q.1, sumc := f32Word q.2, corr := 0x3F800000#32, poison := t.1, code := t.2 })

/-- The row after FIN of R354. -/
def finRow (a : AccRow) (r : RowState) : AccRow :=
  let l := f32Round ((Elem.f32.value r.sum.toNat).add .rne (Elem.f32.value r.sumc.toNat))
  let p := firstCode [(a.poison, a.code), (r.poison, r.code)]
  { elems := lanesOf fun c => BitVec.ofNat 64 (Elem.f32.pattern (fdiv .f32 .rne false (f32Of a.elems[c]) l)), poison := p.1, code := p.2 }

/-- The steps of R354 on one row. -/
def sumStep (opt : DWord) (cmp same : Bool) (a m : AccRow) (r : RowState) : AccRow × RowState :=
  let x := if opt.getLsbD 0 then sumRow cmp same a m r else (a, r)
  if opt.getLsbD 1 then (finRow x.1 x.2, x.2) else x

/-- ACCSUM (R354). -/
def execAccsum (c m : BitVec 2) (f : BitVec 6) (s : State) : Host.Outcome State Fault Refusal :=
  accIssue [.ssrc (f.setWidth 8)] s fun s =>
    let a := s.w.acc[c.toFin]
    let b := s.w.acc[m.toFin]
    match accScalar [a.f64, b.f64] f s with
    | .error e => .error e
    | .ok x =>
      if x.toNat / 4 ≠ 0 then trap cIllegalInstruction 0x83
      else if active s.w = 0#64 then .ok (advance s)
      else
        let q := fun (l : Fin 64) (r : AccRow) => sumStep x (modeCmp s.w) (c = m) r b.rows[l] s.w.rowState[l]
        .ok (accEffect s c.toFin (accRows a (active s.w) fun l r => (q l r).1)
          (stateRows s.w.rowState (active s.w) fun l _ => (q l a.rows[l]).2) 0)

end Sys2Proof.Machine
end

