-- ==== Sys2Proof/Machine/Barrier.lean ====
section
/-!
DEFINITION. Barriers (spec/12, R323, R324; spec/06, R151 to R154).
-/
namespace Sys2Proof.Machine

/-- COUNT, PHASE and REMAINING of a barrier word (R151). -/
def barCount (x : DWord) : Nat := bitsNat x 33 31
def barPhase (x : DWord) : Bool := x.getLsbD 32
def barLeft (x : DWord) : Nat := bitsNat x 0 32

/-- The word after an arrival of `n`, or the detail of ILLEGAL_ATOMIC (R152). -/
def barArrive (x : DWord) (n : Nat) : Except Byte DWord :=
  let cnt := barCount x
  let rem := barLeft x
  if cnt = 0 || rem = 0 || cnt < rem then .error 0x20
  else if n = 0 || rem < n then .error 0x21
  else if rem = n then .ok (BitVec.ofNat 64 (atBit 33 cnt + atBit 32 (!barPhase x).toNat + cnt))
  else .ok (x - BitVec.ofNat 64 n)

/-- The stash offset of the barrier word that an instruction names, after the checks of R323. RO = 1 of the handle is not among them, and the
model lets an arrive write through such a handle (log entry 38); a word in a mapped line, of whatever page, has detail 0x22 (log entry 39). -/
def barWord (s : State) (h : BitVec 4) (x : DWord) : Run Nat :=
  let b := handleAt s.w h
  let off := x.toNat % 2 ^ 32
  let at_ := hBase b.entry + off
  if !b.bound then .error (.trap { code := cHandleBounds, detail := 0x00, hreg := h })
  else if hSpace b.entry ≠ 1 then .error (.trap { code := cProtection, detail := 0x00, hreg := h })
  else if off % 8 ≠ 0 || at_ % 8 ≠ 0 then .error (.trap { code := cMisaligned, detail := 0x00, hreg := h })
  else if hLength b.entry < off + 8 then .error (.trap { code := cHandleBounds, detail := 0x18, hreg := h })
  else if (smapOf s.b (at_ / 128)).isSome then .error (.trap { code := cIllegalAtomic, detail := 0x22, hreg := h })
  else .ok at_

/-- The place of an unmapped stash word. -/
def stashAt (off : Nat) : Place := stashPlace off 0 0#2 0

/-- The stash line of a word is in the data store, read back where it had been taken (R101). -/
def stashHere (s : State) (off : Nat) : Run State :=
  match stashReturn s (off / 128) with
  | some s => .ok s
  | none => park .splinter

/-- An arrival (R152, R154, R324): a release at block scope; with no active lane it returns the current PHASE. Its faults of R152 are precise
and depend on the word, so the arrival is performed before the warp goes on. -/
def arriveForm (d a : Byte) (h : BitVec 4) (many : Bool) (s : State) : Host.Outcome State Fault Refusal :=
  issue { rap := .no, opds := [.sdst d, .ssrc a], hreg := h } s fun s =>
    match readS s a with
    | .error e => .error e
    | .ok (s, x) =>
      match consumeS x with
      | .error e => .error e
      | .ok _ =>
        match barWord s h x.val with
        | .error e => .error e
        | .ok off =>
          match loadReady s with
          | .error e => .error e
          | .ok _ =>
            match awaitDrained s 1#3 with
            | .error e => .error e
            | .ok _ =>
            match stashHere s off with
            | .error e => .error e
            | .ok s =>
              let w := stashWord s.b off
              let job : List LaneJob := [⟨0, .value (BitVec.ofNat 64 (barPhase w).toNat)⟩]
              if active s.w = 0#64 then .ok (pendLoad s (.scalar d.toNat 8 false) [] job false)
              else
                match barArrive w (if many then bitsNat x.val 32 32 else 1) with
                | .error c => .error (.trap { code := cIllegalAtomic, detail := c, hreg := h })
                | .ok new =>
                  let t := wakeBarriers s.b (storeAt s s.w.core.toNat (stashAt off) (bytesOfNat 8 new.toNat))
                  .ok (pendLoad t (.scalar d.toNat 8 false) [] job false)

/-- BAR.ARRIVE (R324). -/
def execBarArrive (d a : BitVec 8) (h : BitVec 4) (s : State) : Host.Outcome State Fault Refusal := arriveForm d a h false s
/-- BAR.ARRIVE.N (R324). -/
def execBarArriveN (d a : BitVec 8) (h : BitVec 4) (s : State) : Host.Outcome State Fault Refusal := arriveForm d a h true s

/-- BAR.WAIT (R153, R324). -/
def execBarWait (d a : BitVec 8) (h : BitVec 4) (s : State) : Host.Outcome State Fault Refusal :=
  issue { rap := .no, opds := [.ssrc d, .ssrc a], hreg := h } s fun s =>
    match readS s a with
    | .error e => .error e
    | .ok (s, x) =>
      match consumeS x with
      | .error e => .error e
      | .ok _ =>
        match readS s d with
        | .error e => .error e
        | .ok (s, y) =>
          match consumeS y with
          | .error e => .error e
          | .ok _ =>
            match barWord s h x.val with
            | .error e => .error e
            | .ok off =>
              if active s.w = 0#64 || s.w.woken then .ok (advance s)
              else
                match loadReady s with
                | .error e => .error e
                | .ok _ =>
                  if (List.range 8).any fun i => forwardByte (stashAt off) i s.w.stores.reverse ≠ .none then park .storeQueue
                  else if barPhase (stashWord s.b off) ≠ y.val.getLsbD 0 then .ok (advance s)
                  else park (.barrier off (y.val.getLsbD 0))

end Sys2Proof.Machine
end

