-- ==== Sys2Proof/Machine/Engine.lean ====
section
/-!
DEFINITION. How an engine command runs (spec/13, R361 to R366): its references, the reads and writes of its path (spec/06, R128, R139),
and the functions of the copy engines and the tensor encoders. A command makes all its reads and then all its writes when it
completes, which R116 and R130 allow; one that ends with a fault has written nothing.
-/
namespace Sys2Proof.Machine

/-! ### Ends of a command -/

/-- A command that does not reach its effect: it ends with a status, or it waits. `dest` are the stash bytes that it had begun to fill. -/
inductive CmdStop where
  | status (code detail : Byte) (info : Nat) (dest : List (Nat × Nat))
  | wait (p : Park) (dest : List (Nat × Nat))
  deriving DecidableEq, Repr

/-- A computation of a command. -/
abbrev CmdRun (α : Type) := Except CmdStop α

/-- What a command does when it completes: its status, its writes in order, and the stash bytes that it has filled, each with the code
when they are poisoned (R103), or begun to fill when a fault stopped it. -/
structure CmdPlan where
  code : Byte
  detail : Byte
  info : Nat
  writes : List (Place × List Byte)
  regions : List (Nat × Nat × Option Byte)
  spoiled : List (Nat × Nat) := []
  deriving DecidableEq, Repr

/-- A command that succeeds (R362). -/
def CmdPlan.done (info : Nat) (writes : List (Place × List Byte)) (regions : List (Nat × Nat × Option Byte)) : CmdPlan :=
  { code := 0x00, detail := 0x00, info := info, writes := writes, regions := regions }

/-- The end with a fault, before any destination is filled. -/
def cmdFault {α : Type} (code detail : Byte) : CmdRun α := .error (.status code detail 0 [])

/-- The fault unless a condition holds. -/
def cmdRequire (ok : Bool) (code detail : Byte) : CmdRun Unit := if ok then .ok () else cmdFault code detail

/-- A malformed operand (R362). -/
def malformed : Byte × Byte := (cIllegalInstruction, 0xA0)

/-- What stops a computation stops it while it fills a destination. -/
def filling {α : Type} (dest : List (Nat × Nat)) : CmdRun α → CmdRun α
  | .ok x => .ok x
  | .error (.status c d i _) => .error (.status c d i dest)
  | .error (.wait p _) => .error (.wait p dest)

/-- The status doubleword (R362). -/
def statusWord (code detail : Byte) (info : Nat) : DWord := BitVec.ofNat 64 (atBit 56 code.toNat + atBit 48 detail.toNat + info % 2 ^ 48)

/-- INFO of a stream fault (R362). -/
def streamInfo (tile : Nat) (f : StreamFault) : Nat := atBit 44 f.sub + atBit 24 (f.bit % 2 ^ 20) + tile % 2 ^ 24

/-- A read of a tile as a command makes it. -/
def ofReading {α : Type} (tile : Nat) : Reading α → CmdRun α
  | .ok x => .ok x
  | .error (.fault c d _) => cmdFault c d
  | .error (.stream f) => .error (.status f.code f.detail (streamInfo tile f) [])
  | .error (.poisoned c) => cmdFault c 0x01
  | .error (.wait p) => .error (.wait p [])

/-- A step of the warp's kind (a binding) as a command makes it. -/
def ofRun {α : Type} : Run α → CmdRun α
  | .ok x => .ok x
  | .error (.trap t) => cmdFault t.code t.detail
  | .error (.wait p) => .error (.wait p [])

/-! ### References (R361) -/

/-- HSEL and OFF. -/
def refSel (x : DWord) : Nat := bitsNat x 48 16
def refOff (x : DWord) : Nat := bitsNat x 0 48

/-- The binding of a selector: a register captured at issue, or a table entry bound when the command starts (R361). -/
def bindSel (c : Cmd) (sel : Nat) (s : State) : CmdRun (State × Handle) :=
  match c.issuer with
  | .warp _ =>
    let h := c.handles.getD sel Handle.unbound
    if h.bound then .ok (s, h) else cmdFault cHandleBounds 0x00
  | .node _ =>
    match ofRun (bindEntry s sel) with
    | .error e => .error e
    | .ok (s, h) => if hSpace h.entry = 1 then cmdFault cProtection 0x09 else .ok (s, h)

/-- The object is of the kind that its operand needs: a space that admits the access (R23, R32), Attar or not (R362). -/
def needObject (h : Handle) (write attar : Bool) : CmdRun Unit :=
  if 3 ≤ hSpace h.entry || (write && (hSpace h.entry = 2 || !h.writable)) then cmdFault cProtection 0x00
  else cmdRequire (hAttar h.entry = attar) cProtection 0x08

/-- Bytes lie inside the object (R36). -/
def needRange (h : Handle) (off n : Nat) : CmdRun Unit := cmdRequire (off + n ≤ hLength h.entry) cHandleBounds 0x00

/-- A tile index is valid (R42). -/
def needTile (h : Handle) (n : Nat) : CmdRun Unit := cmdRequire (n < (handleQuery h 8#4).toNat) cHandleBounds 0x00

/-- The coordinates of a linear tile index (R42). -/
def coordsAt (e : BitVec 512) (n : Nat) : List Nat :=
  let g := fun i => orOne (hGrid e i)
  [n % g 0, n / g 0 % g 1, n / (g 0 * g 1) % g 2, n / (g 0 * g 1 * g 2)]

/-- The stash bytes that `n` bytes at an offset are. -/
def stashBytesOf (h : Handle) (off n : Nat) : List (Nat × Nat) := if hSpace h.entry = 1 && n ≠ 0 then [(hBase h.entry + off, n)] else []

/-- The stash bytes that a write fills, clean or poisoned. -/
def filledBy (h : Handle) (off n : Nat) (poison : Option Byte) : List (Nat × Nat × Option Byte) :=
  (stashBytesOf h off n).map fun p => (p.1, p.2, poison)

/-- The code of a poisoned fill (R103, R365). -/
def poisonIf (b : Bool) : Option Byte := if b then some cTilePoison else none

/-! ### Reads and writes of a command -/

/-- Bytes read at an offset of an object, and whether a tile that they name is poisoned (R104). -/
def readObject (r : Reader) (h : Handle) (off n : Nat) (s : State) : CmdRun (State × List Byte × Bool) :=
  match ofReading 0 (nameTiles s h off n) with
  | .error e => .error e
  | .ok bad =>
    match ofReading 0 (readHandle r h off n s) with
    | .error e => .error e
    | .ok (s, bs) => .ok (s, bs, bad)

/-- Bytes to be written, each run of one line at its place once the home admits it. -/
def planParts (f : State → Nat → Resolved) (data : List Byte) : List (Nat × Nat) → State → CmdRun (State × List (Place × List Byte))
  | [], s => .ok (s, [])
  | (o, n) :: t, s =>
    match f s o with
    | .fault c d _ => cmdFault c d
    | .stall => .error (.wait .splinter [])
    | .ok s p =>
      match storeRefused s p with
      | some (c, d) => cmdFault c d
      | none =>
        if homeStalls s.m p then .error (.wait .splinter [])
        else
          match planParts f data t s with
          | .error e => .error e
          | .ok (s, rest) => .ok (s, (p, (data.drop o).take n) :: rest)

/-- Bytes to be written at an offset of an object. -/
def planObject (h : Handle) (off : Nat) (data : List Byte) (s : State) : CmdRun (State × List (Place × List Byte)) :=
  planParts (fun s o => resolveByte s h .store (off + o)) data (chunks 128 (hBase h.entry + off) data.length) s

/-- Bytes to be written at a VA. -/
def planVa (va : Nat) (data : List Byte) (s : State) : CmdRun (State × List (Place × List Byte)) :=
  planParts (fun s o => resolveVa s .store ((va + o) % 2 ^ 80)) data (chunks 128 va data.length) s

/-- Bytes of one line written by an engine at their place (R139, R161, R162): a compute die's slice takes them for its engine, a hub engine
writes at the home. -/
def engineStore (die : Option Nat) (s : State) (p : Place) (data : List Byte) : State :=
  if p.stash then
    let t := { s with b := markMapped { s.b with stash := cellPut s.b.stash p.off data } p.off data.length }
    wakeBarriers s.b t
  else if p.attr = aIp then { s with m := ipEngineWrite s.m die (pooledAt s.fab p.pa) p.pa data s.b.prot }
  else if p.attr = aSc then { s with m := homeWrite (recallLine s.m (lineOf p.pa)) p.pa data s.b.prot }
  else
    let fills := fun (m : Mem) => if p.attr = aWos then setWos m (lineOf p.pa) .filling else m
    match die with
    | some d =>
      let s := ownLine s (40 * d) p.pa
      { s with m := sliceWriteEngine (fills s.m) d p.pa data s.b.prot }
    | none => { s with m := homeWrite (fills (takeLine s.m p.pa)) p.pa data s.b.prot }

/-- The writes of a plan made in order. -/
def performWrites (die : Option Nat) (ws : List (Place × List Byte)) (s : State) : State :=
  ws.foldl (fun s w => engineStore die s w.1 w.2) s

/-- A host line that an engine of a compute die is to write and its die does not hold: the wait for it (R162, R165). -/
def awaitWrites (die : Option Nat) (ws : List (Place × List Byte)) (s : State) : CmdRun Unit :=
  match die with
  | none => .ok ()
  | some d =>
    match ws.findSome? fun w => match awaitLine s (40 * d) w.1 true with
      | .error (.wait p) => some p
      | _ => none with
    | some p => .error (.wait p [])
    | none => .ok ()

/-- Two places share a byte. -/
def placesMeet (p : Place) (n : Nat) (q : Place) (k : Nat) : Bool :=
  p.stash = q.stash && (if p.stash then rangesMeet p.off n q.off k else rangesMeet p.pa n q.pa k)

/-- The places of bytes of an object that have been read. -/
def readPlaces (h : Handle) (off n : Nat) (s : State) : List (Place × Nat) :=
  (chunks 128 (hBase h.entry + off) n).filterMap fun q =>
    match resolveByte s h .load (off + q.1) with
    | .ok _ p => some (p, q.2)
    | _ => none

/-! ### cpy, fill, gath, scat (R365) -/

/-- cpy: length, source and destination are checked before anything is read. -/
def planCpy (r : Reader) (c : Cmd) (s : State) : CmdRun (State × CmdPlan) := do
  let n := c.opd.toNat
  let (s, a) ← bindSel c (refSel c.opa) s
  let (s, b) ← bindSel c (refSel c.opb) s
  needObject a false false
  needObject b true false
  needRange a (refOff c.opa) n
  needRange b (refOff c.opb) n
  cmdRequire ((hBase a.entry + refOff c.opa) % 8 = 0 && (hBase b.entry + refOff c.opb) % 8 = 0 && n % 8 = 0) cMisaligned 0x00
  let dest := stashBytesOf b (refOff c.opb) n
  let (s, bs, bad) ← filling dest (readObject r a (refOff c.opa) n s)
  let (s, ws) ← filling dest (planObject b (refOff c.opb) bs s)
  cmdRequire (!((readPlaces a (refOff c.opa) n s).any fun p => ws.any fun w => placesMeet p.1 p.2 w.1 w.2.length)) cIllegalInstruction 0xA1
  .ok (s, .done n ws (filledBy b (refOff c.opb) n (poisonIf bad)))

/-- fill. -/
def planFill (c : Cmd) (s : State) : CmdRun (State × CmdPlan) := do
  let n := c.opd.toNat
  let (s, a) ← bindSel c (refSel c.opa) s
  needObject a true false
  needRange a (refOff c.opa) n
  cmdRequire ((hBase a.entry + refOff c.opa) % 8 = 0 && n % 8 = 0) cMisaligned 0x00
  let bs := (List.replicate (n / 8) (bytesOfNat 8 c.opb.toNat)).flatten
  let (s, ws) ← filling (stashBytesOf a (refOff c.opa) n) (planObject a (refOff c.opa) bs s)
  .ok (s, .done n ws (filledBy a (refOff c.opa) n none))

/-- The fields of the gather word: row count and row size. -/
def gatherRows (x : DWord) : Nat := bitsNat x 24 20
def gatherSize (x : DWord) : Nat := bitsNat x 0 24
/-- A well-formed gather word. -/
def gatherOk (x : DWord) : Bool := bitsNat x 44 4 = 0 && gatherRows x ≠ 0 && gatherSize x % 8 = 0

/-- The command that a stopped one still performs: the doubleword or the row in progress (R466). Its data being made when it completes, that is the
first; a tile in progress is the whole command. -/
def Cmd.cut (c : Cmd) : Cmd :=
  if !c.stopping then c
  else if c.func = 0x00#7 || c.func = 0x04#7 then { c with opd := if c.opd.toNat < 8 then c.opd else 8#64 }
  else if (c.func = 0x01#7 || c.func = 0x02#7) && 1 < gatherRows c.opd then { c with opd := BitVec.ofNat 64 (atBit 24 1 + gatherSize c.opd) }
  else c

/-- The indices of an index list: N32 values. -/
def indicesOf (bs : List Byte) (n : Nat) : List Nat := (List.range n).map fun i => natOfBytes ((bs.drop (4 * i)).take 4)

/-- Rows read from an indexed object one after another. -/
def readRows (r : Reader) (h : Handle) (size : Nat) : List Nat → State → CmdRun (State × List Byte × Bool)
  | [], s => .ok (s, [], false)
  | i :: t, s => do
    needRange h (i * size) size
    let (s, bs, bad) ← readObject r h (i * size) size s
    let (s, rest, worse) ← readRows r h size t s
    .ok (s, bs ++ rest, bad || worse)

/-- Rows to be written to an indexed object one after another; the writes of a later row follow. -/
def planRows (h : Handle) (size : Nat) : List (Nat × List Byte) → State → CmdRun (State × List (Place × List Byte))
  | [], s => .ok (s, [])
  | (i, bs) :: t, s => do
    needRange h (i * size) size
    let (s, ws) ← planObject h (i * size) bs s
    let (s, rest) ← planRows h size t s
    .ok (s, ws ++ rest)

/-- gath. -/
def planGath (r : Reader) (c : Cmd) (s : State) : CmdRun (State × CmdPlan) := do
  cmdRequire (gatherOk c.opd) malformed.1 malformed.2
  let n := gatherRows c.opd
  let size := gatherSize c.opd
  let (s, a) ← bindSel c (refSel c.opa) s
  let (s, b) ← bindSel c (refSel c.opb) s
  let (s, x) ← bindSel c (refSel c.opd) s
  needObject a false false
  needObject b true false
  needObject x false false
  needRange a (refOff c.opa) (4 * n)
  needRange b (refOff c.opb) (n * size)
  let dest := stashBytesOf b (refOff c.opb) (n * size)
  let (s, is, bad) ← filling dest (readObject r a (refOff c.opa) (4 * n) s)
  let (s, bs, worse) ← filling dest (readRows r x size (indicesOf is n) s)
  let (s, ws) ← filling dest (planObject b (refOff c.opb) bs s)
  .ok (s, .done n ws (filledBy b (refOff c.opb) (n * size) (poisonIf (bad || worse))))

/-- scat. -/
def planScat (r : Reader) (c : Cmd) (s : State) : CmdRun (State × CmdPlan) := do
  cmdRequire (gatherOk c.opd) malformed.1 malformed.2
  let n := gatherRows c.opd
  let size := gatherSize c.opd
  let (s, a) ← bindSel c (refSel c.opa) s
  let (s, b) ← bindSel c (refSel c.opb) s
  let (s, x) ← bindSel c (refSel c.opd) s
  needObject a false false
  needObject b false false
  needObject x true false
  needRange a (refOff c.opa) (4 * n)
  needRange b (refOff c.opb) (n * size)
  let (s, is, bad) ← readObject r a (refOff c.opa) (4 * n) s
  let (s, bs, worse) ← readObject r b (refOff c.opb) (n * size) s
  let rows := (indicesOf is n).zipIdx.map fun p => (p.1, (bs.drop (p.2 * size)).take size)
  let dest := rows.flatMap fun p => stashBytesOf x (p.1 * size) size
  let (s, ws) ← filling dest (planRows x size rows s)
  .ok (s, .done n ws (dest.map fun p => (p.1, p.2, poisonIf (bad || worse))))

/-! ### Tiles: tcpy, tdec and the encoders (R365, R366) -/

/-- The block-index entry of a tile, checked (R80). -/
def readEntry (r : Reader) (h : Handle) (tile : Nat) (s : State) : CmdRun (State × DWord) :=
  match ofReading tile (readBytesVa r (bxVa h.entry tile) 8 s) with
  | .error e => .error e
  | .ok (s, bs) =>
    let x : DWord := BitVec.ofNat 64 (natOfBytes bs)
    if bxBad x then .error (.status cDecodeStream 0x01 (streamInfo tile (headerFault 0x01)) []) else .ok (s, x)

/-- An entry of given fields (R79). -/
def bxMake (present poison raw : Bool) (len offset : Nat) : DWord :=
  BitVec.ofNat 64 (atBit 63 present.toNat + atBit 62 poison.toNat + atBit 61 raw.toNat + atBit 40 len + offset)

/-- tcpy: the stream of a present, clean tile, then the entry with the source's fields. -/
def planTcpy (r : Reader) (c : Cmd) (s : State) : CmdRun (State × CmdPlan) := do
  let na := refOff c.opa
  let nb := refOff c.opb
  let (s, a) ← bindSel c (refSel c.opa) s
  let (s, b) ← bindSel c (refSel c.opb) s
  needObject a false true
  needObject b true true
  needTile a na
  needTile b nb
  let (s, x) ← readEntry r a na s
  let (s, y) ← readEntry r b nb s
  let len := 32 * bxLen x
  let dst := 32 * bxOffset y
  cmdRequire (!bxPresent x || dst + len ≤ hLength b.entry) cHandleBounds 0x40
  if !bxPresent x || bxPoison x then
    let n := if bxPresent x then len else 0
    let (s, we) ← planVa (bxVa b.entry nb) (bytesOfNat 8 (bxMake (bxPresent x) (bxPoison x) (bxRaw x) (bxLen x) (bxOffset y)).toNat) s
    .ok (s, .done (bxLen x) we (filledBy b dst n (poisonIf (bxPoison x))))
  else
    cmdRequire (32 * bxOffset x + len ≤ hLength a.entry) cHandleBounds 0x43
    let dest := stashBytesOf b dst len
    let (s, bs, bad) ← filling dest (readObject r a (32 * bxOffset x) len s)
    let (s, ws) ← filling dest (if bad then .ok (s, []) else planObject b dst bs s)
    let (s, we) ← filling dest (planVa (bxVa b.entry nb) (bytesOfNat 8 (bxMake true bad (bxRaw x) (bxLen x) (bxOffset y)).toNat) s)
    .ok (s, .done (bxLen x) (ws ++ we) (filledBy b dst len (poisonIf bad)))

/-- The bytes that tdec writes: F32 values, or codes and then scales; edge elements are zero (R304, R365). -/
def decodedBytes (e : BitVec 512) (values : Bool) (ps : List (Option Nat)) (codes : List Nat) (scales : List Byte) : List Byte :=
  let sc := scales.toArray
  if values then
    ((codes.zip ps).zipIdx.map fun q =>
      bytesOfNat 4 (if q.1.2.isSome then dequant (hType e) (sc.getD (q.2 / 32) 0#8) q.1.1 else 0)).flatten
  else ((codes.zip ps).map fun q => if q.2.isSome then BitVec.ofNat 8 q.1 else 0#8) ++ scales

/-- tdec. -/
def planTdec (r : Reader) (c : Cmd) (s : State) : CmdRun (State × CmdPlan) := do
  cmdRequire (bitsNat c.opd 1 63 = 0) malformed.1 malformed.2
  let tile := refOff c.opa
  let (s, a) ← bindSel c (refSel c.opa) s
  let (s, b) ← bindSel c (refSel c.opb) s
  needObject a false true
  needObject b true false
  needTile a tile
  let k := hElems a.entry
  let n := if c.opd.getLsbD 0 then 4 * k else k + tileScales k
  needRange b (refOff c.opb) n
  let dest := stashBytesOf b (refOff c.opb) n
  match attarTile r a tile s with
  | .error (.poisoned _) =>
    .ok (s, { code := cTilePoison, detail := 0x01, info := 0, writes := [], regions := filledBy b (refOff c.opb) n (some cTilePoison) })
  | .error e => filling dest (ofReading tile (.error e))
  | .ok (s, codes, scales) =>
    let bs := decodedBytes a.entry (c.opd.getLsbD 0) (tilePositions a.entry (coordsAt a.entry tile)) codes scales
    let (s, ws) ← filling dest (planObject b (refOff c.opb) bs s)
    .ok (s, .done n ws (filledBy b (refOff c.opb) n none))

/-- The fields of the encode word. -/
def encOffset (x : DWord) : Nat := bitsNat x 24 40
def encDef (x : DWord) : Bool := x.getLsbD 7
def encTab (x : DWord) : Nat := bitsNat x 0 6
/-- A well-formed encode word (R366). -/
def encodeOk (packed : Bool) (x : DWord) : Bool :=
  bitsNat x 8 16 = 0 && !x.getLsbD 6 && (!encDef x || encTab x = 0) && (packed || encOffset x = 0)

/-- A value source's element type and size (R366). -/
def valueSource (t : Elem) : Bool := t = .f32 || t = .bf16 || t = .f16

/-- Codes and scales of an encode request from the bytes of its source (R83, R366). -/
def encodeSource (codes : Bool) (src : Elem) (e : BitVec 512) (tile : Nat) (bs : List Byte) : List Nat × List Byte :=
  let k := hElems e
  let ps := tilePositions e (coordsAt e tile)
  let edges := (ps.map Option.isNone).toArray
  if codes then
    (((bs.take k).zip ps).map fun q => if q.2.isSome then q.1.toNat % 2 ^ (hType e).width else 0, (bs.drop k).take (tileScales k))
  else
    let size := src.width / 8
    quantTile (hType e) ((List.range k).map fun i => src.value (natOfBytes ((bs.drop (size * i)).take size))) fun i => edges.getD i false

/-- encv, encc, encvp and enccp. -/
def planEncode (codes packed : Bool) (r : Reader) (c : Cmd) (s : State) : CmdRun (State × CmdPlan) := do
  cmdRequire (encodeOk packed c.opd) malformed.1 malformed.2
  let tile := refOff c.opb
  let (s, a) ← bindSel c (refSel c.opa) s
  let (s, b) ← bindSel c (refSel c.opb) s
  needObject a false false
  needObject b true true
  cmdRequire (codes || valueSource (hType a.entry)) malformed.1 malformed.2
  needTile b tile
  let k := hElems b.entry
  let n := if codes then k + tileScales k else k * ((hType a.entry).width / 8)
  needRange a (refOff c.opa) n
  let (s, bs, bad) ← readObject r a (refOff c.opa) n s
  let old := bad || !packed
  let (s, x) ← (if old then readEntry r b tile s else .ok (s, 0#64))
  if bad then
    let (s, we) ← planVa (bxVa b.entry tile) (bytesOfNat 8 (bxMake true true false (bxLen x) (bxOffset x)).toNat) s
    .ok (s, .done (bxLen x) we (filledBy b (32 * bxOffset x) (32 * bxLen x) (some cTilePoison)))
  else
    let q := encodeSource codes (hType a.entry) b.entry tile bs
    let slot := if encDef c.opd then hCtab b.entry else encTab c.opd
    let st := encodeStream (hType b.entry) q.1 q.2 (s.x.tables.toList.getD slot none) (encDef c.opd) (encTab c.opd)
    let off := if packed then encOffset c.opd else bxOffset x
    let units := if packed then st.2.length / 32 else rawUnits (hType b.entry) k
    cmdRequire (32 * (off + units) ≤ hLength b.entry) cHandleBounds 0x40
    let dest := stashBytesOf b (32 * off) st.2.length
    let (s, ws) ← filling dest (planObject b (32 * off) st.2 s)
    let (s, we) ← filling dest (planVa (bxVa b.entry tile) (bytesOfNat 8 (bxStored st.1 (st.2.length / 32) off).toNat) s)
    .ok (s, .done (atBit 12 st.1.toNat + st.2.length / 32) (ws ++ we) (filledBy b (32 * off) st.2.length none))

end Sys2Proof.Machine
end

