-- ==== Sys2Proof/Machine/Av1.lean ====
section
/-!
DEFINITION. The AV1 engine's batches (spec/13, R368 to R370). What a temporal unit decodes to is the AV1 specification's, not the manual's:
`Config.av1Unit` stands for it (log entry 6).
-/
namespace Sys2Proof.Machine

/-- A reference slot (R368, R370). -/
inductive AvSlot where
  | empty
  | clean (bs : List Byte)
  | poisoned (bs : List Byte)
  deriving DecidableEq, Repr

/-- What a slot holds. -/
def AvSlot.bytes : AvSlot → List Byte
  | .empty => []
  | .clean b => b
  | .poisoned b => b

/-- One unit decoded: its frame status, the slots and decoder state after it, the samples, the code when its frame is poisoned. -/
structure AvFrame where
  status : DWord
  slots : List AvSlot
  state : List Byte
  samples : List Byte
  poison : Option Byte
  deriving DecidableEq, Repr

/-- The code and detail of a frame (R369, R370): `room` is what LENGTH leaves from its output offset on. -/
def frameCode (facts : DWord) (reads : BitVec 8) (slots : List AvSlot) (n room : Nat) : Byte × Byte :=
  let used := (slots.zipIdx.filter fun p => reads.getLsbD p.2).map (·.1)
  if facts.extractLsb' 56 8 ≠ 0#8 then (cDecodeStream, if facts.extractLsb' 48 8 = 0x91#8 then 0x91 else 0x90)
  else if used.contains .empty then (cDecodeStream, 0x90)
  else if used.any fun q => match q with
      | .poisoned _ => true
      | _ => false then (cTilePoison, 0x92)
  else if facts.getLsbD 46 && room < n then (cHandleBounds, 0x93)
  else (0x00, 0x00)

/-- A temporal unit decoded from its bytes (R369, R370): a key frame reads no slot. -/
def decodeUnit (bytes state : List Byte) (slots : List AvSlot) (room : Nat) : AvFrame :=
  let (facts, reads, refresh, after, held, samples) := Config.av1Unit bytes state (slots.map AvSlot.bytes)
  let key := facts.getLsbD 46 && facts.getLsbD 45
  let code := frameCode facts (if key then 0#8 else reads) slots samples.length room
  { status := BitVec.ofNat 64 (atBit 56 code.1.toNat + atBit 48 code.2.toNat + atBit 47 1 + atBit 42 (bitsNat facts 42 5) + bitsNat facts 0 32)
    slots := slots.zipIdx.map fun p => if refresh.getLsbD p.2 then (if code.1 = 0x00 then .clean held else .poisoned held) else p.1
    state := after
    samples := if facts.getLsbD 46 && samples.length ≤ room then samples else []
    poison := if code.1 = 0x00 || code.1 = cHandleBounds then none else some code.1 }

/-- The fields of a frame entry. -/
def frameOut (x : BitVec 256) : Nat := bitsNat x 128 64
def frameLen (x : BitVec 256) : Nat := bitsNat x 64 64
def frameIn (x : BitVec 256) : Nat := bitsNat x 0 64

/-- What a batch has produced: its writes and filled regions in order, and the frames poisoned. -/
structure AvBatch where
  writes : List (Place × List Byte)
  regions : List (Nat × Nat × Option Byte)
  poisoned : Nat
  deriving DecidableEq, Repr

/-- One unit of a batch: its entry and bytes read, its frame and then its status written. A poisoned tile among the sources, the header `head`
included, poisons what is filled (R103). -/
def avUnit (r : Reader) (c : Cmd) (desc stream out : Handle) (head : Bool) (i : Nat) (state : List Byte) (slots : List AvSlot) (s : State) :
    CmdRun (State × AvFrame × AvBatch) := do
  let at_ := refOff c.opa + 64 + 32 * i
  let (s, eb, bad) ← readObject r desc at_ 32 s
  let x := BitVec.ofNat 256 (natOfBytes eb)
  needRange stream (refOff c.opb + frameIn x) (frameLen x)
  let (s, bs, worse) ← readObject r stream (refOff c.opb + frameIn x) (frameLen x) s
  let f := decodeUnit bs state slots (hLength out.entry - frameOut x)
  let (s, ws) ← filling (stashBytesOf out (frameOut x) f.samples.length) (planObject out (frameOut x) f.samples s)
  let (s, we) ← planObject desc (at_ + 24) (bytesOfNat 8 f.status.toNat) s
  .ok (s, f, { writes := ws ++ we, regions := filledBy out (frameOut x) f.samples.length (f.poison.or (poisonIf (head || bad || worse))), poisoned := f.poison.isSome.toNat })

/-- The units from `i` on: a fault ends the batch, what came before standing (R370). -/
def avUnits (r : Reader) (c : Cmd) (desc stream out : Handle) (head : Bool) (total : Nat) :
    Nat → List Byte → List AvSlot → AvBatch → State → CmdRun (State × CmdPlan)
  | 0, _, _, b, s => .ok (s, .done (atBit 16 total + b.poisoned) b.writes b.regions)
  | left + 1, state, slots, b, s =>
    match avUnit r c desc stream out head (total - (left + 1)) state slots s with
    | .error (.wait p d) => .error (.wait p d)
    | .error (.status cd dt _ dest) =>
      .ok (s, { code := cd, detail := dt, info := 0, writes := b.writes, regions := b.regions, spoiled := dest })
    | .ok (s, f, n) =>
      avUnits r c desc stream out head total left f.state f.slots
        { writes := b.writes ++ n.writes, regions := b.regions ++ n.regions, poisoned := b.poisoned + n.poisoned } s

/-- avdec (R368). -/
def planAvdec (r : Reader) (c : Cmd) (s : State) : CmdRun (State × CmdPlan) := do
  let (s, a) ← bindSel c (refSel c.opa) s
  let (s, b) ← bindSel c (refSel c.opb) s
  needObject a true false
  needObject b false false
  needRange a (refOff c.opa) 64
  let (s, hb, head) ← readObject r a (refOff c.opa) 64 s
  let h := BitVec.ofNat 512 (natOfBytes hb)
  let n := bitsNat h 0 16
  let osel := bitsNat h 16 16
  let warp := match c.issuer with
    | .warp _ => true
    | .node _ => false
  cmdRequire (bitsNat h 32 480 = 0 && n ≠ 0 && !(warp && 16 ≤ osel)) malformed.1 malformed.2
  let (s, o) ← bindSel c osel s
  needObject o true false
  needRange a (refOff c.opa) (64 + 32 * n)
  -- a stopped command ends after the temporal unit in progress (R466)
  let n := if c.stopping then 1 else n
  avUnits r c a b o head n n [] (List.replicate 8 .empty) { writes := [], regions := [], poisoned := 0 } s

end Sys2Proof.Machine
end

