-- ==== Sys2Proof/Machine/Collective.lean ====
section
/-!
DEFINITION. The collective unit (spec/13, R371). The other members' data come over the fabric from devices that stand outside this machine:
they are free values (log entry 17); the member's own data, its place in the order and the arithmetic are as the rule says.
-/
namespace Sys2Proof.Machine

/-- The fields of the group descriptor. -/
def grpList (d : BitVec 512) : Nat := bitsNat d 192 80
def grpLen (d : BitVec 512) : Nat := bitsNat d 64 64
def grpRoot (d : BitVec 512) : Nat := bitsNat d 32 16
def grpType (d : BitVec 512) : Elem := Elem.ofCode (d.extractLsb' 20 4)
def grpOp (d : BitVec 512) : Nat := bitsNat d 16 4
def grpN (d : BitVec 512) : Nat := bitsNat d 0 16

/-- The element types of a collective. -/
def grpElem (t : Elem) : Bool :=
  t = .f16 || t = .bf16 || t = .f32 || t = .f64 || t = .n32 || t = .s32 || t = .n64 || t = .s64

/-- A well-formed group descriptor. -/
def grpOk (d : BitVec 512) : Bool :=
  bitsNat d 272 240 = 0 && bitsNat d 48 16 = 0 && bitsNat d 24 8 = 0 && grpElem (grpType d) && grpOp d ≤ 2 && 2 ≤ grpN d && grpN d ≤ 993
    && grpRoot d < grpN d && grpLen d % ((grpType d).width / 8) = 0

/-- The domain of an identity by the location table (R406). -/
def domainOf (f : Fabric) (ident : Nat) : Nat := ((f.loc.find? fun e => e.1.toNat = ident).map fun e => bitsNat e.2 27 10).getD 0

/-- Data elements of a member. -/
def elementsOf (size : Nat) (bs : List Byte) : List Nat := (List.range (bs.length / size)).map fun i => natOfBytes ((bs.drop (size * i)).take size)

/-- The reduction of the members' data in ascending position, element by element (R371). -/
def reduceAll (t : Elem) (op : Nat) (data : List (List Byte)) : List Byte :=
  let size := t.width / 8
  match data.map (elementsOf size) with
  | [] => []
  | first :: rest =>
    let r := rest.foldl (fun acc e => (acc.zip e).map fun p => atomValue (BitVec.ofNat 3 op) t t.width p.1 p.2 0) first
    (r.map (bytesOfNat size)).flatten

/-- The bytes of member `p`: those read here at the own position, free values elsewhere. -/
def memberData (free own len : Nat) (mine : List Byte) (p : Nat) : List Byte :=
  if p = own then mine else (List.range len).map fun i => Config.freeByte (free + p * len + i)

/-- What a function places at this member, if anything (R371): 0x40 broadcast, 0x41 reduction at the root, 0x42 at every member, 0x43
gather. -/
def placed (func : BitVec 7) (d : BitVec 512) (own : Nat) (data : List (List Byte)) : Option (List Byte) :=
  match func.toNat with
  | 0x40 => some (data.getD (grpRoot d) [])
  | 0x41 => if own = grpRoot d then some (reduceAll (grpType d) (grpOp d) data) else none
  | 0x42 => some (reduceAll (grpType d) (grpOp d) data)
  | _ => some data.flatten

/-- cbcast, creduce, callred and cgath. -/
def planCollective (r : Reader) (c : Cmd) (s : State) : CmdRun (State × CmdPlan) := do
  let (s, a) ← bindSel c (refSel c.opa) s
  let (s, b) ← bindSel c (refSel c.opb) s
  let (s, g) ← bindSel c (refSel c.opd) s
  needObject a false false
  needObject b true false
  needObject g false false
  needRange g (refOff c.opd) 64
  let (s, gb, head) ← readObject r g (refOff c.opd) 64 s
  let d := BitVec.ofNat 512 (natOfBytes gb)
  cmdRequire (grpOk d) malformed.1 malformed.2
  let n := grpN d
  let len := grpLen d
  let (s, lb) ← ofReading 0 (readBytesVa r (grpList d) (2 * n) s)
  let ids := (List.range n).map fun i => natOfBytes ((lb.drop (2 * i)).take 2) % 1024
  match ids.findIdx? fun x => x = s.fab.ident.toNat with
  | none => cmdFault cIllegalInstruction 0xA2
  | some own =>
    cmdRequire (ids.all fun x => x = s.fab.ident.toNat || domainOf s.fab x = s.fab.domain.toNat) cIllegalInstruction 0xA3
    let sends := c.func ≠ 0x40#7 || own = grpRoot d
    let takes := c.func ≠ 0x41#7 || own = grpRoot d
    let size := if c.func = 0x43#7 then n * len else len
    if sends then needRange a (refOff c.opa) len
    if takes then needRange b (refOff c.opb) size
    let (s, mine, bad) ← (if sends then readObject r a (refOff c.opa) len s else .ok (s, [], false))
    let data := (List.range n).map (memberData s.m.free own len mine)
    let s := { s with m := { s.m with free := s.m.free + n * len } }
    match placed c.func d own data with
    | none => .ok (s, .done len [] [])
    | some bs =>
      -- a stopped command ends after the element transfer in progress (R466)
      let bs := if c.stopping then bs.take ((grpType d).width / 8) else bs
      let (s, ws) ← filling (stashBytesOf b (refOff c.opb) size) (planObject b (refOff c.opb) bs s)
      .ok (s, .done len ws (filledBy b (refOff c.opb) size (poisonIf (head || bad))))

end Sys2Proof.Machine
end

