-- ==== Sys2Proof/Machine/Kv.lean ====
section
/-!
DEFINITION. The run-ahead queues' push (spec/12, R326; spec/08, R203) and key-value translation (spec/12, R327, R328; spec/05, R110 to
R112).
-/
namespace Sys2Proof.Machine

/-- An entry appended to a queue of the block; it retires at once where no warp is subscribed (R203). -/
def pushEntry (s : State) (q : BitVec 3) (x : Scalar) : State :=
  let k := s.b.queues[q.toNat]
  retireQueue { s with b := { s.b with queues := s.b.queues.set q.toNat { k with entries := k.entries ++ [x] } } } q.toFin

/-- The oldest entry that a processor has pushed joins its queue once its release at block scope may be performed (R150, R326). -/
def transferPush (s : State) : State :=
  match s.w.pushes with
  | [] => s
  | (q, x, t) :: rest => if earlierDone s t 1#3 then pushEntry { s with w := { s.w with pushes := rest } } q x else s

/-- The entries that count against the 32 of a queue: those that have not retired, and those that are on their way to it (R203). -/
def queueFill (s : State) (q : BitVec 3) : Nat := s.b.queues[q.toNat].entries.length + (s.w.pushes.filter fun e => e.1 = q).length

/-- QPUSH (R326): a release at block scope, whose entry reaches its queue once the processor's earlier accesses are performed (R150); the
processor itself goes on, and parks while the queue is full. -/
def execQpush (q : BitVec 3) (a : BitVec 8) (s : State) : Host.Outcome State Fault Refusal :=
  issue { rap := .only, opds := [.ssrc a] } s fun s =>
    match readS s a with
    | .error e => .error e
    | .ok (s, x) =>
      if 32 ≤ queueFill s q then park (.queue q)
      else if s.w.pushes.isEmpty && drained s 1#3 then .ok (pushEntry (advance s) q x)
      else .ok (advance { s with w := { s.w with pushes := s.w.pushes ++ [(q, x, s.w.cyc.toNat)] } })

/-! ### Block-table entries (R110, R111) -/

def kvTier (e : BitVec 128) : BitVec 2 := e.extractLsb' 126 2
def kvPresent (e : BitVec 128) : Bool := e.getLsbD 125
def kvBusy (e : BitVec 128) : Bool := e.getLsbD 124
def kvPoison (e : BitVec 128) : Bool := e.getLsbD 123
def kvLen (e : BitVec 128) : Nat := bitsNat e 100 12
/-- A zero field is non-zero. -/
def kvZeroBad (e : BitVec 128) : Bool := bitsNat e 112 11 ≠ 0 || bitsNat e 80 20 ≠ 0

/-- What an entry gives a lane (R111, R327). -/
inductive KvOutcome where
  | poison (code detail : Byte)
  | location (loc : DWord)
  | replay (post : Bool)
  deriving DecidableEq, Repr

/-- The decision of R327 and R111 on an entry; `base` is BASE of the handle. -/
def kvDecide (e : BitVec 128) (base : Nat) : KvOutcome :=
  if kvZeroBad e || kvLen e = 0 then .poison cHandleBounds 0x41
  else if kvPoison e then .poison cTilePoison 0x00
  else if kvPresent e && !kvBusy e && kvTier e ≠ 3#2 then
    if bitsNat e 64 16 ≠ base / 2 ^ 64 then .poison cHandleBounds 0x42 else .location (e.extractLsb' 0 64)
  else .replay (kvPresent e && kvTier e = 3#2)

/-- RINGS of a context, and the control words of ring `k` (R206). -/
def ctxRings (x : Ctx) : Nat := bitsNat x.desc 256 80
def ringHead (x : Ctx) (k : Nat) : Nat := ctxRings x + 0x90000 + 16 * k
def ringTail (x : Ctx) (k : Nat) : Nat := ctxRings x + 0x90000 + 16 * k + 8
def ringSlot (x : Ctx) (k i : Nat) : Nat := ctxRings x + 0x10000 * k + 16 * (i % 4096)

/-- An entry produced into ring `k` of a context (R206); `none` when the ring is full. -/
def ringPush (s : State) (x : Ctx) (k : Nat) (entry : Nat) : HubRun (Option State) :=
  match hubFetch s x (ringHead x k) 8 with
  | .error e => .error e
  | .ok (s, head) =>
    match hubFetch s x (ringTail x k) 8 with
    | .error e => .error e
    | .ok (s, tail) =>
      if (tail + 2 ^ 64 - head) % 2 ^ 64 = 4096 then .ok none
      else
        match hubPut s x (ringSlot x k tail) (bytesOfNat 16 entry) with
        | .error e => .error e
        | .ok s => (hubPut s x (ringTail x k) (bytesOfNat 8 (tail + 1))).map some

/-- The oldest entry of ring `k`, left in place: `none` when the ring is empty. -/
def ringPeek (s : State) (x : Ctx) (k : Nat) : HubRun (State × Option Nat) :=
  match hubFetch s x (ringHead x k) 8 with
  | .error e => .error e
  | .ok (s, head) =>
    match hubFetch s x (ringTail x k) 8 with
    | .error e => .error e
    | .ok (s, tail) => if head = tail then .ok (s, none) else (hubFetch s x (ringSlot x k head) 16).map fun r => (r.1, some r.2)

/-- The oldest entry of ring `k` consumed. -/
def ringPop (s : State) (x : Ctx) (k : Nat) : State :=
  match hubFetch s x (ringHead x k) 8 with
  | .error _ => s
  | .ok (s, head) => hubPost s x (ringHead x k) (bytesOfNat 8 (head + 1))

/-- A migration request posted; one that finds the ring full, or out of reach, is dropped and counted (R112). -/
def postRequest (s : State) (dtier : Nat) (eva : Nat) : Run State :=
  match ringPush s s.x 0 (atBit 80 dtier + eva) with
  | .ok (some t) => .ok t
  | .error none => park .splinter
  | .ok none | .error (some _) => .ok (count s 0x0012#16 (BitVec.ofNat 32 (2 * s.x.num.toNat)) 1)

/-- The requests of a translation posted, in order. -/
def postRequests : List Nat → State → Run State
  | [], s => .ok s
  | e :: t, s =>
    match postRequest s 0 e with
    | .error e => .error e
    | .ok s => postRequests t s

/-- The block-table entry number of a lane: its first entry plus the position's block (R327). -/
def kvIndex (first position : Nat) : Nat := first + position / 16

/-- One lane of a translation: its plan, or a request to replay it, posted or not. -/
def kvLane (n : BitVec 4) (idx : Nat) (s : State) : Run (State × Option LanePlan × Option Nat) :=
  let h := handleAt s.w n
  match resolveLane s n .load ((16 * idx : Nat) : Int) 16 with
  | .fault c d v => .ok (s, some (.poison c d v true), none)
  | .stall => park .splinter
  | .ok s p =>
    match readCheck s.m p with
    | some d => .ok (s, some (.poison cAliasAttr d p.va true), none)
    | none =>
      if homeStalls s.m p then park .splinter
      else if queueCovers s.w p 16 then park .storeQueue
      else if unpublished s p then
        (if s.w.status = .parked .wos && wosExpired s s.w.since then .ok (s, some (.poison cWosTimeout 0x00 p.va true), none) else park .wos)
      else
        match awaitLine s s.w.core.toNat p false with
        | .error e => .error e
        | .ok _ =>
          let r := loadAt s s.w.core.toNat h.cached p 16
          match kvDecide (BitVec.ofNat 128 (natOfBytes r.2)) (hBase h.entry) with
          | .poison c d => .ok (r.1, some (.poison c d p.va true), none)
          | .location l => .ok (r.1, some (.value l), none)
          | .replay post => .ok (r.1, none, if post then some p.va.toNat else none)

/-- The lanes of a translation: jobs, the lanes to replay, and the entries to request (R327). -/
def kvLanes (n : BitVec 4) : List (Nat × (Byte ⊕ Nat)) → State → Run (State × List LaneJob × List Nat × List Nat)
  | [], s => .ok (s, [], [], [])
  | (l, .inl c) :: t, s =>
    match kvLanes n t s with
    | .error e => .error e
    | .ok (s, js, rep, evas) => .ok (s, ⟨l, .poison c 0x00 0#80 false⟩ :: js, rep, evas)
  | (l, .inr i) :: t, s =>
    match kvLane n i s with
    | .error e => .error e
    | .ok (s, plan, post) =>
      match kvLanes n t s with
      | .error e => .error e
      | .ok (s, js, rep, evas) =>
        match plan with
        | some p => .ok (s, ⟨l, p⟩ :: js, rep, evas)
        | none => .ok (s, js, l :: rep, post.toList ++ evas)

/-- The instruction-wide check of a translation: a bound global handle without Attar (R34, R23, R43, R327). -/
def kvHandleFault (h : Handle) : Option (Byte × Byte) :=
  match handleFault h false true with
  | some f => some f
  | none => if hSpace h.entry ≠ 0 then some (cProtection, 0x00) else none

/-- The entry that a pair of words names: first entry [31:0] and position [63:32] (R327, R328). -/
def kvReq (l : Nat) (x : Scalar) : Nat × (Byte ⊕ Nat) :=
  (l, if x.poison then .inl x.code else .inr (kvIndex (bitsNat x.val 0 32) (bitsNat x.val 32 32)))

/-- The lanes of a translation; an instruction-wide fault poisons them all (R24). -/
def kvPlan (n : BitVec 4) (reqs : List (Nat × (Byte ⊕ Nat))) (s : State) : Run (State × List LaneJob × List Nat × List Nat) :=
  match kvHandleFault (handleAt s.w n) with
  | some (c, d) => .ok (s, poisonLanes c d (reqs.map fun q => (q.1, q.2.map id Int.ofNat)), [], [])
  | none => kvLanes n reqs s

/-- KVX (R327): each distinct entry to be migrated is requested once; REPLAY holds the lanes left as they were. -/
def execKvx (d i : BitVec 8) (h : BitVec 4) (s : State) : Host.Outcome State Fault Refusal :=
  issue { rap := .no, opds := [.vreg d 2 2, .vsrc i true], hreg := h } s fun s =>
    match readV s true i with
    | .error e => .error e
    | .ok (s, x) =>
      if active s.w = 0#64 then .ok (advance { s with w := { s.w with replay := 0#64 } })
      else
        match readReady s (laneList (active s.w)).length with
        | .error e => .error e
        | .ok _ =>
          match kvPlan h ((laneList (active s.w)).map fun l => kvReq l.val (x l)) s with
          | .error e => .error e
          | .ok (s, js, rep, evas) =>
            match postRequests evas.eraseDups { s with w := { s.w with replay := maskOf rep } } with
            | .error e => .error e
            | .ok s => .ok (pendLoad s (.vec d.toNat 8 false) [d.toNat, d.toNat + 1] js true)

/-- KVXS (R328): one translation of the run-ahead processor. -/
def execKvxs (d a : BitVec 8) (h : BitVec 4) (s : State) : Host.Outcome State Fault Refusal :=
  issue { rap := .only, opds := [.sdst d, .ssrc a], hreg := h } s fun s =>
    match readS s a with
    | .error e => .error e
    | .ok (s, x) =>
      match readReady s 1 with
      | .error e => .error e
      | .ok _ =>
        match kvPlan h [kvReq 0 x] s with
        | .error e => .error e
        | .ok (s, js, rep, evas) =>
          match postRequests evas s with
          | .error e => .error e
          | .ok s => .ok (pendLoad s (.scalar d.toNat 8 false) [] (if rep.isEmpty then js else [⟨0, .value 0xFFFFFFFFFFFFFFFF#64⟩]) true)

end Sys2Proof.Machine
end

