-- ==== Sys2Proof/Machine/Xlate.lean ====
section
/-!
DEFINITION. What translation requests and the migration engine do to the page tables (spec/03, R59 to R63; spec/05, R114): shootdowns,
splinters step by step, the leaves of a range, and the settling of a frame whose attribute or key changes.
-/
namespace Sys2Proof.Machine

/-! ### Shootdown (R59, R38) -/

/-- A walk-cache entry covers bytes of a range. -/
def WalkEntry.meets (w : WalkEntry) (va n : Nat) : Bool := rangesMeet (w.index * 2 ^ levelShift w.level) (2 ^ levelShift w.level) va n

/-- Cached leaves and walk-cache entries of a context that cover bytes of a range are removed, and every translation window of the context is
cleared. -/
def shootdown (s : State) (ctx : BitVec 16) (va n : Nat) : State :=
  let clear := fun (h : Handle) => if hSpace h.entry = 1 then h else { h with win := 0#41 }
  let onWindows := fun (w : Warp) => if w.ctx = ctx then { w with h := vecOf 16 fun i => clear w.h[i] } else w
  { mapWarps s onWindows with m := { s.m with tlb := s.m.tlb.filter fun t => !(t.ctx = ctx && rangesMeet t.base (2 ^ t.log) va n),
                                              walks := s.m.walks.filter fun w => !(w.ctx = ctx && w.meets va n) } }

/-- A lane of a load, or an atomic, that is not yet performed accesses bytes of a range. -/
def LaneJob.meets (j : LaneJob) (va n : Nat) : Bool :=
  match j.plan with
  | .parked q => rangesMeet q.va.toNat 8 va n
  | .atom a => rangesMeet a.place.va.toNat a.size va n
  | _ => false

/-- An access in flight of a context, issued with an old translation of a range, is not yet performed (R59): a store in a queue or not
acknowledged, or a lane of a load of a resident context. Accesses of a context that is switched out are made afresh when it returns. -/
def inFlight (s : State) (ctx : BitVec 16) (va n : Nat) : Bool :=
  ((ctxOf s ctx).map (·.resident)).getD false &&
  (allWarps s).any fun w => w.ctx = ctx &&
    (!w.unacked.isEmpty ||
      (w.stores.any fun e => e.lanes.any fun l => (!l.place.stash || l.place.va ≠ 0#80) && rangesMeet l.place.va.toNat l.size va n) ||
      w.loads.any fun p => p.jobs.any fun j => j.meets va n)

/-- The shootdown of one of some ranges is not complete. -/
def anyInFlight (s : State) (ctx : BitVec 16) (spans : List (Nat × Nat)) : Bool := spans.any fun r => inFlight s ctx r.1 r.2

/-! ### Leaves as the tables stand -/

/-- The first VA of a leaf's page. -/
def pageBase (va log : Nat) : Nat := va / 2 ^ log * 2 ^ log

/-- The walk of a context for a VA through the tables as they stand, no cache consulted. -/
def walkAfresh (m : Mem) (x : Ctx) (va : Nat) : WalkEnd := walk { m with walks := [] } x.num va [0, 1, 2, 3, 4] (ctxRoot x)

/-- The leaf that holds a VA. -/
def leafAt (m : Mem) (x : Ctx) (va : Nat) : Option Leaf :=
  match walkAfresh m x va with
  | .leaf l => some l
  | _ => none

/-- A page of a range is being splintered or moved (R47). -/
def pagesStall (m : Mem) (x : Ctx) (lo pages : Nat) : Bool :=
  !m.splinters.isEmpty && (List.range pages).any fun i => walkAfresh m x (lo + 65536 * i) = .stall

/-- The leaves of the pages of a range from a VA on; `none` where a page has no valid leaf. A page whose leaf is larger than what remains is
counted whole. -/
def leavesOf (m : Mem) (x : Ctx) (hi : Nat) : Nat → Nat → Option (List (Nat × Leaf))
  | 0, va => if hi ≤ va then some [] else none
  | fuel + 1, va =>
    if hi ≤ va then some []
    else
      match leafAt m x va with
      | none => none
      | some l => (leavesOf m x hi fuel (pageBase va l.log + 2 ^ l.log)).map fun ls => (va, l) :: ls

/-! ### Splinters (R60, R61) -/

/-- A child entry of a large leaf (R60, step 2). -/
def childEntry (e : BitVec 128) (log i : Nat) : BitVec 128 :=
  BitVec.ofNat 128 (atBit 94 (bitsNat e 94 15) + atBit 93 (decide (log = 40)).toNat + atBit 92 1 + pteFrame e + i * 2 ^ (log - 12))

/-- Line `i` of the table of 4,096 children of a leaf. -/
def childLine (e : BitVec 128) (log i : Nat) : List Byte :=
  ((List.range 8).map fun j => bytesOfNat 16 (childEntry e log (8 * i + j)).toNat).flatten

/-- The table of a leaf's children written into a frame. -/
def writeChildren (m : Mem) (e : BitVec 128) (log frame : Nat) : Mem :=
  (List.range 512).foldl (fun m i => tablePut m (frame + 128 * i) (childLine e log i)) m

/-- The pointer that replaces a splintered leaf (R60, step 3). -/
def tablePointer (frame : Nat) : BitVec 128 := BitVec.ofNat 128 (atBit 92 1 + frame)

/-- SPL of an entry set, and cleared. -/
def withSpl (e : BitVec 128) : BitVec 128 := e ||| (1#128 <<< 109)
def withoutSpl (e : BitVec 128) : BitVec 128 := e &&& ~~~(1#128 <<< 109)

/-- SPL set in a leaf by the Usson (R49, R60). -/
def setSpl (m : Mem) (l : Leaf) : Mem := { (ptePut m l.pte (withSpl l.entry)) with splinters := l.pte :: m.splinters }

/-- The leaf of a page is held no longer. -/
def clearHeld (m : Mem) (pte : Nat) : Mem := { m with splinters := m.splinters.filter fun p => p ≠ pte }

/-- Steps 1 and 2 of a splinter (R60): SPL set in the leaf, the table written. -/
def beginSplinter (m : Mem) (l : Leaf) (va frame : Nat) : Mem × Splinter :=
  (writeChildren (setSpl m l) l.entry l.log frame,
    { pte := l.pte, entry := withSpl l.entry, log := l.log, base := pageBase va l.log, frame := frame })

/-- Step 3 (R60): the leaf replaced by the pointer, its shootdown begun; or with `none` the splinter abandoned, where the entry has changed: SPL
is cleared. -/
def endSplinter (s : State) (ctx : BitVec 16) (k : Splinter) : State × Option (Nat × Nat) :=
  let now := pteRead s.m k.pte
  let m := clearHeld s.m k.pte
  if now = k.entry then
    (shootdown { s with m := ptePut m k.pte (tablePointer k.frame) } ctx k.base (2 ^ k.log), some (k.base, 2 ^ k.log))
  else ({ s with m := ptePut m k.pte (withoutSpl now) }, none)

/-- The large pages from a leaf of log2 size `log` down that hold a VA and that `[lo, hi)` covers only in part (R61). -/
def partsOf (log va lo hi : Nat) : List (Nat × Nat) :=
  let inner := fun (log : Nat) =>
    if log = 28 && !(lo ≤ pageBase va 28 && pageBase va 28 + 2 ^ 28 ≤ hi) then [(pageBase va 28, 28)] else []
  if log = 40 then
    (if lo ≤ pageBase va 40 && pageBase va 40 + 2 ^ 40 ≤ hi then [] else (pageBase va 40, 40) :: inner 28)
  else inner log

/-- The splinters that a range needs, first page before last, outer leaf before inner (R61). -/
def splintersOf (m : Mem) (x : Ctx) (lo hi : Nat) : List (Nat × Nat) :=
  let at_ := fun va => ((leafAt m x va).map fun l => partsOf l.log va lo hi).getD []
  (at_ lo ++ at_ (hi - 65536)).eraseDups

/-- The splinters of a list with their consecutive table frames (R61). -/
def withFrames (frame : Nat) (l : List (Nat × Nat)) : List (Nat × Nat × Nat) :=
  l.zipIdx.map fun p => (p.1.1, p.1.2, frame + 65536 * p.2)

/-- A frame that may hold a table (R49, R58). -/
def tableFrame (frame : Nat) : Bool := inDevice frame && !inReserved frame

/-! ### The settling of a frame (R63) -/

/-- The cached copies of a line written back and removed: U copies recalled, directory copies invalidated; leaving IP, the copies of every
cache of the device (R63, stage 4). -/
def evictLine (leavingIp : Bool) (m : Mem) (line : Nat) : Mem :=
  let m := dropCopies (takeLine m (128 * line)) (128 * line) 128
  if leavingIp then
    let m := (m.ip.filter fun c => c.line = line).foldl IpCopy.home m
    { m with ip := m.ip.filter fun c => c.line ≠ line }
  else m

/-- The lines of a frame. -/
def linesOfFrame (frame : Nat) : List Nat := (List.range 512).map fun i => 512 * frame + i

/-- Stages 4 and 5 for one frame (R63): copies evicted, line states set or discarded, contents read under the new key (R465), the record
written, which is logged as any change of it (R170). -/
def settleFrame (pubAll : Bool) (m : Mem) (frame : Nat) : Mem :=
  let r := frameRec m (65536 * frame)
  match r.changing with
  | none => m
  | some (a, k) =>
    let m := (linesOfFrame frame).foldl (evictLine (r.attr = aIp && a ≠ aIp)) m
    let m := if (a = aWos) != (r.attr = aWos) then noteStates m frame else m
    let m := if a = aWos && r.attr ≠ aWos then (linesOfFrame frame).foldl (fun m l => setWos m l (if pubAll then .published else .unwritten)) m
             else if r.attr = aWos && a ≠ aWos then { m with wos := m.wos.filter fun e => e.1 / 512 ≠ frame } else m
    let m := if k ≠ r.key then (linesOfFrame frame).foldl (rekeyLine · k) (logRange m (65536 * frame) 65536 0#2) else m
    setFrameRec (logFrame m r) { frame := frame, attr := a, key := k, changing := none }

/-- Stage 1: the record of a frame marked CHANGING. -/
def markFrame (a : BitVec 2) (k : BitVec 7) (m : Mem) (frame : Nat) : Mem :=
  let r := frameRec m (65536 * frame)
  setFrameRec (logFrame m r) { r with changing := some (a, k) }

/-- A lane of a load that is parked on an unpublished line of some frames is released with poison (R63, stage 1). -/
def LaneJob.released (frames : List Nat) (j : LaneJob) : LaneJob :=
  match j.plan with
  | .parked p => if frames.contains (p.pa / 65536) then { j with plan := .poison cAliasAttr 0x02 p.va true } else j
  | _ => j

/-- The parked reads of a warp released (R63, stage 1): lanes of loads at once; an instruction that waits as a whole tries its read again before
the change goes on. -/
def releaseReads (frames : List Nat) (w : Warp) : Warp :=
  { w with loads := w.loads.map fun l => { l with jobs := l.jobs.map (LaneJob.released frames) }, woken := w.woken || w.status = .parked .wos }

/-- A read released by stage 1 has not been tried again. -/
def readsWoken (s : State) : Bool :=
  (allWarps s).any fun w => w.status = .parked .wos && w.woken && ((ctxOf s w.ctx).map (·.resident)).getD false

end Sys2Proof.Machine
end

