-- ==== Sys2Proof/Machine/Migrate.lean ====
section
/-!
DEFINITION. The migration engine (spec/05, R112 to R114; spec/13, R367): block moves between tiers with the rings of a context and the
NVMe drives (spec/15, R428), and page moves between HBM4E and LPDDR-6.
-/
namespace Sys2Proof.Machine

/-- The hub's path (R128, R139). -/
def hubReader : Reader := { warp := false, hreg := none, cached := false, die := none, expired := false }

/-- What stands for a block where a hub unit acts for a context. -/
def hubBlock (ctx : BitVec 16) (htab : VA) (prot : BitVec 2) (node : BitVec 64) : Block :=
  { Block.empty with ctx := ctx, htab := htab, prot := prot, node := node, portion := 2 ^ 60 }

/-- An operation made by a hub unit for a context. -/
def asHub {α : Type} (s : State) (ctx : BitVec 16) (f : State → State × α) : State × α :=
  let b := hubBlock ctx 0#80 0#2 0#64
  asAgent s (agentWarp b 0 0#32) b (ctxFor s ctx) f

/-! ### Drives (R110, R428) -/

/-- Bytes of one LBA of a drive. -/
def lbaBytes (drive : BitVec 2) : Nat := if Config.wideLba drive then 4096 else 512

/-- The key of a byte of a drive. -/
def driveKey (drive : BitVec 2) (a : Nat) : Nat := drive.toNat * 2 ^ 80 + a

/-- The bytes of the drives as a Read finds them: writes that wait for their interval to commit included (R174). -/
def driveCells (m : Mem) : List Host.Cell :=
  m.outputs.foldl (fun cs o => match o.2 with
    | .nvme d a bs => cellPut cs (driveKey d a) bs
    | _ => cs) m.nvme

/-- Drive and byte address of a location in tier 0b11. -/
def locDrive (loc : BitVec 80) : BitVec 2 := loc.extractLsb' 78 2
def locByte (loc : BitVec 80) : Nat := bitsNat loc 0 64 * lbaBytes (locDrive loc)

/-- An image padded to whole LBAs with values that the manual does not give (log entry 3). -/
def padLba (m : Mem) (drive : BitVec 2) (bs : List Byte) : Mem × List Byte :=
  let n := lbaBytes drive * ceilDiv bs.length (lbaBytes drive) - bs.length
  ({ m with free := m.free + n }, bs ++ (List.range n).map fun i => Config.freeByte (m.free + i))

/-! ### Block moves (R113) -/

/-- LOC of an entry. -/
def kvLoc (e : BitVec 128) : BitVec 80 := e.extractLsb' 0 80

/-- The entry's 16 bytes. -/
def readKv (eva : Nat) (s : State) : CmdRun (State × BitVec 128) :=
  match ofReading 0 (readBytesVa hubReader eva 16 s) with
  | .error e => .error e
  | .ok (s, bs) => .ok (s, BitVec.ofNat 128 (natOfBytes bs))

/-- The entry written at system scope: a wait where its page is held, nothing where it can no longer be written. -/
def writeKv (eva : Nat) (e : BitVec 128) (s : State) : Option State :=
  match planVa eva (bytesOfNat 16 e.toNat) s with
  | .ok (s, ws) => some (performWrites none ws s)
  | .error (.wait ..) => none
  | .error (.status ..) => some s

/-- Steps 1 and 2: an entry that asks for a move is marked BUSY. -/
def beginMove (ctx : BitVec 16) (eva : Nat) (dtier : BitVec 2) (cmd : Option Nat) (s : State) : CmdRun (State × Option Move) := do
  let (s, e) ← readKv eva s
  if !kvPresent e || kvBusy e || kvPoison e || kvTier e = dtier then .ok (s, none)
  else
    let b := e ||| (1#128 <<< 124)
    let (s, ws) ← planVa eva (bytesOfNat 16 b.toNat) s
    .ok (performWrites none ws s, some { ctx := ctx, eva := eva, dtier := dtier, cmd := cmd, old := b, loc := 0#80, phase := .take,
                                         waited := false, image := [] })

/-- A move that goes on to push a location onto a tier's reclaim ring, and then ends. -/
def Move.reclaims (mv : Move) (tier : BitVec 2) (loc : BitVec 80) (e : MoveEnd) : Move := { mv with phase := .reclaim tier loc e }

/-- An abandoned move counted (R113). -/
def countAbandoned (mv : Move) (s : State) : State := count s 0x0013#16 (mv.ctx.setWidth 32) 1

/-- Steps 5 and 6: the entry replaced where software has left it alone; else the new location is reclaimed and the move abandoned. -/
def publishMove (mv : Move) (s : State) : State × Move × MoveEnd :=
  match readKv mv.eva s with
  | .error (.wait ..) => (s, mv, .pending)
  | .error (.status c d _ _) => (s, { mv with phase := .giveBack (.fault c d) true }, .pending)
  | .ok (t, e) =>
    if e = mv.old then
      match writeKv mv.eva (BitVec.ofNat 128 (atBit 126 mv.dtier.toNat + atBit 125 1 + atBit 100 (kvLen mv.old) + mv.loc.toNat)) t with
      | none => (s, mv, .pending)
      | some t => (t, mv.reclaims (kvTier mv.old) (kvLoc mv.old) .moved, .pending)
    else (countAbandoned mv t, mv.reclaims mv.dtier mv.loc .abandoned, .pending)

/-- A move given up: the entry, where it is still the engine's, is BUSY no longer, and a location taken is reclaimed (log entry 15). -/
def giveBack (mv : Move) (e : MoveEnd) (taken : Bool) (s : State) : State × Move × MoveEnd :=
  let on := fun (s : State) =>
    let s := countAbandoned mv s
    if taken then (s, mv.reclaims mv.dtier mv.loc e, .pending) else (s, mv, e)
  match readKv mv.eva s with
  | .error (.wait ..) => (s, mv, .pending)
  | .error (.status ..) => on s
  | .ok (t, k) =>
    if k = mv.old then
      match writeKv mv.eva (mv.old &&& ~~~(1#128 <<< 124)) t with
      | none => (s, mv, .pending)
      | some t => on t
    else on t

/-- One stage of a move (R113): the state, the move, and how it stands; `pending` with the same phase means that it waits, as it does for a page
that is being splintered (R47). -/
def stageMove (mv : Move) (s : State) : State × Move × MoveEnd :=
  match mv.phase with
  | .take =>
    (match ringPeek s s.x (1 + mv.dtier.toNat) with
    | .error none => (s, mv, .pending)
    | .ok (s, some e) => (ringPop s s.x (1 + mv.dtier.toNat), { mv with loc := BitVec.ofNat 80 e, phase := .read }, .pending)
    | .ok (_, none) | .error (some _) =>
      (if mv.waited then s else count s 0x0014#16 (BitVec.ofNat 32 (4 * mv.ctx.toNat + mv.dtier.toNat)) 1, { mv with waited := true }, .pending))
  | .read =>
    if kvTier mv.old = 3#2 then (s, { mv with phase := .nvmeRead }, .pending)
    else
      (match ofReading 0 (readBytesVa hubReader (kvLoc mv.old).toNat (32 * kvLen mv.old) s) with
      | .ok (s, bs) => (s, { mv with image := bs, phase := .write }, .pending)
      | .error (.wait _ _) => (s, mv, .pending)
      | .error (.status c d _ _) => (s, { mv with phase := .giveBack (.fault c d) true }, .pending))
  | .write =>
    if mv.dtier = 3#2 then
      let r := padLba s.m (locDrive mv.loc) mv.image
      ({ s with m := { r.1 with outputs := r.1.outputs ++ [(r.1.interval, .nvme (locDrive mv.loc) (locByte mv.loc) r.2)] } },
        { mv with phase := .nvmeWrite }, .pending)
    else
      (match planVa mv.loc.toNat mv.image s with
      | .ok (s, ws) => (performWrites none ws s, { mv with phase := .publish }, .pending)
      | .error (.wait _ _) => (s, mv, .pending)
      | .error (.status c d _ _) => (s, { mv with phase := .giveBack (.fault c d) true }, .pending))
  | .publish => publishMove mv s
  | .spoil =>
    (match writeKv mv.eva ((mv.old &&& ~~~(1#128 <<< 124)) ||| (1#128 <<< 123)) s with
    | some s => (s, mv, .lost)
    | none => (s, mv, .pending))
  | .giveBack e taken => giveBack mv e taken s
  | .reclaim tier loc e =>
    (match ringPush s s.x (5 + tier.toNat) (atBit 126 tier.toNat + loc.toNat) with
    | .error none => (s, mv, .pending)
    | .ok (some s) => (s, mv, e)
    | .ok none | .error (some _) => (s, mv, e))
  | .nvmeRead | .nvmeWrite | .done .. => (s, mv, .pending)

/-- Stages until the move ends or waits. -/
def runMove : Nat → Move → State → State × Move × MoveEnd
  | 0, mv, s => (s, mv, .pending)
  | fuel + 1, mv, s =>
    let r := stageMove mv s
    if r.2.2 ≠ .pending || r.2.1.phase = mv.phase then r else runMove fuel r.2.1 r.1

/-- A drive's answer (R428): the image read, or a write done; a failed read poisons the entry (R113), and the location taken for the block is
neither used nor reclaimed (log entry 45). -/
def answerMove (mv : Move) (ok : Bool) (s : State) : State × Move × MoveEnd :=
  if mv.phase = .nvmeRead then
    if ok then
      let l := kvLoc mv.old
      (s, { mv with image := cellBytes (driveCells s.m) (driveKey (locDrive l) (locByte l)) (32 * kvLen mv.old), phase := .write }, .pending)
    else (s, { mv with phase := .spoil }, .pending)
  else if ok then (s, { mv with phase := .publish }, .pending)
  else (s, { mv with phase := .giveBack .abandoned true }, .pending)

/-- The moves with one replaced or, once it has ended, removed. -/
def putMove (s : State) (old : Move) (new : Option Move) : State :=
  { s with hub := { s.hub with moves := (s.hub.moves.filter fun m => m ≠ old) ++ new.toList } }

/-- A move run on, recorded, and its event numbered when it has moved the block (R211). -/
def continueMove (s : State) (old : Move) (r : State × Move × MoveEnd) : State × MoveEnd :=
  let s := { r.1 with hub := { r.1.hub with moves := s.hub.moves } }
  let s := if r.2.2 = .pending && r.2.1 = old then s else putMove s old (if r.2.2 = .pending then some r.2.1 else none)
  (if r.2.2 = .moved then (takeSeq s).1 else s, r.2.2)

/-! ### The request ring (R112) -/

/-- The head request of a context's ring served: begun, carried on, and consumed once it has ended. One whose entry cannot be read or marked BUSY
is skipped and counted (log entry 46). -/
def serveRing (ctx : BitVec 16) (s : State) : State :=
  let finish := fun (r : State × MoveEnd) => if r.2 = .pending then r.1 else ringPop r.1 r.1.x 0
  match s.hub.moves.find? fun m => m.ctx = ctx && m.cmd.isNone with
  | some mv => finish (continueMove s mv (runMove 8 mv s))
  | none =>
    match ringPeek s s.x 0 with
    | .error _ | .ok (_, none) => s
    | .ok (s, some q) =>
      let q := BitVec.ofNat 128 q
      let skip := fun (s : State) => count (ringPop s s.x 0) 0x0012#16 (BitVec.ofNat 32 (2 * ctx.toNat + 1)) 1
      if bitsNat q 82 46 ≠ 0 || bitsNat q 0 4 ≠ 0 then skip s
      else
        match beginMove ctx (bitsNat q 0 80) (q.extractLsb' 80 2) none s with
        | .error (.wait _ _) => s
        | .error (.status ..) => skip s
        | .ok (s, none) => ringPop s s.x 0
        | .ok (s, some mv) => finish (continueMove s mv (runMove 8 mv s))

/-- MIGRATION_REQUEST (R112, R113): the rings of resident contexts are served; not during a cut (R169). -/
def execMigrationRequest (ctx : BitVec 16) (s : State) : Host.Outcome State Fault Refusal :=
  .next (if (ctxFor s ctx).resident && (ctxOf s ctx).isSome && !hubHeld s.hub then (asHub s ctx fun s => (serveRing ctx s, ())).1 else s)

/-! ### migb (R367) -/

/-- INFO of an ended move, or the fault that stopped it (R364). -/
def MoveEnd.info : MoveEnd → CmdRun Nat
  | .pending => .error (.wait .splinter [])
  | .moved => .ok 1
  | .abandoned => .ok 2
  | .unchanged | .lost => .ok 0
  | .fault c d => cmdFault c d

/-- The outcome that an ended migb move keeps until its command ends. -/
def MoveEnd.kept (e : MoveEnd) : MovePhase :=
  match e.info with
  | .ok n => .done 0x00 0x00 n
  | .error (.status c d _ _) => .done c d 0
  | .error (.wait ..) => .done 0x00 0x00 0

/-- The move of a stopped migb (R466): one that has read no image yet is abandoned, another goes on to step 5. -/
def Move.stopped (mv : Move) : Move :=
  match mv.phase with
  | .take => { mv with phase := .giveBack .abandoned false }
  | .read | .nvmeRead => { mv with phase := .giveBack .abandoned true }
  | _ => mv

/-- migb: the block's move carried on; INFO once it has ended. -/
def runMigb (c : Cmd) (s : State) : State × CmdRun Nat :=
  let ended := fun (r : State × MoveEnd) => (r.1, r.2.info)
  match s.hub.moves.find? fun m => m.cmd = some c.id with
  | some mv =>
    (match mv.phase with
    | .done cd dt n => (putMove s mv none, if cd = 0#8 then .ok n else cmdFault cd dt)
    | _ => ended (continueMove s mv (runMove 8 (if c.stopping then mv.stopped else mv) s)))
  | none =>
    if c.stopping then (s, .ok 0) else
    let start : CmdRun (State × Option Move) := do
      cmdRequire (bitsNat c.opb 2 62 = 0) malformed.1 malformed.2
      let (s, h) ← bindSel c (refSel c.opa) s
      needObject h true false
      cmdRequire (hSpace h.entry = 0) cProtection 0x00
      needRange h (refOff c.opa) 16
      let eva := (hBase h.entry + refOff c.opa) % 2 ^ 80
      cmdRequire (eva % 16 = 0) cMisaligned 0x00
      beginMove c.ctx eva (c.opb.extractLsb' 0 2) (some c.id) s
    match start with
    | .error e => (s, .error e)
    | .ok (s, none) => (s, .ok 0)
    | .ok (s, some mv) => ended (continueMove s mv (runMove 8 mv s))

/-! ### migp (R367, R114) -/

/-- The frame to which the engine moves a page of a size: the manual does not say how it is chosen, so that it is a free value among the
aligned frames of the tier (log entry 16). -/
def freeFrame (m : Mem) (dtier : BitVec 2) (size : Nat) : Nat :=
  let base := if dtier = 0#2 then 0 else 0x10000000000
  let room := if dtier = 0#2 then 0x6000000000 else reservedFrom - 0x10000000000
  base + size * ((Config.freeDWord m.free).toNat % (room / size))

/-- Whether a frame lies in the tier. -/
def inTier (dtier : BitVec 2) (frame : Nat) : Bool := if dtier = 0#2 then inHbm frame else inLpddr frame

/-- One frame copied with its record and line states (R114, steps 1 and 4). -/
def copyFrame (src dst : Nat) (m : Mem) : Mem :=
  let m := (linesOfFrame (src / 65536) ++ linesOfFrame (dst / 65536)).foldl (evictLine true) m
  let old := frameRec m dst
  let r := frameRec m src
  let m := setFrameRec (logFrame m old) { frame := dst / 65536, attr := r.attr, key := r.key, changing := none }
  let m := homeWrite m dst (homeRead m src 65536) 0#2
  (List.range 512).foldl (fun m i => setWos m (dst / 128 + i) (wosState m (src + 128 * i))) m

/-- The detail of the fault of page `i` of a range (R47). -/
def pageFault (m : Mem) (x : Ctx) (lo i : Nat) : Option Byte :=
  match walkAfresh m x (lo + 65536 * i) with
  | .fault d => some d
  | _ => none

/-- The record of the page moves in progress replaced. -/
def putPages (s : State) (p : Option PageMove) : State := { s with hub := { s.hub with pageMove := p } }

/-- Steps 2 and 3 for a page (R114): SPL set in its leaf, its shootdown begun. -/
def beginPage (p : PageMove) (dtier : BitVec 2) (va : Nat) (l : Leaf) (s : State) : State × PageMove :=
  let size := 2 ^ l.log
  let dst := freeFrame s.m dtier size
  let m := setSpl { s.m with free := s.m.free + 1 } l
  let base := pageBase va l.log
  (shootdown { s with m := m } s.x.num base size,
    { p with page := some { pte := l.pte, entry := l.entry, log := l.log, base := base, frame := dst }, spans := [(base, size)] })

/-- Steps 1, 4 and 5 for a page (R114): its frames copied with their records and line states, and its leaf written with the new frame, which
clears SPL. The move takes a number of the event arbiter (R211). -/
def endPage (p : PageMove) (k : Splinter) (s : State) : State × PageMove :=
  let src := pteFrame k.entry
  let size := 2 ^ k.log
  let m := (List.range (size / 65536)).foldl (fun m i => copyFrame (src + 65536 * i) (k.frame + 65536 * i) m) s.m
  let m := ptePut (clearHeld m k.pte) k.pte (BitVec.ofNat 128 (k.entry.toNat - src + k.frame))
  ((takeSeq { s with m := m }).1, { p with page := none, spans := [], moved := p.moved + size / 65536 })

/-- The next page of the list that is not in the tier already begun, or the end. -/
def nextPage (p : PageMove) (dtier : BitVec 2) (stopping : Bool) (s : State) : State × CmdRun Nat :=
  match p.pages with
  | some (va :: rest) =>
    let p := { p with pages := some rest }
    if stopping then (putPages s none, .ok p.moved)
    else
      (match walkAfresh s.m s.x va with
      | .leaf l =>
        if offDevice (pteFrame l.entry) || inTier dtier (pteFrame l.entry) then (putPages s (some p), .error (.wait .splinter []))
        else
          let r := beginPage p dtier va l s
          (putPages r.1 (some r.2), .error (.wait .splinter []))
      | .stall => (s, .error (.wait .splinter []))
      | .fault d => (putPages s none, cmdFault cPageFault d))
  | _ => (putPages s none, .ok p.moved)

/-- The operands of migp checked (R367): the range, and the first table frame. -/
def migpRange (c : Cmd) (s : State) : CmdRun (State × Nat × Nat × Nat) := do
  let pages := bitsNat c.opb 32 32
  let dtier := c.opb.extractLsb' 0 2
  cmdRequire (bitsNat c.opb 2 30 = 0 && dtier.toNat ≤ 1 && bitsNat c.opd 0 16 = 0 && bitsNat c.opd 52 12 = 0) malformed.1 malformed.2
  let (s, h) ← bindSel c (refSel c.opa) s
  let lo := hBase h.entry + refOff c.opa
  needObject h false false
  cmdRequire (hSpace h.entry ≠ 1) cProtection 0x00
  cmdRequire (lo % 65536 = 0) malformed.1 malformed.2
  needRange h (refOff c.opa) (65536 * pages)
  .ok (s, lo, pages, bitsNat c.opd 0 52)

/-- The start of the page moves: every page has a leaf, and the splinters that the range needs have frames; a page that is held is waited
for. -/
def startPages (c : Cmd) (s : State) : CmdRun (State × PageMove) := do
  let (s, lo, pages, frame) ← migpRange c s
  let hi := lo + 65536 * pages
  let none_ : PageMove := { cmd := c.id, split := none, todo := [], spans := [], pages := none, page := none, moved := 0 }
  if pages = 0 then .ok (s, { none_ with pages := some [] })
  else if pagesStall s.m s.x lo pages then .error (.wait .splinter [])
  else
    match (List.range pages).findSome? (pageFault s.m s.x lo) with
    | some d => cmdFault cPageFault d
    | none =>
      let need := (splintersOf s.m s.x lo hi).filter fun p => p.2 = 28
      cmdRequire (need.isEmpty || frame ≠ 0) cPageFault 0x50
      cmdRequire ((List.range need.length).all fun k => tableFrame (frame + 65536 * k)) malformed.1 malformed.2
      .ok (s, { none_ with todo := withFrames frame need })

/-- The pages of a migp command listed once its splinters are done: the first VA of each leaf's page in the range. -/
def listPages (c : Cmd) (s : State) : List Nat :=
  match migpRange c s with
  | .ok (s, lo, pages, _) => ((leavesOf s.m s.x (lo + 65536 * pages) pages lo).getD []).map (·.1)
  | .error _ => []

/-- migp (R114, R367), one stage at a time: the splinters one after another, then the pages; each waits until its shootdown is complete. A splinter
that is abandoned is tried again from the entry as software has left it (log entry 47). INFO counts the 64 KiB pages that were not in the tier
already. -/
def runMigp (c : Cmd) (s : State) : State × CmdRun Nat :=
  let wait : CmdRun Nat := .error (.wait .splinter [])
  match s.hub.pageMove.filter fun p => p.cmd = c.id with
  | none =>
    (match startPages c s with
    | .error e => (s, .error e)
    | .ok (s, p) => (putPages s (some p), wait))
  | some p =>
    if anyInFlight s c.ctx p.spans then (s, wait)
    else
      match p.split, p.page, p.todo with
      | some k, _, _ =>
        (match endSplinter s c.ctx k with
        | (s, some span) => (putPages s (some { p with split := none, spans := [span] }), wait)
        | (s, none) => (putPages s none, wait))
      | none, some k, _ =>
        let r := endPage p k s
        (putPages r.1 (some r.2), wait)
      | none, none, (va, log, frame) :: rest =>
        if c.stopping then (putPages s none, .ok p.moved)
        else
          (match (leafAt s.m s.x va).filter fun l => l.log = log with
          | some l =>
            let r := beginSplinter s.m l va frame
            (putPages { s with m := r.1 } (some { p with split := some r.2, todo := rest, spans := [] }), wait)
          | none => (putPages s none, wait))
      | none, none, [] =>
        match p.pages with
        | none => (putPages s (some { p with pages := some (listPages c s) }), wait)
        | some _ => nextPage p (c.opb.extractLsb' 0 2) c.stopping s

/-! ### NVME_COMPLETION (R428) -/

/-- A move waits for a drive; a write that its interval still holds has not been sent (R174). -/
def awaitsDrive (m : Mem) (drive : BitVec 2) (mv : Move) : Bool :=
  (mv.phase = .nvmeRead && locDrive (kvLoc mv.old) = drive) ||
    (mv.phase = .nvmeWrite && locDrive mv.loc = drive &&
      !(m.outputs.any fun o => match o.2 with
        | .nvme d a _ => d = drive && a = locByte mv.loc
        | _ => false))

/-- NVME_COMPLETION: the oldest move that waits for the drive receives its answer and goes on. -/
def execNvmeCompletion (drive : BitVec 2) (status : BitVec 16) (s : State) : Host.Outcome State Fault Refusal :=
  .next (match s.hub.moves.find? (awaitsDrive s.m drive) with
    | none => s
    | some mv =>
      (asHub s mv.ctx fun s =>
        let a := answerMove mv (status = 0#16) s
        let r := if a.2.2 = .pending then runMove 8 a.2.1 a.1 else a
        let q := continueMove s mv r
        if q.2 = .pending then (q.1, ())
        else if mv.cmd.isNone then (ringPop q.1 q.1.x 0, ())
        else (putMove q.1 mv (some { mv with phase := q.2.kept }), ())).1)

end Sys2Proof.Machine
end

