-- ==== Sys2Proof/Machine/Cop.lean ====
section
/-!
DEFINITION. Engine commands from issue to completion (spec/13, R360 to R364, R372): the checks of `cop`, the scoreboard and the tile states
(spec/05, R102 to R107), the units, the event that completes a command, and the forms of `cop` one by one.
-/
namespace Sys2Proof.Machine

/-! ### Units (R5, R363, R221) -/

/-- The units that may serve a command, by their UNIT codes (R102), lowest first. -/
def cmdUnits (c : Cmd) : List Nat :=
  let die := c.core.toNat / 40
  let four := fun base => match c.issuer with
    | .warp _ => (List.range 4).map (base + 4 * die + ·)
    | .node _ => (List.range 16).map (base + ·)
  let f := c.func.toNat
  if f < 0x10 then (match c.issuer with
    | .warp _ => [0x20 + 4 * die + c.core.toNat % 40 / 10]
    | .node _ => four 0x20)
  else if f < 0x20 then four 0x10
  else if f < 0x30 then [0x30]
  else if f < 0x40 then four 0
  else [0x31]

/-- A unit runs a command. -/
def unitBusy (s : State) (u : Nat) : Bool := s.cmds.any fun c => c.started && c.unit.toNat = u && c.func.toNat < 0x50

/-- The die of a unit; `none` for a hub unit. -/
def unitDie (u : Byte) : Option Nat := if u.toNat < 0x30 then some (u.toNat % 16 / 4) else none

/-! ### A command at its unit -/

/-- The block for which a command acts. -/
def cmdBlock (s : State) (c : Cmd) : Block :=
  match c.issuer with
  | .warp _ => (blockOf s c.bid).getD Block.empty
  | .node n => hubBlock c.ctx c.htab c.prot n

/-- An operation of a command at its unit; its clock counts the context's resident time (R138). -/
def asUnit {α : Type} (s : State) (c : Cmd) (f : State → State × α) : State × α :=
  let b := cmdBlock s c
  let x := ctxFor s c.ctx
  asAgent s { agentWarp b c.core.toNat 0#32 with status := .parked .wos, cyc := BitVec.ofNat 64 x.rclk, since := c.parkedAt.getD x.rclk } b x f

/-- The plan of a command, the migration functions apart. -/
def planCmd (c : Cmd) (s : State) : CmdRun (State × CmdPlan) :=
  let r : Reader := { warp := false, hreg := none, cached := false, die := unitDie c.unit, expired := c.parkedAt.isSome && wosExpired s s.w.since }
  let c := c.cut
  match c.func.toNat with
  | 0x00 => planCpy r c s
  | 0x01 => planGath r c s
  | 0x02 => planScat r c s
  | 0x03 => planTcpy r c s
  | 0x04 => planFill c s
  | 0x05 => planTdec r c s
  | 0x10 => planEncode false false r c s
  | 0x11 => planEncode true false r c s
  | 0x12 => planEncode false true r c s
  | 0x13 => planEncode true true r c s
  | 0x30 => planAvdec r c s
  | _ => planCollective r c s

/-- A migration function, which acts on the page tables or the rings as it goes. -/
def Cmd.migrates (c : Cmd) : Bool := c.func = 0x20#7 || c.func = 0x21#7

/-- A command performed at its unit: its writes made, or why it does not end yet. -/
def runCmd (c : Cmd) (s : State) : State × CmdRun CmdPlan :=
  if c.func = 0x20#7 then
    let r := runMigp c s
    (r.1, r.2.map fun n => .done n [] [])
  else if c.func = 0x21#7 then
    let r := runMigb c s
    (r.1, r.2.map fun n => .done n [] [])
  else
    match planCmd c s with
    | .error e => (s, .error e)
    | .ok (t, p) =>
      match awaitWrites (unitDie c.unit) p.writes t with
      | .error e => (s, .error e)
      | .ok _ => (performWrites (unitDie c.unit) p.writes t, .ok p)

/-! ### Tile states (R102, R103) -/

/-- An entry with STATE, poison code and UNIT replaced. -/
def tileWith (e : DWord) (state : Nat) (poison : Option Byte) (unit : Nat) : DWord :=
  BitVec.ofNat 64 (atBit 62 state + atBit 61 poison.isSome.toNat + atBit 16 (bitsNat e 16 45) + atBit 8 unit + (poison.getD 0#8).toNat)

/-- A tile-table entry of a context's block written, by 256 times the core plus the entry number; of a context switched out, the saved
one, in its image too (R102, R395, R397). -/
def setTile (s : State) (ctx : BitVec 16) (key : Nat) (e : DWord) : State :=
  match (ctxOf s ctx).filter fun x => !x.resident with
  | some x =>
    hubPost (onCtx s ctx fun x => { x with tilesOut := x.tilesOut.map fun t => if t.1 = key then (key, e) else t }) x
      (ctxImage x + 0x10000 + 0x800 * (key / 256) + 8 * (key % 256)) (bytesOfNat 8 e.toNat)
  | none => onCore s (key / 256) fun k => { k with tiles := k.tiles.set (key % 256) e }

/-- The tiles of a block that meet some of its stash bytes, each once. -/
def tilesOver (s : State) (b : Block) (rs : List (Nat × Nat)) : List (Nat × DWord) :=
  (rs.flatMap fun r => (tilesAt s b r.1 r.2).map fun t => (256 * t.1 + t.2.1, t.2.2)).eraseDups

/-- The bytes of a tile become unpredictable (R103, R465). -/
def scrambleTile (s : State) (b : Block) (key : Nat) (e : DWord) : State :=
  let off := (key / 256 - b.core.toNat) * b.portion + (tLine e - b.base) * 128
  let n := 128 * tLines e
  let bytes := (List.range n).map fun i => Config.freeByte (s.m.free + i)
  { onBlock s b.bid (fun b => { b with stash := cellPut b.stash off bytes }) with m := { s.m with free := s.m.free + n } }

/-- A fill that ends with a fault: EMPTY, contents unpredictable (R103). -/
def spoilTiles (s : State) (b : Block) (ts : List (Nat × DWord)) : State :=
  ts.foldl (fun s t => setTile (scrambleTile s b t.1 t.2) b.ctx t.1 (tileWith t.2 0 none 0xFF)) s

/-- Fills that have ended: READY, poisoned where a poisoned region meets the tile (R103). -/
def readyTiles (s : State) (b : Block) (regions : List (Nat × Nat × Option Byte)) (ts : List (Nat × DWord)) : State :=
  let bad := regions.filter fun r => r.2.2.isSome
  ts.foldl (fun s t =>
    let code := bad.findSome? fun r => if (tilesOver s b [(r.1, r.2.1)]).any (fun q => q.1 = t.1) then r.2.2 else none
    setTile s b.ctx t.1 (tileWith t.2 2 code 0xFF)) s

/-! ### The end of a command (R362) -/

/-- The fault that a status names, with the place in the stream of a stream fault (R362, R380). -/
def statusTrap (st : DWord) : TrapInfo :=
  let stream := st.extractLsb' 56 8 = cDecodeStream || st.extractLsb' 56 8 = 0x21#8
  { code := st.extractLsb' 56 8, detail := st.extractLsb' 48 8, subs := if stream then st.extractLsb' 44 4 else 0xF#4,
    bitoff := if stream then st.extractLsb' 24 20 else 0#20 }

/-- The fault record of a command without reply, with the place in the stream that its status names (R362, R380). -/
def lateStatus (c : Cmd) (st : DWord) (s : State) : State :=
  let (s, seq) := takeSeq s
  lateArrives s (faultRecord s.w s.b seq c.pc (statusTrap st) c.active true false 0x00)

/-- A reply to a warp that is switched out goes to its image too (R395, R399). -/
def imageReply (d : BitVec 6) (st : DWord) (s : State) : State :=
  if s.x.resident then s
  else
    let r := warpRecord s.x s.w
    let s := hubPost s s.x (r + 0x400 + 8 * d.toNat) (bytesOfNat 8 st.toNat)
    hubPost s s.x (r + 0x600) (bytesOfNat 8 ((s.w.s.toList.zipIdx.foldl (fun n e => if e.1.poison then n + 2 ^ e.2 else n) 0)))

/-- A command ended with a status: the reply, an imprecise fault, or the result of its node. -/
def endCmd (s : State) (c : Cmd) (st : DWord) : State :=
  let s := { s with cmds := s.cmds.filter fun q => q.id ≠ c.id }
  match c.issuer with
  | .warp wid =>
    withWarp s wid fun s =>
      let w := flagDec s.w c.flag
      if c.reply then imageReply c.d st { s with w := setS w (Fin.ofNat 64 c.d.toNat) ⟨st, false⟩ }
      else if st.extractLsb' 56 8 = 0#8 then { s with w := w }
      else lateStatus c st { s with w := w }
  | .node n =>
    let s := if st.extractLsb' 56 8 = 0#8 then s else faultNode s (ctxFor s c.ctx) n (statusTrap st)
    { s with hub := { s.hub with nodes := s.hub.nodes.map fun q => if q.seq = n then { q with ended := 1 } else q } }

/-- A command's record replaced. -/
def putCmd (s : State) (c : Cmd) : State := { s with cmds := s.cmds.map fun q => if q.id = c.id then c else q }

/-! ### The start of a command (R103 to R107, R363) -/

/-- The tiles that a command fills enter FILLING (R103). -/
def startFill (s : State) (c : Cmd) (ts : List (Nat × DWord)) : State :=
  putCmd (ts.foldl (fun s t => setTile s c.ctx t.1 (tileWith t.2 1 none c.unit.toNat)) s) { c with fills := ts }

/-- A command's destination tiles as it begins: one that is FILLING or DRAINING for another ends the command, and nothing has changed (R103). -/
def beginFill (s : State) (c : Cmd) (ts : List (Nat × DWord)) : State :=
  if ts.any fun t => tState t.2 = 1 || tState t.2 = 3 then endCmd s c (statusWord cIllegalInstruction 0x40 0) else startFill s c ts

/-- A command stands behind a FENCE.XP of its warp (R129). -/
def behindXp (s : State) (c : Cmd) : Bool :=
  match c.issuer with
  | .warp wid => (warpOf s wid).any (fun w => w.xp.isSome) && xpHolds (focusOn s wid) c.since
  | .node _ => false

/-- A command begins once a unit is free, no cut (R169) and no FENCE.XP holds it (R129), the scoreboard lets it (R106), and the tiles that it
reads are READY (R104). -/
def startCmd (s : State) (c : Cmd) : State :=
  if c.started || 0x50 ≤ c.func.toNat || hubHeld s.hub || behindXp s c then s
  else
    match (cmdUnits c).find? fun u => !unitBusy s u with
    | none => s
    | some u =>
      let warp := match c.issuer with
        | .warp _ => true
        | .node _ => false
      if warp && boardHolds s c.core c.bid c.id c.reads c.writes then s
      else
        let c := { c with started := true, unit := BitVec.ofNat 8 u }
        if c.migrates then putCmd s c
        else
          let b := cmdBlock s c
          match (asUnit s c fun t => (t, (planCmd c t).map fun p => p.2.regions.map fun r => (r.1, r.2.1))).2 with
          | .error (.wait .tile _) => s
          | .error (.wait _ dest) | .error (.status _ _ _ dest) => beginFill s c (tilesOver s b dest)
          | .ok rs => beginFill s c (tilesOver s b rs)

/-- Every command that may start does, in the order of issue. -/
def startCmds (s : State) : State := s.cmds.foldl startCmd s

/-! ### ENGINE_COMPLETION -/

/-- The tile functions trdy and tdrn end: the warp's earlier stash stores are applied, or the tile is drained (R372); stopped, they leave the tile
as a fill or a drain that faults (R466, R103). -/
def completeTileFn (s : State) (c : Cmd) (wid : Nat) : State :=
  let early := fun (w : Warp) => w.stores.any fun e => e.since ≤ c.since && e.lanes.any fun l => l.place.stash
  let kept := fun (e : DWord) => if tPoison e then some (BitVec.ofNat 8 (tCode e)) else none
  if c.func = 0x52#7 then
    if (warpOf s wid).any early then s
    else if c.stopping then endCmd (spoilTiles s (cmdBlock s c) c.fills) c 0#64
    else endCmd (c.fills.foldl (fun s t => setTile s c.ctx t.1 (tileWith t.2 2 none 0xFF)) s) c 0#64
  else if c.stopping then endCmd (c.fills.foldl (fun s t => setTile s c.ctx t.1 (tileWith t.2 2 (kept t.2) 0xFF)) s) c 0#64
  else endCmd (c.fills.foldl (fun s t => setTile s c.ctx t.1 (tileWith t.2 0 none 0xFF)) s) c 0#64

/-- A started command performed and ended, or still waiting; while it runs, the tiles that it fills stand as they were before. A stopped one
ends with the part in progress, its tiles as after a fault, and a read of it that is parked is withdrawn (R466). -/
def completeCmd (s : State) (c : Cmd) : State :=
  let before := c.fills.foldl (fun s t => setTile s c.ctx t.1 t.2) s
  let r := asUnit before c (runCmd c)
  let b := cmdBlock s c
  match r.2 with
  | .error (.wait p _) =>
    let at_ := if p = .wos then some (c.parkedAt.getD (ctxFor s c.ctx).rclk) else none
    let s := if c.migrates then r.1 else s
    if c.stopping && (p = .wos || p = .tile) then endCmd (spoilTiles s b c.fills) c (statusWord cTimer 0x01 0)
    else putCmd { s with m := wantFor s.m p } { c with parkedAt := at_ }
  | .error (.status code detail info dest) =>
    endCmd (spoilTiles r.1 b (c.fills ++ (tilesOver r.1 b dest).filter fun t => !(c.fills.any fun q => q.1 = t.1))) c (statusWord code detail info)
  | .ok p =>
    if c.stopping then endCmd (spoilTiles r.1 b c.fills) c (statusWord cTimer 0x01 0) else
    let ts := tilesOver r.1 b (p.regions.map fun q => (q.1, q.2.1))
    let bad := tilesOver r.1 b p.spoiled
    let s := readyTiles r.1 b p.regions (ts ++ c.fills.filter fun t => !(ts.any fun q => q.1 = t.1) && !(bad.any fun q => q.1 = t.1))
    endCmd (spoilTiles s b (bad.filter fun t => !(ts.any fun q => q.1 = t.1))) c (statusWord p.code p.detail p.info)

/-- ENGINE_COMPLETION (R362): the started command of a number runs to its end, if it can; others may then start. Nothing ends once a cut has
been reported (R169). -/
def execEngineCompletion (cmd : Nat) (s : State) : Host.Outcome State Fault Refusal :=
  .next (match s.cmds.find? fun c => c.id = cmd && c.started && !hubSealed s.hub with
    | none => s
    | some c =>
      startCmds (match c.issuer with
        | .warp wid => if 0x50 ≤ c.func.toNat then completeTileFn s c wid else completeCmd s c
        | .node _ => completeCmd s c))

/-! ### Issue (R360, R363, R105) -/

/-- Functions that use OPB (R364). -/
def usesB (f : BitVec 7) : Bool := f.toNat < 0x50

/-- The operands that are references (R361). -/
def refWords (f : BitVec 7) (x y z : DWord) : List DWord :=
  if f = 0x04#7 || f = 0x20#7 || f = 0x21#7 then [x]
  else if f = 0x01#7 || f = 0x02#7 || 0x40 ≤ f.toNat then [x, y, z]
  else [x, y]

/-- The stash lines of bytes of a binding. -/
def byteLines (h : Handle) (off n : Nat) : List (Nat × Nat) := if hSpace h.entry = 1 then linesAt (hBase h.entry + off) n else []
/-- The stash lines of a whole binding. -/
def wholeLines (h : Handle) : List (Nat × Nat) := byteLines h 0 (hLength h.entry)

/-- The output binding that an avdec descriptor names, read ahead for its scoreboard range (R105). -/
def avOutput (s : State) (h : Handle) (off : Nat) : Option Handle :=
  match readHandle { hubReader with die := some (s.w.core.toNat / 40) } h off 64 s with
  | .ok (_, bs) => s.w.h.toList[natOfBytes ((bs.drop 2).take 2)]?
  | .error _ => none

/-- The read ranges and write ranges of a command (R105). -/
def cmdLines (s : State) (f : BitVec 7) (x y z : DWord) : List (Nat × Nat) × List (Nat × Nat) :=
  let at_ := fun (q : DWord) => s.w.h.toList.getD (refSel q) Handle.unbound
  let a := at_ x
  let b := at_ y
  let n := z.toNat
  let k := gatherRows z * gatherSize z
  let bl := fun (h : Handle) (q : DWord) (n : Nat) => byteLines h (refOff q) n
  match f.toNat with
  | 0x00 => (bl a x n, bl b y n)
  | 0x01 => (bl a x (4 * gatherRows z) ++ wholeLines (at_ z), bl b y k)
  | 0x02 => (bl a x (4 * gatherRows z) ++ bl b y k, wholeLines (at_ z))
  | 0x03 => (wholeLines a, wholeLines b)
  | 0x04 => ([], bl a x n)
  | 0x05 => (wholeLines a, bl b y (if z.getLsbD 0 then 4 * hElems a.entry else hElems a.entry + tileScales (hElems a.entry)))
  | 0x10 | 0x12 => (bl a x (hElems b.entry * ((hType a.entry).width / 8)), wholeLines b)
  | 0x11 | 0x13 => (bl a x (hElems b.entry + tileScales (hElems b.entry)), wholeLines b)
  | 0x30 => (wholeLines a ++ wholeLines b, wholeLines a ++ ((avOutput s a (refOff x)).map wholeLines).getD [])
  | 0x20 | 0x21 => ([], [])
  | _ => (wholeLines a ++ bl (at_ z) z 64, wholeLines b)

/-- A scalar of a 6-bit field. -/
def s6 (w : Warp) (a : BitVec 6) : Scalar := w.s[a.toNat]

/-- The operands, a poisoned one trapping (R66, R363, check 1); with a reply, s[d6] is one whatever the function does with it (R360). -/
def copOperands (f : BitVec 7) (reply : Bool) (d a b : BitVec 6) (w : Warp) : Run (DWord × DWord × DWord) :=
  match firstPoison ((if reply then [s6 w d] else []) ++ [s6 w a] ++ if usesB f then [s6 w b] else []) with
  | some c => consume c none
  | none => .ok ((s6 w a).val, if usesB f then (s6 w b).val else 0#64, if reply then (s6 w d).val else 0#64)

/-- Checks 3 and 4 of R363 on the references. -/
def copRefs (w : Warp) (refs : List DWord) : Run Unit :=
  if refs.any fun r => 16 ≤ refSel r then trap cIllegalInstruction 0x45
  else
    match refs.find? fun r => !(w.h.toList.getD (refSel r) Handle.unbound).bound with
    | some r => .error (.trap { code := cHandleBounds, detail := 0x00, hreg := BitVec.ofNat 4 (refSel r) })
    | none => .ok ()

/-- The record of a command that the warp in focus issues. -/
def newCmd (s : State) (id : Nat) (f : BitVec 7) (reply : Bool) (d : BitVec 6) (x y z : DWord) : Cmd :=
  let ls := cmdLines s f x y z
  { id := id, func := f, reply := reply, d := d, opd := z, opa := x, opb := y, issuer := .warp s.w.wid, ctx := s.w.ctx, bid := s.w.bid,
    core := s.w.core, handles := s.w.h.toList, htab := 0#80, unit := 0xFF, started := false, fills := [], reads := ls.1, writes := ls.2,
    flag := stFlag s.w, pc := s.w.pc, active := active s.w, prot := s.b.prot, since := s.w.cyc.toNat, parkedAt := none, stopping := false }

/-- The register fields of a `cop` word. -/
def copFields (f : BitVec 7) (reply : Bool) (d a b : BitVec 6) : List Opd :=
  (if reply then [.ssrc (d.setWidth 8)] else []) ++ [.ssrc (a.setWidth 8)] ++ if usesB f then [.ssrc (b.setWidth 8)] else []

/-- An engine function issued (R360, R363): its checks are made even with no active lane; the command takes a scoreboard entry. -/
def copForm (f : BitVec 7) (reply : Bool) (d a b : BitVec 6) (s : State) : Host.Outcome State Fault Refusal :=
  issue { rap := .no, opds := copFields f reply d a b } s fun s =>
    match copOperands f reply d a b s.w with
    | .error e => .error e
    | .ok (x, y, z) =>
      match copRefs s.w (refWords f x y z) with
      | .error e => .error e
      | .ok _ =>
        if active s.w = 0#64 then .ok (advance s)
        else if boardFull s s.w.core then park .scoreboard
        else
          let (s, id) := takeIssue s
          let c := newCmd s id f reply d x y z
          .ok (startCmds (advance { s with cmds := s.cmds ++ [c], w := flagInc s.w c.flag }))

/-- cpy (R365). -/
def execCpy (d a b : BitVec 6) (s : State) : Host.Outcome State Fault Refusal := copForm 0x00 true d a b s
/-- gath (R365). -/
def execGath (d a b : BitVec 6) (s : State) : Host.Outcome State Fault Refusal := copForm 0x01 true d a b s
/-- scat (R365). -/
def execScat (d a b : BitVec 6) (s : State) : Host.Outcome State Fault Refusal := copForm 0x02 true d a b s
/-- tcpy (R365). -/
def execTcpy (r : BitVec 1) (d a b : BitVec 6) (s : State) : Host.Outcome State Fault Refusal := copForm 0x03 (r = 1#1) d a b s
/-- fill (R365). -/
def execFill (d a b : BitVec 6) (s : State) : Host.Outcome State Fault Refusal := copForm 0x04 true d a b s
/-- tdec (R365). -/
def execTdec (d a b : BitVec 6) (s : State) : Host.Outcome State Fault Refusal := copForm 0x05 true d a b s
/-- encv (R366). -/
def execEncv (d a b : BitVec 6) (s : State) : Host.Outcome State Fault Refusal := copForm 0x10 true d a b s
/-- encc (R366). -/
def execEncc (d a b : BitVec 6) (s : State) : Host.Outcome State Fault Refusal := copForm 0x11 true d a b s
/-- encvp (R366). -/
def execEncvp (d a b : BitVec 6) (s : State) : Host.Outcome State Fault Refusal := copForm 0x12 true d a b s
/-- enccp (R366). -/
def execEnccp (d a b : BitVec 6) (s : State) : Host.Outcome State Fault Refusal := copForm 0x13 true d a b s
/-- migp (R367). -/
def execMigp (d a b : BitVec 6) (s : State) : Host.Outcome State Fault Refusal := copForm 0x20 true d a b s
/-- migb (R367). -/
def execMigb (r : BitVec 1) (d a b : BitVec 6) (s : State) : Host.Outcome State Fault Refusal := copForm 0x21 (r = 1#1) d a b s
/-- avdec (R368). -/
def execAvdec (r : BitVec 1) (d a b : BitVec 6) (s : State) : Host.Outcome State Fault Refusal := copForm 0x30 (r = 1#1) d a b s
/-- cbcast (R371). -/
def execCbcast (d a b : BitVec 6) (s : State) : Host.Outcome State Fault Refusal := copForm 0x40 true d a b s
/-- creduce (R371). -/
def execCreduce (d a b : BitVec 6) (s : State) : Host.Outcome State Fault Refusal := copForm 0x41 true d a b s
/-- callred (R371). -/
def execCallred (d a b : BitVec 6) (s : State) : Host.Outcome State Fault Refusal := copForm 0x42 true d a b s
/-- cgath (R371). -/
def execCgath (d a b : BitVec 6) (s : State) : Host.Outcome State Fault Refusal := copForm 0x43 true d a b s

/-! ### Tile functions (R372) -/

/-- The range word: stash byte offset and bytes. -/
def rangeOff (x : DWord) : Nat := bitsNat x 32 32
def rangeBytes (x : DWord) : Nat := 128 * (bitsNat x 0 11 + 1)

/-- The range lies in the portion of the stash that the issuing core contributes. -/
def rangeInside (s : State) (x : DWord) : Bool :=
  let lo := (s.w.core.toNat - s.b.core.toNat) * s.b.portion
  rangeOff x % 128 = 0 && lo ≤ rangeOff x && rangeOff x + rangeBytes x ≤ lo + s.b.portion

/-- The tile whose range equals the word: its key and entry. -/
def tileOf (s : State) (x : DWord) : Option (Nat × DWord) :=
  if !rangeInside s x then none
  else
    ((coreAt s s.w.core.toNat).tiles.toList.zipIdx.find? fun e =>
      tDef e.1 && tBslot e.1 = s.b.bslot.toNat && tLine e.1 = stashLine s.b (rangeOff x) && 128 * tLines e.1 = rangeBytes x).map
      fun e => (256 * s.w.core.toNat + e.2, e.1)

/-- A tile function issued: its operand and range word checked, then `k` with the word. -/
def tileFn (f : BitVec 7) (reply : Bool) (d a : BitVec 6) (s : State) (k : DWord → State → Run State) : Host.Outcome State Fault Refusal :=
  issue { rap := .no, opds := copFields f reply d a 0#6 } s fun s =>
    match copOperands f reply d a 0#6 s.w with
    | .error e => .error e
    | .ok (x, _, _) => if bitsNat x 11 21 ≠ 0 then trap cIllegalInstruction 0xA0 else k x s

/-- The reply of a tile function that acts at issue. -/
def tileReply (reply : Bool) (d : BitVec 6) (v : Nat) (s : State) : State :=
  advance (if reply then { s with w := setS s.w (Fin.ofNat 64 d.toNat) ⟨BitVec.ofNat 64 v, false⟩ } else s)

/-- The entry that tdef makes (R102, R103). -/
def newTile (s : State) (x : DWord) : DWord :=
  BitVec.ofNat 64 (atBit 60 1 + atBit 54 s.b.bslot.toNat + atBit 43 (bitsNat x 0 11) + atBit 30 (stashLine s.b (rangeOff x)) + atBit 8 0xFF)

/-- tdef. -/
def execTdef (d a : BitVec 6) (s : State) : Host.Outcome State Fault Refusal :=
  tileFn 0x50 true d a s fun x s =>
    if !rangeInside s x || !(tilesAt s s.b (rangeOff x) (rangeBytes x)).isEmpty then trap cIllegalInstruction 0x40
    else
      match (coreAt s s.w.core.toNat).tiles.toList.findIdx? fun e => !tDef e with
      | none => trap cIllegalInstruction 0x41
      | some n =>
        if active s.w = 0#64 then .ok (advance s)
        else .ok (tileReply true d n (setTile s s.w.ctx (256 * s.w.core.toNat + n) (newTile s x)))

/-- trel. -/
def execTrel (r : BitVec 1) (d a : BitVec 6) (s : State) : Host.Outcome State Fault Refusal :=
  tileFn 0x51 (r = 1#1) d a s fun x s =>
    match (tileOf s x).filter fun t => tState t.2 = 0 || tState t.2 = 2 with
    | none => trap cIllegalInstruction 0x40
    | some t => if active s.w = 0#64 then .ok (advance s) else .ok (tileReply (r = 1#1) d 0 (setTile s s.w.ctx t.1 0xFF00#64))

/-- tqry. -/
def execTqry (d a : BitVec 6) (s : State) : Host.Outcome State Fault Refusal :=
  tileFn 0x54 true d a s fun x s =>
    if active s.w = 0#64 then .ok (advance s) else .ok (tileReply true d (((tileOf s x).map fun t => t.2.toNat).getD 0) s)

/-- The state in which trdy (EMPTY or READY) or tdrn (READY) may start. -/
def tileStarts (f : BitVec 7) (e : DWord) : Bool := tState e = 2 || (f = 0x52#7 && tState e = 0)

/-- trdy or tdrn tried: it starts once R106 lets its entry, the warp waiting until then; a tile in another state faults, and nothing has
changed. -/
def tryTileFn (c : Cmd) (x : DWord) (s : State) : State :=
  if boardHolds s c.core c.bid c.id c.reads c.writes then { s with w := waiting s.w .scoreboard, turn := 0 }
  else
    let gone := { s with cmds := s.cmds.filter fun q => q.id ≠ c.id }
    match (tileOf s x).filter fun t => tileStarts c.func t.2 with
    | none => takeTrap gone { code := cIllegalInstruction, detail := 0x40 }
    | some t =>
      let part := 0x40 + s.w.part.toNat
      let s := setTile s s.w.ctx t.1 (if c.func = 0x52#7 then tileWith t.2 1 none part
                              else tileWith t.2 3 (if tPoison t.2 then some (BitVec.ofNat 8 (tCode t.2)) else none) part)
      let s := putCmd s { c with started := true, fills := [t], since := s.w.cyc.toNat }
      advance { s with w := flagInc s.w c.flag }

/-- The command of trdy or tdrn that the warp has at its program counter. -/
def ownTileFn (s : State) (f : BitVec 7) : Option Cmd :=
  s.cmds.find? fun c => c.func = f && !c.started && c.issuer = .warp s.w.wid && c.pc = s.w.pc

/-- trdy and tdrn (R372). -/
def tileWait (f : BitVec 7) (reply : Bool) (d a : BitVec 6) (s : State) : Host.Outcome State Fault Refusal :=
  tileFn f reply d a s fun x s =>
    if (tileOf s x).isNone then trap cIllegalInstruction 0x40
    else if active s.w = 0#64 then .ok (advance s)
    else
      match ownTileFn s f with
      | some c => .ok (tryTileFn c x s)
      | none =>
        if boardFull s s.w.core then park .scoreboard
        else
          let (s, id) := takeIssue s
          let c := { newCmd s id f reply d x 0#64 0#64 with reads := [], writes := linesAt (rangeOff x) (rangeBytes x) }
          .ok (tryTileFn c x { s with cmds := s.cmds ++ [c] })

/-- trdy. -/
def execTrdy (r : BitVec 1) (d a : BitVec 6) (s : State) : Host.Outcome State Fault Refusal := tileWait 0x52 (r = 1#1) d a s
/-- tdrn. -/
def execTdrn (r : BitVec 1) (d a : BitVec 6) (s : State) : Host.Outcome State Fault Refusal := tileWait 0x53 (r = 1#1) d a s

end Sys2Proof.Machine
end

