-- ==== Sys2Proof/Machine/Message.lean ====
section
/-!
DEFINITION. Messages between devices (spec/15, R406, R408, R414, R415, R420): the location and route tables, transaction tags, and where a
message goes: to this device itself, back to the source hub when the target is not present, or out.
-/
namespace Sys2Proof.Machine

/-- The location entry of an identity (R406). -/
def locOf (f : Fabric) (id : BitVec 10) : DWord := ((f.loc.find? fun e => e.1 = id).map (·.2)).getD 0#64
/-- PRESENT of an identity. -/
def present (f : Fabric) (id : BitVec 10) : Bool := (locOf f id).getLsbD 26
/-- VERTEX, INCARN and DOMAIN of an identity. -/
def locVertex (f : Fabric) (id : BitVec 10) : BitVec 10 := (locOf f id).extractLsb' 16 10
def locIncarn (f : Fabric) (id : BitVec 10) : BitVec 16 := (locOf f id).extractLsb' 0 16
def locDomain (f : Fabric) (id : BitVec 10) : BitVec 10 := (locOf f id).extractLsb' 27 10

/-- The route entry of a vertex (R408). -/
def routeOf (f : Fabric) (v : BitVec 10) : DWord := ((f.route.find? fun e => e.1 = v).map (·.2)).getD 0x0000000000000FFF#64

/-- A tag that no message in flight carries. -/
def freshTag (s : State) : BitVec 16 :=
  let used := (s.w :: s.warps).flatMap (fun w => w.remotes.map (·.tag)) ++
    s.fab.multicasts.flatMap fun m => m.copies.filterMap (·.tag)
  let try_ := fun i => s.hub.nextTag + BitVec.ofNat 16 i
  try_ (((List.range (used.length + 1)).find? fun i => !used.contains (try_ i)).getD 0)

/-- A tag taken. -/
def takeTag (s : State) : State × BitVec 16 :=
  let t := freshTag s
  ({ s with hub := { s.hub with nextTag := t + 1#16 } }, t)

/-- An event that is to happen on this device. -/
def post (s : State) (i : Instr) : State := { s with inbox := s.inbox ++ [i] }

/-- A message for another device. -/
def sendOut (s : State) (m : Message) : State := { s with fab := { s.fab with outbox := s.fab.outbox ++ [m] } }

/-- A message to an identity: what arrives here happens here; another device gets it through the fabric (R415). -/
def deliverTo (s : State) (dst : BitVec 10) (here : Instr) (there : Message) : State :=
  if dst = s.fab.ident then post s here else sendOut s there

/-- A short message: operation, destination, tag and auxiliary word (R415). -/
def shortMessage (mop : Byte) (dst : BitVec 10) (tag : BitVec 16) (aux : BitVec 16) (body : List Byte) : Message :=
  { mop := mop, dst := dst, tag := tag, addr := 0#80, aux := aux, body := body }

/-- A control message of a domain (R415, operations 0x20 to 0x2B). -/
def controlTo (s : State) (dst : BitVec 10) (mop : Byte) (n : Nat) (here : Instr) : State :=
  deliverTo s dst here (shortMessage mop dst 0#16 0#16 (bytesOfNat 8 n))

end Sys2Proof.Machine
end

