-- ==== Sys2Proof/Machine/Mirror.lean ====
section
/-!
DEFINITION. The mirror at the buddy (spec/07, R171, R174, R177, R181): its messages, the pages queued for it, the full copy that a new buddy
is sent, and what the records of the input log hold (R170).
-/
namespace Sys2Proof.Machine

/-! ### The domain (R176, R423) -/

/-- The devices of this device's recovery domain, itself included. -/
def domainMembers (f : Fabric) : List (BitVec 10) :=
  let ds := (f.loc.filter fun e => e.2.getLsbD 26 && e.2.extractLsb' 27 10 = f.domain).map (·.1)
  if f.ident = 0x3FF#10 || ds.contains f.ident then ds else f.ident :: ds

/-- The other devices of the domain. -/
def domainOthers (f : Fabric) : List (BitVec 10) := (domainMembers f).filter (· ≠ f.ident)

/-- FMWRITE of a doubleword to another device (R407, R415). -/
def fmMessage (d : BitVec 10) (off : Nat) (v : DWord) : Message :=
  { mop := 0x33, dst := d, tag := 0#16, addr := BitVec.ofNat 80 off, aux := 0#16, body := bytesOfNat 8 v.toNat }

/-! ### Messages (R171, R415; log entry 48) -/

/-- A WOS state as a record or a message gives it (R170). -/
def Wos.code : Wos → Nat
  | .unwritten => 0
  | .filling => 1
  | .published => 2

/-- AUX of a MIRROR message: the WOS state of the line, ATTR and KEY of its frame record. -/
def lineState (w : Option Wos) (r : FrameRec) : BitVec 16 :=
  BitVec.ofNat 16 (atBit 1 ((w.map Wos.code).getD 0) + atBit 3 r.attr.toNat + atBit 5 r.key.toNat)

/-- Bits of AUX beside them: a line for its owner's own memory; one of a full copy; the last of a copy or of a load; a request to send a page
again, and one by the page's owner. -/
def auxLoad : BitVec 16 := 0x0001
def auxCopy : BitVec 16 := 0x1000
def auxLast : BitVec 16 := 0x2000
def auxAgain : BitVec 16 := 0x4000
def auxOwner : BitVec 16 := 0x8000

/-- A bit of AUX is set. -/
def hasAux (st bit : BitVec 16) : Bool := st &&& bit ≠ 0#16

/-- A MIRROR message with one line. -/
def mirrorMessage (dst : BitVec 10) (line : Nat) (st : BitVec 16) (data : BitVec 1024) : Message :=
  { mop := 0x2A, dst := dst, tag := 0#16, addr := BitVec.ofNat 80 line, aux := st, body := dataBytes data 0 128 }

/-- The frame of a mirror message. -/
def messageFrame (q : Message) : Nat := q.addr.toNat / 512

/-- A line as it stands. -/
def lineNow (m : Mem) (line : Nat) : BitVec 1024 × BitVec 16 :=
  (lineData m line, lineState ((m.wos.find? fun e => e.1 = line).map (·.2)) (frameRec m (128 * line)))

/-- A line as of the last committed cut: its oldest record in the undo log, else as it stands (R170, R171). -/
def committedLine (m : Mem) (line : Nat) : BitVec 1024 × BitVec 16 :=
  (m.undo.foldl (fun (r : Option (BitVec 1024 × BitVec 16)) u => match u with
    | .line _ l data w _ rec_ _ => if l = line then some (data, lineState w rec_) else r
    | _ => r) none).getD (lineNow m line)

/-- The lines of a frame. -/
def frameLines (f : Nat) : List Nat := (List.range 512).map (512 * f + ·)

/-! ### Pages queued for the buddy -/

/-- The frame whose record, or whose line states, an undo record of an interval keeps. -/
def changedFrame (n : Nat) : UndoRec → Option Nat
  | .frame i r => if i = n then some r.frame else none
  | .states i f _ => if i = n then some f else none
  | .line .. | .loose .. => none

/-- The device frames that an interval wrote, or whose records it changed (log entry 28). -/
def writtenFrames (m : Mem) (n : Nat) : List Nat :=
  let written : List Nat := (m.marks.filter fun k => k.2 = n && inDevice (128 * k.1)).map fun k => k.1 / 512
  (written ++ m.undo.filterMap (changedFrame n)).eraseDups

/-- Pages queued for the mirror as they stand now. -/
def queueMirror (s : State) (n : Nat) (frames : List Nat) : State :=
  if s.fab.buddy = 0x3FF#10 then s
  else
    let ms := frames.flatMap fun f => (frameLines f).map fun l => (n, mirrorMessage s.fab.buddy l (lineNow s.m l).2 (lineNow s.m l).1)
    { s with hub := { s.hub with mirrorQueue := s.hub.mirrorQueue ++ ms } }

/-- The device pages that hold anything (R181). -/
def protectedFrames (m : Mem) : List Nat :=
  let held : List Nat := (m.cells.filter fun c => inDevice c.1).map fun c => c.1 / 65536
  let recs : List Nat := m.frames.map (·.frame)
  let states : List Nat := m.wos.map (·.1 / 512)
  (held ++ recs ++ states).eraseDups

/-- Pages as of the last committed cut queued ahead of everything else, marked as a copy; `last` marks its end. -/
def copyMessages (s : State) (frames : List Nat) (st : BitVec 16) : List (Nat × Message) :=
  frames.flatMap fun f => (frameLines f).map fun l =>
    let c := committedLine s.m l
    (0, mirrorMessage s.fab.buddy l (c.2 ||| st) c.1)

/-- A full copy for a new buddy (R181): REBUILD is set until it is complete, and what the buddy before it had of intervals that have not
committed is sent again. -/
def fullCopy (s : State) : State :=
  let fs := protectedFrames s.m
  let again := (s.hub.mirrorSent ++ s.hub.mirrorQueue).filter (fun q => !hasAux q.2.aux auxCopy)
  let copy := copyMessages s fs.dropLast auxCopy ++ lastPage (copyMessages s fs.getLast?.toList auxCopy)
  { s with hub := { s.hub with
      rebuild := true
      mirrorPending := []
      mirrorSent := []
      mirrorQueue := copy ++ again.map fun q => (q.1, { q.2 with dst := s.fab.buddy }) } }
where
  /-- the last line of a copy marked -/
  lastPage (l : List (Nat × Message)) : List (Nat × Message) :=
    l.dropLast ++ l.getLast?.toList.map fun q => (q.1, { q.2 with aux := q.2.aux ||| auxLast })

/-- BUDDY set: a new buddy is sent a full copy (R181). -/
def setBuddy (s : State) (b : BitVec 10) : State :=
  let t := { s with fab := { s.fab with buddy := b } }
  if b = s.fab.buddy || b = 0x3FF#10 then t else fullCopy t

/-- The queued pages of the interval after the last committed one, and those of a copy, are streamed (R171, R173). -/
def streamMirror (s : State) : State :=
  let now := s.hub.mirrorQueue.filter fun q => q.1 ≤ s.hub.lastCommit + 1
  if now.isEmpty then s
  else
    { s with
      fab := { s.fab with outbox := s.fab.outbox ++ now.map (·.2) }
      hub := { s.hub with
        mirrorQueue := s.hub.mirrorQueue.filter fun q => s.hub.lastCommit + 1 < q.1
        mirrorSent := s.hub.mirrorSent ++ now
        mirrorPending := s.hub.mirrorPending ++ ((now.filter fun q => q.2.addr.toNat % 512 = 511).map fun q => messageFrame q.2) } }

/-- A line of the firmware reservation, such as one of the journal, sent to the buddy's mirror (R171, R174). -/
def mirrorLine (s : State) (line : Nat) : State :=
  if s.fab.buddy = 0x3FF#10 then s else sendOut s (mirrorMessage s.fab.buddy line 0#16 (lineData s.m line))

/-- Bytes of the firmware reservation written by the hub itself, which no rollback undoes. -/
def hubCells (s : State) (pa : Nat) (data : List Byte) : State := { s with m := { s.m with cells := cellPut s.m.cells pa data } }

/-- Such bytes written, and their lines sent to the buddy. -/
def hubLog (s : State) (pa : Nat) (data : List Byte) : State := (linesOf pa data.length).foldl mirrorLine (hubCells s pa data)

/-! ### Records of the input log (R170, R174) -/

/-- A record of KIND 2: a host write with its sequence number, half, line and mask, and in bytes 32 to 95 what was written. -/
def inputRecord (r : InputRec) : List Byte :=
  bytesOfNat 32 (atBit 192 r.interval + atBit 128 r.mask.toNat + atBit 80 (bitsNat r.seq 0 48) + atBit 72 (bitsNat r.pa 6 1) + atBit 70 2
    + atBit 7 (lineOf r.pa.toNat)) ++ bytesOfNat 64 r.data.toNat ++ List.replicate 64 0#8

/-- Where the record of sequence number `seq` lies: beside the journal (log entry 28). -/
def inputAt (seq : DWord) : Nat :=
  let cap := 2 ^ (Config.journalCapLog.toNat + 16)
  Config.journalBase.toNat + 288 * cap + 160 * (seq.toNat % cap)

/-! ### Identities (R178, R406) -/

/-- A heartbeat of an identity noted, and those of several (R178). -/
def noteBeat (h : Hub) (id : BitVec 10) (at_ : Nat) : Hub := { h with beats := (id, at_) :: h.beats.filter fun b => b.1 ≠ id }
def noteBeats (h : Hub) (ids : List (BitVec 10)) (at_ : Nat) : Hub := ids.foldl (fun h d => noteBeat h d at_) h

/-- A location entry written; an identity of this device's domain that no device holds any more is awaited (R178, R179), and one that is held
again has its time-out from now on. -/
def putLocation (s : State) (id : BitVec 10) (v : DWord) : State :=
  let old := locOf s.fab id
  let loc := (id, v) :: s.fab.loc.filter fun e => e.1 ≠ id
  let gone := old.getLsbD 26 && !v.getLsbD 26 && v.extractLsb' 27 10 = s.fab.domain
  let h := if v.getLsbD 26 && !old.getLsbD 26 then noteBeat s.hub id (wall s) else s.hub
  { s with fab := { s.fab with loc := loc }, hub := if gone then { h with awaited := id :: h.awaited.filter (· ≠ id) } else h }

end Sys2Proof.Machine
end

