-- ==== Sys2Proof/Machine/Remote.lean ====
section
/-!
DEFINITION. Remote access at its source (spec/12, R329 to R333; spec/06, R148; spec/15, R420): the peer word, the checks at issue, the
groups of lanes, and the order in which they are sent; then tdetach and tattach (spec/12, R334, R335).
-/
namespace Sys2Proof.Machine

/-! ### The peer word (R237, R330) -/

def peerW64 (p : Word) : Bool := p.getLsbD 15
def peerOrd (p : Word) : BitVec 2 := p.extractLsb' 13 2
def peerAop (p : Word) : BitVec 3 := p.extractLsb' 10 3
def peerTarget (p : Word) : BitVec 10 := p.extractLsb' 0 10

/-- The remote operations: 0 rld, 1 rst, 2 ratom, 3 rred, 4 mcst. Those that return a value. -/
def remoteReturns (op : BitVec 3) : Bool := op = 0#3 || op = 2#3
/-- The operations that take AOP and W64 from the peer word. -/
def remoteAtomic (op : BitVec 3) : Bool := op = 2#3 || op = 3#3

/-- The access size of a lane (R329). -/
def remoteSize (w : Warp) (op : BitVec 3) (p : Word) : Nat := if remoteAtomic op then atomSize (peerW64 p) else accessSize w

/-- A peer word that R330 refuses: `tether`: the handle is a tether window. -/
def peerBad (b : Block) (op : BitVec 3) (tether : Bool) (p : Word) : Bool :=
  bitsNat p 16 16 ≠ 0 || (!remoteAtomic op && bitsNat p 10 6 ≠ 0) || (op = 3#3 && (peerOrd p ≠ 0#2 || 6 ≤ (peerAop p).toNat))
    || (if tether then b.gcount.toNat ≤ (peerTarget p).toNat else 992 < (peerTarget p).toNat) || (op = 4#3 && peerTarget p ≠ 0#10)

/-- The registers that d names for a peer word: a pair for 64 bits, and for cas the new value's (R246, R329). -/
def remoteOpd (w : Warp) (op : BitVec 3) (d : Byte) (p : Word) : Opd :=
  if remoteAtomic op then atomOpd (if op = 2#3 then peerAop p else 0#3) (peerW64 p) d else vdst d (modeEt w).isPair

/-- The data of a lane: the operand, and for cas the new value in the upper half. -/
def remoteData (w : Warp) (op : BitVec 3) (d : Nat) (p : Word) (l : Fin 64) : List Scalar :=
  let wide := if remoteAtomic op then peerW64 p else (modeEt w).isPair
  let x := vecSrc w wide d l
  if op = 0#3 then []
  else if op = 2#3 && peerAop p = 7#3 then [x, vecSrc w wide (d + (if wide then 2 else 1)) l] else [x]

/-! ### Sending (R148, R330, R332) -/

/-- A request as the event that performs it at its target. -/
def RemoteReq.event (q : RemoteReq) : Instr :=
  let mask := maskOf (q.lanes.map (·.1))
  let offs := q.lanes.map (·.2.1)
  let data := q.lanes.map (·.2.2)
  match q.op.toNat with
  | 0 => .rldRequest q.src q.tag q.ctx mask q.peer q.index q.mode q.space q.gang offs
  | 1 => .rstRequest q.src q.tag q.ctx mask q.peer q.index q.mode q.space q.gang offs data
  | 2 => .ratomRequest q.src q.tag q.ctx mask q.peer q.index q.mode q.space q.gang offs data
  | 3 => .rredRequest q.src q.tag q.ctx mask q.peer q.index q.mode q.space q.gang offs data
  | _ => .mcstRequest q.src q.tag q.ctx mask q.peer q.index q.mode q.space q.gang offs data q.place

/-- The bytes of a request body (R415): the mask, the peer word, the offsets and the data of each lane, of a size. -/
def RemoteReq.body (q : RemoteReq) (size : Nat) : List Byte :=
  bytesOfNat 8 (maskOf (q.lanes.map (·.1))).toNat ++ bytesOfNat 4 q.peer.toNat ++ q.lanes.flatMap (fun l => bytesOfNat 4 l.2.1.toNat)
    ++ (if q.op = 0#3 then [] else q.lanes.flatMap fun l => bytesOfNat size l.2.2.toNat ++
      (if q.op = 2#3 && peerAop q.peer = 7#3 then bytesOfNat size (l.2.2.toNat / 2 ^ 64) else []))

/-- What the address word of a request carries beside INDEX (R415): context, gang, space, MODE.ET and MODE.DS, and whether it is a
multicast copy. -/
def RemoteReq.addr (q : RemoteReq) : BitVec 80 :=
  BitVec.ofNat 80 (q.index.toNat + atBit 16 q.ctx.toNat + atBit 32 q.gang.toNat + atBit 48 q.space.toNat + atBit 51 (bitsNat q.mode 5 4)
    + atBit 55 (bitsNat q.mode 14 3) + atBit 58 q.place.isSome.toNat)

/-- A request sent to a device (R415); one that is not present is answered RNR by this hub (R420). -/
def sendRequest (s : State) (dst : BitVec 10) (q : RemoteReq) (size retries : Nat) : State :=
  if !present s.fab dst then post s (.rnr dst q.tag (maskOf (q.lanes.map (·.1))) 0x00#8)
  else
    deliverTo s dst q.event
      { mop := BitVec.ofNat 8 (q.op.toNat + 1), dst := dst, tag := q.tag, addr := q.addr,
        aux := BitVec.ofNat 16 retries,
        body := q.body size ++ (match q.place with
          | some n => bytesOfNat 8 n
          | none => []) }

/-- MODE as the target applies it: the element type and the scope captured at issue (R331). -/
def remoteMode (r : Remote) : Word := BitVec.ofNat 32 (atBit 5 r.type.toNat + atBit 14 r.scope.toNat)

/-- An access of the warp in focus sent. -/
def sendRemote (s : State) (r : Remote) : State × Remote :=
  let (s, tag) := takeTag s
  (sendRequest s r.target { op := r.op, src := s.fab.ident, tag := tag, ctx := s.w.ctx, peer := r.peer, index := r.index,
                            mode := remoteMode r, space := r.space, gang := s.b.gang, lanes := r.lanes, place := none } r.size r.retries,
    { r with tag := tag, sent := true, ready := none })

/-- An atomic that is a release is sent once the accesses that it follows are performed (R123, R124). -/
def remoteReady (s : State) (r : Remote) : Bool :=
  match r.rel with
  | none => true
  | some sc => earlierDone s r.since sc

/-- The accesses of the warp in focus that may be sent now, in program order: one whose target has no earlier access outstanding
(R148, R332). -/
def pumpFrom (done : List Remote) : List Remote → State → State × List Remote
  | [], s => (s, done)
  | r :: t, s =>
    if r.sent || r.ready.isSome || !remoteReady s r || done.any fun q => q.target = r.target then pumpFrom (done ++ [r]) t s
    else
      let q := sendRemote s r
      pumpFrom (done ++ [q.2]) t q.1

/-- The pending accesses of the warp in focus sent as far as their order admits. -/
def pumpRemotes (s : State) : State :=
  let r := pumpFrom [] s.w.remotes s
  { r.1 with w := { r.1.w with remotes := r.2 } }

/-! ### Issue (R330) -/

/-- The device that a peer word names (R40, R223). -/
def remoteTarget (b : Block) (tether : Bool) (p : Word) : BitVec 10 :=
  if tether then b.members.getD (peerTarget p).toNat 0x3FF#10 else peerTarget p

/-- One lane of a remote instruction. -/
structure RLane where
  lane : Fin 64
  peer : Word
  off : Word
  data : List Scalar
  deriving DecidableEq, Repr

/-- The offset of a lane runs beyond 2^32 (R330). -/
def RLane.beyond (w : Warp) (op : BitVec 3) (x : RLane) : Bool := 2 ^ 32 < x.off.toNat + remoteSize w op x.peer

/-- The pending access of one group (R330). -/
def groupRemote (s : State) (op : BitVec 3) (h : BitVec 4) (d : Byte) (ls : List RLane) (p : Word) : Remote :=
  let b := handleAt s.w h
  let mine := ls.filter fun x => x.peer = p
  { tag := 0#16, op := op, peer := p, target := remoteTarget s.b (hSpace b.entry = 3) p, index := b.index,
    space := BitVec.ofNat 3 (hSpace b.entry),
    lanes := mine.map fun x => (x.lane.val, x.off, (match x.data with
      | [v] => v.val.setWidth 128
      | v :: u :: _ => (u.val ++ v.val : BitVec 128)
      | [] => 0#128)),
    d := d.toNat, size := remoteSize s.w op p, signed := !remoteAtomic op && loadSigned s.w, type := s.w.mode.extractLsb' 5 4,
    scope := modeDs s.w, retries := 0, ready := none, sent := false, since := s.w.cyc.toNat, flag := stFlag s.w, pc := s.w.pc, hreg := h,
    rel := if op = 2#3 && (peerOrd p).getLsbD 1 then some (scopeIn s.b (modeDs s.w)) else none }

/-- Lanes of one width poisoned: a pending write that no flag tracks. -/
def poisonWide (d : Byte) (wide : Bool) (jobs : List LaneJob) (w : Warp) : Warp :=
  if jobs.isEmpty then w
  else addLoad w { kind := .vec d.toNat (if wide then 8 else 4) false, jobs := jobs, regs := pairRegs d wide, flag := none,
                   pc := w.pc, since := w.cyc.toNat, acquire := false, rel := none, hreg := 0#4 }

/-- A lane of a returning form writes a register pair, which d names rightly (R329, R246). -/
def RLane.wide (w : Warp) (op : BitVec 3) (d : Byte) (x : RLane) : Bool :=
  (if remoteAtomic op then peerW64 x.peer else (modeEt w).isPair) && ((remoteOpd w op d x.peer).bad w).isNone

/-- Lanes poisoned at issue (R24, R64, R330), each over the registers that it would have written. -/
def poisonNow (s : State) (op : BitVec 3) (d : Byte) (ls : List RLane) (code detail : Byte) : State :=
  let jobs := fun (wide : Bool) => (ls.filter fun x => x.wide s.w op d = wide).map fun x => (⟨x.lane.val, .poison code detail 0#80 true⟩ : LaneJob)
  { s with w := poisonWide d true (jobs true) (poisonWide d false (jobs false) s.w) }

/-- An instruction-wide fault of a remote instruction: deferred for the returning forms, else precise (R24, R330). -/
def remoteFault (s : State) (op : BitVec 3) (d : Byte) (h : BitVec 4) (ls : List RLane) (code detail : Byte) : Run State :=
  if remoteReturns op then .ok (advance (poisonNow s op d ls code detail))
  else .error (.trap { code := code, detail := detail, hreg := h })

/-- The instruction-wide checks of R330 and R23: unbound, a space that admits no remote access, a detached warp. -/
def remoteRefused (s : State) (op : BitVec 3) (h : Handle) : Option (Byte × Byte) :=
  if !h.bound then some (cHandleBounds, 0x00)
  else if hSpace h.entry < 3 || (op = 4#3 && hSpace h.entry ≠ 3) then some (cProtection, 0x00)
  else if s.w.detached then some (cTetherGone, 0x00)
  else none

/-- The groups of a remote instruction pushed and sent (R330). -/
def sendGroups (s : State) (op : BitVec 3) (h : BitVec 4) (d : Byte) (ls : List RLane) : State :=
  let rs := (ls.map (·.peer)).eraseDups.map (groupRemote s op h d ls)
  pumpRemotes { s with w := rs.foldl (fun w r => flagInc { w with remotes := w.remotes ++ [r] } r.flag) s.w }

/-- The lanes whose peer words and ranges have been judged (R330). -/
def remoteLanes (s : State) (op : BitVec 3) (d : Byte) (h : BitVec 4) (ls : List RLane) : Run State :=
  let tether : Bool := hSpace (handleAt s.w h).entry = 3
  let peers := (ls.map (·.peer)).eraseDups
  if peers.any (peerBad s.b op tether) then .error (.trap { code := cIllegalInstruction, detail := 0x74, hreg := h })
  else if remoteAtomic op && peers.any fun p => !atomType (peerAop p) (peerW64 p) (modeEt s.w) then trap cIllegalInstruction 0x75
  else
    match peers.findSome? fun p => (remoteOpd s.w op d p).bad s.w with
    | some r => trap cIllegalRegister r
    | none =>
      if peers.any fun p => (remoteOpd s.w op d p).pending s then park .interlock
      else
        match memReady s with
        | .error e => .error e
        | .ok _ =>
          match requestsFree s ls.length with
          | .error e => .error e
          | .ok _ =>
            let out := ls.filter (RLane.beyond s.w op)
            let rest := ls.filter fun x => !x.beyond s.w op
            if 256 ≤ s.w.remotes.length then park .fence
            else if remoteReturns op then .ok (advance (sendGroups (poisonNow s op d out cHandleBounds 0x00) op h d rest))
            else if out.isEmpty then .ok (advance (sendGroups s op h d rest))
            else .error (.trap { code := cHandleBounds, detail := 0x00, mask := some (maskOf (out.map (·.lane.val))), hreg := h })

/-- A remote instruction (R329, R330). -/
def remoteForm (op : BitVec 3) (d o p : Byte) (h2 : BitVec 2) (s : State) : Host.Outcome State Fault Refusal :=
  let h : BitVec 4 := h2.setWidth 4
  issue { rap := .no, opds := [if remoteAtomic op then .vreg d 1 1 else vdst d (wideEt s), .vsrc o false, .vsrc p false], hreg := h } s fun s =>
    match readV s false o with
    | .error e => .error e
    | .ok (s, off) =>
      match readV s false p with
      | .error e => .error e
      | .ok (s, peer) =>
        match consumeV (active s.w) peer with
        | .error e => .error e
        | .ok _ =>
          match consumeV (active s.w) off with
          | .error e => .error e
          | .ok _ =>
            let ls : List RLane := (laneList (active s.w)).map fun l =>
              ⟨l, (peer l).val.setWidth 32, (off l).val.setWidth 32, remoteData s.w op d.toNat ((peer l).val.setWidth 32) l⟩
            match ls.find? fun x => x.data.any (·.poison) with
            | some x => consume ((firstPoison x.data).getD 0x00) (some (maskOf ((ls.filter fun y => y.data.any (·.poison)).map (·.lane.val))))
            | none =>
              match remoteRefused s op (handleAt s.w h) with
              | some (c, dt) => remoteFault s op d h ls c dt
              | none => if ls.isEmpty then .ok (advance s) else remoteLanes s op d h ls

/-- RLD (R329). -/
def execRld (d o p : BitVec 8) (h : BitVec 2) (s : State) : Host.Outcome State Fault Refusal := remoteForm 0#3 d o p h s
/-- RST (R329). -/
def execRst (d o p : BitVec 8) (h : BitVec 2) (s : State) : Host.Outcome State Fault Refusal := remoteForm 1#3 d o p h s
/-- RATOM (R329). -/
def execRatom (d o p : BitVec 8) (h : BitVec 2) (s : State) : Host.Outcome State Fault Refusal := remoteForm 2#3 d o p h s
/-- RRED (R329). -/
def execRred (d o p : BitVec 8) (h : BitVec 2) (s : State) : Host.Outcome State Fault Refusal := remoteForm 3#3 d o p h s
/-- MCST (R329, R333): its target is the multicast home, the device of member 0. -/
def execMcst (d o p : BitVec 8) (h : BitVec 2) (s : State) : Host.Outcome State Fault Refusal := remoteForm 4#3 d o p h s

/-! ### Tether attachment (R334, R335) -/

/-- TDETACH (R334): waits for every remote access of the warp; in a gang the warp is then detached. -/
def execTdetach (s : State) : Host.Outcome State Fault Refusal :=
  issue { rap := .no, opds := [] } s fun s =>
    if s.w.remotes ≠ [] then park .detach
    else .ok (advance { s with w := { s.w with detached := s.b.gcount ≠ 0#9 } })

/-- Every member of the gang held here has reached round `m` (R335). -/
def localReached (s : State) (m : Nat) : Bool :=
  (allBlocks s).all fun b =>
    !(b.gang = s.b.gang && b.ctx = s.b.ctx && b.gcount ≠ 0#9 && b.bid ≠ 0) ||
      (allWarps s).all fun w => w.bid ≠ b.bid || w.rap || w.status = .vacant || w.status = .done || w.detached || m ≤ w.attached

/-- Every member of the gang has reached round `m`. What members on other devices have reached no single device shows: a free value
(log entry 14). -/
def gangReached (s : State) (m : Nat) : Bool :=
  localReached s m && (s.b.members.all (fun d => d = s.fab.ident) || (Config.freeDWord s.clk).getLsbD 0)

/-- TATTACH (R335): a release and, on return, an acquire at gang scope. -/
def execTattach (s : State) : Host.Outcome State Fault Refusal :=
  issue { rap := .no, opds := [] } s fun s =>
    if s.b.gcount = 0#9 then .ok (advance s)
    else if s.w.detached then trap cIllegalInstruction 0x73
    else if s.w.status = .parked .tattach then (if gangReached s s.w.attached then .ok (advance s) else park .tattach)
    else
      match awaitDrained s 3#3 with
      | .error e => .error e
      | .ok _ =>
        let t := { s with w := { s.w with attached := s.w.attached + 1 } }
        if gangReached t t.w.attached then .ok (advance t) else .ok { t with w := waiting t.w .tattach, turn := 0 }

end Sys2Proof.Machine
end

