-- ==== Sys2Proof/Machine/RemoteTarget.lean ====
section
/-!
DEFINITION. Remote access at its target and the answers at its source (spec/12, R331 to R333; spec/02, R40; spec/06, R148, R149; spec/15,
R420, R422; spec/07, R176): binding at the target, the lanes performed there, the multicast home, and ACK, RNR, ERR and the retry.
-/
namespace Sys2Proof.Machine

/-! ### Requests -/

/-- The lanes of a mask with their offsets and data, in ascending lane (R415). -/
def requestLanes (mask : Mask) (offs : List Word) (data : List (BitVec 128)) : List (Nat × Word × BitVec 128) :=
  (laneList mask).zipIdx.map fun l => (l.1.val, offs.getD l.2 0#32, data.getD l.2 0#128)

/-- How one lane of a request ends at the target (R331). -/
inductive LaneAnswer where
  | done (data : DWord)
  | rnr (reason : Byte)
  | err (code detail : Byte)
  | parked
  deriving DecidableEq, Repr

/-- A fault found at the target: an error, or receiver-not-ready (R331). -/
def answerFault (code detail : Byte) : LaneAnswer :=
  if code = cIllegalAtomic || code = cAliasAttr || code = cWosRewrite || code = cMisaligned || code = cWosTimeout then .err code detail
  else .rnr code

/-- The access that a remote operation makes (R331). -/
def remoteAccess (op : BitVec 3) : Access :=
  match op.toNat with
  | 0 => .load
  | 2 => .atomic
  | 3 => .reduce
  | _ => .store

/-! ### Binding at the target (R40) -/

/-- Check 6 of R28 for a peer-remote entry, made at the target. -/
def regionMiss (e : BitVec 512) (r : BitVec 256) : Bool :=
  !regV r || !regR r || regHi r ≤ regLo r || hBase e < regLo r || regHi r < hBase e + hLength e

/-- The binding that INDEX has in the target's own table, for the block in focus, or why there is none (R40, R28). -/
def bindTarget (q : RemoteReq) (s : State) : State × (LaneAnswer ⊕ Handle) :=
  match hubFetch s s.x ((s.b.htab.toNat + 64 * q.index.toNat) % 2 ^ 80) 64 with
  | .error none => (s, .inl .parked)
  | .error (some t) => (s, .inl (answerFault t.code t.detail))
  | .ok (s, n) =>
    let e := BitVec.ofNat 512 n
    let h : Handle := { Handle.unbound with bound := true, tbl := true, index := q.index, entry := e, regionW := true }
    match bindCheck s.b e 0#256 with
    | some f => (s, .inl (.rnr f.2))
    | none =>
      if hSpace e ≠ q.space.toNat then (s, .inl (.rnr 0x00))
      else if hSpace e = 3 then (s, .inr { h with entry := setBits e 92 3 1#3 })
      else
        match hubFetch s s.x ((s.b.htab.toNat + 0x400000 + 32 * hRegion e) % 2 ^ 80) 32 with
        | .error none => (s, .inl .parked)
        | .error (some t) => (s, .inl (answerFault t.code t.detail))
        | .ok (s, n) =>
          let r := BitVec.ofNat 256 n
          if regionMiss e r then (s, .inl (.rnr 6)) else (s, .inr { h with regionW := regW r })

/-! ### Lanes at the target (R331, R320) -/

/-- A read-and-write at the target (R319, R320). -/
def targetAtomic (q : RemoteReq) (size : Nat) (p : Place) (data : BitVec 128) (s : State) : State × LaneAnswer :=
  let op := peerAop q.peer
  let wide := peerW64 q.peer
  let x := bitsNat data 0 64
  match atomPage p with
  | some d => (s, .err cIllegalAtomic d)
  | none =>
    if q.op = 3#3 then
      (reduceLane op wide (q.mode.extractLsb' 5 4) { lane := 0, place := p, size := size, data := BitVec.ofNat 64 x } s, .done 0#64)
    else
      let r := readWrite s s.w.core.toNat p size (atomNew op (modeEt s.w) size (x % 2 ^ (8 * size)) (bitsNat data 64 64))
      (r.1, .done (BitVec.ofNat 64 r.2))

/-- A resolved lane performed as the matching local form. -/
def targetPerform (q : RemoteReq) (expired : Bool) (size : Nat) (p : Place) (data : BitVec 128) (s : State) : State × LaneAnswer :=
  match (if q.op = 0#3 then readCheck s.m p else homeCheck s.m p) with
  | some d => (s, .err cAliasAttr d)
  | none =>
    if homeStalls s.m p then (s, .parked)
    else if !(p.stash || p.attr = aIp || lineHeld s s.w.core.toNat p.pa (q.op ≠ 0#3)) then
      ({ s with m := wantLine s.m (agentOf s s.w.core.toNat) (lineOf p.pa) (if q.op = 0#3 then .s else .m) }, .parked)
    else if q.op = 0#3 then
      if unpublished s p then (s, if expired then .err cWosTimeout 0x00 else .parked)
      else
        let r := loadAt s s.w.core.toNat false p size
        (r.1, .done (BitVec.ofNat 64 (natOfBytes r.2)))
    else if remoteAtomic q.op then targetAtomic q size p data s
    else
      match storeRefused s p with
      | some f => (s, .err f.1 f.2)
      | none => (wakeBarriers s.b (storeAt s s.w.core.toNat p (bytesOfNat size data.toNat)), .done 0#64)

/-- One lane: bounds, alignment, resolution, then the operation. -/
def targetLane (q : RemoteReq) (expired : Bool) (h : Handle) (off : Word) (data : BitVec 128) (s : State) : State × LaneAnswer :=
  let size := remoteSize s.w q.op q.peer
  if hLength h.entry < off.toNat + size then (s, .rnr cHandleBounds)
  else if (hBase h.entry + off.toNat) % size ≠ 0 then (s, .err cMisaligned 0x00)
  else
    match resolveByte s h (remoteAccess q.op) off.toNat with
    | .fault c d _ => (s, answerFault c d)
    | .stall => (s, .parked)
    | .ok s p => targetPerform q expired size p data s

/-- The lanes in ascending order. -/
def targetLanes (q : RemoteReq) (expired : Bool) (h : Handle) : List (Nat × Word × BitVec 128) → State → State × List (Nat × LaneAnswer)
  | [], s => (s, [])
  | (l, o, d) :: t, s =>
    let r := targetLane q expired h o d s
    let rest := targetLanes q expired h t r.1
    (rest.1, (l, r.2) :: rest.2)

/-- Every lane of a request answered alike. -/
def allLanes (q : RemoteReq) (a : LaneAnswer) : List (Nat × LaneAnswer) := q.lanes.map fun l => (l.1, a)

/-- The block that resolves a request: the member named for a tether window, else any block of the context (R40, R201). -/
def targetBlock (s : State) (q : RemoteReq) : Option Block :=
  (allBlocks s).find? fun b => b.bid ≠ 0 && b.ctx = q.ctx &&
    (q.space ≠ 3#3 || (b.gcount ≠ 0#9 && b.gang = q.gang && b.member.toNat = (peerTarget q.peer).toNat))

/-- A request resolved and performed (R331, R40, R176). -/
def performRequest (q : RemoteReq) (expired : Bool) (s : State) : State × List (Nat × LaneAnswer) :=
  if q.src ≠ s.fab.ident && locDomain s.fab q.src ≠ s.fab.domain then (s, allLanes q (.err cProtection 0x07))
  else
    match targetBlock s q with
    | none => (s, allLanes q (if q.space = 3#3 then .err cTetherGone 0x00 else .rnr 0x00))
    | some b =>
      match ctxOf s q.ctx with
      | none => (s, allLanes q (.rnr 0x00))
      | some x =>
        asAgent s (agentWarp b b.core.toNat q.mode) b x fun s =>
          match bindTarget q s with
          | (s, .inl r) => (s, allLanes q r)
          | (s, .inr h) => targetLanes q expired h q.lanes s

/-! ### Answers (R331, R420) -/

/-- ACK. -/
def sendAck (s : State) (q : RemoteReq) (data : List DWord) : State :=
  deliverTo s q.src (.ack s.fab.ident q.tag data) (shortMessage 0x06 q.src q.tag 0#16 (data.flatMap fun d => bytesOfNat 8 d.toNat))
/-- RNR with the lanes refused and the reason. -/
def sendRnr (s : State) (q : RemoteReq) (mask : Mask) (reason : Byte) : State :=
  deliverTo s q.src (.rnr s.fab.ident q.tag mask reason) (shortMessage 0x07 q.src q.tag (reason.setWidth 16) (bytesOfNat 8 mask.toNat))
/-- ERR with the lanes and the fault code. -/
def sendErr (s : State) (q : RemoteReq) (mask : Mask) (code detail : Byte) : State :=
  deliverTo s q.src (.err s.fab.ident q.tag mask code detail)
    (shortMessage 0x08 q.src q.tag (code.setWidth 16) (bytesOfNat 8 mask.toNat ++ [detail]))

/-- The RNR answer for the refused lanes, with the reason of the lowest. -/
def answerRnr (q : RemoteReq) (as : List (Nat × LaneAnswer)) (s : State) : State :=
  let out := as.filterMap fun a => match a.2 with
    | .rnr r => some (a.1, r)
    | _ => none
  match out with
  | [] => s
  | o :: _ => sendRnr s q (maskOf (out.map (·.1))) o.2

/-- The ERR answers, one for each code and detail. -/
def answerErr (q : RemoteReq) (as : List (Nat × LaneAnswer)) (s : State) : State :=
  let out := as.filterMap fun a => match a.2 with
    | .err c d => some (a.1, c, d)
    | _ => none
  (out.map (·.2)).eraseDups.foldl (fun s f => sendErr s q (maskOf ((out.filter fun o => o.2 = f).map (·.1))) f.1 f.2) s

/-- The data of the lanes of a request that have been performed, with those performed before, in ascending lane. -/
def doneLanes (as : List (Nat × LaneAnswer)) (before : List (Nat × DWord)) : List (Nat × DWord) :=
  let now := as.filterMap fun a => match a.2 with
    | .done d => some (a.1, d)
    | _ => none
  (now ++ before).mergeSort fun a b => a.1 ≤ b.1

/-- A request served at its target: refused and failed lanes are answered, parked ones are held, and the others are acknowledged once
none is parked and their bytes have reached every core copy (R161). -/
def serve (q : RemoteReq) (before : List (Nat × DWord)) (since : Nat) (sids : List Nat) (expired : Bool) (s : State) : State :=
  let r := performRequest q expired s
  let sids := (s.m.sid :: sids).filter (forwarding r.1.m)
  let s := answerErr q r.2 (answerRnr q r.2 { r.1 with m := nextStore r.1.m })
  let dn := doneLanes r.2 before
  let held := q.lanes.filter fun l => r.2.any fun a => a.1 = l.1 && a.2 = .parked
  if !held.isEmpty || !sids.isEmpty then
    { s with fab := { s.fab with parked := s.fab.parked ++ [{ since := since, request := { q with lanes := held }, done := dn, sids := sids }] } }
  else
    let s := match q.place with
      | some p => if dn.isEmpty then s else
        mapBlocks s fun b => if b.ctx = q.ctx && b.gang = q.gang && b.member.toNat = (peerTarget q.peer).toNat then { b with mcast := p + 1 } else b
      | none => s
    if dn.isEmpty then s else sendAck s q (if remoteReturns q.op then dn.map (·.2) else [])

/-- The clock by which a request of a context parks: that of the context's residence (R138). -/
def parkClock (s : State) (ctx : BitVec 16) : Nat := ((ctxOf s ctx).map (·.rclk)).getD 0

/-- The deferral limit of a parked request has passed (R138). -/
def parkExpired (s : State) (p : ParkedReq) : Bool :=
  match ctxOf s p.request.ctx with
  | some x => bitsNat x.desc 76 20 * 1000 ≤ (x.rclk - p.since) * 10 / 16
  | none => true

/-- The oldest parked request tried again. -/
def serveParked (s : State) : State :=
  match s.fab.parked with
  | [] => s
  | p :: t => serve p.request p.done p.since p.sids (parkExpired s p) { s with fab := { s.fab with parked := t } }

/-! ### The multicast home (R149, R333, R422) -/

/-- The request that a copy carries. -/
def copyRequest (s : State) (m : Multicast) (c : McCopy) (tag : BitVec 16) : RemoteReq :=
  { m.request with src := s.fab.ident, tag := tag, place := some m.place,
                   peer := BitVec.ofNat 32 (m.request.peer.toNat / 1024 * 1024 + c.member),
                   lanes := m.request.lanes.filter fun l => c.mask.getLsbD l.1 }

/-- One multicast record changed. -/
def onMulticast (s : State) (gang : BitVec 16) (place : Nat) (f : Multicast → Multicast) : State :=
  { s with fab := { s.fab with multicasts := s.fab.multicasts.map fun m => if m.gang = gang && m.place = place then f m else m } }

/-- One copy sent. -/
def sendCopy (s : State) (m : Multicast) (c : McCopy) : State :=
  let (s, tag) := takeTag s
  let s := onMulticast s m.gang m.place fun m =>
    { m with copies := m.copies.map fun d => if d.member = c.member then { c with tag := some tag, ready := none } else d }
  sendRequest s (m.members.getD c.member 0x3FF#10) (copyRequest s m c tag)
    (max 1 ((Elem.ofCode (m.request.mode.extractLsb' 5 4)).width / 8)) c.retries

/-- The copies that may be sent: those not yet sent whose member has applied or exhausted every earlier multicast of the gang. -/
def sendableCopies : List (BitVec 16 × Nat) → List Multicast → List (Multicast × McCopy)
  | _, [] => []
  | busy, m :: t =>
    ((m.copies.filter fun c => c.tag.isNone && c.ready.isNone && !busy.contains (m.gang, c.member)).map fun c => (m, c))
      ++ sendableCopies (busy ++ m.copies.map fun c => (m.gang, c.member)) t

/-- The multicasts whose every member has applied them or is exhausted are answered and removed (R333). -/
def endMulticasts (s : State) : State :=
  let out := s.fab.multicasts.filter fun m => m.copies.isEmpty
  let s := { s with fab := { s.fab with multicasts := s.fab.multicasts.filter fun m => !m.copies.isEmpty } }
  out.foldl (fun s m => match m.failed with
    | some f => sendErr s m.request (maskOf (m.request.lanes.map (·.1))) f.1 f.2
    | none => sendAck s m.request []) s

/-- The multicast order goes on. -/
def pumpMulticasts (s : State) : State :=
  let s := endMulticasts s
  (sendableCopies [] s.fab.multicasts).foldl (fun s c => sendCopy s c.1 c.2) s

/-- A multicast store reaching its home: it takes the next place of the gang's order (R149). -/
def orderMulticast (q : RemoteReq) (s : State) : State :=
  if q.src ≠ s.fab.ident && locDomain s.fab q.src ≠ s.fab.domain then sendErr s q (maskOf (q.lanes.map (·.1))) cProtection 0x07
  else
    match targetBlock s q with
    | none => sendErr s q (maskOf (q.lanes.map (·.1))) cTetherGone 0x00
    | some b =>
      let place := ((s.fab.mcast.find? fun g => g.1 = q.gang).map (·.2)).getD 0
      let m : Multicast := { gang := q.gang, place := place, request := q, members := b.members, failed := none
                             copies := (List.range b.gcount.toNat).map fun i =>
                               { member := i, mask := maskOf (q.lanes.map (·.1)), tag := none, retries := 0, ready := none } }
      pumpMulticasts { s with fab := { s.fab with
        mcast := (q.gang, place + 1) :: s.fab.mcast.filter fun g => g.1 ≠ q.gang
        multicasts := s.fab.multicasts ++ [m] } }

/-! ### Request events -/

/-- RLD at the target (R331). -/
def execRldRequest (src : BitVec 10) (tag ctx : BitVec 16) (mask : BitVec 64) (peer : BitVec 32) (index : BitVec 16) (mode : BitVec 32)
    (space : BitVec 3) (gang : BitVec 16) (offsets : List (BitVec 32)) (s : State) : Host.Outcome State Fault Refusal :=
  .next (serve ⟨0#3, src, tag, ctx, peer, index, mode, space, gang, requestLanes mask offsets [], none⟩ [] (parkClock s ctx) [] false s)
/-- RST at the target (R331). -/
def execRstRequest (src : BitVec 10) (tag ctx : BitVec 16) (mask : BitVec 64) (peer : BitVec 32) (index : BitVec 16) (mode : BitVec 32)
    (space : BitVec 3) (gang : BitVec 16) (offsets : List (BitVec 32)) (data : List (BitVec 128)) (s : State) :
    Host.Outcome State Fault Refusal :=
  .next (serve ⟨1#3, src, tag, ctx, peer, index, mode, space, gang, requestLanes mask offsets data, none⟩ [] (parkClock s ctx) [] false s)
/-- RATOM at the target (R331). -/
def execRatomRequest (src : BitVec 10) (tag ctx : BitVec 16) (mask : BitVec 64) (peer : BitVec 32) (index : BitVec 16) (mode : BitVec 32)
    (space : BitVec 3) (gang : BitVec 16) (offsets : List (BitVec 32)) (data : List (BitVec 128)) (s : State) :
    Host.Outcome State Fault Refusal :=
  .next (serve ⟨2#3, src, tag, ctx, peer, index, mode, space, gang, requestLanes mask offsets data, none⟩ [] (parkClock s ctx) [] false s)
/-- RRED at the target (R331). -/
def execRredRequest (src : BitVec 10) (tag ctx : BitVec 16) (mask : BitVec 64) (peer : BitVec 32) (index : BitVec 16) (mode : BitVec 32)
    (space : BitVec 3) (gang : BitVec 16) (offsets : List (BitVec 32)) (data : List (BitVec 128)) (s : State) :
    Host.Outcome State Fault Refusal :=
  .next (serve ⟨3#3, src, tag, ctx, peer, index, mode, space, gang, requestLanes mask offsets data, none⟩ [] (parkClock s ctx) [] false s)
/-- MCST at its home, and its copy at a member (R333, R422). -/
def execMcstRequest (src : BitVec 10) (tag ctx : BitVec 16) (mask : BitVec 64) (peer : BitVec 32) (index : BitVec 16) (mode : BitVec 32)
    (space : BitVec 3) (gang : BitVec 16) (offsets : List (BitVec 32)) (data : List (BitVec 128)) (place : Option Nat) (s : State) :
    Host.Outcome State Fault Refusal :=
  let q : RemoteReq := ⟨4#3, src, tag, ctx, peer, index, mode, space, gang, requestLanes mask offsets data, place⟩
  .next (if place.isNone then orderMulticast q s else serve q [] (parkClock s ctx) [] false s)

/-! ### Answers at the source (R331, R332) -/

/-- The warp whose outstanding access has a tag. -/
def remoteOwner (s : State) (tag : BitVec 16) : Option Nat :=
  ((allWarps s).find? fun w => w.remotes.any fun r => r.tag = tag && (r.sent || r.ready.isSome)).map (·.wid)

/-- What lanes receive of a remote access: data or poison (R64, R331). -/
def remoteWrite (w : Warp) (r : Remote) (jobs : List LaneJob) : Warp :=
  let p : PendLoad := { kind := .vec r.d r.size r.signed, jobs := jobs, regs := [], flag := none, pc := r.pc, since := 0, acquire := false,
                        rel := none, hreg := r.hreg }
  recordOrigins (writeLoad w p) p

/-- Lanes of a remote access that fail: poison for the returning forms, else one imprecise fault (R331, R332). TETHER_GONE, which R201 and R379
call precise and which only the target can find (R40), is recorded as precise at its instruction, and taken at the warp's next boundary (log
entry 42). -/
def remoteFail (s : State) (r : Remote) (lanes : List Nat) (code detail : Byte) : State :=
  if lanes.isEmpty then s
  else if remoteReturns r.op then
    { s with w := remoteWrite s.w r (lanes.map fun l => ⟨l, .poison code detail 0#80 true⟩) }
  else raiseAfter s r.pc r.hreg code detail 0#80 (maskOf lanes) (code ≠ cTetherGone)

/-- The lanes of an access that a mask names. -/
def Remote.lanesIn (r : Remote) (mask : Mask) : List Nat := (r.lanes.map (·.1)).filter fun l => mask.getLsbD l

/-- The record of a tag replaced by others in the warp in focus; one whose lanes are all answered ends, and what it held back is sent
(R127, R148). -/
def replaceRemote (s : State) (r : Remote) (by_ : List Remote) : State :=
  let rest := by_.filter fun x => !x.lanes.isEmpty
  let w := { s.w with remotes := s.w.remotes.flatMap fun x => if x.tag = r.tag then rest else [x] }
  -- a record more is one increment of the flag more, a record less one decrement
  let w := if rest.isEmpty then flagDec w r.flag else if rest.length = 2 then flagInc w r.flag else w
  pumpRemotes { s with w := w }

/-- The access of a tag at the warp in focus. -/
def remoteOf (w : Warp) (tag : BitVec 16) : Option Remote := w.remotes.find? fun r => r.tag = tag

/-- ACK: the lanes still outstanding are complete. -/
def remoteAcked (tag : BitVec 16) (data : List DWord) (s : State) : State :=
  match remoteOf s.w tag with
  | none => s
  | some r =>
    let w := if remoteReturns r.op then
        remoteWrite s.w r (r.lanes.zipIdx.map fun l => ⟨l.1.1, .value (data.getD l.2 0#64)⟩)
      else s.w
    replaceRemote { s with w := w } r []

/-- The WALL time of retry `k` (R332). -/
def retryTime (s : State) (k : Nat) : Nat := wall s + 1000 * 2 ^ (k - 1)

/-- RNR: the refused lanes are to be retried, or exhausted (R332). -/
def remoteRefusedBy (tag : BitVec 16) (mask : Mask) (s : State) : State :=
  match remoteOf s.w tag with
  | none => s
  | some r =>
    let keep := { r with lanes := r.lanes.filter fun l => !mask.getLsbD l.1 }
    if s.fab.rnrlimit.toNat ≤ r.retries then
      replaceRemote (remoteFail s r (r.lanesIn mask) cRnrExhausted 0x00) r [keep]
    else
      let (s, t) := takeTag s
      replaceRemote s r [keep, { r with lanes := r.lanes.filter (fun l => mask.getLsbD l.1), tag := t, sent := false,
                                        retries := r.retries + 1, ready := some (retryTime s (r.retries + 1)) }]

/-- ERR: the lanes fail with the code. -/
def remoteErred (tag : BitVec 16) (mask : Mask) (code detail : Byte) (s : State) : State :=
  match remoteOf s.w tag with
  | none => s
  | some r =>
    replaceRemote (remoteFail s r (r.lanesIn mask) code detail) r [{ r with lanes := r.lanes.filter fun l => !mask.getLsbD l.1 }]

/-- A retry is due. -/
def retryDue (s : State) (ready : Option Nat) : Bool :=
  match ready with
  | some t => t ≤ wall s
  | none => false

/-- The back-off of an access ends: its lanes are sent again (R332). -/
def remoteRetry (tag : BitVec 16) (s : State) : State :=
  match remoteOf s.w tag with
  | none => s
  | some r =>
    if retryDue s r.ready then
      let q := sendRemote s r
      { q.1 with w := { q.1.w with remotes := q.1.w.remotes.map fun x => if x.tag = tag then q.2 else x } }
    else s

/-- The copies of a tag in one multicast record changed; one that answers `none` is done. -/
def Multicast.onCopy (m : Multicast) (tag : BitVec 16) (f : McCopy → Option McCopy) (failed : Option (Byte × Byte)) : Multicast :=
  if m.copies.any fun c => c.tag = some tag then
    { m with copies := m.copies.filterMap (fun c => if c.tag = some tag then f c else some c)
             failed := if m.failed.isSome then m.failed else failed }
  else m

/-- The copies of a tag changed at the multicast home, whose order then goes on. -/
def onCopy (s : State) (tag : BitVec 16) (f : McCopy → Option McCopy) (failed : Option (Byte × Byte)) : State :=
  pumpMulticasts { s with fab := { s.fab with multicasts := s.fab.multicasts.map fun m => m.onCopy tag f failed } }

/-- ACK (R331, R333). -/
def execAck (_src : BitVec 10) (tag : BitVec 16) (data : List (BitVec 64)) (s : State) : Host.Outcome State Fault Refusal :=
  .next (match remoteOwner s tag with
    | some wid => withWarp s wid (remoteAcked tag data)
    | none => onCopy s tag (fun c => if c.ready.isNone then none else some c) none)

/-- RNR (R332, R333). -/
def execRnr (_src : BitVec 10) (tag : BitVec 16) (mask : BitVec 64) (_reason : BitVec 8) (s : State) : Host.Outcome State Fault Refusal :=
  .next (match remoteOwner s tag with
    | some wid => withWarp s wid (remoteRefusedBy tag mask)
    | none =>
      let limit := s.fab.rnrlimit.toNat
      let spent := s.fab.multicasts.any fun m => m.copies.any fun c => c.tag = some tag && limit ≤ c.retries
      onCopy s tag (fun c => if limit ≤ c.retries then none else
          some { c with mask := c.mask &&& mask, retries := c.retries + 1, ready := some (retryTime s (c.retries + 1)) })
        (if spent then some (cRnrExhausted, 0x00) else none))

/-- ERR (R331, R333). -/
def execErr (_src : BitVec 10) (tag : BitVec 16) (mask : BitVec 64) (code detail : BitVec 8) (s : State) : Host.Outcome State Fault Refusal :=
  .next (match remoteOwner s tag with
    | some wid => withWarp s wid (remoteErred tag mask code detail)
    | none => onCopy s tag (fun c => if c.mask &&& ~~~mask = 0#64 then none else some { c with mask := c.mask &&& ~~~mask }) (some (code, detail)))

/-- A copy of a multicast whose back-off has ended is sent again. -/
def retryCopy (s : State) (tag : BitVec 16) : State :=
  match s.fab.multicasts.findSome? (fun m => (m.copies.find? fun c => c.tag = some tag).map fun c => (m, c)) with
  | some (m, c) => if retryDue s c.ready then sendCopy s m c else s
  | none => s

/-- RNR_RETRY (R332). -/
def execRnrRetry (tag : BitVec 16) (s : State) : Host.Outcome State Fault Refusal :=
  .next (match remoteOwner s tag with
    | some wid => withWarp s wid (remoteRetry tag)
    | none => retryCopy s tag)

end Sys2Proof.Machine
end

