-- ==== Sys2Proof/Machine/XlateReq.lean ====
section
/-!
DEFINITION. The requests of the XLATE registers (spec/03, R57 to R63). A request is started by a write of GO, acts at its own event, and ends at
XLATE_REQUEST_END once its splinters are done and its shootdowns complete.
-/
namespace Sys2Proof.Machine

/-! ### Requests (R57, R58) -/

def xVa (s : State) : Nat := bitsNat s.hub.xva1 0 16 * 2 ^ 64 + s.hub.xva0.toNat
def xPages (s : State) : Nat := s.hub.xcnt.toNat
def xCtx (s : State) : BitVec 16 := s.hub.xctl.extractLsb' 0 16
def xOp (s : State) : Nat := bitsNat s.hub.xctl 16 4
def xGo (s : State) : Bool := s.hub.xctl.getLsbD 31
/-- TFRAME of XLATE_ARG. -/
def xFrame (s : State) : Nat := bitsNat s.hub.xarg 16 36 * 65536
/-- The end of the range. -/
def xEndVa (s : State) : Nat := xVa s + 65536 * xPages s

/-- A reserved operation or a non-zero zero field (ECODE 1). -/
def xBad (s : State) : Bool :=
  let a := s.hub.xarg
  let arg := match xOp s with
    | 0 | 1 => a ≠ 0#64
    | 2 => bitsNat a 52 12 ≠ 0 || bitsNat a 0 16 ≠ 0
    | 3 => bitsNat a 52 12 ≠ 0 || bitsNat a 10 6 ≠ 0
    | 4 => bitsNat a 52 12 ≠ 0 || bitsNat a 4 12 ≠ 0
    | _ => true
  arg || bitsNat s.hub.xva1 16 48 ≠ 0 || bitsNat s.hub.xctl 20 4 ≠ 0

/-- The range is empty or not aligned (ECODE 2). -/
def xRangeBad (s : State) : Bool := xVa s % 65536 ≠ 0 || xPages s = 0

/-- The outcome of the running request. -/
def xEnd (s : State) (ecode : BitVec 4) : State := { s with hub := { s.hub with xdone := some ecode } }

/-- A request runs and has not acted yet. -/
def xRuns (s : State) (op : Nat) : Bool := xGo s && s.hub.xdone.isNone && s.hub.xsplit.isNone && xOp s = op

/-- A range shot down, whose accesses in flight the request awaits (R59). -/
def xShoot (s : State) (va n : Nat) : State :=
  let s := shootdown s (xCtx s) va n
  { s with hub := { s.hub with xspans := (va, n) :: s.hub.xspans } }

/-- XLATE_INVAL (R58, R59). -/
def execXlateInval (s : State) : Host.Outcome State Fault Refusal :=
  .next (if !xRuns s 0 then s
    else if xRangeBad s then xEnd s 2#4
    else xEnd (xShoot s (xVa s) (65536 * xPages s)) 0#4)

/-- XLATE_INVALCTX (R58): every translation of the context. -/
def execXlateInvalctx (s : State) : Host.Outcome State Fault Refusal :=
  .next (if xRuns s 1 then xEnd (xShoot s 0 (2 ^ 80)) 0#4 else s)

/-- Steps 1 and 2 of a splinter of the request (R60). -/
def xSplit (s : State) (l : Leaf) (va frame : Nat) : State :=
  let r := beginSplinter s.m l va frame
  { s with m := r.1, hub := { s.hub with xsplit := some r.2 } }

/-- XLATE_SPLINTER (R58, R60); where several errors hold at once, the first of 2, 7, 4 is reported (log entry 44). -/
def execXlateSplinter (s : State) : Host.Outcome State Fault Refusal :=
  .next (if !xRuns s 2 then s
    else if xRangeBad s then xEnd s 2#4
    else match ctxOf s (xCtx s) with
      | none => xEnd s 2#4
      | some x =>
        if pagesStall s.m x (xVa s) (xPages s) then s
        else
          match leavesOf s.m x (xEndVa s) (xPages s) (xVa s) with
          | none | some [] => xEnd s 2#4
          | some (p :: _) =>
            if p.2.log = 16 then xEnd s 7#4
            else if !tableFrame (xFrame s) then xEnd s 4#4
            else xSplit s p.2 (xVa s) (xFrame s))

/-! ### Requests over leaves (R61) -/

/-- Permissions A, X, W, R of an entry replaced (R58). -/
def withPerms (e : BitVec 128) (p : BitVec 4) : BitVec 128 := setBits e 96 4 p
/-- Attribute and key of an entry replaced (R63). -/
def withAttr (e : BitVec 128) (a : BitVec 2) (k : BitVec 7) : BitVec 128 := setBits (setBits e 100 2 a) 102 7 k

def xAttr (s : State) : BitVec 2 := s.hub.xarg.extractLsb' 0 2
def xKey (s : State) : BitVec 7 := s.hub.xarg.extractLsb' 2 7

/-- Every leaf of a list rewritten. -/
def rewriteLeaves (s : State) (g : BitVec 128 → BitVec 128) (ls : List (Nat × Leaf)) : State :=
  ls.foldl (fun s p => { s with m := ptePut s.m p.2.pte (g p.2.entry) }) s

/-- The frames of a page. -/
def framesOf (l : Leaf) : List Nat := (List.range (2 ^ (l.log - 16))).map fun i => pteFrame l.entry / 65536 + i

/-- The engine commands whose reads are parked, and the parked remote reads, tried again (R63, stage 1). -/
def retryReads (s : State) : State :=
  let s := (s.cmds.filter fun c => c.started && c.parkedAt.isSome && c.func.toNat < 0x50).foldl completeCmd s
  (List.range s.fab.parked.length).foldl (fun s _ => serveParked s) s

/-- Stages 1 and 2 of ATTRCHG (R63): the records marked, parked reads released, the leaves rewritten. -/
def changeLeaves (s : State) (ls : List (Nat × Leaf)) : State :=
  let frames := ls.flatMap fun p => framesOf p.2
  let s := { s with m := frames.foldl (markFrame (xAttr s) (xKey s)) s.m }
  rewriteLeaves (retryReads (mapWarps s (releaseReads frames))) (fun e => withAttr e (xAttr s) (xKey s)) ls

/-- The effect of the request on the leaves of its range, and its shootdown. -/
def applyLeaves (s : State) (x : Ctx) : State :=
  match leavesOf s.m x (xEndVa s) (xPages s) (xVa s) with
  | none => xEnd s 2#4
  | some ls =>
    let s := if xOp s = 3 then changeLeaves s ls else rewriteLeaves s (fun e => withPerms e (s.hub.xarg.extractLsb' 0 4)) ls
    xEnd (xShoot s (xVa s) (65536 * xPages s)) 0#4

/-- The next splinter that the request needs begun, or its effect once none is left. A page that is no large leaf any more needs none. -/
def nextSplinter (s : State) (x : Ctx) : State :=
  match s.hub.xtodo with
  | [] => applyLeaves s x
  | (va, log, frame) :: rest =>
    let s := { s with hub := { s.hub with xtodo := rest } }
    match (leafAt s.m x va).filter fun l => l.log = log with
    | some l => xSplit s l va frame
    | none => xEnd { s with hub := { s.hub with xtodo := [] } } 3#4

/-- A request over leaves (R58, R61): the checks of its range, the splinters it needs, then its effect. `refuse` names the error of a leaf that
the operation does not admit. Where several errors hold at once, the first of 2, 5, 6, 4 is reported (log entry 44). -/
def overLeaves (s : State) (refuse : Leaf → Option (BitVec 4)) : State :=
  if xRangeBad s then xEnd s 2#4
  else
    match ctxOf s (xCtx s) with
    | none => xEnd s 2#4
    | some x =>
      if pagesStall s.m x (xVa s) (xPages s) then s
      else
        match leavesOf s.m x (xEndVa s) (xPages s) (xVa s) with
        | none => xEnd s 2#4
        | some ls =>
          match ls.findSome? fun p => refuse p.2 with
          | some e => xEnd s e
          | none =>
            let need := splintersOf s.m x (xVa s) (xEndVa s)
            if !need.isEmpty && xFrame s = 0 then xEnd s 6#4
            else if !((List.range need.length).all fun k => tableFrame (xFrame s + 65536 * k)) then xEnd s 4#4
            else nextSplinter { s with hub := { s.hub with xtodo := withFrames (xFrame s) need } } x

/-- XLATE_PERM (R58). -/
def execXlatePerm (s : State) : Host.Outcome State Fault Refusal :=
  .next (if xRuns s 4 then overLeaves s fun _ => none else s)

/-- XLATE_ATTRCHG, stages 1 and 2 (R63). -/
def execXlateAttrchg (s : State) : Host.Outcome State Fault Refusal :=
  .next (if xRuns s 3 then overLeaves s fun l => if offDevice (pteFrame l.entry) then some 5#4 else none else s)

/-! ### The end of a request -/

/-- Step 3 of a splinter of the request (R60): an abandoned one ends it with ECODE 3; after the last it is a SPLINTER that ends, or the leaves of
the range that are rewritten. -/
def finishSplinter (s : State) (k : Splinter) : State :=
  let r := endSplinter { s with hub := { s.hub with xsplit := none } } (xCtx s) k
  match r.2 with
  | none => xEnd { r.1 with hub := { r.1.hub with xtodo := [] } } 3#4
  | some span =>
    let s := { r.1 with hub := { r.1.hub with xspans := span :: r.1.hub.xspans } }
    if xOp s = 2 then xEnd s 0#4
    else
      match ctxOf s (xCtx s) with
      | none => xEnd { s with hub := { s.hub with xtodo := [] } } 2#4
      | some x => nextSplinter s x

/-- Every CHANGING record settled: stages 4 and 5 of ATTRCHG (R63). -/
def settleFrames (s : State) : State :=
  let frames := (s.m.frames.filter fun r => r.changing.isSome).map (·.frame)
  { s with m := frames.foldl (settleFrame (s.hub.xarg.getLsbD 9)) s.m }

/-- XLATE_REQUEST_END (R57, R59): a splinter's step 3; then, once every access under an old translation is performed, and for an ATTRCHG its last
stages, GO clears and DONE, or ERR with ECODE, is set. -/
def execXlateRequestEnd (s : State) : Host.Outcome State Fault Refusal :=
  .next (if !xGo s then s
    else match s.hub.xsplit with
      | some k => finishSplinter s k
      | none =>
        match s.hub.xdone with
        | none => s
        | some ec =>
          if anyInFlight s (xCtx s) s.hub.xspans || (xOp s = 3 && readsWoken s) then s
          else
            let s := if xOp s = 3 && ec = 0#4 then settleFrames s else s
            let ctl := setBits (setBits s.hub.xctl 31 1 0#1) 24 4 ec
            { s with hub := { s.hub with xctl := setBits ctl (if ec = 0#4 then 30 else 29) 1 1#1, xdone := none, xspans := [] } })

end Sys2Proof.Machine
end

