-- ==== Sys2Proof/Machine/Registers.lean ====
section
/-!
DEFINITION. The hub control register space (spec/18, R453, R454, R460, R464): what each register reads and what a write does, for the
registers of spec/03 (R57), spec/07 (R168), spec/09 (R207) and spec/15 (R405 to R408, R426).
-/
namespace Sys2Proof.Machine

/-! ### Reading -/

/-- CKPT_STAT (R168). -/
def ckptStat (s : State) : DWord :=
  BitVec.ofNat 64 (atBit 32 (s.hub.lastCommit % 2 ^ 32) + atBit 16 s.hub.incarn.toNat + atBit 3 (s.hub.rebuild || !s.hub.copying.isEmpty).toNat
    + atBit 2 s.hub.ckptErr.toNat + atBit 1 (!s.m.outputs.isEmpty).toNat + s.hub.sound.toNat)

/-- FAB_ID (R405). -/
def fabId (f : Fabric) : DWord :=
  BitVec.ofNat 64 (atBit 35 f.standby.toNat + atBit 34 f.mate.toNat + atBit 33 f.bridge.toNat + atBit 32 f.fm.toNat
    + atBit 16 f.ident.toNat + f.vertex.toNat)

/-- FAB_CFG (R405). -/
def fabCfgWord (f : Fabric) : DWord :=
  BitVec.ofNat 64 (atBit 63 f.cfgErr.toNat + atBit 16 f.rnrlimit.toNat + atBit 8 f.adth.toNat + Config.planeOrder.toNat)

/-- FAB_DOM (R405). -/
def fabDom (f : Fabric) : DWord :=
  BitVec.ofNat 64 (atBit 48 f.buddy.toNat + atBit 32 f.fmid.toNat + atBit 16 f.brid.toNat + f.domain.toNat)

/-- A key bank of a port holds keys, of either direction (R405, R418). -/
def portBank (p : Port) (i : Nat) : Bool := p.txBanks.getLsbD i || p.rxBanks.getLsbD i

/-- PORT_STAT (R405). -/
def portStat (p : Port) : DWord :=
  BitVec.ofNat 64 (atBit 32 p.replays.toNat + atBit 16 p.peer.toNat + atBit 7 p.txkg.toNat + atBit 6 (portBank p 0).toNat + atBit 5 (portBank p 1).toNat
    + atBit 4 p.rekey.toNat + p.state.toNat)

/-- PWR_STAT (R460). -/
def pwrStat (h : Hub) : DWord :=
  BitVec.ofNat 64 (atBit 36 h.avg.toNat + atBit 24 h.tmax.toNat + atBit 2 h.capErr.toNat + atBit 1 h.hot.toNat + h.thr.toNat)

/-- JCAP (R207). -/
def journalCap : Nat := 2 ^ (Config.journalCapLog.toNat + 16)

/-- The registers at fixed offsets. -/
def fixedRegister (s : State) (off : Nat) : DWord :=
  match off with
  | 0x0000 => BitVec.ofNat 64 (atBit 32 0x0880 + atBit 24 0x01 + atBit 16 Config.stepping.toNat)
  | 0x0008 => BitVec.ofNat 64 (Config.unitsMinusOne.toNat + 1)
  | 0x0010 => BitVec.ofNat 64 (atBit 32 Config.svn.toNat + atBit 4 s.hub.stage.toNat + s.hub.fail.toNat)
  | 0x1000 => s.hub.ctxbase
  | 0x1008 => s.hub.qtbase
  | 0x1010 => s.hub.qctl.setWidth 64
  | 0x1018 => s.hub.ctxctl.setWidth 64
  | 0x1020 => s.hub.gangcfg
  | 0x1028 => Config.journalBase.setWidth 64
  | 0x1030 => BitVec.ofNat 64 journalCap
  | 0x1038 => s.hub.jhead
  | 0x1040 => s.hub.jtail
  | 0x2000 => s.hub.xva0
  | 0x2008 => s.hub.xva1
  | 0x2010 => s.hub.xcnt
  | 0x2018 => s.hub.xarg
  | 0x2020 => s.hub.xctl.setWidth 64
  | 0x3000 => s.hub.ckptNext
  | 0x3008 => ckptStat s
  | 0x4000 => fabId s.fab
  | 0x4008 => fabCfgWord s.fab
  | 0x4010 => fabDom s.fab
  | 0x4018 => s.fab.stale
  | 0xB000 => s.m.keyFull.extractLsb' 0 64
  | 0xB008 => s.m.keyFull.extractLsb' 64 64
  | 0xC000 => s.hub.tlmSel
  | 0xC008 => s.hub.tlmData
  | 0xD000 => s.hub.cap.setWidth 64
  | 0xD008 => pwrStat s.hub
  | _ => 0#64

/-- What the doubleword at an offset of the hub control register space reads; an offset that no chapter assigns reads zero (R453). -/
def readRegister (s : State) (off : BitVec 16) : DWord :=
  let n := off.toNat
  if 0x4100 ≤ n && n < 0x4100 + 8 * 36 && n % 8 = 0 then portStat (s.fab.ports.toList.getD ((n - 0x4100) / 8) Port.reset)
  else if 0x6000 ≤ n && n < 0x8000 && n % 8 = 0 then routeOf s.fab (BitVec.ofNat 10 ((n - 0x6000) / 8))
  else if 0x8000 ≤ n && n < 0xA000 && n % 8 = 0 then locOf s.fab (BitVec.ofNat 10 ((n - 0x8000) / 8))
  else if 0xA000 ≤ n && n < 0xA400 && n % 8 = 0 then
    (s.fab.windows.toList.getD ((n - 0xA000) / 16) 0#128).extractLsb' (8 * (n % 16)) 64
  else fixedRegister s n

/-! ### Writing -/

/-- CKPT_CFG: applied from the next interval, or refused with CFGERR; on the fabric manager's device the value goes to every device of the
domain (R168, log entry 28). -/
def writeCkptCfg (s : State) (v : DWord) : State :=
  let hb := bitsNat v 32 16
  let iv := bitsNat v 0 14
  if bitsNat v 48 16 = 0 && bitsNat v 14 18 = 0 && 2 ≤ hb && hb ≤ 1000 && 5 ≤ iv && iv ≤ 10000 then
    let s := { s with hub := { s.hub with ckptNext := v } }
    if s.fab.fm then (domainOthers s.fab).foldl (fun s d => sendOut s (fmMessage d 0x3000 v)) s else s
  else { s with hub := { s.hub with ckptErr := true } }

/-- FAB_CFG: CFGERR cleared by writing 1, then the fields taken, or the write refused with CFGERR (R405). -/
def writeFabCfg (s : State) (v : DWord) : State :=
  let f := { s.fab with cfgErr := s.fab.cfgErr && !v.getLsbD 63 }
  if bitsNat v 21 42 = 0 && bitsNat v 12 4 = 0 && bitsNat v 5 3 = 0 && bitsNat v 16 5 ≤ 16 then
    { s with fab := { f with rnrlimit := v.extractLsb' 16 5, adth := v.extractLsb' 8 4 } }
  else { s with fab := { f with cfgErr := true } }

/-- PWR_CFG: the cap, or CAPERR (R460). What a write with a zero field [63:12] set does is not stated: the field is ignored (log entry 50). -/
def writePwrCfg (s : State) (v : DWord) : State :=
  let c := v.extractLsb' 0 12
  if 1200 ≤ c.toNat && c.toNat ≤ 2400 then { s with hub := { s.hub with cap := c } } else { s with hub := { s.hub with capErr := true } }

/-- A counter of R464; an unknown index or instance reads zero. -/
def counterOf (h : Hub) (index : BitVec 16) (inst : Word) : DWord :=
  ((h.counters.find? fun c => c.1 = index && c.2.1 = inst).map (·.2.2)).getD 0#64

/-- TLM_SEL: the selector, and the snapshot that TLM_DATA will read (R464). -/
def writeTlmSel (s : State) (v : DWord) : State :=
  { s with hub := { s.hub with tlmSel := v, tlmData := counterOf s.hub (v.extractLsb' 0 16) (v.extractLsb' 32 32) } }

/-- A translation control register written: refused with OVR while a request runs (R57). -/
def writeXlate (s : State) (f : Hub → Hub) : State :=
  if xGo s then { s with hub := { s.hub with xctl := setBits s.hub.xctl 28 1 1#1 } } else { s with hub := f s.hub }

/-- The bits of a word that writing 1 clears, cleared. -/
def clearW1c (old new mask : Word) : Word := old &&& ~~~(new &&& mask)

/-- XLATE_CTL: DONE, ERR and OVR are cleared by 1; OP and CTX are taken; GO starts a request, which one that R58 refuses ends at once. -/
def writeXlateCtl (v : Word) (h : Hub) : Hub :=
  let kept := clearW1c h.xctl v 0x70000000#32 &&& 0x7F000000#32
  { h with xctl := kept ||| (v &&& 0x80FFFFFF#32) }

/-- A request that R58 refuses ends at once. -/
def judgeXlate (s : State) : State := if xGo s && s.hub.xdone.isNone && xBad s then xEnd s 1#4 else s

/-- QCTL: ignored while a request runs; ERR is cleared by 1; GO starts a request, and a malformed one ends with ERR (R207). -/
def writeQctl (s : State) (v : Word) : State :=
  if s.hub.qctl.getLsbD 31 then s
  else
    let w := (clearW1c s.hub.qctl v 0x40000000#32 &&& 0x40000000#32) ||| (v &&& 0x3FFFFFFF#32)
    let bad := bitsNat v 18 12 ≠ 0 || bitsNat v 10 6 ≠ 0 || 2 ≤ bitsNat v 16 2
    let q := if !v.getLsbD 31 then w else if bad then w ||| 0x40000000#32 else w ||| 0x80000000#32
    { s with hub := { s.hub with qctl := q } }

/-- CTXCTL: as QCTL (R207). -/
def writeCtxctl (s : State) (v : Word) : State :=
  if s.hub.ctxctl.getLsbD 31 then s
  else
    let w := (clearW1c s.hub.ctxctl v 0x20000000#32 &&& 0x60000000#32) ||| (v &&& 0x1FFFFFFF#32)
    let bad := bitsNat v 18 11 ≠ 0 || bitsNat v 16 2 = 3
    let q := if !v.getLsbD 31 then w else if bad then w ||| 0x20000000#32 else w ||| 0x80000000#32
    { s with hub := { s.hub with ctxctl := q } }

/-- A write by the host or the firmware to the hub control register space; a read-only or unassigned offset ignores it (R15, R453). CTXBASE,
QTBASE and GANGCFG keep what is written, their zero fields and values out of range included, since no outcome of such a write is stated (log
entry 50). -/
def writeRegister (s : State) (off : BitVec 16) (v : DWord) : State :=
  let w := v.extractLsb' 0 32
  match off.toNat with
  | 0x1000 => { s with hub := { s.hub with ctxbase := v } }
  | 0x1008 => { s with hub := { s.hub with qtbase := v } }
  | 0x1010 => writeQctl s w
  | 0x1018 => writeCtxctl s w
  | 0x1020 => { s with hub := { s.hub with gangcfg := v } }
  | 0x2000 => writeXlate s fun h => { h with xva0 := v }
  | 0x2008 => writeXlate s fun h => { h with xva1 := v }
  | 0x2010 => writeXlate s fun h => { h with xcnt := v }
  | 0x2018 => writeXlate s fun h => { h with xarg := v }
  | 0x2020 => judgeXlate (writeXlate s (writeXlateCtl w))
  | 0x3000 => writeCkptCfg s v
  | 0x3008 => { s with hub := { s.hub with ckptErr := s.hub.ckptErr && !v.getLsbD 2 } }
  | 0x4008 => writeFabCfg s v
  | 0xC000 => writeTlmSel s v
  | 0xD000 => writePwrCfg s v
  | 0xD008 => { s with hub := { s.hub with capErr := s.hub.capErr && !v.getLsbD 2 } }
  | _ => s

/-- CKPT_CFG written (R168). -/
def execCkptCfg (value : BitVec 64) (s : State) : Host.Outcome State Fault Refusal := .next (writeCkptCfg s value)
/-- FAB_CFG written (R405). -/
def execFabCfg (value : BitVec 64) (s : State) : Host.Outcome State Fault Refusal := .next (writeFabCfg s value)
/-- PWR_CFG written (R460). -/
def execPwrCfg (value : BitVec 64) (s : State) : Host.Outcome State Fault Refusal := .next (writePwrCfg s value)
/-- TLM_SEL written (R464). -/
def execTlmSel (value : BitVec 64) (s : State) : Host.Outcome State Fault Refusal := .next (writeTlmSel s value)
/-- REGISTER_WRITE (R15, R453). -/
def execRegisterWrite (offset : BitVec 16) (value : BitVec 64) (s : State) : Host.Outcome State Fault Refusal :=
  .next (writeRegister s offset value)

/-! ### FMWRITE (R405 to R408, R415, R426) -/

/-- A table entry of the fabric manager's replaced. -/
def entryPut (t : List (BitVec 10 × DWord)) (k : BitVec 10) (v : DWord) : List (BitVec 10 × DWord) :=
  (k, v) :: t.filter fun e => e.1 ≠ k

/-- FAB_ID and FAB_DOM as the fabric manager sets them; VERTEX is strapped (R405). -/
def putFabId (f : Fabric) (v : DWord) : Fabric :=
  { f with standby := v.getLsbD 35, mate := v.getLsbD 34, bridge := v.getLsbD 33, fm := v.getLsbD 32, ident := v.extractLsb' 16 10 }
def putFabDom (s : State) (v : DWord) : State :=
  let fmid := v.extractLsb' 32 10
  let s := { s with
    fab := { s.fab with fmid := fmid, brid := v.extractLsb' 16 10, domain := v.extractLsb' 0 10 }
    hub := if fmid = s.fab.fmid then s.hub else noteBeat s.hub fmid (wall s) }
  setBuddy s (v.extractLsb' 48 10)

/-- The mate takes the host port of a dead bridge: it releases every host line that the group held, without data (R427, log entry 55). -/
def takeHostPort (s : State) : State := { s with m := { s.m with bridgeDir := [], halves := [] } }

/-- A write of the fabric manager to the registers and tables of R405 to R408, to a window of R426, or to CKPT_CFG, whose value applies to its
whole domain (R168). -/
def fmWriteAt (s : State) (n : Nat) (v : DWord) : State :=
  if n = 0x3000 then writeCkptCfg s v
  else if n = 0x4000 then
    let t := if v.getLsbD 33 && !s.fab.bridge && s.fab.mate then takeHostPort s else s
    { t with fab := putFabId t.fab v, hub := if v.getLsbD 32 && !s.fab.fm then noteBeats s.hub (s.fab.loc.map (·.1)) (wall s) else s.hub }
  else if n = 0x4008 then writeFabCfg s v
  else if n = 0x4010 then putFabDom s v
  else if 0x6000 ≤ n && n < 0x8000 && n % 8 = 0 then
    { s with fab := { s.fab with route := entryPut s.fab.route (BitVec.ofNat 10 ((n - 0x6000) / 8)) v } }
  else if 0x8000 ≤ n && n ≤ 0x8000 + 8 * 992 && n % 8 = 0 then
    putLocation s (BitVec.ofNat 10 ((n - 0x8000) / 8)) v
  else if 0xA000 ≤ n && n < 0xA400 && n % 8 = 0 then
    { s with fab := { s.fab with windows := vecOf 64 fun i =>
        if i.val = (n - 0xA000) / 16 then setBits s.fab.windows[i] (8 * (n % 16)) 64 v else s.fab.windows[i] } }
  else s

end Sys2Proof.Machine
end

