-- ==== Sys2Proof/Machine/Queue.lean ====
section
/-!
DEFINITION. Contexts and submission queues (spec/09, R205 to R209), the command journal and its records (R211, R212), and the requests of
QCTL and CTXCTL (R207).
-/
namespace Sys2Proof.Machine

/-! ### Queue entries (R208) -/

def qRing (e : BitVec 512) : Nat := bitsNat e 0 80
def qCtx (e : BitVec 512) : BitVec 16 := e.extractLsb' 80 16
def qSize (e : BitVec 512) : Nat := bitsNat e 96 4
def qMsie (e : BitVec 512) : Bool := e.getLsbD 100
def qVec (e : BitVec 512) : BitVec 11 := e.extractLsb' 101 11
def qTailVa (e : BitVec 512) : Nat := bitsNat e 128 80
def qHeadVa (e : BitVec 512) : Nat := bitsNat e 256 80
def qCq (e : BitVec 512) : Nat := bitsNat e 384 80
/-- The slots of the ring. -/
def qSlots (e : BitVec 512) : Nat := 2 ^ (qSize e + 4)

/-- An entry that the enabling request refuses: a zero field, a reserved size, a misaligned VA. -/
def queueBad (e : BitVec 512) : Bool :=
  bitsNat e 464 48 ≠ 0 || bitsNat e 336 48 ≠ 0 || bitsNat e 208 48 ≠ 0 || bitsNat e 112 16 ≠ 0 || 13 ≤ qSize e ||
    qRing e % (256 * qSlots e) ≠ 0 || qCq e % (32 * qSlots e) ≠ 0 || qHeadVa e % 8 ≠ 0 || qTailVa e % 8 ≠ 0

/-! ### Context descriptors (R205) -/

def ctxWdog (x : Ctx) : Nat := bitsNat x.desc 112 16
def ctxSems (x : Ctx) : Nat := bitsNat x.desc 128 80
def ctxGmap (x : Ctx) : Nat := bitsNat x.desc 384 80

/-- A descriptor that the enabling request refuses: V = 0, a zero field, or a value out of range. -/
def descBad (d : BitVec 1024) : Bool :=
  !d.getLsbD 0 || bitsNat d 1 43 ≠ 0 || bitsNat d 208 48 ≠ 0 || bitsNat d 336 48 ≠ 0 || bitsNat d 464 48 ≠ 0 || bitsNat d 592 48 ≠ 0 ||
    bitsNat d 720 304 ≠ 0 || bitsNat d 96 16 < 100 || bitsNat d 76 20 = 0 || 1000000 < bitsNat d 76 20 || bitsNat d 128 80 % 8 ≠ 0 ||
    bitsNat d 256 80 % 65536 ≠ 0 || bitsNat d 384 80 % 512 ≠ 0 || bitsNat d 512 80 % 65536 ≠ 0 || bitsNat d 640 80 % 65536 ≠ 0

/-- The record of a context replaced or, where the hub holds none, made. -/
def putCtx (s : State) (x : Ctx) : State :=
  if s.x.num = x.num then { s with x := x } else { s with ctxs := x :: s.ctxs.filter fun y => y.num ≠ x.num }

/-- TRAPVA, CFG and SWCNT of an image header taken into a context's record (R398). -/
def withHeader (x : Ctx) (h : BitVec 256) : Ctx := { x with trapva := h.extractLsb' 0 80, cfg := h.getLsbD 80, swcnt := h.extractLsb' 192 64 }

/-- The header of a context's image read. -/
def readHeader (s : State) (x : Ctx) : HubRun (State × Ctx) :=
  match hubFetch s x (ctxImage x) 32 with
  | .error e => .error e
  | .ok (s, h) => .ok (s, withHeader x (BitVec.ofNat 256 h))

/-- The number of `n` bytes of a table that the hub reads by physical address (R205, R208). -/
def hubTable (s : State) (pa n : Nat) : State × Nat :=
  let m := recallRange s.m pa n
  ({ s with m := m }, homeNat m pa n)

/-- What a request of QCTL computes: refused with ERR, or with `false` not done yet because an access of it waits (R47, R63). -/
abbrev QctlRun (α : Type) := Except Bool α

/-- A context ready for a queue: its descriptor is read unless one of its queues is enabled already (R205). A request whose context's image
header cannot be read ends with ERR, and a context whose queues had all been disabled keeps its code-table slots (R77): the spec states
neither (log entry 51). -/
def loadCtx (s : State) (n : BitVec 16) : QctlRun State :=
  if s.hub.queues.any fun q => qCtx q.desc = n then .ok s
  else
    let (s, d) := hubTable s (bitsNat s.hub.ctxbase 23 29 * 2 ^ 23 + 128 * n.toNat) 128
    if descBad (BitVec.ofNat 1024 d) then .error true
    else match readHeader s { ctxFor s n with desc := BitVec.ofNat 1024 d } with
      | .ok (s, x) => .ok (putCtx s x)
      | .error e => .error e.isSome

/-! ### The journal (R211, R212) -/

/-- A journal entry or completion record. -/
def journalWord (seq : DWord) (ctx : BitVec 16) (queue : BitVec 10) (slot kind state : Nat) (fcode : Byte) (res : Bool) (tag : DWord)
    (wall : Nat) : BitVec 256 :=
  BitVec.ofNat 256 (atBit 192 seq.toNat + atBit 176 ctx.toNat + atBit 166 queue.toNat + atBit 150 (slot % 65536) + atBit 147 kind
    + atBit 144 state + atBit 136 fcode.toNat + atBit 135 res.toNat + atBit 64 tag.toNat + wall % 2 ^ 64)

/-- Where entry `seq` and its card copy lie. -/
def journalAt (seq : DWord) : Nat := Config.journalBase.toNat + 32 * (seq.toNat % journalCap)
def cardAt (seq : DWord) : Nat := Config.journalBase.toNat + 32 * journalCap + 256 * (seq.toNat % journalCap)

/-- A journal entry written, here and at the buddy (R174, R212). -/
def writeJournal (s : State) (e : BitVec 256) : State := hubLog s (journalAt (e.extractLsb' 192 64)) (bytesOfNat 32 e.toNat)

/-- The entries of numbers that no accepted command took (R212). -/
def flushGaps (s : State) : State :=
  let t := s.hub.gaps.foldl (fun s n => writeJournal s (journalWord n 0#16 0#10 0 0 7 0x00 false 0#64 0)) s
  { t with hub := { t.hub with gaps := [] } }

/-- The state of a node as the journal writes it. -/
def NodeState.code : NodeState → Nat
  | .accepted => 0
  | .ready => 1
  | .running => 2
  | .finished => 3
  | .faulted => 4

def cardKind (c : BitVec 2048) : Nat := bitsNat c 0 3
def cardTag (c : BitVec 2048) : DWord := c.extractLsb' 1984 64

/-- A node's journal entry (R212). -/
def nodeEntry (n : Node) : BitVec 256 :=
  let res := n.leader.isSome
  journalWord n.seq n.ctx (if res then 0#10 else n.queue) (if res then 0 else n.count.toNat) (cardKind n.card) n.state.code
    (if n.state = .faulted then n.fcode else 0x00) res (cardTag n.card) n.wall.toNat

/-- The entry of a node written as it stands. -/
def journalNode (s : State) (n : Node) : State := writeJournal s (nodeEntry n)

/-- JHEAD: the lowest number still held (R207, R212). -/
def settleJhead (s : State) : State :=
  let held := s.hub.nodes.map (·.seq) ++ s.hub.retained.map (·.seq)
  { s with hub := { s.hub with jhead := held.foldl (fun m n => if n ≤ m then n else m) s.hub.jtail } }

/-! ### Records and the disabling of a queue (R209, R212) -/

/-- A queue disabled. -/
def dropQueue (s : State) (q : BitVec 10) : State := { s with hub := { s.hub with queues := s.hub.queues.filter fun r => r.num ≠ q } }

/-- VEC signalled after a record when MSIE is set: an output of the interval (R174, R208). -/
def signalVec (s : State) (e : BitVec 512) : State :=
  if qMsie e then { s with m := { s.m with outputs := s.m.outputs ++ [(s.m.interval, .msix (qVec e))] } } else s

/-- A completion record written to slot `n` mod the slot count, where it can be; nothing when CQ is zero. -/
def writeRecord (s : State) (x : Ctx) (e : BitVec 512) (n : Nat) (rec_ : BitVec 256) : HubRun State :=
  if qCq e = 0 then .ok s
  else
    match hubPut s x (qCq e + 32 * (n % qSlots e)) (bytesOfNat 32 rec_.toNat) with
    | .ok s => .ok (signalVec s e)
    | .error r => .error r

/-- A queue disabled by a bad TAIL or a fault: the record with SEQ 0 (R209); `none` while the record's write must wait (R47, R63). -/
def failQueue (s : State) (q : SubQueue) (code : Byte) : Option State :=
  let s := dropQueue s q.num
  let rec_ := journalWord 0#64 (qCtx q.desc) q.num q.head.toNat 0 4 code false 0#64 (wall s)
  match writeRecord s (ctxFor s (qCtx q.desc)) q.desc q.head.toNat rec_ with
  | .ok s => some s
  | .error none => none
  | .error (some _) => some s

/-- A queue disabled by a fault of one of its accesses: the record, and the fault in the ring (R209). -/
def faultQueue (s : State) (q : SubQueue) (t : TrapInfo) : Option State :=
  (failQueue s q t.code).map fun s =>
    let r := takeSeq s
    appendRing r.1 (ctxFor s (qCtx q.desc)) (hubRecord r.2 0#64 t)

/-- A queue's record replaced. -/
def putQueue (s : State) (q : SubQueue) : State :=
  { s with hub := { s.hub with queues := s.hub.queues.map fun r => if r.num = q.num then q else r } }

/-- TAIL read again (R209); a read or a record that must wait is tried again. -/
def readTail (s : State) (q : SubQueue) : State :=
  match hubFetch s (ctxFor s (qCtx q.desc)) (qTailVa q.desc) 8 with
  | .error none => s
  | .error (some t) => (faultQueue s q t).getD s
  | .ok (s, n) =>
    let tail := BitVec.ofNat 64 n
    if qSlots q.desc < (tail - q.head).toNat then (failQueue s q cIllegalInstruction).getD s else putQueue s { q with tail := tail }

/-- TAIL_CHANGE (R209): a store reached the monitored line of an enabled queue. -/
def execTailChange (queue : BitVec 10) (s : State) : Host.Outcome State Fault Refusal :=
  .next (match s.hub.queues.find? fun q => q.num = queue with
    | none => s
    | some q => readTail s q)

/-! ### QCTL (R207) -/

/-- A page of a queue's VA that translates is an RC or SC page (R208). -/
def queuePage (s : State) (x : Ctx) (va : Nat) : Bool :=
  match xlate s.m x.num (ctxRoot x) va false with
  | (_, .leaf l) => pteAttr l.entry = aRc || pteAttr l.entry = aSc
  | _ => true

/-- A queue enabled: its entry and its context's descriptor checked, HEAD and TAIL read. An enabled queue starts anew. HEAD, when it cannot
be read, has no stated value for the record of R209 (log entry 3). -/
def enableQueue (s : State) (q : BitVec 10) : QctlRun State :=
  let (s, v) := hubTable s (bitsNat s.hub.qtbase 16 36 * 2 ^ 16 + 64 * q.toNat) 64
  let e := BitVec.ofNat 512 v
  if queueBad e then .error true
  else
    match loadCtx s (qCtx e) with
    | .error b => .error b
    | .ok s =>
      let x := ctxFor s (qCtx e)
      if !([qRing e, qHeadVa e, qTailVa e] ++ if qCq e = 0 then [] else [qCq e]).all (queuePage s x) then .error true
      else
        let s := dropQueue s q
        let new := fun (h : DWord) => ({ num := q, desc := e, head := h, tail := h } : SubQueue)
        match hubFetch s x (qHeadVa e) 8 with
        | .error none => .error false
        | .error (some t) =>
          match faultQueue { s with m := { s.m with free := s.m.free + 1 } } (new (Config.freeDWord s.m.free)) t with
          | some s => .ok s
          | none => .error false
        | .ok (s, h) =>
          let r := new (BitVec.ofNat 64 h)
          .ok (readTail { s with hub := { s.hub with queues := r :: s.hub.queues } } r)

/-- The request in QCTL, while it runs: its OP and queue. -/
def qctlRuns (s : State) (op : Nat) : Bool := s.hub.qctl.getLsbD 31 && bitsNat s.hub.qctl 16 2 = op
def qctlQueue (s : State) : BitVec 10 := s.hub.qctl.extractLsb' 0 10

/-- A request of QCTL ended. -/
def qctlEnd (s : State) (err : Bool) : State :=
  let q := setBits s.hub.qctl 31 1 0#1
  { s with hub := { s.hub with qctl := if err then setBits q 30 1 1#1 else q } }

/-- QUEUE_ENABLE (R207, R209): GO reads 1 until the request is done. -/
def execQueueEnable (s : State) : Host.Outcome State Fault Refusal :=
  .next (if !qctlRuns s 1 then s
    else match enableQueue s (qctlQueue s) with
      | .ok t => qctlEnd t false
      | .error true => qctlEnd s true
      | .error false => s)

/-- QUEUE_DISABLE (R207): no card is read and not accepted between two steps. -/
def execQueueDisable (s : State) : Host.Outcome State Fault Refusal :=
  .next (if qctlRuns s 0 then qctlEnd (dropQueue s (qctlQueue s)) false else s)

/-! ### CTXCTL (R207) -/

/-- A request of CTXCTL runs. -/
def ctxctlRuns (s : State) (op : Nat) : Bool := s.hub.ctxctl.getLsbD 31 && bitsNat s.hub.ctxctl 16 2 = op
def ctxctlCtx (s : State) : BitVec 16 := s.hub.ctxctl.extractLsb' 0 16

/-- A request of CTXCTL ended: STOPPED tells how the context then stands. -/
def ctxctlEnd (s : State) : State :=
  let c := setBits s.hub.ctxctl 31 1 0#1
  { s with hub := { s.hub with ctxctl := setBits c 30 1 (BitVec.ofBool (s.hub.stopped.contains (ctxctlCtx s))) } }

/-- A context stopped: nothing of it is dispatched until a resume (R207, R222). -/
def stopCtx (s : State) (c : BitVec 16) : State :=
  { s with hub := { s.hub with stopped := if s.hub.stopped.contains c then s.hub.stopped else c :: s.hub.stopped } }

/-- A context resumed; the journal entries of its FAULTED nodes are held no longer for that (R212). -/
def resumeCtx (s : State) (c : BitVec 16) : State :=
  settleJhead { s with hub := { s.hub with
      stopped := s.hub.stopped.filter (· ≠ c)
      retained := (s.hub.retained.map fun r => if r.ctx = c then { r with faulted := false } else r).filter
        fun r => r.faulted || s.hub.lastCommit < r.interval } }

/-- CTX_QUERY (R207). -/
def execCtxQuery (s : State) : Host.Outcome State Fault Refusal := .next (if ctxctlRuns s 0 then ctxctlEnd s else s)
/-- CTX_RESUME (R207). -/
def execCtxResume (s : State) : Host.Outcome State Fault Refusal :=
  .next (if ctxctlRuns s 1 then ctxctlEnd (resumeCtx s (ctxctlCtx s)) else s)
/-- CTX_STOP (R207). -/
def execCtxStop (s : State) : Host.Outcome State Fault Refusal :=
  .next (if ctxctlRuns s 2 then ctxctlEnd (stopCtx s (ctxctlCtx s)) else s)

end Sys2Proof.Machine
end

