-- ==== Sys2Proof/Machine/Card.lean ====
section
/-!
DEFINITION. Job cards from acceptance to completion (spec/09, R210, R213 to R219, R222; spec/06, R146): the checks, the waits and signals,
the edges, and what a completed node leaves.
-/
namespace Sys2Proof.Machine

/-! ### Fields of a card (R213) -/

def cardPrio (c : BitVec 2048) : BitVec 3 := c.extractLsb' 3 3
def cardAccord (c : BitVec 2048) : Bool := c.getLsbD 6
def cardSerial (c : BitVec 2048) : Bool := c.getLsbD 7
def cardProt (c : BitVec 2048) : BitVec 2 := c.extractLsb' 8 2
def cardSpan (c : BitVec 2048) : Nat := bitsNat c 10 2
def cardBlocks (c : BitVec 2048) : Nat := bitsNat c 12 5
def cardStash (c : BitVec 2048) : Nat := bitsNat c 20 20
def cardGcount (c : BitVec 2048) : Nat := bitsNat c 40 9
def cardCode (c : BitVec 2048) : Nat := bitsNat c 64 80
def cardGang (c : BitVec 2048) : BitVec 16 := c.extractLsb' 144 16
def cardX (c : BitVec 2048) : Nat := bitsNat c 192 20
def cardY (c : BitVec 2048) : Nat := bitsNat c 212 20
def cardZ (c : BitVec 2048) : Nat := bitsNat c 232 20
def cardWarps (c : BitVec 2048) (stage : Nat) : Nat := bitsNat c (256 + 8 * stage) 8
def cardFunc (c : BitVec 2048) : BitVec 7 := c.extractLsb' 256 7
def cardOpd (c : BitVec 2048) : DWord := c.extractLsb' 64 64
def cardOpa (c : BitVec 2048) : DWord := c.extractLsb' 128 64
def cardOpb (c : BitVec 2048) : DWord := c.extractLsb' 192 64
def cardHtab (c : BitVec 2048) : VA := c.extractLsb' 320 80
def cardCbank (c : BitVec 2048) : VA := c.extractLsb' 448 80
/-- The used read and write regions: VA and length. -/
def cardRegions (c : BitVec 2048) (at_ : Nat) : List (Nat × Nat) :=
  ((List.range 4).map fun i => (bitsNat c (at_ + 128 * i) 80, bitsNat c (at_ + 128 * i + 80) 48)).filter fun r => r.2 ≠ 0
def cardReads (c : BitVec 2048) : List (Nat × Nat) := cardRegions c 576
def cardWrites (c : BitVec 2048) : List (Nat × Nat) := cardRegions c 1088
/-- Wait `i`: used, comparison, index, operand. -/
def cardWait (c : BitVec 2048) (i : Nat) : Bool × Nat × Nat × Nat :=
  (c.getLsbD (1875 + 20 * i), bitsNat c (1872 + 20 * i) 3, bitsNat c (1856 + 20 * i) 16, bitsNat c (1600 + 64 * i) 64)
/-- Signal `i`: used, operation, index, operand. -/
def cardSignal (c : BitVec 2048) (i : Nat) : Bool × Nat × Nat × Nat :=
  (c.getLsbD (1914 + 24 * i), bitsNat c (1912 + 24 * i) 2, bitsNat c (1896 + 24 * i) 16, bitsNat c (1728 + 64 * i) 64)

/-- The blocks of a kernel node. -/
def cardGrid (c : BitVec 2048) : Nat := cardX c * cardY c * cardZ c
/-- Units of a block (R185): warps, or twin pairs, of all stages. -/
def cardUnits (c : BitVec 2048) : Nat := (List.range 8).foldl (fun n k => n + cardWarps c k) 0
/-- Warps of one unit. -/
def cardTwins (c : BitVec 2048) : Nat := if cardAccord c then 2 else 1
/-- Stash bytes of one span core in whole granules (R95). -/
def cardPortion (c : BitVec 2048) : Nat := 4096 * ceilDiv (cardStash c) 4096

/-- Where unit `u` of a block of a span goes: span position and partition (R185). -/
def unitPlace (span u : Nat) : Nat × Nat := (u % span, u / span % 4)
/-- The units of a block at a span position, and at one of its partitions. -/
def unitsAt (span units pos : Nat) : Nat := ((List.range units).filter fun u => (unitPlace span u).1 = pos).length
def unitsIn (span units pos part : Nat) : Nat := ((List.range units).filter fun u => unitPlace span u = (pos, part)).length

/-! ### The checks of R215 -/

/-- A non-zero zero field (R213). -/
def cardZeros (c : BitVec 2048) : Bool :=
  bitsNat c 1939 45 ≠ 0 || bitsNat c 1915 5 ≠ 0 || bitsNat c 528 48 ≠ 0 || bitsNat c 400 48 ≠ 0 || bitsNat c 49 15 ≠ 0 || bitsNat c 17 3 ≠ 0 ||
    match cardKind c with
    | 0 => bitsNat c 252 4 ≠ 0 || bitsNat c 160 32 ≠ 0
    | _ => bitsNat c 263 57 ≠ 0

/-- R214 broken: a kernel field of another kind, or a gang whose grid is not its members. WARPS and GRID hold the operands of KIND 1 to 5
(R213). -/
def cardBroken (c : BitVec 2048) : Bool :=
  if cardKind c = 0 then cardGcount c ≠ 0 && cardGrid c ≠ cardGcount c
  else cardAccord c || cardSpan c ≠ 0 || cardBlocks c ≠ 0 || cardStash c ≠ 0 || cardGcount c ≠ 0 ||
    (cardKind c = 6 && (bitsNat c 256 64 ≠ 0 || bitsNat c 192 64 ≠ 0))

/-- Check 1. -/
def check1 (c : BitVec 2048) : Bool :=
  cardKind c = 7 || 2 ≤ (cardProt c).toNat || (cardWait c 0).2.1 = 7 || (cardWait c 1).2.1 = 7 || (cardSignal c 0).2.1 = 3 ||
    (cardSignal c 1).2.1 = 3 || cardZeros c || cardBroken c

/-- Check 2. -/
def check2 (c : BitVec 2048) : Bool :=
  cardKind c = 0 && (cardSpan c = 0 || cardBlocks c = 0 || 29 < cardBlocks c || cardX c = 0 || cardY c = 0 || cardZ c = 0 ||
    cardCode c % 64 ≠ 0 || (cardCbank c).toNat % 128 ≠ 0 || cardUnits c = 0)

/-- Check 3. -/
def check3 (c : BitVec 2048) : Bool :=
  cardKind c = 0 && (192 < cardTwins c * cardUnits c || 983040 < cardPortion c ||
    (List.range (cardSpan c)).any fun p =>
      let warps := cardTwins c * unitsAt (cardSpan c) (cardUnits c) p
      64 < warps || 1016 < cardBlocks c * warps ||
        (List.range 4).any fun q => 16 < cardTwins c * unitsIn (cardSpan c) (cardUnits c) p q)

/-- The devices that the gang map of a card names, member by member (R223). -/
def gangMembers (s : State) (x : Ctx) (c : BitVec 2048) : HubRun (State × List (BitVec 16)) :=
  match hubFetch s x (ctxGmap x + 512 * (cardGang c).toNat) 512 with
  | .error e => .error e
  | .ok (s, v) => .ok (s, (List.range (cardGcount c)).map fun m => BitVec.ofNat 16 (v / 2 ^ (16 * m)))

/-- Check 4 on the members: at most 32 devices, all of the fabric and of the leader's recovery domain (R176). -/
def gangBad (s : State) (ms : List (BitVec 16)) : Bool :=
  32 < ms.eraseDups.length || ms.any fun m =>
    let d : BitVec 10 := m.extractLsb' 0 10
    m.toNat / 1024 ≠ 0 || (d ≠ s.fab.ident && (!present s.fab d || locDomain s.fab d ≠ s.fab.domain))

/-- Check 5: FUNC is no engine function of the kind (R221, R364). -/
def check5 (c : BitVec 2048) : Bool :=
  let f := (cardFunc c).toNat
  match cardKind c with
  | 1 => f ≠ 0x30
  | 2 => !(f = 0x20 || f = 0x21)
  | 3 => 0x05 < f
  | 4 => f < 0x10 || 0x13 < f
  | 5 => f < 0x40 || 0x43 < f
  | _ => false

/-- The check that a card fails first, as its fault (R215). A gang map that cannot be read gives its own fault; `none` while its read must
wait (R47, R63). -/
def checkCard (s : State) (x : Ctx) (c : BitVec 2048) : Option (State × Option TrapInfo) :=
  let no := fun (s : State) (n : Nat) => some (s, some ({ code := cIllegalInstruction, detail := BitVec.ofNat 8 (0x60 + n) } : TrapInfo))
  if check1 c then no s 1
  else if check2 c then no s 2
  else if check3 c then no s 3
  else if 256 < cardGcount c then no s 4
  else if cardGcount c ≠ 0 then
    match gangMembers s x c with
    | .error (some t) => some (s, some t)
    | .error none => none
    | .ok (s, ms) => if gangBad s ms then no s 4 else some (s, none)
  else if check5 c then no s 5
  else some (s, none)

/-! ### Semaphores (R216 to R218) -/

/-- The place of a semaphore for a wait or a signal. -/
def semPlace (s : State) (x : Ctx) (a : Access) (i : Nat) : HubRun (State × Place) :=
  match hubPlace s x a (ctxSems x + 8 * i) with
  | .error e => .error e
  | .ok (s, p) => if p.attr = aWos || p.attr = aIp then .error (some { code := cIllegalAtomic, detail := 0x03, va := p.va }) else .ok (s, p)

/-- The comparison of a wait (R217). -/
def waitHolds (op sem val : Nat) : Bool :=
  match op with
  | 0 => sem = val
  | 1 => sem ≠ val
  | 2 => val ≤ sem
  | 3 => val < sem
  | 4 => sem ≤ val
  | 5 => sem < val
  | _ => Nat.land sem val ≠ 0

/-- Whether wait `i` of a card holds now; an unused one does. -/
def evalWait (s : State) (x : Ctx) (c : BitVec 2048) (i : Nat) : HubRun Bool :=
  let w := cardWait c i
  if !w.1 then .ok true
  else
    match semPlace s x .load w.2.2.1 with
    | .error e => .error e
    | .ok (s, p) => .ok (waitHolds w.2.1 (homeNat (recallRange s.m p.pa 8) p.pa 8) w.2.2.2)

/-- A node's record replaced. -/
def putNode (s : State) (n : Node) : State :=
  { s with hub := { s.hub with nodes := s.hub.nodes.map fun m => if m.seq = n.seq then n else m } }

/-- A node's record changed. -/
def onNode (s : State) (seq : DWord) (f : Node → Node) : State :=
  { s with hub := { s.hub with nodes := s.hub.nodes.map fun m => if m.seq = seq then f m else m } }

/-- The node of a sequence number. -/
def nodeOf (s : State) (seq : DWord) : Option Node := s.hub.nodes.find? fun n => n.seq = seq

/-- The new value of a signal (R218). -/
def signalValue (op old val : Nat) : Nat := match op with
  | 0 => val
  | 1 => (old + val) % 2 ^ 64
  | _ => Nat.lor old val

/-- One signal performed at its semaphore, under a number of its own (R211, R218). -/
def applySignal (s : State) (c : BitVec 2048) (i : Nat) (p : Place) : State :=
  let g := cardSignal c i
  let s := (takeSeq s).1
  let m := recallRange s.m p.pa 8
  placePut { s with m := m } p (bytesOfNat 8 (signalValue g.2.1 (homeNat m p.pa 8) g.2.2.2))

/-- The used signals of a card, all translated and checked before the first is applied (R216). -/
def applySignals (s : State) (x : Ctx) (c : BitVec 2048) : HubRun State :=
  let places := [0, 1].foldl (fun (r : HubRun (State × List (Nat × Place))) i =>
    match r with
    | .error e => .error e
    | .ok (s, l) =>
      if !(cardSignal c i).1 then .ok (s, l)
      else
        match semPlace s x .atomic (cardSignal c i).2.2.1 with
        | .error e => .error e
        | .ok (s, p) => .ok (s, l ++ [(i, p)])) (.ok (s, []))
  match places with
  | .error e => .error e
  | .ok (s, l) => .ok (l.foldl (fun s q => applySignal s c q.1 q.2) s)

/-! ### Completion (R222, R218, R212) -/

/-- A completed node leaves the pool; its entry is kept until its interval commits and, FAULTED, its context is resumed (R212). -/
def retireNode (s : State) (n : Node) : State :=
  let r : Retained := { seq := n.seq, ctx := n.ctx, interval := s.m.interval, faulted := n.state = .faulted }
  settleJhead { s with hub := { s.hub with nodes := s.hub.nodes.filter fun m => m.seq ≠ n.seq, retained := r :: s.hub.retained } }

/-- The completion record of a node, to the ring of its queue as that is enabled now, else as it was at acceptance; a slot that cannot be
written disables the queue, and one whose page is being changed is awaited, `none` (R47, R63, R212). A reservation has none. -/
def nodeRecord (s : State) (n : Node) : Option State :=
  if n.leader.isSome then some s
  else
    let q := s.hub.queues.find? fun q => q.num = n.queue && qCtx q.desc = n.ctx
    let e := (q.map (·.desc)).getD n.qdesc
    let x := ctxFor s n.ctx
    match writeRecord s x e n.count.toNat (nodeEntry n) with
    | .ok s => some s
    | .error none => none
    | .error (some t) =>
      let r := takeSeq (if q.isSome then dropQueue s n.queue else s)
      some (appendRing r.1 x (hubRecord r.2 n.seq t))

/-- What completion does once it is known how the node ends; `none` while its record waits. -/
def sealAs (s : State) (n : Node) (st : NodeState) : Option State :=
  let n := { n with state := st }
  (nodeRecord (journalNode (takeSeq s).1 n) n).map fun s =>
    let s := retireNode s n
    if st = .faulted then stopCtx s n.ctx else s

/-- What completion does once the node's fault, if any, is known. -/
def sealNode (s : State) (n : Node) : Option State := sealAs s n (if n.fcode = 0#8 then .finished else .faulted)

/-- A node ends by a fault of its own: its completion, then the record (R211, R216, R222). -/
def endFaulted (s : State) (n : Node) (t : TrapInfo) : State :=
  let n := { n with fcode := t.code, detail := t.detail, stopped := true }
  let r := takeSeq ((sealNode s n).getD (putNode s n))
  appendRing r.1 (ctxFor s n.ctx) (hubRecord r.2 n.seq t)

/-- A node completes: its signals, its records, and, FAULTED, the stop of its context (R216, R218, R222). A reservation's node has no signals
to perform (R223). What must wait is tried again. -/
def completeNode (s : State) (n : Node) : State :=
  if n.fcode ≠ 0#8 || n.leader.isSome then (sealNode s n).getD s
  else
    match applySignals s (ctxFor s n.ctx) n.card with
    | .ok t => (sealNode t n).getD s
    | .error none => s
    | .error (some t) => endFaulted s n t

/-! ### Edges and readiness (R146, R219) -/

/-- Two lists of regions overlap (R146). -/
def regionsMeet (a b : List (Nat × Nat)) : Bool := a.any fun p => b.any fun q => rangesMeet p.1 p.2 q.1 q.2

/-- An earlier card conflicts with a later one. -/
def cardsConflict (n m : BitVec 2048) : Bool :=
  regionsMeet (cardWrites n) (cardReads m) || regionsMeet (cardReads n) (cardWrites m) || regionsMeet (cardWrites n) (cardWrites m)

/-- The edges into a card: from nodes of its context that conflict with it, and with SERIAL from its queue's previous card. -/
def edgesInto (s : State) (ctx : BitVec 16) (last : Option DWord) (c : BitVec 2048) : List DWord :=
  ((s.hub.nodes.filter fun n => n.leader.isNone && n.ctx = ctx && cardsConflict n.card c).map (·.seq)) ++
    if cardSerial c then last.toList else []

/-- Every edge into a node comes from a node that has completed, and its waits have latched (R219). -/
def nodeReady (s : State) (n : Node) : Bool :=
  n.latched0 && n.latched1 && !(n.edges.any fun e => (nodeOf s e).isSome)

/-- An accepted node that has become ready (R219, R212). -/
def makeReady (s : State) (n : Node) : State :=
  if n.state = .accepted && !n.stopped && nodeReady s n then
    let m := { n with state := .ready, readySince := wall s, prio := cardPrio n.card }
    journalNode (putNode s m) m
  else s

/-- Every node that has become ready. -/
def refreshReady (s : State) : State := s.hub.nodes.foldl makeReady s

/-- Wait `i` of a node evaluated: latched when it holds, the node FAULTED at once when it faults (R216, R217). -/
def tryWait (s : State) (seq : DWord) (i : Nat) : State :=
  match nodeOf s seq with
  | none => s
  | some n =>
    if (if i = 0 then n.latched0 else n.latched1) || n.stopped then s
    else
      let x := ctxFor s n.ctx
      match evalWait s x n.card i with
      | .ok true => putNode s (if i = 0 then { n with latched0 := true } else { n with latched1 := true })
      | .ok false => s
      | .error none => s
      | .error (some t) => endFaulted s n t

/-- SEM_LINE_CHANGE (R217): the waits of a context's nodes that have not latched are evaluated again. -/
def execSemLineChange (ctx : BitVec 16) (s : State) : Host.Outcome State Fault Refusal :=
  .next (refreshReady ((s.hub.nodes.filter fun n => n.ctx = ctx).foldl (fun s n => tryWait (tryWait s n.seq 0) n.seq 1) s))

/-! ### Acceptance (R210) -/

/-- Acceptance pauses: the pool or the journal is full. -/
def acceptPauses (s : State) : Bool :=
  16384 ≤ s.hub.nodes.length || journalCap ≤ (s.hub.jtail - s.hub.jhead).toNat

/-- The queue whose turn it is, among those with a card. -/
def nextQueue (s : State) : Option SubQueue :=
  let qs := s.hub.queues.filter fun q => q.tail ≠ q.head
  let best := fun (l : List SubQueue) => l.foldl (fun (b : Option SubQueue) q => match b with
    | none => some q
    | some p => if q.num < p.num then some q else some p) none
  match best (qs.filter fun q => s.hub.turn ≤ q.num) with
  | some q => some q
  | none => best qs

/-- The last card accepted from a queue (R219). -/
def lastFrom (s : State) (q : BitVec 10) : Option DWord := (s.hub.serials.find? fun e => e.1 = q).map (·.2)

/-- A node of a card. -/
def newNode (s : State) (q : SubQueue) (seq : DWord) (card : BitVec 2048) (stopped : Bool) : Node :=
  let x := qCtx q.desc
  { seq := seq, ctx := x, queue := q.num, count := q.head, card := card, state := .accepted, edges := edgesInto s x (lastFrom s q.num) card,
    latched0 := !(cardWait card 0).1, latched1 := !(cardWait card 1).1, prio := cardPrio card, readySince := 0, dispatched := 0, ended := 0,
    firstDispatch := none, fcode := 0#8, detail := 0#8, attempt := 0, awaiting := [], timer := none, committed := false, gangDevs := [],
    wall := BitVec.ofNat 64 (wall s), stopped := stopped, qdesc := q.desc, leader := none, passedSince := none }

/-- The journal entry and the card copy of an accepted command, here and at the buddy (R210, R174). -/
def journalCard (s : State) (n : Node) : State := hubLog (journalNode (flushGaps s) n) (cardAt n.seq) (bytesOfNat 256 n.card.toNat)

/-- A card that has its number enters the pool with the outcome of its checks: its waits evaluated, its edges derived (R210, steps 3 to 5). -/
def enterCard (s : State) (q : SubQueue) (seq : DWord) (card : BitVec 2048) (bad : Option TrapInfo) : State :=
  let n := newNode s q seq card bad.isSome
  let s := journalCard { s with hub := { s.hub with
    nodes := s.hub.nodes ++ [n]
    serials := (q.num, seq) :: s.hub.serials.filter (fun e => e.1 ≠ q.num)
    accepted := s.hub.accepted ++ [⟨s.m.interval, seq, n.ctx, q.num, q.head, card, q.desc⟩] } } n
  match bad with
  | some t => endFaulted s n t
  | none => refreshReady (tryWait (tryWait s seq 0) seq 1)

/-- One card of a queue accepted: read, HEADVA found writable, numbered, journalled, entered, and counted (R210, R209). -/
def acceptFrom (s : State) (q : SubQueue) : State :=
  let x := ctxFor s (qCtx q.desc)
  match hubFetch s x (qRing q.desc + 256 * (q.head.toNat % qSlots q.desc)) 256 with
  | .error none => s
  | .error (some t) => (faultQueue s q t).getD s
  | .ok (s, c) =>
    match hubPlace s x .store (qHeadVa q.desc) with
    | .error none => s
    | .error (some t) => (faultQueue s q t).getD s
    | .ok (s, p) =>
      match checkCard s x (BitVec.ofNat 2048 c) with
      | none => s
      | some (s, bad) =>
        let (s, seq) := nextSeq s
        let s := enterCard s q seq (BitVec.ofNat 2048 c) bad
        let h := q.head + 1#64
        let s := { s with hub := { s.hub with
          turn := q.num + 1#10
          queues := s.hub.queues.map fun r => if r.num = q.num then { r with head := h } else r } }
        placePut s p (bytesOfNat 8 h.toNat)

/-- CARD_ACCEPT (R210). -/
def execCardAccept (s : State) : Host.Outcome State Fault Refusal :=
  .next (if hubHeld s.hub || acceptPauses s then s
    else match nextQueue s with
      | none => s
      | some q => acceptFrom s q)

end Sys2Proof.Machine
end

