-- ==== Sys2Proof/WellFormed.lean ====
section
/-!
DEFINITION. Which instructions of Syntax.lean have a word of their own: the operand codes that the opcode map reserves are refused
(spec/10, R237, R243, R245, R246, R248; spec/11, R289; spec/12, R309), and so is a branch on p0 written as the conditional form, whose word is `br`.
An event is well-formed when the unit it names exists (spec/01, R5).
-/
namespace Sys2Proof

/-- The reply rule of the engine functions with an optional reply: without one the destination is zero (R248). -/
def Instr.replyWf (r : BitVec 1) (d : BitVec 6) : Bool := r == 1#1 || d == 0#6

/-- The index widths of the MEM format: a 64-bit index is not sign-extended (R237). -/
def Instr.indexWf (w : BitVec 2) (g : BitVec 1) : Bool := !(w == 3#2 && g == 1#1)

/-- A port number of R5. -/
def Instr.portWf (p : BitVec 6) : Bool := p.toNat < 36

/-- An instruction is well-formed when its fields hold no reserved code. -/
def Instr.wf : Instr → Bool
  | .nop => true
  | .exit => true
  | .yield => true
  | .sleep _ => true
  | .ret => true
  | .jmpi _ => true
  | .calli _ => true
  | .trap _ => true
  | .tret => true
  | .tattach => true
  | .tdetach => true
  | .ttrap _ => true
  | .tdead _ => true
  | .br _ _ => true
  | .brP _ _ p => p != 0#4
  | .brNp _ _ _ => true
  | .brZ _ _ _ => true
  | .brNz _ _ _ => true
  | .call _ _ => true
  | .rcv _ _ => true
  | .rapent _ _ => true
  | .rdsr _ n => n.toNat < 26
  | .wrsr _ n => n.toNat < 26
  | .sadd _ _ _ => true
  | .ssub _ _ _ => true
  | .smul _ _ _ => true
  | .smulh _ _ _ => true
  | .sand _ _ _ => true
  | .sor _ _ _ => true
  | .sxor _ _ _ => true
  | .sandn _ _ _ => true
  | .sshl _ _ _ => true
  | .sshr _ _ _ => true
  | .sasr _ _ _ => true
  | .srot _ _ _ => true
  | .seq _ _ _ => true
  | .slt _ _ _ => true
  | .sle _ _ _ => true
  | .sne _ _ _ => true
  | .smin _ _ _ => true
  | .smax _ _ _ => true
  | .sdiv _ _ _ => true
  | .srem _ _ _ => true
  | .smov _ _ => true
  | .snot _ _ => true
  | .sneg _ _ => true
  | .sclz _ _ => true
  | .spopc _ _ => true
  | .sbrev _ _ => true
  | .vadd _ _ _ => true
  | .vsub _ _ _ => true
  | .vmul _ _ _ => true
  | .vmulh _ _ _ => true
  | .vand _ _ _ => true
  | .vor _ _ _ => true
  | .vxor _ _ _ => true
  | .vandn _ _ _ => true
  | .vshl _ _ _ => true
  | .vshr _ _ _ => true
  | .vasr _ _ _ => true
  | .vrot _ _ _ => true
  | .vmin _ _ _ => true
  | .vmax _ _ _ => true
  | .vabsd _ _ _ => true
  | .vmadi _ _ _ => true
  | .vcmpEq _ _ _ => true
  | .vcmpLt _ _ _ => true
  | .vcmpLe _ _ _ => true
  | .vcmpNe _ _ _ => true
  | .vmov _ _ => true
  | .vnot _ _ => true
  | .vneg _ _ => true
  | .vabs _ _ => true
  | .vclz _ _ => true
  | .vpopc _ _ => true
  | .vbrev _ _ => true
  | .vfneg _ _ => true
  | .vfabs _ _ => true
  | .vrcp _ _ => true
  | .vrsqrt _ _ => true
  | .vsqrt _ _ => true
  | .vexp2 _ _ => true
  | .vlog2 _ _ => true
  | .vsin _ _ => true
  | .vcos _ _ => true
  | .vtanh _ _ => true
  | .vfadd _ _ _ => true
  | .vfsub _ _ _ => true
  | .vfmul _ _ _ => true
  | .vfmin _ _ _ => true
  | .vfmad _ _ _ => true
  | .vfmac _ _ _ => true
  | .vfnmac _ _ _ => true
  | .vfmax _ _ _ => true
  | .vcvt _ _ _ _ => true
  | .vmxscale _ _ => true
  | .vmxq _ _ _ => true
  | .vmxdq _ _ _ => true
  | .vshflIdx _ _ _ => true
  | .vshflUp _ _ _ => true
  | .vshflDown _ _ _ => true
  | .vshflXor _ _ _ => true
  | .vbcast _ _ k => k.toNat < 64
  | .vs2v _ _ => true
  | .v2s _ _ k => k.toNat < 64
  | .voteAny _ _ => true
  | .voteAll _ _ => true
  | .voteBallot _ _ => true
  | .voteUni _ _ => true
  | .vscanAdd _ _ => true
  | .vscanMin _ _ => true
  | .vscanMax _ _ => true
  | .vscanOr _ _ => true
  | .vreduceAdd _ _ => true
  | .vreduceMin _ _ => true
  | .vreduceMax _ _ => true
  | .vreduceOr _ _ => true
  | .mset _ _ => true
  | .mget _ _ => true
  | .msetx _ => true
  | .mgetx _ => true
  | .pand _ _ _ => true
  | .por _ _ _ => true
  | .pxor _ _ _ => true
  | .pandn _ _ _ => true
  | .reord _ _ => true
  | .ldv _ _ _ w g _ => indexWf w g
  | .gather _ _ _ w g _ => indexWf w g
  | .stv _ _ _ w g _ => indexWf w g
  | .scatter _ _ _ w g _ => indexWf w g
  | .ldc _ _ w g _ => indexWf w g
  | .sld _ _ _ w g _ => indexWf w g
  | .sst _ _ _ w g _ => indexWf w g
  | .lda _ _ _ w g _ => indexWf w g
  | .stl _ _ _ w g _ => indexWf w g
  | .tld _ _ _ => true
  | .tst _ _ _ => true
  | .hbind _ _ => true
  | .hset _ _ => true
  | .hqry _ _ q => q.toNat < 11
  | .pref _ _ _ => true
  | .flush _ _ _ => true
  | .inval _ _ _ => true
  | .pub _ _ _ => true
  | .smap _ _ _ => true
  | .sunmap _ => true
  | .fenceWarp => true
  | .fenceBlk => true
  | .fenceDev => true
  | .fenceGang => true
  | .fenceSys => true
  | .fenceXp => true
  | .atomAdd _ _ _ _ _ => true
  | .atomMin _ _ _ _ _ => true
  | .atomMax _ _ _ _ _ => true
  | .atomAnd _ _ _ _ _ => true
  | .atomOr _ _ _ _ _ => true
  | .atomXor _ _ _ _ _ => true
  | .atomXchg _ _ _ _ _ => true
  | .atomCas _ _ _ _ _ => true
  | .redAdd _ _ _ _ r => (r == 0#2 || r == 2#2)
  | .redMin _ _ _ _ r => (r == 0#2 || r == 2#2)
  | .redMax _ _ _ _ r => (r == 0#2 || r == 2#2)
  | .redAnd _ _ _ _ r => (r == 0#2 || r == 2#2)
  | .redOr _ _ _ _ r => (r == 0#2 || r == 2#2)
  | .redXor _ _ _ _ r => (r == 0#2 || r == 2#2)
  | .barArrive _ _ _ => true
  | .barWait _ _ _ => true
  | .barArriveN _ _ _ => true
  | .rclm _ => true
  | .rrel _ => true
  | .rqry _ => true
  | .rqpool _ => true
  | .qpush _ _ => true
  | .kvxs _ _ _ => true
  | .kvx _ _ _ => true
  | .rld _ _ _ _ => true
  | .rst _ _ _ _ => true
  | .ratom _ _ _ _ => true
  | .rred _ _ _ _ => true
  | .mcst _ _ _ _ => true
  | .mma _ _ _ _ _ _ => true
  | .mmat _ _ _ _ _ _ => true
  | .mmap _ _ _ _ _ _ => true
  | .accz _ => true
  | .accld _ _ _ => true
  | .accst _ _ _ => true
  | .accg _ _ => true
  | .accmax _ _ => true
  | .accexp _ _ => true
  | .accsum _ _ _ => true
  | .cpy _ _ _ => true
  | .gath _ _ _ => true
  | .scat _ _ _ => true
  | .tcpy r d _ _ => replyWf r d
  | .fill _ _ _ => true
  | .tdec _ _ _ => true
  | .encv _ _ _ => true
  | .encc _ _ _ => true
  | .encvp _ _ _ => true
  | .enccp _ _ _ => true
  | .migp _ _ _ => true
  | .migb r d _ _ => replyWf r d
  | .avdec r d _ _ => replyWf r d
  | .cbcast _ _ _ => true
  | .creduce _ _ _ => true
  | .callred _ _ _ => true
  | .cgath _ _ _ => true
  | .tdef _ _ => true
  | .trel r d _ => replyWf r d
  | .trdy r d _ => replyWf r d
  | .tdrn r d _ => replyWf r d
  | .tqry _ _ => true
  | .ctload _ _ => true
  | .ctsave _ _ => true
  | .ctinv _ => true
  | .smovi _ _ => true
  | .movi _ _ => true
  | .loadComplete _ _ => true
  | .storePerformed _ => true
  | .lateFault _ _ => true
  | .impreciseFaultDelivery _ => true
  | .ttrapDeadline _ => true
  | .tdeadDeadline _ => true
  | .sleepEnd _ => true
  | .accordWaitExpire _ => true
  | .wosTimeout _ _ => true
  | .deadlockDetect _ => true
  | .rclmGrant core => core.toNat < 160
  | .matrixAccept _ => true
  | .matrixComplete _ => true
  | .engineStartGrant _ => true
  | .engineGate engine => engine.toNat < 640
  | .engineCompletion _ => true
  | .xlateInval => true
  | .xlateInvalctx => true
  | .xlateSplinter => true
  | .xlateAttrchg => true
  | .xlatePerm => true
  | .xlateRequestEnd => true
  | .queueEnable => true
  | .queueDisable => true
  | .ctxQuery => true
  | .ctxResume => true
  | .ctxStop => true
  | .ckptCfg _ => true
  | .fabCfg _ => true
  | .pwrCfg _ => true
  | .tlmSel _ => true
  | .registerWrite _ _ => true
  | .tailChange _ => true
  | .cardAccept => true
  | .semLineChange _ => true
  | .nodeDispatch => true
  | .priorityAging => true
  | .nodeComplete _ => true
  | .nodeWatchdog _ => true
  | .gangReserve _ => true
  | .gangTimeout _ => true
  | .gangRetry _ => true
  | .contextSwitchOut _ => true
  | .contextRestore _ => true
  | .migrationRequest _ => true
  | .intervalCut => true
  | .undoLogFull => true
  | .heartbeatTick => true
  | .deviceDeclaredDead _ => true
  | .standbySubstitute _ _ _ => true
  | .uncorrectableError _ => true
  | .rebuildDone => true
  | .cut _ => true
  | .cutdone _ _ => true
  | .resume _ => true
  | .vote _ _ _ => true
  | .commit _ => true
  | .abort _ => true
  | .heartbeat _ => true
  | .reserve _ _ _ _ => true
  | .gcommit _ _ => true
  | .grelease _ _ => true
  | .mirror _ _ _ _ => true
  | .mirrorack _ => true
  | .fmwrite _ _ => true
  | .spdm _ _ => true
  | .keyset _ _ _ => true
  | .keyerase _ _ => true
  | .rekey port => portWf port
  | .keyrdy port => portWf port
  | .retire port => portWf port
  | .mctpMessage _ _ _ => true
  | .flit port _ _ _ => portWf port
  | .nak port _ => portWf port
  | .linkDown port => portWf port
  | .linkTrain port _ => portWf port
  | .rldRequest _ _ _ _ _ _ _ _ _ _ => true
  | .rstRequest _ _ _ _ _ _ _ _ _ _ _ => true
  | .ratomRequest _ _ _ _ _ _ _ _ _ _ _ => true
  | .rredRequest _ _ _ _ _ _ _ _ _ _ _ => true
  | .mcstRequest _ _ _ _ _ _ _ _ _ _ _ _ => true
  | .ack _ _ _ => true
  | .rnr _ _ _ _ => true
  | .err _ _ _ _ _ => true
  | .rnrRetry _ => true
  | .dack _ _ => true
  | .readShared _ _ => true
  | .readOwn _ _ => true
  | .readUpdate _ _ _ _ _ => true
  | .writeBack _ _ _ _ => true
  | .invalidate _ _ => true
  | .update _ _ _ _ => true
  | .recall _ _ => true
  | .partialReturn _ _ => true
  | .grant _ _ _ => true
  | .acknowledge _ _ => true
  | .hostMemRead _ _ => true
  | .hostMemWrite _ _ _ => true
  | .hostSnoop _ _ => true
  | .nvmeCompletion _ _ => true
  | .powerGood _ => true
  | .flowLoss => true
  | .throttle _ _ => true
  | .thermalFatal _ => true
  | .gangAcknowledgement _ _ => true
  | .flowSignalAsserted => true
  | .throttleClear _ _ => true

end Sys2Proof
end

