-- ==== Sys2Proof/Decode.lean ====
section
/-!
DEFINITION. Decoding of one instruction word (spec/10, R234 to R250), total on any word: a word that is not an instruction is rejected
by the name of the first check of R239 that it fails. After the decoder stands the encoder, written from the same layouts.
-/
namespace Sys2Proof

/-- Why a word is not an instruction: the failed check of R239. -/
inductive DecodeError where
  /-- order 1: a sub-encoding, function or code that the opcode map reserves (detail 0x01) -/
  | reservedCode
  /-- order 2: a field that must be zero is not (detail 0x02) -/
  | nonZeroField
  /-- R363, check 2: an engine function whose reply is required is written without one (detail 0x44); it keeps the operand
  fields that the checks before it read -/
  | replyMissing (a : BitVec 6) (b : BitVec 6)
  deriving DecidableEq, Repr

/-- The instruction `i`, when the fields that must be zero are, as `z` says (R239, order 2). -/
def zeroed (z : Bool) (i : Instr) : Except DecodeError Instr :=
  if z then .ok i else .error .nonZeroField

/-- A field's value in its place in a word: `lo` is the number of its lowest bit (R234). -/
def place {n : Nat} (lo : Nat) (x : BitVec n) : Nat := x.toNat * 2 ^ lo

/-- Major opcode 0x00 (R241). -/
def decodeCtl (w : Word) : Except DecodeError Instr :=
  match (w.extractLsb' 18 8).toNat with
  | 0x00 => zeroed (w.extractLsb' 0 18 == 0#18) .nop
  | 0x01 => zeroed (w.extractLsb' 0 18 == 0#18) .exit
  | 0x02 => zeroed (w.extractLsb' 0 18 == 0#18) .yield
  | 0x03 => zeroed (w.extractLsb' 10 8 == 0#8) (.sleep (w.extractLsb' 0 10))
  | 0x04 => zeroed (w.extractLsb' 0 18 == 0#18) .ret
  | 0x05 => zeroed (w.extractLsb' 0 10 == 0#10) (.jmpi (w.extractLsb' 10 8))
  | 0x06 => zeroed (w.extractLsb' 0 10 == 0#10) (.calli (w.extractLsb' 10 8))
  | 0x07 => zeroed (w.extractLsb' 10 8 == 0#8) (.trap (w.extractLsb' 0 10))
  | 0x08 => zeroed (w.extractLsb' 0 18 == 0#18) .tret
  | 0x09 => zeroed (w.extractLsb' 0 18 == 0#18) .tattach
  | 0x0A => zeroed (w.extractLsb' 0 18 == 0#18) .tdetach
  | 0x0B => zeroed (w.extractLsb' 0 10 == 0#10) (.ttrap (w.extractLsb' 10 8))
  | 0x0C => zeroed (w.extractLsb' 0 10 == 0#10) (.tdead (w.extractLsb' 10 8))
  | _ => .error .reservedCode

/-- Major opcode 0x01 (R241). -/
def decodeBr (w : Word) : Except DecodeError Instr :=
  match (w.extractLsb' 4 2).toNat with
  | 0 => if w.extractLsb' 0 4 = 0#4 then .ok (.br (w.extractLsb' 10 16) (w.extractLsb' 6 4))
         else .ok (.brP (w.extractLsb' 10 16) (w.extractLsb' 6 4) (w.extractLsb' 0 4))
  | 1 => .ok (.brNp (w.extractLsb' 10 16) (w.extractLsb' 6 4) (w.extractLsb' 0 4))
  | 2 => .ok (.brZ (w.extractLsb' 10 16) (w.extractLsb' 6 4) (w.extractLsb' 0 4))
  | _ => .ok (.brNz (w.extractLsb' 10 16) (w.extractLsb' 6 4) (w.extractLsb' 0 4))

/-- Major opcode 0x02 (R241). -/
def decodeCallRcv (w : Word) : Except DecodeError Instr :=
  match (w.extractLsb' 0 6).toNat with
  | 0x00 => .ok (.call (w.extractLsb' 10 16) (w.extractLsb' 6 4))
  | 0x01 => .ok (.rcv (w.extractLsb' 10 16) (w.extractLsb' 6 4))
  | 0x02 => .ok (.rapent (w.extractLsb' 10 16) (w.extractLsb' 6 4))
  | _ => .error .reservedCode

/-- Major opcode 0x03 (R241); a register number above 25 is reserved (R189, R375). -/
def decodeRdsr (w : Word) : Except DecodeError Instr :=
  if 25 < (w.extractLsb' 0 10).toNat then .error .reservedCode else zeroed (w.extractLsb' 10 8 == 0#8) (.rdsr (w.extractLsb' 18 8) (w.extractLsb' 0 10))

/-- Major opcode 0x04 (R241); a register number above 25 is reserved (R189, R375). -/
def decodeWrsr (w : Word) : Except DecodeError Instr :=
  if 25 < (w.extractLsb' 0 10).toNat then .error .reservedCode else zeroed (w.extractLsb' 18 8 == 0#8) (.wrsr (w.extractLsb' 10 8) (w.extractLsb' 0 10))

/-- Major opcode 0x05 (R241). -/
def decodeSarith (w : Word) : Except DecodeError Instr :=
  match (w.extractLsb' 0 2).toNat with
  | 0x00 => .ok (.sadd (w.extractLsb' 18 8) (w.extractLsb' 10 8) (w.extractLsb' 2 8))
  | 0x01 => .ok (.ssub (w.extractLsb' 18 8) (w.extractLsb' 10 8) (w.extractLsb' 2 8))
  | 0x02 => .ok (.smul (w.extractLsb' 18 8) (w.extractLsb' 10 8) (w.extractLsb' 2 8))
  | _ => .ok (.smulh (w.extractLsb' 18 8) (w.extractLsb' 10 8) (w.extractLsb' 2 8))

/-- Major opcode 0x06 (R241). -/
def decodeSlogic (w : Word) : Except DecodeError Instr :=
  match (w.extractLsb' 0 2).toNat with
  | 0x00 => .ok (.sand (w.extractLsb' 18 8) (w.extractLsb' 10 8) (w.extractLsb' 2 8))
  | 0x01 => .ok (.sor (w.extractLsb' 18 8) (w.extractLsb' 10 8) (w.extractLsb' 2 8))
  | 0x02 => .ok (.sxor (w.extractLsb' 18 8) (w.extractLsb' 10 8) (w.extractLsb' 2 8))
  | _ => .ok (.sandn (w.extractLsb' 18 8) (w.extractLsb' 10 8) (w.extractLsb' 2 8))

/-- Major opcode 0x07 (R241). -/
def decodeSshift (w : Word) : Except DecodeError Instr :=
  match (w.extractLsb' 0 2).toNat with
  | 0x00 => .ok (.sshl (w.extractLsb' 18 8) (w.extractLsb' 10 8) (w.extractLsb' 2 8))
  | 0x01 => .ok (.sshr (w.extractLsb' 18 8) (w.extractLsb' 10 8) (w.extractLsb' 2 8))
  | 0x02 => .ok (.sasr (w.extractLsb' 18 8) (w.extractLsb' 10 8) (w.extractLsb' 2 8))
  | _ => .ok (.srot (w.extractLsb' 18 8) (w.extractLsb' 10 8) (w.extractLsb' 2 8))

/-- Major opcode 0x08 (R241). -/
def decodeScmp (w : Word) : Except DecodeError Instr :=
  match (w.extractLsb' 0 2).toNat with
  | 0x00 => .ok (.seq (w.extractLsb' 18 8) (w.extractLsb' 10 8) (w.extractLsb' 2 8))
  | 0x01 => .ok (.slt (w.extractLsb' 18 8) (w.extractLsb' 10 8) (w.extractLsb' 2 8))
  | 0x02 => .ok (.sle (w.extractLsb' 18 8) (w.extractLsb' 10 8) (w.extractLsb' 2 8))
  | _ => .ok (.sne (w.extractLsb' 18 8) (w.extractLsb' 10 8) (w.extractLsb' 2 8))

/-- Major opcode 0x09 (R241). -/
def decodeSdiv (w : Word) : Except DecodeError Instr :=
  match (w.extractLsb' 0 2).toNat with
  | 0x00 => .ok (.smin (w.extractLsb' 18 8) (w.extractLsb' 10 8) (w.extractLsb' 2 8))
  | 0x01 => .ok (.smax (w.extractLsb' 18 8) (w.extractLsb' 10 8) (w.extractLsb' 2 8))
  | 0x02 => .ok (.sdiv (w.extractLsb' 18 8) (w.extractLsb' 10 8) (w.extractLsb' 2 8))
  | _ => .ok (.srem (w.extractLsb' 18 8) (w.extractLsb' 10 8) (w.extractLsb' 2 8))

/-- Major opcode 0x0A (R241). -/
def decodeSunary (w : Word) : Except DecodeError Instr :=
  match (w.extractLsb' 2 8).toNat with
  | 0x00 => zeroed (w.extractLsb' 0 2 == 0#2) (.smov (w.extractLsb' 18 8) (w.extractLsb' 10 8))
  | 0x01 => zeroed (w.extractLsb' 0 2 == 0#2) (.snot (w.extractLsb' 18 8) (w.extractLsb' 10 8))
  | 0x02 => zeroed (w.extractLsb' 0 2 == 0#2) (.sneg (w.extractLsb' 18 8) (w.extractLsb' 10 8))
  | 0x04 => zeroed (w.extractLsb' 0 2 == 0#2) (.sclz (w.extractLsb' 18 8) (w.extractLsb' 10 8))
  | 0x05 => zeroed (w.extractLsb' 0 2 == 0#2) (.spopc (w.extractLsb' 18 8) (w.extractLsb' 10 8))
  | 0x06 => zeroed (w.extractLsb' 0 2 == 0#2) (.sbrev (w.extractLsb' 18 8) (w.extractLsb' 10 8))
  | _ => .error .reservedCode

/-- Major opcode 0x0B (R241). -/
def decodeVarith (w : Word) : Except DecodeError Instr :=
  match (w.extractLsb' 0 2).toNat with
  | 0x00 => .ok (.vadd (w.extractLsb' 18 8) (w.extractLsb' 10 8) (w.extractLsb' 2 8))
  | 0x01 => .ok (.vsub (w.extractLsb' 18 8) (w.extractLsb' 10 8) (w.extractLsb' 2 8))
  | 0x02 => .ok (.vmul (w.extractLsb' 18 8) (w.extractLsb' 10 8) (w.extractLsb' 2 8))
  | _ => .ok (.vmulh (w.extractLsb' 18 8) (w.extractLsb' 10 8) (w.extractLsb' 2 8))

/-- Major opcode 0x0C (R241). -/
def decodeVlogic (w : Word) : Except DecodeError Instr :=
  match (w.extractLsb' 0 2).toNat with
  | 0x00 => .ok (.vand (w.extractLsb' 18 8) (w.extractLsb' 10 8) (w.extractLsb' 2 8))
  | 0x01 => .ok (.vor (w.extractLsb' 18 8) (w.extractLsb' 10 8) (w.extractLsb' 2 8))
  | 0x02 => .ok (.vxor (w.extractLsb' 18 8) (w.extractLsb' 10 8) (w.extractLsb' 2 8))
  | _ => .ok (.vandn (w.extractLsb' 18 8) (w.extractLsb' 10 8) (w.extractLsb' 2 8))

/-- Major opcode 0x0D (R241). -/
def decodeVshift (w : Word) : Except DecodeError Instr :=
  match (w.extractLsb' 0 2).toNat with
  | 0x00 => .ok (.vshl (w.extractLsb' 18 8) (w.extractLsb' 10 8) (w.extractLsb' 2 8))
  | 0x01 => .ok (.vshr (w.extractLsb' 18 8) (w.extractLsb' 10 8) (w.extractLsb' 2 8))
  | 0x02 => .ok (.vasr (w.extractLsb' 18 8) (w.extractLsb' 10 8) (w.extractLsb' 2 8))
  | _ => .ok (.vrot (w.extractLsb' 18 8) (w.extractLsb' 10 8) (w.extractLsb' 2 8))

/-- Major opcode 0x0E (R241). -/
def decodeVminmax (w : Word) : Except DecodeError Instr :=
  match (w.extractLsb' 0 2).toNat with
  | 0x00 => .ok (.vmin (w.extractLsb' 18 8) (w.extractLsb' 10 8) (w.extractLsb' 2 8))
  | 0x01 => .ok (.vmax (w.extractLsb' 18 8) (w.extractLsb' 10 8) (w.extractLsb' 2 8))
  | 0x02 => .ok (.vabsd (w.extractLsb' 18 8) (w.extractLsb' 10 8) (w.extractLsb' 2 8))
  | _ => .ok (.vmadi (w.extractLsb' 18 8) (w.extractLsb' 10 8) (w.extractLsb' 2 8))

/-- Major opcode 0x0F (R241). -/
def decodeVcmp (w : Word) : Except DecodeError Instr :=
  match (w.extractLsb' 0 2).toNat with
  | 0x00 => zeroed (w.extractLsb' 22 4 == 0#4) (.vcmpEq (w.extractLsb' 18 4) (w.extractLsb' 10 8) (w.extractLsb' 2 8))
  | 0x01 => zeroed (w.extractLsb' 22 4 == 0#4) (.vcmpLt (w.extractLsb' 18 4) (w.extractLsb' 10 8) (w.extractLsb' 2 8))
  | 0x02 => zeroed (w.extractLsb' 22 4 == 0#4) (.vcmpLe (w.extractLsb' 18 4) (w.extractLsb' 10 8) (w.extractLsb' 2 8))
  | _ => zeroed (w.extractLsb' 22 4 == 0#4) (.vcmpNe (w.extractLsb' 18 4) (w.extractLsb' 10 8) (w.extractLsb' 2 8))

/-- Major opcode 0x10 (R241). -/
def decodeVunary (w : Word) : Except DecodeError Instr :=
  match (w.extractLsb' 2 8).toNat with
  | 0x00 => zeroed (w.extractLsb' 0 2 == 0#2) (.vmov (w.extractLsb' 18 8) (w.extractLsb' 10 8))
  | 0x01 => zeroed (w.extractLsb' 0 2 == 0#2) (.vnot (w.extractLsb' 18 8) (w.extractLsb' 10 8))
  | 0x02 => zeroed (w.extractLsb' 0 2 == 0#2) (.vneg (w.extractLsb' 18 8) (w.extractLsb' 10 8))
  | 0x03 => zeroed (w.extractLsb' 0 2 == 0#2) (.vabs (w.extractLsb' 18 8) (w.extractLsb' 10 8))
  | 0x04 => zeroed (w.extractLsb' 0 2 == 0#2) (.vclz (w.extractLsb' 18 8) (w.extractLsb' 10 8))
  | 0x05 => zeroed (w.extractLsb' 0 2 == 0#2) (.vpopc (w.extractLsb' 18 8) (w.extractLsb' 10 8))
  | 0x06 => zeroed (w.extractLsb' 0 2 == 0#2) (.vbrev (w.extractLsb' 18 8) (w.extractLsb' 10 8))
  | 0x08 => zeroed (w.extractLsb' 0 2 == 0#2) (.vfneg (w.extractLsb' 18 8) (w.extractLsb' 10 8))
  | 0x09 => zeroed (w.extractLsb' 0 2 == 0#2) (.vfabs (w.extractLsb' 18 8) (w.extractLsb' 10 8))
  | 0x0A => zeroed (w.extractLsb' 0 2 == 0#2) (.vrcp (w.extractLsb' 18 8) (w.extractLsb' 10 8))
  | 0x0B => zeroed (w.extractLsb' 0 2 == 0#2) (.vrsqrt (w.extractLsb' 18 8) (w.extractLsb' 10 8))
  | 0x0C => zeroed (w.extractLsb' 0 2 == 0#2) (.vsqrt (w.extractLsb' 18 8) (w.extractLsb' 10 8))
  | 0x0D => zeroed (w.extractLsb' 0 2 == 0#2) (.vexp2 (w.extractLsb' 18 8) (w.extractLsb' 10 8))
  | 0x0E => zeroed (w.extractLsb' 0 2 == 0#2) (.vlog2 (w.extractLsb' 18 8) (w.extractLsb' 10 8))
  | 0x0F => zeroed (w.extractLsb' 0 2 == 0#2) (.vsin (w.extractLsb' 18 8) (w.extractLsb' 10 8))
  | 0x10 => zeroed (w.extractLsb' 0 2 == 0#2) (.vcos (w.extractLsb' 18 8) (w.extractLsb' 10 8))
  | 0x11 => zeroed (w.extractLsb' 0 2 == 0#2) (.vtanh (w.extractLsb' 18 8) (w.extractLsb' 10 8))
  | _ => .error .reservedCode

/-- Major opcode 0x11 (R241). -/
def decodeVfarith (w : Word) : Except DecodeError Instr :=
  match (w.extractLsb' 0 2).toNat with
  | 0x00 => .ok (.vfadd (w.extractLsb' 18 8) (w.extractLsb' 10 8) (w.extractLsb' 2 8))
  | 0x01 => .ok (.vfsub (w.extractLsb' 18 8) (w.extractLsb' 10 8) (w.extractLsb' 2 8))
  | 0x02 => .ok (.vfmul (w.extractLsb' 18 8) (w.extractLsb' 10 8) (w.extractLsb' 2 8))
  | _ => .ok (.vfmin (w.extractLsb' 18 8) (w.extractLsb' 10 8) (w.extractLsb' 2 8))

/-- Major opcode 0x12 (R241). -/
def decodeVffma (w : Word) : Except DecodeError Instr :=
  match (w.extractLsb' 0 2).toNat with
  | 0x00 => .ok (.vfmad (w.extractLsb' 18 8) (w.extractLsb' 10 8) (w.extractLsb' 2 8))
  | 0x01 => .ok (.vfmac (w.extractLsb' 18 8) (w.extractLsb' 10 8) (w.extractLsb' 2 8))
  | 0x02 => .ok (.vfnmac (w.extractLsb' 18 8) (w.extractLsb' 10 8) (w.extractLsb' 2 8))
  | _ => .ok (.vfmax (w.extractLsb' 18 8) (w.extractLsb' 10 8) (w.extractLsb' 2 8))

/-- Major opcode 0x13 (R241). -/
def decodeVcvt (w : Word) : Except DecodeError Instr :=
  match (w.extractLsb' 0 2).toNat with
  | 0x00 => .ok (.vcvt (w.extractLsb' 18 8) (w.extractLsb' 10 8) (w.extractLsb' 6 4) (w.extractLsb' 2 4))
  | 0x01 => zeroed (w.extractLsb' 2 8 == 0#8) (.vmxscale (w.extractLsb' 18 8) (w.extractLsb' 10 8))
  | 0x02 => .ok (.vmxq (w.extractLsb' 18 8) (w.extractLsb' 10 8) (w.extractLsb' 2 8))
  | _ => .ok (.vmxdq (w.extractLsb' 18 8) (w.extractLsb' 10 8) (w.extractLsb' 2 8))

/-- Major opcode 0x14 (R241). -/
def decodeVshfl (w : Word) : Except DecodeError Instr :=
  match (w.extractLsb' 0 2).toNat with
  | 0x00 => .ok (.vshflIdx (w.extractLsb' 18 8) (w.extractLsb' 10 8) (w.extractLsb' 2 8))
  | 0x01 => .ok (.vshflUp (w.extractLsb' 18 8) (w.extractLsb' 10 8) (w.extractLsb' 2 8))
  | 0x02 => .ok (.vshflDown (w.extractLsb' 18 8) (w.extractLsb' 10 8) (w.extractLsb' 2 8))
  | _ => .ok (.vshflXor (w.extractLsb' 18 8) (w.extractLsb' 10 8) (w.extractLsb' 2 8))

/-- Major opcode 0x15 (R241). -/
def decodeVxfer (w : Word) : Except DecodeError Instr :=
  match (w.extractLsb' 0 2).toNat with
  | 0x00 => if w.extractLsb' 8 2 ≠ 0#2 then .error .reservedCode else .ok (.vbcast (w.extractLsb' 18 8) (w.extractLsb' 10 8) (w.extractLsb' 2 8))
  | 0x01 => zeroed (w.extractLsb' 2 8 == 0#8) (.vs2v (w.extractLsb' 18 8) (w.extractLsb' 10 8))
  | 0x02 => if w.extractLsb' 8 2 ≠ 0#2 then .error .reservedCode else .ok (.v2s (w.extractLsb' 18 8) (w.extractLsb' 10 8) (w.extractLsb' 2 8))
  | _ => .error .reservedCode

/-- Major opcode 0x16 (R241). -/
def decodeVote (w : Word) : Except DecodeError Instr :=
  match (w.extractLsb' 0 2).toNat with
  | 0x00 => zeroed (w.extractLsb' 22 4 == 0#4 && w.extractLsb' 14 4 == 0#4 && w.extractLsb' 2 8 == 0#8) (.voteAny (w.extractLsb' 18 4) (w.extractLsb' 10 4))
  | 0x01 => zeroed (w.extractLsb' 22 4 == 0#4 && w.extractLsb' 14 4 == 0#4 && w.extractLsb' 2 8 == 0#8) (.voteAll (w.extractLsb' 18 4) (w.extractLsb' 10 4))
  | 0x02 => zeroed (w.extractLsb' 14 4 == 0#4 && w.extractLsb' 2 8 == 0#8) (.voteBallot (w.extractLsb' 18 8) (w.extractLsb' 10 4))
  | _ => zeroed (w.extractLsb' 22 4 == 0#4 && w.extractLsb' 2 8 == 0#8) (.voteUni (w.extractLsb' 18 4) (w.extractLsb' 10 8))

/-- Major opcode 0x17 (R241). -/
def decodeVscan (w : Word) : Except DecodeError Instr :=
  match (w.extractLsb' 0 2).toNat with
  | 0x00 => zeroed (w.extractLsb' 2 8 == 0#8) (.vscanAdd (w.extractLsb' 18 8) (w.extractLsb' 10 8))
  | 0x01 => zeroed (w.extractLsb' 2 8 == 0#8) (.vscanMin (w.extractLsb' 18 8) (w.extractLsb' 10 8))
  | 0x02 => zeroed (w.extractLsb' 2 8 == 0#8) (.vscanMax (w.extractLsb' 18 8) (w.extractLsb' 10 8))
  | _ => zeroed (w.extractLsb' 2 8 == 0#8) (.vscanOr (w.extractLsb' 18 8) (w.extractLsb' 10 8))

/-- Major opcode 0x18 (R241). -/
def decodeVreduce (w : Word) : Except DecodeError Instr :=
  match (w.extractLsb' 0 2).toNat with
  | 0x00 => zeroed (w.extractLsb' 2 8 == 0#8) (.vreduceAdd (w.extractLsb' 18 8) (w.extractLsb' 10 8))
  | 0x01 => zeroed (w.extractLsb' 2 8 == 0#8) (.vreduceMin (w.extractLsb' 18 8) (w.extractLsb' 10 8))
  | 0x02 => zeroed (w.extractLsb' 2 8 == 0#8) (.vreduceMax (w.extractLsb' 18 8) (w.extractLsb' 10 8))
  | _ => zeroed (w.extractLsb' 2 8 == 0#8) (.vreduceOr (w.extractLsb' 18 8) (w.extractLsb' 10 8))

/-- Major opcode 0x19 (R241). -/
def decodeMaskOp (w : Word) : Except DecodeError Instr :=
  match (w.extractLsb' 0 2).toNat with
  | 0x00 => zeroed (w.extractLsb' 22 4 == 0#4 && w.extractLsb' 2 8 == 0#8) (.mset (w.extractLsb' 18 4) (w.extractLsb' 10 8))
  | 0x01 => zeroed (w.extractLsb' 14 4 == 0#4 && w.extractLsb' 2 8 == 0#8) (.mget (w.extractLsb' 18 8) (w.extractLsb' 10 4))
  | 0x02 => zeroed (w.extractLsb' 18 8 == 0#8 && w.extractLsb' 2 8 == 0#8) (.msetx (w.extractLsb' 10 8))
  | _ => zeroed (w.extractLsb' 2 16 == 0#16) (.mgetx (w.extractLsb' 18 8))

/-- Major opcode 0x1A (R241). -/
def decodePlogic (w : Word) : Except DecodeError Instr :=
  match (w.extractLsb' 0 2).toNat with
  | 0x00 => zeroed (w.extractLsb' 22 4 == 0#4 && w.extractLsb' 14 4 == 0#4 && w.extractLsb' 6 4 == 0#4) (.pand (w.extractLsb' 18 4) (w.extractLsb' 10 4) (w.extractLsb' 2 4))
  | 0x01 => zeroed (w.extractLsb' 22 4 == 0#4 && w.extractLsb' 14 4 == 0#4 && w.extractLsb' 6 4 == 0#4) (.por (w.extractLsb' 18 4) (w.extractLsb' 10 4) (w.extractLsb' 2 4))
  | 0x02 => zeroed (w.extractLsb' 22 4 == 0#4 && w.extractLsb' 14 4 == 0#4 && w.extractLsb' 6 4 == 0#4) (.pxor (w.extractLsb' 18 4) (w.extractLsb' 10 4) (w.extractLsb' 2 4))
  | _ => zeroed (w.extractLsb' 22 4 == 0#4 && w.extractLsb' 14 4 == 0#4 && w.extractLsb' 6 4 == 0#4) (.pandn (w.extractLsb' 18 4) (w.extractLsb' 10 4) (w.extractLsb' 2 4))

/-- Major opcode 0x1B (R241). -/
def decodeReord (w : Word) : Except DecodeError Instr :=
  match (w.extractLsb' 0 2).toNat with
  | 0x00 => zeroed (w.extractLsb' 18 8 == 0#8) (.reord (w.extractLsb' 10 8) (w.extractLsb' 2 8))
  | _ => .error .reservedCode

/-- Major opcode 0x1C (R241). -/
def decodeLdv (w : Word) : Except DecodeError Instr :=
  if w.extractLsb' 3 1 = 1#1 ∧ w.extractLsb' 4 2 = 3#2 then .error .reservedCode else .ok (.ldv (w.extractLsb' 18 8) (w.extractLsb' 10 8) (w.extractLsb' 6 4) (w.extractLsb' 4 2) (w.extractLsb' 3 1) (w.extractLsb' 0 3))

/-- Major opcode 0x1D (R241). -/
def decodeGather (w : Word) : Except DecodeError Instr :=
  if w.extractLsb' 3 1 = 1#1 ∧ w.extractLsb' 4 2 = 3#2 then .error .reservedCode else .ok (.gather (w.extractLsb' 18 8) (w.extractLsb' 10 8) (w.extractLsb' 6 4) (w.extractLsb' 4 2) (w.extractLsb' 3 1) (w.extractLsb' 0 3))

/-- Major opcode 0x1E (R241). -/
def decodeStv (w : Word) : Except DecodeError Instr :=
  if w.extractLsb' 3 1 = 1#1 ∧ w.extractLsb' 4 2 = 3#2 then .error .reservedCode else .ok (.stv (w.extractLsb' 18 8) (w.extractLsb' 10 8) (w.extractLsb' 6 4) (w.extractLsb' 4 2) (w.extractLsb' 3 1) (w.extractLsb' 0 3))

/-- Major opcode 0x1F (R241). -/
def decodeScatter (w : Word) : Except DecodeError Instr :=
  if w.extractLsb' 3 1 = 1#1 ∧ w.extractLsb' 4 2 = 3#2 then .error .reservedCode else .ok (.scatter (w.extractLsb' 18 8) (w.extractLsb' 10 8) (w.extractLsb' 6 4) (w.extractLsb' 4 2) (w.extractLsb' 3 1) (w.extractLsb' 0 3))

/-- Major opcode 0x20 (R241). -/
def decodeLdc (w : Word) : Except DecodeError Instr :=
  if w.extractLsb' 3 1 = 1#1 ∧ w.extractLsb' 4 2 = 3#2 then .error .reservedCode else zeroed (w.extractLsb' 6 4 == 0#4) (.ldc (w.extractLsb' 18 8) (w.extractLsb' 10 8) (w.extractLsb' 4 2) (w.extractLsb' 3 1) (w.extractLsb' 0 3))

/-- Major opcode 0x21 (R241). -/
def decodeSld (w : Word) : Except DecodeError Instr :=
  if w.extractLsb' 3 1 = 1#1 ∧ w.extractLsb' 4 2 = 3#2 then .error .reservedCode else .ok (.sld (w.extractLsb' 18 8) (w.extractLsb' 10 8) (w.extractLsb' 6 4) (w.extractLsb' 4 2) (w.extractLsb' 3 1) (w.extractLsb' 0 3))

/-- Major opcode 0x22 (R241). -/
def decodeSst (w : Word) : Except DecodeError Instr :=
  if w.extractLsb' 3 1 = 1#1 ∧ w.extractLsb' 4 2 = 3#2 then .error .reservedCode else .ok (.sst (w.extractLsb' 18 8) (w.extractLsb' 10 8) (w.extractLsb' 6 4) (w.extractLsb' 4 2) (w.extractLsb' 3 1) (w.extractLsb' 0 3))

/-- Major opcode 0x23 (R241). -/
def decodeLda (w : Word) : Except DecodeError Instr :=
  if w.extractLsb' 3 1 = 1#1 ∧ w.extractLsb' 4 2 = 3#2 then .error .reservedCode else .ok (.lda (w.extractLsb' 18 8) (w.extractLsb' 10 8) (w.extractLsb' 6 4) (w.extractLsb' 4 2) (w.extractLsb' 3 1) (w.extractLsb' 0 3))

/-- Major opcode 0x24 (R241). -/
def decodeStl (w : Word) : Except DecodeError Instr :=
  if w.extractLsb' 3 1 = 1#1 ∧ w.extractLsb' 4 2 = 3#2 then .error .reservedCode else .ok (.stl (w.extractLsb' 18 8) (w.extractLsb' 10 8) (w.extractLsb' 6 4) (w.extractLsb' 4 2) (w.extractLsb' 3 1) (w.extractLsb' 0 3))

/-- Major opcode 0x25 (R241). -/
def decodeTile (w : Word) : Except DecodeError Instr :=
  match (w.extractLsb' 4 2).toNat with
  | 0x00 => zeroed (w.extractLsb' 0 4 == 0#4) (.tld (w.extractLsb' 18 8) (w.extractLsb' 10 8) (w.extractLsb' 6 4))
  | 0x01 => zeroed (w.extractLsb' 0 4 == 0#4) (.tst (w.extractLsb' 18 8) (w.extractLsb' 10 8) (w.extractLsb' 6 4))
  | _ => .error .reservedCode

/-- Major opcode 0x26 (R241). -/
def decodeHandle (w : Word) : Except DecodeError Instr :=
  match (w.extractLsb' 8 2).toNat with
  | 0x00 => zeroed (w.extractLsb' 22 4 == 0#4 && w.extractLsb' 0 8 == 0#8) (.hbind (w.extractLsb' 18 4) (w.extractLsb' 10 8))
  | 0x01 => zeroed (w.extractLsb' 22 4 == 0#4 && w.extractLsb' 0 8 == 0#8) (.hset (w.extractLsb' 18 4) (w.extractLsb' 10 8))
  | 0x02 => if 11 ≤ (w.extractLsb' 0 4).toNat then .error .reservedCode else zeroed (w.extractLsb' 10 8 == 0#8) (.hqry (w.extractLsb' 18 8) (w.extractLsb' 4 4) (w.extractLsb' 0 4))
  | _ => .error .reservedCode

/-- Major opcode 0x27 (R241). -/
def decodeMemCtl (w : Word) : Except DecodeError Instr :=
  match (w.extractLsb' 6 4).toNat with
  | 0x00 => zeroed (w.extractLsb' 0 2 == 0#2) (.pref (w.extractLsb' 18 8) (w.extractLsb' 10 8) (w.extractLsb' 2 4))
  | 0x01 => zeroed (w.extractLsb' 0 2 == 0#2) (.flush (w.extractLsb' 18 8) (w.extractLsb' 10 8) (w.extractLsb' 2 4))
  | 0x02 => zeroed (w.extractLsb' 0 2 == 0#2) (.inval (w.extractLsb' 18 8) (w.extractLsb' 10 8) (w.extractLsb' 2 4))
  | 0x03 => zeroed (w.extractLsb' 0 2 == 0#2) (.pub (w.extractLsb' 18 8) (w.extractLsb' 10 8) (w.extractLsb' 2 4))
  | 0x04 => zeroed (w.extractLsb' 0 2 == 0#2) (.smap (w.extractLsb' 18 8) (w.extractLsb' 10 8) (w.extractLsb' 2 4))
  | 0x05 => zeroed (w.extractLsb' 18 8 == 0#8 && w.extractLsb' 0 6 == 0#6) (.sunmap (w.extractLsb' 10 8))
  | _ => .error .reservedCode

/-- Major opcode 0x28 (R241). -/
def decodeFence (w : Word) : Except DecodeError Instr :=
  match (w.extractLsb' 0 3).toNat with
  | 0x00 => zeroed (w.extractLsb' 3 23 == 0#23) .fenceWarp
  | 0x01 => zeroed (w.extractLsb' 3 23 == 0#23) .fenceBlk
  | 0x02 => zeroed (w.extractLsb' 3 23 == 0#23) .fenceDev
  | 0x03 => zeroed (w.extractLsb' 3 23 == 0#23) .fenceGang
  | 0x04 => zeroed (w.extractLsb' 3 23 == 0#23) .fenceSys
  | 0x05 => zeroed (w.extractLsb' 3 23 == 0#23) .fenceXp
  | _ => .error .reservedCode

/-- Major opcode 0x29 (R241). -/
def decodeAtom (w : Word) : Except DecodeError Instr :=
  match (w.extractLsb' 3 3).toNat with
  | 0x00 => .ok (.atomAdd (w.extractLsb' 18 8) (w.extractLsb' 10 8) (w.extractLsb' 6 4) (w.extractLsb' 2 1) (w.extractLsb' 0 2))
  | 0x01 => .ok (.atomMin (w.extractLsb' 18 8) (w.extractLsb' 10 8) (w.extractLsb' 6 4) (w.extractLsb' 2 1) (w.extractLsb' 0 2))
  | 0x02 => .ok (.atomMax (w.extractLsb' 18 8) (w.extractLsb' 10 8) (w.extractLsb' 6 4) (w.extractLsb' 2 1) (w.extractLsb' 0 2))
  | 0x03 => .ok (.atomAnd (w.extractLsb' 18 8) (w.extractLsb' 10 8) (w.extractLsb' 6 4) (w.extractLsb' 2 1) (w.extractLsb' 0 2))
  | 0x04 => .ok (.atomOr (w.extractLsb' 18 8) (w.extractLsb' 10 8) (w.extractLsb' 6 4) (w.extractLsb' 2 1) (w.extractLsb' 0 2))
  | 0x05 => .ok (.atomXor (w.extractLsb' 18 8) (w.extractLsb' 10 8) (w.extractLsb' 6 4) (w.extractLsb' 2 1) (w.extractLsb' 0 2))
  | 0x06 => .ok (.atomXchg (w.extractLsb' 18 8) (w.extractLsb' 10 8) (w.extractLsb' 6 4) (w.extractLsb' 2 1) (w.extractLsb' 0 2))
  | _ => .ok (.atomCas (w.extractLsb' 18 8) (w.extractLsb' 10 8) (w.extractLsb' 6 4) (w.extractLsb' 2 1) (w.extractLsb' 0 2))

/-- Major opcode 0x2A (R241). -/
def decodeRed (w : Word) : Except DecodeError Instr :=
  match (w.extractLsb' 3 3).toNat with
  | 0x00 => if w.extractLsb' 0 1 = 1#1 then .error .reservedCode else .ok (.redAdd (w.extractLsb' 18 8) (w.extractLsb' 10 8) (w.extractLsb' 6 4) (w.extractLsb' 2 1) (w.extractLsb' 0 2))
  | 0x01 => if w.extractLsb' 0 1 = 1#1 then .error .reservedCode else .ok (.redMin (w.extractLsb' 18 8) (w.extractLsb' 10 8) (w.extractLsb' 6 4) (w.extractLsb' 2 1) (w.extractLsb' 0 2))
  | 0x02 => if w.extractLsb' 0 1 = 1#1 then .error .reservedCode else .ok (.redMax (w.extractLsb' 18 8) (w.extractLsb' 10 8) (w.extractLsb' 6 4) (w.extractLsb' 2 1) (w.extractLsb' 0 2))
  | 0x03 => if w.extractLsb' 0 1 = 1#1 then .error .reservedCode else .ok (.redAnd (w.extractLsb' 18 8) (w.extractLsb' 10 8) (w.extractLsb' 6 4) (w.extractLsb' 2 1) (w.extractLsb' 0 2))
  | 0x04 => if w.extractLsb' 0 1 = 1#1 then .error .reservedCode else .ok (.redOr (w.extractLsb' 18 8) (w.extractLsb' 10 8) (w.extractLsb' 6 4) (w.extractLsb' 2 1) (w.extractLsb' 0 2))
  | 0x05 => if w.extractLsb' 0 1 = 1#1 then .error .reservedCode else .ok (.redXor (w.extractLsb' 18 8) (w.extractLsb' 10 8) (w.extractLsb' 6 4) (w.extractLsb' 2 1) (w.extractLsb' 0 2))
  | _ => .error .reservedCode

/-- Major opcode 0x2B (R241). -/
def decodeBar (w : Word) : Except DecodeError Instr :=
  match (w.extractLsb' 8 2).toNat with
  | 0x00 => zeroed (w.extractLsb' 0 4 == 0#4) (.barArrive (w.extractLsb' 18 8) (w.extractLsb' 10 8) (w.extractLsb' 4 4))
  | 0x01 => zeroed (w.extractLsb' 0 4 == 0#4) (.barWait (w.extractLsb' 18 8) (w.extractLsb' 10 8) (w.extractLsb' 4 4))
  | 0x02 => zeroed (w.extractLsb' 0 4 == 0#4) (.barArriveN (w.extractLsb' 18 8) (w.extractLsb' 10 8) (w.extractLsb' 4 4))
  | _ => .error .reservedCode

/-- Major opcode 0x2C (R241). -/
def decodeRegClm (w : Word) : Except DecodeError Instr :=
  match (w.extractLsb' 8 2).toNat with
  | 0x00 => zeroed (w.extractLsb' 18 8 == 0#8 && w.extractLsb' 0 8 == 0#8) (.rclm (w.extractLsb' 10 8))
  | 0x01 => zeroed (w.extractLsb' 18 8 == 0#8 && w.extractLsb' 0 8 == 0#8) (.rrel (w.extractLsb' 10 8))
  | 0x02 => zeroed (w.extractLsb' 10 8 == 0#8 && w.extractLsb' 0 8 == 0#8) (.rqry (w.extractLsb' 18 8))
  | _ => zeroed (w.extractLsb' 10 8 == 0#8 && w.extractLsb' 0 8 == 0#8) (.rqpool (w.extractLsb' 18 8))

/-- Major opcode 0x2D (R241). -/
def decodeQkvs (w : Word) : Except DecodeError Instr :=
  match (w.extractLsb' 8 2).toNat with
  | 0x00 => zeroed (w.extractLsb' 21 5 == 0#5 && w.extractLsb' 0 8 == 0#8) (.qpush (w.extractLsb' 18 3) (w.extractLsb' 10 8))
  | 0x01 => zeroed (w.extractLsb' 0 4 == 0#4) (.kvxs (w.extractLsb' 18 8) (w.extractLsb' 10 8) (w.extractLsb' 4 4))
  | _ => .error .reservedCode

/-- Major opcode 0x2E (R241). -/
def decodeKvx (w : Word) : Except DecodeError Instr :=
  zeroed (w.extractLsb' 0 6 == 0#6) (.kvx (w.extractLsb' 18 8) (w.extractLsb' 10 8) (w.extractLsb' 6 4))

/-- Major opcode 0x2F (R241). -/
def decodeRld (w : Word) : Except DecodeError Instr :=
  .ok (.rld (w.extractLsb' 18 8) (w.extractLsb' 10 8) (w.extractLsb' 2 8) (w.extractLsb' 0 2))

/-- Major opcode 0x30 (R241). -/
def decodeRst (w : Word) : Except DecodeError Instr :=
  .ok (.rst (w.extractLsb' 18 8) (w.extractLsb' 10 8) (w.extractLsb' 2 8) (w.extractLsb' 0 2))

/-- Major opcode 0x31 (R241). -/
def decodeRatom (w : Word) : Except DecodeError Instr :=
  .ok (.ratom (w.extractLsb' 18 8) (w.extractLsb' 10 8) (w.extractLsb' 2 8) (w.extractLsb' 0 2))

/-- Major opcode 0x32 (R241). -/
def decodeRred (w : Word) : Except DecodeError Instr :=
  .ok (.rred (w.extractLsb' 18 8) (w.extractLsb' 10 8) (w.extractLsb' 2 8) (w.extractLsb' 0 2))

/-- Major opcode 0x33 (R241). -/
def decodeMcst (w : Word) : Except DecodeError Instr :=
  .ok (.mcst (w.extractLsb' 18 8) (w.extractLsb' 10 8) (w.extractLsb' 2 8) (w.extractLsb' 0 2))

/-- Major opcode 0x34 (R241). -/
def decodeMatrix (w : Word) : Except DecodeError Instr :=
  match (w.extractLsb' 2 2).toNat with
  | 0x00 => zeroed (w.extractLsb' 0 1 == 0#1) (.mma (w.extractLsb' 24 2) (w.extractLsb' 20 4) (w.extractLsb' 16 4) (w.extractLsb' 10 6) (w.extractLsb' 4 6) (w.extractLsb' 1 1))
  | 0x01 => zeroed (w.extractLsb' 0 1 == 0#1) (.mmat (w.extractLsb' 24 2) (w.extractLsb' 20 4) (w.extractLsb' 16 4) (w.extractLsb' 10 6) (w.extractLsb' 4 6) (w.extractLsb' 1 1))
  | 0x02 => zeroed (w.extractLsb' 0 1 == 0#1) (.mmap (w.extractLsb' 24 2) (w.extractLsb' 20 4) (w.extractLsb' 16 4) (w.extractLsb' 10 6) (w.extractLsb' 4 6) (w.extractLsb' 1 1))
  | _ => .error .reservedCode

/-- Major opcode 0x35 (R241). -/
def decodeAcc (w : Word) : Except DecodeError Instr :=
  match (w.extractLsb' 0 4).toNat with
  | 0x00 => zeroed (w.extractLsb' 4 20 == 0#20) (.accz (w.extractLsb' 24 2))
  | 0x01 => zeroed (w.extractLsb' 16 4 == 0#4 && w.extractLsb' 4 6 == 0#6) (.accld (w.extractLsb' 24 2) (w.extractLsb' 20 4) (w.extractLsb' 10 6))
  | 0x02 => zeroed (w.extractLsb' 16 4 == 0#4 && w.extractLsb' 4 6 == 0#6) (.accst (w.extractLsb' 24 2) (w.extractLsb' 20 4) (w.extractLsb' 10 6))
  | 0x03 => zeroed (w.extractLsb' 16 8 == 0#8 && w.extractLsb' 4 6 == 0#6) (.accg (w.extractLsb' 24 2) (w.extractLsb' 10 6))
  | 0x04 => zeroed (w.extractLsb' 16 8 == 0#8 && w.extractLsb' 4 6 == 0#6) (.accmax (w.extractLsb' 24 2) (w.extractLsb' 10 6))
  | 0x05 => zeroed (w.extractLsb' 16 8 == 0#8 && w.extractLsb' 4 6 == 0#6) (.accexp (w.extractLsb' 24 2) (w.extractLsb' 10 6))
  | 0x06 => zeroed (w.extractLsb' 18 6 == 0#6 && w.extractLsb' 4 6 == 0#6) (.accsum (w.extractLsb' 24 2) (w.extractLsb' 16 2) (w.extractLsb' 10 6))
  | _ => .error .reservedCode

/-- An engine function that requires a reply, written without one: its unused fields are judged first (R239, R363). -/
def withoutReply (w : Word) (z : Bool) : Except DecodeError Instr :=
  if z then .error (.replyMissing (w.extractLsb' 6 6) (w.extractLsb' 0 6)) else .error .nonZeroField

/-- Major opcode 0x36 (R241). -/
def decodeCop (w : Word) : Except DecodeError Instr :=
  match (w.extractLsb' 19 7).toNat with
  | 0x00 => if w.extractLsb' 18 1 = 1#1 then .ok (.cpy (w.extractLsb' 12 6) (w.extractLsb' 6 6) (w.extractLsb' 0 6)) else withoutReply w (w.extractLsb' 12 6 == 0#6)
  | 0x01 => if w.extractLsb' 18 1 = 1#1 then .ok (.gath (w.extractLsb' 12 6) (w.extractLsb' 6 6) (w.extractLsb' 0 6)) else withoutReply w (w.extractLsb' 12 6 == 0#6)
  | 0x02 => if w.extractLsb' 18 1 = 1#1 then .ok (.scat (w.extractLsb' 12 6) (w.extractLsb' 6 6) (w.extractLsb' 0 6)) else withoutReply w (w.extractLsb' 12 6 == 0#6)
  | 0x03 => if w.extractLsb' 18 1 = 0#1 ∧ w.extractLsb' 12 6 ≠ 0#6 then .error .nonZeroField else .ok (.tcpy (w.extractLsb' 18 1) (w.extractLsb' 12 6) (w.extractLsb' 6 6) (w.extractLsb' 0 6))
  | 0x04 => if w.extractLsb' 18 1 = 1#1 then .ok (.fill (w.extractLsb' 12 6) (w.extractLsb' 6 6) (w.extractLsb' 0 6)) else withoutReply w (w.extractLsb' 12 6 == 0#6)
  | 0x05 => if w.extractLsb' 18 1 = 1#1 then .ok (.tdec (w.extractLsb' 12 6) (w.extractLsb' 6 6) (w.extractLsb' 0 6)) else withoutReply w (w.extractLsb' 12 6 == 0#6)
  | 0x10 => if w.extractLsb' 18 1 = 1#1 then .ok (.encv (w.extractLsb' 12 6) (w.extractLsb' 6 6) (w.extractLsb' 0 6)) else withoutReply w (w.extractLsb' 12 6 == 0#6)
  | 0x11 => if w.extractLsb' 18 1 = 1#1 then .ok (.encc (w.extractLsb' 12 6) (w.extractLsb' 6 6) (w.extractLsb' 0 6)) else withoutReply w (w.extractLsb' 12 6 == 0#6)
  | 0x12 => if w.extractLsb' 18 1 = 1#1 then .ok (.encvp (w.extractLsb' 12 6) (w.extractLsb' 6 6) (w.extractLsb' 0 6)) else withoutReply w (w.extractLsb' 12 6 == 0#6)
  | 0x13 => if w.extractLsb' 18 1 = 1#1 then .ok (.enccp (w.extractLsb' 12 6) (w.extractLsb' 6 6) (w.extractLsb' 0 6)) else withoutReply w (w.extractLsb' 12 6 == 0#6)
  | 0x20 => if w.extractLsb' 18 1 = 1#1 then .ok (.migp (w.extractLsb' 12 6) (w.extractLsb' 6 6) (w.extractLsb' 0 6)) else withoutReply w (w.extractLsb' 12 6 == 0#6)
  | 0x21 => if w.extractLsb' 18 1 = 0#1 ∧ w.extractLsb' 12 6 ≠ 0#6 then .error .nonZeroField else .ok (.migb (w.extractLsb' 18 1) (w.extractLsb' 12 6) (w.extractLsb' 6 6) (w.extractLsb' 0 6))
  | 0x30 => if w.extractLsb' 18 1 = 0#1 ∧ w.extractLsb' 12 6 ≠ 0#6 then .error .nonZeroField else .ok (.avdec (w.extractLsb' 18 1) (w.extractLsb' 12 6) (w.extractLsb' 6 6) (w.extractLsb' 0 6))
  | 0x40 => if w.extractLsb' 18 1 = 1#1 then .ok (.cbcast (w.extractLsb' 12 6) (w.extractLsb' 6 6) (w.extractLsb' 0 6)) else withoutReply w (w.extractLsb' 12 6 == 0#6)
  | 0x41 => if w.extractLsb' 18 1 = 1#1 then .ok (.creduce (w.extractLsb' 12 6) (w.extractLsb' 6 6) (w.extractLsb' 0 6)) else withoutReply w (w.extractLsb' 12 6 == 0#6)
  | 0x42 => if w.extractLsb' 18 1 = 1#1 then .ok (.callred (w.extractLsb' 12 6) (w.extractLsb' 6 6) (w.extractLsb' 0 6)) else withoutReply w (w.extractLsb' 12 6 == 0#6)
  | 0x43 => if w.extractLsb' 18 1 = 1#1 then .ok (.cgath (w.extractLsb' 12 6) (w.extractLsb' 6 6) (w.extractLsb' 0 6)) else withoutReply w (w.extractLsb' 12 6 == 0#6)
  | 0x50 => if w.extractLsb' 18 1 = 1#1 then zeroed (w.extractLsb' 0 6 == 0#6) (.tdef (w.extractLsb' 12 6) (w.extractLsb' 6 6)) else withoutReply w (w.extractLsb' 12 6 == 0#6 && w.extractLsb' 0 6 == 0#6)
  | 0x51 => if w.extractLsb' 18 1 = 0#1 ∧ w.extractLsb' 12 6 ≠ 0#6 then .error .nonZeroField else zeroed (w.extractLsb' 0 6 == 0#6) (.trel (w.extractLsb' 18 1) (w.extractLsb' 12 6) (w.extractLsb' 6 6))
  | 0x52 => if w.extractLsb' 18 1 = 0#1 ∧ w.extractLsb' 12 6 ≠ 0#6 then .error .nonZeroField else zeroed (w.extractLsb' 0 6 == 0#6) (.trdy (w.extractLsb' 18 1) (w.extractLsb' 12 6) (w.extractLsb' 6 6))
  | 0x53 => if w.extractLsb' 18 1 = 0#1 ∧ w.extractLsb' 12 6 ≠ 0#6 then .error .nonZeroField else zeroed (w.extractLsb' 0 6 == 0#6) (.tdrn (w.extractLsb' 18 1) (w.extractLsb' 12 6) (w.extractLsb' 6 6))
  | 0x54 => if w.extractLsb' 18 1 = 1#1 then zeroed (w.extractLsb' 0 6 == 0#6) (.tqry (w.extractLsb' 12 6) (w.extractLsb' 6 6)) else withoutReply w (w.extractLsb' 12 6 == 0#6 && w.extractLsb' 0 6 == 0#6)
  | _ => .error .reservedCode

/-- Major opcode 0x37 (R241). -/
def decodeCodeTab (w : Word) : Except DecodeError Instr :=
  match (w.extractLsb' 8 2).toNat with
  | 0x00 => zeroed (w.extractLsb' 18 8 == 0#8 && w.extractLsb' 6 2 == 0#2) (.ctload (w.extractLsb' 10 8) (w.extractLsb' 0 6))
  | 0x01 => zeroed (w.extractLsb' 18 8 == 0#8 && w.extractLsb' 6 2 == 0#2) (.ctsave (w.extractLsb' 10 8) (w.extractLsb' 0 6))
  | 0x02 => zeroed (w.extractLsb' 10 16 == 0#16 && w.extractLsb' 6 2 == 0#2) (.ctinv (w.extractLsb' 0 6))
  | _ => .error .reservedCode

/-- The instruction a word encodes, or the check of R239 that it fails (R241). -/
def decodeWord (w : Word) : Except DecodeError Instr :=
  match (w.extractLsb' 26 6).toNat with
  | 0x00 => decodeCtl w
  | 0x01 => decodeBr w
  | 0x02 => decodeCallRcv w
  | 0x03 => decodeRdsr w
  | 0x04 => decodeWrsr w
  | 0x05 => decodeSarith w
  | 0x06 => decodeSlogic w
  | 0x07 => decodeSshift w
  | 0x08 => decodeScmp w
  | 0x09 => decodeSdiv w
  | 0x0A => decodeSunary w
  | 0x0B => decodeVarith w
  | 0x0C => decodeVlogic w
  | 0x0D => decodeVshift w
  | 0x0E => decodeVminmax w
  | 0x0F => decodeVcmp w
  | 0x10 => decodeVunary w
  | 0x11 => decodeVfarith w
  | 0x12 => decodeVffma w
  | 0x13 => decodeVcvt w
  | 0x14 => decodeVshfl w
  | 0x15 => decodeVxfer w
  | 0x16 => decodeVote w
  | 0x17 => decodeVscan w
  | 0x18 => decodeVreduce w
  | 0x19 => decodeMaskOp w
  | 0x1A => decodePlogic w
  | 0x1B => decodeReord w
  | 0x1C => decodeLdv w
  | 0x1D => decodeGather w
  | 0x1E => decodeStv w
  | 0x1F => decodeScatter w
  | 0x20 => decodeLdc w
  | 0x21 => decodeSld w
  | 0x22 => decodeSst w
  | 0x23 => decodeLda w
  | 0x24 => decodeStl w
  | 0x25 => decodeTile w
  | 0x26 => decodeHandle w
  | 0x27 => decodeMemCtl w
  | 0x28 => decodeFence w
  | 0x29 => decodeAtom w
  | 0x2A => decodeRed w
  | 0x2B => decodeBar w
  | 0x2C => decodeRegClm w
  | 0x2D => decodeQkvs w
  | 0x2E => decodeKvx w
  | 0x2F => decodeRld w
  | 0x30 => decodeRst w
  | 0x31 => decodeRatom w
  | 0x32 => decodeRred w
  | 0x33 => decodeMcst w
  | 0x34 => decodeMatrix w
  | 0x35 => decodeAcc w
  | 0x36 => decodeCop w
  | 0x37 => decodeCodeTab w
  | 0x38 => .ok (.smovi (w.extractLsb' 20 8) (w.extractLsb' 0 20))
  | 0x39 => .ok (.smovi (w.extractLsb' 20 8) (w.extractLsb' 0 20))
  | 0x3A => .ok (.smovi (w.extractLsb' 20 8) (w.extractLsb' 0 20))
  | 0x3B => .ok (.smovi (w.extractLsb' 20 8) (w.extractLsb' 0 20))
  | _ => .ok (.movi (w.extractLsb' 20 8) (w.extractLsb' 0 20))

/-- A word from its four bytes in memory order, little-endian (R14). -/
def wordOfBytes (b0 b1 b2 b3 : Byte) : Word := b3 ++ b2 ++ b1 ++ b0

/-- The instruction at the head of a byte string, with the bytes after it; `none` where four bytes do not stand or are none. -/
def decodeBytes : List Byte → Option (Instr × List Byte)
  | b0 :: b1 :: b2 :: b3 :: rest =>
    match decodeWord (wordOfBytes b0 b1 b2 b3) with
    | .ok i => some (i, rest)
    | .error _ => none
  | _ => none

/-- The four bytes of a word in memory order (R14). -/
def bytesOfWord (w : Word) : List Byte :=
  [w.extractLsb' 0 8, w.extractLsb' 8 8, w.extractLsb' 16 8, w.extractLsb' 24 8]

/-- The decoder on a row of the opcode table: `nbits` of `w`, the bits above them zero, laid out as the hardware stores them. -/
def decodeTableWord (nbits w : Nat) : Option Instr :=
  (decodeBytes (bytesOfWord (BitVec.ofNat 32 (w % 2 ^ nbits)))).map (·.1)

/-- The word of an instruction (R234 to R249); an event has none. -/
def encode : Instr → Option Word
  | .nop => some (BitVec.ofNat 32 (0x00000000))
  | .exit => some (BitVec.ofNat 32 (0x00040000))
  | .yield => some (BitVec.ofNat 32 (0x00080000))
  | .sleep n => some (BitVec.ofNat 32 (0x000C0000 + place 0 n))
  | .ret => some (BitVec.ofNat 32 (0x00100000))
  | .jmpi a => some (BitVec.ofNat 32 (0x00140000 + place 10 a))
  | .calli a => some (BitVec.ofNat 32 (0x00180000 + place 10 a))
  | .trap n => some (BitVec.ofNat 32 (0x001C0000 + place 0 n))
  | .tret => some (BitVec.ofNat 32 (0x00200000))
  | .tattach => some (BitVec.ofNat 32 (0x00240000))
  | .tdetach => some (BitVec.ofNat 32 (0x00280000))
  | .ttrap a => some (BitVec.ofNat 32 (0x002C0000 + place 10 a))
  | .tdead a => some (BitVec.ofNat 32 (0x00300000 + place 10 a))
  | .br o w => some (BitVec.ofNat 32 (0x04000000 + place 10 o + place 6 w))
  | .brP o w p => some (BitVec.ofNat 32 (0x04000000 + place 10 o + place 6 w + place 0 p))
  | .brNp o w p => some (BitVec.ofNat 32 (0x04000010 + place 10 o + place 6 w + place 0 p))
  | .brZ o w s => some (BitVec.ofNat 32 (0x04000020 + place 10 o + place 6 w + place 0 s))
  | .brNz o w s => some (BitVec.ofNat 32 (0x04000030 + place 10 o + place 6 w + place 0 s))
  | .call o w => some (BitVec.ofNat 32 (0x08000000 + place 10 o + place 6 w))
  | .rcv o w => some (BitVec.ofNat 32 (0x08000001 + place 10 o + place 6 w))
  | .rapent o w => some (BitVec.ofNat 32 (0x08000002 + place 10 o + place 6 w))
  | .rdsr d n => some (BitVec.ofNat 32 (0x0C000000 + place 18 d + place 0 n))
  | .wrsr a n => some (BitVec.ofNat 32 (0x10000000 + place 10 a + place 0 n))
  | .sadd d a b => some (BitVec.ofNat 32 (0x14000000 + place 18 d + place 10 a + place 2 b))
  | .ssub d a b => some (BitVec.ofNat 32 (0x14000001 + place 18 d + place 10 a + place 2 b))
  | .smul d a b => some (BitVec.ofNat 32 (0x14000002 + place 18 d + place 10 a + place 2 b))
  | .smulh d a b => some (BitVec.ofNat 32 (0x14000003 + place 18 d + place 10 a + place 2 b))
  | .sand d a b => some (BitVec.ofNat 32 (0x18000000 + place 18 d + place 10 a + place 2 b))
  | .sor d a b => some (BitVec.ofNat 32 (0x18000001 + place 18 d + place 10 a + place 2 b))
  | .sxor d a b => some (BitVec.ofNat 32 (0x18000002 + place 18 d + place 10 a + place 2 b))
  | .sandn d a b => some (BitVec.ofNat 32 (0x18000003 + place 18 d + place 10 a + place 2 b))
  | .sshl d a b => some (BitVec.ofNat 32 (0x1C000000 + place 18 d + place 10 a + place 2 b))
  | .sshr d a b => some (BitVec.ofNat 32 (0x1C000001 + place 18 d + place 10 a + place 2 b))
  | .sasr d a b => some (BitVec.ofNat 32 (0x1C000002 + place 18 d + place 10 a + place 2 b))
  | .srot d a b => some (BitVec.ofNat 32 (0x1C000003 + place 18 d + place 10 a + place 2 b))
  | .seq d a b => some (BitVec.ofNat 32 (0x20000000 + place 18 d + place 10 a + place 2 b))
  | .slt d a b => some (BitVec.ofNat 32 (0x20000001 + place 18 d + place 10 a + place 2 b))
  | .sle d a b => some (BitVec.ofNat 32 (0x20000002 + place 18 d + place 10 a + place 2 b))
  | .sne d a b => some (BitVec.ofNat 32 (0x20000003 + place 18 d + place 10 a + place 2 b))
  | .smin d a b => some (BitVec.ofNat 32 (0x24000000 + place 18 d + place 10 a + place 2 b))
  | .smax d a b => some (BitVec.ofNat 32 (0x24000001 + place 18 d + place 10 a + place 2 b))
  | .sdiv d a b => some (BitVec.ofNat 32 (0x24000002 + place 18 d + place 10 a + place 2 b))
  | .srem d a b => some (BitVec.ofNat 32 (0x24000003 + place 18 d + place 10 a + place 2 b))
  | .smov d a => some (BitVec.ofNat 32 (0x28000000 + place 18 d + place 10 a))
  | .snot d a => some (BitVec.ofNat 32 (0x28000004 + place 18 d + place 10 a))
  | .sneg d a => some (BitVec.ofNat 32 (0x28000008 + place 18 d + place 10 a))
  | .sclz d a => some (BitVec.ofNat 32 (0x28000010 + place 18 d + place 10 a))
  | .spopc d a => some (BitVec.ofNat 32 (0x28000014 + place 18 d + place 10 a))
  | .sbrev d a => some (BitVec.ofNat 32 (0x28000018 + place 18 d + place 10 a))
  | .vadd d a b => some (BitVec.ofNat 32 (0x2C000000 + place 18 d + place 10 a + place 2 b))
  | .vsub d a b => some (BitVec.ofNat 32 (0x2C000001 + place 18 d + place 10 a + place 2 b))
  | .vmul d a b => some (BitVec.ofNat 32 (0x2C000002 + place 18 d + place 10 a + place 2 b))
  | .vmulh d a b => some (BitVec.ofNat 32 (0x2C000003 + place 18 d + place 10 a + place 2 b))
  | .vand d a b => some (BitVec.ofNat 32 (0x30000000 + place 18 d + place 10 a + place 2 b))
  | .vor d a b => some (BitVec.ofNat 32 (0x30000001 + place 18 d + place 10 a + place 2 b))
  | .vxor d a b => some (BitVec.ofNat 32 (0x30000002 + place 18 d + place 10 a + place 2 b))
  | .vandn d a b => some (BitVec.ofNat 32 (0x30000003 + place 18 d + place 10 a + place 2 b))
  | .vshl d a b => some (BitVec.ofNat 32 (0x34000000 + place 18 d + place 10 a + place 2 b))
  | .vshr d a b => some (BitVec.ofNat 32 (0x34000001 + place 18 d + place 10 a + place 2 b))
  | .vasr d a b => some (BitVec.ofNat 32 (0x34000002 + place 18 d + place 10 a + place 2 b))
  | .vrot d a b => some (BitVec.ofNat 32 (0x34000003 + place 18 d + place 10 a + place 2 b))
  | .vmin d a b => some (BitVec.ofNat 32 (0x38000000 + place 18 d + place 10 a + place 2 b))
  | .vmax d a b => some (BitVec.ofNat 32 (0x38000001 + place 18 d + place 10 a + place 2 b))
  | .vabsd d a b => some (BitVec.ofNat 32 (0x38000002 + place 18 d + place 10 a + place 2 b))
  | .vmadi d a b => some (BitVec.ofNat 32 (0x38000003 + place 18 d + place 10 a + place 2 b))
  | .vcmpEq d a b => some (BitVec.ofNat 32 (0x3C000000 + place 18 d + place 10 a + place 2 b))
  | .vcmpLt d a b => some (BitVec.ofNat 32 (0x3C000001 + place 18 d + place 10 a + place 2 b))
  | .vcmpLe d a b => some (BitVec.ofNat 32 (0x3C000002 + place 18 d + place 10 a + place 2 b))
  | .vcmpNe d a b => some (BitVec.ofNat 32 (0x3C000003 + place 18 d + place 10 a + place 2 b))
  | .vmov d a => some (BitVec.ofNat 32 (0x40000000 + place 18 d + place 10 a))
  | .vnot d a => some (BitVec.ofNat 32 (0x40000004 + place 18 d + place 10 a))
  | .vneg d a => some (BitVec.ofNat 32 (0x40000008 + place 18 d + place 10 a))
  | .vabs d a => some (BitVec.ofNat 32 (0x4000000C + place 18 d + place 10 a))
  | .vclz d a => some (BitVec.ofNat 32 (0x40000010 + place 18 d + place 10 a))
  | .vpopc d a => some (BitVec.ofNat 32 (0x40000014 + place 18 d + place 10 a))
  | .vbrev d a => some (BitVec.ofNat 32 (0x40000018 + place 18 d + place 10 a))
  | .vfneg d a => some (BitVec.ofNat 32 (0x40000020 + place 18 d + place 10 a))
  | .vfabs d a => some (BitVec.ofNat 32 (0x40000024 + place 18 d + place 10 a))
  | .vrcp d a => some (BitVec.ofNat 32 (0x40000028 + place 18 d + place 10 a))
  | .vrsqrt d a => some (BitVec.ofNat 32 (0x4000002C + place 18 d + place 10 a))
  | .vsqrt d a => some (BitVec.ofNat 32 (0x40000030 + place 18 d + place 10 a))
  | .vexp2 d a => some (BitVec.ofNat 32 (0x40000034 + place 18 d + place 10 a))
  | .vlog2 d a => some (BitVec.ofNat 32 (0x40000038 + place 18 d + place 10 a))
  | .vsin d a => some (BitVec.ofNat 32 (0x4000003C + place 18 d + place 10 a))
  | .vcos d a => some (BitVec.ofNat 32 (0x40000040 + place 18 d + place 10 a))
  | .vtanh d a => some (BitVec.ofNat 32 (0x40000044 + place 18 d + place 10 a))
  | .vfadd d a b => some (BitVec.ofNat 32 (0x44000000 + place 18 d + place 10 a + place 2 b))
  | .vfsub d a b => some (BitVec.ofNat 32 (0x44000001 + place 18 d + place 10 a + place 2 b))
  | .vfmul d a b => some (BitVec.ofNat 32 (0x44000002 + place 18 d + place 10 a + place 2 b))
  | .vfmin d a b => some (BitVec.ofNat 32 (0x44000003 + place 18 d + place 10 a + place 2 b))
  | .vfmad d a b => some (BitVec.ofNat 32 (0x48000000 + place 18 d + place 10 a + place 2 b))
  | .vfmac d a b => some (BitVec.ofNat 32 (0x48000001 + place 18 d + place 10 a + place 2 b))
  | .vfnmac d a b => some (BitVec.ofNat 32 (0x48000002 + place 18 d + place 10 a + place 2 b))
  | .vfmax d a b => some (BitVec.ofNat 32 (0x48000003 + place 18 d + place 10 a + place 2 b))
  | .vcvt d a t s => some (BitVec.ofNat 32 (0x4C000000 + place 18 d + place 10 a + place 6 t + place 2 s))
  | .vmxscale d a => some (BitVec.ofNat 32 (0x4C000001 + place 18 d + place 10 a))
  | .vmxq d a b => some (BitVec.ofNat 32 (0x4C000002 + place 18 d + place 10 a + place 2 b))
  | .vmxdq d a b => some (BitVec.ofNat 32 (0x4C000003 + place 18 d + place 10 a + place 2 b))
  | .vshflIdx d a b => some (BitVec.ofNat 32 (0x50000000 + place 18 d + place 10 a + place 2 b))
  | .vshflUp d a b => some (BitVec.ofNat 32 (0x50000001 + place 18 d + place 10 a + place 2 b))
  | .vshflDown d a b => some (BitVec.ofNat 32 (0x50000002 + place 18 d + place 10 a + place 2 b))
  | .vshflXor d a b => some (BitVec.ofNat 32 (0x50000003 + place 18 d + place 10 a + place 2 b))
  | .vbcast d a k => some (BitVec.ofNat 32 (0x54000000 + place 18 d + place 10 a + place 2 k))
  | .vs2v d a => some (BitVec.ofNat 32 (0x54000001 + place 18 d + place 10 a))
  | .v2s d a k => some (BitVec.ofNat 32 (0x54000002 + place 18 d + place 10 a + place 2 k))
  | .voteAny d a => some (BitVec.ofNat 32 (0x58000000 + place 18 d + place 10 a))
  | .voteAll d a => some (BitVec.ofNat 32 (0x58000001 + place 18 d + place 10 a))
  | .voteBallot d a => some (BitVec.ofNat 32 (0x58000002 + place 18 d + place 10 a))
  | .voteUni d a => some (BitVec.ofNat 32 (0x58000003 + place 18 d + place 10 a))
  | .vscanAdd d a => some (BitVec.ofNat 32 (0x5C000000 + place 18 d + place 10 a))
  | .vscanMin d a => some (BitVec.ofNat 32 (0x5C000001 + place 18 d + place 10 a))
  | .vscanMax d a => some (BitVec.ofNat 32 (0x5C000002 + place 18 d + place 10 a))
  | .vscanOr d a => some (BitVec.ofNat 32 (0x5C000003 + place 18 d + place 10 a))
  | .vreduceAdd d a => some (BitVec.ofNat 32 (0x60000000 + place 18 d + place 10 a))
  | .vreduceMin d a => some (BitVec.ofNat 32 (0x60000001 + place 18 d + place 10 a))
  | .vreduceMax d a => some (BitVec.ofNat 32 (0x60000002 + place 18 d + place 10 a))
  | .vreduceOr d a => some (BitVec.ofNat 32 (0x60000003 + place 18 d + place 10 a))
  | .mset d a => some (BitVec.ofNat 32 (0x64000000 + place 18 d + place 10 a))
  | .mget d a => some (BitVec.ofNat 32 (0x64000001 + place 18 d + place 10 a))
  | .msetx a => some (BitVec.ofNat 32 (0x64000002 + place 10 a))
  | .mgetx d => some (BitVec.ofNat 32 (0x64000003 + place 18 d))
  | .pand d a b => some (BitVec.ofNat 32 (0x68000000 + place 18 d + place 10 a + place 2 b))
  | .por d a b => some (BitVec.ofNat 32 (0x68000001 + place 18 d + place 10 a + place 2 b))
  | .pxor d a b => some (BitVec.ofNat 32 (0x68000002 + place 18 d + place 10 a + place 2 b))
  | .pandn d a b => some (BitVec.ofNat 32 (0x68000003 + place 18 d + place 10 a + place 2 b))
  | .reord a b => some (BitVec.ofNat 32 (0x6C000000 + place 10 a + place 2 b))
  | .ldv d i h w g s => some (BitVec.ofNat 32 (0x70000000 + place 18 d + place 10 i + place 6 h + place 4 w + place 3 g + place 0 s))
  | .gather d i h w g s => some (BitVec.ofNat 32 (0x74000000 + place 18 d + place 10 i + place 6 h + place 4 w + place 3 g + place 0 s))
  | .stv d i h w g s => some (BitVec.ofNat 32 (0x78000000 + place 18 d + place 10 i + place 6 h + place 4 w + place 3 g + place 0 s))
  | .scatter d i h w g s => some (BitVec.ofNat 32 (0x7C000000 + place 18 d + place 10 i + place 6 h + place 4 w + place 3 g + place 0 s))
  | .ldc d i w g s => some (BitVec.ofNat 32 (0x80000000 + place 18 d + place 10 i + place 4 w + place 3 g + place 0 s))
  | .sld d i h w g s => some (BitVec.ofNat 32 (0x84000000 + place 18 d + place 10 i + place 6 h + place 4 w + place 3 g + place 0 s))
  | .sst d i h w g s => some (BitVec.ofNat 32 (0x88000000 + place 18 d + place 10 i + place 6 h + place 4 w + place 3 g + place 0 s))
  | .lda d i h w g s => some (BitVec.ofNat 32 (0x8C000000 + place 18 d + place 10 i + place 6 h + place 4 w + place 3 g + place 0 s))
  | .stl d i h w g s => some (BitVec.ofNat 32 (0x90000000 + place 18 d + place 10 i + place 6 h + place 4 w + place 3 g + place 0 s))
  | .tld d i h => some (BitVec.ofNat 32 (0x94000000 + place 18 d + place 10 i + place 6 h))
  | .tst d i h => some (BitVec.ofNat 32 (0x94000010 + place 18 d + place 10 i + place 6 h))
  | .hbind h a => some (BitVec.ofNat 32 (0x98000000 + place 18 h + place 10 a))
  | .hset h a => some (BitVec.ofNat 32 (0x98000100 + place 18 h + place 10 a))
  | .hqry d h q => some (BitVec.ofNat 32 (0x98000200 + place 18 d + place 4 h + place 0 q))
  | .pref d a h => some (BitVec.ofNat 32 (0x9C000000 + place 18 d + place 10 a + place 2 h))
  | .flush d a h => some (BitVec.ofNat 32 (0x9C000040 + place 18 d + place 10 a + place 2 h))
  | .inval d a h => some (BitVec.ofNat 32 (0x9C000080 + place 18 d + place 10 a + place 2 h))
  | .pub d a h => some (BitVec.ofNat 32 (0x9C0000C0 + place 18 d + place 10 a + place 2 h))
  | .smap d a h => some (BitVec.ofNat 32 (0x9C000100 + place 18 d + place 10 a + place 2 h))
  | .sunmap a => some (BitVec.ofNat 32 (0x9C000140 + place 10 a))
  | .fenceWarp => some (BitVec.ofNat 32 (0xA0000000))
  | .fenceBlk => some (BitVec.ofNat 32 (0xA0000001))
  | .fenceDev => some (BitVec.ofNat 32 (0xA0000002))
  | .fenceGang => some (BitVec.ofNat 32 (0xA0000003))
  | .fenceSys => some (BitVec.ofNat 32 (0xA0000004))
  | .fenceXp => some (BitVec.ofNat 32 (0xA0000005))
  | .atomAdd d i h w r => some (BitVec.ofNat 32 (0xA4000000 + place 18 d + place 10 i + place 6 h + place 2 w + place 0 r))
  | .atomMin d i h w r => some (BitVec.ofNat 32 (0xA4000008 + place 18 d + place 10 i + place 6 h + place 2 w + place 0 r))
  | .atomMax d i h w r => some (BitVec.ofNat 32 (0xA4000010 + place 18 d + place 10 i + place 6 h + place 2 w + place 0 r))
  | .atomAnd d i h w r => some (BitVec.ofNat 32 (0xA4000018 + place 18 d + place 10 i + place 6 h + place 2 w + place 0 r))
  | .atomOr d i h w r => some (BitVec.ofNat 32 (0xA4000020 + place 18 d + place 10 i + place 6 h + place 2 w + place 0 r))
  | .atomXor d i h w r => some (BitVec.ofNat 32 (0xA4000028 + place 18 d + place 10 i + place 6 h + place 2 w + place 0 r))
  | .atomXchg d i h w r => some (BitVec.ofNat 32 (0xA4000030 + place 18 d + place 10 i + place 6 h + place 2 w + place 0 r))
  | .atomCas d i h w r => some (BitVec.ofNat 32 (0xA4000038 + place 18 d + place 10 i + place 6 h + place 2 w + place 0 r))
  | .redAdd d i h w r => some (BitVec.ofNat 32 (0xA8000000 + place 18 d + place 10 i + place 6 h + place 2 w + place 0 r))
  | .redMin d i h w r => some (BitVec.ofNat 32 (0xA8000008 + place 18 d + place 10 i + place 6 h + place 2 w + place 0 r))
  | .redMax d i h w r => some (BitVec.ofNat 32 (0xA8000010 + place 18 d + place 10 i + place 6 h + place 2 w + place 0 r))
  | .redAnd d i h w r => some (BitVec.ofNat 32 (0xA8000018 + place 18 d + place 10 i + place 6 h + place 2 w + place 0 r))
  | .redOr d i h w r => some (BitVec.ofNat 32 (0xA8000020 + place 18 d + place 10 i + place 6 h + place 2 w + place 0 r))
  | .redXor d i h w r => some (BitVec.ofNat 32 (0xA8000028 + place 18 d + place 10 i + place 6 h + place 2 w + place 0 r))
  | .barArrive d a h => some (BitVec.ofNat 32 (0xAC000000 + place 18 d + place 10 a + place 4 h))
  | .barWait d a h => some (BitVec.ofNat 32 (0xAC000100 + place 18 d + place 10 a + place 4 h))
  | .barArriveN d a h => some (BitVec.ofNat 32 (0xAC000200 + place 18 d + place 10 a + place 4 h))
  | .rclm a => some (BitVec.ofNat 32 (0xB0000000 + place 10 a))
  | .rrel a => some (BitVec.ofNat 32 (0xB0000100 + place 10 a))
  | .rqry d => some (BitVec.ofNat 32 (0xB0000200 + place 18 d))
  | .rqpool d => some (BitVec.ofNat 32 (0xB0000300 + place 18 d))
  | .qpush q a => some (BitVec.ofNat 32 (0xB4000000 + place 18 q + place 10 a))
  | .kvxs d a h => some (BitVec.ofNat 32 (0xB4000100 + place 18 d + place 10 a + place 4 h))
  | .kvx d i h => some (BitVec.ofNat 32 (0xB8000000 + place 18 d + place 10 i + place 6 h))
  | .rld d o p h => some (BitVec.ofNat 32 (0xBC000000 + place 18 d + place 10 o + place 2 p + place 0 h))
  | .rst d o p h => some (BitVec.ofNat 32 (0xC0000000 + place 18 d + place 10 o + place 2 p + place 0 h))
  | .ratom d o p h => some (BitVec.ofNat 32 (0xC4000000 + place 18 d + place 10 o + place 2 p + place 0 h))
  | .rred d o p h => some (BitVec.ofNat 32 (0xC8000000 + place 18 d + place 10 o + place 2 p + place 0 h))
  | .mcst d o p h => some (BitVec.ofNat 32 (0xCC000000 + place 18 d + place 10 o + place 2 p + place 0 h))
  | .mma c a b s t z => some (BitVec.ofNat 32 (0xD0000000 + place 24 c + place 20 a + place 16 b + place 10 s + place 4 t + place 1 z))
  | .mmat c a b s t z => some (BitVec.ofNat 32 (0xD0000004 + place 24 c + place 20 a + place 16 b + place 10 s + place 4 t + place 1 z))
  | .mmap c a b s t z => some (BitVec.ofNat 32 (0xD0000008 + place 24 c + place 20 a + place 16 b + place 10 s + place 4 t + place 1 z))
  | .accz c => some (BitVec.ofNat 32 (0xD4000000 + place 24 c))
  | .accld c h s => some (BitVec.ofNat 32 (0xD4000001 + place 24 c + place 20 h + place 10 s))
  | .accst c h s => some (BitVec.ofNat 32 (0xD4000002 + place 24 c + place 20 h + place 10 s))
  | .accg c s => some (BitVec.ofNat 32 (0xD4000003 + place 24 c + place 10 s))
  | .accmax c s => some (BitVec.ofNat 32 (0xD4000004 + place 24 c + place 10 s))
  | .accexp c s => some (BitVec.ofNat 32 (0xD4000005 + place 24 c + place 10 s))
  | .accsum c m s => some (BitVec.ofNat 32 (0xD4000006 + place 24 c + place 16 m + place 10 s))
  | .cpy d a b => some (BitVec.ofNat 32 (0xD8040000 + place 12 d + place 6 a + place 0 b))
  | .gath d a b => some (BitVec.ofNat 32 (0xD80C0000 + place 12 d + place 6 a + place 0 b))
  | .scat d a b => some (BitVec.ofNat 32 (0xD8140000 + place 12 d + place 6 a + place 0 b))
  | .tcpy r d a b => some (BitVec.ofNat 32 (0xD8180000 + place 18 r + place 12 d + place 6 a + place 0 b))
  | .fill d a b => some (BitVec.ofNat 32 (0xD8240000 + place 12 d + place 6 a + place 0 b))
  | .tdec d a b => some (BitVec.ofNat 32 (0xD82C0000 + place 12 d + place 6 a + place 0 b))
  | .encv d a b => some (BitVec.ofNat 32 (0xD8840000 + place 12 d + place 6 a + place 0 b))
  | .encc d a b => some (BitVec.ofNat 32 (0xD88C0000 + place 12 d + place 6 a + place 0 b))
  | .encvp d a b => some (BitVec.ofNat 32 (0xD8940000 + place 12 d + place 6 a + place 0 b))
  | .enccp d a b => some (BitVec.ofNat 32 (0xD89C0000 + place 12 d + place 6 a + place 0 b))
  | .migp d a b => some (BitVec.ofNat 32 (0xD9040000 + place 12 d + place 6 a + place 0 b))
  | .migb r d a b => some (BitVec.ofNat 32 (0xD9080000 + place 18 r + place 12 d + place 6 a + place 0 b))
  | .avdec r d a b => some (BitVec.ofNat 32 (0xD9800000 + place 18 r + place 12 d + place 6 a + place 0 b))
  | .cbcast d a b => some (BitVec.ofNat 32 (0xDA040000 + place 12 d + place 6 a + place 0 b))
  | .creduce d a b => some (BitVec.ofNat 32 (0xDA0C0000 + place 12 d + place 6 a + place 0 b))
  | .callred d a b => some (BitVec.ofNat 32 (0xDA140000 + place 12 d + place 6 a + place 0 b))
  | .cgath d a b => some (BitVec.ofNat 32 (0xDA1C0000 + place 12 d + place 6 a + place 0 b))
  | .tdef d a => some (BitVec.ofNat 32 (0xDA840000 + place 12 d + place 6 a))
  | .trel r d a => some (BitVec.ofNat 32 (0xDA880000 + place 18 r + place 12 d + place 6 a))
  | .trdy r d a => some (BitVec.ofNat 32 (0xDA900000 + place 18 r + place 12 d + place 6 a))
  | .tdrn r d a => some (BitVec.ofNat 32 (0xDA980000 + place 18 r + place 12 d + place 6 a))
  | .tqry d a => some (BitVec.ofNat 32 (0xDAA40000 + place 12 d + place 6 a))
  | .ctload a s => some (BitVec.ofNat 32 (0xDC000000 + place 10 a + place 0 s))
  | .ctsave a s => some (BitVec.ofNat 32 (0xDC000100 + place 10 a + place 0 s))
  | .ctinv s => some (BitVec.ofNat 32 (0xDC000200 + place 0 s))
  | .smovi d i => some (BitVec.ofNat 32 (0xE0000000 + place 20 d + place 0 i))
  | .movi d i => some (BitVec.ofNat 32 (0xF0000000 + place 20 d + place 0 i))
  | .loadComplete _ _ => none
  | .storePerformed _ => none
  | .lateFault _ _ => none
  | .impreciseFaultDelivery _ => none
  | .ttrapDeadline _ => none
  | .tdeadDeadline _ => none
  | .sleepEnd _ => none
  | .accordWaitExpire _ => none
  | .wosTimeout _ _ => none
  | .deadlockDetect _ => none
  | .rclmGrant _ => none
  | .matrixAccept _ => none
  | .matrixComplete _ => none
  | .engineStartGrant _ => none
  | .engineGate _ => none
  | .engineCompletion _ => none
  | .xlateInval => none
  | .xlateInvalctx => none
  | .xlateSplinter => none
  | .xlateAttrchg => none
  | .xlatePerm => none
  | .xlateRequestEnd => none
  | .queueEnable => none
  | .queueDisable => none
  | .ctxQuery => none
  | .ctxResume => none
  | .ctxStop => none
  | .ckptCfg _ => none
  | .fabCfg _ => none
  | .pwrCfg _ => none
  | .tlmSel _ => none
  | .registerWrite _ _ => none
  | .tailChange _ => none
  | .cardAccept => none
  | .semLineChange _ => none
  | .nodeDispatch => none
  | .priorityAging => none
  | .nodeComplete _ => none
  | .nodeWatchdog _ => none
  | .gangReserve _ => none
  | .gangTimeout _ => none
  | .gangRetry _ => none
  | .contextSwitchOut _ => none
  | .contextRestore _ => none
  | .migrationRequest _ => none
  | .intervalCut => none
  | .undoLogFull => none
  | .heartbeatTick => none
  | .deviceDeclaredDead _ => none
  | .standbySubstitute _ _ _ => none
  | .uncorrectableError _ => none
  | .rebuildDone => none
  | .cut _ => none
  | .cutdone _ _ => none
  | .resume _ => none
  | .vote _ _ _ => none
  | .commit _ => none
  | .abort _ => none
  | .heartbeat _ => none
  | .reserve _ _ _ _ => none
  | .gcommit _ _ => none
  | .grelease _ _ => none
  | .mirror _ _ _ _ => none
  | .mirrorack _ => none
  | .fmwrite _ _ => none
  | .spdm _ _ => none
  | .keyset _ _ _ => none
  | .keyerase _ _ => none
  | .rekey _ => none
  | .keyrdy _ => none
  | .retire _ => none
  | .mctpMessage _ _ _ => none
  | .flit _ _ _ _ => none
  | .nak _ _ => none
  | .linkDown _ => none
  | .linkTrain _ _ => none
  | .rldRequest _ _ _ _ _ _ _ _ _ _ => none
  | .rstRequest _ _ _ _ _ _ _ _ _ _ _ => none
  | .ratomRequest _ _ _ _ _ _ _ _ _ _ _ => none
  | .rredRequest _ _ _ _ _ _ _ _ _ _ _ => none
  | .mcstRequest _ _ _ _ _ _ _ _ _ _ _ _ => none
  | .ack _ _ _ => none
  | .rnr _ _ _ _ => none
  | .err _ _ _ _ _ => none
  | .rnrRetry _ => none
  | .dack _ _ => none
  | .readShared _ _ => none
  | .readOwn _ _ => none
  | .readUpdate _ _ _ _ _ => none
  | .writeBack _ _ _ _ => none
  | .invalidate _ _ => none
  | .update _ _ _ _ => none
  | .recall _ _ => none
  | .partialReturn _ _ => none
  | .grant _ _ _ => none
  | .acknowledge _ _ => none
  | .hostMemRead _ _ => none
  | .hostMemWrite _ _ _ => none
  | .hostSnoop _ _ => none
  | .nvmeCompletion _ _ => none
  | .powerGood _ => none
  | .flowLoss => none
  | .throttle _ _ => none
  | .thermalFatal _ => none
  | .gangAcknowledgement _ _ => none
  | .flowSignalAsserted => none
  | .throttleClear _ _ => none

end Sys2Proof
end

