-- ==== Sys2Proof/Machine/Claims.lean ====
section
/-!
DEFINITION. Register claims (spec/12, R325; spec/05, R89 to R94).
-/
namespace Sys2Proof.Machine

/-- The mask of register blocks that a warp holds, extended with blocks that read as zero (R89). -/
def claimBlocks (w : Warp) (blocks : BitVec 29) : Warp :=
  let new := blocks &&& ~~~w.claimed
  { w with claimed := w.claimed ||| new,
           v := vecOf 232 fun r => if new.getLsbD (r.val / 8) then Vector.replicate 64 Lane.zero else w.v[r] }

/-- The EVICTABLE slots of a core. -/
def evictableSlots (c : CoreState) : Nat := c.evictable.foldl (fun n e => n + e.2) 0

/-- A of R92: the slots that the pool can grant. -/
def poolFree (c : CoreState) : Nat := c.free + evictableSlots c

/-- `k` EVICTABLE slots taken, the least recently used first (R92). -/
def takeEvictable : Nat → List (BitVec 16 × Nat) → List (BitVec 16 × Nat)
  | _, [] => []
  | k, (c, n) :: t => if k < n then (c, n - k) :: t else takeEvictable (k - n) t

/-- `k` slots taken by a newcomer or a claim: FREE ones first (R92). -/
def takeSlots (c : CoreState) (k : Nat) : CoreState :=
  { c with free := c.free - k, evictable := takeEvictable (k - c.free) c.evictable }

/-- How many EVICTABLE slots of each context go when `k` are taken. -/
def takenFrom : Nat → List (BitVec 16 × Nat) → List (BitVec 16 × Nat)
  | _, [] => []
  | k, (c, n) :: t => (c, min k n) :: takenFrom (k - n) t

/-- `k` slots of a core taken: the blocks in EVICTABLE ones are written to their backings first (R91, R92). -/
def takeOn (s : State) (core k : Nat) : State :=
  let c := coreAt s core
  let s := (takenFrom (k - c.free) c.evictable).foldl (fun s t => ((slotBlocks s core t.1).take t.2).foldl spillBlock s) s
  onCore s core fun c => takeSlots c k

/-- A waiting claim in its place: ascending launch age (R92). -/
def insertClaim (q : Claim) : List Claim → List Claim
  | [] => [q]
  | c :: t => if q.age < c.age then q :: c :: t else c :: insertClaim q t

/-- The waiting claims of a core without those of a warp (R392). -/
def withdrawClaim (s : State) (core wid : Nat) : State :=
  onCore s core fun c => { c with claims := c.claims.filter fun q => q.wid ≠ wid }

/-- The operand of a register claim form: a mask of blocks (R325). -/
def blockMask (s : State) (a : Byte) : Run (State × BitVec 29) :=
  match readS s a with
  | .error e => .error e
  | .ok (s, x) =>
    match consumeS x with
    | .error e => .error e
    | .ok _ => if bitsNat x.val 29 35 ≠ 0 then trap cIllegalInstruction 0x72 else .ok (s, x.val.extractLsb' 0 29)

/-- RCLM (R325, R92): granted at once when no older claim waits and the pool can serve it, else the warp parks. -/
def execRclm (a : BitVec 8) (s : State) : Host.Outcome State Fault Refusal :=
  issue { rap := .no, opds := [.ssrc a] } s fun s =>
    match blockMask s a with
    | .error e => .error e
    | .ok (s, m) =>
      let want := m &&& ~~~s.w.claimed
      let k := popNat 29 want.toNat
      let c := coreAt s s.w.core.toNat
      if k = 0 then .ok (advance s)
      else if c.claims.any fun q => q.wid = s.w.wid then park (.claim want)
      else if (c.claims.all fun q => s.w.wid < q.age) && k ≤ poolFree c then
        .ok (advance (takeOn { s with w := claimBlocks s.w want } s.w.core.toNat k))
      else
        .ok { onCore s s.w.core.toNat (fun c => { c with claims := insertClaim ⟨s.w.wid, s.w.wid, want⟩ c.claims }) with
              w := waiting s.w (.claim want), turn := 0 }

/-- Register blocks given up: their contents and poison bits are discarded (R90). -/
def dropBlocks (w : Warp) (blocks : BitVec 29) : Warp :=
  { w with claimed := w.claimed &&& ~~~blocks, away := w.away &&& ~~~blocks,
           v := vecOf 232 fun r => if blocks.getLsbD (r.val / 8) then Vector.replicate 64 Lane.zero else w.v[r] }

/-- RREL (R325): waits until no pending write targets the blocks, then releases them. -/
def execRrel (a : BitVec 8) (s : State) : Host.Outcome State Fault Refusal :=
  issue { rap := .no, opds := [.ssrc a] } s fun s =>
    match blockMask s a with
    | .error e => .error e
    | .ok (s, m) =>
      let held := m &&& s.w.claimed
      if (List.range 232).any fun r => held.getLsbD (r / 8) && vPending s.w r then park .interlock
      else .ok (advance (freeSlots { s with w := dropBlocks s.w held } s.w.core.toNat (popNat 29 held.toNat)))

/-- RQRY (R325). -/
def execRqry (d : BitVec 8) (s : State) : Host.Outcome State Fault Refusal :=
  issue { rap := .no, opds := [.sdst d] } s fun s =>
    .ok (advance { s with w := setS s.w (Fin.ofNat 64 d.toNat) ⟨s.w.claimed.setWidth 64, false⟩ })

/-- The snapshot of RQPOOL (R325). -/
def poolWord (c : CoreState) : DWord :=
  BitVec.ofNat 64 (atBit 32 (c.claims.foldl (fun n q => n + popNat 29 q.blocks.toNat) 0) + atBit 16 (poolFree c) + c.free)

/-- RQPOOL (R325). -/
def execRqpool (d : BitVec 8) (s : State) : Host.Outcome State Fault Refusal :=
  issue { rap := .no, opds := [.sdst d] } s fun s =>
    .ok (advance { s with w := setS s.w (Fin.ofNat 64 d.toNat) ⟨poolWord (coreAt s s.w.core.toNat), false⟩ })

end Sys2Proof.Machine
end

