-- ==== Sys2Proof/Machine/Control.lean ====
section
/-!
DEFINITION. Control transfer (spec/11, R264 to R270), the run-ahead entry (spec/10, R249), and the system group: trap, tret, the timers,
RDSR and WRSR (spec/13, R373 to R376; spec/08, R189 to R191).
-/
namespace Sys2Proof.Machine

/-! ### Nothing, waiting -/

/-- NOP (R240). -/
def execNop (s : State) : Host.Outcome State Fault Refusal := issueSilent s fun s => .ok (advance s)

/-- EXIT (R269); in the run-ahead processor it stops the processor. -/
def execExit (s : State) : Host.Outcome State Fault Refusal :=
  issue { rap := .yes, opds := [] } s fun s =>
    if s.w.rap then .ok { s with w := { s.w with status := .done } }
    else if active s.w = 0#64 then .ok (advance s)
    else .ok (afterExit { s with w := exitLanes s.w (active s.w) })

/-- The issue slot left to the other warps (R270, R224). -/
def yieldTurn (s : State) : State := { s with w := { stepOver s.w with yields := true }, turn := 0 }

/-- YIELD (R270). -/
def execYield (s : State) : Host.Outcome State Fault Refusal :=
  issue { rap := .yes, opds := [] } s fun s => .ok (yieldTurn s)

/-- SLEEP (R270): the warp is not eligible for 64·n clocks of CYC; `since` holds the clock at which it wakes. -/
def execSleep (n : BitVec 10) (s : State) : Host.Outcome State Fault Refusal :=
  issue { rap := .yes, opds := [] } s fun s =>
    if n = 0#10 then .ok (yieldTurn s)
    else
      let t := yieldTurn s
      .ok { t with w := { t.w with status := .parked .sleep, since := s.w.cyc.toNat + 64 * n.toNat } }

/-! ### Branches -/

/-- The target of a BRANCH-format transfer (R243). -/
def branchTarget (pc : VA) (o : BitVec 16) (w : BitVec 4) : VA :=
  clauseVa pc + (o.signExtend 80 <<< 6) + (w.setWidth 80 <<< 2)

/-- The instruction-buffer entries of a partition's pool that its warps' splits hold (R194). -/
def poolHeld (s : State) (core : BitVec 8) (part : BitVec 2) : Nat :=
  ((allWarps s).filter fun w => w.status ≠ .vacant && w.core = core && w.part = part).foldl
    (fun n w => n + (w.stack.filter (·.pooled)).length) 0

/-- The two entries of a split pushed, and the first path running (R193); where the pool has a free entry the deferred path is eligible too
(R194). -/
def split (w : Warp) (taken notTaken : Mask) (target r : VA) (pool : Bool) : Warp :=
  let second : PathCtx :=
    { pc := target, enter := true, clause := w.clause, exec := taken, m := taken, rp := none, status := .running, since := 0, woken := false }
  let join : StackEntry := { kind := .join, rpc := r, pc := r, mask := w.exec, m := w.m, running := false, pooled := false, other := none }
  let path : StackEntry :=
    { kind := .path, rpc := r, pc := target, mask := taken, m := w.m, running := false, pooled := pool, other := if pool then some second else none }
  { w with stack := path :: join :: w.stack, exec := notTaken, m := notTaken, rp := none }

/-- A per-lane branch on predicate `p`, taken where it holds or, with `neg`, where it does not (R264). -/
def branchLanes (neg : Bool) (p : BitVec 4) (target : VA) (s : State) : Run State :=
  let a := active s.w
  let poisoned := a &&& laneMask fun l => (predLane s.w p l).poison
  match firstLane a fun l => (predLane s.w p l).poison with
  | some l => consume (predLane s.w p l).code (some poisoned)
  | none =>
    let taken := a &&& laneMask fun l => (predLane s.w p l).bit ^^ neg
    let others := s.w.exec &&& ~~~taken
    if taken = 0#64 then .ok (advance s)
    else if others = 0#64 then .ok { s with w := jumpTo s.w target }
    else match s.w.rp with
    | none => trap cIllegalInstruction 0x20
    | some r =>
      if 254 < s.w.stack.length then trap cStackOverflow 0x00
      else .ok (advance { s with w := split s.w taken others target r (poolHeld s s.w.core s.w.part < 64) })

/-- A uniform branch, taken when the scalar is zero or, with `neg`, when it is not (R264). -/
def branchUniform (neg : Bool) (n : BitVec 4) (target : VA) (s : State) : Run State :=
  let x := sReg s.w (Fin.ofNat 64 n.toNat)
  warpOnce s fun s =>
    match consumeS x with
    | .error e => .error e
    | .ok _ => if (x.val == 0#64) != neg then .ok { s with w := jumpTo s.w target } else .ok (advance s)

/-- BR (R264): on p0, so taken in every active lane; always taken in the run-ahead processor. -/
def execBr (o : BitVec 16) (w : BitVec 4) (s : State) : Host.Outcome State Fault Refusal :=
  issue { rap := .yes, opds := [] } s fun s =>
    if s.w.rap then .ok { s with w := jumpTo s.w (branchTarget s.w.pc o w) }
    else branchLanes false 0#4 (branchTarget s.w.pc o w) s

/-- BR.P (R264). -/
def execBrP (o : BitVec 16) (w : BitVec 4) (p : BitVec 4) (s : State) : Host.Outcome State Fault Refusal :=
  issue { rap := .no, opds := [] } s fun s => branchLanes false p (branchTarget s.w.pc o w) s

/-- BR.NP (R264). -/
def execBrNp (o : BitVec 16) (w : BitVec 4) (p : BitVec 4) (s : State) : Host.Outcome State Fault Refusal :=
  issue { rap := .no, opds := [] } s fun s => branchLanes true p (branchTarget s.w.pc o w) s

/-- BR.Z (R264). -/
def execBrZ (o : BitVec 16) (w : BitVec 4) (n : BitVec 4) (s : State) : Host.Outcome State Fault Refusal :=
  issue { rap := .yes, opds := [.ssrc (n.setWidth 8)] } s fun s => branchUniform false n (branchTarget s.w.pc o w) s

/-- BR.NZ (R264). -/
def execBrNz (o : BitVec 16) (w : BitVec 4) (n : BitVec 4) (s : State) : Host.Outcome State Fault Refusal :=
  issue { rap := .yes, opds := [.ssrc (n.setWidth 8)] } s fun s => branchUniform true n (branchTarget s.w.pc o w) s

/-! ### Calls -/

/-- The VA in a scalar pair, bits [79:0] (R266, R268), after the consumer and alignment rules. -/
def pairTarget (w : Warp) (a : BitVec 8) : Run VA :=
  let lo := sReg w (Fin.ofNat 64 a.toNat)
  let hi := sReg w (Fin.ofNat 64 (a.toNat + 1))
  match consumeS lo with
  | .error e => .error e
  | .ok _ =>
    match consumeS hi with
    | .error e => .error e
    | .ok _ =>
      let t : VA := (hi.val ++ lo.val).setWidth 80
      if t.extractLsb' 0 2 = 0#2 then .ok t else trap cMisaligned 0x00

/-- A call with lanes active (R266): the entry pushed, EXEC the active lanes, LR and LRHI the successor. -/
def callTo (target : VA) (s : State) : Run State :=
  if s.w.stack.length = 256 then trap cStackOverflow 0x00
  else
    let ret := (succOf s.w).1
    let e : StackEntry := { kind := .call, rpc := ret, pc := ret, mask := s.w.exec, m := s.w.m, running := false, pooled := false, other := none }
    let a := active s.w
    .ok { s with w := jumpTo { s.w with stack := e :: s.w.stack, exec := a, m := a, lr := ret.setWidth 64, lrhi := ret.extractLsb' 64 16 } target }

/-- CALL (R266). -/
def execCall (o : BitVec 16) (w : BitVec 4) (s : State) : Host.Outcome State Fault Refusal :=
  issue { rap := .no, opds := [] } s fun s => warpOnce s fun s => callTo (branchTarget s.w.pc o w) s

/-- CALLI (R266). -/
def execCalli (a : BitVec 8) (s : State) : Host.Outcome State Fault Refusal :=
  issue { rap := .no, opds := [.sregs a 2] } s fun s => warpOnce s fun s =>
    match pairTarget s.w a with
    | .error e => .error e
    | .ok t => callTo t s

/-- RET (R267). -/
def execRet (s : State) : Host.Outcome State Fault Refusal :=
  issue { rap := .no, opds := [] } s fun s =>
    match s.w.stack with
    | [] => trap cIllegalInstruction 0x21
    | e :: rest =>
      if e.kind ≠ .call then trap cIllegalInstruction 0x21
      else .ok { s with w := jumpTo { s.w with stack := rest, exec := e.mask, m := e.m &&& ~~~s.w.gone } (s.w.lrhi ++ s.w.lr) }

/-- JMPI (R268). -/
def execJmpi (a : BitVec 8) (s : State) : Host.Outcome State Fault Refusal :=
  issue { rap := .yes, opds := [.sregs a 2] } s fun s => warpOnce s fun s =>
    match pairTarget s.w a with
    | .error e => .error e
    | .ok t => .ok { s with w := jumpTo s.w t }

/-- RCV (R265). -/
def execRcv (o : BitVec 16) (w : BitVec 4) (s : State) : Host.Outcome State Fault Refusal :=
  issue { rap := .no, opds := [] } s fun s => .ok (advance { s with w := { s.w with rp := some (branchTarget s.w.pc o w) } })

/-- RAPENT (R249): a NOP for a warp at word 1 of the code; anywhere else, and in the run-ahead processor, illegal. -/
def execRapent (_o : BitVec 16) (_w : BitVec 4) (s : State) : Host.Outcome State Fault Refusal :=
  issue { rap := .yes, opds := [] } s fun s =>
    if !s.w.rap && s.w.pc = s.b.code + 4#80 then .ok (advance s) else trap cIllegalInstruction 0x05

/-! ### Traps and timers -/

/-- TRAP (R373). -/
def execTrap (n : BitVec 10) (s : State) : Host.Outcome State Fault Refusal :=
  issue { rap := .no, opds := [] } s fun s => warpOnce s fun _ =>
    .error (.trap { code := cSoftwareTrap, detail := n.setWidth 8, swn := n, next := true })

/-- TRET (R374, R386). -/
def execTret (s : State) : Host.Outcome State Fault Refusal :=
  issue { rap := .no, opds := [] } s fun s =>
    match trapReturn s.w with
    | none => trap cIllegalInstruction 0x22
    | some w => .ok { s with w := w }

/-- The value of a scalar source, which must not be poisoned (R66). -/
def scalarOperand (s : State) (a : BitVec 8) : Run (State × DWord) :=
  match readS s a with
  | .error e => .error e
  | .ok (s, x) =>
    match consumeS x with
    | .error e => .error e
    | .ok _ => .ok (s, x.val)

/-- TTRAP (R376). -/
def execTtrap (a : BitVec 8) (s : State) : Host.Outcome State Fault Refusal :=
  issue { rap := .no, opds := [.ssrc a] } s fun s =>
    match scalarOperand s a with
    | .error e => .error e
    | .ok (s, x) => .ok (advance { s with w := { s.w with cycdl := x } })

/-- TDEAD (R376). -/
def execTdead (a : BitVec 8) (s : State) : Host.Outcome State Fault Refusal :=
  issue { rap := .no, opds := [.ssrc a] } s fun s =>
    match scalarOperand s a with
    | .error e => .error e
    | .ok (s, x) => .ok (advance { s with w := { s.w with walldl := x } })

/-! ### Special registers -/

/-- ACCSTAT (R358). -/
def accStat (s : State) : DWord := (if s.x.cfg then 0x20000#64 else 0#64) |||
  (s.w.accPend.extractLsb' 12 1).setWidth 64 <<< 16 ||| (s.w.accPend.extractLsb' 0 12).setWidth 64

/-- The value of a special register (R189, R191); numbers above 25 do not decode. -/
def specialReg (s : State) (n : BitVec 10) : DWord :=
  let w := s.w
  match n.toNat with
  | 0 => w.exec
  | 1 => w.mode.setWidth 64
  | 2 => w.lr
  | 3 => w.lrhi.setWidth 64
  | 4 => w.trapmask
  | 5 => w.replay
  | 6 => accStat s
  | 7 => w.rowprog
  | 8 => w.zerocnt
  | 9 => w.cyc
  | 10 => BitVec.ofNat 64 (wall s)
  | 11 => w.stage.setWidth 64
  | 12 => BitVec.ofNat 64 (w.widx.toNat + atBit 16 w.stage.toNat + atBit 19 w.twin.toNat)
  | 13 => BitVec.ofNat 64 (s.b.x.toNat + atBit 20 s.b.y.toNat + atBit 40 s.b.z.toNat)
  | 14 => w.node
  | 15 => BitVec.ofNat 64 (s.b.member.toNat + atBit 16 s.b.gcount.toNat)
  | 16 => w.porig.extractLsb' 0 64
  | 17 => w.porig.extractLsb' 64 64
  | 18 => w.porig.extractLsb' 128 64
  | 19 => w.porig.extractLsb' 192 64
  | 20 => (flagBits w).setWidth 64
  | 21 => BitVec.ofNat 64 (w.stack.length + atBit 16 w.floor.toNat)
  | 22 => w.qsub.setWidth 64
  | 23 => BitVec.ofNat 64 (atBit 2 w.slot.toNat + atBit 6 w.part.toNat + atBit 8 w.core.toNat + atBit 16 w.span.toNat)
  | 24 => w.cycdl
  | 25 => w.walldl
  | _ => 0#64

/-- The special registers of the run-ahead processor (R202). -/
def rapRegister (n : BitVec 10) : Bool :=
  n = 1#10 || n = 2#10 || n = 3#10 || n = 9#10 || n = 10#10 || n = 13#10 || n = 14#10 || (16 ≤ n.toNat && n.toNat ≤ 20)

/-- Why a WRSR is refused: a zero field or a bit above the register's width (0x02), a reserved code (0x01), or the origin record
(0x24) (R16, R67, R375). -/
def wrsrRefused (n : BitVec 10) (x : DWord) : Option Byte :=
  match n.toNat with
  | 1 => if x.toNat / 2 ^ 30 ≠ 0 then some 0x02 else if 4 < bitsNat x 14 3 then some 0x01 else none
  | 3 => if x.toNat / 2 ^ 16 ≠ 0 then some 0x02 else none
  | 16 | 17 | 18 => some 0x24
  | 19 => if x ≠ 0#64 then some 0x24 else none
  | 22 => if x.toNat / 2 ^ 8 ≠ 0 then some 0x02 else none
  | _ => none

/-- QSUB written (R203): a bit set starts the warp at the next entry pushed, a bit cleared counts every entry as popped. -/
def writeQsub (s : State) (x : BitVec 8) : State :=
  let pushed := fun (q : Fin 8) => s.b.queues[q].retired + s.b.queues[q].entries.length
  let pos := vecOf 8 fun q => if x.getLsbD q && s.w.qsub.getLsbD q then s.w.qpos[q] else pushed q
  (List.finRange 8).foldl retireQueue { s with w := { s.w with qsub := x, qpos := pos } }

/-- A special register written (R189); a write to an RO register is ignored. -/
def writeSpecial (s : State) (n : BitVec 10) (x : DWord) : State :=
  match n.toNat with
  | 0 => { s with w := { s.w with exec := x &&& s.w.m } }
  | 1 => { s with w := { s.w with mode := x.setWidth 32 } }
  | 2 => { s with w := { s.w with lr := x } }
  | 3 => { s with w := { s.w with lrhi := x.setWidth 16 } }
  | 5 => { s with w := { s.w with replay := x } }
  | 8 => { s with w := { s.w with zerocnt := x } }
  | 19 => { s with w := { s.w with porig := 0#256 } }
  | 22 => writeQsub s (x.setWidth 8)
  | _ => s

/-- RDSR (R375); the run-ahead processor has the registers of R202 alone (R250). -/
def execRdsr (d : BitVec 8) (n : BitVec 10) (s : State) : Host.Outcome State Fault Refusal :=
  issue { rap := if rapRegister n then .yes else .no, opds := [.sdst d] } s fun s =>
    if n = 8#10 && s.w.mat.isSome then park .matrix
    else .ok (advance { s with w := setS s.w (Fin.ofNat 64 d.toNat) ⟨specialReg s n, false⟩ })

/-- WRSR (R375). -/
def execWrsr (a : BitVec 8) (n : BitVec 10) (s : State) : Host.Outcome State Fault Refusal :=
  issue { rap := if rapRegister n then .yes else .no, opds := [.ssrc a] } s fun s =>
    match scalarOperand s a with
    | .error e => .error e
    | .ok (s, x) =>
      match wrsrRefused n x with
      | some d => trap cIllegalInstruction d
      | none => if n = 8#10 && s.w.mat.isSome then park .matrix else .ok (advance (writeSpecial s n x))

end Sys2Proof.Machine
end

