-- ==== Sys2Proof/Machine/Launch.lean ====
section
/-!
DEFINITION. Blocks on cores (spec/08, R183 to R187, R249; spec/05, R89 to R103): where a block fits, its launch with its warps and its
run-ahead processor, and its release.
-/
namespace Sys2Proof.Machine

/-! ### Occupancy -/

/-- A warp that holds a warp slot: it has not ended, and its context is resident. -/
def holdsSlot (s : State) (w : Warp) : Bool := !w.rap && w.status ≠ .vacant && w.status ≠ .done && ctxResident s w.ctx

/-- The warp slots in use in a partition of a core. -/
def slotsUsed (s : State) (core part : Nat) : List Nat :=
  ((allWarps s).filter fun w => holdsSlot s w && w.core.toNat = core && w.part.toNat = part).map (·.slot.toNat)

/-- The blocks resident on a core. -/
def blocksOn (s : State) (core : Nat) : List Block :=
  (allBlocks s).filter fun b => b.bid ≠ 0 && b.core.toNat ≤ core && core < b.core.toNat + b.span.toNat && ctxResident s b.ctx

/-- The cores of a block placed from a first core on. -/
def spanCores (first span : Nat) : List Nat := (List.range span).map (first + ·)

/-- What a block needs at each span position: warps of each partition, register slots, and stash bytes of a core. -/
structure Shape where
  span : Nat
  parts : Nat → Nat → Nat
  slots : Nat → Nat
  portion : Nat

/-- The shape of a card's blocks (R185, R92, R95). -/
def cardShape (c : BitVec 2048) : Shape :=
  { span := cardSpan c
    parts := fun pos part => cardTwins c * unitsIn (cardSpan c) (cardUnits c) pos part
    slots := fun pos => cardBlocks c * (cardTwins c * unitsAt (cardSpan c) (cardUnits c) pos)
    portion := cardPortion c }

/-- A core admits what a block needs at a span position (R6, R92, R95, R185). -/
def coreFits (s : State) (k : Shape) (core pos : Nat) : Bool :=
  let c := coreAt s core
  let used := fun q => (slotsUsed s core q).length
  c.claims.isEmpty && k.slots pos + 8 ≤ poolFree c && c.granules + k.portion / 4096 ≤ 240 &&
    ((List.range 4).all fun q => used q + k.parts pos q ≤ 16) && (blocksOn s core).length < 64

/-- The lowest core from which a block fits, its cores on one die (R221). -/
def placeOf (s : State) (k : Shape) : Option Nat :=
  (List.range 160).find? fun c => c % 40 + k.span ≤ 40 && (List.range k.span).all fun i => coreFits s k (c + i) i

/-- The lowest block slot that is free on all cores of a block (R102). -/
def freeBslot (s : State) (first span : Nat) : BitVec 6 :=
  let used := (spanCores first span).flatMap fun c => (blocksOn s c).map (·.bslot.toNat)
  BitVec.ofNat 6 (((List.range 64).find? fun n => !used.contains n).getD 0)

/-- The first data-store line of a block's portions: the lowest free run, or 0 where the granules are scattered (R95: which granules is not
architectural). -/
def freeBase (s : State) (first span lines : Nat) : Nat :=
  let others := (spanCores first span).flatMap fun c => (blocksOn s c).map fun b => (b.base, b.portion / 128)
  let ok := fun a => a + lines ≤ 8192 && others.all fun o => !rangesMeet a lines o.1 o.2
  (((0 :: others.map fun o => o.1 + o.2).filter ok).foldl (fun (m : Option Nat) a => match m with
    | none => some a
    | some n => some (min n a)) none).getD 0

/-- The free warp slots of a partition, lowest first. -/
def freeSlotsIn (s : State) (core part : Nat) : List Nat := (List.range 16).filter fun n => !(slotsUsed s core part).contains n

/-! ### Launch -/

/-- The stage of unit `u` (R184). -/
def unitStage (c : BitVec 2048) (u : Nat) : Nat :=
  ((List.range 8).find? fun k => u < (List.range (k + 1)).foldl (fun n j => n + cardWarps c j) 0).getD 0

/-- QSUB at launch, in a block with a run-ahead processor and in another (R203). -/
def launchQsub (rap : Bool) : BitVec 8 := if rap then 0xFF else 0x00

/-- Warp `i` of a block at launch (R187, R189, R195). -/
def launchWarp (s : State) (b : Block) (c : BitVec 2048) (rap : Bool) (i : Nat) : Warp :=
  let u := i / cardTwins c
  let p := unitPlace (cardSpan c) u
  let core := b.core.toNat + p.1
  let before := ((List.range i).filter fun j => unitPlace (cardSpan c) (j / cardTwins c) = p).length
  { Warp.empty with
    wid := s.hub.nextWid + i, ctx := b.ctx, bid := b.bid, node := b.node, widx := BitVec.ofNat 8 i
    stage := BitVec.ofNat 3 (unitStage c u), twin := cardAccord c && i % 2 = 1, span := BitVec.ofNat 2 p.1, core := BitVec.ofNat 8 core
    part := BitVec.ofNat 2 p.2, slot := BitVec.ofNat 4 ((freeSlotsIn s core p.2).getD before 0), pc := b.code + 4#80, enter := true
    status := .running, claimed := BitVec.ofNat 29 (2 ^ cardBlocks c - 1), qsub := launchQsub rap }

/-- The run-ahead processor's first instruction, when word 1 of the code is a rapent (R249); code that cannot be fetched has none, and its
warps meet the fault. -/
def rapTarget (s : State) (x : Ctx) (code : VA) : HubRun (Option VA) :=
  match hubPlace s x .fetch (code + 4#80).toNat with
  | .error none => .error none
  | .error (some _) => .ok none
  | .ok (s, p) =>
    if p.attr = aWos && wosState s.m p.pa ≠ .published then .error none
    else
      match decodeWord (BitVec.ofNat 32 (homeNat (recallRange s.m p.pa 4) p.pa 4)) with
      | .ok (.rapent o w) => .ok (some (branchTarget (code + 4#80) o w))
      | _ => .ok none

/-- The run-ahead processor at launch (R202, R225). -/
def launchRap (b : Block) (wid : Nat) (pc : VA) : Warp :=
  { Warp.empty with
    wid := wid, ctx := b.ctx, bid := b.bid, node := b.node, widx := 0xFF#8, rap := true, core := b.core, part := b.bslot.setWidth 2
    pc := pc, enter := true, status := .running }

/-- Block `i` of a grid, before its warps. -/
def launchRecord (s : State) (n : Node) (seq : DWord) (i core : Nat) (members : List (BitVec 10)) : Block :=
  let c := n.card
  { Block.empty with
    bid := s.hub.nextBid, ctx := n.ctx, node := seq, x := BitVec.ofNat 20 (i % cardX c), y := BitVec.ofNat 20 (i / cardX c % cardY c)
    z := BitVec.ofNat 20 (i / (cardX c * cardY c)), core := BitVec.ofNat 8 core, span := BitVec.ofNat 2 (cardSpan c)
    bslot := freeBslot s core (cardSpan c), portion := cardPortion c, base := freeBase s core (cardSpan c) (cardPortion c / 128)
    cbank := cardCbank c, htab := cardHtab c, code := BitVec.ofNat 80 (cardCode c), accord := cardAccord c
    gcount := BitVec.ofNat 9 (cardGcount c), member := if cardGcount c = 0 then 0#8 else BitVec.ofNat 8 i, gang := cardGang c
    started := cardGcount c = 0, members := members, prot := cardProt c, launched := s.clk }

/-- The image header read again where no warp of the context is resident, since software may then have written it (R397); `none` while the
read must wait. -/
def refreshHeader (s : State) (c : BitVec 16) : Option State :=
  if (allWarps s).any fun w => w.ctx = c && holdsSlot s w then some s
  else match readHeader s (ctxFor s c) with
    | .ok (s, x) => some (putCtx s x)
    | .error none => none
    | .error (some _) => some s

/-! ### Granules of switched-out blocks (R101) -/

/-- A block as an agent on its first core. -/
def asBlock {α : Type} (s : State) (b : Block) (f : State → State × α) : State × α :=
  asAgent s (agentWarp b b.core.toNat 0#32) b (ctxFor s b.ctx) f

/-- The stash lines of a switched-out block that lie in a run of a core's data store and have not been written to the image yet. -/
def linesIn (b : Block) (core lo n : Nat) : List Nat :=
  (List.range (stashRange b / 128)).filter fun l =>
    stashCore b (128 * l) = core && lo ≤ stashLine b (128 * l) && stashLine b (128 * l) < lo + n && !b.awayLines.any fun e => e.1 = l

/-- One of them written to the context image, written back, or dropped, as R101 says. -/
def spillLine (s : State) (bid l : Nat) : State :=
  match blockOf s bid with
  | none => s
  | some b =>
    if (smapOf b l).isSome then
      let s := (asBlock s b fun s => ((s.b.mapped.filter fun q => q.line = l).foldl writeBackMapped s, ())).1
      onBlock s bid fun b => { b with mapped := b.mapped.filter fun q => q.line ≠ l }
    else
      let off := 0x8000000 + 0x100000 * stashCore b (128 * l) + 128 * stashLine b (128 * l)
      let s := hubPost s (ctxFor s b.ctx) (ctxImage (ctxFor s b.ctx) + off) (cellBytes b.stash (128 * l) 128)
      onBlock s bid fun b => { b with awayLines := (l, off) :: b.awayLines }

/-- A block's mapped lines among some whose write-back must wait (R47, R63). -/
def blockStalls (s : State) (b : Block) (lines : List Nat) : Bool :=
  (asBlock s b fun s => (s, s.b.mapped.any fun q => lines.contains q.line && mappedStalls s q)).2

/-- A run of a core's data store taken by a newcomer; `none` while a write-back must wait. -/
def takeGranules (s : State) (core lo n : Nat) : Option State :=
  let out := ((allBlocks s).filter fun b => b.bid ≠ 0 && !ctxResident s b.ctx).map fun b => (b, linesIn b core lo n)
  if out.any fun q => blockStalls s q.1 q.2 then none
  else some (out.foldl (fun s q => q.2.foldl (fun s l => spillLine s q.1.bid l) s) s)

/-- The cores of a placement given up to a newcomer: register slots and granules (R92, R95, R101). -/
def takeCores (k : Shape) (core base : Nat) (s : State) : Option State :=
  (List.range k.span).foldl (fun (r : Option State) p => r.bind fun s =>
    (takeGranules s (core + p) base (k.portion / 128)).map fun s =>
      onCore (takeOn s (core + p) (k.slots p)) (core + p) fun c => { c with granules := c.granules + k.portion / 4096 }) (some s)

/-- A block launched on cores that fit it: register slots, granules and its warps (R89, R92, R95, R186); `none` while an access that the
launch needs must wait (R47, R63). -/
def launchBlock (s : State) (n : Node) (seq : DWord) (i core : Nat) (members : List (BitVec 10)) : Option State :=
  (refreshHeader s n.ctx).bind fun s =>
    let b := launchRecord s n seq i core members
    match rapTarget s (ctxFor s n.ctx) b.code with
    | .error _ => none
    | .ok target =>
      let count := cardTwins n.card * cardUnits n.card
      let ws := (List.range count).map (launchWarp s b n.card target.isSome)
      let rap := target.toList.map (launchRap b (s.hub.nextWid + count))
      (takeCores (cardShape n.card) core b.base s).map fun s =>
        { s with warps := s.warps ++ ws ++ rap, blocks := s.blocks ++ [{ b with hasRap := target.isSome }],
                 hub := { s.hub with nextBid := s.hub.nextBid + 1, nextWid := s.hub.nextWid + count + 1 } }

/-! ### Release (R99, R103, R200, R389, R390) -/

/-- A warp of a block that has nothing left to do or to await. -/
def warpOver (w : Warp) : Bool :=
  (w.status = .done || w.status = .halted) && w.stores.isEmpty && w.unacked.isEmpty && w.loads.isEmpty && w.remotes.isEmpty && w.mat.isNone

/-- Every warp of a block has ended or halted; its run-ahead processor's accesses are complete too (R202). -/
def warpsOver (s : State) (b : Block) : Bool :=
  (allWarps s).all fun w => w.bid ≠ b.bid || w.status = .vacant || warpOver w ||
    (w.rap && w.stores.isEmpty && w.unacked.isEmpty && w.pushes.isEmpty && w.loads.isEmpty && (liveWarps s b.bid).all fun v => v.status = .halted)

/-- Every member of a block's gang has detached (R200). What members on other devices have done no single device shows: a free value (log
entry 14). -/
def gangDetached (s : State) (b : Block) : Bool :=
  ((allWarps s).all fun w => w.rap || w.status = .vacant || w.status = .done || w.status = .halted || w.detached ||
      !((blockOf s w.bid).any fun c => c.ctx = b.ctx && c.gang = b.gang && c.gcount ≠ 0#9)) &&
    (b.members.all (fun d => d = s.fab.ident) || (Config.freeDWord s.clk).getLsbD 1)

/-- A block may be released: its warps and its warps' commands are over, no write-back of its mapped lines must wait, and of a gang every
member has detached. -/
def blockOver (s : State) (b : Block) : Bool :=
  warpsOver s b && !blockStalls s b (b.mapped.map (·.line)) && (s.cmds.all fun c => c.bid ≠ b.bid || match c.issuer with
      | .warp _ => false
      | .node _ => true) && (b.gcount = 0#9 || gangDetached s b)

/-- What a halted warp still holds given back, its undelivered records appended to the ring (R389, R390). -/
def endHalted (w : Warp) (s : State) : State :=
  if w.status = .halted then
    withWarp s w.wid fun s =>
      let s := flushLate (freeSlots s w.core.toNat (popNat 29 w.claimed.toNat)) w.late
      { s with w := { s.w with status := .done, claimed := 0#29, late := [] } }
  else s

/-- The tile-table entries of a block released (R103). -/
def clearTiles (b : Block) (c : CoreState) : CoreState :=
  { c with tiles := c.tiles.map fun e => if tDef e && tBslot e = b.bslot.toNat then 0xFF00#64 else e }

/-- A block and its warps removed. -/
def dropBlock (s : State) (bid : Nat) : State :=
  let s := { s with warps := s.warps.filter fun w => w.bid ≠ bid, blocks := s.blocks.filter fun c => c.bid ≠ bid }
  if s.w.bid = bid then { s with w := Warp.empty, b := Block.empty }
  else if s.b.bid = bid then { s with b := Block.empty } else s

/-- A block released: its IP mapped lines written back, its granules and tile-table entries freed (R99, R103). -/
def releaseBlock (s : State) (b : Block) : State :=
  let s := (blockWarpsOf s b.bid).foldl (fun s w => endHalted w s) s
  let b := (blockOf s b.bid).getD b
  let s := (asBlock s b fun s => (b.mapped.foldl writeBackMapped s, ())).1
  let s := (spanCores b.core.toNat b.span.toNat).foldl (fun s c => onCore s c fun k =>
    { clearTiles b k with granules := k.granules - b.portion / 4096, claims := k.claims.filter fun q => (warpOf s q.wid).any fun w => w.bid ≠ b.bid }) s
  { dropBlock s b.bid with hub := { s.hub with nodes := s.hub.nodes.map fun n =>
      if n.seq = b.node && n.ctx = b.ctx then { n with ended := n.ended + 1 } else n } }
where
  blockWarpsOf (s : State) (bid : Nat) : List Warp := (allWarps s).filter fun w => w.bid = bid && w.status ≠ .vacant

/-- Every block that may be released is, its context being resident. -/
def releaseBlocks (s : State) : State :=
  (allBlocks s).foldl (fun s b => if b.bid ≠ 0 && ctxResident s b.ctx && blockOver s b then releaseBlock s b else s) s

end Sys2Proof.Machine
end

