-- ==== Sys2Proof/Machine/Sched.lean ====
section
/-!
DEFINITION. The ready pool (spec/09, R220 to R222, R466): the choice of the next dispatch, dispatch, aging, the completion of a node, the
node watchdog, and the launch of tether gangs (R223; spec/08, R198 to R200).
-/
namespace Sys2Proof.Machine

/-! ### What is left to dispatch (R220, R221, R223) -/

/-- The members of a gang that this device holds, by number: those whose device it is (R223). -/
def heldMembers (s : State) (ds : List (BitVec 10)) : List Nat := (List.range ds.length).filter fun i => ds.getD i 0#10 = s.fab.ident

/-- The reservation that a node stands for is held here and not acknowledged yet, and members of it are still to be dispatched. -/
def membersLeft (s : State) (n : Node) : Bool :=
  s.hub.reservation.any (fun r => r.journal = n.seq && !r.acked) && n.dispatched < (heldMembers s n.gangDevs).length

/-- A ready node that has not been fully dispatched, a gang's launch at its leader and its members at their devices among them. -/
def waitsForUnits (s : State) (n : Node) : Bool :=
  !n.stopped &&
    if n.leader.isSome then membersLeft s n
    else
      (n.state = .ready || n.state = .running) &&
        match cardKind n.card with
        | 0 => if cardGcount n.card = 0 then n.dispatched < cardGrid n.card else n.attempt = 0
        | 6 => false
        | _ => n.dispatched = 0

/-! ### Effective priority (R220) -/

/-- PRIO plus one for each full millisecond since the node became ready, at most 7. -/
def agedPrio (s : State) (n : Node) : BitVec 3 := BitVec.ofNat 3 (min 7 ((cardPrio n.card).toNat + (wall s - n.readySince) / 1000000))

/-- The effective priority of a node; one that is fully dispatched keeps what it had. -/
def effPrio (s : State) (n : Node) : BitVec 3 := if waitsForUnits s n then agedPrio s n else n.prio

/-- PRIORITY_AGING (R220): the effective priorities noted. -/
def execPriorityAging (s : State) : Host.Outcome State Fault Refusal :=
  .next { s with hub := { s.hub with nodes := s.hub.nodes.map fun n => { n with prio := effPrio s n } } }

/-! ### The next dispatch (R220, R221) -/

/-- The command of a node of KIND 1 to 5 (R213). -/
def nodeCmd (s : State) (n : Node) : Cmd :=
  { id := s.hub.nextCmd, func := cardFunc n.card, reply := true, d := 0#6, opd := cardOpd n.card, opa := cardOpa n.card, opb := cardOpb n.card,
    issuer := .node n.seq, ctx := n.ctx, bid := 0, core := 0#8, handles := [], htab := cardHtab n.card, unit := 0xFF, started := false,
    fills := [], reads := [], writes := [], flag := none, pc := 0#80, active := 0#64, prot := cardProt n.card, since := 0, parkedAt := none,
    stopping := false }

/-- The node may be dispatched at all: its context is not stopped and, for blocks, is on the device (R222, R395). -/
def mayDispatch (s : State) (n : Node) : Bool :=
  waitsForUnits s n && !s.hub.stopped.contains n.ctx &&
    (cardKind n.card ≠ 0 || (cardGcount n.card ≠ 0 && n.leader.isNone) || (ctxResident s n.ctx && !(ctxFor s n.ctx).leaving))

/-- A unit of the kind is idle, or a set of cores admits the next block; migrate and collective commands go behind earlier ones, and the launch
of a gang needs no unit of the leader's (R221, R223). -/
def nodeFits (s : State) (n : Node) : Bool :=
  match cardKind n.card with
  | 0 => (cardGcount n.card ≠ 0 && n.leader.isNone) || (placeOf s (cardShape n.card)).isSome
  | 2 | 5 => true
  | _ =>
    let us := cmdUnits (nodeCmd s n)
    us.any (fun u => !unitBusy s u) &&
      !(s.cmds.any fun c => !c.started && c.issuer ≠ .node n.seq && (cmdUnits c).any us.contains && match c.issuer with
        | .node _ => true
        | .warp _ => false)

/-- The place of a node in the order of consideration: priority, then queues round-robin, then acceptance. -/
def nodeRank (s : State) (n : Node) : Nat := ((7 - (effPrio s n).toNat) * 1024 + (n.queue - s.hub.dispatchTurn).toNat) * 2 ^ 64 + n.seq.toNat

/-- A node put in its place. -/
def insertNode (s : State) (n : Node) : List Node → List Node
  | [] => [n]
  | m :: t => if nodeRank s n ≤ nodeRank s m then n :: m :: t else m :: insertNode s n t

/-- The nodes to consider, in order. -/
def dispatchOrder (s : State) : List Node := (s.hub.nodes.filter (mayDispatch s)).foldr (insertNode s) []

/-- A node passed over for a full millisecond keeps lower effective priorities from its units (R220). -/
def holdsBack (s : State) (m n : Node) : Bool :=
  effPrio s n < effPrio s m && (cardKind m.card = cardKind n.card) && (m.passedSince.any fun t => 1000000 ≤ wall s - t) && !nodeFits s m

/-- The node whose next block or command is dispatched. -/
def dispatchChoice (s : State) : Option Node :=
  let l := dispatchOrder s
  l.find? fun n => nodeFits s n && !(l.any fun m => holdsBack s m n)

/-- A node that may be dispatched and does not fit is passed over from now on, another no longer (R220). -/
def passed (s : State) (n : Node) : Node :=
  if mayDispatch s n && !nodeFits s n then { n with passedSince := some (n.passedSince.getD (wall s)) } else { n with passedSince := none }

/-- Every node so marked. -/
def markPassed (s : State) : State := { s with hub := { s.hub with nodes := s.hub.nodes.map (passed s) } }

/-- A node whose dispatch begins is running, and its watchdog counts from there (R212, R393). -/
def beginNode (s : State) (n : Node) : State :=
  if n.state = .running then s
  else
    let m := { n with state := .running, firstDispatch := some (wall s) }
    journalNode (putNode s m) m

/-- The turn of a queue and the count of its node's blocks or commands after a dispatch. -/
def countDispatch (s : State) (n : Node) : State :=
  onNode { s with hub := { s.hub with dispatchTurn := n.queue + 1#10 } } n.seq fun m => { m with dispatched := m.dispatched + 1, passedSince := none }

/-! ### Gang launch at the leader (R223) -/

/-- GANGTMO in ns. -/
def gangTimeoutNs (s : State) : Nat := bitsNat s.hub.gangcfg 0 16 * 1000

/-- A control message of a gang launch. -/
def gangMessage (s : State) (mop : Byte) (dst : BitVec 10) (seq : DWord) (ctx : BitVec 16) (body : List Byte) (here : Instr) : State :=
  deliverTo s dst here { mop := mop, dst := dst, tag := 0#16, addr := seq.setWidth 80, aux := ctx, body := body }

/-- The devices of a gang map's halfwords, member by member. -/
def memberDevices (ms : List (BitVec 16)) : List (BitVec 10) := ms.map fun m => m.extractLsb' 0 10

/-- An attempt begun: RESERVE to each member device, and the timer (step 1). -/
def sendReserve (s : State) (n : Node) : State :=
  match gangMembers s (ctxFor s n.ctx) n.card with
  | .error none => s
  | .error (some t) => endFaulted s n t
  | .ok (s, ms) =>
    let ds := (memberDevices ms).eraseDups
    let s := onNode s n.seq fun m =>
      { m with attempt := m.attempt + 1, awaiting := ds, timer := some (wall s + gangTimeoutNs s), gangDevs := memberDevices ms, passedSince := none }
    ds.foldl (fun s d => gangMessage s 0x27 d n.seq n.ctx (bytesOfNat 256 n.card.toNat) (.reserve s.fab.ident n.seq n.ctx n.card)) s

/-- The node number that a reservation's blocks bear: the leader's own command, or the reservation's number (R212). -/
def Reservation.node (s : State) (r : Reservation) : DWord := if r.leader = s.fab.ident then r.seq else r.journal

/-- The next member of the gang that this device holds dispatched, parked at its entry (step 2). -/
def dispatchMember (s : State) (n : Node) (core : Nat) : State :=
  match s.hub.reservation, (heldMembers s n.gangDevs)[n.dispatched]? with
  | some r, some i => (launchBlock s n (r.node s) i core n.gangDevs).elim s fun s => countDispatch s n
  | _, _ => s

/-- One block or command of a node dispatched; nothing yet where an access that it needs must wait. -/
def dispatchNode (s : State) (n : Node) : State :=
  if cardKind n.card = 0 then
    if n.leader.isNone && cardGcount n.card ≠ 0 then sendReserve s n
    else
      match placeOf s (cardShape n.card) with
      | none => s
      | some core =>
        if n.leader.isSome then dispatchMember s n core
        else (launchBlock (countDispatch (beginNode s n) n) n n.seq n.dispatched core []).getD s
  else
    let c := nodeCmd s n
    let s := countDispatch (beginNode s n) n
    startCmds { s with cmds := s.cmds ++ [c], hub := { s.hub with nextCmd := s.hub.nextCmd + 1 } }

/-- NODE_DISPATCH (R220, R221); not during a cut (R169). -/
def execNodeDispatch (s : State) : Host.Outcome State Fault Refusal :=
  .next (if hubHeld s.hub then s else match dispatchChoice s with
    | none => s
    | some n => dispatchNode s n)

/-! ### Completion (R222) -/

/-- A command or a block of a node is on the device. -/
def nodeOn (s : State) (n : Node) : Bool :=
  (allBlocks s).any (fun b => b.bid ≠ 0 && b.ctx = n.ctx && b.node = n.seq) || s.cmds.any fun c => c.issuer = .node n.seq

/-- A node has nothing left to do: a kernel's blocks have all ended, a command has ended, a sync node is ready; a stopped node holds
nothing any more. -/
def nodeOver (s : State) (n : Node) : Bool :=
  !nodeOn s n &&
    match n.leader with
    | some l => n.committed && (l ≠ s.fab.ident || (nodeOf s n.count).isNone)
    | none =>
      if n.stopped then true
      else match cardKind n.card with
        | 0 => if cardGcount n.card = 0 then n.dispatched = cardGrid n.card
               else n.committed && (0 < n.ended || (Config.freeDWord s.clk).getLsbD 1)
        | 6 => n.state = .ready
        | _ => n.ended = 1

/-- NODE_COMPLETE (R222, R218); not once a cut has been reported (R169). -/
def execNodeComplete (seq : BitVec 64) (s : State) : Host.Outcome State Fault Refusal :=
  .next (match nodeOf s seq with
    | none => s
    | some n => if nodeOver s n && !hubSealed s.hub then refreshReady (completeNode s n) else s)

/-! ### The node watchdog (R222, R466) -/

/-- A command stopped (R466): one that has not started is dropped, another ends after the part in progress. -/
def stopCmd (s : State) (c : Cmd) : State :=
  if c.started then putCmd s { c with stopping := true } else { s with cmds := s.cmds.filter fun q => q.id ≠ c.id }

/-- The command belongs to a node, by itself or through the warp that issued it. -/
def cmdOfNode (s : State) (n : Node) (c : Cmd) : Bool :=
  match c.issuer with
  | .node k => k = n.seq
  | .warp w => (warpOf s w).any fun w => w.ctx = n.ctx && w.node = n.seq

/-- The node has run for longer than WDOG, and something of it is still to be stopped. -/
def watchdogDue (s : State) (n : Node) : Bool :=
  ctxWdog (ctxFor s n.ctx) ≠ 0 && (!n.stopped || s.cmds.any fun c => cmdOfNode s n c && !c.stopping) &&
    n.firstDispatch.any fun t => ctxWdog (ctxFor s n.ctx) * 1000000 < wall s - t

/-- A read of a halted warp that is parked on a WOS line is withdrawn (R466). -/
def withdrawParked (w : Warp) : Warp := { w with loads := w.loads.filter fun p => !p.parked }

/-- A node stopped: its warps halt and its commands stop (R466). -/
def stopRunning (s : State) (n : Node) : State :=
  let s := (s.cmds.filter (cmdOfNode s n)).foldl stopCmd s
  mapWarps (stopNode s n.ctx n.seq) fun w => if w.ctx = n.ctx && w.node = n.seq then withdrawParked (haltWarp n.ctx n.seq w) else w

/-- NODE_WATCHDOG (R466). -/
def execNodeWatchdog (seq : BitVec 64) (s : State) : Host.Outcome State Fault Refusal :=
  .next (match nodeOf s seq with
    | none => s
    | some n => if watchdogDue s n then stopRunning (faultNode s (ctxFor s n.ctx) seq { code := cTimer, detail := 0x01 }) n else s)

/-! ### The rest of a gang launch (R223) -/

/-- A ready gang node whose launch may begin. -/
def gangWaits (s : State) (n : Node) : Bool :=
  n.state = .ready && !n.stopped && n.leader.isNone && cardKind n.card = 0 && cardGcount n.card ≠ 0 && !n.committed &&
    !s.hub.stopped.contains n.ctx

/-- GANG_RESERVE (R223, step 1), when it is the node's turn (R220). -/
def execGangReserve (seq : BitVec 64) (s : State) : Host.Outcome State Fault Refusal :=
  .next (match nodeOf s seq with
    | none => s
    | some n =>
      if gangWaits s n && n.attempt = 0 && !hubHeld s.hub && (dispatchChoice s).any (fun m => m.seq = seq) then sendReserve s n else s)

/-- GANG_RETRY (step 4): the delay after a timeout has passed. -/
def execGangRetry (seq : BitVec 64) (s : State) : Host.Outcome State Fault Refusal :=
  .next (match nodeOf s seq with
    | none => s
    | some n => if gangWaits s n && !hubHeld s.hub && 0 < n.attempt && n.awaiting.isEmpty && n.timer.any (fun t => t ≤ wall s) then sendReserve s n else s)

/-- A message of one kind to every device that the attempt reserved. -/
def tellMembers (s : State) (n : Node) (mop : Byte) (here : Instr) : State :=
  n.gangDevs.eraseDups.foldl (fun s d => gangMessage s mop d n.seq n.ctx [] here) s

/-- GANG_TIMEOUT (steps 4 and 5). -/
def execGangTimeout (seq : BitVec 64) (s : State) : Host.Outcome State Fault Refusal :=
  .next (match nodeOf s seq with
    | none => s
    | some n =>
      if n.committed || n.awaiting.isEmpty || !n.timer.any (fun t => t ≤ wall s) then s
      else
        let s := tellMembers (takeSeq s).1 n 0x29 (.grelease s.fab.ident n.seq)
        if 4 ≤ n.attempt then
          endFaulted s { n with awaiting := [], timer := none } { code := cGangAbort, detail := 0x00 }
        else onNode s seq fun m => { m with awaiting := [], timer := some (wall s + n.attempt * gangTimeoutNs s) })

/-- GANG_ACKNOWLEDGEMENT (step 3): the last one before the timer ends commits the launch. -/
def execGangAcknowledgement (seq : BitVec 64) (member : BitVec 10) (s : State) : Host.Outcome State Fault Refusal :=
  .next (match nodeOf s seq with
    | none => s
    | some n =>
      if n.committed || !n.awaiting.contains member || n.timer.any (fun t => t ≤ wall s) then s
      else
        let rest := n.awaiting.filter (· ≠ member)
        if !rest.isEmpty then onNode s seq fun m => { m with awaiting := rest }
        else
          let s := onNode (takeSeq s).1 seq fun m => { m with awaiting := [], timer := none, committed := true }
          let s := beginNode s { n with awaiting := [], timer := none, committed := true }
          tellMembers s n 0x28 (.gcommit s.fab.ident n.seq))

/-! ### A member device of a gang (R223, steps 2 to 4) -/

/-- The next waiting RESERVE taken up: journalled with RES (step 2). -/
def takeReservation (s : State) : State :=
  match s.hub.reservation, s.hub.waiting with
  | none, r :: rest =>
    let (s, j) := nextSeq s
    let n : Node :=
      { seq := j, ctx := r.ctx, queue := 0#10, count := r.seq, card := r.card, state := .accepted, edges := [], latched0 := true, latched1 := true,
        prio := cardPrio r.card, readySince := wall s, dispatched := 0, ended := 0, firstDispatch := none, fcode := 0#8, detail := 0#8, attempt := 0,
        awaiting := [], timer := none, committed := false, gangDevs := [], wall := BitVec.ofNat 64 (wall s), stopped := false, qdesc := 0#512,
        leader := some r.leader, passedSince := none }
    journalCard { s with hub := { s.hub with reservation := some { r with journal := j }, waiting := rest, nodes := s.hub.nodes ++ [n] } } n
  | _, _ => s

/-- The held reservation served: its gang map is read, its members are dispatched as other nodes are, and the leader is told once all are
(step 2). -/
def serveReservation (s : State) : State :=
  if hubHeld s.hub then s
  else
    let s := takeReservation s
    match s.hub.reservation with
    | none => s
    | some r =>
      match nodeOf s r.journal with
      | none => s
      | some n =>
        if r.acked then s
        else if n.gangDevs.isEmpty then
          match gangMembers s (ctxFor s r.ctx) r.card with
          | .ok (s, ms) => onNode s n.seq fun m => { m with gangDevs := memberDevices ms }
          | .error _ => s
        else if n.dispatched = (heldMembers s n.gangDevs).length then
          gangMessage { s with hub := { s.hub with reservation := some { r with acked := true } } } 0x06 r.leader r.seq r.ctx []
            (.gangAcknowledgement r.seq s.fab.ident)
        else s

/-- RESERVE (step 2): served in arrival order. -/
def execReserve (leader : BitVec 10) (seq : BitVec 64) (ctx : BitVec 16) (card : BitVec 2048) (s : State) : Host.Outcome State Fault Refusal :=
  .next (serveReservation { s with hub := { s.hub with
    waiting := s.hub.waiting ++ [{ leader := leader, seq := seq, ctx := ctx, card := card, journal := 0#64, acked := false }] } })

/-- The reservation of a launch. -/
def reservationOf (s : State) (leader : BitVec 10) (seq : DWord) : Option Reservation :=
  s.hub.reservation.filter fun r => r.leader = leader && r.seq = seq

/-- GCOMMIT (step 3): the members begin, and the reservation is free. -/
def execGcommit (leader : BitVec 10) (seq : BitVec 64) (s : State) : Host.Outcome State Fault Refusal :=
  .next (match reservationOf s leader seq with
    | none => s
    | some r =>
      let s := mapBlocks s fun b => if b.ctx = r.ctx && b.node = r.node s && !b.started then { b with started := true } else b
      let s := { s with hub := { s.hub with reservation := none } }
      match nodeOf s r.journal with
      | none => s
      | some n => beginNode (putNode s { n with committed := true }) { n with committed := true })

/-- GRELEASE (step 4): the reservation is freed, and its members leave. -/
def execGrelease (leader : BitVec 10) (seq : BitVec 64) (s : State) : Host.Outcome State Fault Refusal :=
  .next (match reservationOf s leader seq with
    | none => { s with hub := { s.hub with waiting := s.hub.waiting.filter fun r => !(r.leader = leader && r.seq = seq) } }
    | some r =>
      let bs := (allBlocks s).filter fun b => b.bid ≠ 0 && b.ctx = r.ctx && b.node = r.node s && !b.started
      let s := bs.foldl (fun s b => releaseBlock (mapWarps s fun w => if w.bid = b.bid then haltWarp b.ctx b.node w else w) b) s
      let s := { s with hub := { s.hub with reservation := none, nodes := s.hub.nodes.filter fun n => n.seq ≠ r.journal,
                                            gaps := s.hub.gaps ++ [r.journal] } }
      settleJhead s)

end Sys2Proof.Machine
end

