-- ==== Sys2Proof/Machine/Image.lean ====
section
/-!
DEFINITION. How on-chip state is written as bytes where the spec gives no layout: the internal areas of a warp's record and of a block's
record in the context image (spec/14, R397, R399), and the hub's scheduling state in the firmware reservation (spec/07, R169). The order and
the widths of the parts are the model's own (log entry 52).
-/
namespace Sys2Proof.Machine

/-! ### Parts -/

/-- How a value is written as bytes, and read from the front of some. -/
structure Codec (α : Type) where
  put : α → List Byte
  get : List Byte → α × List Byte

/-- A number of `n` bytes. -/
def cNat (n : Nat) : Codec Nat := ⟨bytesOfNat n, fun bs => (natOfBytes (bs.take n), bs.drop n)⟩
/-- A value through another one. -/
def cMap {α β : Type} (c : Codec α) (f : α → β) (g : β → α) : Codec β := ⟨fun b => c.put (g b), fun bs => ((f (c.get bs).1), (c.get bs).2)⟩
/-- Two values, one after the other. -/
def both {α β : Type} (c : Codec α) (d : Codec β) : Codec (α × β) :=
  ⟨fun p => c.put p.1 ++ d.put p.2, fun bs =>
    let a := c.get bs
    let b := d.get a.2
    ((a.1, b.1), b.2)⟩
/-- A bit vector in whole bytes. -/
def cBits (w : Nat) : Codec (BitVec w) := cMap (cNat ((w + 7) / 8)) (BitVec.ofNat w) BitVec.toNat
/-- A truth value. -/
def cBool : Codec Bool := cMap (cNat 1) (· = 1) Bool.toNat
/-- Names, clocks and counts. -/
def cId : Codec Nat := cNat 8
/-- `n` values read. -/
def getMany {α : Type} (c : Codec α) : Nat → List Byte → List α × List Byte
  | 0, bs => ([], bs)
  | n + 1, bs =>
    let a := c.get bs
    let r := getMany c n a.2
    (a.1 :: r.1, r.2)
/-- A list: its length, then its elements. -/
def cList {α : Type} (c : Codec α) : Codec (List α) :=
  ⟨fun l => bytesOfNat 8 l.length ++ l.flatMap c.put, fun bs => getMany c (natOfBytes (bs.take 8)) (bs.drop 8)⟩
/-- A value that may be absent. -/
def cOpt {α : Type} (c : Codec α) : Codec (Option α) := cMap (cList c) List.head? Option.toList
/-- A vector, with what stands where a byte is missing. -/
def cVec {α : Type} (n : Nat) (d : α) (c : Codec α) : Codec (Vector α n) :=
  ⟨fun v => v.toList.flatMap c.put, fun bs =>
    let r := getMany c n bs
    (vecOf n fun i => r.1.getD i.val d, r.2)⟩

/-- A field of a record: how it is written, where it stands, and the record with another value in it. -/
def field {α β : Type} (c : Codec β) (f : α → β) (set : β → α → α) : (α → List Byte) × (α → List Byte → α × List Byte) :=
  (fun a => c.put (f a), fun a bs => (set (c.get bs).1 a, (c.get bs).2))

/-- The fields of a record written, and read into a record. -/
def putFields {α : Type} (l : List ((α → List Byte) × (α → List Byte → α × List Byte))) (a : α) : List Byte := l.flatMap fun p => p.1 a
def getFields {α : Type} : List ((α → List Byte) × (α → List Byte → α × List Byte)) → α → List Byte → α
  | [], a, _ => a
  | p :: t, a, bs => getFields t (p.2 a bs).1 (p.2 a bs).2

/-- A record by its fields. -/
def ofFields {α : Type} (d : α) (l : List ((α → List Byte) × (α → List Byte → α × List Byte))) : Codec α :=
  ⟨putFields l, fun bs => l.foldl (fun r p => p.2 r.1 r.2) (d, bs)⟩

/-! ### Waits and stacks -/

/-- A state by its number. -/
def LineState.code : LineState → Nat
  | .m => 0
  | .e => 1
  | .s => 2
  | .u => 3
def lineStateOf (n : Nat) : LineState := match n with
  | 0 => .m
  | 1 => .e
  | 2 => .s
  | _ => .u

/-- The waits that carry nothing, by number from 1. -/
def plainParks : List Park :=
  [.flags, .interlock, .storeQueue, .accg, .reord, .tile, .wos, .tattach, .accord, .sleep, .detach, .fence, .matrix, .gang, .scoreboard, .splinter,
    .requests]

/-- What a warp waits for, as three numbers. -/
def parkCode : Park → Nat × Nat × Nat
  | .barrier o t => (32, o, t.toNat)
  | .claim b => (33, b.toNat, 0)
  | .queue q => (34, q.toNat, 0)
  | .refill b => (35, b.toNat, 0)
  | .line a l w => (36 + w.code, a, l)
  | p => ((plainParks.findIdx? (· = p)).getD 0 + 1, 0, 0)
def parkOf (t : Nat × Nat × Nat) : Park :=
  match t.1 with
  | 32 => .barrier t.2.1 (t.2.2 = 1)
  | 33 => .claim (BitVec.ofNat 29 t.2.1)
  | 34 => .queue (BitVec.ofNat 3 t.2.1)
  | 35 => .refill (BitVec.ofNat 29 t.2.1)
  | n => if 36 ≤ n then .line t.2.1 t.2.2 (lineStateOf (n - 36)) else plainParks.getD (n - 1) .flags

def cPark : Codec Park := cMap (both (cNat 1) (both cId cId)) parkOf parkCode
def cStatus : Codec Status :=
  cMap (both (cNat 1) cPark) (fun t => match t.1 with
      | 0 => .vacant
      | 1 => .running
      | 2 => .parked t.2
      | 3 => .done
      | _ => .halted)
    (fun s => match s with
      | .vacant => (0, .flags)
      | .running => (1, .flags)
      | .parked p => (2, p)
      | .done => (3, .flags)
      | .halted => (4, .flags))

def cPath : Codec PathCtx :=
  cMap (both (cBits 80) (both cBool (both (cBits 64) (both (cBits 64) (both (cOpt (cBits 80)) (both cStatus (both cId cBool)))))))
    (fun (pc, enter, exec, m, rp, status, since, woken) => ⟨pc, enter, 0#512, exec, m, rp, status, since, woken⟩)
    (fun c => (c.pc, c.enter, c.exec, c.m, c.rp, c.status, c.since, c.woken))

/-- KIND of a stack entry (R193). -/
def EntryKind.code : EntryKind → Nat
  | .join => 0
  | .path => 1
  | .call => 2
  | .trap => 3
def entryKindOf (n : Nat) : EntryKind := match n with
  | 0 => .join
  | 1 => .path
  | 2 => .call
  | _ => .trap

/-- What a stack entry has beside the 32 bytes of R193. -/
def cEntryRest : Codec (Mask × Bool × Bool × Option PathCtx) := both (cBits 64) (both cBool (both cBool (cOpt cPath)))

/-! ### Accesses that wait -/

def cPlace : Codec Place :=
  cMap (both cBool (both cId (both cId (both (cBits 80) (both (cBits 2) (cBits 7))))))
    (fun (st, off, pa, va, attr, key) => ⟨st, off, pa, va, attr, key⟩) (fun p => (p.stash, p.off, p.pa, p.va, p.attr, p.key))
def cAtom : Codec AtomJob :=
  cMap (both cPlace (both (cBits 3) (both (cBits 4) (both cId (both (cBits 64) (cBits 64))))))
    (fun (p, op, t, n, x, y) => ⟨p, op, t, n, x, y⟩) (fun a => (a.place, a.op, a.type, a.size, a.x, a.y))
def cPlan : Codec LanePlan :=
  cMap (both (cNat 1) (both (cBits 64) (both (both (cBits 8) (cBits 8)) (both (both (cBits 80) cBool) (both (cList cPlace) (cList cAtom))))))
    (fun (k, v, (c, d), (va, f), ps, as) => match k, ps, as with
      | 0, _, _ => .value v
      | 1, _, _ => .poison c d va f
      | 2, p :: _, _ => .parked p
      | _, _, a :: _ => .atom a
      | _, _, _ => .value v)
    (fun p => match p with
      | .value v => (0, v, (0, 0), (0, false), [], [])
      | .poison c d va f => (1, 0, (c, d), (va, f), [], [])
      | .parked q => (2, 0, (0, 0), (0, false), [q], [])
      | .atom a => (3, 0, (0, 0), (0, false), [], [a]))
def cKind : Codec PendKind :=
  cMap (both (cNat 1) (both cId (both cId cBool)))
    (fun (k, d, n, s) => match k with
      | 0 => .vec d n s
      | 1 => .scalar d n s
      | _ => .tile d)
    (fun k => match k with
      | .vec d n s => (0, d, n, s)
      | .scalar d n s => (1, d, n, s)
      | .tile d => (2, d, 0, false))
def cFlag : Codec (Option (Fin 12)) := cOpt (cMap (cNat 1) (Fin.ofNat 12) Fin.val)
def cLoad : Codec PendLoad :=
  cMap (both cKind (both (cList (both cId cPlan)) (both (cList cId) (both cFlag (both (cBits 80) (both cId (both cBool (both (cOpt (cBits 3)) (cBits 4)))))))))
    (fun (k, js, rs, f, pc, t, a, r, h) => ⟨k, js.map fun j => ⟨j.1, j.2⟩, rs, f, pc, t, a, r, h⟩)
    (fun l => (l.kind, l.jobs.map (fun j => (j.lane, j.plan)), l.regs, l.flag, l.pc, l.since, l.acquire, l.rel, l.hreg))
def cHandle : Codec Handle :=
  cMap (both cBool (both cBool (both (cBits 16) (both (cBits 41) (both (cBits 52) (both (cBits 512) (both cBool (cBits 128))))))))
    (fun (b, t, i, w, f, e, rw, l) => ⟨b, t, i, w, f, e, rw, l⟩) (fun h => (h.bound, h.tbl, h.index, h.win, h.frame, h.entry, h.regionW, h.leaf))
def cMatReq : Codec MatReq :=
  ofFields { id := 0, paired := false, reads := [], form := 0, acc := 0, z := false, handleA := Handle.unbound, handleB := Handle.unbound, hregA := 0,
             hregB := 0, coordA := [], coordB := [], diag := 0, fill := 0, active := 0, skip := 0, flag := none, pc := 0 }
    [field cId (·.id) (fun v q => { q with id := v }), field cBool (·.paired) (fun v q => { q with paired := v }),
     field (cList (both cId cId)) (·.reads) (fun v q => { q with reads := v }), field (cBits 2) (·.form) (fun v q => { q with form := v }),
     field (cNat 1) (·.acc.val) (fun v q => { q with acc := Fin.ofNat 4 v }), field cBool (·.z) (fun v q => { q with z := v }),
     field cHandle (·.handleA) (fun v q => { q with handleA := v }), field cHandle (·.handleB) (fun v q => { q with handleB := v }),
     field (cBits 4) (·.hregA) (fun v q => { q with hregA := v }), field (cBits 4) (·.hregB) (fun v q => { q with hregB := v }),
     field (cList cId) (·.coordA) (fun v q => { q with coordA := v }), field (cList cId) (·.coordB) (fun v q => { q with coordB := v }),
     field (cBits 64) (·.diag) (fun v q => { q with diag := v }), field (cBits 64) (·.fill) (fun v q => { q with fill := v }),
     field (cBits 64) (·.active) (fun v q => { q with active := v }), field (cBits 64) (·.skip) (fun v q => { q with skip := v }),
     field cFlag (·.flag) (fun v q => { q with flag := v }), field (cBits 80) (·.pc) (fun v q => { q with pc := v })]

/-- A row of an accumulator tile read from its 256 bytes (R399). -/
def accRowOf (f64 : Bool) (old : AccRow) (n : Nat) : AccRow :=
  { old with elems := vecOf 64 fun c =>
      if !f64 then BitVec.ofNat 64 (n / 2 ^ (32 * c.val) % 2 ^ 32) else if c.val < 32 then BitVec.ofNat 64 (n / 2 ^ (64 * c.val)) else old.elems[c] }

def cRowBits : Codec (Bool × Byte) := both cBool (cBits 8)
/-- A tile: its tag, the poison of its rows, and their elements in 256 bytes each. -/
def cAcc : Codec Acc :=
  cMap (both cBool (both (cVec 64 (false, 0#8) cRowBits) (cVec 64 0 (cNat 256))))
    (fun (f, ps, rs) => { f64 := f, rows := vecOf 64 fun r => accRowOf f { elems := Vector.replicate 64 0#64, poison := ps[r].1, code := ps[r].2 } rs[r] })
    (fun a => (a.f64, a.rows.map (fun r => (r.poison, r.code)), a.rows.map fun r => natOfBytes (accRowImage a r)))
def cRowState : Codec RowState :=
  cMap (both (both (cBits 32) (cBits 32)) (both (both (cBits 32) (cBits 32)) cRowBits)) (fun ((a, b), (c, d), (p, k)) => ⟨a, b, c, d, p, k⟩)
    (fun r => ((r.max, r.sum), (r.sumc, r.corr), (r.poison, r.code)))
/-- An accepted matrix or ACC instruction (R355, R356). -/
def cMatWork : Codec MatWork :=
  cMap (both (both (cNat 1) cAcc) (both (cVec 64 RowState.launch cRowState) (both (both cId (cBits 2)) (both (cBits 8) (both (both cId cId) cFlag)))))
    (fun ((c, t), (r, ((z, f), (d, ((n, p), g))))) => ⟨Fin.ofNat 4 c, t, r, z, f, d, n, p, g⟩)
    (fun k => ((k.acc.val, k.tile), (k.rowState, ((k.zeroAdd, k.form), (k.done, ((k.since, k.step), k.flag))))))

/-! ### A warp -/

def cScalar : Codec Scalar := cMap (both (cBits 64) cBool) (fun p => ⟨p.1, p.2⟩) (fun x => (x.val, x.poison))
def cLane : Codec Lane := cMap (both (cBits 32) cBool) (fun p => ⟨p.1, p.2⟩) (fun x => (x.val, x.poison))

/-- What names a warp and says where it is. -/
def warpNames : List ((Warp → List Byte) × (Warp → List Byte → Warp × List Byte)) :=
  [field cId (·.wid) (fun v w => { w with wid := v }), field (cBits 16) (·.ctx) (fun v w => { w with ctx := v }),
   field cId (·.bid) (fun v w => { w with bid := v }), field (cBits 64) (·.node) (fun v w => { w with node := v }),
   field (cBits 8) (·.widx) (fun v w => { w with widx := v }), field (cBits 3) (·.stage) (fun v w => { w with stage := v }),
   field cBool (·.twin) (fun v w => { w with twin := v }), field cBool (·.rap) (fun v w => { w with rap := v }),
   field (cBits 2) (·.span) (fun v w => { w with span := v }), field (cBits 8) (·.core) (fun v w => { w with core := v }),
   field (cBits 2) (·.part) (fun v w => { w with part := v }), field (cBits 4) (·.slot) (fun v w => { w with slot := v }),
   field (cBits 29) (·.claimed) (fun v w => { w with claimed := v })]

/-- The internal area at 0x3000 of a warp's record: PC, RP, current masks, flag counters, park, tile tags, row poison and the codes of poisoned
predicates and rows (R399); what entries of the stack have beside R193 follows at 0x4800. -/
def warpInner : List ((Warp → List Byte) × (Warp → List Byte → Warp × List Byte)) :=
  [field (cBits 80) (·.pc) (fun v w => { w with pc := v }), field (cOpt (cBits 80)) (·.rp) (fun v w => { w with rp := v }),
   field (cBits 64) (·.m) (fun v w => { w with m := v }), field (cBits 64) (·.gone) (fun v w => { w with gone := v }),
   field (cVec 12 0#14 (cBits 14)) (·.flags) (fun v w => { w with flags := v }), field cStatus (·.status) (fun v w => { w with status := v }),
   field cId (·.since) (fun v w => { w with since := v }), field cBool (·.woken) (fun v w => { w with woken := v }),
   field cBool (·.yields) (fun v w => { w with yields := v }),
   field (cBits 9) (·.floor) (fun v w => { w with floor := v }), field cBool (·.rowResume) (fun v w => { w with rowResume := v }),
   field (cOpt (cBits 80)) (·.rowAt) (fun v w => { w with rowAt := v }),
   field (cBits 13) (·.accPend) (fun v w => { w with accPend := v }), field (cVec 8 0 cId) (·.qpos) (fun v w => { w with qpos := v }),
   field (cOpt cId) (·.xp) (fun v w => { w with xp := v }), field cBool (·.summary) (fun v w => { w with summary := v }),
   field cBool (·.summaryDone) (fun v w => { w with summaryDone := v }), field (cNat 1) (·.late.length) (fun v w => { w with late := List.replicate v 0 }),
   field cId (·.stack.length) (fun v w => { w with stack := List.replicate v ⟨.join, 0, 0, 0, 0, false, false, none⟩ }),
   field cBool (·.detached) (fun v w => { w with detached := v }), field cId (·.attached) (fun v w => { w with attached := v }),
   field (cBits 29) (·.live) (fun v w => { w with live := v }),
   field (cVec 16 false cBool) (fun w => w.h.map (·.regionW)) (fun v w => { w with h := vecOf 16 fun i => { w.h[i] with regionW := v[i] } }),
   field (cVec 16 (Vector.replicate 64 0#8) (cVec 64 0#8 (cBits 8))) (fun w => w.p.map fun p => p.map (·.code))
     (fun v w => { w with p := vecOf 16 fun i => vecOf 64 fun l => { w.p[i][l] with code := v[i][l] } }),
   field (cVec 64 0#8 (cBits 8)) (fun w => w.rowState.map (·.code)) (fun v w => { w with rowState := vecOf 64 fun i => { w.rowState[i] with code := v[i] } }),
   field (cVec 4 false cBool) (fun w => w.acc.map (·.f64)) (fun v w => { w with acc := vecOf 4 fun i => { w.acc[i] with f64 := v[i] } }),
   field (cVec 4 (Vector.replicate 64 (false, 0#8)) (cVec 64 (false, 0#8) (both cBool (cBits 8))))
     (fun w => w.acc.map fun a => a.rows.map fun r => (r.poison, r.code))
     (fun v w => { w with acc := vecOf 4 fun i => { w.acc[i] with rows := vecOf 64 fun r => { w.acc[i].rows[r] with poison := v[i][r].1, code := v[i][r].2 } } })]

/-- The internal area at 0x4800: a matrix instruction not yet accepted, an accepted one, a REORD arrival, and the stack entries' masks and paths. -/
def warpHeld : List ((Warp → List Byte) × (Warp → List Byte → Warp × List Byte)) :=
  [field (cList cEntryRest) (fun w => w.stack.map fun e => (e.m, e.running, e.pooled, e.other))
     (fun v w => { w with stack := w.stack.zipIdx.map fun q =>
        let r := v.getD q.2 (0, false, false, none)
        { q.1 with m := r.1, running := r.2.1, pooled := r.2.2.1, other := r.2.2.2 } }),
   field (cOpt cMatReq) (·.matReq) (fun v w => { w with matReq := v }), field (cOpt cMatWork) (·.mat) (fun v w => { w with mat := v }),
   field (cList cLane) (·.keys) (fun v w => { w with keys := v }),
   field (cOpt (both (cNat 1) cScalar)) (fun w => w.keyPop.map fun p => (p.1.val, p.2)) (fun v w => { w with keyPop := v.map fun p => (Fin.ofNat 8 p.1, p.2) })]

/-- The state of a run-ahead processor beside those: its scalars and handles, MODE and links, and the pushes that wait (R202, R397). -/
def rapState : List ((Warp → List Byte) × (Warp → List Byte → Warp × List Byte)) :=
  warpNames ++
  [field (cVec 64 Scalar.zero cScalar) (·.s) (fun v w => { w with s := v }), field (cVec 16 Handle.unbound cHandle) (·.h) (fun v w => { w with h := v }),
   field (cBits 32) (·.mode) (fun v w => { w with mode := v }), field (cBits 64) (·.lr) (fun v w => { w with lr := v }),
   field (cBits 16) (·.lrhi) (fun v w => { w with lrhi := v }), field (cBits 80) (·.pc) (fun v w => { w with pc := v }),
   field cStatus (·.status) (fun v w => { w with status := v }), field cId (·.since) (fun v w => { w with since := v }),
   field (cBits 64) (·.cyc) (fun v w => { w with cyc := v }), field (cVec 12 0#14 (cBits 14)) (·.flags) (fun v w => { w with flags := v }),
   field (cList (both (cBits 3) (both cScalar cId))) (·.pushes) (fun v w => { w with pushes := v })]

/-! ### A block, a context, and the hub -/

/-- A run-ahead queue. -/
def cQueue : Codec Queue := cMap (both (cList cScalar) cId) (fun p => ⟨p.1, p.2⟩) (fun q => (q.entries, q.retired))
/-- A filled line of a stash map. -/
def cMapped : Codec MappedLine := cMap (both cId (both cBool (cBits 128))) (fun (l, i, d) => ⟨l, i, d⟩) (fun q => (q.line, q.ip, q.dirty))

/-- A block, its stash bytes and its stash map apart. -/
def blockFields : List ((Block → List Byte) × (Block → List Byte → Block × List Byte)) :=
  [field cId (·.bid) (fun v b => { b with bid := v }), field (cBits 16) (·.ctx) (fun v b => { b with ctx := v }),
   field (cBits 64) (·.node) (fun v b => { b with node := v }), field (cBits 20) (·.x) (fun v b => { b with x := v }),
   field (cBits 20) (·.y) (fun v b => { b with y := v }), field (cBits 20) (·.z) (fun v b => { b with z := v }),
   field (cBits 8) (·.core) (fun v b => { b with core := v }), field (cBits 2) (·.span) (fun v b => { b with span := v }),
   field (cBits 6) (·.bslot) (fun v b => { b with bslot := v }), field cId (·.portion) (fun v b => { b with portion := v }),
   field cId (·.base) (fun v b => { b with base := v }), field (cList cMapped) (·.mapped) (fun v b => { b with mapped := v }),
   field (cVec 8 ⟨[], 0⟩ cQueue) (·.queues) (fun v b => { b with queues := v }), field cBool (·.hasRap) (fun v b => { b with hasRap := v }),
   field (cBits 80) (·.cbank) (fun v b => { b with cbank := v }), field (cBits 80) (·.htab) (fun v b => { b with htab := v }),
   field (cBits 80) (·.code) (fun v b => { b with code := v }), field cBool (·.accord) (fun v b => { b with accord := v }),
   field (cBits 9) (·.gcount) (fun v b => { b with gcount := v }), field (cBits 8) (·.member) (fun v b => { b with member := v }),
   field (cBits 16) (·.gang) (fun v b => { b with gang := v }), field cBool (·.started) (fun v b => { b with started := v }),
   field cBool (·.held) (fun v b => { b with held := v }), field (cList (cBits 10)) (·.members) (fun v b => { b with members := v }),
   field (cBits 2) (·.prot) (fun v b => { b with prot := v }), field (cOpt cId) (·.stuckSince) (fun v b => { b with stuckSince := v }),
   field cId (·.mcast) (fun v b => { b with mcast := v }), field cId (·.launched) (fun v b => { b with launched := v }),
   field (cList (both cId cId)) (·.awayLines) (fun v b => { b with awayLines := v })]
def cBlock : Codec Block := ofFields Block.empty blockFields

/-- A context, its code tables apart, which its image holds (R397). -/
def cCtx : Codec Ctx :=
  ofFields Ctx.empty
    [field (cBits 16) (·.num) (fun v x => { x with num := v }), field (cBits 1024) (·.desc) (fun v x => { x with desc := v }),
     field (cBits 80) (·.trapva) (fun v x => { x with trapva := v }), field cBool (·.cfg) (fun v x => { x with cfg := v }),
     field (cBits 64) (·.swcnt) (fun v x => { x with swcnt := v }), field cBool (·.resident) (fun v x => { x with resident := v }),
     field (cList (both cId (cBits 64))) (·.tilesOut) (fun v x => { x with tilesOut := v }), field cId (·.rclk) (fun v x => { x with rclk := v })]

def nodeStateOf (n : Nat) : NodeState := match n with
  | 0 => .accepted
  | 1 => .ready
  | 2 => .running
  | 3 => .finished
  | _ => .faulted

/-- A node without state, to be filled in. -/
def Node.empty : Node :=
  { seq := 0, ctx := 0, queue := 0, count := 0, card := 0, state := .accepted, edges := [], latched0 := false, latched1 := false, prio := 0, readySince := 0,
    dispatched := 0, ended := 0, firstDispatch := none, fcode := 0, detail := 0, attempt := 0, awaiting := [], timer := none, committed := false, wall := 0,
    gangDevs := [], stopped := false, qdesc := 0, leader := none, passedSince := none }

def cNode : Codec Node :=
  ofFields Node.empty
    [field (cBits 64) (·.seq) (fun v n => { n with seq := v }), field (cBits 16) (·.ctx) (fun v n => { n with ctx := v }),
     field (cBits 10) (·.queue) (fun v n => { n with queue := v }), field (cBits 64) (·.count) (fun v n => { n with count := v }),
     field (cBits 2048) (·.card) (fun v n => { n with card := v }), field (cNat 1) (·.state.code) (fun v n => { n with state := nodeStateOf v }),
     field (cList (cBits 64)) (·.edges) (fun v n => { n with edges := v }), field cBool (·.latched0) (fun v n => { n with latched0 := v }),
     field cBool (·.latched1) (fun v n => { n with latched1 := v }), field (cBits 3) (·.prio) (fun v n => { n with prio := v }),
     field cId (·.readySince) (fun v n => { n with readySince := v }), field cId (·.dispatched) (fun v n => { n with dispatched := v }),
     field cId (·.ended) (fun v n => { n with ended := v }), field (cOpt cId) (·.firstDispatch) (fun v n => { n with firstDispatch := v }),
     field (cBits 8) (·.fcode) (fun v n => { n with fcode := v }), field (cBits 8) (·.detail) (fun v n => { n with detail := v }),
     field cId (·.attempt) (fun v n => { n with attempt := v }), field (cList (cBits 10)) (·.awaiting) (fun v n => { n with awaiting := v }),
     field (cOpt cId) (·.timer) (fun v n => { n with timer := v }), field cBool (·.committed) (fun v n => { n with committed := v }),
     field (cBits 64) (·.wall) (fun v n => { n with wall := v }), field (cList (cBits 10)) (·.gangDevs) (fun v n => { n with gangDevs := v }),
     field cBool (·.stopped) (fun v n => { n with stopped := v }), field (cBits 512) (·.qdesc) (fun v n => { n with qdesc := v }),
     field (cOpt (cBits 10)) (·.leader) (fun v n => { n with leader := v }), field (cOpt cId) (·.passedSince) (fun v n => { n with passedSince := v })]

def cSubQueue : Codec SubQueue :=
  cMap (both (cBits 10) (both (cBits 512) (both (cBits 64) (cBits 64)))) (fun (n, d, h, t) => ⟨n, d, h, t⟩) (fun q => (q.num, q.desc, q.head, q.tail))
def cReservation : Codec Reservation :=
  cMap (both (cBits 10) (both (cBits 64) (both (cBits 16) (both (cBits 2048) (both (cBits 64) cBool)))))
    (fun (l, s, c, k, j, a) => ⟨l, s, c, k, j, a⟩) (fun r => (r.leader, r.seq, r.ctx, r.card, r.journal, r.acked))
def cRetained : Codec Retained :=
  cMap (both (cBits 64) (both (cBits 16) (both cId cBool))) (fun (s, c, i, f) => ⟨s, c, i, f⟩) (fun r => (r.seq, r.ctx, r.interval, r.faulted))
def cIssuer : Codec Issuer :=
  cMap (both cBool (cBits 64)) (fun p => if p.1 then .warp p.2.toNat else .node p.2) (fun i => match i with
    | .warp w => (true, BitVec.ofNat 64 w)
    | .node n => (false, n))

/-- A command without operands, to be filled in. -/
def Cmd.empty : Cmd :=
  { id := 0, func := 0, reply := false, d := 0, opd := 0, opa := 0, opb := 0, issuer := .node 0, ctx := 0, bid := 0, core := 0, handles := [], htab := 0,
    unit := 0, started := false, fills := [], reads := [], writes := [], flag := none, pc := 0, active := 0, prot := 0, since := 0, parkedAt := none,
    stopping := false }
def cCmd : Codec Cmd :=
  ofFields Cmd.empty
    [field cId (·.id) (fun v c => { c with id := v }), field (cBits 7) (·.func) (fun v c => { c with func := v }),
     field cBool (·.reply) (fun v c => { c with reply := v }), field (cBits 6) (·.d) (fun v c => { c with d := v }),
     field (cBits 64) (·.opd) (fun v c => { c with opd := v }), field (cBits 64) (·.opa) (fun v c => { c with opa := v }),
     field (cBits 64) (·.opb) (fun v c => { c with opb := v }), field cIssuer (·.issuer) (fun v c => { c with issuer := v }),
     field (cBits 16) (·.ctx) (fun v c => { c with ctx := v }), field cId (·.bid) (fun v c => { c with bid := v }),
     field (cBits 8) (·.core) (fun v c => { c with core := v }), field (cList cHandle) (·.handles) (fun v c => { c with handles := v }),
     field (cBits 80) (·.htab) (fun v c => { c with htab := v }), field (cBits 8) (·.unit) (fun v c => { c with unit := v }),
     field cBool (·.started) (fun v c => { c with started := v }), field (cList (both cId (cBits 64))) (·.fills) (fun v c => { c with fills := v }),
     field (cList (both cId cId)) (·.reads) (fun v c => { c with reads := v }), field (cList (both cId cId)) (·.writes) (fun v c => { c with writes := v }),
     field cFlag (·.flag) (fun v c => { c with flag := v }), field (cBits 80) (·.pc) (fun v c => { c with pc := v }),
     field (cBits 64) (·.active) (fun v c => { c with active := v }), field (cBits 2) (·.prot) (fun v c => { c with prot := v }),
     field cId (·.since) (fun v c => { c with since := v }), field (cOpt cId) (·.parkedAt) (fun v c => { c with parkedAt := v }),
     field cBool (·.stopping) (fun v c => { c with stopping := v })]

def endCode : MoveEnd → Nat × Byte × Byte
  | .pending => (0, 0, 0)
  | .unchanged => (1, 0, 0)
  | .moved => (2, 0, 0)
  | .abandoned => (3, 0, 0)
  | .lost => (4, 0, 0)
  | .fault c d => (5, c, d)
def endOf (t : Nat × Byte × Byte) : MoveEnd := match t.1 with
  | 0 => .pending
  | 1 => .unchanged
  | 2 => .moved
  | 3 => .abandoned
  | 4 => .lost
  | _ => .fault t.2.1 t.2.2
def cEnd : Codec MoveEnd := cMap (both (cNat 1) (both (cBits 8) (cBits 8))) endOf endCode

def cPhase : Codec MovePhase :=
  cMap (both (cNat 1) (both cEnd (both (both cBool (cBits 2)) (both (cBits 80) cId))))
    (fun (k, e, (t, tier), loc, n) => match k with
      | 0 => .take
      | 1 => .read
      | 2 => .nvmeRead
      | 3 => .write
      | 4 => .nvmeWrite
      | 5 => .publish
      | 6 => .spoil
      | 7 => .giveBack e t
      | 8 => .reclaim tier loc e
      | _ => (match e with
        | .fault c d => .done c d n
        | _ => .done 0 0 n))
    (fun p => match p with
      | .take => (0, .pending, (false, 0), 0, 0)
      | .read => (1, .pending, (false, 0), 0, 0)
      | .nvmeRead => (2, .pending, (false, 0), 0, 0)
      | .write => (3, .pending, (false, 0), 0, 0)
      | .nvmeWrite => (4, .pending, (false, 0), 0, 0)
      | .publish => (5, .pending, (false, 0), 0, 0)
      | .spoil => (6, .pending, (false, 0), 0, 0)
      | .giveBack e t => (7, e, (t, 0), 0, 0)
      | .reclaim tier loc e => (8, e, (false, tier), loc, 0)
      | .done c d n => (9, .fault c d, (false, 0), 0, n))
def cMove : Codec Move :=
  cMap (both (cBits 16) (both (cNat 10) (both (cBits 2) (both (cOpt cId) (both (cBits 128) (both (cBits 80) (both cPhase (both cBool (cList (cBits 8))))))))))
    (fun (c, eva, t, cmd, old, loc, ph, w, im) => ⟨c, eva, t, cmd, old, loc, ph, w, im⟩)
    (fun m => (m.ctx, m.eva, m.dtier, m.cmd, m.old, m.loc, m.phase, m.waited, m.image))
def cSplinter : Codec Splinter :=
  cMap (both cId (both (cBits 128) (both cId (both (cNat 10) cId)))) (fun (p, e, l, b, f) => ⟨p, e, l, b, f⟩) (fun q => (q.pte, q.entry, q.log, q.base, q.frame))
def cPageMove : Codec PageMove :=
  cMap (both cId (both (cOpt cSplinter) (both (cList (both (cNat 10) (both cId cId))) (both (cList (both (cNat 10) cId)) (both (cOpt (cList (cNat 10)))
      (both (cOpt cSplinter) cId))))))
    (fun (c, sp, td, ss, ps, p, n) => ⟨c, sp, td, ss, ps, p, n⟩) (fun q => (q.cmd, q.split, q.todo, q.spans, q.pages, q.page, q.moved))

/-- The bookkeeping of a core, its tile table by the entries in use. -/
def cCore : Codec CoreState :=
  cMap (both cId (both (cList (both (cBits 16) cId)) (both (cList (both cId (both cId (cBits 29)))) (both (cList (both cId (cBits 64))) cId))))
    (fun (f, e, cs, ts, g) =>
      ⟨f, e, cs.map fun q => ⟨q.1, q.2.1, q.2.2⟩, ts.foldl (fun v t => v.set! t.1 t.2) (Vector.replicate 256 0xFF00#64), g⟩)
    (fun c => (c.free, c.evictable, c.claims.map (fun q => (q.wid, q.age, q.blocks)), (c.tiles.toList.zipIdx.filter fun e => tDef e.1).map (fun e => (e.2, e.1)),
      c.granules))

/-- The hub's scheduling state at a cut (R169): contexts, blocks, where their warps are, cores, commands, nodes, queues, reservations, moves, stopped
contexts, and the hub's own counters. The states of warps and stash bytes stand in the context images, their parked loads here. -/
def schedFields : List ((State → List Byte) × (State → List Byte → State × List Byte)) :=
  [field (cList cCtx) (fun s => (allCtxs s).filter fun x => x.desc ≠ 0) (fun v s => { s with ctxs := v }),
   field (cList cBlock) (fun s => (allBlocks s).filter fun b => b.bid ≠ 0) (fun v s => { s with blocks := v }),
   field (cList (ofFields Warp.empty (warpNames ++ [field (cList cLoad) (·.loads) (fun v w => { w with loads := v })]))) (fun s => (allWarps s).filter fun w => w.status ≠ .vacant && w.status ≠ .done)
     (fun v s => { s with warps := v.map fun w => { w with status := .running } }),
   field (cVec 160 CoreState.reset cCore) (·.cores) (fun v s => { s with cores := v }), field (cList cCmd) (·.cmds) (fun v s => { s with cmds := v }),
   field (cList cNode) (·.hub.nodes) (fun v s => { s with hub := { s.hub with nodes := v } }),
   field (cList cSubQueue) (·.hub.queues) (fun v s => { s with hub := { s.hub with queues := v } }),
   field (cList cRetained) (·.hub.retained) (fun v s => { s with hub := { s.hub with retained := v } }),
   field (cOpt cReservation) (·.hub.reservation) (fun v s => { s with hub := { s.hub with reservation := v } }),
   field (cList cReservation) (·.hub.waiting) (fun v s => { s with hub := { s.hub with waiting := v } }),
   field (cList cMove) (·.hub.moves) (fun v s => { s with hub := { s.hub with moves := v } }),
   field (cOpt cPageMove) (·.hub.pageMove) (fun v s => { s with hub := { s.hub with pageMove := v } }),
   field (cList (cBits 16)) (·.hub.stopped) (fun v s => { s with hub := { s.hub with stopped := v } }),
   field (cList (both (cBits 10) (cBits 64))) (·.hub.serials) (fun v s => { s with hub := { s.hub with serials := v } }),
   field (cBits 64) (·.hub.ctxbase) (fun v s => { s with hub := { s.hub with ctxbase := v } }),
   field (cBits 64) (·.hub.qtbase) (fun v s => { s with hub := { s.hub with qtbase := v } }),
   field (cBits 64) (·.hub.gangcfg) (fun v s => { s with hub := { s.hub with gangcfg := v } }),
   field (cBits 64) (·.hub.jtail) (fun v s => { s with hub := { s.hub with jtail := v } }),
   field cId (·.hub.nextCmd) (fun v s => { s with hub := { s.hub with nextCmd := v } }),
   field cId (·.hub.nextBid) (fun v s => { s with hub := { s.hub with nextBid := v } }),
   field cId (·.hub.nextWid) (fun v s => { s with hub := { s.hub with nextWid := v } })]

/-- Where the scheduling state of a cut lies in the reservation, behind the input log (log entry 52). -/
def schedAt (n : Nat) : Nat := inputAt 0 + 160 * journalCap + 2 ^ 26 * (n % 256)

/-- The scheduling state of the cut of the open interval written, with its length before it, and sent to the buddy. -/
def saveSched (s : State) : State :=
  let bs := putFields schedFields s
  hubLog s (schedAt s.m.interval) (bytesOfNat 8 bs.length ++ bs)

/-- The scheduling state of a cut read. -/
def loadSched (s : State) (n : Nat) : State :=
  let len := cellNat s.m.cells (schedAt n) 8
  getFields schedFields s (cellBytes s.m.cells (schedAt n + 8) len)

end Sys2Proof.Machine
end

