-- ==== Sys2Proof/Machine/Switch.lean ====
section
/-!
DEFINITION. The context image (spec/14, R397 to R399), switch-out (R394, R395) and restore (R396; spec/05, R93, R95, R101; spec/02, R39).
-/
namespace Sys2Proof.Machine

/-! ### The image (R397 to R399) -/

/-- Bytes written to a context's image; a page that cannot be written keeps its bytes. -/
def putImage (s : State) (x : Ctx) (off : Nat) (data : List Byte) : State := hubPost s x (ctxImage x + off) data

/-- Bytes of a context's image, where they can be read. -/
def imageBytes (s : State) (x : Ctx) (off n : Nat) : Option (List Byte) :=
  match hubFetch s x (ctxImage x + off) n with
  | .ok (_, v) => some (bytesOfNat n v)
  | .error _ => none

/-- A number of the image; the value that the hub keeps where it cannot be read (log entry 43). -/
def imageNat (s : State) (x : Ctx) (off n d : Nat) : Nat := ((imageBytes s x off n).map natOfBytes).getD d

/-- A page of a part of the image is being splintered or changed (R47, R63), or a write to the image still waits for one. -/
def imageStalls (s : State) (x : Ctx) (off n : Nat) : Bool :=
  (s.hub.writesDue.any fun d => d.1 = x.num) ||
    (List.range ((n + 65535) / 65536)).any fun i => match hubPlace s x .load (ctxImage x + off + 65536 * i) with
      | .error none => true
      | _ => false

/-- A handle register as the image holds it: the entry copy, then the translation part (R33, R399), padded to 128 bytes. -/
def handleImage (h : Handle) : List Byte :=
  bytesOfNat 64 h.entry.toNat ++
    bytesOfNat 64 (atBit 127 h.bound.toNat + atBit 126 h.tbl.toNat + atBit 110 h.index.toNat + atBit 52 h.win.toNat + h.frame.toNat)

/-- A stack entry (R193), and one read: its current mask and paths stand in the internal area (R399). -/
def stackImage (e : StackEntry) : Nat := atBit 224 e.kind.code + atBit 144 e.rpc.toNat + atBit 64 e.pc.toNat + e.mask.toNat
def stackEntryOf (n : Nat) : StackEntry :=
  { kind := entryKindOf (n / 2 ^ 224 % 4), rpc := BitVec.ofNat 80 (n / 2 ^ 144), pc := BitVec.ofNat 80 (n / 2 ^ 64), mask := BitVec.ofNat 64 n
    m := 0#64, running := false, pooled := false, other := none }

/-- A row of the row state (R399), and one read. -/
def rowImage (r : RowState) : List Byte := packNats 4 [r.max.toNat, r.sum.toNat, r.sumc.toNat, r.corr.toNat]
def rowOf (n : Nat) (poison : Bool) (code : Byte) : RowState :=
  { max := BitVec.ofNat 32 n, sum := BitVec.ofNat 32 (n / 2 ^ 32), sumc := BitVec.ofNat 32 (n / 2 ^ 64), corr := BitVec.ofNat 32 (n / 2 ^ 96)
    poison := poison, code := code }

/-- The internal areas of a warp's record (R399). -/
def innerAreas (w : Warp) : List (Nat × List Byte) := [(0x3000, putFields warpInner w), (0x4800, putFields warpHeld w)]

/-- The areas of a warp's record that switch-out writes (R395, step 3), by offset. -/
def warpAreas (s : State) : List (Nat × List Byte) :=
  let w := s.w
  let ps := w.p.toList.drop 1
  [(0x0, bytesOfNat 64 w.faultSlot.toNat),
   (0x40, packNats 64 ((List.range 8).map fun i => (w.late.getD i 0#512).toNat)),
   (0x400, packNats 8 (w.s.toList.map (·.val.toNat))),
   (0x600, bytesOfNat 8 (bitsOf (·.poison) w.s.toList)),
   (0x608, packNats 8 (ps.map fun p => bitsOf (·.bit) p.toList)),
   (0x680, packNats 8 (ps.map fun p => bitsOf (·.poison) p.toList)),
   (0x700, packNats 8 ((List.range 26).map fun n => (specialReg s (BitVec.ofNat 10 n)).toNat)),
   (0x800, w.h.toList.flatMap handleImage),
   (0x1000, packNats 32 (w.stack.reverse.map stackImage)),
   (0x4000, w.rowState.toList.flatMap rowImage),
   (0x4400, bytesOfNat 8 (bitsOf (·.poison) w.rowState.toList))] ++ innerAreas w

/-- The areas that are current only after a checkpoint cut or a spill (R397): accumulators, claimed register blocks, poison bits. -/
def wholeAreas (w : Warp) : List (Nat × List Byte) :=
  accAreas w ++ ((List.range 29).filter (blockClaimed w)).map (fun b => (0x20000 + 0x800 * b, blockImage w b)) ++
  [(0x2F000, packNats 8 (w.v.toList.map fun r => bitsOf (·.poison) r.toList))]

/-- Where the record of a warp lies in its image. -/
def recordOf (x : Ctx) (w : Warp) : Nat := warpRecord x w - ctxImage x

/-- Areas of the record of the warp in focus written. -/
def putAreas (areas : List (Nat × List Byte)) (s : State) : State :=
  areas.foldl (fun s a => putImage s s.x (recordOf s.x s.w + a.1) a.2) s

/-- One warp's record written. With `whole`, what may stay in the cores too, register blocks that stand in a backing being read back first. -/
def saveWarp (whole : Bool) (s : State) (wid : Nat) : State :=
  withWarp s wid fun s =>
    let s := if whole then refillBlocks s.w.away s else s
    putAreas (warpAreas s ++ if whole then wholeAreas s.w else []) s

/-- Where the record of a block lies in the image (R397). -/
def blockRecord (b : Block) : Nat := 0x100000 + 0x80000 * b.core.toNat + 0x2000 * b.bslot.toNat

/-- The run-ahead processor of a block. -/
def rapOf (s : State) (bid : Nat) : Option Warp := (allWarps s).find? fun w => w.bid = bid && w.rap && w.status ≠ .vacant

/-- The queues of a block and its run-ahead processor, as its record holds them behind the stash map (R397). -/
def cQueues : Codec (Vector Queue 8) := cVec 8 ⟨[], 0⟩ cQueue
def rapArea (s : State) (b : Block) : List Byte := cQueues.put b.queues ++ ((rapOf s b.bid).map (putFields rapState)).getD []

/-- Where an unmapped stash line of a block stands in the image (R397). -/
def lineBacking (b : Block) (l : Nat) : Nat := 0x8000000 + 0x100000 * stashCore b (128 * l) + 128 * stashLine b (128 * l)

/-- The unmapped stash lines of a block. -/
def plainLines (b : Block) : List Nat := (List.range (stashRange b / 128)).filter fun l => (smapOf b l).isNone

/-- A block's record: the stash map, the queues and the run-ahead processor (R397); with `whole`, its unmapped stash lines too. -/
def saveBlock (whole : Bool) (s : State) (b : Block) : State :=
  let x := ctxFor s b.ctx
  let s := putImage s x (blockRecord b) (packNats 16 (b.smap.toList.map (·.toNat)))
  let s := putImage s x (blockRecord b + 0x100) (rapArea s b)
  if !whole then s
  else
    let s := (asBlock s b fun s => (s.b.awayLines.foldl (fun s e => (stashReturn s e.1).getD s) s, ())).1
    let b := (blockOf s b.bid).getD b
    (plainLines b).foldl (fun s l => putImage s x (lineBacking b l) (cellBytes b.stash (128 * l) 128)) s

/-- The warps and the blocks of a context. -/
def ctxWarps (s : State) (c : BitVec 16) : List Warp := (allWarps s).filter fun w => w.ctx = c && w.status ≠ .vacant
def ctxBlocks (s : State) (c : BitVec 16) : List Block := (allBlocks s).filter fun b => b.bid ≠ 0 && b.ctx = c
/-- The warps of a context that have a record: they have not ended. -/
def recordWarps (s : State) (c : BitVec 16) : List Warp := (ctxWarps s c).filter fun w => !w.rap && w.status ≠ .done

/-- A core's tile table as a context's image holds it: the entries of its blocks, the others undefined (R102, R397). -/
def tileArea (s : State) (c : BitVec 16) (bs : List Block) (core : Nat) : List Byte :=
  let slots := (bs.filter fun b => b.core.toNat ≤ core && core < b.core.toNat + b.span.toNat).map (·.bslot.toNat)
  let es := tileTable s c core
  packNats 8 ((List.range 256).map fun n =>
    (((es.find? fun e => e.2 = n && tDef e.1 && slots.contains (tBslot e.1)).map (·.1)).getD 0xFF00#64).toNat)

/-- The tile tables of a context's cores and its code-table slots (R397). -/
def saveTables (s : State) (c : BitVec 16) : State :=
  let x := ctxFor s c
  let bs := ctxBlocks s c
  let cores := (bs.flatMap fun b => spanCores b.core.toNat b.span.toNat).eraseDups
  let s := cores.foldl (fun s k => putImage s x (0x10000 + 0x800 * k) (tileArea s c bs k)) s
  (List.range 64).foldl (fun s k => putImage s x (0x1000 + 256 * k) (bytesOfNat 256 ((x.tables.toList.getD k none).getD 0#2048).toNat)) s

/-- A context's state written to its image: at a switch-out without, at a checkpoint cut with, what may stay in the cores. -/
def saveContext (whole : Bool) (s : State) (c : BitVec 16) : State :=
  let s := (recordWarps s c).foldl (fun s w => saveWarp whole s w.wid) s
  let s := (ctxBlocks s c).foldl (saveBlock whole) s
  saveTables s c

/-- What a cut writes of a context that is switched out: the areas that software may not have changed, which alone may be newer than its
image, and what its slots and granules still hold (R169, R397). -/
def saveAway (s : State) (c : BitVec 16) : State :=
  let s := (recordWarps s c).foldl (fun s w => withWarp s w.wid fun s =>
    let s := refillBlocks s.w.away s
    putAreas (innerAreas s.w ++ wholeAreas s.w) s) s
  (ctxBlocks s c).foldl (saveBlock true) s

/-! ### Switch-out (R394, R395) -/

/-- The highest effective priority of a context's nodes. -/
def ctxPrio (s : State) (c : BitVec 16) : Option Nat :=
  ((s.hub.nodes.filter fun n => n.ctx = c && n.leader.isNone).map fun n => (effPrio s n).toNat).foldl (fun m p => some (max p (m.getD 0))) none

/-- The contexts with a block on the device. -/
def residentCtxs (s : State) : List (BitVec 16) :=
  (((allBlocks s).filter fun b => b.bid ≠ 0 && ctxResident s b.ctx).map (·.ctx)).eraseDups

/-- The context that is switched out for a node: another one, whose highest effective priority is lowest (R394). -/
def victimFor (s : State) (n : Node) : Option (BitVec 16) :=
  ((residentCtxs s).filter fun c => c ≠ n.ctx).foldl (fun (v : Option (BitVec 16)) c => match v with
    | none => some c
    | some d => if (ctxPrio s c).getD 0 * 65536 + c.toNat < (ctxPrio s d).getD 0 * 65536 + d.toNat then some c else some d) none

/-- A node has been passed over for a full millisecond and does not fit (R394). -/
def starved (s : State) (n : Node) : Bool :=
  cardKind n.card = 0 && mayDispatch s n && !nodeFits s n && n.passedSince.any fun t => 1000000 ≤ wall s - t

/-- A context must make room: for a starved node, or because it holds a member of a gang that is switched out elsewhere (R394). -/
def switchDue (s : State) (c : BitVec 16) : Bool :=
  (s.hub.nodes.any fun n => starved s n && victimFor s n = some c) ||
    (ctxBlocks s c).any fun b => b.gcount ≠ 0#9 && b.members.any fun d => d ≠ s.fab.ident

/-- A warp stands at a boundary with nothing in flight but reads parked on WOS lines and matrix work (R395, step 1). -/
def atRest (w : Warp) : Bool :=
  (w.loads.all (·.parked)) && w.stores.isEmpty && w.unacked.isEmpty && w.pushes.isEmpty && w.remotes.isEmpty

/-- Every warp of a context is at rest. -/
def ctxAtRest (s : State) (c : BitVec 16) : Bool := (ctxWarps s c).all atRest

/-- The micro-tiles of an accepted instruction that are complete, or in progress, at a clock of an engine (R355). -/
def microTiles (e : Engine) (clk : Nat) (k : MatWork) : Nat :=
  let d := popNat 8 k.done.toNat
  if k.form = 3#2 || e.gated then d else min 8 (d + (clk - max k.since e.readyAt + k.step - 1) / k.step)

/-- The matrix work of the warp in focus completed or recorded (R355, R356, R395 step 2): what has begun runs to its end in bank configuration,
to the end of its micro-tile in the other; an instruction that goes on after the restore shows in ACCSTAT (R358). -/
def recordWork (s : State) : State :=
  match s.w.mat with
  | none => s
  | some k =>
    let d := (s.engines.toList[engineOf s.w]?.map fun e => microTiles e s.clk k).getD 0
    if s.w.status = .done || d = 8 || (s.x.cfg && d ≠ 0) then applyWork s k
    else { s with w := { s.w with mat := some { k with done := BitVec.ofNat 8 (2 ^ d - 1) }, accPend := 1#1 ++ BitVec.ofFin (w := 2) k.acc ++ k.form ++ BitVec.ofNat 8 (2 ^ d - 1) } }

/-- The register slots of a warp become EVICTABLE (R93); what stands in a backing has none, and a claim waits no more on the core. -/
def evictWarp (s : State) (w : Warp) : State :=
  let k := popNat 29 (w.claimed &&& ~~~w.away).toNat
  if w.rap then s
  else onCore s w.core.toNat fun c =>
    { c with
      evictable := if k = 0 then c.evictable else c.evictable ++ [(w.ctx, k)]
      free := c.free + popNat 29 (w.claimed &&& w.away).toNat
      claims := c.claims.filter fun q => q.wid ≠ w.wid }

/-- A block leaves its cores: its granules are in use no longer, its tile-table entries stand in the image alone. -/
def evictBlock (s : State) (b : Block) : State :=
  (spanCores b.core.toNat b.span.toNat).foldl (fun s c => onCore s c fun k => { clearTiles b k with granules := k.granules - b.portion / 4096 }) s

/-- The defined tiles of a context's blocks, by 256 times the core plus the entry number. -/
def ctxTiles (s : State) (bs : List Block) : List (Nat × DWord) :=
  bs.flatMap fun b => (spanCores b.core.toNat b.span.toNat).flatMap fun c =>
    ((coreAt s c).tiles.toList.zipIdx.filter fun e => tDef e.1 && tBslot e.1 = b.bslot.toNat).map fun e => (256 * c + e.2, e.1)

/-- Register blocks that stand in the backing of an earlier place read back, so that one place holds all of a warp's. -/
def gatherBlocks (s : State) (c : BitVec 16) : State :=
  ((recordWarps s c).filter fun w => w.away ≠ 0#29 && w.backing ≠ recordOf (ctxFor s c) w).foldl
    (fun s w => withWarp s w.wid fun s => refillBlocks s.w.away s) s

/-- No warp of a context has blocks in an earlier place any more. -/
def blocksGathered (s : State) (c : BitVec 16) : Bool :=
  (recordWarps s c).all fun w => w.away = 0#29 || w.backing = recordOf (ctxFor s c) w

/-- Steps 3 to 5 of a switch-out, and SWCNT (R395, R398). -/
def leaveCores (s : State) (c : BitVec 16) : State :=
  let bs := ctxBlocks s c
  let s := (ctxWarps s c).foldl (fun s w => withWarp s w.wid recordWork) s
  let s := saveContext false s c
  let tiles := ctxTiles s bs
  let s := (ctxWarps s c).foldl evictWarp s
  let s := bs.foldl evictBlock s
  let x := ctxFor s c
  let s := putImage s x 24 (bytesOfNat 8 (x.swcnt.toNat + 1))
  onCtx s c fun x => { x with resident := false, leaving := false, tilesOut := tiles, swcnt := x.swcnt + 1#64 }

/-- CONTEXT_SWITCH_OUT (R394, R395): the context's warps stop; once they are at rest it leaves the cores. Its commands keep running. During a
cut nothing leaves (R169). -/
def execContextSwitchOut (ctx : BitVec 16) (s : State) : Host.Outcome State Fault Refusal :=
  .next (if hubHeld s.hub || !ctxResident s ctx || (ctxBlocks s ctx).isEmpty || !((ctxFor s ctx).leaving || switchDue s ctx) then s
    else
      let s := onCtx s ctx fun x => { x with leaving := true }
      if !ctxAtRest s ctx then s
      else
        let s := gatherBlocks s ctx
        if blocksGathered s ctx then leaveCores s ctx else s)

/-! ### Cores for a context that returns (R92, R93, R95, R101, R396) -/

/-- The shape of a block as it stands: its warps that have not ended, and their claimed register blocks (R92). -/
def blockShape (s : State) (b : Block) : Shape :=
  let ws := (allWarps s).filter fun w => w.bid = b.bid && !w.rap && w.status ≠ .vacant && w.status ≠ .done
  { span := b.span.toNat
    parts := fun pos part => (ws.filter fun w => w.span.toNat = pos && w.part.toNat = part).length
    slots := fun pos => (ws.filter fun w => w.span.toNat = pos).foldl (fun n w => n + popNat 29 w.claimed.toNat) 0
    portion := b.portion }

/-- The EVICTABLE slots of a context on a core. -/
def ownSlots (ctx : BitVec 16) (c : CoreState) : Nat := (c.evictable.filter fun e => e.1 = ctx).foldl (fun n e => n + e.2) 0

/-- `k` slots taken on a core for a restored context: its own EVICTABLE ones first, then others as a newcomer takes them (R93). -/
def retakeSlots (ctx : BitVec 16) (core k : Nat) (s : State) : State :=
  let mine := ownSlots ctx (coreAt s core)
  let s := onCore s core fun c => { c with evictable := (if k < mine then [(ctx, mine - k)] else []) ++ c.evictable.filter fun e => e.1 ≠ ctx }
  takeOn s core (k - mine)

/-- What a context still holds in slots and granules written to its image, and the slots FREE: it is restored to other cores (R396). -/
def leaveBackings (s : State) (c : BitVec 16) : State :=
  let s := (List.range 160).foldl (fun s k => (slotBlocks s k c).foldl spillBlock s) s
  let s := (recordWarps s c).foldl spillAcc s
  let s := (ctxBlocks s c).foldl (fun s b =>
    ((List.range (stashRange b / 128)).filter fun l => !b.awayLines.any fun e => e.1 = l).foldl (fun s l => spillLine s b.bid l) s) s
  { s with engines := s.engines.map (fun e => { e with banks := e.banks.filter fun d => d ≠ c })
           cores := s.cores.map fun k => { k with free := k.free + ownSlots c k, evictable := k.evictable.filter fun e => e.1 ≠ c } }

/-- A saved tile moved to a core: the lowest free entry of its table, LINE and BSLOT of the block's new place (R95). -/
def placeTile (old new : Block) (s : State) (t : Nat × DWord) : Option (State × (Nat × Nat)) :=
  let core := t.1 / 256 - old.core.toNat + new.core.toNat
  ((coreAt s core).tiles.toList.findIdx? fun e => !tDef e).map fun n =>
    let e := setBits (setBits t.2 54 6 new.bslot) 30 13 (BitVec.ofNat 13 (new.base + (tLine t.2 - old.base)))
    (onCore s core fun k => { k with tiles := k.tiles.set! n e }, (t.1, 256 * core + n))

/-- Every tile of a block moved; the new key of each. -/
def placeTiles (old new : Block) : List (Nat × DWord) → State → Option (State × List (Nat × Nat))
  | [], s => some (s, [])
  | t :: ts, s =>
    match placeTile old new s t with
    | none => none
    | some (s, k) => (placeTiles old new ts s).map fun r => (r.1, k :: r.2)

/-- A warp on the cores of its restored block: its old slot where it stays, else the lowest free one of its partition. -/
def placeWarp (stay : Bool) (b : Block) (s : State) (wid : Nat) : State :=
  onWarp s wid fun w =>
    let core := b.core.toNat + w.span.toNat
    if w.rap then { w with core := b.core, part := b.bslot.setWidth 2 }
    else if stay || w.status = .done then { w with core := BitVec.ofNat 8 core }
    else { w with core := BitVec.ofNat 8 core, slot := BitVec.ofNat 4 ((freeSlotsIn s core w.part.toNat).getD 0 0) }

/-- The old place of a block still admits it: its cores, its block slot, its lines and its warps' slots. -/
def oldPlaceFits (s : State) (k : Shape) (old : Block) : Bool :=
  let near := (spanCores old.core.toNat k.span).flatMap (blocksOn s)
  ((List.range k.span).all fun i => coreFits s k (old.core.toNat + i) i) &&
    (near.all fun b => b.bslot ≠ old.bslot && !rangesMeet b.base (b.portion / 128) old.base (old.portion / 128)) &&
    ((allWarps s).filter fun w => w.bid = old.bid && !w.rap && w.status ≠ .vacant && w.status ≠ .done).all fun w =>
      !(slotsUsed s (old.core.toNat + w.span.toNat) w.part.toNat).contains w.slot.toNat

/-- Where a block goes: its old place, or the lowest cores that admit it (R396). -/
def newPlace (stay : Bool) (s : State) (k : Shape) (old : Block) : Option Block :=
  if stay then if oldPlaceFits s k old then some old else none
  else (placeOf s k).map fun core =>
    { old with core := BitVec.ofNat 8 core, bslot := freeBslot s core k.span, base := freeBase s core k.span (old.portion / 128) }

/-- The slots and granules of a placed block taken (R92, R95, R101); `none` while a write-back of another context must wait. -/
def retakeCores (k : Shape) (b : Block) (s : State) : Option State :=
  (List.range k.span).foldl (fun (r : Option State) i => r.bind fun s =>
    (takeGranules s (b.core.toNat + i) b.base (b.portion / 128)).map fun s =>
      onCore (retakeSlots b.ctx (b.core.toNat + i) (k.slots i) s) (b.core.toNat + i) fun c => { c with granules := c.granules + b.portion / 4096 }) (some s)

/-- The engine commands of a block follow it: its cores and the keys of the tiles they fill. -/
def moveCmds (old new : Block) (keys : List (Nat × Nat)) (s : State) : State :=
  let rekey := fun (t : Nat × DWord) => ((((keys.find? fun q => q.1 = t.1).map (·.2)).getD t.1, t.2) : Nat × DWord)
  { s with cmds := s.cmds.map fun c => if c.bid = old.bid then { c with core := new.core + (c.core - old.core), fills := c.fills.map rekey } else c }

/-- One block of a context placed, with its tiles and warps; `none` when that cannot be. -/
def restoreBlock (stay : Bool) (old : Block) (tiles : List (Nat × DWord)) (s : State) : Option State :=
  let k := blockShape s old
  (newPlace stay s k old).bind fun new =>
    let mine := tiles.filter fun t => tBslot t.2 = old.bslot.toNat && old.core.toNat ≤ t.1 / 256 && t.1 / 256 < old.core.toNat + k.span
    let s := onBlock s old.bid fun b => { b with core := new.core, bslot := new.bslot, base := new.base }
    (placeTiles old new mine s).bind fun (s, keys) =>
      (retakeCores k new s).map fun s =>
        let wids := ((allWarps s).filter fun w => w.bid = old.bid && w.status ≠ .vacant).map (·.wid)
        moveCmds old new keys (wids.foldl (placeWarp stay new) s)

/-- Every block of a context placed. -/
def restoreBlocks (stay : Bool) : List Block → List (Nat × DWord) → State → Option State
  | [], _, s => some s
  | b :: bs, ts, s => (restoreBlock stay b ts s).bind (restoreBlocks stay bs ts)

/-- A context placed: all of its blocks where they were, or all anew. -/
def placeContext (stay : Bool) (s : State) (c : BitVec 16) : Option State :=
  let bs := ctxBlocks s c
  let tiles := (ctxFor s c).tilesOut
  let s := onCtx s c fun x => { x with resident := true, tilesOut := [] }
  let s := mapWarps s fun w => if w.ctx = c then { w with core := 0xFF#8 } else w
  restoreBlocks stay bs tiles (mapBlocks s fun b => if b.bid ≠ 0 && b.ctx = c then { b with core := 0xFF#8 } else b)

/-! ### Restore (R396) -/

/-- The special registers read back (R396, R397): those that hold state of their own. -/
def restoreSpecials (s : State) (at_ : Nat → DWord) : State :=
  let w := { s.w with
    exec := at_ 0 &&& s.w.m, mode := (at_ 1).setWidth 32, lr := at_ 2, lrhi := (at_ 3).setWidth 16, trapmask := at_ 4, replay := at_ 5
    rowprog := at_ 7, zerocnt := at_ 8, cyc := at_ 9, cycdl := at_ 24, walldl := at_ 25
    porig := BitVec.ofNat 256 ((at_ 16).toNat + atBit 64 (at_ 17).toNat + atBit 128 (at_ 18).toNat + atBit 192 (at_ 19).toNat) }
  let s := { s with w := w }
  if (at_ 22).setWidth 8 = s.w.qsub then s else writeQsub s ((at_ 22).setWidth 8)

/-- A handle register read back: its entry copy, BOUND, TBL and INDEX; FRAME and WIN are cleared (R39). -/
def restoreHandle (old : Handle) (entry part : Nat) : Handle :=
  { old with entry := BitVec.ofNat 512 entry, bound := part.testBit 127, tbl := part.testBit 126, index := BitVec.ofNat 16 (part / 2 ^ 110),
             win := 0#41, frame := 0#52 }

/-- The areas of a warp's record that software may write, read back (R396, R397, R399). `rec_` is the record's place in the image. -/
def restoreWarp (rec_ : Nat) (s : State) : State :=
  let x := s.x
  let get := fun off n d => imageNat s x (rec_ + off) n d
  let w := s.w
  let pois := get 0x600 8 (bitsOf (·.poison) w.s.toList)
  let ss := vecOf 64 fun i => (⟨BitVec.ofNat 64 (get (0x400 + 8 * i.val) 8 w.s[i].val.toNat), pois.testBit i.val⟩ : Scalar)
  let ps := vecOf 16 fun (i : Fin 16) =>
    if i.val = 0 then w.p[i]
    else
      let b := get (0x608 + 8 * (i.val - 1)) 8 (bitsOf (·.bit) w.p[i].toList)
      let q := get (0x680 + 8 * (i.val - 1)) 8 (bitsOf (·.poison) w.p[i].toList)
      lanesOf fun l => { w.p[i][l] with bit := b.testBit l.val, poison := q.testBit l.val }
  let hs := vecOf 16 fun (i : Fin 16) =>
    restoreHandle w.h[i] (get (0x800 + 128 * i.val) 64 w.h[i].entry.toNat)
      (get (0x840 + 128 * i.val) 16 (natOfBytes ((handleImage w.h[i]).drop 64)))
  restoreSpecials { s with w := { w with s := ss, p := ps, h := hs } } fun n =>
    BitVec.ofNat 64 (get (0x700 + 8 * n) 8 (specialReg s (BitVec.ofNat 10 n)).toNat)

/-- The windows of a run-ahead processor's handles are rebuilt too (R39). -/
def clearWindows (w : Warp) : Warp := { w with h := w.h.map fun h => { h with win := 0#41, frame := 0#52 } }

/-- A withdrawn lane made anew (R395): its address is translated again; `none` while that must wait. -/
def reissueLane (s : State) (j : LaneJob) : Option LaneJob :=
  match j.plan with
  | .parked p =>
    if p.stash then some j
    else (match resolveVa s .load p.va.toNat with
      | .ok _ q => some { j with plan := .parked { q with va := p.va } }
      | .fault c d v => some { j with plan := .poison c d v true }
      | .stall => none)
  | _ => some j

/-- The withdrawn loads of the warp in focus made anew; a lane that must wait keeps its place, for the pages of a splinter stay where they were. -/
def reissueLoads (s : State) : State :=
  { s with w := { s.w with loads := s.w.loads.map fun l => { l with jobs := l.jobs.map fun j => (reissueLane s j).getD j } } }

/-- The matrix work of the warp in focus goes on from now; its engine starts again through the sequencer where it is gated (R226, R396). -/
def resumeWork (s : State) : State :=
  let s := { s with w := { s.w with mat := s.w.mat.map fun k => { k with since := s.clk } } }
  if s.w.matReq.any (fun q => q.form ≠ 3#2) || s.w.mat.any (fun k => k.form ≠ 3#2) then wakeEngine s else s

/-- The warp in focus back on a core (R93, R228, R396): its registers refill from the record that it had, its word is entered, its parked reads
are made anew, its matrix work goes on. -/
def resumeWarp (rec_ : Nat) (s : State) : State :=
  let s := restoreWarp rec_ s
  resumeWork (reissueLoads { s with w := { s.w with backing := rec_, enter := true } })

/-- What a restore of a context reads or writes must wait for a splinter or an ATTRCHG. -/
def restoreStalls (s : State) (c : BitVec 16) : Bool :=
  let x := ctxFor s c
  imageStalls s x 0 4096 || ((recordWarps s c).any fun w => imageStalls s x (recordOf x w) 0x40000) ||
    (ctxBlocks s c).any fun b => blockStalls s b (b.mapped.map (·.line))

/-- A context back on cores: its blocks placed, its image read back (R396); `none` while it does not fit or an access must wait. -/
def restoreContext (s : State) (c : BitVec 16) : Option State :=
  if restoreStalls s c then none
  else
    let recs := (recordWarps s c).map fun w => (w.wid, recordOf (ctxFor s c) w)
    ((placeContext true s c).orElse fun _ => placeContext false (leaveBackings s c) c).map fun s =>
      let s := match readHeader s (ctxFor s c) with
        | .ok (s, x) => putCtx s x
        | .error _ => s
      let s := mapWarps s fun w => if w.ctx = c && w.rap then { clearWindows w with enter := true } else w
      recs.foldl (fun s r => withWarp s r.1 (resumeWarp r.2)) s

/-- The context's nodes are the highest effective priority among what fits (R394). -/
def restoreDue (s : State) (c : BitVec 16) : Bool :=
  !ctxResident s c && ((s.hub.nodes.filter fun n => mayDispatch s n && nodeFits s n).all fun n => (effPrio s n).toNat ≤ (ctxPrio s c).getD 0)

/-- CONTEXT_RESTORE (R394, R396); not during a cut (R169). -/
def execContextRestore (ctx : BitVec 16) (s : State) : Host.Outcome State Fault Refusal :=
  .next (if restoreDue s ctx && !hubHeld s.hub then (restoreContext s ctx).getD s else s)

/-! ### A context whole from its image (R179) -/

/-- The rest of a warp's record read: internal areas, fault slot, pending queue, stack, row state and accumulators; its register blocks stand in
their backings. -/
def loadInner (rec_ : Nat) (s : State) : State :=
  let bytes := fun off n => imageBytes s s.x (rec_ + off) n
  let nat := fun off n => imageNat s s.x (rec_ + off) n 0
  let w := (bytes 0x3000 4096).elim s.w (getFields warpInner s.w)
  let n := w.stack.length
  let rows := nat 0x4400 8
  let w := { w with
    faultSlot := BitVec.ofNat 512 (nat 0 64)
    late := (List.range w.late.length).map fun i => BitVec.ofNat 512 (nat (0x40 + 64 * i) 64)
    stack := (List.range n).map fun i => stackEntryOf (nat (0x1000 + 32 * (n - 1 - i)) 32)
    rowState := vecOf 64 fun r => rowOf (nat (0x4000 + 16 * r.val) 16) (rows.testBit r.val) w.rowState[r].code
    acc := vecOf 4 fun t =>
      { w.acc[t] with rows := vecOf 64 fun r => accRowOf w.acc[t].f64 w.acc[t].rows[r] (nat (0x10000 + 0x4000 * t.val + 256 * r.val) 256) }
    away := w.claimed }
  { s with w := (bytes 0x4800 0xB800).elim w (getFields warpHeld w) }

/-- A block's record read; its unmapped stash lines stand in the image, its mapped ones refill. -/
def loadBlock (s : State) (b : Block) : State :=
  let x := ctxFor s b.ctx
  let map_ := imageNat s x (blockRecord b) 256 0
  let s := onBlock s b.bid fun b =>
    let b := { b with smap := vecOf 16 fun i => BitVec.ofNat 128 (map_ / 2 ^ (128 * i.val)), mapped := [] }
    { b with awayLines := (plainLines b).map fun l => (l, lineBacking b l) }
  match imageBytes s x (blockRecord b + 0x100) 0x1F00 with
  | none => s
  | some bs =>
    let q := cQueues.get bs
    let s := onBlock s b.bid fun b => { b with queues := q.1 }
    if b.hasRap then mapWarps s fun w => if w.bid = b.bid && w.rap then clearWindows (getFields rapState w q.2) else w else s

/-- A context as its image has it: code-table slots, blocks and warps, with the places that the hub's scheduling state gives them. -/
def loadContext (s : State) (c : BitVec 16) : State :=
  let x := ctxFor s c
  let slot := fun (i : Fin 64) => let n := imageNat s x (0x1000 + 256 * i.val) 256 0; if n = 0 then none else some (BitVec.ofNat 2048 n)
  let s := onCtx s c fun x => { x with tables := vecOf 64 slot }
  let s := (ctxBlocks s c).foldl loadBlock s
  (recordWarps s c).foldl (fun s w => withWarp s w.wid fun s => resumeWarp (recordOf s.x s.w) (loadInner (recordOf s.x s.w) s)) s

end Sys2Proof.Machine
end

