-- ==== Sys2Proof/Machine/Ckpt.lean ====
section
/-!
DEFINITION. Checkpoints and rollback (spec/07, R168 to R182; spec/15, R407): cuts, the mirror, votes, commits, aborts, heartbeats, and the
substitution of a dead device.
-/
namespace Sys2Proof.Machine

/-! ### Messages of a domain (R169, R173) -/

/-- A control message to every device of the domain (R169, R173). -/
def tellDomain (s : State) (mop : Byte) (n : Nat) (here : Instr) : State :=
  (domainMembers s.fab).foldl (fun s d => controlTo s d mop n here) s

/-- A report to the fabric manager: made here when this device runs it. -/
def tellManager (s : State) (mop : Byte) (n : Nat) (aux : BitVec 16) (here : State → State) : State :=
  if s.fab.fmid = s.fab.ident then here s else sendOut s (shortMessage mop s.fab.fmid 0#16 aux (bytesOfNat 8 n))

/-- An ABORT to the domain (R173); `lost` says that a committed image is lost (R182). -/
def tellAbort (s : State) (lost : Bool) : State :=
  if lost then
    (domainMembers s.fab).foldl (fun s d => deliverTo s d (.abort ⟨s.hub.lastCommit, true⟩)
      (shortMessage 0x25 d 0#16 1#16 (bytesOfNat 8 s.hub.lastCommit))) s
  else tellDomain s 0x25 s.hub.lastCommit (.abort ⟨s.hub.lastCommit, false⟩)

/-! ### Cuts (R169) -/

/-- The next cut is due at the fabric manager: INTERVAL ms after the last, or at once for a held host request, at most one a millisecond
(R169, R175); none while the domain waits for a standby (R179). -/
def cutDue (s : State) : Bool :=
  let since := wall s - s.hub.lastCut
  s.fab.fm && !hubHeld s.hub && (bitsNat s.hub.ckptcfg 0 14 * 1000000 ≤ since || (!s.m.hostHeld.isEmpty && 1000000 ≤ since))

/-- The cut of the open interval issued to the domain. -/
def issueCut (s : State) : State :=
  tellDomain { s with hub := { s.hub with lastCut := wall s, cutsDone := [], cutNumber := s.m.interval } } 0x20 s.m.interval (.cut s.m.interval)

/-- INTERVAL_CUT (R169). -/
def execIntervalCut (s : State) : Host.Outcome State Fault Refusal := .next (if cutDue s then issueCut s else s)

/-- The records that the undo log holds (R170). -/
def undoCount (m : Mem) : Nat :=
  (m.undo.filter fun u => match u with
    | .line .. | .frame .. => true
    | .loose .. | .states .. => false).length

/-- The undo log is full. -/
def undoFull (s : State) : Bool := Config.undoCapacity ≤ undoCount s.m && !s.hub.cutting

/-- The fabric manager of another device asked for a cut, with a CUT of its own; a request is made at most once a millisecond. -/
def requestCut (s : State) : State :=
  if wall s < s.hub.lastCut + 1000000 then s
  else sendOut { s with hub := { s.hub with lastCut := wall s } } (shortMessage 0x20 s.fab.fmid 0#16 0#16 (bytesOfNat 8 s.m.interval))

/-- UNDO_LOG_FULL (R170): the open interval ends early. -/
def execUndoLogFull (s : State) : Host.Outcome State Fault Refusal :=
  .next (if !undoFull s then s else if s.fab.fm then issueCut s else requestCut s)

/-- A device that holds a host request asks for the cut that R175 promises it. -/
def askForCut (s : State) : State :=
  if s.m.hostHeld.isEmpty || s.fab.fm || hubHeld s.hub || s.fab.fmid = 0x3FF#10 then s else requestCut s

/-- CUT (R169): issue stops; the fabric manager passes on a cut that another device asks for. -/
def execCut (n : Nat) (s : State) : Host.Outcome State Fault Refusal :=
  .next (if n ≠ s.m.interval || s.hub.cutting then s
    else if s.fab.fm && s.hub.cutNumber ≠ n then issueCut s
    else { s with hub := { s.hub with cutting := true, cutReported := false } })

/-- A command that runs can go no further now, and is recorded for restart. -/
def cmdAtRest (s : State) (c : Cmd) : Bool :=
  !c.started || (c.func.toNat < 0x50 && match (asUnit s c fun t => let r := runCmd c t; (t, r.2.isOk || (match r.2 with
      | .error (.status ..) => true
      | _ => false))).2 with
    | true => false
    | false => true)

/-- Everything started has been performed, or waits where a cut records it (R169, steps 1 and 2): accesses of warps and commands, requests of
other devices, coherence transactions, and the hub's own writes. -/
def deviceDrained (s : State) : Bool :=
  (allWarps s).all (fun w => w.status = .vacant || (atRest w && w.mat.isNone)) && s.cmds.all (cmdAtRest s) && s.fab.multicasts.isEmpty && s.fab.parked.isEmpty &&
    s.m.asks.isEmpty && !(s.m.wants.any fun q => q.2.2.2) && s.m.splinters.isEmpty && s.hub.ringDue.isEmpty && s.hub.writesDue.isEmpty

/-- Every copy that homes do not hold is written back: M lines, U lines, dirty IP lines (R169, step 3; R140). -/
def writeBackAll (s : State) : State :=
  let m := (s.m.ucopies.map (·.line)).eraseDups.foldl recallLine s.m
  let m := m.ip.foldl IpCopy.home m
  { s with m := { m with ip := m.ip.map (fun c => { c with dirty := 0#128, loose := 0#128 }), dir := m.dir.map cleaned } }
where
  cleaned (e : DirEntry) : DirEntry := if e.state = .m then { e with state := .e } else e

/-- Each context's on-chip state, then the hub's scheduling state, written (R169, step 4). -/
def sealImages (s : State) : State :=
  let s := ((allCtxs s).filter fun x => !(ctxBlocks s x.num).isEmpty).foldl (fun s x =>
    if x.resident then saveContext true s x.num else saveAway s x.num) s
  saveSched s

/-- What a rollback to this cut returns to. -/
def snapshot (s : State) : Saved :=
  { interval := s.m.interval, w := s.w, b := s.b, x := s.x, warps := s.warps, blocks := s.blocks, ctxs := s.ctxs, cores := s.cores, cmds := s.cmds
    nodes := s.hub.nodes, queues := s.hub.queues, retained := s.hub.retained, reservation := s.hub.reservation, waiting := s.hub.waiting
    moves := s.hub.moves, pageMove := s.hub.pageMove, stopped := s.hub.stopped }

/-- The snapshot of the open interval, in place of an earlier one. -/
def keepSnapshot (s : State) : State :=
  { s with hub := { s.hub with saved := (s.hub.saved.filter fun v => v.interval ≠ s.m.interval) ++ [snapshot s] } }

/-- CUTDONE (R169): the fabric manager lets the next interval begin once every device has reported. -/
def cutDoneFrom (n : Nat) (src : BitVec 10) (s : State) : State :=
  if !s.fab.fm || n ≠ s.m.interval || !s.hub.cutting then s
  else
    let done := if s.hub.cutsDone.contains src then s.hub.cutsDone else src :: s.hub.cutsDone
    let s := { s with hub := { s.hub with cutsDone := done } }
    if (domainMembers s.fab).all done.contains then tellDomain s 0x22 n (.resume n) else s

/-- CUTDONE received (R169). -/
def execCutdone (n : Nat) (src : BitVec 10) (s : State) : Host.Outcome State Fault Refusal := .next (cutDoneFrom n src s)

/-- Steps 3 to 5 of a cut, once the device is drained; the report waits for image writes that must wait (R47, R63). -/
def finishCut (s : State) : State :=
  if !s.hub.cutting || s.hub.cutReported || !deviceDrained s then s
  else
    let s := sealImages (writeBackAll s)
    if !s.hub.writesDue.isEmpty then s
    else
      let s := keepSnapshot { s with hub := { s.hub with cutReported := true } }
      tellManager s 0x21 s.m.interval 0#16 fun s => cutDoneFrom s.m.interval s.fab.ident s

/-- RESUME (R169): the next interval begins with the checkpoint configuration last written; the interval's pages go to the mirror. What the
hub has taken up since its report belongs to the interval that ends. -/
def execResume (n : Nat) (s : State) : Host.Outcome State Fault Refusal :=
  .next (if !s.hub.cutting || !s.hub.cutReported || n ≠ s.m.interval then s
    else
      let s := queueMirror (keepSnapshot s) n (writtenFrames s.m n)
      streamMirror { s with
        m := { s.m with interval := n + 1 }
        hub := { s.hub with cutting := false, cutReported := false, ckptcfg := s.hub.ckptNext, votesDue := s.hub.votesDue ++ [n] } })

/-! ### Votes (R173) -/

/-- A vote counted by the fabric manager: an unsound one, or a full set of sound ones for the next interval in order. A device that votes sound
has its mirror and holds that of another, so it counts as dead no more (R182). -/
def voteFrom (n : Nat) (src : BitVec 10) (sound : Bool) (s : State) : State :=
  if !s.fab.fm then s
  else if !sound then tellAbort s false
  else
    let s := { s with hub := { s.hub with votes := (n, src) :: s.hub.votes.filter (· ≠ (n, src)), frail := s.hub.frail.filter (· ≠ src) } }
    let k := s.hub.lastCommit + 1
    if n = k && !s.hub.rebuild && (domainMembers s.fab).all (fun d => s.hub.votes.contains (k, d)) then tellDomain s 0x24 k (.commit k) else s

/-- VOTE received (R173). -/
def execVote (n : Nat) (src : BitVec 10) (sound : Bool) (s : State) : Host.Outcome State Fault Refusal := .next (voteFrom n src sound s)

/-- A mirror that this device sends or receives is being rebuilt, so that its vote waits (R173, R181). -/
def rebuilding (h : Hub) : Bool := h.rebuild || !h.copying.isEmpty

/-- The device votes sound once its buddy has every page of the interval, and no rebuild is under way (R173). -/
def castVote (s : State) : State :=
  let k := s.hub.lastCommit + 1
  if !s.hub.votesDue.contains k || !s.hub.mirrorPending.isEmpty || !s.hub.sound || rebuilding s.hub || s.hub.mirrorQueue.any (fun q => q.1 = k) then s
  else
    tellManager { s with hub := { s.hub with votesDue := s.hub.votesDue.filter (· ≠ k) } } 0x23 k 1#16 (voteFrom k s.fab.ident true)

/-- MIRRORACK (R171): the buddy holds a page. -/
def execMirrorack (frame : BitVec 36) (s : State) : Host.Outcome State Fault Refusal :=
  .next (castVote { s with hub := { s.hub with mirrorPending := s.hub.mirrorPending.erase frame.toNat } })

/-- An unsound vote, at once (R173, R177). -/
def voteUnsound (s : State) : State :=
  tellManager { s with hub := { s.hub with sound := false } } 0x23 s.m.interval 0#16 (voteFrom s.m.interval s.fab.ident false)

/-! ### Errors (R177) -/

/-- A line of the reservation that holds none of the hub's own logs is one of the mirror area, whose layout the spec does not give. -/
def inMirror (line : Nat) : Bool :=
  inReserved (128 * line) && !(Config.journalBase.toNat ≤ 128 * line && 128 * line < schedAt 0 + 2 ^ 34)

/-- A request for a line or a page of the mirror: to the buddy for this device's own line, or to the owner of a page held here (log entry 48). -/
def askAgain (s : State) (dst : BitVec 10) (line : Nat) (st : BitVec 16) : State :=
  if dst = 0x3FF#10 then s else sendOut s { mop := 0x2A, dst := dst, tag := 0#16, addr := BitVec.ofNat 80 line, aux := st, body := List.replicate 128 0#8 }

/-- A mirror page struck: it is asked for again (R177, step 4). Which page a line of the mirror area holds is a free value of
the line (log entry 48). -/
def mirrorStruck (s : State) (line : Nat) : State :=
  match s.hub.mirrorOld[(Config.freeDWord line).toNat % s.hub.mirrorOld.length]? with
  | some e => askAgain s e.src e.line auxAgain
  | none => s

/-- UNCORRECTABLE_ERROR (R177): the line's value is withheld from now on, until the rollback that follows has put its committed one there. -/
def execUncorrectableError (line : BitVec 45) (s : State) : Host.Outcome State Fault Refusal :=
  let l := line.toNat
  let s := count s 0x0003#16 0#32 1
  .next (voteUnsound (if inMirror l then mirrorStruck s l else { s with m := { s.m with bad := l :: s.m.bad.filter (· ≠ l) } }))

/-! ### Commit (R173 to R175) -/

/-- A memory-key slot emptied (R458): cached lines of its frames are dropped, and their contents are unpredictable from now on (R465). -/
def emptySlot (m : Mem) (slot : BitVec 7) : Mem :=
  let frames := (m.frames.filter fun r => r.key = slot).map (·.frame)
  let m := frames.foldl (fun m f => scramble { m with
    ip := m.ip.filter (fun c => c.line / 512 ≠ f), dir := m.dir.filter fun e => e.line / 512 ≠ f } (65536 * f) 65536) m
  { m with keyFull := m.keyFull &&& ~~~(1#128 <<< slot.toNat) }

/-- A notice to a device's security controller about a key slot (R459): 1 filled, 2 emptied, 3 to be loaded there. -/
def escrowNotice (s : State) (dst : BitVec 10) (kind : Nat) (slot : BitVec 7) : State :=
  if dst = 0x3FF#10 then s else sendOut s (shortMessage 0x30 dst 2#16 1#16 [BitVec.ofNat 8 kind, slot.setWidth 8])

/-- One held output released (R174): a write reaches host or pooled memory, an NVMe write its drive; a KEYERASE empties its slot and is
answered. -/
def releaseOutput (s : State) : Output → State
  | .write pa bs => { s with m := { s.m with hostMem := cellPut s.m.hostMem pa bs } }
  | .msix v => { s with hub := { s.hub with msix := s.hub.msix ++ [v] } }
  | .nvme d a bs => { s with m := { s.m with nvme := cellPut s.m.nvme (driveKey d a) bs } }
  | .keyEraseReply k =>
    escrowNotice { s with m := emptySlot s.m k, hub := { s.hub with replies := s.hub.replies ++ [[0x01, k.setWidth 8]] } } s.fab.buddy 2 k

/-- The bytes of a host half-line. -/
def hostLine (m : Mem) (pa : PA) : BitVec 512 := BitVec.ofNat 512 (cellNat m.cells (pa.toNat / 64 * 64) 64)

/-- A line that an uncommitted interval has written (R175). -/
def lineMarked (m : Mem) (pa : PA) : Bool := m.marks.any fun k => k.1 = pa.toNat / 128

/-- A host half-line recorded as held by the host in a state (R166). -/
def hostHolds (m : Mem) (pa : PA) (st : Option LineState) : Mem :=
  let half := pa.toNat / 64
  { m with hostDir := (st.toList.map fun q => (half, q)) ++ m.hostDir.filter fun e => e.1 ≠ half }

/-- A snoop acts on the whole host line (R165): dirty bytes are written back, and both halves take the state it asks for: 0 I, 1 S. -/
def snoopLine (m : Mem) (pa : PA) (state : BitVec 3) : Mem :=
  let line := pa.toNat / 128
  let keep := (m.bridgeDir.filter fun e => e.line ≠ line) ++
    if state = 0#3 then [] else (m.bridgeDir.filter fun e => e.line = line).map fun e => { e with state := .s }
  let halves := (m.halves.filter fun e => e.1 / 2 ≠ line) ++
    if state = 0#3 then [] else (m.halves.filter fun e => e.1 / 2 = line).map fun e => (e.1, .s)
  { m with bridgeDir := keep, halves := halves, copies := if state = 0#3 then m.copies.filter (fun c => c.line ≠ line) else m.copies }

/-- A host request answered with the line's value at this moment (R166, R175). -/
def answerHost (s : State) (q : HostReq) : State :=
  let m := recallLine s.m (q.pa.toNat / 128)
  let m := match q.snoop with
    | some st => snoopLine m q.pa st
    | none => if q.copy && grantable m q.pa then hostHolds (dirShareHost m q.pa) q.pa (some .s) else m
  { s with m := { m with hostOut := m.hostOut ++ [(q.pa, some (hostLine m q.pa))] } }
where
  /-- The home grants a cacheable copy of RC lines and of published WOS lines only (R166). -/
  grantable (m : Mem) (pa : PA) : Bool :=
    let a := (frameRec m pa.toNat).attr
    a = aRc || (a = aWos && wosState m pa.toNat = .published)
  /-- An M holder asked for a shared copy writes back and keeps S (R162). -/
  dirShareHost (m : Mem) (pa : PA) : Mem :=
    { m with dir := m.dir.map fun e => if e.line = pa.toNat / 128 then { e with state := .s } else e }

/-- Another device of the group may hold a host line dirty (R165). -/
def groupOwner (s : State) (pa : PA) : Bool :=
  s.m.bridgeDir.any fun e => e.line = pa.toNat / 128 && e.agent / 4 ≠ s.fab.ident.toNat && (e.state = .m || e.state = .e)

/-- A held host request that still waits: for a mark to go (R175), or a snoop for dirty bytes of another device (R165). -/
def hostWaits (s : State) (q : HostReq) : Bool := lineMarked s.m q.pa || (q.snoop.isSome && groupOwner s q.pa)

/-- The held host requests that wait no longer answered (R165, R175). -/
def answerHeld (s : State) : State :=
  let ready := s.m.hostHeld.filter fun q => !hostWaits s q
  ready.foldl answerHost { s with m := { s.m with hostHeld := s.m.hostHeld.filter (hostWaits s) } }

/-- Intervals up to `n` of the undo log, the marks and the logs discarded. -/
def dropUndo (m : Mem) (n : Nat) : Mem :=
  { m with
    undo := m.undo.filter (fun u => n < match u with
      | .line i .. | .frame i _ | .loose i .. | .states i .. => i)
    marks := m.marks.filter fun k => n < k.2
    inputs := m.inputs.filter fun r => n < r.interval }

/-- A mirrored line kept for its source. -/
def keepLine (l : List MirrorLine) (e : MirrorLine) : List MirrorLine := e :: l.filter fun q => !(q.src = e.src && q.line = e.line)

/-- The pending mirror generations replace their committed copies (R171). -/
def promoteMirror (h : Hub) : Hub := { h with mirrorOld := h.mirrorNew.foldl keepLine h.mirrorOld, mirrorNew := [] }

/-- COMMIT (R173, R174): intervals commit in order. -/
def execCommit (n : Nat) (s : State) : Host.Outcome State Fault Refusal :=
  .next (if n ≠ s.hub.lastCommit + 1 || s.m.interval ≤ n then s
    else
      let out := s.m.outputs.filter fun o => o.1 ≤ n
      let s := { s with
        m := dropUndo { s.m with outputs := s.m.outputs.filter fun o => n < o.1 } n
        hub := promoteMirror { s.hub with
          lastCommit := n, votes := s.hub.votes.filter (fun v => n < v.1), saved := s.hub.saved.filter (fun v => n ≤ v.interval)
          accepted := s.hub.accepted.filter (fun a => n < a.interval)
          retained := s.hub.retained.filter fun r => r.faulted || n < r.interval }
        fab := { s.fab with copied := s.fab.copied.filter fun c => n < c.1 } }
      let s := out.foldl (fun s o => releaseOutput s o.2) s
      castVote (streamMirror (settleJhead (answerHeld s))))

/-! ### Rollback (R179 to R181) -/

/-- One undo record applied: a line goes back with its WOS state, a frame record with the contents that its key gives; a level-1 IP store's
bytes become unpredictable (R172). -/
def applyUndo (m : Mem) : UndoRec → Mem
  | .line _ line data w _ _ origin =>
    let m := setWos { m with cells := cellPut m.cells (128 * line) (dataBytes data 0 128) } line (w.getD .unwritten)
    { m with origins := origin.toList ++ m.origins.filter (fun o => o.line ≠ line), bad := m.bad.filter (· ≠ line) }
  | .frame _ r => restoreFrame m r
  | .loose _ line mask => (List.range 128).foldl (fun m i => if mask.getLsbD i then scramble m (128 * line + i) 1 else m) m
  | .states _ frame old => { m with wos := old ++ m.wos.filter fun e => e.1 / 512 ≠ frame }

/-- The caches of the device empty (R179, step 2). -/
def dropCaches (m : Mem) : Mem :=
  { m with ip := [], dir := [], ucopies := [], tlb := [], walks := [], copies := [], bridgeDir := [], halves := [], asks := [], wants := [] }

/-- The memories as they stood at cut `n`: caches empty, records applied in reverse order of writing, outputs discarded, host and pooled memory
as it now is (R179, steps 1 to 4; R180). -/
def undoMem (m : Mem) (n : Nat) : Mem :=
  let m := m.undo.foldl applyUndo (dropCaches m)
  { m with
    cells := (m.cells.filter fun c => !offDevice c.1) ++ m.hostMem
    undo := [], marks := [], outputs := m.outputs.filter (fun o => o.1 ≤ n), interval := n + 1, splinters := [], inputs := [] }

/-- The state of the last committed cut, or of a device without contexts before the first. -/
def savedAt (s : State) (n : Nat) : Saved :=
  (s.hub.saved.find? fun v => v.interval = n).getD
    { snapshot State.reset with interval := n, queues := s.hub.queues, stopped := s.hub.stopped }

/-- A context stopped by a FAULTED completion that is rolled back is stopped no longer (R207, R222). -/
def stoppedAfter (s : State) (v : Saved) : List (BitVec 16) :=
  s.hub.stopped.filter fun c => v.stopped.contains c || !(s.hub.retained.any fun r => r.ctx = c && r.faulted && v.interval < r.interval)

/-- A queue that is enabled now, at the count that it had at the cut. -/
def queueAfter (v : Saved) (q : SubQueue) : SubQueue :=
  match v.queues.find? fun r => r.num = q.num && r.desc = q.desc with
  | some r => { q with head := r.head }
  | none => q

/-- The contexts of queues enabled since the cut, of which the cut knows nothing: as their queue's enabling left them. -/
def newContexts (s : State) (v : Saved) : List Ctx :=
  ((s.hub.queues.map fun q => qCtx q.desc).eraseDups.filter fun c => !((v.x :: v.ctxs).any fun (x : Ctx) => x.num = c && x.desc ≠ 0)).map fun c =>
    let x := ctxFor s c
    { Ctx.empty with num := c, desc := x.desc, trapva := x.trapva, cfg := x.cfg }

/-- The last card of each queue among some nodes (R219). -/
def serialsOf (ns : List Node) : List (BitVec 10 × BitVec 64) :=
  (ns.filter fun n => n.leader.isNone).foldl (fun l n => (n.queue, n.seq) :: l.filter fun e => e.1 ≠ n.queue) []

/-- A message that no rollback discards: management, heartbeats, the ABORT itself, and what rebuilds or mends a mirror (R176, R179). -/
def survives (m : Message) : Bool :=
  0x30 ≤ m.mop.toNat || m.mop = 0x25#8 || m.mop = 0x26#8 ||
    (m.mop = 0x2A#8 && (hasAux m.aux (auxLoad ||| auxAgain ||| auxOwner) || inReserved (128 * m.addr.toNat)))

/-- A flit of this device's own traffic in the domain, which a rollback discards (R407). -/
def ownFlit (s : State) (q : Flit) : Bool := q.header.extractLsb' 61 2 ≠ 3#2 && q.header.extractLsb' 28 10 = s.fab.ident

/-- The on-chip and scheduling state of a cut, its handle windows cleared (R39, R396, R401); the engines start again through the sequencer. -/
def restoreSaved (s : State) (v : Saved) : State :=
  let names := (newContexts s v).map (·.num)
  { s with
    w := clearWindows v.w, b := v.b, x := v.x, warps := v.warps.map clearWindows, blocks := v.blocks
    ctxs := v.ctxs.filter (fun x => !names.contains x.num) ++ newContexts s v, cores := v.cores, cmds := v.cmds
    engines := State.reset.engines, grantAt := State.reset.grantAt, picked := []
    hub := { s.hub with
      nodes := v.nodes, queues := s.hub.queues.map (queueAfter v), retained := v.retained, reservation := v.reservation, waiting := v.waiting
      moves := v.moves, pageMove := v.pageMove, stopped := stoppedAfter s v, serials := serialsOf v.nodes, ringDue := [], writesDue := []
      cutting := false, cutReported := false, cutNumber := 0, cutsDone := [], votes := [], votesDue := []
      mirrorQueue := [], mirrorPending := [], mirrorSent := [], mirrorNew := [], sound := true, accepted := []
      saved := s.hub.saved.filter fun q => q.interval ≤ v.interval }
    fab := { s.fab with
      parked := [], multicasts := [], outbox := s.fab.outbox.filter survives, flows := []
      partials := s.fab.partials.filter fun q => q.2.1 = 3#2
      ports := s.fab.ports.map fun p => { p with outbox := p.outbox.filter fun q => !ownFlit s q } } }

/-- An attribute change that was under way at the cut and has ended since is ended again: its request is over (R63). -/
def settleChanges (s : State) : State :=
  if xGo s then s
  else { s with m := ((s.m.frames.filter fun r => r.changing.isSome).map (·.frame)).foldl (settleFrame (s.hub.xarg.getLsbD 9)) s.m }

/-- The committed values of struck lines that no undo record held are asked for (R177, step 3). -/
def askForBad (s : State) : State := s.m.bad.foldl (fun s l => askAgain s s.fab.buddy l (auxAgain ||| auxOwner)) s

/-- A rebuild of this device's mirror begins again with what has been committed (R181). -/
def copyAgain (s : State) : State := if s.hub.rebuild && s.fab.buddy ≠ 0x3FF#10 && !s.hub.awaited.contains s.fab.ident then fullCopy s else s

/-- The line is a published one of a WOS page, which takes no write (R136). -/
def publishedLine (m : Mem) (pa : Nat) : Bool := (frameRec m pa).attr = aWos && wosState m pa = .published

/-- The bytes of a host write merged into its home line: a store of a system-scope agent (R166), after which a WOS line is FILLING (R136). -/
def mergeHost (m : Mem) (pa : Nat) (mask : BitVec 64) (data : BitVec 512) : Mem :=
  let base := pa / 64 * 64
  let line := lineOf base
  let m := recallLine m line
  let m := { m with dir := m.dir.filter fun e => e.line ≠ line, copies := m.copies.filter fun c => c.line ≠ line }
  let m := (List.range 64).foldl (fun m i =>
    if mask.getLsbD i then homeWrite m (base + i) [data.extractLsb' (8 * i) 8] 0#2 else m) m
  if (frameRec m base).attr = aWos then setWos m line .filling else m

/-- A host write of the input log applied again (R174, R179). -/
def replayInput (s : State) (r : InputRec) : State :=
  let m := if publishedLine s.m r.pa.toNat then s.m else mergeHost s.m r.pa.toNat r.mask r.data
  { s with m := { m with inputs := m.inputs ++ [{ r with interval := m.interval }] } }

/-- An accepted command entered again under its logged number with the outcome of its checks, and its queue's HEAD (R179, R211). -/
def replayCard (s : State) (a : Accepted) : State :=
  let (s, bad) := (checkCard s (ctxFor s a.ctx) a.card).getD (s, none)
  let s := enterCard s { num := a.queue, desc := a.qdesc, head := a.count, tail := a.count } a.seq a.card bad
  let h := a.count + 1#64
  let s := { s with hub := { s.hub with queues := s.hub.queues.map fun q =>
      if q.num = a.queue && q.desc = a.qdesc then { q with head := h } else q } }
  count (hubPost s (ctxFor s a.ctx) (qHeadVa a.qdesc) (bytesOfNat 8 h.toNat)) 0x0004#16 1#32 1

/-- Logged inputs and accepted commands replayed in the order of their numbers; the inputs and the commands are each in that order. -/
def replay : Nat → List InputRec → List Accepted → State → State
  | 0, _, _, s => s
  | fuel + 1, is, as, s =>
    match is, as with
    | [], [] => s
    | i :: is, [] => replay fuel is [] (replayInput s i)
    | [], a :: as => replay fuel [] as (replayCard s a)
    | i :: is, a :: as => if i.seq < a.seq then replay fuel is (a :: as) (replayInput s i) else replay fuel (i :: is) as (replayCard s a)

/-- The device returned to the last committed cut, and what was logged since replayed. -/
def rollBack (s : State) : State :=
  let n := s.hub.lastCommit
  let is := s.m.inputs.filter fun r => n < r.interval
  let as := s.hub.accepted.filter fun a => n < a.interval
  let t := settleChanges (restoreSaved { s with m := undoMem s.m n } (savedAt s n))
  let t := askForBad (copyAgain (answerHeld (count t 0x0004#16 0#32 1)))
  settleJhead (replay (is.length + as.length) is as t)

/-- A fault code that the spec leaves open: any but 0. -/
def freeFault (m : Mem) : Byte := if Config.freeByte m.free = 0#8 then 1#8 else Config.freeByte m.free

/-- The domain's contexts end: dispatch stops, what runs is halted, and every node ends FAULTED (R182). Its code, which R182 does not state, is a
free value (log entry 49). -/
def endDomain (s : State) : State :=
  let s := (allCtxs s).foldl (fun s x => stopCtx s x.num) s
  let s := s.hub.nodes.foldl (fun s n =>
    stopRunning (failNode { s with m := { s.m with free := s.m.free + 1 } } n.seq (freeFault s.m) 0x00) n) s
  { s with hub := { s.hub with awaited := [], frail := [] } }

/-- ABORT (R179); where a committed image is lost, the domain's contexts end (R182). -/
def execAbort (n : AbortBody) (s : State) : Host.Outcome State Fault Refusal :=
  .next (if n.interval ≠ s.hub.lastCommit then s else if n.lost then endDomain (rollBack s) else rollBack s)

/-! ### Heartbeats and death (R178, R407, R181) -/

/-- A heartbeat noted by the fabric manager. -/
def beatFrom (src : BitVec 10) (s : State) : State := { s with hub := noteBeat s.hub src (wall s) }

/-- The fabric manager as its heartbeat names it: of two that claim the role, the lower identity has it (log entry 49). -/
def followManager (src : BitVec 10) (s : State) : State :=
  if locDomain s.fab src ≠ s.fab.domain || (s.fab.fm && s.fab.ident ≤ src) then s else { s with fab := { s.fab with fmid := src, fm := false } }

/-- HEARTBEAT received (R178, log entry 49): of a device, with a fatal fault reported, or of the fabric manager itself. -/
def execHeartbeat (src : HeartbeatBody) (s : State) : Host.Outcome State Fault Refusal :=
  .next (match src.kind.toNat with
    | 1 => { s with hub := { s.hub with fatals := src.dev :: s.hub.fatals.filter (· ≠ src.dev) } }
    | 2 => beatFrom src.dev (followManager src.dev s)
    | _ => if s.fab.fm then beatFrom src.dev s else s)

/-- A millisecond has passed since the last heartbeat. -/
def beatDue (s : State) : Bool := s.fab.ident ≠ 0x3FF#10 && !s.hub.fatal && 1000000 ≤ wall s - s.hub.lastBeat

/-- The fabric manager's own heartbeat to its domain. -/
def managerBeat (s : State) : State :=
  if !s.fab.fm then s else (domainOthers s.fab).foldl (fun s d => sendOut s (shortMessage 0x26 d 0#16 2#16 (bytesOfNat 8 0))) s

/-- HEARTBEAT_TICK (R178). A device that has reported a fatal fault sends no more. -/
def execHeartbeatTick (s : State) : Host.Outcome State Fault Refusal :=
  .next (if beatDue s then managerBeat (tellManager { s with hub := { s.hub with lastBeat := wall s } } 0x26 0 0#16 (beatFrom s.fab.ident)) else s)

/-- No heartbeat of an identity for HBTMO ms, or it has reported a fatal fault (R178). -/
def silent (s : State) (id : BitVec 10) : Bool :=
  s.hub.fatals.contains id ||
    bitsNat s.hub.ckptcfg 32 16 * 1000000 ≤ wall s - ((s.hub.beats.find? fun b => b.1 = id).map (·.2)).getD 0

/-- The fabric manager declares another device dead (R178). -/
def deathDue (s : State) (id : BitVec 10) : Bool := s.fab.fm && present s.fab id && id ≠ s.fab.ident && silent s id

/-- A bridge takes the fabric manager's role over where its device is silent (R178). -/
def roleDue (s : State) : Bool :=
  s.fab.bridge && !s.fab.fm && !s.hub.fatal && s.fab.ident ≠ 0x3FF#10 && s.fab.fmid ≠ 0x3FF#10 && present s.fab s.fab.fmid && silent s s.fab.fmid

/-- The role taken over: every device has its time-out from now on, but the one that is silent. -/
def takeRole (s : State) : State :=
  if !roleDue s then s
  else
    managerBeat { s with
      fab := { s.fab with fm := true, fmid := s.fab.ident }
      hub := { noteBeats s.hub ((s.fab.loc.map (·.1)).filter (· ≠ s.fab.fmid)) (wall s) with lastCut := wall s, cutNumber := 0, cutsDone := [], votes := [] } }

/-- What names a device purged from the directories and the multicast homes (R178). -/
def purgeDevice (s : State) (id : BitVec 10) : State :=
  { s with
    m := { s.m with bridgeDir := s.m.bridgeDir.filter (fun e => e.agent / 4 ≠ id.toNat), dir := s.m.dir.filter (fun e => e.agent / 4 ≠ id.toNat),
                    asks := (s.m.asks.filter fun a => a.agent / 4 ≠ id.toNat).map fun a => { a with awaiting := a.awaiting.filter fun g => g / 4 ≠ id.toNat } }
    fab := { s.fab with multicasts := s.fab.multicasts.filter fun m => !m.members.contains id } }

/-- A location entry written here and sent to every other device of the fabric (R178, R407). -/
def spreadLocation (s : State) (id : BitVec 10) (v : DWord) : State :=
  let others := (s.fab.loc.filter fun e => e.2.getLsbD 26 && e.1 ≠ s.fab.ident && e.1 ≠ id).map (·.1)
  others.foldl (fun s d => sendOut s (fmMessage d (0x8000 + 8 * id.toNat) v)) (if id.toNat ≤ 992 then putLocation s id v else s)

/-- The identities of the domain, those without a device too, in ascending order. -/
def ringOf (s : State) : List (BitVec 10) :=
  let all := domainMembers s.fab ++ s.hub.awaited
  ((List.range 993).map (BitVec.ofNat 10)).filter all.contains

/-- The buddy of an identity: the next of the ring that stands in another zone (R423). -/
def buddyOf (s : State) (d : BitVec 10) : Option (BitVec 10) :=
  let r := ringOf s
  ((r.filter fun e => d < e) ++ r.filter fun e => e < d).find? fun e => !Config.sameZone d e

/-- A device dies of which the buddy, or whose mirrored device, has died before and is not rebuilt: a committed image is lost (R182). -/
def imageLost (s : State) (id : BitVec 10) : Bool := s.hub.frail.any fun f => f ≠ id && (buddyOf s f = some id || buddyOf s id = some f)

/-- DEVICE_DECLARED_DEAD (R178): a higher incarnation everywhere, held by no device, its entries purged, and an ABORT. -/
def execDeviceDeclaredDead (ident : BitVec 10) (s : State) : Host.Outcome State Fault Refusal :=
  .next (if !deathDue s ident then s
    else
      let v := locOf s.fab ident
      let lost := imageLost s ident
      let s := spreadLocation s ident (setBits (setBits v 0 16 (v.extractLsb' 0 16 + 1#16)) 26 1 0#1)
      let s := beatFrom ident (purgeDevice s ident)
      tellAbort { s with hub := { s.hub with fatals := s.hub.fatals.filter (· ≠ ident), frail := ident :: s.hub.frail.filter (· ≠ ident) } } lost)

/-! ### A mirror loaded, mended and received (R171, R177, R179, R407; log entry 48) -/

/-- The state of a line as AUX gives it: its WOS state, and the record of its frame. -/
def wosOf (st : BitVec 16) : Wos := match bitsNat st 1 2 with
  | 0 => .unwritten
  | 1 => .filling
  | _ => .published
def recOf (frame : Nat) (st : BitVec 16) : FrameRec := { frame := frame, attr := st.extractLsb' 3 2, key := st.extractLsb' 5 7, changing := none }

/-- The part of AUX that belongs to the line. -/
def lineBits (st : BitVec 16) : BitVec 16 := st &&& 0x0FFE#16

/-- A line for a destination's own memory. -/
def loadMessage (dst : BitVec 10) (e : MirrorLine) : Message := mirrorMessage dst e.line (e.state ||| auxLoad) e.data

/-- The escrowed key slots and then the committed generation of a dead device sent by its buddy to the standby that takes its identity, and at
its end the interval committed (R179, R407, R459). -/
def sendGeneration (s : State) (id : BitVec 10) : State :=
  let s := (s.m.escrow.filter fun e => e.1 = id).foldl (fun s e => escrowNotice s id 3 e.2) s
  let ls := s.hub.mirrorOld.filter fun e => e.src = id
  if ls.isEmpty && buddyOf s id ≠ some s.fab.ident then s
  else sendOut (ls.foldl (fun s e => sendOut s (loadMessage id e)) s) (mirrorMessage id s.hub.lastCommit (auxLoad ||| auxLast) 0#1024)

/-- A line or a page sent again: to its owner what the mirror holds of a line, or that it holds nothing; to the buddy a page as committed. -/
def sendAgain (s : State) (src : BitVec 10) (line : Nat) (st : BitVec 16) : State :=
  if hasAux st auxOwner then
    match s.hub.mirrorOld.find? fun e => e.src = src && e.line = line with
    | some e => sendOut s (loadMessage src e)
    | none => sendOut s (mirrorMessage src line (auxLoad ||| auxCopy) 0#1024)
  else
    (frameLines (line / 512)).foldl (fun s l => sendOut s (mirrorMessage src l ((committedLine s.m l).2 ||| auxOwner) (committedLine s.m l).1)) s

/-- A command of the journal that the dead device accepted after the cut (R179, R212). -/
def loggedCard (s : State) (seq : DWord) : Option (BitVec 10 × Nat × BitVec 2048) :=
  let e := BitVec.ofNat 256 (cellNat s.m.cells (journalAt seq) 32)
  if e.extractLsb' 192 64 = seq && bitsNat e 144 3 ≠ 7 && !e.getLsbD 135 then
    some (e.extractLsb' 166 10, bitsNat e 150 16, BitVec.ofNat 2048 (cellNat s.m.cells (cardAt seq) 256))
  else none

/-- A host write of the input log (R170, KIND 2). -/
def loggedInput (s : State) (seq : DWord) : Option InputRec :=
  let h := BitVec.ofNat 256 (cellNat s.m.cells (inputAt seq) 32)
  if bitsNat h 70 2 = 2 && bitsNat h 80 48 = bitsNat seq 0 48 then
    some { interval := s.m.interval, seq := seq, pa := BitVec.ofNat 52 (128 * bitsNat h 7 45 + 64 * bitsNat h 72 1), mask := h.extractLsb' 128 64
           data := BitVec.ofNat 512 (cellNat s.m.cells (inputAt seq + 32) 64) }
  else none

/-- A queue enabled, where the cut did not have it enabled. -/
def ensureQueue (s : State) (q : BitVec 10) : State :=
  if s.hub.queues.any fun r => r.num = q then s else match enableQueue s q with
    | .ok s => s
    | .error _ => s

/-- One logged number replayed at a standby. -/
def replayNumber (s : State) (seq : DWord) : State :=
  let s := match loggedInput s seq with
    | some r => replayInput s r
    | none => s
  match loggedCard s seq with
  | none => s
  | some (q, slot, card) =>
    let s := ensureQueue s q
    match s.hub.queues.find? fun r => r.num = q with
    | none => s
    | some r =>
      let n := r.head + BitVec.ofNat 64 ((slot + 65536 - r.head.toNat % 65536) % 65536)
      replayCard s { interval := s.m.interval, seq := seq, ctx := qCtx r.desc, queue := q, count := n, card := card, qdesc := r.desc }

/-- The numbers logged after the cut, in order. -/
def loggedAfter (s : State) : List DWord :=
  ((List.range journalCap).map fun i => s.hub.jtail + BitVec.ofNat 64 i).filter fun q =>
    (loggedInput s q).isSome || (cellNat s.m.cells (journalAt q + 24) 8 = q.toNat && q ≠ 0#64)

/-- The load of a mirror is complete (R179): scheduling state and contexts come from the cut, and what the dead device logged since is replayed. -/
def endLoad (n : Nat) (s : State) : State :=
  let s := loadSched { s with m := { s.m with interval := n + 1, undo := [], marks := [] } } n
  let s := { s with
    cores := s.cores.map fun (k : CoreState) => { k with free := k.free + evictableSlots k, evictable := [] }
    hub := { s.hub with lastCommit := n, rebuild := false, awaited := s.hub.awaited.filter (· ≠ s.fab.ident) } }
  let s := (s.ctxs.map (·.num)).foldl loadContext s
  let s := { s with hub := { s.hub with saved := [{ snapshot s with interval := n }] } }
  let logged := loggedAfter s
  let s := logged.foldl replayNumber s
  settleJhead { s with hub := { s.hub with jtail := (logged.getLast?.map (· + 1#64)).getD s.hub.jtail } }

/-- A line for this device's own memory: one of a struck line, or of the generation that a standby loads (R177, R179). -/
def loadLine (line : Nat) (st : BitVec 16) (data : BitVec 1024) (s : State) : State :=
  let here := fun (m : Mem) => setWos { m with cells := cellPut m.cells (128 * line) (dataBytes data 0 128) } line (wosOf st)
  if hasAux st auxLast then (if s.hub.awaited.contains s.fab.ident then endLoad line s else s)
  else if s.m.bad.contains line then
    let m := { s.m with bad := s.m.bad.filter (· ≠ line) }
    { s with m := if hasAux st auxCopy then scramble m (128 * line) 128 else here m }
  else if s.hub.awaited.contains s.fab.ident then { s with m := setFrameRec (here s.m) (recOf (line / 512) st) }
  else s

/-- A line of another device received for its mirror: of its reservation, such as its journal, and of a page sent again it joins the committed
generation at once; of a full copy too; else the pending one. -/
def receiveLine (e : MirrorLine) (st : BitVec 16) (s : State) : State :=
  let rest := s.hub.copying.filter (· ≠ e.src)
  if inReserved (128 * e.line) || hasAux st auxOwner then { s with hub := { s.hub with mirrorOld := keepLine s.hub.mirrorOld e } }
  else
    let s := if hasAux st auxCopy then
        { s with hub := { s.hub with mirrorOld := keepLine s.hub.mirrorOld e, copying := if hasAux st auxLast then rest else e.src :: rest } }
      else { s with hub := { s.hub with mirrorNew := keepLine s.hub.mirrorNew e } }
    if e.line % 512 = 511 then
      sendOut s { mop := 0x2B, dst := e.src, tag := 0#16, addr := BitVec.ofNat 80 (e.line / 512 * 512), aux := 0#16, body := [] }
    else s

/-- MIRROR (R171, R177, R179, R407): a line of another device's page, or of its reservation; the last line of a page is acknowledged. AUX says
what else it is (log entry 48). -/
def execMirror (src : BitVec 10) (frame : BitVec 36) (offset : BitVec 16) (data : MirrorBody) (s : State) : Host.Outcome State Fault Refusal :=
  let line := 512 * frame.toNat + offset.toNat / 128
  .next (if hasAux data.state auxAgain then sendAgain s src line data.state
    else if hasAux data.state auxLoad then loadLine line data.state data.bytes s
    else receiveLine { src := src, line := line, data := data.bytes, state := lineBits data.state } data.state s)

/-! ### Substitution (R181, R407) -/

/-- The memories of a device that joins under an identity: nothing cached, no record, key slot 0 alone, and unpredictable contents. -/
def blankMem (m : Mem) : Mem :=
  let lines := ((m.cells.filter fun c => inDevice c.1).map fun c => c.1 / 128).eraseDups
  let m := lines.foldl (fun m l => scramble m (128 * l) 128) (dropCaches m)
  { m with cells := (m.cells.filter fun c => !offDevice c.1) ++ m.hostMem, frames := [], wos := [], origins := [], bad := [], hostDir := [], keyFull := 1#128 }

/-- The standby takes the identity; until its mirror is loaded nothing runs on it. -/
def joinAs (ident : BitVec 10) (incarn : BitVec 16) (s : State) : State :=
  { s with
    fab := { s.fab with ident := ident, standby := false, domain := locDomain s.fab ident }
    hub := { s.hub with incarn := incarn, rebuild := true, awaited := [ident], mirrorOld := [], mirrorNew := [], copying := [] }
    m := blankMem s.m }

/-- STANDBY_SUBSTITUTE (R407, R179, R181): every device notes where the identity now is; the standby takes it, brings nothing else and awaits
its mirror; the buddy of the dead device sends the committed generation; a device that mirrors to the identity makes a full copy; the fabric
manager tells the others, and the standby what FAB_DOM of the dead device was. -/
def execStandbySubstitute (ident vertex : BitVec 10) (incarn : BitVec 16) (s : State) : Host.Outcome State Fault Refusal :=
  let v := setBits (setBits (setBits (locOf s.fab ident) 0 16 incarn) 16 10 vertex) 26 1 1#1
  let t := { putLocation s ident v with hub := { (putLocation s ident v).hub with awaited := s.hub.awaited.filter (· ≠ ident) } }
  .next (if s.fab.standby && s.fab.vertex = vertex then joinAs ident incarn t
    else
      let t := if s.fab.fm then
          sendOut (spreadLocation t ident v) (fmMessage ident 0x4010
            (BitVec.ofNat 64 (atBit 48 ((buddyOf t ident).getD 0x3FF#10).toNat + atBit 32 t.fab.ident.toNat + atBit 16 t.fab.brid.toNat + t.fab.domain.toNat)))
        else t
      let t := sendGeneration t ident
      if t.fab.buddy = ident then fullCopy t else t)

/-- The identity that a write of the fabric manager gives a device: an awaited one of the domain, or one for this standby. -/
def substitutes (s : State) (n : Nat) (v : DWord) : Option (BitVec 10) :=
  let id := BitVec.ofNat 10 ((n - 0x8000) / 8)
  let mine := s.fab.standby && s.fab.ident = 0x3FF#10 && v.extractLsb' 16 10 = s.fab.vertex
  if 0x8000 ≤ n && n ≤ 0x8000 + 8 * 992 && n % 8 = 0 && v.getLsbD 26 && (s.hub.awaited.contains id || mine) then some id else none

/-- FMWRITE (R407, R415): a location entry that gives a dead identity a device begins the substitution here. -/
def execFmwrite (offset : BitVec 16) (value : BitVec 64) (s : State) : Host.Outcome State Fault Refusal :=
  let t := fmWriteAt s offset.toNat value
  match substitutes s offset.toNat value with
  | some id => execStandbySubstitute id (value.extractLsb' 16 10) (value.extractLsb' 0 16) t
  | none => .next t

/-- REBUILD_DONE (R181): the full copy is complete, and commits resume. -/
def execRebuildDone (s : State) : Host.Outcome State Fault Refusal :=
  .next (if s.hub.mirrorPending.isEmpty && !(s.hub.mirrorQueue.any fun q => hasAux q.2.aux auxCopy) && !s.hub.awaited.contains s.fab.ident then
      castVote { s with hub := { s.hub with rebuild := false } }
    else s)

end Sys2Proof.Machine
end

