-- ==== Sys2Proof/Machine/CodeTab.lean ====
section
/-!
DEFINITION. The code-table instructions (spec/13, R359; spec/04, R75, R77, R78). Every tile that decodes or encodes does so within one
step, so that a change of a slot finds none under way.
-/
namespace Sys2Proof.Machine

/-- The pair that gives the image VA, poisoned or misaligned (R359). -/
def imageVa (s : State) (a : BitVec 8) : Run Nat :=
  let lo := sReg s.w (Fin.ofNat 64 a.toNat)
  let hi := sReg s.w (Fin.ofNat 64 (a.toNat + 1))
  match consumeS lo with
  | .error e => .error e
  | .ok _ =>
    match consumeS hi with
    | .error e => .error e
    | .ok _ =>
      let va := bitsNat (hi.val ++ lo.val) 0 80
      if va % 256 ≠ 0 then trap cMisaligned 0x00 else .ok va

/-- A slot of the context in focus set. -/
def setSlot (s : State) (k : BitVec 6) (img : Option (BitVec 2048)) : State :=
  { s with x := { s.x with tables := s.x.tables.set k.toNat img } }

/-- CTLOAD (R359): a load of the warp, whose faults are precise. -/
def execCtload (a : BitVec 8) (k : BitVec 6) (s : State) : Host.Outcome State Fault Refusal :=
  issue { rap := .no, opds := [.sregs a 2] } s fun s =>
    match imageVa s a with
    | .error e => .error e
    | .ok va => warpOnce s fun s =>
      match loadReady s with
      | .error e => .error e
      | .ok _ =>
        match readBytesVa { warpReader s 0#4 Handle.unbound with hreg := none } va 256 s with
        | .error (.wait p) => park p
        | .error (.fault c d v) => .error (.trap { code := c, detail := d, va := v })
        | .error (.stream f) => trap f.code f.detail
        | .error (.poisoned c) => trap c 0x00
        | .ok (s, bs) =>
          let img := BitVec.ofNat 2048 (natOfBytes bs)
          if !imageValid img then trap cDecodeStream 0x09 else .ok (advance (setSlot s k (some img)))

/-- CTSAVE (R359): a store of the warp; an empty slot is written as zeros. -/
def execCtsave (a : BitVec 8) (k : BitVec 6) (s : State) : Host.Outcome State Fault Refusal :=
  issue { rap := .no, opds := [.sregs a 2] } s fun s =>
    match imageVa s a with
    | .error e => .error e
    | .ok va => warpOnce s fun s =>
      match memReady s with
      | .error e => .error e
      | .ok _ =>
        match storeVa 0#4 va (bytesOfNat 256 (s.x.tables[k.toNat].getD 0#2048).toNat) s with
        | .error e => .error e
        | .ok (s, ls) => pushStore s .store ls 0#4 none

/-- CTINV (R359). -/
def execCtinv (k : BitVec 6) (s : State) : Host.Outcome State Fault Refusal :=
  issue { rap := .no, opds := [] } s fun s => warpOnce s fun s => .ok (advance (setSlot s k none))

end Sys2Proof.Machine
end

