-- ==== Sys2Proof/Machine/Coherence.lean ====
section
/-!
DEFINITION. Coherence messages and host accesses (spec/07, R157 to R166, R174, R175; spec/06, R136; spec/15, R425, R427). A line of device
memory is cached only by the dies of its own device, a host line through the group's bridge (R176); the bytes of a tracked copy stand in
the home's own cells, so that a transfer of ownership moves no byte between dies.
-/
namespace Sys2Proof.Machine

/-! ### Roles -/

/-- The physical address of a line. -/
def linePa (line : BitVec 45) : Nat := 128 * line.toNat

/-- An agent is a die of this device (R158). -/
def ownAgent (s : State) (agent : BitVec 12) : Bool := agent.toNat / 4 = s.fab.ident.toNat

/-- A line of an RC page of device memory, of which a die may hold M (R159). -/
def ownableLine (m : Mem) (pa : Nat) : Bool := inDevice pa && (frameRec m pa).attr = aRc

/-- The home grants copies of RC lines and of published WOS lines only (R159). -/
def trackedLine (m : Mem) (pa : Nat) : Bool :=
  ownableLine m pa || (inDevice pa && (frameRec m pa).attr = aWos && wosState m pa = .published)

/-- The code of a line state in a message. -/
def stateCode : LineState → Nat
  | .s => 1
  | .e => 2
  | .m => 3
  | .u => 4

/-- The state of a code; 0 is I. -/
def stateOfCode (c : BitVec 3) : Option LineState :=
  match c.toNat with
  | 1 => some .s
  | 2 => some .e
  | 3 => some .m
  | 4 => some .u
  | _ => none

/-- A coherence message (R415): the agent as its tag, the line as its address. -/
def cohMessage (mop : Byte) (dst : BitVec 10) (agent line aux : Nat) (body : List Byte) : Message :=
  { mop := mop, dst := dst, tag := BitVec.ofNat 16 agent, addr := BitVec.ofNat 80 line, aux := BitVec.ofNat 16 aux, body := body }

/-- The identity of an agent's device. -/
def agentDevice (agent : Nat) : BitVec 10 := BitVec.ofNat 10 (agent / 4)

/-- A line's bytes as a message body. -/
def lineBody (m : Mem) (line : Nat) : List Byte := cellBytes m.cells (128 * line) 128

/-! ### Host lines at the bridge (R162, R165) -/

/-- The agents of other devices that must give up or share a line before a request is granted: an E copy may have become M. -/
def askAwaits (s : State) (a : Ask) : List Nat :=
  (s.m.bridgeDir.filter fun e => e.line = a.line && e.agent ≠ a.agent && agentDevice e.agent ≠ s.fab.ident &&
    (a.want = .m || e.state = .m || e.state = .e)).map (·.agent)

/-- A state of a copy serves a request for one: M and E serve every request, S one to read. -/
def serves (st want : LineState) : Bool := want = .s || st = .m || st = .e

/-- The wants of an agent that a state of a line meets are met (R162). -/
def wantMet (m : Mem) (agent line : Nat) (st : LineState) : Mem :=
  { m with wants := m.wants.filter fun w => !(w.1 = agent && w.2.1 = line && serves st w.2.2.1) }

/-- A request granted: its agent takes the state, the others keep S or nothing, their cores' copies going with theirs, and the bridge holds
both halves from the host in that state (R162, R165). -/
def grantAsk (s : State) (a : Ask) : State :=
  let others := s.m.bridgeDir.filter fun e => e.line = a.line && e.agent ≠ a.agent
  let st : LineState := if a.want = .m then .m else if others.isEmpty then .e else .s
  let kept := if a.want = .m then [] else others.map fun e => { e with state := .s }
  let own := agentDevice a.agent = s.fab.ident
  let s := { s with m := { s.m with
    bridgeDir := { agent := a.agent, line := a.line, state := st } :: kept ++ s.m.bridgeDir.filter fun e => e.line ≠ a.line
    halves := (2 * a.line, st) :: (2 * a.line + 1, st) :: s.m.halves.filter fun e => e.1 / 2 ≠ a.line
    copies := if a.want = .m then s.m.copies.filter fun c => c.line ≠ a.line || (own && c.core / 40 = a.agent % 4) else s.m.copies } }
  if own then { s with m := wantMet s.m a.agent a.line st }
  else sendOut s (cohMessage 0x18 (agentDevice a.agent) a.agent a.line (stateCode st) (lineBody s.m a.line))

/-- A request begun: the holders of other devices are asked, and it waits for them, or it is granted at once. -/
def beginAsk (s : State) (a : Ask) : State :=
  let w := askAwaits s a
  if w.isEmpty then grantAsk s a
  else
    let s := w.foldl (fun s g => sendOut s (cohMessage (if a.want = .m then 0x14 else 0x10) (agentDevice g) g a.line 0 [])) s
    { s with m := { s.m with asks := s.m.asks ++ [{ a with awaiting := w }] } }

/-- A request of an agent for a host line at the bridge: behind an earlier one for the same line it waits. -/
def askBridge (s : State) (agent line : Nat) (want : LineState) : State :=
  let a : Ask := { agent := agent, line := line, want := want, awaiting := [] }
  if s.m.asks.any fun q => q.line = line then { s with m := { s.m with asks := s.m.asks ++ [a] } } else beginAsk s a

/-- The requests behind one that has been granted begun, up to the first that waits. -/
def nextAsks : Nat → Nat → State → State
  | 0, _, s => s
  | fuel + 1, line, s =>
    match s.m.asks.find? fun q => q.line = line with
    | none => s
    | some a =>
      let s := { s with m := { s.m with asks := s.m.asks.erase a } }
      let t := beginAsk s a
      if t.m.asks.length = s.m.asks.length then nextAsks fuel line t else t

/-- A line of host memory that an agent of this device wants, asked for: at the bridge, or by a message to it (R162, R165). -/
def askWanted (s : State) (w : Nat × Nat × LineState × Bool) : State :=
  let t := { s with m := { s.m with wants := s.m.wants.map fun q => if q = w then (w.1, w.2.1, w.2.2.1, true) else q } }
  if s.fab.bridge then askBridge t w.1 w.2.1 w.2.2.1
  else if s.fab.brid = 0x3FF#10 then s
  else sendOut t (cohMessage (if w.2.2.1 = .m then 0x11 else 0x10) s.fab.brid w.1 w.2.1 0 [])

/-- The lines that dies have come to want asked for; none after the device's report of a cut (R169). -/
def serveWants (s : State) : State :=
  if hubSealed s.hub then s else (s.m.wants.filter fun w => !w.2.2.2).foldl askWanted s

/-- The directory after a holder has answered: it keeps S where a shared copy was asked for, and nothing otherwise. -/
def keptCopy (share : Bool) (agent line : Nat) (dir : List DirEntry) : List DirEntry :=
  if share then dir.map fun e => if e.agent = agent && e.line = line then { e with state := .s } else e
  else dir.filter fun e => !(e.agent = agent && e.line = line)

/-- A held snoop of a line that leaves the holders S. -/
def sharing (line : Nat) (q : HostReq) : Bool :=
  q.pa.toNat / 128 = line && match q.snoop with
    | some st => st ≠ 0#3
    | none => false

/-- A holder has answered a request of the bridge, or a snoop. -/
def askAnswered (s : State) (agent line : Nat) : State :=
  match s.m.asks.find? fun q => q.line = line && q.awaiting.contains agent with
  | none => { s with m := { s.m with bridgeDir := keptCopy (s.m.hostHeld.any (sharing line)) agent line s.m.bridgeDir } }
  | some a =>
    let dir := keptCopy (a.want ≠ .m) agent line s.m.bridgeDir
    let b := { a with awaiting := a.awaiting.filter (· ≠ agent) }
    let s := { s with m := { s.m with bridgeDir := dir, asks := s.m.asks.map fun q => if q = a then b else q } }
    if !b.awaiting.isEmpty then s
    else
      let t := grantAsk { s with m := { s.m with asks := s.m.asks.erase b } } b
      nextAsks t.m.asks.length line t

/-! ### Requests (R162, R163) -/

/-- A shared copy at the home (R162), U copies recalled first (R164). -/
def homeShare (m : Mem) (agent line : Nat) : Mem := dirShare (recallLine m line) agent line

/-- A line of host memory asked for by a die: at the bridge, or by a message to it. -/
def askHostLine (s : State) (agent : BitVec 12) (line : BitVec 45) (want : LineState) : State :=
  if ownAgent s agent then { s with m := wantLine s.m agent.toNat line.toNat want }
  else if s.fab.bridge then askBridge s agent.toNat line.toNat want
  else s

/-- READ_SHARED (R162). A die that holds the line in M for a bridge elsewhere writes back and keeps S. -/
def execReadShared (agent : BitVec 12) (line : BitVec 45) (s : State) : Host.Outcome State Fault Refusal :=
  let pa := linePa line
  .next (if hostLineAt s pa then
      if !s.fab.bridge && ownAgent s agent && (dirGet s.m agent.toNat line.toNat).isSome then
        let dirty := dirGet s.m agent.toNat line.toNat = some .m
        sendOut { s with m := dirSet s.m agent.toNat line.toNat (some .s) }
          (cohMessage (if dirty then 0x13 else 0x19) s.fab.brid agent.toNat line.toNat 0 (if dirty then lineBody s.m line.toNat else []))
      else askHostLine s agent line .s
    else if ownAgent s agent && trackedLine s.m pa then { s with m := homeShare s.m agent.toNat line.toNat }
    else s)

/-- READ_OWN (R162): U copies are recalled, every other copy invalidated, the host's halves included. -/
def execReadOwn (agent : BitVec 12) (line : BitVec 45) (s : State) : Host.Outcome State Fault Refusal :=
  let pa := linePa line
  .next (if hostLineAt s pa then askHostLine s agent line .m
    else if ownAgent s agent && ownableLine s.m pa then { s with m := dirOwn (recallLine s.m line.toNat) agent.toNat line.toNat }
    else s)

/-- A die reduces in the copy that it owns (R163). -/
def ownsLine (m : Mem) (agent line : Nat) : Bool := dirGet m agent line = some .m || dirGet m agent line = some .e

/-- READ_UPDATE (R163): a die other than the home die that does not own the line gets a U copy of an RC line; copies of another operation or
type are recalled first, and M, E and S copies go as for ownership. -/
def execReadUpdate (agent : BitVec 12) (line : BitVec 45) (op : BitVec 3) (wide : Bool) (type : BitVec 4) (s : State) :
    Host.Outcome State Fault Refusal :=
  let l := line.toNat
  let a := agent.toNat
  .next (if !(ownAgent s agent && ownableLine s.m (linePa line) && homeDie (linePa line) ≠ a % 4) || ownsLine s.m a l then s
    else
      let other := s.m.ucopies.any fun u => u.line = l && !(u.op = op && u.wide = wide && u.type = type)
      let m := if other then recallLine s.m l else s.m
      if m.ucopies.any fun u => u.line = l && u.agent = a then { s with m := m }
      else
        { s with m := { (grantU m a l) with
            ucopies := { agent := a, line := l, op := op, wide := wide, type := type, parts := [] } :: m.ucopies } })

/-- The masked bytes of a line written at their home. -/
def mergeBytes (m : Mem) (line : Nat) (mask : BitVec 128) (data : BitVec 1024) : Mem := writeBack m line data mask 0#128

/-- The IP copy of a die written back: the bytes that it has itself written, after which it is gone (R140). -/
def dieWriteBack (m : Mem) (die line : Nat) : Mem :=
  match ipFind m (.die die) line with
  | some c => ipDrop (IpCopy.home m c) (.die die) line
  | none => m

/-- WRITE_BACK (R140, R162, R63): the bytes of an M copy, or of an IP line, reach their home; a line whose frame is no longer IP is dropped and
counted, under a context that nothing names and that is a free value (log entry 36). A die of this device writes back its own IP copy;
another's line comes as the event gives it. -/
def execWriteBack (agent : BitVec 12) (line : BitVec 45) (mask : BitVec 128) (data : BitVec 1024) (s : State) : Host.Outcome State Fault Refusal :=
  let pa := linePa line
  let a := agent.toNat
  let l := line.toNat
  .next (if hostLineAt s pa then
      if s.fab.bridge && s.m.bridgeDir.any fun e => e.agent = a && e.line = l then askAnswered { s with m := mergeBytes s.m l mask data } a l
      else if ownAgent s agent then { s with m := dieWriteBack s.m (a % 4) l }
      else s
    else if dirGet s.m a l = some .m then { s with m := dieDrop (mergeBytes s.m l mask data) a l }
    else if !inDevice pa then s
    else if (frameRec s.m pa).attr = aIp then { s with m := if ownAgent s agent then dieWriteBack s.m (a % 4) l else mergeBytes s.m l mask data }
    else count { s with m := { s.m with free := s.m.free + 1 } } 0x0011#16 (((Config.freeDWord s.m.free).setWidth 16).setWidth 32) 1)

/-- INVALIDATE (R162): a die gives its copy up, and the cores theirs; a bridge elsewhere gets the bytes of an M copy, or an
acknowledgement. A U copy returns its partial instead (R164). -/
def execInvalidate (agent : BitVec 12) (line : BitVec 45) (s : State) : Host.Outcome State Fault Refusal :=
  let a := agent.toNat
  let l := line.toNat
  .next (if !ownAgent s agent then s
    else
      let m := if dirGet s.m a l = some .u then recallLine s.m l else s.m
      let t := { s with m := dieDrop m a l }
      if !hostLineAt s (linePa line) then t
      else if s.fab.bridge then { t with m := { t.m with bridgeDir := t.m.bridgeDir.filter fun e => !(e.agent = a && e.line = l) } }
      else
        let dirty := dirGet s.m a l = some .m
        sendOut t (cohMessage (if dirty then 0x13 else 0x19) s.fab.brid a l 0 (if dirty then lineBody s.m l else [])))

/-- The masked bytes of a line applied by a die's slice, and forwarded to the core copies that it records (R161). -/
def updateBytes (m : Mem) (die line : Nat) (mask : BitVec 128) (data : BitVec 1024) : Mem :=
  nextStore ((List.range 128).foldl (fun q i =>
    if mask.getLsbD i then sliceApply q none die (line * 128 + i) [data.extractLsb' (8 * i) 8] 0#2 else q) m)

/-- UPDATE (R161): a store's bytes applied to a line that the die holds in M or E, which becomes M, and forwarded to the core copies. -/
def execUpdate (agent : BitVec 12) (line : BitVec 45) (mask : BitVec 128) (data : BitVec 1024) (s : State) : Host.Outcome State Fault Refusal :=
  let a := agent.toNat
  .next (if ownAgent s agent && ownsLine s.m a line.toNat then { s with m := dirSet (updateBytes s.m (a % 4) line.toNat mask data) a line.toNat (some .m) }
    else s)

/-- RECALL (R164): every U copy of the line returns its partial. -/
def execRecall (agent : BitVec 12) (line : BitVec 45) (s : State) : Host.Outcome State Fault Refusal :=
  .next (if s.m.ucopies.any fun u => u.line = line.toNat && u.agent = agent.toNat then { s with m := recallLine s.m line.toNat } else s)

/-- PARTIAL (R164): a returned partial; the eviction of one U copy recalls the line, and the home combines them in agent order. -/
def execPartialReturn (agent : BitVec 12) (line : BitVec 45) (s : State) : Host.Outcome State Fault Refusal :=
  .next (if dirGet s.m agent.toNat line.toNat = some .u then { s with m := recallLine s.m line.toNat } else s)

/-- GRANT (R162): a die of this device receives the state that a home grants: a bridge elsewhere for a host line, the home slice here for
a line of this device. -/
def execGrant (agent : BitVec 12) (line : BitVec 45) (state : BitVec 3) (s : State) : Host.Outcome State Fault Refusal :=
  let a := agent.toNat
  let l := line.toNat
  .next (if !ownAgent s agent then s
    else if hostLineAt s (linePa line) then
      if s.fab.bridge then s
      else
        match (stateOfCode state).filter (· ≠ .u) with
        | some st => { s with m := wantMet (dirSet s.m a l (some st)) a l st }
        | none => { s with m := dieDrop s.m a l }
    else if !trackedLine s.m (linePa line) then s
    else
      match stateOfCode state with
      | some .m => if ownableLine s.m (linePa line) then { s with m := dirOwn (recallLine s.m l) a l } else s
      | some .e | some .s => { s with m := homeShare s.m a l }
      | some .u => s
      | none => { s with m := dieDrop s.m a l })

/-- ACKNOWLEDGE (R162): a holder without dirty bytes has given up its copy, or shares it. -/
def execAcknowledge (agent : BitVec 12) (line : BitVec 45) (s : State) : Host.Outcome State Fault Refusal :=
  .next (if s.fab.bridge && hostLineAt s (linePa line) then askAnswered s agent.toNat line.toNat else s)

/-! ### Host accesses (R166, R174, R175, R425) -/

/-- The journal and its card copies, which the host reads in place (R212). -/
def inJournal (pa : Nat) : Bool :=
  Config.journalBase.toNat ≤ pa && pa < Config.journalBase.toNat + 288 * journalCap

/-- The HDM decoder of the device covers an address at which there is memory that the host may access (R425). -/
def hostReaches (pa : Nat) : Bool := inDevice pa && !inReserved pa

/-- A host access rejected and counted (R425, R464). -/
def rejectHost (s : State) : State := count s 0x0032#16 0#32 1

/-- The interval that a line's mark waits for. -/
def markOf (m : Mem) (pa : PA) : Nat := ((m.marks.find? fun k => k.1 = pa.toNat / 128).map (·.2)).getD 0

/-- A host request answered, or held while it must wait (R165, R175). -/
def askHost (s : State) (q : HostReq) : State :=
  if hostWaits s q then { s with m := { s.m with hostHeld := s.m.hostHeld ++ [{ q with interval := markOf s.m q.pa }] } } else answerHost s q

/-- A host request that the active bridge accepts, copied to the mate before it is answered (R427). -/
def copyToMate (f : Fabric) (interval : Nat) (pa : PA) (write : Option (BitVec 64 × BitVec 512)) : Fabric :=
  if f.bridge then { f with copied := f.copied ++ [(interval, pa, write)] } else f

/-- HOST_MEM_READ (R166, R175, R425): poisoned data where there is no memory for the host. -/
def execHostMemRead (pa : BitVec 52) (copy : Bool) (s : State) : Host.Outcome State Fault Refusal :=
  .next (if hostReaches pa.toNat || (inDevice pa.toNat && inJournal pa.toNat) then
      askHost { s with fab := copyToMate s.fab s.m.interval pa none } { snoop := none, copy := copy && hostReaches pa.toNat, pa := pa, interval := 0 }
    else rejectHost { s with m := { s.m with hostOut := s.m.hostOut ++ [(pa, none)] } })

/-- HOST_MEM_WRITE (R136, R166, R174, R425): logged under a number of the event arbiter, here and at the buddy, then merged; rejected and counted where there is
no memory for the host, or where the line is published. -/
def execHostMemWrite (pa : BitVec 52) (mask : BitVec 64) (data : BitVec 512) (s : State) : Host.Outcome State Fault Refusal :=
  .next (if !hostReaches pa.toNat || publishedLine s.m pa.toNat then rejectHost s
    else
      let (s, seq) := takeSeq s
      let r : InputRec := { interval := s.m.interval, seq := seq, pa := BitVec.ofNat 52 (pa.toNat / 64 * 64), mask := mask, data := data }
      let s := hubLog s (inputAt seq) (inputRecord r)
      let m := mergeHost s.m pa.toNat mask data
      { s with
        m := { m with inputs := m.inputs ++ [r] }
        fab := copyToMate s.fab s.m.interval pa (some (mask, data)) })

/-- HOST_SNOOP (R165, R175): the bridge snoops the devices that hold the line, and answers once their dirty bytes are in and no mark
holds the line. -/
def execHostSnoop (pa : BitVec 52) (state : BitVec 3) (s : State) : Host.Outcome State Fault Refusal :=
  .next (if !(s.fab.bridge && hostLineAt s pa.toNat) then s
    else
      let line := pa.toNat / 128
      let far := s.m.bridgeDir.filter fun e => e.line = line && agentDevice e.agent ≠ s.fab.ident
      let s := far.foldl (fun s e => sendOut s (cohMessage (if state = 0#3 then 0x14 else 0x10) (agentDevice e.agent) e.agent line 0 [])) s
      askHost s { snoop := some state, copy := false, pa := pa, interval := 0 })

end Sys2Proof.Machine
end

