-- ==== Sys2Proof/Machine/Link.lean ====
section
/-!
DEFINITION. The Bridle fabric (spec/15, R402 to R421): vertices and ports, training and loss of a link, flits sent and received, replay,
routes and flows, messages packed into flits and read from them, and link keys.
-/
namespace Sys2Proof.Machine

/-! ### The plane (R402, R403) -/

/-- The coordinates of a vertex over the plane of order `q` (R402). -/
def vertexPoint (q v : Nat) : Nat × Nat × Nat :=
  if v < q * q then (1, v / q, v % q) else if v < q * q + q then (0, 1, v - q * q) else (0, 0, 1)

/-- Two distinct vertices are joined (R403). -/
def joined (q x y : Nat) : Bool :=
  let a := vertexPoint q x
  let b := vertexPoint q y
  x ≠ y && (a.1 * b.1 + a.2.1 * b.2.1 + a.2.2 * b.2.2) % q = 0

/-- The neighbours of a vertex in ascending order, which are its ports from P0 on. -/
def neighbours (q x : Nat) : List Nat := (List.range (q * q + q + 1)).filter fun y => joined q x y

/-- The vertex that R403 assigns to a port of this device. -/
def assignedPeer (f : Fabric) (port : Nat) : Option Nat :=
  if port < 32 then (neighbours Config.planeOrder.toNat f.vertex.toNat)[port]? else none

/-! ### Ports -/

/-- The port of a number. -/
def portAt (f : Fabric) (n : Nat) : Port := f.ports.toList.getD n Port.reset
/-- One port changed. -/
def onPort (s : State) (n : Nat) (f : Port → Port) : State :=
  { s with fab := { s.fab with ports := vecOf 36 fun i => if i.val = n then f s.fab.ports[i] else s.fab.ports[i] } }
/-- A port carries traffic: UP, and after a repair from the next cut on (R412). -/
def portUsable (s : State) (n : Nat) : Bool := (portAt s.fab n).state = 2#2 && (portAt s.fab n).quiet ≤ s.m.interval
/-- Flits and messages dropped, counted (R464). -/
def countDrop (s : State) : State := count s 0x0031#16 0#32 1

/-! ### Headers (R414) -/

def flitKg (h : BitVec 64) : Bool := h.getLsbD 63
def flitClass (h : BitVec 64) : BitVec 2 := h.extractLsb' 61 2
def flitHop (h : BitVec 64) : BitVec 2 := h.extractLsb' 59 2
def flitVal (h : BitVec 64) : Bool := h.getLsbD 58
def flitMid (h : BitVec 64) : BitVec 10 := h.extractLsb' 48 10
def flitDst (h : BitVec 64) : BitVec 10 := h.extractLsb' 38 10
def flitSrc (h : BitVec 64) : BitVec 10 := h.extractLsb' 28 10
def flitSinc (h : BitVec 64) : BitVec 16 := h.extractLsb' 12 16
def flitLseq (h : BitVec 64) : BitVec 12 := h.extractLsb' 0 12

/-- A header at its source, before its link gives it KG and LSEQ. -/
def flitHeader (cls : BitVec 2) (mid : Option (BitVec 10)) (dst src : BitVec 10) (sinc : BitVec 16) : BitVec 64 :=
  BitVec.ofNat 64 (atBit 61 cls.toNat + (match mid with
    | some w => atBit 58 1 + atBit 48 w.toNat
    | none => 0) + atBit 38 dst.toNat + atBit 28 src.toNat + atBit 12 sinc.toNat)

/-! ### Routes (R408) -/

/-- The port toward a vertex: MIN, or ALT when MIN is not usable (R408). -/
def routePort (s : State) (v : BitVec 10) : Option Nat :=
  let e := routeOf s.fab v
  let min := bitsNat e 0 6
  let alt := bitsNat e 6 6
  if !e.getLsbD 16 then none
  else if portUsable s min then some min
  else if portUsable s alt then some alt
  else none

/-- Where a flit is routed to: MID, a management vertex, or the vertex of its destination (R408, R409, R414). -/
def flitTarget (f : Fabric) (h : BitVec 64) : BitVec 10 :=
  if flitVal h then flitMid h else if flitClass h = 3#2 then flitDst h else locVertex f (flitDst h)

/-- A flit put in the queue of its port; without one it is dropped and counted (R408). -/
def routeFlit (s : State) (q : Flit) : State :=
  match routePort s (flitTarget s.fab q.header) with
  | some n => onPort s n fun p => { p with outbox := p.outbox ++ [q] }
  | none => countDrop s

/-! ### Sending (R409, R415, R416) -/

/-- The class of a message (R414): requests, responses, multicast copies, management. -/
def messageClass (m : Message) : BitVec 2 :=
  let n := m.mop.toNat
  if 0x30 ≤ n then 3#2
  else if n = 0x05 && m.addr.getLsbD 58 then 2#2
  else if (0x06 ≤ n && n ≤ 0x09) || n = 0x13 || (0x17 ≤ n && n ≤ 0x19) || n = 0x21 || n = 0x23 || n = 0x2B then 1#2
  else 0#2

/-- The bytes of a message, its header first; NFL is the number of further flits (R415). -/
def messageBytes (m : Message) : List Byte :=
  let nfl := (16 + m.body.length + 231) / 232 - 1
  bytesOfNat 16 (atBit 120 m.mop.toNat + atBit 116 nfl + atBit 96 m.tag.toNat + atBit 16 m.addr.toNat + m.aux.toNat) ++ m.body

/-- Bytes cut into payloads of 232, the last filled with zeros (R413). -/
def payloads : Nat → List Byte → List (List Byte)
  | 0, _ => []
  | fuel + 1, bs => if bs.isEmpty then [] else (bs.take 232 ++ List.replicate (232 - bs.length) 0#8) :: payloads fuel (bs.drop 232)

/-- The flits of the queue of a port in one class. -/
def queueLength (p : Port) (cls : BitVec 2) : Nat := (p.outbox.filter fun q => flitClass q.header = cls).length

/-- The populated vertices that an intermediate path may take (R409). -/
def midVertices (s : State) (dst : BitVec 10) : List (BitVec 10) :=
  ((s.fab.loc.filter fun e => e.2.getLsbD 26).map fun e => locVertex s.fab e.1).filter fun v => v ≠ s.fab.vertex && v ≠ locVertex s.fab dst

/-- The queue length of the first port toward a vertex. -/
def firstQueue (s : State) (v : BitVec 10) (cls : BitVec 2) : Nat :=
  match routePort s v with
  | some n => queueLength (portAt s.fab n) cls
  | none => 0

/-- The path of a flow (R409): kept while a message of it is not acknowledged by DACK; else minimal, or through a vertex picked at random
(a free value) when the queues say so. -/
def choosePath (s : State) (dst : BitVec 10) (cls : BitVec 2) : State × Option (BitVec 10) :=
  match s.fab.flows.find? fun q => q.1 = dst && q.2.1 = cls && q.2.2.1 ≠ 0 with
  | some q => (s, q.2.2.2)
  | none =>
    match midVertices s dst with
    | [] => (s, none)
    | vs =>
      let w := vs.getD ((Config.freeDWord s.m.free).toNat % vs.length) 0#10
      let s := { s with m := { s.m with free := s.m.free + 1 } }
      if 2 * firstQueue s w cls + 4 * s.fab.adth.toNat < firstQueue s (locVertex s.fab dst) cls then (s, some w) else (s, none)

/-- A message of a flow that awaits its DACK noted, with the flow's path. -/
def noteFlow (f : Fabric) (dst : BitVec 10) (cls : BitVec 2) (mid : Option (BitVec 10)) : Fabric :=
  let n := ((f.flows.find? fun q => q.1 = dst && q.2.1 = cls).map fun q => q.2.2.1).getD 0
  { f with flows := (dst, cls, n + 1, mid) :: f.flows.filter fun q => !(q.1 = dst && q.2.1 = cls) }

/-- A message cut into flits that take their route. Management goes from vertex to vertex, minimally; a message to an identity that is
not present is dropped and counted (R421). -/
def sendMessage (s : State) (m : Message) : State :=
  let cls := messageClass m
  let bs := messageBytes m
  if cls = 3#2 then
    (payloads 16 bs).foldl (fun s b => routeFlit s ⟨flitHeader cls none (locVertex s.fab m.dst) s.fab.vertex s.hub.incarn, b⟩) s
  else if !present s.fab m.dst then { s with fab := { s.fab with stale := s.fab.stale + 1#64 } }
  else
    let (s, mid) := choosePath s m.dst cls
    let s := if m.mop = 0x09#8 then s else { s with fab := noteFlow s.fab m.dst cls mid }
    (payloads 16 bs).foldl (fun s b => routeFlit s ⟨flitHeader cls mid m.dst s.fab.ident s.hub.incarn, b⟩) s

/-- Every message of the device sent. A standby sends management only (R407). -/
def sendMessages (s : State) : State :=
  let ms := s.fab.outbox.filter fun m => !s.fab.standby || messageClass m = 3#2
  ms.foldl sendMessage { s with fab := { s.fab with outbox := [] } }

/-- A flit put on the link with the bank in use and the next LSEQ (R416, R418). -/
def transmit (p : Port) (q : Flit) : Port :=
  let h := setBits (setBits q.header 63 1 (BitVec.ofBool p.txkg)) 0 12 p.txSeq
  { p with replay := p.replay ++ [{ q with header := h }], txSeq := p.txSeq + 1#12, count := p.count + 1#64 }

/-- The queued flits that the replay buffer of 512 still takes are sent (R416). -/
def pumpPort (p : Port) : Port :=
  let k := 512 - p.replay.length
  (p.outbox.take k).foldl transmit { p with outbox := p.outbox.drop k }

/-- Every port that carries traffic sends. -/
def pumpPorts (s : State) : State :=
  { s with fab := { s.fab with ports := vecOf 36 fun i => if portUsable s i.val then pumpPort s.fab.ports[i] else s.fab.ports[i] } }

/-! ### Link keys (R417 to R419) -/

/-- A management message for the far end of a port. -/
def toPeer (s : State) (n : Nat) (mop : Byte) (aux : Nat) : State :=
  let m : Message := { mop := mop, dst := 0#10, tag := 0#16, addr := 0#80, aux := BitVec.ofNat 16 aux, body := [] }
  let h := flitHeader 3#2 none (portAt s.fab n).peer s.fab.vertex s.hub.incarn
  onPort s n fun p => { p with outbox := p.outbox ++ (payloads 1 (messageBytes m)).map fun b => ⟨h, b⟩ }

/-- The sending bank has carried 2^47 flits (R418). -/
def rekeyDue (p : Port) : Bool := p.state = 2#2 && !p.rekey && 2 ^ 47 ≤ p.count.toNat

/-- The receiver's side of a rekey (R419, step 2): the new keys are installed in the bank that the newest keys are not in. -/
def installKeys (s : State) (n : Nat) : State :=
  toPeer (onPort s n fun p => { p with
    rekey := true, rekeyWaits := false, rxkg := !p.rxkg, rxBanks := p.rxBanks ||| (if p.rxkg then 1#2 else 2#2) }) n 0x31 0

/-- REKEY (R418, R419): the transmitter whose bank is due asks; else the request of the far end is served, or waits for the end of the
rekey in progress. -/
def execRekey (port : BitVec 6) (s : State) : Host.Outcome State Fault Refusal :=
  let n := port.toNat
  let p := portAt s.fab n
  .next (if p.state ≠ 2#2 then s
    else if rekeyDue p then toPeer (onPort s n fun p => { p with rekey := true }) n 0x30 3
    else if p.rekey then onPort s n fun p => { p with rekeyWaits := true }
    else installKeys s n)

/-- The end of a rekey: one that waits starts (R418). -/
def rekeyEnded (s : State) (n : Nat) : State := if (portAt s.fab n).rekeyWaits then installKeys s n else s

/-- RETIRE is sent, and the old bank erased, once every flit under it is acknowledged (R419, steps 4 and 5). -/
def finishRekey (s : State) (n : Nat) : State :=
  let p := portAt s.fab n
  if p.rekey && p.txBanks = 3#2 && p.replay.all fun q => flitKg q.header = p.txkg then
    let s := onPort s n fun p => { p with rekey := false, txBanks := if p.txkg then 2#2 else 1#2 }
    rekeyEnded (toPeer s n 0x32 0) n
  else s

/-- KEYRDY (R419, step 3): the next new flit carries the other bank; replays keep theirs. -/
def execKeyrdy (port : BitVec 6) (s : State) : Host.Outcome State Fault Refusal :=
  let n := port.toNat
  let p := portAt s.fab n
  .next (if p.state = 2#2 && p.rekey && p.txBanks ≠ 3#2 then
      finishRekey (onPort s n fun p => { p with txkg := !p.txkg, txBanks := 3#2, generation := p.generation + 1#64, count := 0#64 }) n
    else s)

/-- RETIRE (R419, step 5): the receiver erases the old bank. -/
def execRetire (port : BitVec 6) (s : State) : Host.Outcome State Fault Refusal :=
  let n := port.toNat
  let p := portAt s.fab n
  .next (if p.state = 2#2 && p.rxBanks = 3#2 then
      rekeyEnded (onPort s n fun p => { p with rekey := false, rxBanks := if p.rxkg then 2#2 else 1#2 }) n
    else s)

/-! ### Training and loss (R403, R412) -/

/-- A trained port: a new session, its first keys in bank 0, its sequence numbers at 0; a repaired link is quiet until the next cut. -/
def trainedPort (interval : Nat) (vertex : BitVec 10) (p : Port) : Port :=
  { Port.reset with replays := p.replays, peer := vertex, state := 2#2, txBanks := 1#2, rxBanks := 1#2, quiet := if p.quiet = 0 then 0 else interval + 1 }

/-- LINK_TRAIN (R403, R405, R428, R455): a fabric port whose peer reports the assigned vertex comes UP, another stays DOWN and is counted; an
attachment port is attached. A device that failed its boot leaves every port down. -/
def execLinkTrain (port : BitVec 6) (vertex : BitVec 10) (s : State) : Host.Outcome State Fault Refusal :=
  let n := port.toNat
  .next (if s.hub.fail || s.hub.stage.toNat < 4 || 36 ≤ n || (portAt s.fab n).state ≠ 0#2 then s
    else if 32 ≤ n then onPort s n fun p => { p with state := 3#2 }
    else if assignedPeer s.fab n = some vertex.toNat then onPort s n (trainedPort s.m.interval vertex)
    else count s 0x0030#16 (BitVec.ofNat 32 n) 1)

/-- Sixteen replays in a row have failed: `fails` counts the one under way too (R412). -/
def linkDownDue (p : Port) : Bool := p.state = 2#2 && 17 ≤ p.fails

/-- LINK_DOWN (R412, R419): keys are erased, the queued flits take another route, and flits of the link not acknowledged make the device
unsound. -/
def execLinkDown (port : BitVec 6) (s : State) : Host.Outcome State Fault Refusal :=
  let n := port.toNat
  let p := portAt s.fab n
  .next (if !linkDownDue p then s
    else
      let s := onPort s n fun p => { Port.reset with replays := p.replays, peer := p.peer, quiet := s.m.interval + 1 }
      let s := p.outbox.foldl routeFlit s
      if p.replay.isEmpty then s else voteUnsound s)

/-- NAK (R416): flits before the named LSEQ are acknowledged, and the rest are resent as first sent. A NAK that names the next LSEQ to be
sent is a plain acknowledgement. -/
def execNak (port : BitVec 6) (lseq : BitVec 12) (s : State) : Host.Outcome State Fault Refusal :=
  let n := port.toNat
  let p := portAt s.fab n
  let first := p.txSeq - BitVec.ofNat 12 p.replay.length
  let k := (lseq - first).toNat
  .next (if p.state ≠ 2#2 || p.replay.length < k then s
    else
      let rest := p.replay.drop k
      finishRekey (onPort s n fun p => { p with
        replay := rest
        replays := if rest.isEmpty || p.replays = 0xFFFF#16 then p.replays else p.replays + 1#16
        fails := if rest.isEmpty then 0 else if k = 0 then p.fails + 1 else 1 }) n)

/-- DACK (R409): one message of the flow is acknowledged. -/
def execDack (dst : BitVec 10) (cls : BitVec 2) (s : State) : Host.Outcome State Fault Refusal :=
  .next { s with fab := { s.fab with flows := s.fab.flows.map fun q =>
    if q.1 = dst && q.2.1 = cls then (q.1, q.2.1, q.2.2.1 - 1, q.2.2.2) else q } }

/-! ### Messages received (R415, R420) -/

/-- A message header's fields, and its body, as received on a port from a source identity, or for management a vertex. -/
structure Received where
  port : Nat
  src : BitVec 10
  mop : Nat
  tag : BitVec 16
  addr : BitVec 80
  aux : BitVec 16
  body : List Byte
  deriving DecidableEq, Repr

/-- MODE of a request as its address word gives it. -/
def wireMode (addr : BitVec 80) : Word := BitVec.ofNat 32 (atBit 5 (bitsNat addr 51 4) + atBit 14 (bitsNat addr 55 3))

/-- The access size of a request, and how many data bytes each lane brings. -/
def wireSize (op : BitVec 3) (addr : BitVec 80) (peer : Word) : Nat := remoteSize { Warp.empty with mode := wireMode addr } op peer
def wireData (op : BitVec 3) (addr : BitVec 80) (peer : Word) : Nat :=
  if op = 0#3 then 0 else wireSize op addr peer * (if op = 2#3 && peerAop peer = 7#3 then 2 else 1)

/-- The number of lanes whose data an ACK of a tag brings. -/
def ackLanes (s : State) (tag : BitVec 16) : Nat :=
  (((allWarps s).flatMap (·.remotes)).find? fun r => r.sent && r.tag = tag).elim 0 fun r => if r.op = 0#3 || r.op = 2#3 then r.lanes.length else 0

/-- The length of the body of a message, from its header and what follows it (R415). -/
def bodyLength (s : State) (r : Received) : Nat :=
  let n := popNat 64 (natOfBytes (r.body.take 8))
  if 1 ≤ r.mop && r.mop ≤ 5 then
    let op := BitVec.ofNat 3 (r.mop - 1)
    let peer := BitVec.ofNat 32 (natOfBytes ((r.body.drop 8).take 4))
    12 + n * (4 + wireData op r.addr peer) + (if r.addr.getLsbD 58 then 8 else 0)
  else
    match r.mop with
    | 0x06 => if r.addr = 0#80 then 8 * ackLanes s r.tag else 0
    | 0x07 => 8
    | 0x08 => 9
    | 0x13 | 0x18 => 128
    | 0x15 => 144
    | 0x20 | 0x21 | 0x22 | 0x23 | 0x24 | 0x25 | 0x26 | 0x33 => 8
    | 0x27 => 256
    | 0x2A => 128
    | 0x30 => r.tag.toNat
    | _ => 0

/-- The lanes of a request's body: mask, peer word, offsets, data. -/
def wireRequest (r : Received) : RemoteReq :=
  let op := BitVec.ofNat 3 (r.mop - 1)
  let mask := BitVec.ofNat 64 (natOfBytes (r.body.take 8))
  let peer := BitVec.ofNat 32 (natOfBytes ((r.body.drop 8).take 4))
  let lanes := laneList mask
  let size := wireSize op r.addr peer
  let per := wireData op r.addr peer
  let offAt := fun i => BitVec.ofNat 32 (natOfBytes ((r.body.drop (12 + 4 * i)).take 4))
  let dataAt := fun i =>
    let b := (r.body.drop (12 + 4 * lanes.length + per * i)).take per
    BitVec.ofNat 128 (natOfBytes (b.take size) + 2 ^ 64 * natOfBytes (b.drop size))
  { op := op, src := r.src, tag := r.tag, ctx := r.addr.extractLsb' 16 16, peer := peer, index := r.addr.extractLsb' 0 16, mode := wireMode r.addr
    space := r.addr.extractLsb' 48 3, gang := r.addr.extractLsb' 32 16
    lanes := lanes.zipIdx.map fun l => (l.1.val, offAt l.2, dataAt l.2)
    place := if r.addr.getLsbD 58 then some (natOfBytes (r.body.drop (12 + lanes.length * (4 + per)))) else none }

/-- The next state of an effect that always has one. -/
def after (o : Host.Outcome State Fault Refusal) (s : State) : State :=
  match o with
  | .next t => t
  | _ => s

/-- An escrow notice of another device's security controller (R459): a slot filled, emptied, or to be loaded here. -/
def noteEscrow (s : State) (src : BitVec 10) (kind : Nat) (slot : BitVec 7) : State :=
  let rest := s.m.escrow.filter fun e => !(e.1 = src && e.2 = slot)
  match kind with
  | 1 => { s with m := { s.m with escrow := (src, slot) :: rest } }
  | 2 => { s with m := { s.m with escrow := rest } }
  | _ => { s with m := { s.m with keyFull := s.m.keyFull ||| (1#128 <<< slot.toNat) } }

/-- The bytes that a GRANT of a host line brings put in their place (R162, R415). -/
def grantedLine (agent : BitVec 12) (line : BitVec 45) (body : List Byte) (s : State) : State :=
  if s.fab.bridge || !ownAgent s agent || !hostLineAt s (linePa line) then s
  else { s with m := { s.m with cells := cellPut s.m.cells (linePa line) (body.take 128) } }

/-- A message of the coherence protocol (0x10 to 0x19). -/
def cohReceived (r : Received) (s : State) : State :=
  let a := r.tag.setWidth 12
  let l := r.addr.setWidth 45
  let all := BitVec.allOnes 128
  after (match r.mop with
    | 0x10 => execReadShared a l s
    | 0x11 => execReadOwn a l s
    | 0x12 => execReadUpdate a l (r.aux.extractLsb' 0 3) (r.aux.getLsbD 3) (r.aux.extractLsb' 4 4) s
    | 0x13 => execWriteBack a l all (BitVec.ofNat 1024 (natOfBytes r.body)) s
    | 0x14 => execInvalidate a l s
    | 0x15 => execUpdate a l (BitVec.ofNat 128 (natOfBytes (r.body.take 16))) (BitVec.ofNat 1024 (natOfBytes (r.body.drop 16))) s
    | 0x16 => execRecall a l s
    | 0x17 => execPartialReturn a l s
    | 0x18 => execGrant a l (r.aux.extractLsb' 0 3) (grantedLine a l r.body s)
    | _ => execAcknowledge a l s) s

/-- A message of the domain or the mirror (0x20 to 0x2B). -/
def domainReceived (r : Received) (s : State) : State :=
  let n := natOfBytes r.body
  after (match r.mop with
    | 0x20 => execCut n s
    | 0x21 => execCutdone n r.src s
    | 0x22 => execResume n s
    | 0x23 => execVote n r.src (r.aux.getLsbD 0) s
    | 0x24 => execCommit n s
    | 0x25 => execAbort ⟨n, r.aux.getLsbD 0⟩ s
    | 0x26 => execHeartbeat ⟨r.src, r.aux.extractLsb' 0 2⟩ s
    | 0x27 => execReserve r.src (r.addr.setWidth 64) r.aux (BitVec.ofNat 2048 n) s
    | 0x28 => execGcommit r.src (r.addr.setWidth 64) s
    | 0x29 => execGrelease r.src (r.addr.setWidth 64) s
    | 0x2A => execMirror r.src (BitVec.ofNat 36 (r.addr.toNat / 512)) (BitVec.ofNat 16 (128 * (r.addr.toNat % 512))) ⟨BitVec.ofNat 1024 n, r.aux⟩ s
    | _ => execMirrorack (BitVec.ofNat 36 (r.addr.toNat / 512)) s) s

/-- The identity of the device at a vertex (R406). -/
def identityAt (f : Fabric) (v : BitVec 10) : BitVec 10 := ((f.loc.find? fun e => e.2.getLsbD 26 && locVertex f e.1 = v).map (·.1)).getD 0x3FF#10

/-- A request for the SPDM responder over the fabric (R456), a rekey of the link (R419), or an escrow notice (R459). -/
def spdmReceived (r : Received) (s : State) : State :=
  match r.aux.toNat with
  | 0 => { s with hub := { s.hub with replies := s.hub.replies ++ [Config.spdmAnswer (r.body.headD 0#8) (r.body.drop 1)] } }
  | 3 => after (execRekey (BitVec.ofNat 6 r.port) s) s
  | _ => noteEscrow s (identityAt s.fab r.src) (natOfBytes (r.body.take 1)) (BitVec.ofNat 7 (natOfBytes ((r.body.drop 1).take 1)))

/-- A message that does not pass between domains: coherence, cuts and commits, reservations, the mirror (R176). -/
def domainBound (mop : Nat) : Bool := 0x10 ≤ mop && mop ≤ 0x2B && mop ≠ 0x25 && mop ≠ 0x26

/-- A message performed; one of a reserved operation (R415), and one that does not pass between domains (R176), is dropped and counted. -/
def performMessage (r : Received) (s : State) : State :=
  if domainBound r.mop && locDomain s.fab r.src ≠ s.fab.domain then countDrop s
  else if 1 ≤ r.mop && r.mop ≤ 5 then post s (wireRequest r).event
  else if 0x10 ≤ r.mop && r.mop ≤ 0x19 then cohReceived r s
  else if 0x20 ≤ r.mop && r.mop ≤ 0x2B then domainReceived r s
  else
    match r.mop with
    | 0x06 =>
      if r.addr ≠ 0#80 then post s (.gangAcknowledgement (r.addr.setWidth 64) r.src)
      else post s (.ack r.src r.tag ((List.range (r.body.length / 8)).map fun i => BitVec.ofNat 64 (natOfBytes ((r.body.drop (8 * i)).take 8))))
    | 0x07 => post s (.rnr r.src r.tag (BitVec.ofNat 64 (natOfBytes r.body)) (r.aux.setWidth 8))
    | 0x08 => post s (.err r.src r.tag (BitVec.ofNat 64 (natOfBytes (r.body.take 8))) (r.aux.setWidth 8) (BitVec.ofNat 8 (natOfBytes (r.body.drop 8))))
    | 0x09 => after (execDack r.src (r.aux.extractLsb' 0 2) s) s
    | 0x30 => spdmReceived r s
    | 0x31 => after (execKeyrdy (BitVec.ofNat 6 r.port) s) s
    | 0x32 => after (execRetire (BitVec.ofNat 6 r.port) s) s
    | 0x33 => after (execFmwrite (r.addr.extractLsb' 0 16) (BitVec.ofNat 64 (natOfBytes r.body)) s) s
    | _ => countDrop s

/-- The header at the front of payload bytes. -/
def messageHeader (port : Nat) (src : BitVec 10) (bs : List Byte) : Received :=
  let h := BitVec.ofNat 128 (natOfBytes (bs.take 16))
  { port := port, src := src, mop := bitsNat h 120 8, tag := h.extractLsb' 96 16, addr := h.extractLsb' 16 80, aux := h.extractLsb' 0 16
    body := bs.drop 16 }

/-- A delivery acknowledgement for a message (R409); management and DACK itself get none. -/
def sendDack (s : State) (cls : BitVec 2) (r : Received) : State :=
  if cls = 3#2 || r.mop = 0x09 then s else sendOut s (shortMessage 0x09 r.src 0#16 (cls.setWidth 16) [])

/-- The complete messages at the front of a flow's bytes performed in order (R411); what is left belongs to a message of which further
flits are to come (R415). -/
def takeMessages : Nat → Nat → BitVec 10 → BitVec 2 → List Byte → State → State × List Byte
  | 0, _, _, _, _, s => (s, [])
  | fuel + 1, port, src, cls, bs, s =>
    if bs.all fun b => b = 0#8 then (s, [])
    else if bs.length < 16 then (s, bs)
    else
      let r := messageHeader port src bs
      let nfl := bitsNat (BitVec.ofNat 128 (natOfBytes (bs.take 16))) 116 4
      if (bs.length - 1) / 232 < nfl then (s, bs)
      else
        let n := bodyLength s r
        let s := performMessage { r with body := r.body.take n } (sendDack s cls r)
        takeMessages fuel port src cls (bs.drop (16 + n)) s

/-- The payload of a flit that has arrived joins its flow. -/
def deliverFlit (s : State) (port : Nat) (h : BitVec 64) (payload : List Byte) : State :=
  let src := flitSrc h
  let cls := flitClass h
  let old := ((s.fab.partials.find? fun q => q.1 = src && q.2.1 = cls).map (·.2.2)).getD []
  let r := takeMessages 256 port src cls (old ++ payload) s
  let rest := r.1.fab.partials.filter fun q => !(q.1 = src && q.2.1 = cls)
  { r.1 with fab := { r.1.fab with partials := if r.2.isEmpty then rest else (src, cls, r.2) :: rest } }

/-! ### FLIT (R410, R416, R418, R421) -/

/-- The link accepts a flit: the LSEQ next expected, a bank that holds keys, a tag that verifies (R416, R418). -/
def linkAccepts (p : Port) (h : BitVec 64) (tagOk : Bool) : Bool :=
  flitLseq h = p.rxSeq && tagOk && p.rxBanks.getLsbD (flitKg h).toNat

/-- A flit that R421 drops: a stale incarnation, or an identity that is not present; management is exempt. -/
def staleFlit (f : Fabric) (h : BitVec 64) : Bool :=
  flitClass h ≠ 3#2 && (flitSinc h ≠ locIncarn f (flitSrc h) || !present f (flitSrc h) || !present f (flitDst h))

/-- A flit sent on (R409, R410): HOP increased; one that would reach HOP 4 is dropped and counted. -/
def forwardFlit (s : State) (h : BitVec 64) (payload : List Byte) : State :=
  if flitHop h = 3#2 then countDrop s else routeFlit s ⟨setBits h 59 2 (flitHop h + 1#2), payload⟩

/-- An accepted flit: VAL and MID are cleared at MID; it is delivered at its destination, and forwarded elsewhere. A standby carries management
only, and drops and counts the rest (R407). -/
def passFlit (s : State) (port : Nat) (h : BitVec 64) (payload : List Byte) : State :=
  let h := if flitVal h && flitMid h = s.fab.vertex then setBits h 48 11 0#11 else h
  let mine := if flitClass h = 3#2 then flitDst h = s.fab.vertex else flitDst h = s.fab.ident
  if s.fab.standby && flitClass h ≠ 3#2 then countDrop s
  else if !flitVal h && mine then deliverFlit s port h payload else forwardFlit s h payload

/-- FLIT (R416, R421): checked by its link, which answers a gap or a failed tag with a NAK; then dropped if stale, delivered or
forwarded. -/
def execFlit (port : BitVec 6) (header : BitVec 64) (payload : List (BitVec 8)) (tagOk : Bool) (s : State) : Host.Outcome State Fault Refusal :=
  let n := port.toNat
  let p := portAt s.fab n
  .next (if p.state ≠ 2#2 then s
    else if !linkAccepts p header tagOk then onPort s n fun p => { p with nak := true }
    else
      let s := onPort s n fun p => { p with rxSeq := p.rxSeq + 1#12, nak := false }
      if staleFlit s.fab header then { s with fab := { s.fab with stale := s.fab.stale + 1#64 } }
      else passFlit s n header payload)

end Sys2Proof.Machine
end

