-- ==== Sys2Proof/Machine/Mask.lean ====
section
/-!
DEFINITION. Masks, predicates and comparisons (spec/11, R271 to R273).
-/
namespace Sys2Proof.Machine

/-- The code of the lowest poisoned lane of a predicate. -/
def predPoison (w : Warp) (m : Mask) (p : BitVec 4) : Option Byte :=
  (firstLane m fun l => (predLane w p l).poison).map fun l => (predLane w p l).code

/-- The bits of a predicate as a mask. -/
def predMask (w : Warp) (p : BitVec 4) : Mask := laneMask fun l => (predLane w p l).bit

/-- MSET (R271): all 64 lanes. -/
def execMset (d : BitVec 4) (a : BitVec 8) (s : State) : Host.Outcome State Fault Refusal :=
  issue { rap := .no, opds := [.pdst d, .ssrc a] } s fun s =>
    match readS s a with
    | .error e => .error e
    | .ok (s, x) =>
      match consumeS x with
      | .error e => .error e
      | .ok _ => .ok (advance { s with w := setP s.w d (BitVec.allOnes 64) fun l => ⟨x.val.getLsbD l, false, 0#8⟩ })

/-- MGET (R271): performed even when no lane is active. -/
def execMget (d : BitVec 8) (a : BitVec 4) (s : State) : Host.Outcome State Fault Refusal :=
  issue { rap := .no, opds := [.sdst d] } s fun s =>
    let x : Scalar := match predPoison s.w (BitVec.allOnes 64) a with
      | some c => poisonScalar c
      | none => ⟨predMask s.w a, false⟩
    .ok (advance { s with w := setS s.w (Fin.ofNat 64 d.toNat) x })

/-- MSETX (R271): EXEC := s[a] & M. -/
def execMsetx (a : BitVec 8) (s : State) : Host.Outcome State Fault Refusal :=
  issue { rap := .no, opds := [.ssrc a] } s fun s =>
    match readS s a with
    | .error e => .error e
    | .ok (s, x) =>
      match consumeS x with
      | .error e => .error e
      | .ok _ => .ok (advance { s with w := { s.w with exec := x.val &&& s.w.m } })

/-- MGETX (R271). -/
def execMgetx (d : BitVec 8) (s : State) : Host.Outcome State Fault Refusal :=
  issue { rap := .no, opds := [.sdst d] } s fun s => .ok (advance { s with w := setS s.w (Fin.ofNat 64 d.toNat) ⟨s.w.exec, false⟩ })

/-- A predicate lane computed from two others, with their poison (R65, R272). -/
def predOut (x y : PLane) (f : Bool → Bool → Bool) : PLane :=
  if x.poison then x else if y.poison then y else ⟨f x.bit y.bit, false, 0#8⟩

/-- A per-lane predicate operation (R272). -/
def predBin (d a b : BitVec 4) (f : Bool → Bool → Bool) (s : State) : Host.Outcome State Fault Refusal :=
  issue { rap := .no, opds := [.pdst d] } s fun s =>
    .ok (advance { s with w := setP s.w d (active s.w) fun l => predOut (predLane s.w a l) (predLane s.w b l) f })

/-- PAND (R272). -/
def execPand (d a b : BitVec 4) (s : State) : Host.Outcome State Fault Refusal := predBin d a b (fun x y => x && y) s
/-- POR (R272). -/
def execPor (d a b : BitVec 4) (s : State) : Host.Outcome State Fault Refusal := predBin d a b (fun x y => x || y) s
/-- PXOR (R272). -/
def execPxor (d a b : BitVec 4) (s : State) : Host.Outcome State Fault Refusal := predBin d a b (fun x y => x ^^ y) s
/-- PANDN (R272). -/
def execPandn (d a b : BitVec 4) (s : State) : Host.Outcome State Fault Refusal := predBin d a b (fun x y => x && !y) s

/-- A comparison per lane into a predicate (R273): on integers, or on floating-point values after FTZ. -/
def compareForm (d : BitVec 4) (a b : BitVec 8) (onInt : Int → Int → Bool) (onFloat : FVal → FVal → Bool) (s : State) :
    Host.Outcome State Fault Refusal :=
  issue { rap := .no, opds := [.pdst d, .vsrc a (wideEt s), .vsrc b (wideEt s)] } s fun s =>
    match numberType s.w with
    | .error e => .error e
    | .ok _ =>
      match readV s (wideEt s) a with
      | .error e => .error e
      | .ok (s, x) =>
        match readV s (wideEt s) b with
        | .error e => .error e
        | .ok (s, y) =>
          let t := modeEt s.w
          let one := fun (l : Fin 64) =>
            if t.isInt then onInt (laneInt t (x l).val) (laneInt t (y l).val) else onFloat (floatIn s.w (x l).val) (floatIn s.w (y l).val)
          let out := fun (l : Fin 64) => match firstPoison [x l, y l] with
            | some c => (⟨false, true, c⟩ : PLane)
            | none => ⟨one l, false, 0#8⟩
          .ok (advance { s with w := setP s.w d (active s.w) out })

/-- VCMP.EQ (R273). -/
def execVcmpEq (d : BitVec 4) (a b : BitVec 8) (s : State) : Host.Outcome State Fault Refusal :=
  compareForm d a b (fun x y => x == y) FVal.eqv s
/-- VCMP.LT (R273). -/
def execVcmpLt (d : BitVec 4) (a b : BitVec 8) (s : State) : Host.Outcome State Fault Refusal :=
  compareForm d a b (fun x y => x < y) FVal.lt s
/-- VCMP.LE (R273). -/
def execVcmpLe (d : BitVec 4) (a b : BitVec 8) (s : State) : Host.Outcome State Fault Refusal :=
  compareForm d a b (fun x y => x ≤ y) (fun x y => x.lt y || x.eqv y) s
/-- VCMP.NE (R273). -/
def execVcmpNe (d : BitVec 4) (a b : BitVec 8) (s : State) : Host.Outcome State Fault Refusal :=
  compareForm d a b (fun x y => x != y) (fun x y => !x.eqv y) s

end Sys2Proof.Machine
end

