-- ==== Sys2Proof/Machine/VecLane.lean ====
section
/-!
DEFINITION. Lanes that exchange values (spec/11, R288 to R292).
-/
namespace Sys2Proof.Machine

/-- A lane moved as the bit forms of R259 move it, with its poison. -/
def moved (w : Warp) (x : Scalar) : Scalar := if x.poison then x else ⟨bitLane w x.val.toNat, false⟩

/-- A shuffle (R288): lane `l` reads lane `src l n`, n the low six bits of its b lane. -/
def shuffle (d a b : BitVec 8) (src : Nat → Nat → Nat) (s : State) : Host.Outcome State Fault Refusal :=
  issue { rap := .no, opds := [vdst d (wideEt s), .vsrc a (wideEt s), .vsrc b (wideEt s)] } s fun s =>
    match readV s (wideEt s) a with
    | .error e => .error e
    | .ok (s, x) =>
      match readV s (wideEt s) b with
      | .error e => .error e
      | .ok (s, y) =>
        let out : Src := fun l =>
          if (y l).poison then poisonScalar (y l).code else moved s.w (x (Fin.ofNat 64 (src l.val (bitsNat (y l).val 0 6))))
        .ok (advance { s with w := writeV s.w (wideEt s) d (active s.w) out })

/-- VSHFL.IDX (R288). -/
def execVshflIdx (d a b : BitVec 8) (s : State) : Host.Outcome State Fault Refusal := shuffle d a b (fun _ n => n) s
/-- VSHFL.UP (R288). -/
def execVshflUp (d a b : BitVec 8) (s : State) : Host.Outcome State Fault Refusal :=
  shuffle d a b (fun l n => if l < n then l else l - n) s
/-- VSHFL.DOWN (R288). -/
def execVshflDown (d a b : BitVec 8) (s : State) : Host.Outcome State Fault Refusal :=
  shuffle d a b (fun l n => if 63 < l + n then l else l + n) s
/-- VSHFL.XOR (R288). -/
def execVshflXor (d a b : BitVec 8) (s : State) : Host.Outcome State Fault Refusal := shuffle d a b (fun l n => Nat.xor l n) s

/-- VBCAST (R289). -/
def execVbcast (d a k : BitVec 8) (s : State) : Host.Outcome State Fault Refusal :=
  issue { rap := .no, opds := [vdst d (wideEt s), .vsrc a (wideEt s)] } s fun s =>
    match readV s (wideEt s) a with
    | .error e => .error e
    | .ok (s, x) => .ok (advance { s with w := writeV s.w (wideEt s) d (active s.w) fun _ => moved s.w (x (Fin.ofNat 64 k.toNat)) })

/-- VS2V (R289). -/
def execVs2v (d a : BitVec 8) (s : State) : Host.Outcome State Fault Refusal :=
  issue { rap := .no, opds := [vdst d (wideEt s), .ssrc a] } s fun s =>
    match readS s a with
    | .error e => .error e
    | .ok (s, x) => .ok (advance { s with w := writeV s.w (wideEt s) d (active s.w) fun _ => x })

/-- V2S (R289); a queue is waited for and popped whatever the lanes (R203, R258). -/
def execV2s (d a k : BitVec 8) (s : State) : Host.Outcome State Fault Refusal :=
  issue { rap := .no, opds := [.sdst d, .vsrc a (wideEt s)] } s fun s =>
    match readV s (wideEt s) a with
    | .error e => .error e
    | .ok (s, x) => warpOnce s fun s => .ok (advance { s with w := setS s.w (Fin.ofNat 64 d.toNat) (moved s.w (x (Fin.ofNat 64 k.toNat))) })

/-! ### Votes (R290) -/

/-- A vote on a predicate written to every active lane. -/
def voteForm (d a : BitVec 4) (f : Warp → Bool) (s : State) : Host.Outcome State Fault Refusal :=
  issue { rap := .no, opds := [.pdst d] } s fun s =>
    let out : PLane := match predPoison s.w (active s.w) a with
      | some c => ⟨false, true, c⟩
      | none => ⟨f s.w, false, 0#8⟩
    .ok (advance { s with w := setP s.w d (active s.w) fun _ => out })

/-- VOTE.ANY (R290). -/
def execVoteAny (d a : BitVec 4) (s : State) : Host.Outcome State Fault Refusal :=
  voteForm d a (fun w => (active w &&& predMask w a) ≠ 0#64) s
/-- VOTE.ALL (R290). -/
def execVoteAll (d a : BitVec 4) (s : State) : Host.Outcome State Fault Refusal :=
  voteForm d a (fun w => (active w &&& ~~~predMask w a) = 0#64) s
/-- VOTE.BALLOT (R290). -/
def execVoteBallot (d : BitVec 8) (a : BitVec 4) (s : State) : Host.Outcome State Fault Refusal :=
  issue { rap := .no, opds := [.sdst d] } s fun s => warpOnce s fun s =>
    let x : Scalar := match predPoison s.w (active s.w) a with
      | some c => poisonScalar c
      | none => ⟨active s.w &&& predMask s.w a, false⟩
    .ok (advance { s with w := setS s.w (Fin.ofNat 64 d.toNat) x })
/-- VOTE.UNI (R290). -/
def execVoteUni (d : BitVec 4) (a : BitVec 8) (s : State) : Host.Outcome State Fault Refusal :=
  issue { rap := .no, opds := [.pdst d, .vsrc a (wideEt s)] } s fun s =>
    match readV s (wideEt s) a with
    | .error e => .error e
    | .ok (s, x) =>
      let ls := laneList (active s.w)
      let t := modeEt s.w
      let same := match ls with
        | [] => true
        | l :: r => r.all fun k => lanePattern t (x k).val = lanePattern t (x l).val
      let out : PLane := match firstPoison (ls.map x) with
        | some c => ⟨false, true, c⟩
        | none => ⟨same, false, 0#8⟩
      .ok (advance { s with w := setP s.w d (active s.w) fun _ => out })

/-! ### Scans and reductions (R291, R292) -/

/-- The operations of VSCAN and VREDUCE (R291). -/
inductive Fold where
  | add | min | max | or
  deriving DecidableEq, Repr

/-- One combination of two lanes under MODE (R291). -/
def Fold.apply (o : Fold) (w : Warp) (x y : DWord) : DWord :=
  let t := modeEt w
  match o with
  | .add => if t.isInt then satLane w (laneInt t x + laneInt t y) else floatOut w (floatRound w ((floatIn w x).add (modeRm w) (floatIn w y)))
  | .min => if t.isInt then wrapLane t (Min.min (laneInt t x) (laneInt t y)) else floatOut w ((floatIn w x).min (floatIn w y))
  | .max => if t.isInt then wrapLane t (Max.max (laneInt t x) (laneInt t y)) else floatOut w ((floatIn w x).max (floatIn w y))
  | .or => bitLane w (Nat.lor (lanePattern t x) (lanePattern t y))

/-- A lane with its poison combined with the next: the first poison stands (R65). -/
def Fold.step (o : Fold) (w : Warp) (x y : Scalar) : Scalar := scalarOut [x, y] (o.apply w x.val y.val)

/-- The type check of a scan or reduction. -/
def Fold.check (o : Fold) (w : Warp) : Run Unit := if o = .or then .ok () else numberType w

/-- The first active lane's value as the form reads it: an integer as it is, a floating-point input flushed under FTZ, a NaN canonical (R262). -/
def Fold.first (o : Fold) (w : Warp) (x : Scalar) : Scalar :=
  if x.poison then x
  else if o = .or || (modeEt w).isInt then ⟨bitLane w x.val.toNat, false⟩
  else ⟨floatOut w (floatIn w x.val), false⟩

/-- The inclusive prefix over the active lanes in ascending order (R291), as lane and value. -/
def scanList (o : Fold) (w : Warp) (x : Src) : List (Fin 64) → Option Scalar → List (Fin 64 × Scalar)
  | [], _ => []
  | l :: r, acc =>
    let v := match acc with
      | none => o.first w (x l)
      | some p => o.step w p (x l)
    (l, v) :: scanList o w x r (some v)

/-- VSCAN (R291). -/
def scanForm (o : Fold) (d a : BitVec 8) (s : State) : Host.Outcome State Fault Refusal :=
  issue { rap := .no, opds := [vdst d (wideEt s), .vsrc a (wideEt s)] } s fun s =>
    match o.check s.w with
    | .error e => .error e
    | .ok _ =>
      match readV s (wideEt s) a with
      | .error e => .error e
      | .ok (s, x) =>
        let r := scanList o s.w x (laneList (active s.w)) none
        let out : Src := fun l => ((r.find? fun p => p.1 = l).map (·.2)).getD (x l)
        .ok (advance { s with w := writeV s.w (wideEt s) d (active s.w) out })

/-- One level of the tree of R292: neighbours combined, an empty one standing aside. -/
def pairNodes (f : Scalar → Scalar → Scalar) : List (Option Scalar) → List (Option Scalar)
  | x :: y :: r => (match x, y with
      | some a, some b => some (f a b)
      | some a, none => some a
      | none, b => b) :: pairNodes f r
  | l => l

/-- VREDUCE (R292): the fixed tree, its root written to every active lane; any poison gives the lowest poisoned lane's code. -/
def reduceForm (o : Fold) (d a : BitVec 8) (s : State) : Host.Outcome State Fault Refusal :=
  issue { rap := .no, opds := [vdst d (wideEt s), .vsrc a (wideEt s)] } s fun s =>
    match o.check s.w with
    | .error e => .error e
    | .ok _ =>
      match readV s (wideEt s) a with
      | .error e => .error e
      | .ok (s, x) =>
        let leaves := (List.finRange 64).map fun (l : Fin 64) => if (active s.w).getLsbD l then some (o.first s.w (x l)) else none
        let root := ((List.range 6).foldl (fun ns _ => pairNodes (o.step s.w) ns) leaves).head?.join.getD Scalar.zero
        let out := scalarOut ((laneList (active s.w)).map x) root.val
        .ok (advance { s with w := writeV s.w (wideEt s) d (active s.w) fun _ => out })

/-- VSCAN.ADD (R291). -/
def execVscanAdd (d a : BitVec 8) (s : State) : Host.Outcome State Fault Refusal := scanForm .add d a s
/-- VSCAN.MIN (R291). -/
def execVscanMin (d a : BitVec 8) (s : State) : Host.Outcome State Fault Refusal := scanForm .min d a s
/-- VSCAN.MAX (R291). -/
def execVscanMax (d a : BitVec 8) (s : State) : Host.Outcome State Fault Refusal := scanForm .max d a s
/-- VSCAN.OR (R291). -/
def execVscanOr (d a : BitVec 8) (s : State) : Host.Outcome State Fault Refusal := scanForm .or d a s
/-- VREDUCE.ADD (R292). -/
def execVreduceAdd (d a : BitVec 8) (s : State) : Host.Outcome State Fault Refusal := reduceForm .add d a s
/-- VREDUCE.MIN (R292). -/
def execVreduceMin (d a : BitVec 8) (s : State) : Host.Outcome State Fault Refusal := reduceForm .min d a s
/-- VREDUCE.MAX (R292). -/
def execVreduceMax (d a : BitVec 8) (s : State) : Host.Outcome State Fault Refusal := reduceForm .max d a s
/-- VREDUCE.OR (R292). -/
def execVreduceOr (d a : BitVec 8) (s : State) : Host.Outcome State Fault Refusal := reduceForm .or d a s

end Sys2Proof.Machine
end

