-- ==== Sys2Proof/Machine/Reord.lean ====
section
/-!
DEFINITION. Regrouping threads (spec/11, R293, R294; spec/08, R204).
-/
namespace Sys2Proof.Machine

/-- The participants of a REORD of the warp in focus, by ascending warp index (R293). -/
def participants (s : State) : List Warp :=
  let ps := (allWarps s).filter fun w =>
    w.bid = s.w.bid && w.stage = s.w.stage && w.core = s.w.core && !w.rap && w.status ≠ .vacant && w.status ≠ .done
  ps.foldr insertByIndex []
where
  /-- a warp put in its place by index -/
  insertByIndex (w : Warp) : List Warp → List Warp
    | [] => [w]
    | v :: t => if w.widx.toNat ≤ v.widx.toNat then w :: v :: t else v :: insertByIndex w t

/-- A warp that has arrived. -/
def arrived (w : Warp) : Bool := !w.keys.isEmpty

/-- One thread of a collective: whether it was active, its key, the place of its warp and its lane. -/
structure Thread where
  idle : Bool
  key : Nat
  warp : Nat
  lane : Fin 64
  deriving DecidableEq, Repr

/-- The order of R204 and R293: active threads by key, then the others; equal threads keep their order. -/
def Thread.before (x y : Thread) : Bool := if x.idle then y.idle else y.idle || x.key ≤ y.key

/-- A thread inserted before the first that it precedes or equals. -/
def insertThread (x : Thread) : List Thread → List Thread
  | [] => [x]
  | y :: t => if x.before y then x :: y :: t else y :: insertThread x t

/-- The threads of the participants in sorted order. -/
def sortedThreads (ps : List Warp) : List Thread :=
  (ps.zipIdx.flatMap fun p => (List.finRange 64).map fun (l : Fin 64) =>
    let idle := !(active p.1).getLsbD l
    { idle := idle, key := if idle then 0 else ((p.1.keys.getD l.val Lane.zero).val.toNat), warp := p.2, lane := l : Thread }).foldr insertThread []

/-- A participant after the sort: what moves with a thread comes from the thread that landed in each lane (R204). -/
def regroup (ps : List Warp) (order : Array Thread) (j : Nat) (w : Warp) : Warp :=
  let src := fun (l : Fin 64) => order.getD (64 * j + l.val) { idle := false, key := 0, warp := j, lane := l }
  let old := fun (l : Fin 64) => ps.getD (src l).warp w
  let gone := laneMask fun l => (old l).gone.getLsbD (src l).lane
  stepOver { w with
    v := vecOf 232 fun r => if w.live.getLsbD (r.val / 8) then lanesOf fun l => (old l).v[r][(src l).lane] else w.v[r]
    p := vecOf 16 fun p => lanesOf fun l => (old l).p[p][(src l).lane]
    exec := laneMask fun l => (old l).exec.getLsbD (src l).lane
    gone := gone
    m := ~~~gone
    keys := []
    keyPop := none }

/-- A precise fault after the arrival leaves the warp as before its instruction (R377): the entry that its key popped is its next again, and
stands in the queue once more where it had retired (R203, R294). -/
def unpopKey (s : State) : State :=
  match s.w.keyPop with
  | none => s
  | some (q, e) =>
    let k := s.b.queues[q]
    let pos := s.w.qpos[q] - 1
    { s with w := { s.w with qpos := s.w.qpos.set q pos, keyPop := none },
             b := { s.b with queues := s.b.queues.set q (if pos < k.retired then { entries := e :: k.entries, retired := pos } else k) } }

/-- The collective completes as one step (R293): the threads move, or, when the live masks differ, every participant traps with
detail 0x31 (R294). -/
def completeReord (s : State) : State :=
  let ps := participants s
  if ps.all fun w => w.live = s.w.live then
    let order := (sortedThreads ps).toArray
    mapWarps s fun w => match ps.findIdx? fun q => q.wid = w.wid with
      | some j => regroup ps order j w
      | none => w
  else
    let me := s.w.wid
    focusOn (ps.foldl (fun s w => takeTrap (unpopKey (focusOn s w.wid)) { code := cIllegalInstruction, detail := 0x31 }) s) me

/-- The keys of an arrival captured, and the warp parked until the last participant arrives (R293). -/
def arrive (s : State) (a : Byte) (x : Src) (live : BitVec 29) : State :=
  let keys := (List.finRange 64).map fun (l : Fin 64) => (⟨(x l).val.setWidth 32, (x l).poison⟩ : Lane)
  let pop := (Opd.vsrc a false).queue.bind fun q => (queueHead s q).map fun e => (q, e)
  popQueues [.vsrc a false] { s with w := { waiting s.w .reord with keys := keys, live := live, keyPop := pop }, turn := 0 }

/-- Completion when every participant has arrived. -/
def settleReord (s : State) : State := if (participants s).all arrived then completeReord s else s

/-- The lowest live block that is unclaimed (R294). -/
def unclaimedLive (w : Warp) (live : BitVec 29) : Option Nat := (List.range 29).find? fun b => live.getLsbD b && !blockClaimed w b

/-- REORD (R293, R294). -/
def execReord (a b : BitVec 8) (s : State) : Host.Outcome State Fault Refusal :=
  issueOwn { rap := .no, opds := if arrived s.w then [.ssrc b] else [.vsrc a false, .ssrc b] } s fun s =>
    if arrived s.w then (if (participants s).all arrived then .ok (completeReord s) else park .reord)
    else if s.b.accord then trap cIllegalInstruction 0x52
    else if s.w.stack ≠ [] then trap cIllegalInstruction 0x32
    else
      match readS s b with
      | .error e => .error e
      | .ok (s, y) =>
        match consumeS y with
        | .error e => .error e
        | .ok _ =>
          match readV s false a with
          | .error e => .error e
          | .ok (s, x) =>
            match consumeV (active s.w) x with
            | .error e => .error e
            | .ok _ =>
              if y.val.toNat / 2 ^ 29 ≠ 0 then trap cIllegalInstruction 0x30
              else
                let live : BitVec 29 := y.val.setWidth 29
                match unclaimedLive s.w live with
                | some k => trap cIllegalRegister (BitVec.ofNat 8 (8 * k))
                | none =>
                  if (List.range 232).any fun r => live.getLsbD (r / 8) && vPending s.w r then park .interlock
                  else if live &&& s.w.away ≠ 0#29 then park (.refill (live &&& s.w.away))
                  else .ok (settleReord (arrive s a x live))

end Sys2Proof.Machine
end

