-- ==== Sys2Proof/Machine/Security.lean ====
section
/-!
DEFINITION. Boot, the security controller, the management endpoint, and power and cooling (spec/18, R455 to R462).
-/
namespace Sys2Proof.Machine

/-! ### Boot (R455) -/

/-- Step 4, once the flow signal lets the compute dies leave reset, and step 5: a standby. -/
def bootOn (s : State) : State :=
  if s.hub.flow then { s with hub := { s.hub with stage := 5#4, bootWaits := false } }
  else { s with hub := { s.hub with stage := 4#4, bootWaits := true } }

/-- Which check of a boot fails, that of step 1 or one of step 3: the event does not say, so that it is a free value (log entry 54). -/
def failsLate (m : Mem) : Bool := (Config.freeByte m.free).getLsbD 0

/-- POWER_GOOD (R455): a failed check stops at its step, after step 2 with slot 0 loaded; else the boot goes on to step 4. -/
def execPowerGood (verified : Bool) (s : State) : Host.Outcome State Fault Refusal :=
  let loaded := { s with m := { s.m with keyFull := s.m.keyFull ||| 1#128 } }
  .next (if s.hub.stage ≠ 0#4 || s.hub.fail then s
    else if verified then bootOn loaded
    else if failsLate s.m then { loaded with m := { loaded.m with free := s.m.free + 1 }, hub := { s.hub with stage := 3#4, fail := true } }
    else { s with m := { s.m with free := s.m.free + 1 }, hub := { s.hub with stage := 1#4, fail := true } })

/-- FLOW_SIGNAL_ASSERTED (R455, R462): a boot that waits for it goes on. -/
def execFlowSignalAsserted (s : State) : Host.Outcome State Fault Refusal :=
  let t := { s with hub := { s.hub with flow := true } }
  .next (if s.hub.bootWaits then bootOn t else t)

/-! ### SPDM (R456, R458, R459) -/

/-- The requests that a device which failed its boot still answers: GET_VERSION, GET_CAPABILITIES, GET_MEASUREMENTS (R455). -/
def answersFailed (code : Byte) : Bool := code = 0x84 || code = 0xE1 || code = 0xE0

/-- A reply sent. -/
def reply (s : State) (bs : List Byte) : State := { s with hub := { s.hub with replies := s.hub.replies ++ [bs] } }

/-- An SPDM request answered (R456). -/
def answerSpdm (s : State) (code : Byte) (body : List Byte) : State :=
  if s.hub.fail && !answersFailed code then s else reply s (Config.spdmAnswer code body)

/-- SPDM (R456). -/
def execSpdm (code : BitVec 8) (body : List (BitVec 8)) (s : State) : Host.Outcome State Fault Refusal := .next (answerSpdm s code body)

/-- An SPDM error, which changes nothing (R458). -/
def spdmError (s : State) : State := reply s [0x7F]

/-- KEYSET (R458): an empty slot is filled at once; the buddy is told before the reply (R459). -/
def execKeyset (slot : BitVec 7) (_key : BitVec 512) (authorised : Bool) (s : State) : Host.Outcome State Fault Refusal :=
  .next (if s.hub.fail then s
    else if !authorised || slot = 0#7 || s.m.keyFull.getLsbD slot.toNat then spdmError s
    else
      let s := { s with m := { s.m with keyFull := s.m.keyFull ||| (1#128 <<< slot.toNat) } }
      reply (escrowNotice s s.fab.buddy 1 slot) [0x01, slot.setWidth 8])

/-- KEYERASE (R458): the slot is emptied, and the reply sent, at the commit of the open interval (R174). -/
def execKeyerase (slot : BitVec 7) (authorised : Bool) (s : State) : Host.Outcome State Fault Refusal :=
  .next (if s.hub.fail then s
    else if !authorised || slot = 0#7 then spdmError s
    else { s with m := { s.m with outputs := s.m.outputs ++ [(s.m.interval, .keyEraseReply slot)] } })

/-! ### The management endpoint (R457) -/

/-- A vendor-defined message (R457, R460, R464): 0 and a selector read a counter, 1 and a value write the cap, in a secured session only. -/
def vendorMessage (s : State) (secured : Bool) (body : List Byte) : State :=
  let v := BitVec.ofNat 64 (natOfBytes ((body.drop 1).take 8))
  match body.head? with
  | some 0x00 => reply s (bytesOfNat 8 (counterOf s.hub (v.extractLsb' 0 16) (v.extractLsb' 32 32)).toNat)
  | some 0x01 => if secured then writePwrCfg s v else s
  | _ => s

/-- MCTP_MESSAGE (R455, R457): served by type, or dropped and counted. -/
def execMctpMessage (kind : BitVec 8) (secured : Bool) (body : List (BitVec 8)) (s : State) : Host.Outcome State Fault Refusal :=
  .next (match kind.toNat with
    | 0x00 => reply s (Config.mctpAnswer kind body)
    | 0x05 => answerSpdm s (body.headD 0x00) (body.drop 1)
    | 0x06 => if s.hub.fail then s else reply s (Config.spdmAnswer (body.headD 0x00) (body.drop 1))
    | 0x7E => if s.hub.fail then s else vendorMessage s secured body
    | _ => count s 0x0033#16 0#32 1)

/-! ### Power and cooling (R461, R462) -/

/-- PWR_STAT as measured: THR while AVG exceeds CAP, HOT from 105 °C on, in units of 0.125 °C. -/
def measure (h : Hub) (avg tmax : BitVec 12) : Hub :=
  { h with avg := avg, tmax := tmax, thr := decide (h.cap < avg), hot := decide (840#12 ≤ tmax) }

/-- THROTTLE (R461): matrix issue is delayed from now on. -/
def execThrottle (avg tmax : BitVec 12) (s : State) : Host.Outcome State Fault Refusal :=
  .next (if s.hub.cap < avg || 840#12 ≤ tmax then { s with hub := measure s.hub avg tmax } else s)

/-- THROTTLE_CLEAR (R461): the condition has been clear for 1 ms. -/
def execThrottleClear (avg tmax : BitVec 12) (s : State) : Host.Outcome State Fault Refusal :=
  .next (if s.hub.cap < avg || 840#12 ≤ tmax then s else { s with hub := measure s.hub avg tmax })

/-- A fatal fault reported (R178): to the fabric manager or, by it, to the devices of its domain, of which a bridge takes the role over; the
device sends no more heartbeats (log entry 49). -/
def reportFatal (s : State) : State :=
  let dsts := if s.fab.ident = 0x3FF#10 then [] else if s.fab.fm then domainOthers s.fab else [s.fab.fmid].filter (· ≠ 0x3FF#10)
  dsts.foldl (fun s d => sendOut s (shortMessage 0x26 d 0#16 1#16 (bytesOfNat 8 0))) { s with hub := { s.hub with fatal := true } }

/-- THERMAL_FATAL (R461): 115 °C. -/
def execThermalFatal (tmax : BitVec 12) (s : State) : Host.Outcome State Fault Refusal :=
  .next (if 920#12 ≤ tmax then reportFatal { s with hub := measure s.hub s.hub.avg tmax } else s)

/-- FLOW_LOSS (R462): the flow signal drops; while the device runs that is a fatal fault. -/
def execFlowLoss (s : State) : Host.Outcome State Fault Refusal :=
  let t := { s with hub := { s.hub with flow := false } }
  .next (if s.hub.stage = 5#4 then reportFatal t else t)

end Sys2Proof.Machine
end

