-- ==== Sys2Proof/Machine/VecInt.lean ====
section
/-!
DEFINITION. Vector integer operations (spec/11, R277, R278) and MOVI (spec/10, R238).
-/
namespace Sys2Proof.Machine

/-- A numeric integer form whose exact result R263 narrows (R259, R277). -/
def intSat (d a b : BitVec 8) (f : Int → Int → Int) (s : State) : Host.Outcome State Fault Refusal :=
  perLane2 (wideEt s) d a b intType (fun w x y => satLane w (f (laneInt (modeEt w) x) (laneInt (modeEt w) y))) s

/-- A numeric integer form that ignores MODE.SAT. -/
def intWrap (d a b : BitVec 8) (f : Elem → Int → Int → Int) (s : State) : Host.Outcome State Fault Refusal :=
  perLane2 (wideEt s) d a b intType (fun w x y => wrapLane (modeEt w) (f (modeEt w) (laneInt (modeEt w) x) (laneInt (modeEt w) y))) s

/-- A bit form of two sources on w-bit patterns, given w (R259, R277). -/
def bitForm (d a b : BitVec 8) (f : Nat → Nat → Nat → Nat) (s : State) : Host.Outcome State Fault Refusal :=
  perLane2 (wideEt s) d a b anyType
    (fun w x y => bitLane w (f (laneWidth (modeEt w)) (lanePattern (modeEt w) x) (lanePattern (modeEt w) y))) s

/-- A bit form of one source. -/
def bitUnary (d a : BitVec 8) (f : Nat → Nat → Nat) (s : State) : Host.Outcome State Fault Refusal :=
  perLane1 (wideEt s) (wideEt s) d a anyType (fun w x => bitLane w (f (laneWidth (modeEt w)) (lanePattern (modeEt w) x))) s

/-- VADD (R277, R263). -/
def execVadd (d a b : BitVec 8) (s : State) : Host.Outcome State Fault Refusal := intSat d a b (fun x y => x + y) s
/-- VSUB (R277, R263). -/
def execVsub (d a b : BitVec 8) (s : State) : Host.Outcome State Fault Refusal := intSat d a b (fun x y => x - y) s
/-- VMUL (R277, R263). -/
def execVmul (d a b : BitVec 8) (s : State) : Host.Outcome State Fault Refusal := intSat d a b (fun x y => x * y) s
/-- VMULH (R277): bits [2w − 1:w] of the exact product. -/
def execVmulh (d a b : BitVec 8) (s : State) : Host.Outcome State Fault Refusal :=
  intWrap d a b (fun t x y => x * y / (2 ^ laneWidth t : Nat)) s
/-- VAND (R277). -/
def execVand (d a b : BitVec 8) (s : State) : Host.Outcome State Fault Refusal := bitForm d a b (fun _ x y => Nat.land x y) s
/-- VOR (R277). -/
def execVor (d a b : BitVec 8) (s : State) : Host.Outcome State Fault Refusal := bitForm d a b (fun _ x y => Nat.lor x y) s
/-- VXOR (R277). -/
def execVxor (d a b : BitVec 8) (s : State) : Host.Outcome State Fault Refusal := bitForm d a b (fun _ x y => Nat.xor x y) s
/-- VANDN (R277). -/
def execVandn (d a b : BitVec 8) (s : State) : Host.Outcome State Fault Refusal :=
  bitForm d a b (fun w x y => Nat.land x (2 ^ w - 1 - y)) s
/-- VSHL (R277): by b modulo w. -/
def execVshl (d a b : BitVec 8) (s : State) : Host.Outcome State Fault Refusal := bitForm d a b (fun w x y => x * 2 ^ (y % w)) s
/-- VSHR (R277). -/
def execVshr (d a b : BitVec 8) (s : State) : Host.Outcome State Fault Refusal := bitForm d a b (fun w x y => x / 2 ^ (y % w)) s
/-- VASR (R277): arithmetic on the w-bit pattern. -/
def execVasr (d a b : BitVec 8) (s : State) : Host.Outcome State Fault Refusal :=
  bitForm d a b (fun w x y => wrapInt w (signedNat w x / (2 ^ (y % w) : Nat))) s
/-- VROT (R277): left. -/
def execVrot (d a b : BitVec 8) (s : State) : Host.Outcome State Fault Refusal :=
  bitForm d a b (fun w x y => x * 2 ^ (y % w) + x / 2 ^ (w - y % w)) s
/-- VMIN (R277). -/
def execVmin (d a b : BitVec 8) (s : State) : Host.Outcome State Fault Refusal := intWrap d a b (fun _ x y => min x y) s
/-- VMAX (R277). -/
def execVmax (d a b : BitVec 8) (s : State) : Host.Outcome State Fault Refusal := intWrap d a b (fun _ x y => max x y) s
/-- VABSD (R277): the exact difference, zero-extended whatever the signedness. -/
def execVabsd (d a b : BitVec 8) (s : State) : Host.Outcome State Fault Refusal :=
  perLane2 (wideEt s) d a b intType
    (fun w x y => BitVec.ofNat 64 (laneInt (modeEt w) x - laneInt (modeEt w) y).natAbs) s
/-- VMADI (R277, R263): d + a × b. -/
def execVmadi (d a b : BitVec 8) (s : State) : Host.Outcome State Fault Refusal :=
  perLane3 (wideEt s) d a b intType
    (fun w x y z => satLane w (laneInt (modeEt w) z + laneInt (modeEt w) x * laneInt (modeEt w) y)) s

/-- VMOV (R278). -/
def execVmov (d a : BitVec 8) (s : State) : Host.Outcome State Fault Refusal := bitUnary d a (fun _ x => x) s
/-- VNOT (R278). -/
def execVnot (d a : BitVec 8) (s : State) : Host.Outcome State Fault Refusal := bitUnary d a (fun w x => 2 ^ w - 1 - x) s
/-- VNEG (R278, R263). -/
def execVneg (d a : BitVec 8) (s : State) : Host.Outcome State Fault Refusal :=
  perLane1 (wideEt s) (wideEt s) d a intType (fun w x => satLane w (-laneInt (modeEt w) x)) s
/-- VABS (R278, R263). -/
def execVabs (d a : BitVec 8) (s : State) : Host.Outcome State Fault Refusal :=
  perLane1 (wideEt s) (wideEt s) d a intType (fun w x => satLane w (laneInt (modeEt w) x).natAbs) s
/-- VCLZ (R278). -/
def execVclz (d a : BitVec 8) (s : State) : Host.Outcome State Fault Refusal := bitUnary d a (fun w x => clzNat w x) s
/-- VPOPC (R278). -/
def execVpopc (d a : BitVec 8) (s : State) : Host.Outcome State Fault Refusal := bitUnary d a (fun w x => popNat w x) s
/-- VBREV (R278). -/
def execVbrev (d a : BitVec 8) (s : State) : Host.Outcome State Fault Refusal := bitUnary d a (fun w x => revNat w x) s

/-- MOVI (R238): the written lanes' poison bits clear. -/
def execMovi (d : BitVec 8) (i : BitVec 20) (s : State) : Host.Outcome State Fault Refusal :=
  issue { rap := .no, opds := [vdst d (wideEt s)] } s fun s =>
    let v := if wideEt s then immediate64 (modeEt s.w) i else (immediate32 (modeEt s.w) i).setWidth 64
    .ok (advance { s with w := writeV s.w (wideEt s) d (active s.w) fun _ => ⟨v, false⟩ })

end Sys2Proof.Machine
end

