-- ==== Sys2Proof/Machine/Fetch.lean ====
section
/-!
DEFINITION. Reaching an instruction: the entry checks of a clause (spec/10, R228, R229, R232, R233), the word that the program counter
names, and the delivery of late faults and deadlines at an instruction boundary (spec/14, R387; spec/13, R376).
-/
namespace Sys2Proof.Machine

/-- The clause at an address, read whole (R232): the X permission, and the path of a load of the warp. -/
def fetchClause (s : State) (va : Nat) : Run (State × BitVec 512) :=
  match resolveVa s .fetch va with
  | .fault c d v => .error (.trap { code := c, detail := d, va := v })
  | .stall => park .splinter
  | .ok s p =>
    match readCheck s.m p with
    | some d => .error (.trap { code := cAliasAttr, detail := d, va := p.va })
    | none =>
      if homeStalls s.m p then park .splinter
      else if unpublished s p then wosPark s
      else
        let r := loadAt s s.w.core.toNat true p 64
        .ok (r.1, BitVec.ofNat 512 (natOfBytes r.2))

/-- Step 2 of R228: SIG and the zero field of the header are right, and LDF and STF hold no reserved code (R227). -/
def headerOk (c : BitVec 512) : Bool :=
  let ok := fun (x : BitVec 4) => x.toNat < 12 || x = 0xF#4
  c.extractLsb' 0 8 = 0x0A#8 && ok (c.extractLsb' 16 4) && ok (c.extractLsb' 12 4)

/-- Steps 1 to 3 of R228 at an entry. -/
def enterClause (s : State) : Run State :=
  if !s.w.enter then .ok s
  else
    match fetchClause s (clauseVa s.w.pc).toNat with
    | .error e => .error e
    | .ok (t, c) =>
      if !headerOk c then trap cIllegalClause 0x00
      else if wordIndex s.w.pc = 0 || 15 - bitsNat c 9 3 < wordIndex s.w.pc then trap cIllegalTarget 0x00
      else .ok { t with w := { t.w with clause := c, enter := false } }

/-- The word at the program counter. -/
def currentWord (w : Warp) : Word := clauseWord w (wordIndex w.pc)

/-- A wait of an instruction that has issued already: no instruction boundary (R387). -/
def Park.issued : Park → Bool
  | .barrier _ _ | .claim _ | .queue _ | .accg | .reord | .wos | .tattach | .accord | .sleep | .detach | .gang | .matrix => true
  | _ => false

/-- The warp stands at an instruction boundary at which it would issue (R387). -/
def atBoundary (w : Warp) : Bool :=
  match w.status with
  | .running => true
  | .parked p => !p.issued
  | _ => false

/-- A record whose delivery at a boundary enters a handler: the oldest pending imprecise fault, or TIMER (R387, R376). -/
def boundaryTrap (s : State) : Option State :=
  if !atBoundary s.w || inHandler s.w || s.w.rap then none
  else
    match s.w.late with
    | r :: rest =>
      let isSummary := s.w.summary && rest.isEmpty
      some (deliver { s with w := { s.w with late := rest, summary := s.w.summary && !isSummary, summaryDone := s.w.summaryDone || isSummary } }
        r (recMask r) s.w.pc)
    | [] =>
      let timer := fun (detail : Byte) (w : Warp) =>
        let (t, seq) := takeSeq { s with w := w }
        some (deliver t (faultRecord w s.b seq w.pc { code := cTimer, detail := detail } w.exec false false 0x00) w.exec w.pc)
      if s.w.cycdl ≠ 0#64 && s.w.cycdl ≤ s.w.cyc then timer 0x02 { s.w with cycdl := 0#64 }
      else if s.w.walldl ≠ 0#64 && s.w.walldl.toNat ≤ wall s then timer 0x03 { s.w with walldl := 0#64 }
      else none

end Sys2Proof.Machine
end

