-- ==== Sys2Proof/Machine/Watch.lean ====
section
/-!
DEFINITION. Events at a warp that waits: the deliveries of an instruction boundary (spec/14, R387; spec/13, R376), the end of a sleep
(spec/11, R270), a granted claim (spec/05, R92), and the deadlock detector (spec/14, R391, R392).
-/
namespace Sys2Proof.Machine

/-- A boundary event of a warp, once the cause it names is the next that R387 delivers. -/
def atBoundaryOf (s : State) (wid : Nat) (due : State → Bool) : State :=
  withWarp s wid fun s => if due s then (boundaryTrap s).getD s else s

/-- CYC has reached CYCDL (R376). -/
def cycDue (s : State) : Bool := s.w.cycdl ≠ 0#64 && s.w.cycdl ≤ s.w.cyc

/-- IMPRECISE_FAULT_DELIVERY (R387). -/
def execImpreciseFaultDelivery (wid : Nat) (s : State) : Host.Outcome State Fault Refusal :=
  .next (atBoundaryOf s wid fun s => !s.w.late.isEmpty)

/-- TTRAP_DEADLINE (R376, R387). -/
def execTtrapDeadline (wid : Nat) (s : State) : Host.Outcome State Fault Refusal :=
  .next (atBoundaryOf s wid fun s => s.w.late.isEmpty && cycDue s)

/-- TDEAD_DEADLINE (R376, R387). -/
def execTdeadDeadline (wid : Nat) (s : State) : Host.Outcome State Fault Refusal :=
  .next (atBoundaryOf s wid fun s => s.w.late.isEmpty && !cycDue s)

/-- SLEEP_END (R270): the warp is eligible again. -/
def execSleepEnd (wid : Nat) (s : State) : Host.Outcome State Fault Refusal :=
  .next (onWarp s wid fun w => if w.status = .parked .sleep && w.since ≤ w.cyc.toNat then { w with status := .running } else w)

/-- RCLM_GRANT (R92): the oldest waiting claim of the core, once the pool can serve it. -/
def execRclmGrant (core : BitVec 8) (s : State) : Host.Outcome State Fault Refusal :=
  .next (match (coreAt s core.toNat).claims with
    | [] => s
    | q :: rest =>
      let k := popNat 29 q.blocks.toNat
      if poolFree (coreAt s core.toNat) < k then s
      else onWarp (onCore (takeOn s core.toNat k) core.toNat fun c => { c with claims := rest }) q.wid
        fun w => { claimBlocks w q.blocks with woken := true })

/-! ### Deadlock (R391, R392) -/

/-- The detail of the object on which a warp or a path of a deadlocked block waits (R392). -/
def stuckIn (t : Status) : Option Byte :=
  match t with
  | .parked (.barrier ..) => some 0x01
  | .parked (.claim _) => some 0x02
  | .parked (.queue _) => some 0x03
  | .parked .accg => some 0x04
  | .parked .reord => some 0x05
  | _ => none

/-- The detail of the object on which a warp waits, when no path of it can go on (R391, R392, R194). -/
def stuckOn (w : Warp) : Option Byte :=
  match w.stack with
  | e :: _ => if (e.other.filter fun c => c.m ≠ 0#64).any fun c => (stuckIn c.status).isNone || c.woken then none else stuckIn w.status
  | [] => stuckIn w.status

/-- Nothing that a warp has issued is outstanding. -/
def quiet (s : State) (w : Warp) : Bool :=
  w.loads.isEmpty && w.stores.isEmpty && w.unacked.isEmpty && w.pushes.isEmpty && w.remotes.isEmpty && w.mat.isNone && !w.woken && !(s.cmds.any fun c => c.issuer = .warp w.wid)

/-- The warps of a block and its run-ahead processor. -/
def blockWarps (s : State) (bid : Nat) : List Warp := (allWarps s).filter fun w => w.bid = bid && w.status ≠ .vacant

/-- The condition of R391 at this moment. -/
def stuckNow (s : State) (b : Block) : Bool :=
  let ws := blockWarps s b.bid
  let live := ws.filter fun w => !w.rap && w.status ≠ .done
  !live.isEmpty && (live.all fun w => (stuckOn w).isSome) && (ws.all (quiet s)) &&
    (!b.hasRap || (ws.any fun w => w.rap && match w.status with
      | .parked (.queue _) => true
      | _ => false))

/-- The code of a deadlocked block (R392). -/
def stuckCode (s : State) (bid : Nat) : Byte :=
  let ws := blockWarps s bid
  if ws.any fun w => !w.rap && stuckOn w = some 0x02 then cDeadlockRegs
  else if ws.any fun w => stuckOn w = some 0x03 then cDeadlockQueue
  else cDeadlockBarrier

/-- A parked warp leaves its park and traps with the DETAIL of its own object; its instruction has changed nothing (R392). The object is
read before any warp of the block traps: a first trap that halts its node stops the block, and the others trap all the same. -/
def unstick (code : Byte) (object : Option Byte) (s : State) : State :=
  match object with
  | none => s
  | some d =>
    let s := withdrawClaim s s.w.core.toNat s.w.wid
    let w := match s.w.matReq with
      | some q => flagDec { s.w with matReq := none } q.flag
      | none => s.w
    let s := unpopKey { s with w := w }
    takeTrap { s with w := { s.w with keys := [], live := 0#29 } } { code := code, detail := d }

/-- The clock of R391 of a block kept: it runs while the condition holds, in resident time. -/
def watchBlock (s : State) (b : Block) : Block :=
  { b with stuckSince := if stuckNow s b then some (b.stuckSince.getD ((ctxOf s b.ctx).getD Ctx.empty).rclk) else none }

/-- Every block watched. -/
def watchBlocks (s : State) : State := mapBlocks s (watchBlock s)

/-- DLTMO of a context, in core clocks (R205, R391). -/
def dltmoClocks (x : Ctx) : Nat := bitsNat x.desc 96 16 * 1600

/-- A block has been deadlocked for DLTMO. -/
def deadlockDue (s : State) (b : Block) : Bool :=
  match b.stuckSince with
  | none => false
  | some t => let x := (ctxOf s b.ctx).getD Ctx.empty; stuckNow s b && x.resident && dltmoClocks x ≤ x.rclk - t

/-- DEADLOCK_DETECT (R391, R392): every parked warp of the block traps. -/
def execDeadlockDetect (bid : Nat) (s : State) : Host.Outcome State Fault Refusal :=
  .next (match blockOf s bid with
    | none => s
    | some b =>
      if !deadlockDue s b then s
      else
        let code := stuckCode s bid
        let ws := (blockWarps s bid).filter fun w => !w.rap
        onBlock (ws.foldl (fun s w => withWarp s w.wid (unstick code (stuckOn w))) s) bid fun b => { b with stuckSince := none })

end Sys2Proof.Machine
end

