-- ==== Sys2Proof/Machine/Dispatch.lean ====
section
/-! DEFINITION. The meaning of each instruction and event, one arm each. -/
namespace Sys2Proof.Machine

/-- One instruction word issued by the warp in focus, or one event of the device. -/
def exec (i : Instr) (s : State) : Host.Outcome State Fault Refusal :=
  match i with
  | .nop => Sys2Proof.Machine.execNop s
  | .exit => Sys2Proof.Machine.execExit s
  | .yield => Sys2Proof.Machine.execYield s
  | .sleep n => Sys2Proof.Machine.execSleep n s
  | .ret => Sys2Proof.Machine.execRet s
  | .jmpi a => Sys2Proof.Machine.execJmpi a s
  | .calli a => Sys2Proof.Machine.execCalli a s
  | .trap n => Sys2Proof.Machine.execTrap n s
  | .tret => Sys2Proof.Machine.execTret s
  | .tattach => Sys2Proof.Machine.execTattach s
  | .tdetach => Sys2Proof.Machine.execTdetach s
  | .ttrap a => Sys2Proof.Machine.execTtrap a s
  | .tdead a => Sys2Proof.Machine.execTdead a s
  | .br o w => Sys2Proof.Machine.execBr o w s
  | .brP o w p => Sys2Proof.Machine.execBrP o w p s
  | .brNp o w p => Sys2Proof.Machine.execBrNp o w p s
  | .brZ o w s0 => Sys2Proof.Machine.execBrZ o w s0 s
  | .brNz o w s0 => Sys2Proof.Machine.execBrNz o w s0 s
  | .call o w => Sys2Proof.Machine.execCall o w s
  | .rcv o w => Sys2Proof.Machine.execRcv o w s
  | .rapent o w => Sys2Proof.Machine.execRapent o w s
  | .rdsr d n => Sys2Proof.Machine.execRdsr d n s
  | .wrsr a n => Sys2Proof.Machine.execWrsr a n s
  | .sadd d a b => Sys2Proof.Machine.execSadd d a b s
  | .ssub d a b => Sys2Proof.Machine.execSsub d a b s
  | .smul d a b => Sys2Proof.Machine.execSmul d a b s
  | .smulh d a b => Sys2Proof.Machine.execSmulh d a b s
  | .sand d a b => Sys2Proof.Machine.execSand d a b s
  | .sor d a b => Sys2Proof.Machine.execSor d a b s
  | .sxor d a b => Sys2Proof.Machine.execSxor d a b s
  | .sandn d a b => Sys2Proof.Machine.execSandn d a b s
  | .sshl d a b => Sys2Proof.Machine.execSshl d a b s
  | .sshr d a b => Sys2Proof.Machine.execSshr d a b s
  | .sasr d a b => Sys2Proof.Machine.execSasr d a b s
  | .srot d a b => Sys2Proof.Machine.execSrot d a b s
  | .seq d a b => Sys2Proof.Machine.execSeq d a b s
  | .slt d a b => Sys2Proof.Machine.execSlt d a b s
  | .sle d a b => Sys2Proof.Machine.execSle d a b s
  | .sne d a b => Sys2Proof.Machine.execSne d a b s
  | .smin d a b => Sys2Proof.Machine.execSmin d a b s
  | .smax d a b => Sys2Proof.Machine.execSmax d a b s
  | .sdiv d a b => Sys2Proof.Machine.execSdiv d a b s
  | .srem d a b => Sys2Proof.Machine.execSrem d a b s
  | .smov d a => Sys2Proof.Machine.execSmov d a s
  | .snot d a => Sys2Proof.Machine.execSnot d a s
  | .sneg d a => Sys2Proof.Machine.execSneg d a s
  | .sclz d a => Sys2Proof.Machine.execSclz d a s
  | .spopc d a => Sys2Proof.Machine.execSpopc d a s
  | .sbrev d a => Sys2Proof.Machine.execSbrev d a s
  | .vadd d a b => Sys2Proof.Machine.execVadd d a b s
  | .vsub d a b => Sys2Proof.Machine.execVsub d a b s
  | .vmul d a b => Sys2Proof.Machine.execVmul d a b s
  | .vmulh d a b => Sys2Proof.Machine.execVmulh d a b s
  | .vand d a b => Sys2Proof.Machine.execVand d a b s
  | .vor d a b => Sys2Proof.Machine.execVor d a b s
  | .vxor d a b => Sys2Proof.Machine.execVxor d a b s
  | .vandn d a b => Sys2Proof.Machine.execVandn d a b s
  | .vshl d a b => Sys2Proof.Machine.execVshl d a b s
  | .vshr d a b => Sys2Proof.Machine.execVshr d a b s
  | .vasr d a b => Sys2Proof.Machine.execVasr d a b s
  | .vrot d a b => Sys2Proof.Machine.execVrot d a b s
  | .vmin d a b => Sys2Proof.Machine.execVmin d a b s
  | .vmax d a b => Sys2Proof.Machine.execVmax d a b s
  | .vabsd d a b => Sys2Proof.Machine.execVabsd d a b s
  | .vmadi d a b => Sys2Proof.Machine.execVmadi d a b s
  | .vcmpEq d a b => Sys2Proof.Machine.execVcmpEq d a b s
  | .vcmpLt d a b => Sys2Proof.Machine.execVcmpLt d a b s
  | .vcmpLe d a b => Sys2Proof.Machine.execVcmpLe d a b s
  | .vcmpNe d a b => Sys2Proof.Machine.execVcmpNe d a b s
  | .vmov d a => Sys2Proof.Machine.execVmov d a s
  | .vnot d a => Sys2Proof.Machine.execVnot d a s
  | .vneg d a => Sys2Proof.Machine.execVneg d a s
  | .vabs d a => Sys2Proof.Machine.execVabs d a s
  | .vclz d a => Sys2Proof.Machine.execVclz d a s
  | .vpopc d a => Sys2Proof.Machine.execVpopc d a s
  | .vbrev d a => Sys2Proof.Machine.execVbrev d a s
  | .vfneg d a => Sys2Proof.Machine.execVfneg d a s
  | .vfabs d a => Sys2Proof.Machine.execVfabs d a s
  | .vrcp d a => Sys2Proof.Machine.execVrcp d a s
  | .vrsqrt d a => Sys2Proof.Machine.execVrsqrt d a s
  | .vsqrt d a => Sys2Proof.Machine.execVsqrt d a s
  | .vexp2 d a => Sys2Proof.Machine.execVexp2 d a s
  | .vlog2 d a => Sys2Proof.Machine.execVlog2 d a s
  | .vsin d a => Sys2Proof.Machine.execVsin d a s
  | .vcos d a => Sys2Proof.Machine.execVcos d a s
  | .vtanh d a => Sys2Proof.Machine.execVtanh d a s
  | .vfadd d a b => Sys2Proof.Machine.execVfadd d a b s
  | .vfsub d a b => Sys2Proof.Machine.execVfsub d a b s
  | .vfmul d a b => Sys2Proof.Machine.execVfmul d a b s
  | .vfmin d a b => Sys2Proof.Machine.execVfmin d a b s
  | .vfmad d a b => Sys2Proof.Machine.execVfmad d a b s
  | .vfmac d a b => Sys2Proof.Machine.execVfmac d a b s
  | .vfnmac d a b => Sys2Proof.Machine.execVfnmac d a b s
  | .vfmax d a b => Sys2Proof.Machine.execVfmax d a b s
  | .vcvt d a t s0 => Sys2Proof.Machine.execVcvt d a t s0 s
  | .vmxscale d a => Sys2Proof.Machine.execVmxscale d a s
  | .vmxq d a b => Sys2Proof.Machine.execVmxq d a b s
  | .vmxdq d a b => Sys2Proof.Machine.execVmxdq d a b s
  | .vshflIdx d a b => Sys2Proof.Machine.execVshflIdx d a b s
  | .vshflUp d a b => Sys2Proof.Machine.execVshflUp d a b s
  | .vshflDown d a b => Sys2Proof.Machine.execVshflDown d a b s
  | .vshflXor d a b => Sys2Proof.Machine.execVshflXor d a b s
  | .vbcast d a k => Sys2Proof.Machine.execVbcast d a k s
  | .vs2v d a => Sys2Proof.Machine.execVs2v d a s
  | .v2s d a k => Sys2Proof.Machine.execV2s d a k s
  | .voteAny d a => Sys2Proof.Machine.execVoteAny d a s
  | .voteAll d a => Sys2Proof.Machine.execVoteAll d a s
  | .voteBallot d a => Sys2Proof.Machine.execVoteBallot d a s
  | .voteUni d a => Sys2Proof.Machine.execVoteUni d a s
  | .vscanAdd d a => Sys2Proof.Machine.execVscanAdd d a s
  | .vscanMin d a => Sys2Proof.Machine.execVscanMin d a s
  | .vscanMax d a => Sys2Proof.Machine.execVscanMax d a s
  | .vscanOr d a => Sys2Proof.Machine.execVscanOr d a s
  | .vreduceAdd d a => Sys2Proof.Machine.execVreduceAdd d a s
  | .vreduceMin d a => Sys2Proof.Machine.execVreduceMin d a s
  | .vreduceMax d a => Sys2Proof.Machine.execVreduceMax d a s
  | .vreduceOr d a => Sys2Proof.Machine.execVreduceOr d a s
  | .mset d a => Sys2Proof.Machine.execMset d a s
  | .mget d a => Sys2Proof.Machine.execMget d a s
  | .msetx a => Sys2Proof.Machine.execMsetx a s
  | .mgetx d => Sys2Proof.Machine.execMgetx d s
  | .pand d a b => Sys2Proof.Machine.execPand d a b s
  | .por d a b => Sys2Proof.Machine.execPor d a b s
  | .pxor d a b => Sys2Proof.Machine.execPxor d a b s
  | .pandn d a b => Sys2Proof.Machine.execPandn d a b s
  | .reord a b => Sys2Proof.Machine.execReord a b s
  | .ldv d i0 h w g s0 => Sys2Proof.Machine.execLdv d i0 h w g s0 s
  | .gather d i0 h w g s0 => Sys2Proof.Machine.execGather d i0 h w g s0 s
  | .stv d i0 h w g s0 => Sys2Proof.Machine.execStv d i0 h w g s0 s
  | .scatter d i0 h w g s0 => Sys2Proof.Machine.execScatter d i0 h w g s0 s
  | .ldc d i0 w g s0 => Sys2Proof.Machine.execLdc d i0 w g s0 s
  | .sld d i0 h w g s0 => Sys2Proof.Machine.execSld d i0 h w g s0 s
  | .sst d i0 h w g s0 => Sys2Proof.Machine.execSst d i0 h w g s0 s
  | .lda d i0 h w g s0 => Sys2Proof.Machine.execLda d i0 h w g s0 s
  | .stl d i0 h w g s0 => Sys2Proof.Machine.execStl d i0 h w g s0 s
  | .tld d i0 h => Sys2Proof.Machine.execTld d i0 h s
  | .tst d i0 h => Sys2Proof.Machine.execTst d i0 h s
  | .hbind h a => Sys2Proof.Machine.execHbind h a s
  | .hset h a => Sys2Proof.Machine.execHset h a s
  | .hqry d h q => Sys2Proof.Machine.execHqry d h q s
  | .pref d a h => Sys2Proof.Machine.execPref d a h s
  | .flush d a h => Sys2Proof.Machine.execFlush d a h s
  | .inval d a h => Sys2Proof.Machine.execInval d a h s
  | .pub d a h => Sys2Proof.Machine.execPub d a h s
  | .smap d a h => Sys2Proof.Machine.execSmap d a h s
  | .sunmap a => Sys2Proof.Machine.execSunmap a s
  | .fenceWarp => Sys2Proof.Machine.execFenceWarp s
  | .fenceBlk => Sys2Proof.Machine.execFenceBlk s
  | .fenceDev => Sys2Proof.Machine.execFenceDev s
  | .fenceGang => Sys2Proof.Machine.execFenceGang s
  | .fenceSys => Sys2Proof.Machine.execFenceSys s
  | .fenceXp => Sys2Proof.Machine.execFenceXp s
  | .atomAdd d i0 h w r => Sys2Proof.Machine.execAtomAdd d i0 h w r s
  | .atomMin d i0 h w r => Sys2Proof.Machine.execAtomMin d i0 h w r s
  | .atomMax d i0 h w r => Sys2Proof.Machine.execAtomMax d i0 h w r s
  | .atomAnd d i0 h w r => Sys2Proof.Machine.execAtomAnd d i0 h w r s
  | .atomOr d i0 h w r => Sys2Proof.Machine.execAtomOr d i0 h w r s
  | .atomXor d i0 h w r => Sys2Proof.Machine.execAtomXor d i0 h w r s
  | .atomXchg d i0 h w r => Sys2Proof.Machine.execAtomXchg d i0 h w r s
  | .atomCas d i0 h w r => Sys2Proof.Machine.execAtomCas d i0 h w r s
  | .redAdd d i0 h w r => Sys2Proof.Machine.execRedAdd d i0 h w r s
  | .redMin d i0 h w r => Sys2Proof.Machine.execRedMin d i0 h w r s
  | .redMax d i0 h w r => Sys2Proof.Machine.execRedMax d i0 h w r s
  | .redAnd d i0 h w r => Sys2Proof.Machine.execRedAnd d i0 h w r s
  | .redOr d i0 h w r => Sys2Proof.Machine.execRedOr d i0 h w r s
  | .redXor d i0 h w r => Sys2Proof.Machine.execRedXor d i0 h w r s
  | .barArrive d a h => Sys2Proof.Machine.execBarArrive d a h s
  | .barWait d a h => Sys2Proof.Machine.execBarWait d a h s
  | .barArriveN d a h => Sys2Proof.Machine.execBarArriveN d a h s
  | .rclm a => Sys2Proof.Machine.execRclm a s
  | .rrel a => Sys2Proof.Machine.execRrel a s
  | .rqry d => Sys2Proof.Machine.execRqry d s
  | .rqpool d => Sys2Proof.Machine.execRqpool d s
  | .qpush q a => Sys2Proof.Machine.execQpush q a s
  | .kvxs d a h => Sys2Proof.Machine.execKvxs d a h s
  | .kvx d i0 h => Sys2Proof.Machine.execKvx d i0 h s
  | .rld d o p h => Sys2Proof.Machine.execRld d o p h s
  | .rst d o p h => Sys2Proof.Machine.execRst d o p h s
  | .ratom d o p h => Sys2Proof.Machine.execRatom d o p h s
  | .rred d o p h => Sys2Proof.Machine.execRred d o p h s
  | .mcst d o p h => Sys2Proof.Machine.execMcst d o p h s
  | .mma c a b s0 t z => Sys2Proof.Machine.execMma c a b s0 t z s
  | .mmat c a b s0 t z => Sys2Proof.Machine.execMmat c a b s0 t z s
  | .mmap c a b s0 t z => Sys2Proof.Machine.execMmap c a b s0 t z s
  | .accz c => Sys2Proof.Machine.execAccz c s
  | .accld c h s0 => Sys2Proof.Machine.execAccld c h s0 s
  | .accst c h s0 => Sys2Proof.Machine.execAccst c h s0 s
  | .accg c s0 => Sys2Proof.Machine.execAccg c s0 s
  | .accmax c s0 => Sys2Proof.Machine.execAccmax c s0 s
  | .accexp c s0 => Sys2Proof.Machine.execAccexp c s0 s
  | .accsum c m s0 => Sys2Proof.Machine.execAccsum c m s0 s
  | .cpy d a b => Sys2Proof.Machine.execCpy d a b s
  | .gath d a b => Sys2Proof.Machine.execGath d a b s
  | .scat d a b => Sys2Proof.Machine.execScat d a b s
  | .tcpy r d a b => Sys2Proof.Machine.execTcpy r d a b s
  | .fill d a b => Sys2Proof.Machine.execFill d a b s
  | .tdec d a b => Sys2Proof.Machine.execTdec d a b s
  | .encv d a b => Sys2Proof.Machine.execEncv d a b s
  | .encc d a b => Sys2Proof.Machine.execEncc d a b s
  | .encvp d a b => Sys2Proof.Machine.execEncvp d a b s
  | .enccp d a b => Sys2Proof.Machine.execEnccp d a b s
  | .migp d a b => Sys2Proof.Machine.execMigp d a b s
  | .migb r d a b => Sys2Proof.Machine.execMigb r d a b s
  | .avdec r d a b => Sys2Proof.Machine.execAvdec r d a b s
  | .cbcast d a b => Sys2Proof.Machine.execCbcast d a b s
  | .creduce d a b => Sys2Proof.Machine.execCreduce d a b s
  | .callred d a b => Sys2Proof.Machine.execCallred d a b s
  | .cgath d a b => Sys2Proof.Machine.execCgath d a b s
  | .tdef d a => Sys2Proof.Machine.execTdef d a s
  | .trel r d a => Sys2Proof.Machine.execTrel r d a s
  | .trdy r d a => Sys2Proof.Machine.execTrdy r d a s
  | .tdrn r d a => Sys2Proof.Machine.execTdrn r d a s
  | .tqry d a => Sys2Proof.Machine.execTqry d a s
  | .ctload a s0 => Sys2Proof.Machine.execCtload a s0 s
  | .ctsave a s0 => Sys2Proof.Machine.execCtsave a s0 s
  | .ctinv s0 => Sys2Proof.Machine.execCtinv s0 s
  | .smovi d i0 => Sys2Proof.Machine.execSmovi d i0 s
  | .movi d i0 => Sys2Proof.Machine.execMovi d i0 s
  | .loadComplete wid k => Sys2Proof.Machine.execLoadComplete wid k s
  | .storePerformed wid => Sys2Proof.Machine.execStorePerformed wid s
  | .lateFault wid record => Sys2Proof.Machine.execLateFault wid record s
  | .impreciseFaultDelivery wid => Sys2Proof.Machine.execImpreciseFaultDelivery wid s
  | .ttrapDeadline wid => Sys2Proof.Machine.execTtrapDeadline wid s
  | .tdeadDeadline wid => Sys2Proof.Machine.execTdeadDeadline wid s
  | .sleepEnd wid => Sys2Proof.Machine.execSleepEnd wid s
  | .accordWaitExpire wid => Sys2Proof.Machine.execAccordWaitExpire wid s
  | .wosTimeout wid k => Sys2Proof.Machine.execWosTimeout wid k s
  | .deadlockDetect bid => Sys2Proof.Machine.execDeadlockDetect bid s
  | .rclmGrant core => Sys2Proof.Machine.execRclmGrant core s
  | .matrixAccept wid => Sys2Proof.Machine.execMatrixAccept wid s
  | .matrixComplete wid => Sys2Proof.Machine.execMatrixComplete wid s
  | .engineStartGrant die => Sys2Proof.Machine.execEngineStartGrant die s
  | .engineGate engine => Sys2Proof.Machine.execEngineGate engine s
  | .engineCompletion cmd => Sys2Proof.Machine.execEngineCompletion cmd s
  | .xlateInval => Sys2Proof.Machine.execXlateInval s
  | .xlateInvalctx => Sys2Proof.Machine.execXlateInvalctx s
  | .xlateSplinter => Sys2Proof.Machine.execXlateSplinter s
  | .xlateAttrchg => Sys2Proof.Machine.execXlateAttrchg s
  | .xlatePerm => Sys2Proof.Machine.execXlatePerm s
  | .xlateRequestEnd => Sys2Proof.Machine.execXlateRequestEnd s
  | .queueEnable => Sys2Proof.Machine.execQueueEnable s
  | .queueDisable => Sys2Proof.Machine.execQueueDisable s
  | .ctxQuery => Sys2Proof.Machine.execCtxQuery s
  | .ctxResume => Sys2Proof.Machine.execCtxResume s
  | .ctxStop => Sys2Proof.Machine.execCtxStop s
  | .ckptCfg value => Sys2Proof.Machine.execCkptCfg value s
  | .fabCfg value => Sys2Proof.Machine.execFabCfg value s
  | .pwrCfg value => Sys2Proof.Machine.execPwrCfg value s
  | .tlmSel value => Sys2Proof.Machine.execTlmSel value s
  | .registerWrite offset value => Sys2Proof.Machine.execRegisterWrite offset value s
  | .tailChange queue => Sys2Proof.Machine.execTailChange queue s
  | .cardAccept => Sys2Proof.Machine.execCardAccept s
  | .semLineChange ctx => Sys2Proof.Machine.execSemLineChange ctx s
  | .nodeDispatch => Sys2Proof.Machine.execNodeDispatch s
  | .priorityAging => Sys2Proof.Machine.execPriorityAging s
  | .nodeComplete seq => Sys2Proof.Machine.execNodeComplete seq s
  | .nodeWatchdog seq => Sys2Proof.Machine.execNodeWatchdog seq s
  | .gangReserve seq => Sys2Proof.Machine.execGangReserve seq s
  | .gangTimeout seq => Sys2Proof.Machine.execGangTimeout seq s
  | .gangRetry seq => Sys2Proof.Machine.execGangRetry seq s
  | .contextSwitchOut ctx => Sys2Proof.Machine.execContextSwitchOut ctx s
  | .contextRestore ctx => Sys2Proof.Machine.execContextRestore ctx s
  | .migrationRequest ctx => Sys2Proof.Machine.execMigrationRequest ctx s
  | .intervalCut => Sys2Proof.Machine.execIntervalCut s
  | .undoLogFull => Sys2Proof.Machine.execUndoLogFull s
  | .heartbeatTick => Sys2Proof.Machine.execHeartbeatTick s
  | .deviceDeclaredDead ident => Sys2Proof.Machine.execDeviceDeclaredDead ident s
  | .standbySubstitute ident vertex incarn => Sys2Proof.Machine.execStandbySubstitute ident vertex incarn s
  | .uncorrectableError line => Sys2Proof.Machine.execUncorrectableError line s
  | .rebuildDone => Sys2Proof.Machine.execRebuildDone s
  | .cut n => Sys2Proof.Machine.execCut n s
  | .cutdone n src => Sys2Proof.Machine.execCutdone n src s
  | .resume n => Sys2Proof.Machine.execResume n s
  | .vote n src sound => Sys2Proof.Machine.execVote n src sound s
  | .commit n => Sys2Proof.Machine.execCommit n s
  | .abort n => Sys2Proof.Machine.execAbort n s
  | .heartbeat src => Sys2Proof.Machine.execHeartbeat src s
  | .reserve leader seq ctx card => Sys2Proof.Machine.execReserve leader seq ctx card s
  | .gcommit leader seq => Sys2Proof.Machine.execGcommit leader seq s
  | .grelease leader seq => Sys2Proof.Machine.execGrelease leader seq s
  | .mirror src frame offset data => Sys2Proof.Machine.execMirror src frame offset data s
  | .mirrorack frame => Sys2Proof.Machine.execMirrorack frame s
  | .fmwrite offset value => Sys2Proof.Machine.execFmwrite offset value s
  | .spdm code body => Sys2Proof.Machine.execSpdm code body s
  | .keyset slot key authorised => Sys2Proof.Machine.execKeyset slot key authorised s
  | .keyerase slot authorised => Sys2Proof.Machine.execKeyerase slot authorised s
  | .rekey port => Sys2Proof.Machine.execRekey port s
  | .keyrdy port => Sys2Proof.Machine.execKeyrdy port s
  | .retire port => Sys2Proof.Machine.execRetire port s
  | .mctpMessage kind secured body => Sys2Proof.Machine.execMctpMessage kind secured body s
  | .flit port header payload tagOk => Sys2Proof.Machine.execFlit port header payload tagOk s
  | .nak port lseq => Sys2Proof.Machine.execNak port lseq s
  | .linkDown port => Sys2Proof.Machine.execLinkDown port s
  | .linkTrain port vertex => Sys2Proof.Machine.execLinkTrain port vertex s
  | .rldRequest src tag ctx mask peer index mode space gang offsets => Sys2Proof.Machine.execRldRequest src tag ctx mask peer index mode space gang offsets s
  | .rstRequest src tag ctx mask peer index mode space gang offsets data => Sys2Proof.Machine.execRstRequest src tag ctx mask peer index mode space gang offsets data s
  | .ratomRequest src tag ctx mask peer index mode space gang offsets data => Sys2Proof.Machine.execRatomRequest src tag ctx mask peer index mode space gang offsets data s
  | .rredRequest src tag ctx mask peer index mode space gang offsets data => Sys2Proof.Machine.execRredRequest src tag ctx mask peer index mode space gang offsets data s
  | .mcstRequest src tag ctx mask peer index mode space gang offsets data place => Sys2Proof.Machine.execMcstRequest src tag ctx mask peer index mode space gang offsets data place s
  | .ack src tag data => Sys2Proof.Machine.execAck src tag data s
  | .rnr src tag mask reason => Sys2Proof.Machine.execRnr src tag mask reason s
  | .err src tag mask code detail => Sys2Proof.Machine.execErr src tag mask code detail s
  | .rnrRetry tag => Sys2Proof.Machine.execRnrRetry tag s
  | .dack dst cls => Sys2Proof.Machine.execDack dst cls s
  | .readShared agent line => Sys2Proof.Machine.execReadShared agent line s
  | .readOwn agent line => Sys2Proof.Machine.execReadOwn agent line s
  | .readUpdate agent line op wide type => Sys2Proof.Machine.execReadUpdate agent line op wide type s
  | .writeBack agent line mask data => Sys2Proof.Machine.execWriteBack agent line mask data s
  | .invalidate agent line => Sys2Proof.Machine.execInvalidate agent line s
  | .update agent line mask data => Sys2Proof.Machine.execUpdate agent line mask data s
  | .recall agent line => Sys2Proof.Machine.execRecall agent line s
  | .partialReturn agent line => Sys2Proof.Machine.execPartialReturn agent line s
  | .grant agent line state => Sys2Proof.Machine.execGrant agent line state s
  | .acknowledge agent line => Sys2Proof.Machine.execAcknowledge agent line s
  | .hostMemRead pa copy => Sys2Proof.Machine.execHostMemRead pa copy s
  | .hostMemWrite pa mask data => Sys2Proof.Machine.execHostMemWrite pa mask data s
  | .hostSnoop pa state => Sys2Proof.Machine.execHostSnoop pa state s
  | .nvmeCompletion drive status => Sys2Proof.Machine.execNvmeCompletion drive status s
  | .powerGood verified => Sys2Proof.Machine.execPowerGood verified s
  | .flowLoss => Sys2Proof.Machine.execFlowLoss s
  | .throttle avg tmax => Sys2Proof.Machine.execThrottle avg tmax s
  | .thermalFatal tmax => Sys2Proof.Machine.execThermalFatal tmax s
  | .gangAcknowledgement seq member => Sys2Proof.Machine.execGangAcknowledgement seq member s
  | .flowSignalAsserted => Sys2Proof.Machine.execFlowSignalAsserted s
  | .throttleClear avg tmax => Sys2Proof.Machine.execThrottleClear avg tmax s

end Sys2Proof.Machine
end

