-- ==== Sys2Proof/Machine/Issue.lean ====
section
/-!
DEFINITION. The turn of one warp: boundary checks (R387), entry (R228), decoding (R239), and the effect of its next instruction.
-/
namespace Sys2Proof.Machine

/-- A word that is not an instruction (R239); a function written without the reply it requires is judged after the checks that
come before (R363). -/
def illegalWord (e : DecodeError) (s : State) : Host.Outcome State Fault Refusal :=
  match e with
  | .reservedCode => finish s (trap cIllegalInstruction 0x01)
  | .nonZeroField => finish s (trap cIllegalInstruction 0x02)
  | .replyMissing a b =>
    let fa := Opd.ssrc (a.setWidth 8)
    let fb := Opd.ssrc (b.setWidth 8)
    issue { rap := .no, opds := [fa, fb] } s fun s =>
      match consumeS (sReg s.w (Fin.ofNat 64 a.toNat)) with
      | .error e => .error e
      | .ok _ =>
        match consumeS (sReg s.w (Fin.ofNat 64 b.toNat)) with
        | .error e => .error e
        | .ok _ => trap cIllegalInstruction 0x44

/-- The wait mask of the clause is judged at its entry (R228, step 4), and again while the warp waits there. -/
def heldByFlags (before after : Warp) : Bool := (before.enter || before.status = .parked .flags) && flagsHold after

/-- The instruction at the program counter, reached, decoded and performed. -/
def issueWord (s : State) : Host.Outcome State Fault Refusal :=
  match enterClause s with
  | .error e => finish s (.error e)
  | .ok t =>
    if heldByFlags s.w t.w then .next { t with w := waiting t.w .flags, turn := 0 }
    else
      match decodeWord (currentWord t.w) with
      | .error e => illegalWord e t
      | .ok i => exec i t

/-- The first instruction of a handler waits for the fault slot, whose write still waits for its page (R381). -/
def slotDue (s : State) : Bool := inHandler s.w && s.w.enter && s.w.pc = s.x.trapva && s.hub.writesDue.any fun d => d.1 = s.x.num

/-- The warp in focus may issue: the compute dies have left reset (R455), its context is resident (R395), its gang has committed (R199),
no cut holds issue (R169), and the record of the trap that it takes is written (R381). -/
def mayIssue (s : State) : Bool := s.hub.stage = 5#4 && s.x.resident && !s.x.leaving && s.b.started && !hubHeld s.hub && !slotDue s

/-- A warp that issues: the boundary first (R387), then its next word. -/
def stepIssue (s : State) : Host.Outcome State Fault Refusal :=
  match boundaryTrap s with
  | some t => .next t
  | none => issueWord s

/-- The warp in focus takes its turn: one that has ended, halted or sleeps lets the others have theirs, and a run-ahead processor
stops once the warps of its block have ended (R202). A block of which a warp runs is not deadlocked (R391). -/
def stepWarp (s : State) : Host.Outcome State Fault Refusal :=
  if !mayIssue s then .next { s with turn := 0 }
  else if s.w.rap && (liveWarps s s.w.bid).isEmpty then .next { s with w := { s.w with status := .done }, turn := 0 }
  else
    match s.w.status with
    | .running => stepIssue { s with b := { s.b with stuckSince := none } }
    | .parked p =>
      if p = .sleep then
        if s.w.cyc.toNat < s.w.since then .next { s with turn := 0 }
        else stepIssue { s with w := { s.w with status := .running } }
      else stepIssue s
    | _ => .next { s with turn := 0 }

end Sys2Proof.Machine
end

