-- ==== Sys2Proof/Machine/Select.lean ====
section
/-!
DEFINITION. Which warp issues next (spec/09, R224, R225; spec/08, R194): the issue slots of the partitions take their turns round robin, each
selecting among its eligible warps. The slots of one clock, which the hardware serves together, are served one after another (log entry 10).
-/
namespace Sys2Proof.Machine

/-! ### The state with its focus set aside -/

/-- A list in the order of a number of its elements. -/
def orderedBy {α : Type} (key : α → Nat) : List α → List α
  | [] => []
  | a :: l => let r := orderedBy key l; r.takeWhile (fun b => key b < key a) ++ a :: r.dropWhile (fun b => key b < key a)

/-- The state with nothing in focus and its warps, blocks and contexts in the order of their names: what is left when the focus, the
model's own, is set aside. -/
def unfocused (s : State) : State :=
  { s with
    w := Warp.empty, b := Block.empty, x := Ctx.empty, turn := 0
    warps := orderedBy Warp.wid ((allWarps s).filter fun w => w.status ≠ .vacant)
    blocks := orderedBy Block.bid ((allBlocks s).filter fun b => b.bid ≠ 0)
    ctxs := orderedBy (fun x => x.num.toNat) ((allCtxs s).filter fun x => x ≠ { Ctx.empty with num := x.num }) }

/-- An outcome has an effect, beyond moving the focus. -/
def hasEffect (s : State) (o : Host.Outcome State Fault Refusal) : Bool :=
  match o with
  | .next t => t ≠ s && unfocused t ≠ unfocused s
  | _ => true

/-! ### Issue slots (R224, R225, R241) -/

/-- The issue slot of a word by its major opcode: 0 vector-ALU, 1 scalar, branch and system, 2 memory, matrix and engine (R241). -/
def issueSlot (w : Word) : Nat :=
  let op := bitsNat w 26 6
  if op ≤ 0x0A || op = 0x19 || op = 0x1A || op = 0x26 || op = 0x2C || (0x38 ≤ op && op ≤ 0x3B) then 1
  else if op ≤ 0x18 || 0x3C ≤ op then 0
  else 2

/-- The issue slot for which the next instruction of the warp in focus stands; an entry that faults counts as a branch. -/
def slotOf (s : State) : Nat :=
  match enterClause s with
  | .ok t => issueSlot (currentWord t.w)
  | .error _ => 1

/-- The slots of all partitions in one numbering; the scalar pipe of each run-ahead processor, which no other warp shares, comes behind them
(R225). -/
def slotNumber (s : State) : Nat :=
  if s.w.rap && slotOf s ≠ 2 then 2560 + s.w.wid else 4 * (4 * s.w.core.toNat + s.w.part.toNat) + slotOf s

/-! ### The two paths of a split (R194) -/

/-- The running path may leave the focus to the other path: it waits for nothing that the warp holds for it. -/
def swappable (w : Warp) : Bool :=
  w.matReq.isNone && w.keys.isEmpty && !w.rowResume && match w.status with
    | .running => true
    | .parked p => match p with
      | .claim _ | .accg | .reord | .tattach | .accord | .sleep | .detach | .gang | .matrix => false
      | _ => true
    | _ => false

/-- The other path of the warp's innermost split in focus, where the split holds an entry of its partition's pool (R194). -/
def otherPath (w : Warp) : Option Warp :=
  match w.stack with
  | e :: rest =>
    match e.other with
    | some c => if e.kind = .path && e.pooled && c.m ≠ 0#64 && swappable w then
        some (settle { takePath w c with stack := { e with other := some (pathOf w) } :: rest }) else none
    | none => none
  | [] => none

/-! ### Selection (R224) -/

/-- A warp, or one path of it, that is eligible for a slot. -/
structure Candidate where
  wid : Nat
  other : Bool
  slot : Nat
  launched : Nat
  waited : Nat
  bslot : Nat
  widx : Nat
  /-- it is not selected while another warp is eligible: it has yielded, or left a clause with the yield hint (R224, R270) -/
  yields : Bool
  deriving DecidableEq, Repr

/-- The state with a warp in focus, on its own path or the other one. -/
def withPath (s : State) (wid : Nat) (other : Bool) : State :=
  let t := focusOn s wid
  if other then { t with w := (otherPath t.w).getD t.w } else t

/-- The warps and paths that might issue. -/
def candidates (s : State) : List Candidate :=
  let live := (allWarps s).filter fun w => match w.status with
    | .running | .parked _ => true
    | _ => false
  live.flatMap fun w => ((false :: if (otherPath w).isSome then [true] else [])).map fun o =>
    let t := withPath s w.wid o
    { wid := w.wid, other := o, slot := slotNumber t, launched := t.b.launched, waited := w.waited, bslot := t.b.bslot.toNat
      widx := if w.rap then 0xFF else w.widx.toNat, yields := w.waited = 0 && (w.yields || (w.enter && w.clause.getLsbD 8)) }

/-- A candidate is eligible: its next instruction would issue, or its wait would end. -/
def eligible (s : State) (c : Candidate) : Bool :=
  let t := withPath s c.wid c.other
  hasEffect t (stepWarp t)

/-- The order of selection: age counters that have reached 64 first, then the oldest block, the larger counter, the lower block slot, the lower
warp index (R224). -/
def goesBefore (a b : Candidate) : Bool :=
  let ra := 64 ≤ a.waited
  let rb := 64 ≤ b.waited
  if ra ≠ rb then ra
  else if a.launched ≠ b.launched then a.launched < b.launched
  else if a.waited ≠ b.waited then b.waited < a.waited
  else if a.bslot ≠ b.bslot then a.bslot < b.bslot
  else a.widx < b.widx

/-- The first of the candidates in the order of selection. -/
def firstOf : List Candidate → Option Candidate
  | [] => none
  | c :: cs => match firstOf cs with
    | some d => some (if goesBefore d c then d else c)
    | none => some c

/-- The candidates of a slot among which it selects: a warp that yields is passed over while another is eligible, and one that its partition
has selected in this clock. -/
def choices (s : State) (cs : List Candidate) (slot : Nat) : List Candidate :=
  let taken := if s.pick / 4 = slot / 4 && s.pick < slot then s.picked else []
  let l := cs.filter fun c => c.slot = slot && !taken.contains c.wid && eligible s c
  let keen := l.filter fun c => !c.yields
  if keen.isEmpty then l else keen

/-- The slots in the order of their turns. -/
def slotTurns (s : State) (cs : List Candidate) : List Nat :=
  let l := orderedBy id (cs.map (·.slot)).eraseDups
  (l.filter fun n => s.pick < n) ++ l.filter fun n => n ≤ s.pick

/-- The next slot that has an eligible warp, and the warp that it selects. -/
def nextPick (s : State) (cs : List Candidate) : List Nat → Option Candidate
  | [] => none
  | n :: ns => match firstOf (choices s cs n) with
    | some c => some c
    | none => nextPick s cs ns

/-- The age counters after a selection: that of the warp selected starts again, those of the others eligible for its slot count (R224). -/
def countAges (s : State) (cs : List Candidate) (c : Candidate) : State :=
  let others := (cs.filter fun d => d.slot = c.slot && d.wid ≠ c.wid && eligible s d).map (·.wid)
  mapWarps s fun w =>
    if w.wid = c.wid then { w with waited := 0, yields := false }
    else if others.contains w.wid then { w with waited := w.waited + 1, yields := false }
    else w

/-- The next slot's turn: the warp that it selects comes into focus and issues one instruction; with none eligible, no warp issues. -/
def select (s : State) : State :=
  let cs := candidates s
  match nextPick s cs (slotTurns s cs) with
  | none => { s with turn := 0 }
  | some c =>
    let t := withPath (countAges s cs c) c.wid c.other
    { t with turn := 1, pick := c.slot, picked := if s.pick / 4 = c.slot / 4 && s.pick < c.slot then c.wid :: s.picked else [c.wid] }

end Sys2Proof.Machine
end

