-- ==== Sys2Proof/Machine/Progress.lean ====
section
/-!
DEFINITION. What the agents beside the issuing warp do in their turn: the units that act on their own, and which pending event happens
next. The manual leaves the order of independent events to the machine (R119, R186); the model takes the first that has an effect, from
a starting point that moves with the clock (log entry 10).
-/
namespace Sys2Proof.Machine

/-! ### Units that act on their own -/

/-- The links: a due rekey starts (R418), a link with sixteen failed replays goes down (R412). -/
def tendLink (s : State) (n : Nat) : State :=
  let p := portAt s.fab n
  let s := if rekeyDue p then after (execRekey (BitVec.ofNat 6 n) s) s else s
  if linkDownDue p then after (execLinkDown (BitVec.ofNat 6 n) s) s else s

/-- The fabric manager's role taken over where it is silent, and devices declared dead (R178). -/
def tendDeaths (s : State) : State :=
  s.fab.loc.foldl (fun s e => if deathDue s e.1 then after (execDeviceDeclaredDead e.1 s) s else s) (takeRole s)

/-- Writes of the hub that met a page being changed tried again, in their order (R47, R63). -/
def retryWrites (s : State) : State :=
  s.hub.writesDue.foldl (fun s d => hubPost s (ctxFor s d.1) d.2.1 d.2.2) { s with hub := { s.hub with writesDue := [] } }

/-- Fault records that met one tried again, in their order. -/
def retryRecords (s : State) : State :=
  s.hub.ringDue.foldl (fun s d => appendRing s (ctxFor s d.1) d.2) { s with hub := { s.hub with ringDue := [] } }

/-- The hub: its writes, waits, reservations, the journal, blocks that have ended (R210 to R223). -/
def tendHub (s : State) : State :=
  settleJhead (flushGaps (serveReservation (markPassed (refreshReady (releaseBlocks (retryRecords (retryWrites s)))))))

/-- The checkpoint machinery: a cut asked for or finished, the mirror streamed, the vote cast, held host requests answered (R169 to R175). -/
def tendCuts (s : State) : State :=
  let s := askForCut (finishCut s)
  answerHeld (castVote (if s.hub.cutReported then s else streamMirror s))

/-- Every copy on its way applied one store's bytes further, what that lets be acknowledged, and host lines asked for (R161, R162). -/
def tendLines (s : State) : State :=
  serveWants (ackStores { s with m := { s.m with copies := s.m.copies.map CoreCopy.applyOne } })

/-- The stack entries below the top 32 that a warp has come to hold written to its record, oldest first; those of a stack that has shrunk are
back (R193, R399). -/
def spillStack (s : State) : State :=
  let n := s.w.stack.length - 32
  let old := s.w.stack.reverse
  let s := ((List.range n).drop s.w.spilled).foldl (fun s k => match old[k]? with
    | some e => putImage s s.x (recordOf s.x s.w + 0x1000 + 32 * k) (bytesOfNat 32 (stackImage e))
    | none => s) s
  { s with w := { s.w with spilled := n } }

/-- What a warp has begun goes on: register blocks read back (R93), remote requests sent (R331), pushes of a run-ahead processor that join
their queues (R326), and its stack (R193). -/
def tendWarp (s : State) : State :=
  let s := if s.w.remotes.isEmpty then s else pumpRemotes s
  let s := transferPush (refillStall s)
  if s.w.stack.length - 32 = s.w.spilled then s else spillStack s

/-- A warp has something that goes on by itself. -/
def tends (w : Warp) : Bool :=
  !w.remotes.isEmpty || !w.pushes.isEmpty || w.stack.length - 32 ≠ w.spilled || match w.status with
    | .parked (.refill _) => true
    | _ => false

/-- Every warp on its core tended, unless a cut has been reported. -/
def tendWarps (s : State) : State :=
  if hubSealed s.hub then s else ((allWarps s).filter tends).foldl (fun s w => onCoreWarp s w.wid tendWarp) s

/-- The matrix engines whose 256 idle clocks have passed. -/
def idleEngines (s : State) : List Nat :=
  (s.engines.toList.zipIdx.filter fun e => !e.1.gated && e.1.idleSince + 256 ≤ s.clk).map (·.2)

/-- The start sequencers of the dies, and engines that have idled long enough gated (R226). -/
def tendEngines (s : State) : State :=
  (idleEngines s).foldl (fun s n => after (execEngineGate (BitVec.ofNat 10 n) s) s) ([0#2, 1#2, 2#2, 3#2].foldl grantStart s)

/-- The fabric: parked requests tried again, multicasts, messages and flits sent (R331, R149, R416). -/
def tendFabric (s : State) : State :=
  pumpPorts (sendMessages ((List.range 36).foldl tendLink (pumpMulticasts (serveParked s))))

/-- Every unit takes its turn. -/
def background (s : State) : State :=
  tendFabric (tendDeaths (tendCuts (tendHub (tendEngines (tendLines (tendWarps (startCmds (watchBlocks s))))))))

/-! ### Pending events -/

/-- The events of a warp that can be pending. -/
def warpEvents (w : Warp) : List Instr :=
  ((List.range w.loads.length).flatMap fun k => [.loadComplete w.wid k, .wosTimeout w.wid k])
    ++ (if w.stores.isEmpty then [] else [.storePerformed w.wid])
    ++ (if w.matReq.isSome then [.matrixAccept w.wid, .accordWaitExpire w.wid] else [])
    ++ (if w.mat.isSome then [.matrixComplete w.wid] else [])
    ++ (if w.status = .parked .sleep then [.sleepEnd w.wid] else [])
    ++ (w.remotes.filter fun r => r.ready.isSome).map fun r => .rnrRetry r.tag

/-- The events of the cores, the engines and the blocks. -/
def coreEvents (s : State) : List Instr :=
  (s.cmds.map fun c => .engineCompletion c.id)
    ++ (((List.range 160).filter fun k => !(coreAt s k).claims.isEmpty).map fun k => .rclmGrant (BitVec.ofNat 8 k))
    ++ ((allBlocks s).filter fun b => b.stuckSince.isSome).map fun b => .deadlockDetect b.bid

/-- The events of the copies of multicast stores. -/
def copyEvents (s : State) : List Instr :=
  s.fab.multicasts.flatMap fun m => m.copies.filterMap fun c => if c.ready.isSome then c.tag.map .rnrRetry else none

/-- The events of the nodes. -/
def nodeEvents (s : State) : List Instr :=
  s.hub.nodes.flatMap fun n => [.nodeComplete n.seq, .nodeWatchdog n.seq, .gangReserve n.seq, .gangTimeout n.seq, .gangRetry n.seq]

/-- The events of the hub and of its registers' requests. -/
def hubEvents (s : State) : List Instr :=
  [.xlateInval, .xlateInvalctx, .xlateSplinter, .xlateAttrchg, .xlatePerm, .xlateRequestEnd, .queueEnable, .queueDisable, .ctxQuery, .ctxResume,
    .ctxStop, .cardAccept, .priorityAging, .nodeDispatch, .intervalCut, .undoLogFull, .heartbeatTick]
    ++ (if s.hub.rebuild && s.hub.mirrorQueue.isEmpty then [.rebuildDone] else [])
    ++ (s.hub.queues.map fun q => .tailChange q.num)
    ++ (allCtxs s).flatMap fun x => [.semLineChange x.num, .contextSwitchOut x.num, .contextRestore x.num, .migrationRequest x.num]

/-- Every event that can be pending. -/
def pendingEvents (s : State) : List Instr :=
  (allWarps s).flatMap warpEvents ++ coreEvents s ++ copyEvents s ++ nodeEvents s ++ hubEvents s

/-- An event has an effect now, beyond moving the focus. -/
def effective (s : State) (i : Instr) : Bool := hasEffect s (exec i s)

/-- The next event of the turn, `none` when nothing is pending. -/
def nextEvent (s : State) : Option Instr :=
  let l := pendingEvents s
  let k := s.clk % (l.length + 1)
  (l.drop k ++ l.take k).find? (effective s)

end Sys2Proof.Machine
end

