-- ==== Sys2Proof/Machine/Step.lean ====
section
/-!
DEFINITION. One step of the device: an event of the input list, or the turn of the agents beside the warps and the selection of the warp that
issues next (R224), or one instruction of the warp selected.
-/
namespace Sys2Proof.Machine

/-- The other agents take their turn: the units that act on their own and the next pending event; then the next warp is selected. -/
def stepOthers (s : State) : Host.Outcome State Fault Refusal :=
  let s := background s
  match nextEvent s with
  | none => .next (select s)
  | some i =>
    match exec i s with
    | .next t => .next (select t)
    | r => r

/-- One step. -/
def step (s : State) : Host.Outcome State Fault Refusal :=
  let s := tick s
  match s.inbox with
  | i :: rest => if (encode i).isNone then exec i { s with inbox := rest } else .next { s with inbox := rest }
  | [] => if s.turn = 0 then stepOthers s else stepWarp { s with turn := s.turn - 1 }

/-- The PA and VA of the clause in which `State.withFetchWord` stores an instruction, where the warp has none mapped. -/
def fetchBase : Nat := 0x10000

/-- The state with an instruction stored where the warp in focus fetches next: a clause of its own at `fetchBase` with a plain header
(R227), the instruction at word 1; the translation of that page cached (R54); the warp running and about to enter the clause. It
stands for a device that has booted (R455) and the launch of a program from outside (log entry 9). -/
def State.withFetchWord (s : State) (_nbits w : Nat) : State :=
  let entry : BitVec 128 := BitVec.ofNat 128 (2 ^ 92 + 2 ^ 94 + 2 ^ 95 + 2 ^ 96 + 2 ^ 97 + 2 ^ 98 + fetchBase)
  { s with
    w := { s.w with pc := BitVec.ofNat 80 (fetchBase + 4), enter := true, status := .running, late := [], cycdl := 0#64,
                    walldl := 0#64, rap := false }
    b := { s.b with started := true }
    x := { s.x with resident := true, leaving := false }
    m := { s.m with
      cells := cellPut (cellPut s.m.cells fetchBase (bytesOfNat 4 0x000FF00A)) (fetchBase + 4) (bytesOfNat 4 w)
      tlb := { ctx := s.x.num, base := fetchBase, log := 16, pte := 0, entry := entry } :: s.m.tlb
      frames := s.m.frames.filter fun r => r.frame ≠ fetchBase / 65536
      ucopies := s.m.ucopies.filter fun u => u.line ≠ lineOf fetchBase
      copies := s.m.copies.filter fun c => c.line ≠ lineOf fetchBase
      bad := s.m.bad.filter (· ≠ lineOf fetchBase)
      keyFull := s.m.keyFull ||| 1#128 }
    hub := { s.hub with cutting := false, awaited := [], writesDue := [], stage := 5#4 }
    inbox := []
    turn := 1 }

end Sys2Proof.Machine
end

