-- ==== Sys2Proof/Safety.lean ====
section
/-!
DEFINITION. What counts as a safe run, and the terms in which the statements are written: results as the rules' tables give them, and
the parts of a state that an instruction leaves alone.
-/
namespace Sys2Proof.Machine

/-- A step that answers a next state: no fault and no refusal. -/
def Goes (o : Host.Outcome State Fault Refusal) : Prop := ∃ t, o = .next t

/-- A run of `n` steps that never stops. -/
def SafeRun (n : Nat) (s : State) : Prop := ∃ t, Host.Core.run Sys2Proof.core n s = .next t

/-! ### Frames -/

/-- The warp with what its path of control owns set aside: the program counter, EXEC, the divergence stack and what goes with them
(R187, R193). -/
def Warp.offPath (w : Warp) : Warp :=
  { w with pc := 0#80, enter := false, exec := 0#64, m := 0#64, stack := [], floor := 0#9, trapmask := 0#64, rp := none,
           rowResume := false, status := .running, woken := false, yields := false }

/-- The state with the path of control of the warp in focus set aside: two states equal under it agree on every register, flag,
special register and accumulator, on every byte of memory, and on every other warp and unit. -/
def State.offPath (s : State) : State := { s with w := s.w.offPath }

/-- The byte of memory at a physical address. -/
def State.byteAt (s : State) (pa : Nat) : Byte := cellGet s.m.cells pa

/-- The next state took no exception: no event number was spent on a fault record (R211, R380). -/
def Quiet (s t : State) : Prop := t.hub.jtail = s.hub.jtail

/-! ### What the forms write -/

/-- A scalar result written, the instruction complete. -/
def State.putScalar (s : State) (d : Byte) (x : Scalar) : State := advance { s with w := setS s.w (Fin.ofNat 64 d.toNat) x }

/-- A vector result written in the active lanes, the instruction complete, each queue that it names popped once (R203, R258). -/
def State.putVector (s : State) (opds : List Opd) (wide : Bool) (d : Byte) (x : Src) : State :=
  popQueues opds (advance { s with w := writeV s.w wide d (active s.w) x })

/-- A predicate result written in the lanes of a mask, the instruction complete. -/
def State.putPred (s : State) (opds : List Opd) (d : BitVec 4) (m : Mask) (x : Fin 64 → PLane) : State :=
  popQueues opds (advance { s with w := setP s.w d m x })

/-- A result with the poison of its sources in operand order (R65). -/
def spread : List Scalar → DWord → Scalar
  | [], v => ⟨v, false⟩
  | x :: r, v => if x.poison then poisonScalar x.code else spread r v

/-- The front end passes the instruction: its use by the run-ahead processor, its register fields, the interlock and the guard
(R239, R188, R66). -/
def Passes (s : State) (rap : RapUse) (opds : List Opd) (h : BitVec 4 := 0#4) : Prop := Form.check { rap := rap, opds := opds, hreg := h } s = .ok ()

/-! ### Results of the forms

Each says that an instruction completes with a result: for every state and operands under which the front end passes it, a lane is
active where the rule asks for one, and its sources are readable. -/

/-- The scalar form completes with `f` of its two sources in its destination (R258, R274, R275), poison spreading (R65); with no lane
active it only moves on. -/
def GivesScalarTwo (form : Byte → Byte → Byte → Instr) (f : Warp → DWord → DWord → DWord) : Prop :=
  ∀ (s : State) (d a b : Byte), Passes s .yes [.sdst d, .ssrc a, .ssrc b] →
    (active s.w = 0#64 → exec (form d a b) s = .next (advance s)) ∧
    ∀ (s₁ s₂ : State) (x y : Scalar), active s.w ≠ 0#64 → readS s a = .ok (s₁, x) → readS s₁ b = .ok (s₂, y) →
      exec (form d a b) s = .next (s₂.putScalar d (spread [x, y] (f s.w x.val y.val)))

/-- The scalar form completes with `f` of its source in its destination (R258, R276); with no lane active it only moves on. -/
def GivesScalarOne (form : Byte → Byte → Instr) (f : Warp → DWord → DWord) : Prop :=
  ∀ (s : State) (d a : Byte), Passes s .yes [.sdst d, .ssrc a] →
    (active s.w = 0#64 → exec (form d a) s = .next (advance s)) ∧
    ∀ (s₁ : State) (x : Scalar), active s.w ≠ 0#64 → readS s a = .ok (s₁, x) →
      exec (form d a) s = .next (s₁.putScalar d (spread [x] (f s.w x.val)))

/-- Under an element type it accepts, the vector form completes with `f` of its two sources in the active lanes of its destination, a
pair under a 64-bit type (R258 to R262). -/
def GivesVectorTwo (accepts : Elem → Bool) (form : Byte → Byte → Byte → Instr) (f : Warp → DWord → DWord → DWord) : Prop :=
  ∀ (s s₁ s₂ : State) (d a b : Byte) (x y : Src), accepts (modeEt s.w) = true →
    Passes s .no [vdst d (wideEt s), .vsrc a (wideEt s), .vsrc b (wideEt s)] →
    readV s (wideEt s) a = .ok (s₁, x) → readV s₁ (wideEt s) b = .ok (s₂, y) →
    exec (form d a b) s = .next (s₂.putVector [vdst d (wideEt s), .vsrc a (wideEt s), .vsrc b (wideEt s)] (wideEt s) d
      fun l => spread [x l, y l] (f s.w (x l).val (y l).val))

/-- The same for a form that also reads its destination, as its third source (R277, R280). -/
def GivesVectorThree (accepts : Elem → Bool) (form : Byte → Byte → Byte → Instr) (f : Warp → DWord → DWord → DWord → DWord) : Prop :=
  ∀ (s s₁ s₂ : State) (d a b : Byte) (x y : Src), accepts (modeEt s.w) = true →
    Passes s .no [vdst d (wideEt s), .vsrc a (wideEt s), .vsrc b (wideEt s)] →
    readV s (wideEt s) a = .ok (s₁, x) → readV s₁ (wideEt s) b = .ok (s₂, y) →
    exec (form d a b) s = .next (s₂.putVector [vdst d (wideEt s), .vsrc a (wideEt s), .vsrc b (wideEt s)] (wideEt s) d
      fun l => spread [x l, y l, vecSrc s.w (wideEt s) d.toNat l]
        (f s.w (x l).val (y l).val (vecSrc s.w (wideEt s) d.toNat l).val))

/-- The same for a form of one source (R278, R281). -/
def GivesVectorOne (accepts : Elem → Bool) (form : Byte → Byte → Instr) (f : Warp → DWord → DWord) : Prop :=
  ∀ (s s₁ : State) (d a : Byte) (x : Src), accepts (modeEt s.w) = true → Passes s .no [vdst d (wideEt s), .vsrc a (wideEt s)] →
    readV s (wideEt s) a = .ok (s₁, x) →
    exec (form d a) s = .next (s₁.putVector [vdst d (wideEt s), .vsrc a (wideEt s)] (wideEt s) d
      fun l => spread [x l] (f s.w (x l).val))

/-- Every element type is accepted (R260). -/
def anyElem (_ : Elem) : Bool := true
/-- The floating-point types other than F64 are accepted (R281). -/
def notF64 (t : Elem) : Bool := t.isFloat && t ≠ .f64

/-- The unsigned number in the low bits of a lane, as wide as the element (R262, R278). -/
def lowOf (w : Warp) (x : DWord) : Nat := lanePattern (modeEt w) x
/-- The integer of a lane under MODE.ET (R261). -/
def intOf (w : Warp) (x : DWord) : Int := laneInt (modeEt w) x
/-- The width at which the bit forms work (R262). -/
def widthOf (w : Warp) : Nat := laneWidth (modeEt w)
/-- A floating-point function of one value, its result flushed under FTZ and encoded (R281, R282). -/
def realOf (f : Elem → Rm → Bool → FVal → FVal) (w : Warp) (x : DWord) : DWord :=
  floatOut w ((f (modeEt w) (modeRm w) (modeSat w) (floatIn w x)).flush (modeEt w) (modeFtz w))
/-- The pattern of a floating-point lane and its sign bit's weight (R281). -/
def realPattern (w : Warp) (x : DWord) : Nat := x.toNat % 2 ^ (modeEt w).width
def signWeight (w : Warp) : Nat := 2 ^ ((modeEt w).width - 1)

/-- The value of a 20-bit immediate under an element type (R238): sign-extended under the integer types and the reserved code, the
top bits of an F32 pattern under the others, widened to binary64 under F64. -/
def immediateValue (t : Elem) (i : BitVec 20) : DWord :=
  if t.isInt || t.code = 0xF#4 then i.signExtend 64
  else if t = .f64 then BitVec.ofNat 64 (Elem.f64.pattern (Elem.f32.value (i ++ 0#12).toNat))
  else (i ++ 0#12 : BitVec 32).setWidth 64

/-- MODE.ET is one of the four coded types (R284). -/
def isCoded (t : Elem) : Bool := t = .e4m3 || t = .e5m2 || t = .e2m1 || t = .mxi8

/-- The active lanes of lane `l`'s half of the warp (R285). -/
def activeHalf (w : Warp) (l : Fin 64) : List (Fin 64) := (laneList (active w)).filter fun k => k.val / 32 = l.val / 32

/-! ### Results across lanes and on predicates (R271 to R273, R288 to R292) -/

/-- The shuffle completes, each active lane with the lane that `src` names from its own number and the low six bits of its amount; a
poisoned amount poisons the lane, a poisoned source lane moves with its code (R288). -/
def GivesShuffle (form : Byte → Byte → Byte → Instr) (src : Nat → Nat → Nat) : Prop :=
  ∀ (s s₁ s₂ : State) (d a b : Byte) (x y : Src), Passes s .no [vdst d (wideEt s), .vsrc a (wideEt s), .vsrc b (wideEt s)] →
    readV s (wideEt s) a = .ok (s₁, x) → readV s₁ (wideEt s) b = .ok (s₂, y) →
    exec (form d a b) s = .next (s₂.putVector [vdst d (wideEt s), .vsrc a (wideEt s), .vsrc b (wideEt s)] (wideEt s) d fun l =>
      if (y l).poison then poisonScalar (y l).code else moved s.w (x (Fin.ofNat 64 (src l.val ((y l).val.toNat % 64)))))

/-- A scan or reduction accepts MODE.ET (R259, R260). -/
def foldAccepts (o : Fold) (t : Elem) : Bool := o = .or || t.isInt || t.isFloat

/-- The prefix that a scan writes in lane `l`: the values of the active lanes up to it, combined in ascending order (R291). -/
def scanValue (o : Fold) (w : Warp) (x : Src) (l : Fin 64) : Scalar :=
  match (laneList (active w)).filter fun k => k.val ≤ l.val with
  | [] => x l
  | k :: r => r.foldl (fun acc j => o.step w acc (x j)) (o.first w (x k))

/-- The scan completes, each active lane with its prefix (R291). -/
def GivesScan (form : Byte → Byte → Instr) (o : Fold) : Prop :=
  ∀ (s s₁ : State) (d a : Byte) (x : Src), foldAccepts o (modeEt s.w) = true →
    Passes s .no [vdst d (wideEt s), .vsrc a (wideEt s)] → readV s (wideEt s) a = .ok (s₁, x) →
    exec (form d a) s = .next (s₁.putVector [vdst d (wideEt s), .vsrc a (wideEt s)] (wideEt s) d (scanValue o s.w x))

/-- The root of the balanced tree over the 64 lanes, the inactive ones left out (R292). -/
def treeRoot (o : Fold) (w : Warp) (x : Src) : Scalar :=
  let leaves := (List.finRange 64).map fun (k : Fin 64) => if (active w).getLsbD k then some (o.first w (x k)) else none
  let level := fun ns => pairNodes (o.step w) ns
  ((level (level (level (level (level (level leaves)))))).head?.join).getD Scalar.zero

/-- The reduction completes, every active lane with the tree's root, a poisoned active lane poisoning it (R292). -/
def GivesReduce (form : Byte → Byte → Instr) (o : Fold) : Prop :=
  ∀ (s s₁ : State) (d a : Byte) (x : Src), foldAccepts o (modeEt s.w) = true →
    Passes s .no [vdst d (wideEt s), .vsrc a (wideEt s)] → readV s (wideEt s) a = .ok (s₁, x) →
    exec (form d a) s = .next (s₁.putVector [vdst d (wideEt s), .vsrc a (wideEt s)] (wideEt s) d
      fun _ => spread ((laneList (active s.w)).map x) (treeRoot o s.w x).val)

/-- A predicate lane with the poison of its sources in operand order (R65). -/
def spreadPred : List PLane → Bool → PLane
  | [], v => ⟨v, false, 0#8⟩
  | x :: r, v => if x.poison then x else spreadPred r v

/-- The predicate form completes with `f` of two predicates in the active lanes (R272). -/
def GivesPredTwo (form : BitVec 4 → BitVec 4 → BitVec 4 → Instr) (f : Bool → Bool → Bool) : Prop :=
  ∀ (s : State) (d a b : BitVec 4), Passes s .no [.pdst d] →
    exec (form d a b) s = .next (s.putPred [.pdst d] d (active s.w) fun l =>
      spreadPred [predLane s.w a l, predLane s.w b l] (f (predLane s.w a l).bit (predLane s.w b l).bit))

/-- The comparison completes: on integers under an integer type, on floating-point values after FTZ under the others (R273). -/
def GivesCompare (form : BitVec 4 → Byte → Byte → Instr) (onInt : Int → Int → Bool) (onFloat : FVal → FVal → Bool) : Prop :=
  ∀ (s s₁ s₂ : State) (d : BitVec 4) (a b : Byte) (x y : Src), ((modeEt s.w).isInt || (modeEt s.w).isFloat) = true →
    Passes s .no [.pdst d, .vsrc a (wideEt s), .vsrc b (wideEt s)] →
    readV s (wideEt s) a = .ok (s₁, x) → readV s₁ (wideEt s) b = .ok (s₂, y) →
    exec (form d a b) s = .next (s₂.putPred [.pdst d, .vsrc a (wideEt s), .vsrc b (wideEt s)] d (active s.w) fun l =>
      if (x l).poison then ⟨false, true, (x l).code⟩ else if (y l).poison then ⟨false, true, (y l).code⟩
      else ⟨if (modeEt s.w).isInt then onInt (intOf s.w (x l).val) (intOf s.w (y l).val)
        else onFloat (floatIn s.w (x l).val) (floatIn s.w (y l).val), false, 0#8⟩)

/-! ### Transfers of control (R264 to R269) -/

/-- The deferred path of a split as it stands eligible beside the first (R194): at its target, an entry, with its lanes and no reconvergence
point of its own. -/
def deferred (w : Warp) (target : VA) (taken : Mask) : PathCtx :=
  { pc := target, enter := true, clause := w.clause, exec := taken, m := taken, rp := none, status := .running, since := 0, woken := false }

/-- A per-lane branch taken in the active lanes that `on` selects: it falls through, goes to its target, splits (R193), taking an entry of its
partition's pool where one of the 64 is free (R194), or traps without a reconvergence point (R264). -/
def GivesBranch (rap : RapUse) (form : BitVec 16 → BitVec 4 → BitVec 4 → Instr) (on : Warp → BitVec 4 → Fin 64 → Bool) : Prop :=
  ∀ (s : State) (o : BitVec 16) (w p : BitVec 4) (taken others : Mask) (target : VA), Passes s rap [] → s.w.rap = false →
    (∀ l : Fin 64, (active s.w).getLsbD l = true → (predLane s.w p l).poison = false) →
    taken = active s.w &&& laneMask (on s.w p) → others = s.w.exec &&& ~~~taken → target = branchTarget s.w.pc o w →
    (taken = 0#64 → exec (form o w p) s = .next (advance s)) ∧
    (taken ≠ 0#64 → others = 0#64 → exec (form o w p) s = .next { s with w := jumpTo s.w target }) ∧
    (∀ r, taken ≠ 0#64 → others ≠ 0#64 → s.w.rp = some r → s.w.stack.length ≤ 254 →
      exec (form o w p) s = .next (advance { s with w := { s.w with
        stack := { kind := .path, rpc := r, pc := target, mask := taken, m := s.w.m, running := false,
                   pooled := poolHeld s s.w.core s.w.part < 64,
                   other := if poolHeld s s.w.core s.w.part < 64 then some (deferred s.w target taken) else none } ::
          { kind := .join, rpc := r, pc := r, mask := s.w.exec, m := s.w.m, running := false, pooled := false, other := none } :: s.w.stack
        exec := others, m := others, rp := none } })) ∧
    (taken ≠ 0#64 → others ≠ 0#64 → s.w.rp = none →
      exec (form o w p) s = .next (takeTrap s { code := cIllegalInstruction, detail := 0x20#8 }))

/-- The scalar pair at `a` holds, unpoisoned, the word-aligned VA `t` in its bits [79:0] (R266). -/
def PairHolds (w : Warp) (a : Byte) (t : VA) : Prop :=
  (w.s[Fin.ofNat 64 a.toNat]).poison = false ∧ (w.s[Fin.ofNat 64 (a.toNat + 1)]).poison = false ∧
    t = ((w.s[Fin.ofNat 64 (a.toNat + 1)]).val ++ (w.s[Fin.ofNat 64 a.toNat]).val).setWidth 80 ∧ t.extractLsb' 0 2 = 0#2

/-- The warp after a call of `t` (R266). -/
def calls (w : Warp) (t : VA) : Warp :=
  jumpTo { w with
    stack := { kind := .call, rpc := (succOf w).1, pc := (succOf w).1, mask := w.exec, m := w.m, running := false, pooled := false, other := none } :: w.stack
    exec := active w, m := active w, lr := (succOf w).1.setWidth 64, lrhi := (succOf w).1.extractLsb' 64 16 } t

/-- The warp with lanes exited: gone from EXEC, the current mask and every stack entry (R193, R269). -/
def leaves (w : Warp) (x : Mask) : Warp :=
  { w with exec := w.exec &&& ~~~x, m := w.m &&& ~~~x, gone := w.gone ||| x
           stack := w.stack.map fun e =>
             { e with mask := e.mask &&& ~~~x, other := e.other.map fun c => { c with exec := c.exec &&& ~~~x, m := c.m &&& ~~~x } } }

/-! ### Memory forms (R295 to R335) -/

/-- No lane of a mask reads a poisoned source. -/
def Clean (m : Mask) (x : Src) : Prop := ∀ l : Fin 64, m.getLsbD l = true → (x l).poison = false

/-- The warp's store queue with an entry of this instruction last, counted by the STF flag, the instruction complete (R120, R192). -/
def queued (s : State) (kind : StoreKind) (lanes : List LaneStore) (h : BitVec 4) (rel : Option (BitVec 3)) : State :=
  let sc := lanes.any fun l => !l.place.stash && l.place.attr = aSc
  let e : StoreEntry := { kind := kind, lanes := lanes, flag := stFlag s.w, pc := s.w.pc, hreg := h, sc := sc, rel := rel,
                          since := s.w.cyc.toNat, active := active s.w }
  advance { s with w := flagInc { s.w with stores := s.w.stores ++ [e] } (stFlag s.w) }

/-- Two warps agree on every register (a handle's cached translation apart, R38), special register, accumulator and exception record,
except those of the path of control. -/
def SameRegisters (w u : Warp) : Prop :=
  u.v = w.v ∧ u.p = w.p ∧ u.s = w.s ∧ (∀ n : Fin 16, (u.h[n]).entry = (w.h[n]).entry ∧ (u.h[n]).bound = (w.h[n]).bound) ∧ u.acc = w.acc ∧
  u.rowState = w.rowState ∧ u.mode = w.mode ∧ u.lr = w.lr ∧ u.lrhi = w.lrhi ∧ u.replay = w.replay ∧ u.rowprog = w.rowprog ∧
  u.accPend = w.accPend ∧ u.zerocnt = w.zerocnt ∧ u.porig = w.porig ∧ u.qsub = w.qsub ∧ u.cycdl = w.cycdl ∧ u.walldl = w.walldl ∧
  u.faultSlot = w.faultSlot ∧ u.claimed = w.claimed

/-- The atomic of operation `op` completes: its lanes are planned in ascending order and performed at once where no earlier access holds them,
else kept as a pending load (R121, R318 to R321); with no lane active it only moves on. -/
def GivesAtomic (op : BitVec 3) (form : Byte → Byte → BitVec 4 → BitVec 1 → BitVec 2 → Instr) : Prop :=
  ∀ (s s₁ : State) (d i : Byte) (h : BitVec 4) (w : BitVec 1) (r : BitVec 2) (ix : Src),
    Passes s .no [atomOpd op (w = 1#1) d, .vsrc i false] h → atomType op (w = 1#1) (modeEt s.w) = true →
    readV s false i = .ok (s₁, ix) →
    (active s.w = 0#64 → exec (form d i h w r) s = .next (popQueues [atomOpd op (w = 1#1) d, .vsrc i false] (advance s₁))) ∧
    (∀ (t : State) (y : Src) (js : List LaneJob), active s.w ≠ 0#64 →
      y = (if op = 7#3 then vecSrc s.w (w = 1#1) (d.toNat + if w = 1#1 then 2 else 1) else fun _ => Scalar.zero) →
      Clean (active s.w) ix → Clean (active s.w) (vecSrc s.w (w = 1#1) d.toNat) → Clean (active s.w) y →
      loadReady s₁ = .ok () → requestsFree s₁ (laneList (active s.w)).length = .ok () →
      atomPlan h op (if w = 1#1 then 8 else 4) ((laneList (active s.w)).map fun l =>
        (l.val, atomOffset (w = 1#1) (ix l).val, (vecSrc s.w (w = 1#1) d.toNat l).val, (y l).val)) s₁ = .ok (t, js) →
      exec (form d i h w r) s = .next (popQueues [atomOpd op (w = 1#1) d, .vsrc i false]
        (issueAtomic t (.vec d.toNat (if w = 1#1 then 8 else 4) false) (pairRegs d (w = 1#1)) js (r.getLsbD 0)
          (if r.getLsbD 1 then some (scopeIn t.b (modeDs t.w)) else none) h)))

/-- The store queue, and the core's requests, have room for an entry of these lanes (R120, R6). -/
def QueueRoom (s : State) (ls : List LaneStore) : Prop := s.w.stores.length < 256 ∧ requestsFree s ls.length = .ok ()

/-- The reduction of operation `op` joins the store queue and completes (R318, R320 to R322); with no lane active it only moves on. -/
def GivesReduction (op : BitVec 3) (form : Byte → Byte → BitVec 4 → BitVec 1 → BitVec 2 → Instr) : Prop :=
  ∀ (s s₁ : State) (d i : Byte) (h : BitVec 4) (w : BitVec 1) (r : BitVec 2) (ix : Src),
    Passes s .no [vdst d (w = 1#1), .vsrc i false] h → atomType op (w = 1#1) (modeEt s.w) = true → readV s false i = .ok (s₁, ix) →
    handleFault (handleAt s.w h) true true = none →
    (active s.w = 0#64 → exec (form d i h w r) s = .next (popQueues [vdst d (w = 1#1), .vsrc i false] (advance s₁))) ∧
    (∀ (t : State) (ls : List LaneStore), active s.w ≠ 0#64 →
      Clean (active s.w) ix → Clean (active s.w) (vecSrc s.w (w = 1#1) d.toNat) → memReady s₁ = .ok () →
      resolveStores h .reduce (if w = 1#1 then 8 else 4) ((laneList (active s.w)).map fun l =>
        ⟨l.val, atomOffset (w = 1#1) (ix l).val, (vecSrc s.w (w = 1#1) d.toNat l).val⟩) s₁ = .ok (t, ls, []) →
      (∀ q ∈ ls, atomPage q.place = none) → QueueRoom t ls →
      exec (form d i h w r) s = .next (popQueues [vdst d (w = 1#1), .vsrc i false]
        (queued t (.red op (w = 1#1) (t.w.mode.extractLsb' 5 4)) ls h (if r.getLsbD 1 then some (scopeIn t.b (modeDs t.w)) else none))))

/-- The remote form of operation `op` sends one access for each distinct peer word and completes (R329, R330, R332); with no
lane active it only moves on. -/
def GivesRemote (op : BitVec 3) (form : Byte → Byte → Byte → BitVec 2 → Instr) : Prop :=
  ∀ (s s₁ s₂ : State) (d o p : Byte) (h : BitVec 2) (off peer : Src) (ls : List RLane),
    Passes s .no [if remoteAtomic op then .vreg d 1 1 else vdst d (wideEt s), .vsrc o false, .vsrc p false] (h.setWidth 4) →
    readV s false o = .ok (s₁, off) → readV s₁ false p = .ok (s₂, peer) → Clean (active s.w) off → Clean (active s.w) peer →
    ls = (laneList (active s.w)).map (fun l =>
      ⟨l, (peer l).val.setWidth 32, (off l).val.setWidth 32, remoteData s.w op d.toNat ((peer l).val.setWidth 32) l⟩) →
    (∀ x ∈ ls, ∀ y ∈ x.data, y.poison = false) → remoteRefused s₂ op (handleAt s.w (h.setWidth 4)) = none →
    (active s.w = 0#64 → exec (form d o p h) s =
      .next (popQueues [if remoteAtomic op then .vreg d 1 1 else vdst d (wideEt s), .vsrc o false, .vsrc p false] (advance s₂))) ∧
    (active s.w ≠ 0#64 →
    (∀ x ∈ ls, peerBad s₂.b op (hSpace (handleAt s.w (h.setWidth 4)).entry = 3) x.peer = false ∧
      (remoteAtomic op = true → atomType (peerAop x.peer) (peerW64 x.peer) (modeEt s.w) = true) ∧
      (remoteOpd s.w op d x.peer).bad s.w = none ∧ (remoteOpd s.w op d x.peer).pending s₂ = false ∧
      x.off.toNat + remoteSize s.w op x.peer ≤ 2 ^ 32) →
    memReady s₂ = .ok () → requestsFree s₂ ls.length = .ok () → s.w.remotes.length < 256 →
    exec (form d o p h) s = .next (popQueues [if remoteAtomic op then .vreg d 1 1 else vdst d (wideEt s), .vsrc o false, .vsrc p false]
      (advance (sendGroups s₂ op (h.setWidth 4) d ls))))

/-! ### Matrix and engine forms (R338 to R372) -/

/-- The warp of a name is in focus; on its core too. -/
def AtWarp (s : State) (wid : Nat) : Prop := s.w.wid = wid ∧ s.w.status ≠ .vacant
def AtCore (s : State) (wid : Nat) : Prop := AtWarp s wid ∧ s.x.resident = true

/-- The checks of R341 pass, and the request has room in the scoreboard. -/
def MatrixReady (s : State) (form c : BitVec 2) (a b : BitVec 4) (sa sb : BitVec 6) (z : BitVec 1) : Prop :=
  let r := fun i => (s.w.s[Fin.ofNat 64 i]).val
  s.w.matReq = none ∧ s.w.mat = none ∧ matPoison s.w form sa.toNat sb.toNat = none ∧
    matFault s.w c.toFin a b (z = 1#1) (coordsOf (r sa.toNat) (r (sa.toNat + 1))) (coordsOf (r sb.toNat) (r (sb.toNat + 1))) = none ∧
    boardFull s s.w.core = false ∧ xpReady s = .ok ()

/-- A matrix request that waits to be accepted (R338), counted by the STF flag; a gated engine has requested its start (R226). -/
def matrixIssued (s : State) (p : Park) (q : MatReq) : State :=
  let t := wakeEngine { s with hub := { s.hub with nextCmd := s.hub.nextCmd + 1 } }
  { t with w := flagInc { waiting t.w p with matReq := some q } q.flag, turn := 0 }

/-- The engine function issues its command and completes (R360, R363); `reply` reads the R bit where the word has one. -/
def IssuesCommand (f : BitVec 7) (reply : BitVec 1 → Bool) (form : BitVec 1 → BitVec 6 → BitVec 6 → BitVec 6 → Instr) : Prop :=
  ∀ (s : State) (r : BitVec 1) (d a b : BitVec 6) (x y z : DWord), Passes s .no (copFields f (reply r) d a b) →
    copOperands f (reply r) d a b s.w = .ok (x, y, z) → copRefs s.w (refWords f x y z) = .ok () →
    (active s.w = 0#64 → exec (form r d a b) s = .next (advance s)) ∧
    (active s.w ≠ 0#64 → boardFull s s.w.core = false → ∀ (t : State) (c : Cmd),
      t = { s with hub := { s.hub with nextCmd := s.hub.nextCmd + 1 } } → c = newCmd t s.hub.nextCmd f (reply r) d x y z →
      exec (form r d a b) s = .next (startCmds (advance { t with cmds := s.cmds ++ [c], w := flagInc s.w c.flag })))

/-! ### Deliveries -/

/-- The handler has been entered from `s` with a lane mask: the trap entry saves EXEC and the place to resume, and the path of control,
the fault slot, the late-fault queue and the deadlines apart nothing of the warp has changed (R383). -/
def entered (s t : State) (mask : Mask) : Prop :=
  t.w.stack = { kind := .trap, pc := s.w.pc, mask := s.w.exec, rpc := s.w.rp.getD (clauseVa s.w.pc), m := s.w.m, running := false, pooled := false, other := none } :: s.w.stack ∧
    t.w.trapmask = mask ∧ t.w.pc = s.x.trapva ∧ t.w.enter = true ∧ t.w.status = .running ∧ t.w.exec = s.w.exec ∧ t.w.mode = s.w.mode ∧
    t.w.v = s.w.v ∧ t.w.p = s.w.p ∧ t.w.s = s.w.s ∧ t.w.h = s.w.h ∧ t.w.flags = s.w.flags ∧ t.w.acc = s.w.acc ∧ t.w.rowState = s.w.rowState

/-- The scalar forms of two sources (R274). -/
def scalarTwoForms : List (Byte → Byte → Byte → Instr) :=
  [.sadd, .ssub, .smul, .smulh, .sand, .sor, .sxor, .sandn, .sshl, .sshr, .sasr, .srot, .seq, .slt, .sle, .sne, .smin, .smax,
   .sdiv, .srem]
/-- The vector forms of two and three sources (R277, R279, R280). -/
def vectorForms : List (Byte → Byte → Byte → Instr) :=
  [.vadd, .vsub, .vmul, .vmulh, .vand, .vor, .vxor, .vandn, .vshl, .vshr, .vasr, .vrot, .vmin, .vmax, .vabsd, .vfadd, .vfsub,
   .vfmul, .vfmin, .vfmax, .vmadi, .vfmad, .vfmac, .vfnmac]

/-- A byte that an outstanding partial reduction covers: a read of its line recalls the partial (R164). -/
def inPartial (m : Mem) (pa : Nat) : Prop := ∃ u ∈ m.ucopies, ∃ p ∈ u.parts, p.1 ≤ pa ∧ pa < p.1 + 8

/-- With canonical memory, every byte is as before, partial reductions recalled by a read apart, but that a translation that the caches did not
hold may set AC and D, bits 7 and 6 of byte 11 of a page-table entry (R56): an entry that is cached, or one that a walk finds, at a multiple of
16. Where the frame of the entry has another key than 0, under which tables are written (R46), its line may read otherwise. -/
def SameBytes (s t : State) : Prop :=
  Memory.wf s.m = true → ∀ pa, ¬inPartial s.m pa →
    (t.m.tlb = s.m.tlb → t.byteAt pa = s.byteAt pa) ∧
    (s.m.origins = [] → (frameRec s.m pa).key = 0#7 →
      (t.byteAt pa).extractLsb' 0 6 = (s.byteAt pa).extractLsb' 0 6 ∧
      (pa % 16 ≠ 11 → (∀ e ∈ s.m.tlb, pa ≠ e.pte + 11) → t.byteAt pa = s.byteAt pa))

/-- Nothing of the warp's registers has changed but the active lanes of a predicate, and no byte of memory. -/
def OnlyPredicate (s t : State) (d : BitVec 4) : Prop :=
  SameRegisters s.w { t.w with p := s.w.p } ∧ t.w.flags = s.w.flags ∧ (∀ n : Fin 16, n.val ≠ d.toNat → t.w.p[n] = s.w.p[n]) ∧
    (∀ (n : Fin 16) (l : Fin 64), (active s.w).getLsbD l = false → (t.w.p[n])[l] = (s.w.p[n])[l]) ∧ SameBytes s t

end Sys2Proof.Machine
end

