-- ==== Sys2Proof/Certificates/Slice0/Obligations.lean ====
section
/-!
DEFINITION. The statements for the provers. Each docstring names the rules that the statement formalises; the vocabulary stands in
Safety.lean.
-/
open Sys2Proof Sys2Proof.Machine

/-- R274, R275: each scalar form of two sources completes with the result of its table entry. -/
def Obligations.ScalarResult : Prop :=
  GivesScalarTwo .sadd (fun w x y => scalarResult w (scalarInt w x + scalarInt w y)) ∧
  GivesScalarTwo .ssub (fun w x y => scalarResult w (scalarInt w x - scalarInt w y)) ∧
  GivesScalarTwo .smul (fun w x y => scalarResult w (scalarInt w x * scalarInt w y)) ∧
  GivesScalarTwo .smulh (fun w x y => BitVec.ofInt 64 (scalarInt w x * scalarInt w y / 2 ^ 64)) ∧
  GivesScalarTwo .sand (fun _ x y => x &&& y) ∧
  GivesScalarTwo .sor (fun _ x y => x ||| y) ∧
  GivesScalarTwo .sxor (fun _ x y => x ^^^ y) ∧
  GivesScalarTwo .sandn (fun _ x y => x &&& ~~~y) ∧
  GivesScalarTwo .sshl (fun _ x y => x <<< (y.toNat % 64)) ∧
  GivesScalarTwo .sshr (fun _ x y => x >>> (y.toNat % 64)) ∧
  GivesScalarTwo .sasr (fun _ x y => x.sshiftRight (y.toNat % 64)) ∧
  GivesScalarTwo .srot (fun _ x y => x.rotateLeft (y.toNat % 64)) ∧
  GivesScalarTwo .seq (fun _ x y => if x = y then 1#64 else 0#64) ∧
  GivesScalarTwo .slt (fun w x y => if scalarInt w x < scalarInt w y then 1#64 else 0#64) ∧
  GivesScalarTwo .sle (fun w x y => if scalarInt w x ≤ scalarInt w y then 1#64 else 0#64) ∧
  GivesScalarTwo .sne (fun _ x y => if x = y then 0#64 else 1#64) ∧
  GivesScalarTwo .smin (fun w x y => BitVec.ofInt 64 (min (scalarInt w x) (scalarInt w y))) ∧
  GivesScalarTwo .smax (fun w x y => BitVec.ofInt 64 (max (scalarInt w x) (scalarInt w y))) ∧
  GivesScalarTwo .sdiv (fun w x y =>
    if y = 0#64 then 0xFFFFFFFFFFFFFFFF#64
    else if scalarSigned w && x = 0x8000000000000000#64 && y = 0xFFFFFFFFFFFFFFFF#64 then
      (if modeSat w then 0x7FFFFFFFFFFFFFFF#64 else 0x8000000000000000#64)
    else BitVec.ofInt 64 ((scalarInt w x).tdiv (scalarInt w y))) ∧
  GivesScalarTwo .srem (fun w x y =>
    if y = 0#64 then x else BitVec.ofInt 64 (scalarInt w x - (scalarInt w x).tdiv (scalarInt w y) * scalarInt w y)) ∧
  GivesScalarOne .smov (fun _ x => x) ∧
  GivesScalarOne .snot (fun _ x => ~~~x) ∧
  GivesScalarOne .sneg (fun w x => scalarResult w (0 - scalarInt w x)) ∧
  GivesScalarOne .sclz (fun _ x => BitVec.ofNat 64 (clzNat 64 x.toNat)) ∧
  GivesScalarOne .spopc (fun _ x => BitVec.ofNat 64 (popNat 64 x.toNat)) ∧
  GivesScalarOne .sbrev (fun _ x => BitVec.ofNat 64 (revNat 64 x.toNat)) ∧
  (∀ (s : State) (d : Byte) (i : BitVec 20), Passes s .yes [.sdst d] →
    exec (.smovi d i) s = .next (if active s.w = 0#64 then advance s else s.putScalar d ⟨immediateValue (modeEt s.w) i, false⟩))

/-- R277, R279: each vector form of two sources completes with the result of its table entry. -/
def Obligations.VectorResult : Prop :=
  GivesVectorTwo Elem.isInt .vadd (fun w x y => satLane w (intOf w x + intOf w y)) ∧
  GivesVectorTwo Elem.isInt .vsub (fun w x y => satLane w (intOf w x - intOf w y)) ∧
  GivesVectorTwo Elem.isInt .vmul (fun w x y => satLane w (intOf w x * intOf w y)) ∧
  GivesVectorTwo Elem.isInt .vmulh (fun w x y => wrapLane (modeEt w) (intOf w x * intOf w y / (2 ^ widthOf w : Nat))) ∧
  GivesVectorTwo anyElem .vand (fun w x y => bitLane w (lowOf w x &&& lowOf w y)) ∧
  GivesVectorTwo anyElem .vor (fun w x y => bitLane w (lowOf w x ||| lowOf w y)) ∧
  GivesVectorTwo anyElem .vxor (fun w x y => bitLane w (lowOf w x ^^^ lowOf w y)) ∧
  GivesVectorTwo anyElem .vandn (fun w x y => bitLane w (lowOf w x &&& (2 ^ widthOf w - 1 - lowOf w y))) ∧
  GivesVectorTwo anyElem .vshl (fun w x y => bitLane w (lowOf w x * 2 ^ (lowOf w y % widthOf w))) ∧
  GivesVectorTwo anyElem .vshr (fun w x y => bitLane w (lowOf w x / 2 ^ (lowOf w y % widthOf w))) ∧
  GivesVectorTwo anyElem .vasr (fun w x y =>
    bitLane w (wrapInt (widthOf w) (signedNat (widthOf w) (lowOf w x) / (2 ^ (lowOf w y % widthOf w) : Nat)))) ∧
  GivesVectorTwo anyElem .vrot (fun w x y =>
    bitLane w (lowOf w x * 2 ^ (lowOf w y % widthOf w) + lowOf w x / 2 ^ (widthOf w - lowOf w y % widthOf w))) ∧
  GivesVectorTwo Elem.isInt .vmin (fun w x y => wrapLane (modeEt w) (min (intOf w x) (intOf w y))) ∧
  GivesVectorTwo Elem.isInt .vmax (fun w x y => wrapLane (modeEt w) (max (intOf w x) (intOf w y))) ∧
  GivesVectorTwo Elem.isInt .vabsd (fun w x y => BitVec.ofNat 64 (intOf w x - intOf w y).natAbs) ∧
  GivesVectorTwo Elem.isFloat .vfadd (fun w x y => floatOut w (floatRound w ((floatIn w x).add (modeRm w) (floatIn w y)))) ∧
  GivesVectorTwo Elem.isFloat .vfsub (fun w x y => floatOut w (floatRound w ((floatIn w x).add (modeRm w) (floatIn w y).neg))) ∧
  GivesVectorTwo Elem.isFloat .vfmul (fun w x y => floatOut w (floatRound w ((floatIn w x).mul (floatIn w y)))) ∧
  GivesVectorTwo Elem.isFloat .vfmin (fun w x y => floatOut w ((floatIn w x).min (floatIn w y))) ∧
  GivesVectorTwo Elem.isFloat .vfmax (fun w x y => floatOut w ((floatIn w x).max (floatIn w y))) ∧
  GivesVectorThree Elem.isInt .vmadi (fun w x y z => satLane w (intOf w z + intOf w x * intOf w y)) ∧
  GivesVectorThree Elem.isFloat .vfmad (fun w x y z =>
    floatOut w (floatRound w ((floatRound w ((floatIn w x).mul (floatIn w y))).add (modeRm w) (floatIn w z)))) ∧
  GivesVectorThree Elem.isFloat .vfmac (fun w x y z =>
    floatOut w (floatRound w (((floatIn w x).mul (floatIn w y)).add (modeRm w) (floatIn w z)))) ∧
  GivesVectorThree Elem.isFloat .vfnmac (fun w x y z =>
    floatOut w (floatRound w (((floatIn w x).mul (floatIn w y)).neg.add (modeRm w) (floatIn w z))))

/-- R278, R281, R238: the forms of one source, and movi. -/
def Obligations.VectorOneSourceResult : Prop :=
  GivesVectorOne anyElem .vmov (fun w x => bitLane w (lowOf w x)) ∧
  GivesVectorOne anyElem .vnot (fun w x => bitLane w (2 ^ widthOf w - 1 - lowOf w x)) ∧
  GivesVectorOne Elem.isInt .vneg (fun w x => satLane w (0 - intOf w x)) ∧
  GivesVectorOne Elem.isInt .vabs (fun w x => satLane w (intOf w x).natAbs) ∧
  GivesVectorOne anyElem .vclz (fun w x => bitLane w (clzNat (widthOf w) (lowOf w x))) ∧
  GivesVectorOne anyElem .vpopc (fun w x => bitLane w (popNat (widthOf w) (lowOf w x))) ∧
  GivesVectorOne anyElem .vbrev (fun w x => bitLane w (revNat (widthOf w) (lowOf w x))) ∧
  GivesVectorOne Elem.isFloat .vfneg (fun w x => BitVec.ofNat 64
    (if realPattern w x < signWeight w then realPattern w x + signWeight w else realPattern w x - signWeight w)) ∧
  GivesVectorOne Elem.isFloat .vfabs (fun w x => BitVec.ofNat 64
    (if realPattern w x < signWeight w then realPattern w x else realPattern w x - signWeight w)) ∧
  GivesVectorOne Elem.isFloat .vrcp (realOf fun t rm sat x => fdiv t rm sat (.fin false 1 0) x) ∧
  GivesVectorOne Elem.isFloat .vrsqrt (realOf frsqrt) ∧
  GivesVectorOne Elem.isFloat .vsqrt (realOf fsqrt) ∧
  GivesVectorOne notF64 .vexp2 (realOf fexp2) ∧
  GivesVectorOne notF64 .vlog2 (realOf flog2) ∧
  GivesVectorOne notF64 .vsin (realOf fsin) ∧
  GivesVectorOne notF64 .vcos (realOf fcos) ∧
  GivesVectorOne notF64 .vtanh (realOf ftanh) ∧
  (∀ (s : State) (d : Byte) (i : BitVec 20), Passes s .no [vdst d (wideEt s)] →
    exec (.movi d i) s = .next (s.putVector [vdst d (wideEt s)] (wideEt s) d fun _ =>
      ⟨if wideEt s then immediateValue (modeEt s.w) i else ((immediateValue (modeEt s.w) i).setWidth 32).setWidth 64, false⟩)) ∧
  (∀ (s s₁ : State) (d a : Byte) (t u : BitVec 4) (x : Src),
    Passes s .no [vdst d (Elem.ofCode t).isPair, .vsrc a (Elem.ofCode u).isPair] → readV s (Elem.ofCode u).isPair a = .ok (s₁, x) →
    exec (.vcvt d a t u) s = .next (s₁.putVector [vdst d (Elem.ofCode t).isPair, .vsrc a (Elem.ofCode u).isPair] (Elem.ofCode t).isPair d
      fun l => spread [x l] (convert (Elem.ofCode t) (Elem.ofCode u) (modeRm s.w) (modeSat s.w) (modeFtz s.w) (x l).val.toNat))) ∧
  (∀ (s s₁ : State) (d a : Byte) (x : Src), isCoded (modeEt s.w) = true →
    Passes s .no [vdst d false, .vsrc a false] → readV s false a = .ok (s₁, x) →
    exec (.vmxscale d a) s = .next (s₁.putVector [vdst d false, .vsrc a false] false d fun l =>
      spread ((activeHalf s.w l).map x)
        ((scaleOf (modeEt s.w) ((activeHalf s.w l).map fun k => Elem.f32.value (x k).val.toNat)).setWidth 64))) ∧
  (∀ (s s₁ s₂ : State) (d a b : Byte) (x y : Src), isCoded (modeEt s.w) = true →
    Passes s .no [vdst d false, .vsrc a false, .vsrc b false] → readV s false a = .ok (s₁, x) → readV s₁ false b = .ok (s₂, y) →
    exec (.vmxq d a b) s = .next (s₂.putVector [vdst d false, .vsrc a false, .vsrc b false] false d fun l =>
      spread [x l, y l] (BitVec.ofNat 64 (codeOf (modeEt s.w) ((y l).val.setWidth 8) (Elem.f32.value (x l).val.toNat)))) ∧
    exec (.vmxdq d a b) s = .next (s₂.putVector [vdst d false, .vsrc a false, .vsrc b false] false d fun l =>
      spread [x l, y l] (BitVec.ofNat 64 (Elem.f32.pattern
        ((codeValue (modeEt s.w) ((y l).val.setWidth 8) (x l).val.toNat).round .f32 .rne false)))))

/-- R288, R289: values that move between lanes. -/
def Obligations.LaneExchangeResult : Prop :=
  GivesShuffle .vshflIdx (fun _ n => n) ∧
  GivesShuffle .vshflUp (fun l n => if l < n then l else l - n) ∧
  GivesShuffle .vshflDown (fun l n => if 63 < l + n then l else l + n) ∧
  GivesShuffle .vshflXor (fun l n => l ^^^ n) ∧
  (∀ (s s₁ : State) (d a k : Byte) (x : Src), Passes s .no [vdst d (wideEt s), .vsrc a (wideEt s)] →
    readV s (wideEt s) a = .ok (s₁, x) →
    exec (.vbcast d a k) s = .next (s₁.putVector [vdst d (wideEt s), .vsrc a (wideEt s)] (wideEt s) d fun _ =>
      moved s.w (x (Fin.ofNat 64 k.toNat)))) ∧
  (∀ (s s₁ : State) (d a : Byte) (x : Scalar), Passes s .no [vdst d (wideEt s), .ssrc a] → readS s a = .ok (s₁, x) →
    exec (.vs2v d a) s = .next (s₁.putVector [vdst d (wideEt s), .ssrc a] (wideEt s) d fun _ => x)) ∧
  (∀ (s s₁ : State) (d a k : Byte) (x : Src), active s.w ≠ 0#64 → Passes s .no [.sdst d, .vsrc a (wideEt s)] →
    readV s (wideEt s) a = .ok (s₁, x) →
    exec (.v2s d a k) s = .next (popQueues [.sdst d, .vsrc a (wideEt s)] (s₁.putScalar d (moved s.w (x (Fin.ofNat 64 k.toNat)))))) ∧
  (∀ (s : State) (d a : BitVec 4), Passes s .no [.pdst d] → predPoison s.w (active s.w) a = none →
    exec (.voteAny d a) s = .next (s.putPred [.pdst d] d (active s.w) fun _ =>
      ⟨decide (∃ l : Fin 64, (active s.w).getLsbD l = true ∧ (predLane s.w a l).bit = true), false, 0#8⟩) ∧
    exec (.voteAll d a) s = .next (s.putPred [.pdst d] d (active s.w) fun _ =>
      ⟨decide (∀ l : Fin 64, (active s.w).getLsbD l = true → (predLane s.w a l).bit = true), false, 0#8⟩)) ∧
  (∀ (s : State) (d a : BitVec 4) (c : Byte), Passes s .no [.pdst d] → predPoison s.w (active s.w) a = some c →
    exec (.voteAny d a) s = .next (s.putPred [.pdst d] d (active s.w) fun _ => ⟨false, true, c⟩) ∧
    exec (.voteAll d a) s = .next (s.putPred [.pdst d] d (active s.w) fun _ => ⟨false, true, c⟩)) ∧
  (∀ (s : State) (d : Byte) (a : BitVec 4), active s.w ≠ 0#64 → Passes s .no [.sdst d] →
    exec (.voteBallot d a) s = .next (s.putScalar d (match predPoison s.w (active s.w) a with
      | some c => poisonScalar c
      | none => ⟨active s.w &&& laneMask fun l => (predLane s.w a l).bit, false⟩))) ∧
  (∀ (s s₁ : State) (d : BitVec 4) (a : Byte) (x : Src), Passes s .no [.pdst d, .vsrc a (wideEt s)] →
    readV s (wideEt s) a = .ok (s₁, x) →
    exec (.voteUni d a) s = .next (s₁.putPred [.pdst d, .vsrc a (wideEt s)] d (active s.w) fun _ =>
      match firstPoison ((laneList (active s.w)).map x) with
      | some c => ⟨false, true, c⟩
      | none => ⟨decide (∀ k l : Fin 64, (active s.w).getLsbD k = true → (active s.w).getLsbD l = true →
          lanePattern (modeEt s.w) (x k).val = lanePattern (modeEt s.w) (x l).val), false, 0#8⟩)) ∧
  (∀ (s s₁ : State) (d a k : Byte) (x : Src), active s.w = 0#64 → Passes s .no [.sdst d, .vsrc a (wideEt s)] →
    readV s (wideEt s) a = .ok (s₁, x) → exec (.v2s d a k) s = .next (popQueues [.sdst d, .vsrc a (wideEt s)] (advance s₁))) ∧
  (∀ (s : State) (d : Byte) (a : BitVec 4), active s.w = 0#64 → Passes s .no [.sdst d] → exec (.voteBallot d a) s = .next (advance s))

/-- R291, R292: scans and reductions over the active lanes. -/
def Obligations.ScanReduceResult : Prop :=
  GivesScan .vscanAdd .add ∧ GivesScan .vscanMin .min ∧ GivesScan .vscanMax .max ∧ GivesScan .vscanOr .or ∧
  GivesReduce .vreduceAdd .add ∧ GivesReduce .vreduceMin .min ∧ GivesReduce .vreduceMax .max ∧ GivesReduce .vreduceOr .or

/-- R271 to R273: masks, predicates and comparisons. -/
def Obligations.PredicateResult : Prop :=
  GivesPredTwo .pand (fun x y => x && y) ∧
  GivesPredTwo .por (fun x y => x || y) ∧
  GivesPredTwo .pxor (fun x y => x ^^ y) ∧
  GivesPredTwo .pandn (fun x y => x && !y) ∧
  GivesCompare .vcmpEq (fun x y => decide (x = y)) FVal.eqv ∧
  GivesCompare .vcmpLt (fun x y => decide (x < y)) FVal.lt ∧
  GivesCompare .vcmpLe (fun x y => decide (x ≤ y)) (fun x y => x.lt y || x.eqv y) ∧
  GivesCompare .vcmpNe (fun x y => decide (x ≠ y)) (fun x y => !x.eqv y) ∧
  (∀ (s s₁ : State) (d : BitVec 4) (a : Byte) (v : DWord), Passes s .no [.pdst d, .ssrc a] → readS s a = .ok (s₁, ⟨v, false⟩) →
    exec (.mset d a) s = .next (s₁.putPred [.pdst d, .ssrc a] d 0xFFFFFFFFFFFFFFFF#64 fun l => ⟨v.getLsbD l, false, 0#8⟩)) ∧
  (∀ (s s₁ : State) (a : Byte) (v : DWord), Passes s .no [.ssrc a] → readS s a = .ok (s₁, ⟨v, false⟩) →
    exec (.msetx a) s = .next (advance { s₁ with w := { s₁.w with exec := v &&& s.w.m } })) ∧
  (∀ (s : State) (d : Byte) (a : BitVec 4), Passes s .no [.sdst d] →
    exec (.mgetx d) s = .next (s.putScalar d ⟨s.w.exec, false⟩) ∧
    exec (.mget d a) s = .next (s.putScalar d (match predPoison s.w 0xFFFFFFFFFFFFFFFF#64 a with
      | some c => poisonScalar c
      | none => ⟨laneMask fun l => (predLane s.w a l).bit, false⟩)))

/-- R264, R193: the per-lane branches. -/
def Obligations.BranchResult : Prop :=
  GivesBranch .yes (fun o w _ => .br o w) (fun _ _ _ => true) ∧
  GivesBranch .no (fun o w p => .brP o w p) (fun w p l => (predLane w p l).bit) ∧
  GivesBranch .no (fun o w p => .brNp o w p) (fun w p l => !(predLane w p l).bit) ∧
  (∀ (s : State) (o : BitVec 16) (w : BitVec 4), Passes s .yes [] → s.w.rap = true →
    exec (.br o w) s = .next { s with w := jumpTo s.w (branchTarget s.w.pc o w) }) ∧
  (∀ (s : State) (o : BitVec 16) (w n : BitVec 4), Passes s .yes [.ssrc (n.setWidth 8)] → active s.w = 0#64 →
    exec (.brZ o w n) s = .next (advance s) ∧ exec (.brNz o w n) s = .next (advance s)) ∧
  (∀ (s : State) (o : BitVec 16) (w n : BitVec 4), Passes s .yes [.ssrc (n.setWidth 8)] → active s.w ≠ 0#64 →
    (s.w.s[Fin.ofNat 64 n.toNat]).poison = false →
    exec (.brZ o w n) s = .next (if (s.w.s[Fin.ofNat 64 n.toNat]).val = 0#64 then { s with w := jumpTo s.w (branchTarget s.w.pc o w) }
      else advance s) ∧
    exec (.brNz o w n) s = .next (if (s.w.s[Fin.ofNat 64 n.toNat]).val = 0#64 then advance s
      else { s with w := jumpTo s.w (branchTarget s.w.pc o w) }))

/-- R265 to R268: calls, returns, indirect jumps and the reconvergence point. -/
def Obligations.CallResult : Prop :=
  (∀ (s : State) (o : BitVec 16) (w : BitVec 4), Passes s .no [] → active s.w ≠ 0#64 → s.w.stack.length < 256 →
    exec (.call o w) s = .next { s with w := calls s.w (branchTarget s.w.pc o w) }) ∧
  (∀ (s : State) (o : BitVec 16) (w : BitVec 4), Passes s .no [] → active s.w = 0#64 → exec (.call o w) s = .next (advance s)) ∧
  (∀ (s : State) (a : Byte) (t : VA), Passes s .no [.sregs a 2] → active s.w ≠ 0#64 → s.w.stack.length < 256 → PairHolds s.w a t →
    exec (.calli a) s = .next { s with w := calls s.w t }) ∧
  (∀ (s : State) (a : Byte), Passes s .no [.sregs a 2] → active s.w = 0#64 → exec (.calli a) s = .next (advance s)) ∧
  (∀ (s : State) (e : StackEntry) (rest : List StackEntry), Passes s .no [] → s.w.stack = e :: rest → e.kind = .call →
    exec .ret s = .next { s with w := jumpTo { s.w with stack := rest, exec := e.mask, m := e.m &&& ~~~s.w.gone } (s.w.lrhi ++ s.w.lr) }) ∧
  (∀ (s : State) (a : Byte) (t : VA), Passes s .yes [.sregs a 2] → active s.w ≠ 0#64 → PairHolds s.w a t →
    exec (.jmpi a) s = .next { s with w := jumpTo s.w t }) ∧
  (∀ (s : State) (a : Byte), Passes s .yes [.sregs a 2] → active s.w = 0#64 → exec (.jmpi a) s = .next (advance s)) ∧
  (∀ (s : State) (a : Byte) (x y : DWord), active s.w ≠ 0#64 → s.w.s[Fin.ofNat 64 a.toNat] = ⟨x, false⟩ →
    s.w.s[Fin.ofNat 64 (a.toNat + 1)] = ⟨y, false⟩ → x.extractLsb' 0 2 ≠ 0#2 →
    (Passes s .yes [.sregs a 2] → exec (.jmpi a) s = .next (takeTrap s { code := cMisaligned, detail := 0x00#8 })) ∧
    (Passes s .no [.sregs a 2] → exec (.calli a) s = .next (takeTrap s { code := cMisaligned, detail := 0x00#8 }))) ∧
  (∀ (s : State) (o : BitVec 16) (w : BitVec 4), Passes s .no [] → active s.w ≠ 0#64 → s.w.stack.length = 256 →
    exec (.call o w) s = .next (takeTrap s { code := cStackOverflow, detail := 0x00#8 })) ∧
  (∀ (s : State) (o : BitVec 16) (w : BitVec 4), Passes s .no [] →
    exec (.rcv o w) s = .next (advance { s with w := { s.w with rp := some (branchTarget s.w.pc o w) } })) ∧
  (∀ (s : State), Passes s .no [] → (∀ e rest, s.w.stack = e :: rest → e.kind ≠ .call) →
    exec .ret s = .next (takeTrap s { code := cIllegalInstruction, detail := 0x21#8 }))

/-- R269: EXIT. -/
def Obligations.ExitResult : Prop :=
  (∀ s : State, Passes s .yes [] → s.w.rap = true → exec .exit s = .next { s with w := { s.w with status := .done } }) ∧
  (∀ s : State, Passes s .yes [] → s.w.rap = false → active s.w = 0#64 → exec .exit s = .next (advance s)) ∧
  (∀ s : State, Passes s .yes [] → s.w.rap = false → active s.w ≠ 0#64 → s.w.exec &&& ~~~active s.w ≠ 0#64 →
    s.w.gone ||| active s.w ≠ 0xFFFFFFFFFFFFFFFF#64 → exec .exit s = .next (advance { s with w := leaves s.w (active s.w) })) ∧
  (∀ s : State, Passes s .yes [] → s.w.rap = false → active s.w ≠ 0#64 → s.w.gone ||| active s.w = 0xFFFFFFFFFFFFFFFF#64 →
    ∃ t, exec .exit s = .next t ∧ t.w = { leaves s.w (active s.w) with
      status := .done, claimed := 0#29, late := [], exec := 0#64, matReq := none }) ∧
  (∀ (s : State) (u : Warp), Passes s .yes [] → s.w.rap = false → active s.w ≠ 0#64 → s.w.exec &&& ~~~active s.w = 0#64 →
    s.w.gone ||| active s.w ≠ 0xFFFFFFFFFFFFFFFF#64 →
    u = unwind (2 * s.w.stack.length + 1) true { leaves s.w (active s.w) with status := .running, woken := false } →
    u.exec ≠ 0#64 ∨ u.stack ≠ [] → exec .exit s = .next { s with w := u }) ∧
  (∀ s : State, exec .nop s = .next (advance s)) ∧
  (∀ s : State, Passes s .yes [] → exec .yield s = .next { s with w := { stepOver s.w with yields := true }, turn := 0 } ∧
    exec (.sleep 0#10) s = .next { s with w := { stepOver s.w with yields := true }, turn := 0 }) ∧
  (∀ (s : State) (n : BitVec 10), Passes s .yes [] → n ≠ 0#10 → exec (.sleep n) s = .next { s with
    w := { stepOver s.w with yields := true, status := .parked .sleep, since := s.w.cyc.toNat + 64 * n.toNat }, turn := 0 }) ∧
  (∀ (s : State) (o : BitVec 16) (w : BitVec 4), Passes s .yes [] → s.w.rap = false → s.w.pc = s.b.code + 4#80 →
    exec (.rapent o w) s = .next (advance s)) ∧
  (∀ (s : State) (o : BitVec 16) (w : BitVec 4), Passes s .yes [] → s.w.rap = true ∨ s.w.pc ≠ s.b.code + 4#80 →
    exec (.rapent o w) s = .next (takeTrap s { code := cIllegalInstruction, detail := 0x05#8 }))

/-- R383, R373, R380: SOFTWARE_TRAP taken. -/
def Obligations.TrapEntersHandler : Prop :=
  (∀ n : BitVec 10, encode (.trap n) = some (0x001C0000#32 + n.setWidth 32) ∧ decodeTableWord 32 (0x001C0000 + n.toNat) = some (.trap n)) ∧
  (∀ (s : State) (n : BitVec 10), Passes s .no [] → active s.w = 0#64 → exec (.trap n) s = .next (advance s)) ∧
  (∀ (s : State) (n : BitVec 10), Passes s .no [] → s.w.rap = false → active s.w ≠ 0#64 → s.x.trapva ≠ 0#80 →
    (∀ e ∈ s.w.stack, e.kind ≠ .trap) → s.w.stack.length < 256 →
    ∃ (t : State) (r : BitVec 512), exec (.trap n) s = .next t ∧
      t.w = { s.w with
        stack := { kind := .trap, pc := (succOf s.w).1, mask := s.w.exec, rpc := s.w.rp.getD (clauseVa (succOf s.w).1), m := s.w.m,
                   running := false, pooled := false, other := none } :: s.w.stack
        trapmask := active s.w, floor := BitVec.ofNat 9 (s.w.stack.length + 1), rp := none, rowResume := false, keys := [], keyPop := none
        m := s.w.exec
        pc := s.x.trapva, enter := true, status := .running, woken := false, faultSlot := r } ∧
      recCode r = cSoftwareTrap ∧ recDetail r = n.setWidth 8 ∧ r.extractLsb' 38 10 = n ∧ recMask r = active s.w ∧
      r.extractLsb' 304 80 = s.w.pc ∧ r.getLsbD 35 = true ∧ r.extractLsb' 448 64 = s.hub.jtail)

/-- R377 to R385, R390: precise faults. -/
def Obligations.PreciseFaultEntersHandler : Prop :=
  (∀ (s : State) (f : TrapInfo), f.next = false → s.w.rap = false → s.x.trapva ≠ 0#80 → (∀ e ∈ s.w.stack, e.kind ≠ .trap) → s.w.stack.length < 256 →
    ∃ r : BitVec 512, (takeTrap s f).w = { s.w with
        stack := { kind := .trap, pc := s.w.pc, mask := s.w.exec, rpc := s.w.rp.getD (clauseVa s.w.pc), m := s.w.m,
                   running := false, pooled := false, other := none } :: s.w.stack
        trapmask := f.mask.getD (active s.w), floor := BitVec.ofNat 9 (s.w.stack.length + 1), rp := none, rowResume := false, keys := []
        keyPop := none, m := s.w.exec, pc := s.x.trapva, enter := true, status := .running, woken := false, faultSlot := r } ∧
      recCode r = f.code ∧ recDetail r = f.detail ∧ recMask r = f.mask.getD (active s.w) ∧ r.getLsbD 35 = true) ∧
  (∀ (s : State) (f : TrapInfo), s.w.rap = true ∨ s.x.trapva = 0#80 → (∀ e ∈ s.w.stack, e.kind ≠ .trap) →
    (takeTrap s f).w.status = .halted ∧ (takeTrap s f).w.pc = s.w.pc ∧ (takeTrap s f).w.stack = s.w.stack) ∧
  (∀ (s : State) (f : TrapInfo), s.w.rap = false → s.x.trapva ≠ 0#80 → (∀ e ∈ s.w.stack, e.kind ≠ .trap) → s.w.stack.length = 256 →
    (takeTrap s f).w.status = .halted ∧ recCode (takeTrap s f).w.faultSlot = f.code ∧ (takeTrap s f).w.stack = s.w.stack) ∧
  (∀ (s : State) (f : TrapInfo), (∃ e ∈ s.w.stack, e.kind = .trap) →
    (takeTrap s f).w.status = .halted ∧ (takeTrap s f).w.faultSlot = s.w.faultSlot ∧ (takeTrap s f).w.stack = s.w.stack)

/-- R374, R386: the return from a trap. -/
def Obligations.TretResult : Prop :=
  (∀ (s : State) (above below : List StackEntry) (e : StackEntry), Passes s .no [] → s.w.stack = above ++ e :: below →
    (∀ a ∈ above, a.kind ≠ .trap) → e.kind = .trap → e.mask ≠ 0#64 → (∀ b ∈ below.head?, b.kind = .call ∨ b.kind = .trap ∨ e.pc ≠ b.rpc) →
    exec .tret s = .next { s with w := { s.w with
      stack := below, exec := e.mask, m := e.m &&& ~~~s.w.gone, pc := e.pc, enter := true, trapmask := 0#64
      floor := ((below.findIdx? fun b => b.kind = .trap).map fun i => BitVec.ofNat 9 (below.length - i)).getD 0#9
      rp := if e.rpc.extractLsb' 0 6 = 0#6 then none else some e.rpc
      rowResume := s.w.rowAt = some e.pc, status := .running, woken := false } }) ∧
  (∀ s : State, Passes s .no [] → (∀ e ∈ s.w.stack, e.kind ≠ .trap) →
    exec .tret s = .next (takeTrap s { code := cIllegalInstruction, detail := 0x22#8 }))

/-- R375, R189, R191: RDSR and the value of every special register. -/
def Obligations.RdsrResult : Prop :=
  (∀ (s : State) (d : Byte) (n : BitVec 10), n.toNat ≤ 25 → Passes s (if rapRegister n then .yes else .no) [.sdst d] →
    (n = 8#10 → s.w.mat = none) → exec (.rdsr d n) s = .next (s.putScalar d ⟨specialReg s n, false⟩)) ∧
  (∀ s : State, specialReg s 0#10 = s.w.exec ∧ specialReg s 1#10 = s.w.mode.setWidth 64 ∧ specialReg s 2#10 = s.w.lr ∧
    specialReg s 3#10 = s.w.lrhi.setWidth 64 ∧ specialReg s 4#10 = s.w.trapmask ∧ specialReg s 5#10 = s.w.replay ∧
    specialReg s 6#10 = (BitVec.ofBool s.x.cfg ++ s.w.accPend.extractLsb' 12 1 ++ 0#4 ++ s.w.accPend.extractLsb' 0 12).setWidth 64 ∧
    specialReg s 7#10 = s.w.rowprog ∧ specialReg s 8#10 = s.w.zerocnt ∧ specialReg s 9#10 = s.w.cyc) ∧
  (∀ s : State, (specialReg s 10#10).toNat = s.clk * 10 / 16 % 2 ^ 64 ∧ specialReg s 11#10 = s.w.stage.setWidth 64 ∧
    specialReg s 12#10 = (BitVec.ofBool s.w.twin ++ s.w.stage ++ 0#8 ++ s.w.widx).setWidth 64 ∧
    specialReg s 13#10 = (s.b.z ++ s.b.y ++ s.b.x).setWidth 64 ∧ specialReg s 14#10 = s.w.node ∧
    specialReg s 15#10 = (s.b.gcount ++ 0#8 ++ s.b.member).setWidth 64 ∧
    specialReg s 19#10 ++ specialReg s 18#10 ++ specialReg s 17#10 ++ specialReg s 16#10 = s.w.porig) ∧
  (∀ s : State, specialReg s 20#10 = (flagBits s.w).setWidth 64 ∧
    (s.w.stack.length ≤ 256 → specialReg s 21#10 = (s.w.floor ++ 0#7 ++ BitVec.ofNat 9 s.w.stack.length).setWidth 64) ∧
    specialReg s 22#10 = s.w.qsub.setWidth 64 ∧
    specialReg s 23#10 = (s.w.span ++ s.w.core ++ s.w.part ++ s.w.slot ++ 0#2).setWidth 64 ∧
    specialReg s 24#10 = s.w.cycdl ∧ specialReg s 25#10 = s.w.walldl)

/-- R375, R189: WRSR on every kind of special register. -/
def Obligations.WrsrResult : Prop :=
  (∀ (s s₁ : State) (a : Byte) (x : DWord), readS s a = .ok (s₁, ⟨x, false⟩) →
    (Passes s .no [.ssrc a] → exec (.wrsr a 0#10) s = .next (advance { s₁ with w := { s₁.w with exec := x &&& s.w.m } }) ∧
      exec (.wrsr a 5#10) s = .next (advance { s₁ with w := { s₁.w with replay := x } }) ∧
      (s.w.mat = none → exec (.wrsr a 8#10) s = .next (advance { s₁ with w := { s₁.w with zerocnt := x } }))) ∧
    (Passes s .yes [.ssrc a] → (x.toNat < 2 ^ 30 → (x.extractLsb' 14 3).toNat ≤ 4 →
        exec (.wrsr a 1#10) s = .next (advance { s₁ with w := { s₁.w with mode := x.setWidth 32 } })) ∧
      exec (.wrsr a 2#10) s = .next (advance { s₁ with w := { s₁.w with lr := x } }) ∧
      (x.toNat < 2 ^ 16 → exec (.wrsr a 3#10) s = .next (advance { s₁ with w := { s₁.w with lrhi := x.setWidth 16 } })) ∧
      (x = 0#64 → exec (.wrsr a 19#10) s = .next (advance { s₁ with w := { s₁.w with porig := 0#256 } })))) ∧
  (∀ (s s₁ : State) (a : Byte) (x : DWord), Passes s .no [.ssrc a] → readS s a = .ok (s₁, ⟨x, false⟩) → x.toNat < 2 ^ 8 →
    ∃ t, exec (.wrsr a 22#10) s = .next t ∧ t.w.qsub = x.setWidth 8 ∧ t.w.s = s₁.w.s ∧ t.w.v = s₁.w.v ∧ t.m = s₁.m ∧
      ∀ q : Fin 8, t.w.qpos[q] = if x.getLsbD q && s₁.w.qsub.getLsbD q then s₁.w.qpos[q]
        else s₁.b.queues[q].retired + s₁.b.queues[q].entries.length) ∧
  (∀ (s s₁ : State) (a : Byte) (x : DWord) (n : BitVec 10), Passes s (if rapRegister n then .yes else .no) [.ssrc a] →
    readS s a = .ok (s₁, ⟨x, false⟩) →
    n ∈ [4#10, 6#10, 7#10, 9#10, 10#10, 11#10, 12#10, 13#10, 14#10, 15#10, 20#10, 21#10, 23#10, 24#10, 25#10] →
    exec (.wrsr a n) s = .next (advance s₁)) ∧
  (∀ (s s₁ : State) (a : Byte) (x : DWord) (n : BitVec 10), Passes s (if rapRegister n then .yes else .no) [.ssrc a] →
    readS s a = .ok (s₁, ⟨x, false⟩) →
    ((n = 1#10 ∧ 2 ^ 30 ≤ x.toNat) ∨ (n = 3#10 ∧ 2 ^ 16 ≤ x.toNat) ∨ (n = 22#10 ∧ 2 ^ 8 ≤ x.toNat) →
      exec (.wrsr a n) s = .next (takeTrap s { code := cIllegalInstruction, detail := 0x02#8 })) ∧
    (n = 1#10 ∧ x.toNat < 2 ^ 30 ∧ 4 < (x.extractLsb' 14 3).toNat →
      exec (.wrsr a n) s = .next (takeTrap s { code := cIllegalInstruction, detail := 0x01#8 })) ∧
    (n = 16#10 ∨ n = 17#10 ∨ n = 18#10 ∨ (n = 19#10 ∧ x ≠ 0#64) →
      exec (.wrsr a n) s = .next (takeTrap s { code := cIllegalInstruction, detail := 0x24#8 }))) ∧
  (∀ (s s₁ : State) (a : Byte) (x : DWord), Passes s .no [.ssrc a] → readS s a = .ok (s₁, ⟨x, false⟩) →
    exec (.ttrap a) s = .next (advance { s₁ with w := { s₁.w with cycdl := x } }) ∧
    exec (.tdead a) s = .next (advance { s₁ with w := { s₁.w with walldl := x } }))

/-- R293: REORD. -/
def Obligations.ReordResult : Prop :=
  (∀ (s s₁ s₂ : State) (a b : Byte) (x : Src) (y : DWord), arrived s.w = false → Passes s .no [.vsrc a false, .ssrc b] →
    s.b.accord = false → s.w.stack = [] → readS s b = .ok (s₁, ⟨y, false⟩) → readV s₁ false a = .ok (s₂, x) →
    (∀ l : Fin 64, (active s.w).getLsbD l = true → (x l).poison = false) → y.toNat < 2 ^ 29 → unclaimedLive s.w (y.setWidth 29) = none →
    (∀ r, r < 232 → (y.setWidth 29 : BitVec 29).getLsbD (r / 8) = true → vPending s.w r = false) →
    (y.setWidth 29 : BitVec 29) &&& s.w.away = 0#29 →
    exec (.reord a b) s = .next (if (participants (arrive s₂ a x (y.setWidth 29))).all arrived
      then completeReord (arrive s₂ a x (y.setWidth 29)) else arrive s₂ a x (y.setWidth 29))) ∧
  (∀ (s : State) (a b : Byte), arrived s.w = true → Passes s .no [.ssrc b] →
    exec (.reord a b) s = .next (if (participants s).all arrived then completeReord s
      else { s with w := waiting s.w .reord, turn := 0 })) ∧
  (∀ (s : State), participants s = [s.w] → (completeReord s).w = regroup [s.w] (sortedThreads [s.w]).toArray 0 s.w)

/-- R295 to R301: loads as they issue. -/
def Obligations.LoadResult : Prop :=
  (∀ (s s₁ : State) (d i : Byte) (h : BitVec 4) (w : BitVec 2) (g : BitVec 1) (k : BitVec 3) (x : Scalar),
    Passes s .no [vdst d (wideEt s), .ssrc i] h → readS s i = .ok (s₁, x) →
    (active s.w = 0#64 → exec (.ldv d i h w g k) s = .next (advance s₁)) ∧
    (∀ (t : State) (js : List LaneJob), active s.w ≠ 0#64 → readReady s₁ (laneList (active s.w)).length = .ok () →
      planLoad h (accessSize s.w) ((laneList (active s.w)).map fun l =>
        (l.val, if x.poison then .inl x.code else .inr (indexOffset w g k (l.val * accessSize s.w) x.val))) s₁ = .ok (t, js) →
      exec (.ldv d i h w g k) s = .next (pendLoad t (.vec d.toNat (accessSize t.w) (loadSigned t.w)) (pairRegs d (wideEt t)) js false))) ∧
  (∀ (s s₁ : State) (d i : Byte) (h : BitVec 4) (w : BitVec 2) (g : BitVec 1) (k : BitVec 3) (x : Src),
    Passes s .no [vdst d (wideEt s), .vsrc i (w = 3#2)] h → readV s (w = 3#2) i = .ok (s₁, x) →
    (active s.w = 0#64 →
      exec (.gather d i h w g k) s = .next (popQueues [vdst d (wideEt s), .vsrc i (w = 3#2)] (advance s₁)) ∧
      exec (.lda d i h w g k) s = .next (popQueues [vdst d (wideEt s), .vsrc i (w = 3#2)] (advance s₁))) ∧
    (∀ (t : State) (js : List LaneJob), active s.w ≠ 0#64 → readReady s₁ (laneList (active s.w)).length = .ok () →
      planLoad h (accessSize s.w) ((laneList (active s.w)).map fun l =>
        (l.val, if (x l).poison then .inl (x l).code else .inr (indexOffset w g k 0 (x l).val))) s₁ = .ok (t, js) →
      exec (.gather d i h w g k) s = .next (popQueues [vdst d (wideEt s), .vsrc i (w = 3#2)]
        (pendLoad t (.vec d.toNat (accessSize t.w) (loadSigned t.w)) (pairRegs d (wideEt t)) js false)) ∧
      exec (.lda d i h w g k) s = .next (popQueues [vdst d (wideEt s), .vsrc i (w = 3#2)]
        (pendLoad t (.vec d.toNat (accessSize t.w) (loadSigned t.w)) (pairRegs d (wideEt t)) js true)))) ∧
  (∀ (s s₁ : State) (d i : Byte) (w : BitVec 2) (g : BitVec 1) (k : BitVec 3) (x : Src),
    Passes s .no [vdst d (wideEt s), .vsrc i (w = 3#2)] → readV s (w = 3#2) i = .ok (s₁, x) →
    (active s.w = 0#64 → exec (.ldc d i w g k) s = .next (popQueues [vdst d (wideEt s), .vsrc i (w = 3#2)] (advance s₁))) ∧
    (∀ (t : State) (js : List LaneJob), active s.w ≠ 0#64 → readReady s₁ (laneList (active s.w)).length = .ok () →
      planLanes (planConst (accessSize s.w)) ((laneList (active s.w)).map fun l =>
        (l.val, if (x l).poison then .inl (x l).code else .inr (indexOffset w g k 0 (x l).val))) s₁ = .ok (t, js) →
      exec (.ldc d i w g k) s = .next (popQueues [vdst d (wideEt s), .vsrc i (w = 3#2)]
        (pendLoad t (.vec d.toNat (accessSize t.w) (loadSigned t.w)) (pairRegs d (wideEt t)) js false)))) ∧
  (∀ (s : State) (d i : Byte) (h : BitVec 4) (w : BitVec 2) (g : BitVec 1) (k : BitVec 3), Passes s .yes [.sdst d, .ssrc i] h →
    (active s.w = 0#64 → exec (.sld d i h w g k) s = .next (advance s)) ∧
    (∀ (s₁ t : State) (x : Scalar) (js : List LaneJob), readS s i = .ok (s₁, x) → active s.w ≠ 0#64 → readReady s₁ 1 = .ok () →
      planLoad h (accessSize s.w) [(0, if x.poison then .inl x.code else .inr (indexOffset w g k 0 x.val))] s₁ = .ok (t, js) →
      exec (.sld d i h w g k) s = .next (pendLoad t (.scalar d.toNat (accessSize t.w) (loadSigned t.w)) [] js false)))

/-- R297, R36: what one lane of a load reads. -/
def Obligations.LoadLaneReadsMemory : Prop :=
  (∀ (s t : State) (n : BitVec 4) (size : Nat) (off : Int) (p : Place), resolveLane s n .load off size = .ok t p →
    hSpace (handleAt s.w n).entry ≠ 1 → p.stash = false → p.attr = aSc → readCheck t.m p = none → homeStalls t.m p = false →
    (∀ i, i < size → forwardByte p i t.w.stores.reverse = .none) → awaitLine t t.w.core.toNat p false = .ok () →
    ∃ u : State, planLane n size s off = .ok (u, .value (BitVec.ofNat 64 (natOfBytes ((List.range size).map fun i => u.byteAt (p.pa + i))))) ∧
      u.m = recallLine t.m (lineOf p.pa) ∧ ((∀ c ∈ t.m.ucopies, c.line ≠ lineOf p.pa) → u.m = t.m)) ∧
  (∀ (s : State) (n : BitVec 4) (size : Nat) (off : Int) (c d : Byte) (v : VA), resolveLane s n .load off size = .fault c d v →
    planLane n size s off = .ok (s, .poison c d v true))

/-- R298 to R300: stores as they issue. -/
def Obligations.StoreResult : Prop :=
  (∀ (s s₁ : State) (d i : Byte) (h : BitVec 4) (w : BitVec 2) (g : BitVec 1) (k : BitVec 3) (x : Scalar),
    Passes s .no [vdst d (wideEt s), .ssrc i] h → readS s i = .ok (s₁, x) → handleFault (handleAt s.w h) true true = none →
    (active s.w = 0#64 → exec (.stv d i h w g k) s = .next (advance s₁)) ∧
    (∀ (t : State) (ls : List LaneStore), active s.w ≠ 0#64 → x.poison = false → Clean (active s.w) (vecSrc s.w (wideEt s) d.toNat) →
      memReady s₁ = .ok () →
      resolveStores h .store (accessSize s.w) ((laneList (active s.w)).map fun l =>
        ⟨l.val, indexOffset w g k (l.val * accessSize s.w) x.val, (vecSrc s.w (wideEt s) d.toNat l).val⟩) s₁ = .ok (t, ls, []) →
      QueueRoom t ls → exec (.stv d i h w g k) s = .next (queued t .store ls h none))) ∧
  (∀ (s s₁ : State) (d i : Byte) (h : BitVec 4) (w : BitVec 2) (g : BitVec 1) (k : BitVec 3) (x : Src),
    Passes s .no [vdst d (wideEt s), .vsrc i (w = 3#2)] h → readV s (w = 3#2) i = .ok (s₁, x) →
    handleFault (handleAt s.w h) true true = none →
    (active s.w = 0#64 →
      exec (.scatter d i h w g k) s = .next (popQueues [vdst d (wideEt s), .vsrc i (w = 3#2)] (advance s₁)) ∧
      exec (.stl d i h w g k) s = .next (popQueues [vdst d (wideEt s), .vsrc i (w = 3#2)] (advance s₁))) ∧
    (∀ (t : State) (ls : List LaneStore), active s.w ≠ 0#64 → Clean (active s.w) x → Clean (active s.w) (vecSrc s.w (wideEt s) d.toNat) →
      memReady s₁ = .ok () →
      resolveStores h .store (accessSize s.w) ((laneList (active s.w)).map fun l =>
        ⟨l.val, indexOffset w g k 0 (x l).val, (vecSrc s.w (wideEt s) d.toNat l).val⟩) s₁ = .ok (t, ls, []) → QueueRoom t ls →
      exec (.scatter d i h w g k) s = .next (popQueues [vdst d (wideEt s), .vsrc i (w = 3#2)] (queued t .store ls h none)) ∧
      exec (.stl d i h w g k) s = .next (popQueues [vdst d (wideEt s), .vsrc i (w = 3#2)] (queued t .store ls h (some (modeDs s.w)))))) ∧
  (∀ (s : State) (d i : Byte) (h : BitVec 4) (w : BitVec 2) (g : BitVec 1) (k : BitVec 3), Passes s .yes [.ssrc d, .ssrc i] h →
    handleFault (handleAt s.w h) true true = none →
    (active s.w = 0#64 → exec (.sst d i h w g k) s = .next (advance s)) ∧
    (∀ (s₁ s₂ t : State) (x y : DWord) (ls : List LaneStore), active s.w ≠ 0#64 → readS s i = .ok (s₁, ⟨x, false⟩) →
      readS s₁ d = .ok (s₂, ⟨y, false⟩) → memReady s₂ = .ok () →
      resolveStores h .store (accessSize s.w) [⟨0, indexOffset w g k 0 x, y⟩] s₂ = .ok (t, ls, []) → QueueRoom t ls →
      exec (.sst d i h w g k) s = .next (queued t .store ls h none)))

/-- R120, R298: the frame of the store forms at issue. -/
def Obligations.StoreTouchesNoMemory : Prop :=
  ∀ (s t : State) (d i : Byte) (h : BitVec 4) (w : BitVec 2) (g : BitVec 1) (k : BitVec 3) (f : Byte → Byte → BitVec 4 → BitVec 2 → BitVec 1 → BitVec 3 → Instr),
    f = .stv ∨ f = .scatter ∨ f = .stl ∨ f = .sst → exec (f d i h w g k) s = .next t → Quiet s t →
    SameRegisters s.w t.w ∧ (∀ n : Fin 12, stFlag s.w ≠ some n → t.w.flags[n] = s.w.flags[n]) ∧ SameBytes s t

/-- R302 to R306: tile loads and stores. -/
def Obligations.TileAccessResult : Prop :=
  (∀ (s : State) (d i : Byte) (h : BitVec 4) (sh : TileShape), Passes s .no [.vreg d 0 1, .sregs i 2] h → tileChecks s d h false = .ok sh →
    (∀ c : Byte, coordPair s.w i = .inl c → exec (.tld d i h) s = .next (if active s.w = 0#64 then advance s
      else pendLoad s (.tile d.toNat) ((List.range sh.regs).map (d.toNat + ·)) (poisonRange sh.regs c 0x00#8 0#80 false) false)) ∧
    (∀ (c : List Nat) (code detail : Byte), coordPair s.w i = .inr c → handleFault (handleAt s.w h) false false = some (code, detail) →
      exec (.tld d i h) s = .next (if active s.w = 0#64 then advance s
        else pendLoad s (.tile d.toNat) ((List.range sh.regs).map (d.toNat + ·)) (poisonRange sh.regs code detail 0#80 true) false)) ∧
    (∀ c : List Nat, coordPair s.w i = .inr c → handleFault (handleAt s.w h) false false = none → coordValid (handleAt s.w h).entry c = true →
      (active s.w = 0#64 → exec (.tld d i h) s = .next (advance s)) ∧
      (∀ (t : State) (vals : List Nat) (scales : List Byte), active s.w ≠ 0#64 → loadReady s = .ok () → requestsFree s (64 * sh.regs) = .ok () →
        tileElems (warpReader s h (handleAt s.w h)) (handleAt s.w h) c s = .ok (t, vals, scales) →
        exec (.tld d i h) s = .next (pendLoad t (.tile d.toNat) ((List.range sh.regs).map (d.toNat + ·))
          ((tileWords sh (handleAt s.w h).entry (tilePositions (handleAt s.w h).entry c) vals scales).zipIdx.map fun q =>
            ⟨q.2, .value (BitVec.ofNat 64 q.1)⟩) false)))) ∧
  (∀ (s : State) (d i : Byte) (h : BitVec 4) (sh : TileShape) (c : List Nat),
    Passes s .no [.vreg d 0 1, .sregs i 2] h → tileChecks s d h true = .ok sh → coordPair s.w i = .inr c →
    coordValid (handleAt s.w h).entry c = true →
    (active s.w = 0#64 → exec (.tst d i h) s = .next (advance s)) ∧
    (∀ (t : State) (ls : List LaneStore), active s.w ≠ 0#64 → rangePoison s.w d.toNat sh.regs = none → memReady s = .ok () →
      tileStores h (handleAt s.w h) sh c d.toNat s = .ok (t, ls) → QueueRoom t ls →
      exec (.tst d i h) s = .next (queued t .store ls h none)))

/-- R307 to R309: handles. -/
def Obligations.HandleResult : Prop :=
  (∀ (s s₁ : State) (n : BitVec 4) (a : Byte) (x : DWord), Passes s .yes [.ssrc a] →
    readS s a = .ok (s₁, ⟨x, false⟩) → x.toNat < 65536 →
    (active s.w = 0#64 → exec (.hbind n a) s = .next (advance s₁)) ∧
    (∀ (t : State) (b : Handle), active s.w ≠ 0#64 → bindEntry s₁ x.toNat = .ok (t, b) →
      exec (.hbind n a) s = .next (advance { t with w := { t.w with h := t.w.h.set n.toNat b } }))) ∧
  (∀ (s t : State) (n : BitVec 4) (a : Byte) (va region : Nat) (r : BitVec 256), Passes s .yes [.sregs a 2] →
    (s.w.s[Fin.ofNat 64 a.toNat]).poison = false → (s.w.s[Fin.ofNat 64 (a.toNat + 1)]).poison = false →
    ((s.w.s[Fin.ofNat 64 (a.toNat + 1)]).val ++ (s.w.s[Fin.ofNat 64 a.toNat]).val).toNat = va + 2 ^ 80 * region → va < 2 ^ 80 → region < 2 ^ 12 →
    readRegion s region = .ok (t, r) → regV r = true → regR r = true → regLo r ≤ va → va < regHi r →
    (active s.w = 0#64 → exec (.hset n a) s = .next (advance t)) ∧
    (active s.w ≠ 0#64 → exec (.hset n a) s = .next (advance
      (let q := setWindow t { bound := true, tbl := false, index := 0#16, win := 0#41, frame := 0#52,
                              entry := pointerEntry (modeEt s.w) region va (min (regHi r - va) (2 ^ 56 - 1)) (regW r), regionW := regW r, leaf := 0#128 }
       setHandle q.1 n q.2)))) ∧
  (∀ (s : State) (d : Byte) (n q : BitVec 4), Passes s .yes [.sdst d] → (s.w.h[n.toNat]).bound = true →
    (active s.w = 0#64 → exec (.hqry d n q) s = .next (advance s)) ∧
    (active s.w ≠ 0#64 → exec (.hqry d n q) s = .next (s.putScalar d ⟨handleQuery s.w.h[n.toNat] q, false⟩))) ∧
  (∀ h : Handle, (∀ q : BitVec 4, q.toNat < 8 → handleQuery h q = h.entry.extractLsb' (64 * q.toNat) 64) ∧
    (hShapeless h.entry = false → handleQuery h 8#4 =
      BitVec.ofNat 64 (orOne (hGrid h.entry 0) * orOne (hGrid h.entry 1) * orOne (hGrid h.entry 2) * orOne (hGrid h.entry 3))) ∧
    handleQuery h 9#4 = BitVec.ofNat 64 (hElems h.entry) ∧
    handleQuery h 10#4 = BitVec.ofNat 64 (if hAttar h.entry then 32 * rawUnits (hType h.entry) (hElems h.entry) else 0))

/-- R310 to R316: memory control. -/
def Obligations.MemoryControlResult : Prop :=
  (∀ (s : State) (d a : Byte) (h : BitVec 4), Passes s .yes [.ssrc d, .ssrc a] h → active s.w = 0#64 →
    exec (.pref d a h) s = .next (advance s)) ∧
  (∀ (s s₁ : State) (d a : Byte) (h : BitVec 4) (o n : Nat), Passes s .yes [.ssrc d, .ssrc a] h → active s.w ≠ 0#64 →
    memctlOperands s d a = .ok (s₁, o, n) →
    ((handleAt s.w h).bound = false → exec (.pref d a h) s = .next (advance s₁)) ∧
    ((handleAt s.w h).bound = true → hSpace (handleAt s.w h).entry = 0 ∨ hSpace (handleAt s.w h).entry = 2 →
      exec (.pref d a h) s = .next (advance ((lineVas (hBase (handleAt s.w h).entry + o) n).foldl (prefLine (handleAt s.w h).cached) s₁))) ∧
    ((handleAt s.w h).bound = true → hSpace (handleAt s.w h).entry = 1 → exec (.pref d a h) s = .next (advance
      (((List.range (stashRange s.b / 128)).filter fun l => rangesMeet (128 * l) 128 (hBase (handleAt s.w h).entry + o) n).foldl prefStash s₁)))) ∧
  (∀ (s s₁ : State) (d a : Byte) (h : BitVec 4) (o n va : Nat), Passes s .no [.ssrc d, .ssrc a] h →
    memctlOperands s d a = .ok (s₁, o, n) → rangeCheck s₁ h o n = .ok va →
    (n = 0 ∨ active s.w = 0#64 → ∀ f ∈ [Instr.flush, .inval, .pub], exec (f d a h) s = .next (advance s₁)) ∧
    (∀ (t : State) (ls : List LaneStore), n ≠ 0 → active s.w ≠ 0#64 → memReady s₁ = .ok () →
      (mappedLines (lineVas va n) s₁ = .ok (t, ls) → QueueRoom t (ls.filter fun l => l.place.attr = aIp) →
        exec (.flush d a h) s = .next (queued t .flush (ls.filter fun l => l.place.attr = aIp) h none) ∧
        exec (.inval d a h) s = .next (queued t .inval (ls.filter fun l => l.place.attr = aIp) h none)) ∧
      (publishLines h (lineVas va n) s₁ = .ok (t, ls) → QueueRoom t ls →
        exec (.pub d a h) s = .next (queued t .pub ls h (some 4#3))))) ∧
  (∀ (s s₁ : State) (d a : Byte) (h : BitVec 4) (o m : Nat), Passes s .no [.ssrc d, .ssrc a] h →
    memctlOperands s d a = .ok (s₁, o, m) → (handleAt s.w h).bound = true → hSpace (handleAt s.w h).entry = 0 →
    hAttar (handleAt s.w h).entry = false → smapFault s.b (handleAt s.w h) o (BitVec.ofNat 64 m) = none →
    (active s.w = 0#64 → exec (.smap d a h) s = .next (advance s₁)) ∧
    (active s.w ≠ 0#64 → awaitDrained s₁ 1#3 = .ok () → removalReady s₁ (Fin.ofNat 16 m) = .ok () →
      ∃ t u : State, t = removeMap s₁ (Fin.ofNat 16 m) ∧ exec (.smap d a h) s = .next (advance u) ∧
        u = { t with b := { clearStash t.b (smapLines (smapEntry (hBase (handleAt s.w h).entry + o) (BitVec.ofNat 64 m))) with
          smap := t.b.smap.set (Fin.ofNat 16 m) (smapEntry (hBase (handleAt s.w h).entry + o) (BitVec.ofNat 64 m)) } })) ∧
  (∀ (s s₁ : State) (a : Byte) (x : DWord), Passes s .no [.ssrc a] → readS s a = .ok (s₁, ⟨x, false⟩) → x.toNat < 16 →
    (active s.w = 0#64 → exec (.sunmap a) s = .next (advance s₁)) ∧
    (active s.w ≠ 0#64 → awaitDrained s₁ 1#3 = .ok () → removalReady s₁ (Fin.ofNat 16 x.toNat) = .ok () →
      exec (.sunmap a) s = .next (advance (removeMap s₁ (Fin.ofNat 16 x.toNat)))))

/-- R317, R123, R129: fences complete, and wait. -/
def Obligations.FenceResult : Prop :=
  (∀ s : State, s.w.stores = [] → exec .fenceWarp s = .next (advance s) ∧ (s.w.rap = true → exec .fenceXp s = .next (advance s))) ∧
  (∀ s : State, s.w.stores = [] → (∀ l ∈ s.w.loads, l.waits = false) →
    (forwardingTo s.m (spanCore s.b) = false → exec .fenceBlk s = .next (advance s)) ∧
    (forwardingTo s.m (fun _ => true) = false → exec .fenceDev s = .next (advance s) ∧
      (s.w.remotes = [] → exec .fenceGang s = .next (advance s) ∧ exec .fenceSys s = .next (advance s)) ∧
      (s.b.gcount = 0#9 → exec .fenceGang s = .next (advance s)))) ∧
  (∀ s : State, s.w.rap = false → forwardingTo s.m (fun c => c = s.w.core.toNat) = false →
    exec .fenceXp s = .next (advance { s with w := { s.w with xp := if drained s 2#3 then none else some s.w.cyc.toNat } })) ∧
  (∀ s : State, s.w.stores ≠ [] → ∀ i ∈ [Instr.fenceWarp, .fenceBlk, .fenceDev, .fenceGang, .fenceSys],
    exec i s = .next { s with w := waiting s.w .storeQueue, turn := 0 }) ∧
  (∀ s : State, s.w.stores = [] → (∃ l ∈ s.w.loads, l.waits = true) → ∀ i ∈ [Instr.fenceBlk, .fenceDev, .fenceGang, .fenceSys],
    exec i s = .next { s with w := waiting s.w .fence, turn := 0 })

/-- R318 to R322: the returning atomics and the reductions. -/
def Obligations.AtomicResult : Prop :=
  GivesAtomic 0#3 .atomAdd ∧ GivesAtomic 1#3 .atomMin ∧ GivesAtomic 2#3 .atomMax ∧ GivesAtomic 3#3 .atomAnd ∧
  GivesAtomic 4#3 .atomOr ∧ GivesAtomic 5#3 .atomXor ∧ GivesAtomic 6#3 .atomXchg ∧ GivesAtomic 7#3 .atomCas ∧
  GivesReduction 0#3 .redAdd ∧ GivesReduction 1#3 .redMin ∧ GivesReduction 2#3 .redMax ∧ GivesReduction 3#3 .redAnd ∧
  GivesReduction 4#3 .redOr ∧ GivesReduction 5#3 .redXor ∧
  (∀ (s : State) (k : PendKind) (regs : List Nat) (js : List LaneJob) (acq : Bool) (rel : Option (BitVec 3)) (n : BitVec 4) (p : PendLoad),
    p = { kind := k, jobs := js, regs := regs, flag := none, pc := s.w.pc, since := s.w.cyc.toNat, acquire := acq, rel := rel, hreg := n } →
    (atomReady s p = true → issueAtomic s k regs js acq rel n =
      pendAtomic { (performAtoms js s).1 with m := nextStore (performAtoms js s).1.m } k regs (performAtoms js s).2 acq rel n) ∧
    (atomReady s p = false → issueAtomic s k regs js acq rel n = pendAtomic s k regs js acq rel n))

/-- R319, R320: one lane of a returning atomic at an SC place. -/
def Obligations.AtomicLaneReadsAndWrites : Prop :=
  (∀ (s t : State) (n : BitVec 4) (op : BitVec 3) (size : Nat) (x y : DWord) (off : Int) (p : Place),
    resolveLane s n .atomic off size = .ok t p → p.stash = false → p.attr = aSc →
    atomLane n op size x y off s = .ok (t, .atom { place := p, op := op, type := t.w.mode.extractLsb' 5 4, size := size, x := x, y := y })) ∧
  (∀ (t : State) (a : AtomJob), a.place.stash = false → a.place.attr = aSc → homeCheck t.m a.place = none → homeStalls t.m a.place = false →
    lineHeld t t.w.core.toNat a.place.pa true = true → a.size = 4 ∨ a.size = 8 → a.place.pa % a.size = 0 →
    ∃ (u : State) (m : Mem) (old : Nat), m = recallLine t.m (lineOf a.place.pa) ∧
      old = natOfBytes ((List.range a.size).map fun i => cellGet m.cells (a.place.pa + i)) ∧
      performAtom t a = (u, some (.value (BitVec.ofNat 64 old))) ∧
      (∀ pa, pa < a.place.pa ∨ a.place.pa + a.size ≤ pa → u.byteAt pa = cellGet m.cells pa) ∧
      (∀ i, i < a.size → u.byteAt (a.place.pa + i) =
        BitVec.ofNat 8 ((if a.op = 7#3 ∧ old ≠ a.x.toNat then old
          else atomValue a.op (Elem.ofCode a.type) (8 * a.size) old a.x.toNat a.y.toNat) / 2 ^ (8 * i))))

/-- R151 to R154, R323, R324: barriers. -/
def Obligations.BarrierResult : Prop :=
  (∀ (s s₁ s₂ : State) (d a : Byte) (h : BitVec 4) (x word : DWord) (off : Nat) (many : Bool),
    Passes s .no [.sdst d, .ssrc a] h → readS s a = .ok (s₁, ⟨x, false⟩) → barWord s₁ h x = .ok off → loadReady s₁ = .ok () →
    awaitDrained s₁ 1#3 = .ok () → stashHere s₁ off = .ok s₂ → word = stashWord s₂.b off →
    (active s.w = 0#64 → exec (if many then .barArriveN d a h else .barArrive d a h) s = .next
      (pendLoad s₂ (.scalar d.toNat 8 false) [] [⟨0, .value ((word.extractLsb' 32 1).setWidth 64)⟩] false)) ∧
    (∀ (new : DWord) (n : Nat), active s.w ≠ 0#64 → barLeft word ≤ barCount word → 0 < n → n ≤ barLeft word →
      n = (if many then (x.extractLsb' 32 32).toNat else 1) →
      new = (if n = barLeft word then (word.extractLsb' 33 31 ++ ~~~word.extractLsb' 32 1) ++ (word.extractLsb' 33 31).setWidth 32
        else word - BitVec.ofNat 64 n) →
      exec (if many then .barArriveN d a h else .barArrive d a h) s = .next
        (pendLoad (wakeBarriers s₂.b (storeAt s₂ s₂.w.core.toNat (stashAt off) (bytesOfNat 8 new.toNat))) (.scalar d.toNat 8 false) []
          [⟨0, .value ((word.extractLsb' 32 1).setWidth 64)⟩] false))) ∧
  (∀ (s s₁ s₂ : State) (d a : Byte) (h : BitVec 4) (x y : DWord) (off : Nat), Passes s .no [.ssrc d, .ssrc a] h →
    readS s a = .ok (s₁, ⟨x, false⟩) → readS s₁ d = .ok (s₂, ⟨y, false⟩) → barWord s₂ h x = .ok off →
    (active s.w = 0#64 ∨ s.w.woken = true → exec (.barWait d a h) s = .next (advance s₂)) ∧
    (active s.w ≠ 0#64 → s.w.woken = false → loadReady s₂ = .ok () → (∀ i, i < 8 → forwardByte (stashAt off) i s.w.stores.reverse = .none) →
      (barPhase (stashWord s₂.b off) ≠ y.getLsbD 0 → exec (.barWait d a h) s = .next (advance s₂)) ∧
      (barPhase (stashWord s₂.b off) = y.getLsbD 0 →
        exec (.barWait d a h) s = .next { s with w := waiting s.w (.barrier off (y.getLsbD 0)), turn := 0 })))

/-- R325, R89 to R92: register claims. -/
def Obligations.ClaimResult : Prop :=
  (∀ (s s₁ : State) (a : Byte) (x : DWord) (want : BitVec 29), Passes s .no [.ssrc a] → readS s a = .ok (s₁, ⟨x, false⟩) → x.toNat < 2 ^ 29 →
    want = x.setWidth 29 &&& ~~~s.w.claimed →
    (want = 0#29 → exec (.rclm a) s = .next (advance s₁)) ∧
    (want ≠ 0#29 → (∀ q ∈ (coreAt s₁ s₁.w.core.toNat).claims, q.wid ≠ s₁.w.wid) →
      ((∀ q ∈ (coreAt s₁ s₁.w.core.toNat).claims, s₁.w.wid < q.age) ∧ popNat 29 want.toNat ≤ poolFree (coreAt s₁ s₁.w.core.toNat) →
        exec (.rclm a) s = .next (advance (takeOn { s₁ with w := claimBlocks s₁.w want } s₁.w.core.toNat (popNat 29 want.toNat)))) ∧
      (¬((∀ q ∈ (coreAt s₁ s₁.w.core.toNat).claims, s₁.w.wid < q.age) ∧ popNat 29 want.toNat ≤ poolFree (coreAt s₁ s₁.w.core.toNat)) →
        exec (.rclm a) s = .next { onCore s₁ s₁.w.core.toNat (fun c => { c with claims := insertClaim ⟨s₁.w.wid, s₁.w.wid, want⟩ c.claims }) with
          w := waiting s₁.w (.claim want), turn := 0 })) ∧
    (want ≠ 0#29 → (∃ q ∈ (coreAt s₁ s₁.w.core.toNat).claims, q.wid = s₁.w.wid) →
      exec (.rclm a) s = .next { s with w := waiting s.w (.claim want), turn := 0 })) ∧
  (∀ (s s₁ : State) (a : Byte) (x : DWord) (held : BitVec 29), Passes s .no [.ssrc a] → readS s a = .ok (s₁, ⟨x, false⟩) → x.toNat < 2 ^ 29 →
    held = x.setWidth 29 &&& s.w.claimed → (∀ r, r < 232 → held.getLsbD (r / 8) = true → vPending s.w r = false) →
    exec (.rrel a) s = .next (advance (freeSlots { s₁ with w := dropBlocks s₁.w held } s₁.w.core.toNat (popNat 29 held.toNat)))) ∧
  (∀ (s : State) (d : Byte), Passes s .no [.sdst d] →
    exec (.rqry d) s = .next (s.putScalar d ⟨s.w.claimed.setWidth 64, false⟩) ∧
    exec (.rqpool d) s = .next (s.putScalar d ⟨poolWord (coreAt s s.w.core.toNat), false⟩))

/-- R326 to R328: queues and key-value translation. -/
def Obligations.QueueAndTranslationResult : Prop :=
  (∀ (s s₁ : State) (q : BitVec 3) (a : Byte) (x : Scalar), Passes s .only [.ssrc a] → readS s a = .ok (s₁, x) →
    (32 ≤ queueFill s₁ q → exec (.qpush q a) s = .next { s with w := waiting s.w (.queue q), turn := 0 }) ∧
    (queueFill s₁ q < 32 → s₁.w.pushes = [] → drained s₁ 1#3 = true → ∀ k : Queue, k = s₁.b.queues[q.toNat] →
      exec (.qpush q a) s = .next (retireQueue { advance s₁ with
        b := { s₁.b with queues := s₁.b.queues.set q.toNat { k with entries := k.entries ++ [x] } } } q.toFin)) ∧
    (queueFill s₁ q < 32 → s₁.w.pushes ≠ [] ∨ drained s₁ 1#3 = false →
      exec (.qpush q a) s = .next (advance { s₁ with w := { s₁.w with pushes := s₁.w.pushes ++ [(q, x, s₁.w.cyc.toNat)] } }))) ∧
  (∀ (s s₁ t u : State) (d a : Byte) (h : BitVec 4) (x : Scalar) (js : List LaneJob) (rep evas : List Nat), Passes s .only [.sdst d, .ssrc a] h →
    readS s a = .ok (s₁, x) → readReady s₁ 1 = .ok () → kvPlan h [kvReq 0 x] s₁ = .ok (t, js, rep, evas) → postRequests evas t = .ok u →
    exec (.kvxs d a h) s = .next (pendLoad u (.scalar d.toNat 8 false) []
      (if rep.isEmpty then js else [⟨0, .value 0xFFFFFFFFFFFFFFFF#64⟩]) true)) ∧
  (∀ (s s₁ : State) (d i : Byte) (h : BitVec 4) (x : Src), Passes s .no [.vreg d 2 2, .vsrc i true] h → readV s true i = .ok (s₁, x) →
    (active s.w = 0#64 → exec (.kvx d i h) s =
      .next (popQueues [.vreg d 2 2, .vsrc i true] (advance { s₁ with w := { s₁.w with replay := 0#64 } }))) ∧
    (∀ (t u : State) (js : List LaneJob) (rep evas : List Nat), active s.w ≠ 0#64 → readReady s₁ (laneList (active s.w)).length = .ok () →
      kvPlan h ((laneList (active s.w)).map fun l => kvReq l.val (x l)) s₁ = .ok (t, js, rep, evas) →
      postRequests evas.eraseDups { t with w := { t.w with replay := maskOf rep } } = .ok u →
      exec (.kvx d i h) s = .next (popQueues [.vreg d 2 2, .vsrc i true]
        (pendLoad u (.vec d.toNat 8 false) [d.toNat, d.toNat + 1] js true))))

/-- R329 to R333: remote accesses as they issue. -/
def Obligations.RemoteResult : Prop :=
  GivesRemote 0#3 .rld ∧ GivesRemote 1#3 .rst ∧ GivesRemote 2#3 .ratom ∧ GivesRemote 3#3 .rred ∧ GivesRemote 4#3 .mcst ∧
  (∀ s : State, Passes s .no [] → s.b.gcount = 0#9 → exec .tattach s = .next (advance s)) ∧
  (∀ s t : State, Passes s .no [] → s.b.gcount ≠ 0#9 → s.w.detached = false → s.w.status ≠ .parked .tattach → awaitDrained s 3#3 = .ok () →
    t = { s with w := { s.w with attached := s.w.attached + 1 } } →
    exec .tattach s = .next (if gangReached t t.w.attached then advance t else { t with w := waiting t.w .tattach, turn := 0 })) ∧
  (∀ s : State, Passes s .no [] → s.b.gcount ≠ 0#9 → s.w.detached = false → s.w.status = .parked .tattach → gangReached s s.w.attached = true →
    exec .tattach s = .next (advance s)) ∧
  (∀ s : State, Passes s .no [] → s.b.gcount ≠ 0#9 → s.w.detached = false → s.w.status = .parked .tattach → gangReached s s.w.attached = false →
    exec .tattach s = .next { s with w := waiting s.w .tattach, turn := 0 }) ∧
  (∀ s : State, Passes s .no [] → s.w.remotes = [] →
    exec .tdetach s = .next (advance { s with w := { s.w with detached := s.b.gcount ≠ 0#9 } }))

/-- R338 to R345: the matrix instructions as they issue. -/
def Obligations.MatrixIssueResult : Prop :=
  (∀ (s : State) (c : BitVec 2) (a b : BitVec 4) (sa sb : BitVec 6) (z : BitVec 1),
    Passes s .no [.sregs (sa.setWidth 8) 2, .sregs (sb.setWidth 8) 2] → MatrixReady s 0#2 c a b sa sb z → active s.w ≠ 0#64 →
    exec (.mma c a b sa sb z) s = .next (matrixIssued s .matrix (matRequest s.w s.hub.nextCmd 0#2 c.toFin a b sa.toNat sb.toNat (z = 1#1)))) ∧
  (∀ (s : State) (c : BitVec 2) (a b : BitVec 4) (sa sb : BitVec 6) (z : BitVec 1),
    Passes s .no [.sregs (sa.setWidth 8) 4, .sregs (sb.setWidth 8) 2] → MatrixReady s 1#2 c a b sa sb z → active s.w ≠ 0#64 →
    exec (.mmat c a b sa sb z) s = .next (matrixIssued s .matrix (matRequest s.w s.hub.nextCmd 1#2 c.toFin a b sa.toNat sb.toNat (z = 1#1)))) ∧
  (∀ (s : State) (c : BitVec 2) (a b : BitVec 4) (sa sb : BitVec 6) (z : BitVec 1),
    Passes s .no [.sregs (sa.setWidth 8) 2, .sregs (sb.setWidth 8) 2] → MatrixReady s 2#2 c a b sa sb z → s.b.accord = true →
    exec (.mmap c a b sa sb z) s =
      .next (decidePair (matrixIssued s .accord (matRequest s.w s.hub.nextCmd 2#2 c.toFin a b sa.toNat sb.toNat (z = 1#1))))) ∧
  (∀ (s : State) (c : BitVec 2) (a b : BitVec 4) (sa sb : BitVec 6) (z : BitVec 1),
    Passes s .no [.sregs (sa.setWidth 8) 2, .sregs (sb.setWidth 8) 2] → MatrixReady s 0#2 c a b sa sb z → active s.w = 0#64 →
    exec (.mma c a b sa sb z) s = .next (advance s)) ∧
  (∀ (s : State) (c : BitVec 2) (a b : BitVec 4) (sa sb : BitVec 6) (z : BitVec 1),
    Passes s .no [.sregs (sa.setWidth 8) 4, .sregs (sb.setWidth 8) 2] → MatrixReady s 1#2 c a b sa sb z → active s.w = 0#64 →
    exec (.mmat c a b sa sb z) s = .next (advance s))

/-- R338, R342, R343, R196, R226: the events of the matrix engines. -/
def Obligations.MatrixEventResult : Prop :=
  (∀ (s s₁ s₂ : State) (q : MatReq) (b : OpRead) (rows : List (Fin 64 × RowRead)), AtCore s s.w.wid → s.w.matReq = some q →
    s.w.status = .parked .matrix ∨ s.w.status = .parked .wos → s.w.mat = none → matHeld s q = false → q.paired = false →
    (if q.rows.isEmpty then .ok (s, .unread) else fetchB q (modeSp s.w) s) = .ok (s₁, b) → fetchA q s₁ = .ok (s₂, rows) → (∀ r ∈ rows, ∃ x, r.2 = .inl x) →
    exec (.matrixAccept s.w.wid) s = .next (advance (countDelay { s₂ with
      m := { s₂.m with free := s₂.m.free + 4096 }
      w := { s₂.w with matReq := none, rowprog := if s₂.w.rowResume then 0#64 else s₂.w.rowprog, rowAt := if s₂.w.rowResume then none else s₂.w.rowAt
                       mat := some { acc := q.acc, tile := matTile q s₂.m.free s₂.w.acc[q.acc] rows b, rowState := s₂.w.rowState,
                                     zeroAdd := 0, form := q.form, done := 0#8, since := s₂.clk, step := if q.paired then 16 else 8, flag := q.flag } } }))) ∧
  (∀ (s : State) (k : MatWork), AtCore s s.w.wid → s.w.mat = some k → (k.form ≠ 3#2 → engineReady s = true) →
    ∃ t, exec (.matrixComplete s.w.wid) s = .next t ∧ t.w.mat = none ∧ t.w.acc = s.w.acc.set k.acc k.tile ∧ t.w.rowState = k.rowState ∧
      t.w.zerocnt.toNat = min (s.w.zerocnt.toNat + k.zeroAdd) (2 ^ 64 - 1) ∧ t.w.flags = (flagDec s.w k.flag).flags ∧ t.w.accPend = 0#13 ∧
      ∀ n : Fin 640, n.val = engineOf s.w → (bankLost (s.engines[n]) s.w.ctx = none → t.m = s.m) ∧ (t.engines[n]).idleSince = s.clk ∧
        (t.engines[n]).banks = (s.w.ctx :: (s.engines[n]).banks.filter (· ≠ s.w.ctx)).take 2) ∧
  (∀ (s : State) (q : MatReq), AtCore s s.w.wid → s.w.status = .parked .accord → s.w.matReq = some q →
    (∀ p, partnerOf s = some p → atMmap p = none ∧ p.status ≠ .done) → 16 * modePw s.w ≤ s.w.cyc.toNat - s.w.since →
    exec (.accordWaitExpire s.w.wid) s = .next (count { s with w := { waiting s.w .matrix with matReq := some { q with paired := false } } }
      0x0021#16 (BitVec.ofNat 32 (engineOf s.w)) 1)) ∧
  (∀ (s : State) (die : BitVec 2) (t : Nat) (n : Fin 640), oldestRequest s die.toNat = some (t, n.val) → s.grantAt[die.toNat] ≤ s.clk →
    ∃ u, exec (.engineStartGrant die) s = .next u ∧ u.engines[n] = { s.engines[n] with
      gated := false, requested := none, readyAt := s.clk + 16, idleSince := s.clk + 16 } ∧ u.grantAt[die.toNat] = s.clk + 2 ∧
      ∀ k : Fin 640, k ≠ n → u.engines[k] = s.engines[k]) ∧
  (∀ (s : State) (n : BitVec 10), n.toNat < 640 → engineBusy s n.toNat = false →
    ∃ u, exec (.engineGate n) s = .next u ∧ ∀ k : Fin 640, u.engines[k] =
      if k.val = n.toNat ∧ (s.engines[k]).gated = false ∧ (s.engines[k]).idleSince + 256 ≤ s.clk then { s.engines[k] with gated := true } else s.engines[k])

/-- R346 to R354: accumulator forms. -/
def Obligations.AccumulatorResult : Prop :=
  (∀ (s : State) (c : BitVec 2), Passes s .no [] → s.w.mat = none → active s.w ≠ 0#64 →
    exec (.accz c) s = .next (accEffect s c.toFin
      (accRows { s.w.acc[c.toFin] with f64 := decide (modeEt s.w = .f64) } (active s.w) fun _ _ => AccRow.zero)
      (stateRows s.w.rowState (active s.w) fun _ _ => RowState.launch) 0)) ∧
  (∀ (s : State) (c : BitVec 2), Passes s .no [] → s.w.mat = none → active s.w = 0#64 → exec (.accz c) s = .next (advance s)) ∧
  (∀ (s : State) (c : BitVec 2) (h : BitVec 4) (i : BitVec 6) (k : AccCase) (f64 : Bool) (co : List Nat),
    Passes s .no [.sregs (i.setWidth 8) 2] h → s.w.mat = none → active s.w = 0#64 → accChecks s c.toFin h i false = .ok (k, f64, co) →
    coordValid (handleAt s.w h).entry co = true → exec (.accld c h i) s = .next (advance s)) ∧
  (∀ (s : State) (c m : BitVec 2) (f : BitVec 6) (x : DWord), Passes s .no [.ssrc (f.setWidth 8)] → s.w.mat = none → active s.w = 0#64 →
    s.w.s[Fin.ofNat 64 f.toNat] = ⟨x, false⟩ → (s.w.acc[c.toFin]).f64 = false →
    exec (.accmax c f) s = .next (advance s) ∧ exec (.accexp c f) s = .next (advance s) ∧
    ((s.w.acc[m.toFin]).f64 = false → x.toNat < 4 → exec (.accsum c m f) s = .next (advance s))) ∧
  (∀ (s t : State) (c : BitVec 2) (h : BitVec 4) (i : BitVec 6) (k : AccCase) (f64 : Bool) (co : List Nat) (rows : List (Fin 64 × RowLoad)),
    Passes s .no [.sregs (i.setWidth 8) 2] h → s.w.mat = none → active s.w ≠ 0#64 → accChecks s c.toFin h i false = .ok (k, f64, co) →
    coordValid (handleAt s.w h).entry co = true → readReady s 64 = .ok () → accRead s k h (handleAt s.w h) co = .ok (t, rows) →
    ∃ u a : State, exec (.accld c h i) s = .next u ∧ a = { t with w := rowOrigins t.w rows } ∧
      (k ≠ .state → u = accEffect a c.toFin (accRows { a.w.acc[c.toFin] with f64 := f64 } (active a.w) fun l r =>
        (((rows.find? fun x => x.1 = l).map (·.2)).map (loadedRow r)).getD r) a.w.rowState 0) ∧
      (k = .state → u = accEffect a c.toFin a.w.acc[c.toFin] (stateRows a.w.rowState (active a.w) fun l r =>
        (((rows.find? fun x => x.1 = l).map (·.2)).map (loadedState r)).getD r) 0)) ∧
  (∀ (s : State) (c m : BitVec 2) (f : BitVec 6) (x : DWord), Passes s .no [.ssrc (f.setWidth 8)] → s.w.mat = none → active s.w ≠ 0#64 →
    s.w.s[Fin.ofNat 64 f.toNat] = ⟨x, false⟩ → (s.w.acc[c.toFin]).f64 = false →
    exec (.accmax c f) s = .next (accEffect s c.toFin s.w.acc[c.toFin]
      (stateRows s.w.rowState (active s.w) fun l r => maxState (f32Of x) (s.w.acc[c.toFin]).rows[l] r) 0) ∧
    exec (.accexp c f) s = .next (accEffect s c.toFin
      (accRows s.w.acc[c.toFin] (active s.w) fun l r => expRow (f32Of x) r s.w.rowState[l]) s.w.rowState
      (((laneList (active s.w)).map fun (l : Fin 64) => expZeros (f32Of x) (s.w.acc[c.toFin]).rows[l] s.w.rowState[l]).foldl (· + ·) 0)) ∧
    ((s.w.acc[m.toFin]).f64 = false → x.toNat < 4 →
      exec (.accsum c m f) s = .next (accEffect s c.toFin
        (accRows s.w.acc[c.toFin] (active s.w) fun l r => (sumStep x (modeCmp s.w) (c = m) r (s.w.acc[m.toFin]).rows[l] s.w.rowState[l]).1)
        (stateRows s.w.rowState (active s.w) fun l _ =>
          (sumStep x (modeCmp s.w) (c = m) (s.w.acc[c.toFin]).rows[l] (s.w.acc[m.toFin]).rows[l] s.w.rowState[l]).2) 0)))

/-- R349, R351, R359: ACCST, ACCG and the code-table instructions. -/
def Obligations.AccumulatorStoreResult : Prop :=
  (∀ (s : State) (c : BitVec 2) (h : BitVec 4) (i : BitVec 6) (k : AccCase) (f64 : Bool) (co : List Nat),
    Passes s .no [.sregs (i.setWidth 8) 2] h → s.w.mat = none → accChecks s c.toFin h i true = .ok (k, f64, co) →
    coordValid (handleAt s.w h).entry co = true →
    (active s.w = 0#64 → exec (.accst c h i) s = .next (advance s)) ∧
    (∀ (t : State) (ws : List LaneStore), active s.w ≠ 0#64 →
      (∀ r : Fin 64, (k = .attar ∨ (active s.w).getLsbD r = true) →
        (if k = .state then (s.w.rowState[r]).poison else ((s.w.acc[c.toFin]).rows[r]).poison) = false) → memReady s = .ok () →
      (if k = .attar then storeAttar h (handleAt s.w h) co (accQuant s.w.acc[c.toFin] (handleAt s.w h).entry co).1
          (accQuant s.w.acc[c.toFin] (handleAt s.w h).entry co).2 s
        else storeDense h (handleAt s.w h) (accWrites s.w k s.w.acc[c.toFin] (handleAt s.w h).entry co) s) = .ok (t, ws) →
      QueueRoom t ws → exec (.accst c h i) s = .next (queued t .store ws h none))) ∧
  (∀ (s t : State) (c : BitVec 2) (g : BitVec 6) (x : DWord) (p : Warp), Passes s .no [.ssrc (g.setWidth 8)] → s.w.mat = none → s.b.accord = true →
    s.w.status ≠ .parked .accg → s.w.s[Fin.ofNat 64 g.toNat] = ⟨x, false⟩ → partnerOf s = some p → p.status ≠ .done →
    t = { s with w := flagInc { waiting s.w .accg with matReq := some (accgRequest s.w c.toFin x) } (stFlag s.w) } →
    (atAccg p = none → exec (.accg c g) s = .next { t with turn := 0 }) ∧
    (∀ q2, atAccg p = some q2 → exec (.accg c g) s = .next (accgPair t (accgRequest s.w c.toFin x) p q2))) ∧
  (∀ (s : State) (c : BitVec 2) (g : BitVec 6) (q q2 : MatReq) (p : Warp), Passes s .no [.ssrc (g.setWidth 8)] → s.w.mat = none →
    atAccg s.w = some q → partnerOf s = some p → p.status ≠ .done → atAccg p = some q2 →
    exec (.accg c g) s = .next (accgPair s q p q2)) ∧
  (∀ (s : State) (q q2 : MatReq) (p : Warp), (s.w.acc[q.acc]).f64 = (p.acc[q2.acc]).f64 → accgPair s q p q2 =
    if s.w.twin then focusOn (accgDone (focusOn (accgApply s q (accgTile p.acc[q2.acc] s.w.acc[q.acc] q)) p.wid) q2) s.w.wid
    else focusOn (accgApply (focusOn (accgDone s q) p.wid) q2 (accgTile s.w.acc[q.acc] p.acc[q2.acc] q2)) s.w.wid) ∧
  (∀ (u c : Acc) (q : MatReq) (r k : Fin 64) (t : Elem) (f : DWord → FVal), t = tagElem c.f64 → f = (fun x => t.value (x.toNat % 2 ^ t.width)) →
    q.active.getLsbD r = true → (c.f64 = true → k.val < 32) → ((accgTile u c q).rows[r]).elems[k] =
      BitVec.ofNat 64 (t.pattern (((f (u.rows[r]).elems[k]).add .rne ((f q.diag).mul ((f (c.rows[r]).elems[k]).add .rne
        (f (u.rows[r]).elems[k]).neg))).round t .rne false))) ∧
  (∀ (s : State) (a : Byte) (k : BitVec 6) (va : Nat), Passes s .no [.sregs a 2] → imageVa s a = .ok va →
    (active s.w = 0#64 → exec (.ctload a k) s = .next (advance s) ∧ exec (.ctsave a k) s = .next (advance s)) ∧
    (∀ (t : State) (bs : List Byte), active s.w ≠ 0#64 → loadReady s = .ok () →
      readBytesVa { warpReader s 0#4 Handle.unbound with hreg := none } va 256 s = .ok (t, bs) → imageValid (BitVec.ofNat 2048 (natOfBytes bs)) = true →
      exec (.ctload a k) s = .next (advance { t with x := { t.x with tables := t.x.tables.set k.toNat (some (BitVec.ofNat 2048 (natOfBytes bs))) } })) ∧
    (∀ (t : State) (ls : List LaneStore), active s.w ≠ 0#64 → memReady s = .ok () →
      storeVa 0#4 va (bytesOfNat 256 ((s.x.tables[k.toNat]).getD 0#2048).toNat) s = .ok (t, ls) → QueueRoom t ls →
      exec (.ctsave a k) s = .next (queued t .store ls 0#4 none))) ∧
  (∀ (s : State) (k : BitVec 6), Passes s .no [] → exec (.ctinv k) s = .next (if active s.w = 0#64 then advance s
    else advance { s with x := { s.x with tables := s.x.tables.set k.toNat none } }))

/-- R360 to R364: engine commands as they issue. -/
def Obligations.EngineIssueResult : Prop :=
  IssuesCommand 0x00#7 (fun _ => true) (fun _ => .cpy) ∧ IssuesCommand 0x01#7 (fun _ => true) (fun _ => .gath) ∧
  IssuesCommand 0x02#7 (fun _ => true) (fun _ => .scat) ∧ IssuesCommand 0x03#7 (· = 1#1) .tcpy ∧
  IssuesCommand 0x04#7 (fun _ => true) (fun _ => .fill) ∧ IssuesCommand 0x05#7 (fun _ => true) (fun _ => .tdec) ∧
  IssuesCommand 0x10#7 (fun _ => true) (fun _ => .encv) ∧ IssuesCommand 0x11#7 (fun _ => true) (fun _ => .encc) ∧
  IssuesCommand 0x12#7 (fun _ => true) (fun _ => .encvp) ∧ IssuesCommand 0x13#7 (fun _ => true) (fun _ => .enccp) ∧
  IssuesCommand 0x20#7 (fun _ => true) (fun _ => .migp) ∧ IssuesCommand 0x21#7 (· = 1#1) .migb ∧ IssuesCommand 0x30#7 (· = 1#1) .avdec ∧
  IssuesCommand 0x40#7 (fun _ => true) (fun _ => .cbcast) ∧ IssuesCommand 0x41#7 (fun _ => true) (fun _ => .creduce) ∧
  IssuesCommand 0x42#7 (fun _ => true) (fun _ => .callred) ∧ IssuesCommand 0x43#7 (fun _ => true) (fun _ => .cgath)

/-- R362: the end of an engine command. -/
def Obligations.EngineCompletionResult : Prop :=
  (∀ (s : State) (id : Nat) (c : Cmd) (wid : Nat) (p : CmdPlan) (before r : State), hubSealed s.hub = false →
    s.cmds.find? (fun c => c.id = id && c.started) = some c → c.issuer = .warp wid → c.func.toNat < 0x50 → c.stopping = false → p.spoiled = [] →
    before = c.fills.foldl (fun s t => setTile s c.ctx t.1 t.2) s → asUnit before c (runCmd c) = (r, .ok p) →
    ∃ ts : List (Nat × DWord), ts = tilesOver r (cmdBlock s c) (p.regions.map fun q => (q.1, q.2.1)) ∧
      exec (.engineCompletion id) s = .next (startCmds (endCmd (readyTiles r (cmdBlock s c) p.regions
        (ts ++ c.fills.filter fun t => !(ts.any fun q => q.1 = t.1))) c (statusWord p.code p.detail p.info)))) ∧
  (∀ (s : State) (c : Cmd) (st : DWord), AtWarp s s.w.wid → c.issuer = .warp s.w.wid → c.reply = true → s.x.resident = true →
    endCmd s c st = { s with cmds := s.cmds.filter fun q => q.id ≠ c.id
                             w := setS (flagDec s.w c.flag) (Fin.ofNat 64 c.d.toNat) ⟨st, false⟩ }) ∧
  (∀ (s : State) (id : Nat), hubSealed s.hub = true ∨ (∀ c ∈ s.cmds, ¬(c.id = id ∧ c.started = true)) → exec (.engineCompletion id) s = .next s)

/-- R372, R102, R103: the tile functions. -/
def Obligations.TileFunctionResult : Prop :=
  (∀ (s : State) (d a : BitVec 6) (x : DWord) (z : DWord) (n : Nat), Passes s .no (copFields 0x50#7 true d a 0#6) →
    copOperands 0x50#7 true d a 0#6 s.w = .ok (x, 0#64, z) → (x.extractLsb' 11 21) = 0#21 → rangeInside s x = true →
    tilesAt s s.b (rangeOff x) (rangeBytes x) = [] → (coreAt s s.w.core.toNat).tiles.toList.findIdx? (fun e => !tDef e) = some n →
    exec (.tdef d a) s = .next (if active s.w = 0#64 then advance s
      else tileReply true d n (setTile s s.w.ctx (256 * s.w.core.toNat + n) (newTile s x)))) ∧
  (∀ (s : State) (r : BitVec 1) (d a : BitVec 6) (x z : DWord) (t : Nat × DWord), Passes s .no (copFields 0x51#7 (r = 1#1) d a 0#6) →
    copOperands 0x51#7 (r = 1#1) d a 0#6 s.w = .ok (x, 0#64, z) → (x.extractLsb' 11 21) = 0#21 →
    tileOf s x = some t → tState t.2 = 0 ∨ tState t.2 = 2 →
    exec (.trel r d a) s = .next (if active s.w = 0#64 then advance s
      else tileReply (r = 1#1) d 0 (setTile s s.w.ctx t.1 0xFF00#64))) ∧
  (∀ (s : State) (d a : BitVec 6) (x z : DWord), Passes s .no (copFields 0x54#7 true d a 0#6) →
    copOperands 0x54#7 true d a 0#6 s.w = .ok (x, 0#64, z) → (x.extractLsb' 11 21) = 0#21 →
    exec (.tqry d a) s = .next (if active s.w = 0#64 then advance s
      else s.putScalar (d.setWidth 8) ⟨BitVec.ofNat 64 (((tileOf s x).map fun t => t.2.toNat).getD 0), false⟩)) ∧
  (∀ (s : State) (r : BitVec 1) (d a : BitVec 6) (x z : DWord) (t : Nat × DWord) (f : BitVec 7) (i : Instr),
    (f = 0x52#7 ∧ i = .trdy r d a) ∨ (f = 0x53#7 ∧ i = .tdrn r d a) → Passes s .no (copFields f (r = 1#1) d a 0#6) →
    copOperands f (r = 1#1) d a 0#6 s.w = .ok (x, 0#64, z) → (x.extractLsb' 11 21) = 0#21 → tileOf s x = some t →
    (active s.w = 0#64 → exec i s = .next (advance s)) ∧
    (∀ c : Cmd, active s.w ≠ 0#64 → ownTileFn s f = some c → exec i s = .next (tryTileFn c x s)) ∧
    (∀ c : Cmd, active s.w ≠ 0#64 → ownTileFn s f = none → boardFull s s.w.core = false →
      c = { newCmd (takeIssue s).1 s.hub.nextCmd f (r = 1#1) d x 0#64 0#64 with reads := [], writes := linesAt (rangeOff x) (rangeBytes x) } →
      exec i s = .next (tryTileFn c x { (takeIssue s).1 with cmds := s.cmds ++ [c] }))) ∧
  (∀ (s : State) (c : Cmd) (x : DWord), boardHolds s c.core c.bid c.id c.reads c.writes = true →
    tryTileFn c x s = { s with w := waiting s.w .scoreboard, turn := 0 }) ∧
  (∀ (s u : State) (c : Cmd) (x : DWord) (t : Nat × DWord), boardHolds s c.core c.bid c.id c.reads c.writes = false → tileOf s x = some t →
    (c.func = 0x52#7 → tState t.2 = 2 ∨ tState t.2 = 0 →
      u = putCmd (setTile s s.w.ctx t.1 (tileWith t.2 1 none (0x40 + s.w.part.toNat))) { c with started := true, fills := [t], since := s.w.cyc.toNat } →
      tryTileFn c x s = advance { u with w := flagInc u.w c.flag }) ∧
    (c.func = 0x53#7 → tState t.2 = 2 →
      u = putCmd (setTile s s.w.ctx t.1 (tileWith t.2 3 (if tPoison t.2 then some (BitVec.ofNat 8 (tCode t.2)) else none) (0x40 + s.w.part.toNat)))
        { c with started := true, fills := [t], since := s.w.cyc.toNat } →
      tryTileFn c x s = advance { u with w := flagInc u.w c.flag })) ∧
  (∀ (s : State) (id wid : Nat) (c : Cmd), hubSealed s.hub = false → s.cmds.find? (fun c => c.id = id && c.started) = some c →
    c.issuer = .warp wid → c.stopping = false →
    (c.func = 0x52#7 → (∀ w, warpOf s wid = some w → ∀ e ∈ w.stores, c.since < e.since ∨ ∀ l ∈ e.lanes, l.place.stash = false) →
      exec (.engineCompletion id) s =
        .next (startCmds (endCmd (c.fills.foldl (fun s t => setTile s c.ctx t.1 (tileWith t.2 2 none 0xFF)) s) c 0#64))) ∧
    (c.func = 0x53#7 → exec (.engineCompletion id) s =
        .next (startCmds (endCmd (c.fills.foldl (fun s t => setTile s c.ctx t.1 (tileWith t.2 0 none 0xFF)) s) c 0#64))))

/-- R188, R120, R138, R388: accesses in flight. -/
def Obligations.AccessEventResult : Prop :=
  (∀ (s a t u : State) (k : Nat) (p q : PendLoad) (is js : List LaneJob), AtCore s s.w.wid → s.w.loads[k]? = some p →
    (if atomReady s p then performStep p.jobs s else (s, p.jobs)) = (a, is) →
    readParked p.kind.size is a = (t, js) → q = { p with jobs := js } → u = refillBlocks (awayBlocks t.w q.regs) t →
    (q.waits = false → awayBlocks u.w q.regs = 0#29 → exec (.loadComplete s.w.wid k) s = .next { u with
      w := flagDec (recordOrigins (writeLoad { u.w with loads := u.w.loads.eraseIdx k } q) q) p.flag }) ∧
    (q.waits = true → q ≠ p → exec (.loadComplete s.w.wid k) s = .next { t with w := { t.w with loads := t.w.loads.set k q } }) ∧
    (q.waits = true → q = p → exec (.loadComplete s.w.wid k) s = .next { s with m := { s.m with wants := t.m.wants } })) ∧
  (∀ (s t u : State) (e : StoreEntry) (rest : List StoreEntry) (fs : List LaneFault), AtCore s s.w.wid → s.w.stores = e :: rest →
    (entryReady s e = true → performLanes e.kind e.lanes { s with w := { s.w with stores := rest } } = (t, fs) →
      u = acknowledge { t with m := { t.m with sid := s.m.sid + 1 } } s.m.sid e.flag →
      (fs = [] → exec (.storePerformed s.w.wid) s = .next u) ∧
      (∀ f gs, fs = f :: gs →
        exec (.storePerformed s.w.wid) s = .next (raiseLate u e.pc e.hreg f.code f.detail f.va (failedMask e fs)))) ∧
    (entryReady s e = false → exec (.storePerformed s.w.wid) s = .next (if entryHeld s e then s else wantLanes s e))) ∧
  (∀ (s : State) (r : BitVec 512), AtWarp s s.w.wid →
    (s.w.status = .done →
      exec (.lateFault s.w.wid r) s = .next (failNode (appendRing s s.x (withExited r)) s.w.node (recCode r) (recDetail r))) ∧
    (s.w.status = .halted → exec (.lateFault s.w.wid r) s = .next (appendRing s s.x r)) ∧
    (s.w.status ≠ .done → s.w.status ≠ .halted →
      (s.w.rap = true → exec (.lateFault s.w.wid r) s = .next (haltNode (appendRing s s.x r) (recCode r) (recDetail r))) ∧
      (s.w.rap = false → s.w.late.length < 8 → s.w.summary = false →
        exec (.lateFault s.w.wid r) s = .next { s with w := { s.w with late := s.w.late ++ [r] } }) ∧
      (∀ (q : BitVec 512) (late : List (BitVec 512)), s.w.rap = false → s.w.late = late ++ [q] →
        (s.w.summary = false → late.length = 7 → exec (.lateFault s.w.wid r) s = .next (appendRing (appendRing
          { s with w := { s.w with late := late ++ [summaryOf q 2], summary := true } } s.x q) s.x r)) ∧
        (s.w.summary = true → exec (.lateFault s.w.wid r) s = .next (appendRing
          { s with w := { s.w with late := late ++ [summaryOf q (min 255 ((recDetail q).toNat + 1))] } } s.x r))))) ∧
  (∀ (s : State) (k : Nat) (p q : PendLoad), AtCore s s.w.wid → s.w.loads[k]? = some p → p.parked = true → wosExpired s p.since = true →
    q = { p with jobs := p.jobs.map fun j => match j.plan with
      | .parked x => if unpublished s x then { j with plan := .poison cWosTimeout 0x00 x.va true } else j
      | _ => j } →
    exec (.wosTimeout s.w.wid k) s = .next { s with w := { s.w with loads := s.w.loads.set k q } }) ∧
  (∀ (s : State) (wid k : Nat) (r : BitVec 512), warpOf s wid = none →
    exec (.loadComplete wid k) s = .next s ∧ exec (.storePerformed wid) s = .next s ∧ exec (.lateFault wid r) s = .next s ∧
      exec (.wosTimeout wid k) s = .next s)

/-- R387, R376: deliveries at a boundary. -/
def Obligations.BoundaryEventResult : Prop :=
  (∀ s : State, AtWarp s s.w.wid → atBoundary s.w = true → inHandler s.w = false → s.w.rap = false → s.x.trapva ≠ 0#80 → s.w.stack.length < 256 →
    (∀ r rest, s.w.late = r :: rest → ∃ t, exec (.impreciseFaultDelivery s.w.wid) s = .next t ∧ entered s t (recMask r) ∧ t.w.late = rest ∧
      t.w.faultSlot = withHnd r) ∧
    (s.w.late = [] → s.w.cycdl ≠ 0#64 → s.w.cycdl ≤ s.w.cyc → ∃ t, exec (.ttrapDeadline s.w.wid) s = .next t ∧ entered s t s.w.exec ∧
      t.w.cycdl = 0#64 ∧ t.w.walldl = s.w.walldl ∧ recCode t.w.faultSlot = cTimer ∧ recDetail t.w.faultSlot = 0x02) ∧
    (s.w.late = [] → ¬(s.w.cycdl ≠ 0#64 ∧ s.w.cycdl ≤ s.w.cyc) → s.w.walldl ≠ 0#64 → s.w.walldl.toNat ≤ wall s →
      ∃ t, exec (.tdeadDeadline s.w.wid) s = .next t ∧ entered s t s.w.exec ∧
        t.w.walldl = 0#64 ∧ t.w.cycdl = s.w.cycdl ∧ recCode t.w.faultSlot = cTimer ∧ recDetail t.w.faultSlot = 0x03)) ∧
  (∀ s : State, AtWarp s s.w.wid → inHandler s.w = true → exec (.impreciseFaultDelivery s.w.wid) s = .next s ∧
    exec (.ttrapDeadline s.w.wid) s = .next s ∧ exec (.tdeadDeadline s.w.wid) s = .next s)

/-- R270, R92, R391, R392: waits that end. -/
def Obligations.WatchEventResult : Prop :=
  (∀ s : State, s.w.status = .parked .sleep → s.w.since ≤ s.w.cyc.toNat → (∀ v ∈ s.warps, v.wid ≠ s.w.wid) →
    exec (.sleepEnd s.w.wid) s = .next { s with w := { s.w with status := .running } }) ∧
  (∀ (s : State) (core : BitVec 8), ((coreAt s core.toNat).claims = [] → exec (.rclmGrant core) s = .next s) ∧
    ∀ (q : Claim) (rest : List Claim), (coreAt s core.toNat).claims = q :: rest →
      (poolFree (coreAt s core.toNat) < popNat 29 q.blocks.toNat → exec (.rclmGrant core) s = .next s) ∧
      (core.toNat < 160 → popNat 29 q.blocks.toNat ≤ poolFree (coreAt s core.toNat) → q.wid = s.w.wid → (∀ v ∈ s.warps, v.wid ≠ s.w.wid) →
        ∃ t, exec (.rclmGrant core) s = .next t ∧ t.w.claimed = s.w.claimed ||| q.blocks ∧ t.w.woken = true ∧
          coreAt t core.toNat = { takeSlots (coreAt s core.toNat) (popNat 29 q.blocks.toNat) with claims := rest } ∧
          (∀ n, n ≠ core.toNat → coreAt t n = coreAt s n) ∧
          (popNat 29 q.blocks.toNat ≤ (coreAt s core.toNat).free →
            t.w = { claimBlocks s.w q.blocks with woken := true } ∧ t.warps = s.warps ∧ t.m = s.m ∧ t.hub = s.hub))) ∧
  (∀ (s : State) (bid : Nat) (b : Block), blockOf s bid = some b →
    (deadlockDue s b = true → exec (.deadlockDetect bid) s = .next (onBlock
      (((blockWarps s bid).filter fun w => !w.rap).foldl (fun u w => withWarp u w.wid (unstick (stuckCode s bid) (stuckOn w))) s)
      bid fun c => { c with stuckSince := none })) ∧
    (deadlockDue s b = false → exec (.deadlockDetect bid) s = .next s)) ∧
  (∀ (s : State) (bid : Nat),
    ((∃ w ∈ blockWarps s bid, w.rap = false ∧ stuckOn w = some 0x02) → stuckCode s bid = cDeadlockRegs) ∧
    ((∀ w ∈ blockWarps s bid, w.rap = false → stuckOn w ≠ some 0x02) → (∃ w ∈ blockWarps s bid, stuckOn w = some 0x03) →
      stuckCode s bid = cDeadlockQueue) ∧
    ((∀ w ∈ blockWarps s bid, (w.rap = false → stuckOn w ≠ some 0x02) ∧ stuckOn w ≠ some 0x03) → stuckCode s bid = cDeadlockBarrier))

/-- R57 to R63: translation control. -/
def Obligations.TranslationRequestResult : Prop :=
  (∀ s : State, xRuns s 0 = true → xRangeBad s = false → ∃ t, exec .xlateInval s = .next t ∧ t.hub.xdone = some 0#4 ∧
    (∀ e, e ∈ t.m.tlb ↔ e ∈ s.m.tlb ∧ ¬(e.ctx = xCtx s ∧ rangesMeet e.base (2 ^ e.log) (xVa s) (65536 * xPages s) = true)) ∧
    (∀ e, e ∈ t.m.walks ↔ e ∈ s.m.walks ∧ ¬(e.ctx = xCtx s ∧ e.meets (xVa s) (65536 * xPages s) = true)) ∧
    (∀ w ∈ allWarps t, w.ctx = xCtx s → ∀ n : Fin 16, hSpace (w.h[n]).entry ≠ 1 → (w.h[n]).win = 0#41) ∧ t.m.cells = s.m.cells) ∧
  (∀ s : State, (∀ e ∈ s.m.tlb, e.base < 2 ^ 80) → xRuns s 1 = true → ∃ t, exec .xlateInvalctx s = .next t ∧ t.hub.xdone = some 0#4 ∧
    (∀ e, e ∈ t.m.tlb ↔ e ∈ s.m.tlb ∧ e.ctx ≠ xCtx s) ∧
    (∀ w ∈ allWarps t, w.ctx = xCtx s → ∀ n : Fin 16, hSpace (w.h[n]).entry ≠ 1 → (w.h[n]).win = 0#41) ∧ t.m.cells = s.m.cells) ∧
  (∀ s : State, xRangeBad s = true → (xRuns s 0 = true → exec .xlateInval s = .next (xEnd s 2#4)) ∧
    (xRuns s 2 = true → exec .xlateSplinter s = .next (xEnd s 2#4)) ∧ (xRuns s 3 = true → exec .xlateAttrchg s = .next (xEnd s 2#4)) ∧
    (xRuns s 4 = true → exec .xlatePerm s = .next (xEnd s 2#4))) ∧
  (∀ (s : State) (x : Ctx), xRuns s 2 = true → xRangeBad s = false → ctxOf s (xCtx s) = some x → pagesStall s.m x (xVa s) (xPages s) = false →
    (leavesOf s.m x (xEndVa s) (xPages s) (xVa s) = none → exec .xlateSplinter s = .next (xEnd s 2#4)) ∧
    ∀ (va : Nat) (l : Leaf) (ls : List (Nat × Leaf)), leavesOf s.m x (xEndVa s) (xPages s) (xVa s) = some ((va, l) :: ls) →
      (l.log = 16 → exec .xlateSplinter s = .next (xEnd s 7#4)) ∧
      (l.log ≠ 16 → tableFrame (xFrame s) = false → exec .xlateSplinter s = .next (xEnd s 4#4)) ∧
      (l.log ≠ 16 → tableFrame (xFrame s) = true → exec .xlateSplinter s = .next { s with
        m := writeChildren (setSpl s.m l) l.entry l.log (xFrame s)
        hub := { s.hub with
          xsplit := some ⟨l.pte, l.entry ||| (1#128 <<< 109), l.log, pageBase (xVa s) l.log, xFrame s⟩ } })) ∧
  (∀ (s : State) (x : Ctx) (ls : List (Nat × Leaf)), xRangeBad s = false → ctxOf s (xCtx s) = some x →
    pagesStall s.m x (xVa s) (xPages s) = false → leavesOf s.m x (xEndVa s) (xPages s) (xVa s) = some ls →
    (splintersOf s.m x (xVa s) (xEndVa s) = [] → ∀ u : State, u = { s with hub := { s.hub with xtodo := [] } } →
      (xRuns s 4 = true → exec .xlatePerm s = .next (xEnd (xShoot
        (rewriteLeaves u (fun e => withPerms e (s.hub.xarg.extractLsb' 0 4)) ls) (xVa s) (65536 * xPages s)) 0#4)) ∧
      (xRuns s 3 = true → (∀ p ∈ ls, offDevice (pteFrame p.2.entry) = false) → ∀ t : State, t = changeLeaves u ls →
        exec .xlateAttrchg s = .next (xEnd (xShoot t (xVa t) (65536 * xPages t)) 0#4) ∧
        (s.cmds = [] → s.fab.parked = [] → t = rewriteLeaves
          (mapWarps { u with m := (ls.flatMap fun p => framesOf p.2).foldl (markFrame (xAttr s) (xKey s)) s.m }
            (releaseReads (ls.flatMap fun p => framesOf p.2))) (fun e => withAttr e (xAttr s) (xKey s)) ls))) ∧
    (∀ (va log : Nat) (l : Leaf) (more : List (Nat × Nat)), splintersOf s.m x (xVa s) (xEndVa s) = (va, log) :: more →
      xRuns s 4 = true ∨ (xRuns s 3 = true ∧ ∀ p ∈ ls, offDevice (pteFrame p.2.entry) = false) →
      ∀ i : Instr, i = (if xRuns s 4 then Instr.xlatePerm else Instr.xlateAttrchg) →
      (xFrame s = 0 → exec i s = .next (xEnd s 6#4)) ∧
      (xFrame s ≠ 0 → (∃ k, k < (more.length + 1) ∧ tableFrame (xFrame s + 65536 * k) = false) → exec i s = .next (xEnd s 4#4)) ∧
      (xFrame s ≠ 0 → (∀ k, k < (more.length + 1) → tableFrame (xFrame s + 65536 * k) = true) → leafAt s.m x va = some l → l.log = log →
        exec i s = .next (xSplit { s with hub := { s.hub with xtodo := (withFrames (xFrame s) ((va, log) :: more)).tail } } l va (xFrame s))))) ∧
  (∀ (s : State) (k : Splinter), xGo s = true → s.hub.xsplit = some k →
    (pteRead s.m k.pte = k.entry → xOp s = 2 → ∃ t, exec .xlateRequestEnd s = .next t ∧ t.hub.xsplit = none ∧ t.hub.xdone = some 0#4 ∧
      t.m.cells = (ptePut (clearHeld s.m k.pte) k.pte (tablePointer k.frame)).cells ∧ (k.base, 2 ^ k.log) ∈ t.hub.xspans) ∧
    (pteRead s.m k.pte ≠ k.entry → ∃ t, exec .xlateRequestEnd s = .next t ∧ t.hub.xsplit = none ∧ t.hub.xdone = some 3#4 ∧
      t.m.cells = (ptePut (clearHeld s.m k.pte) k.pte (withoutSpl (pteRead s.m k.pte))).cells)) ∧
  (∀ (s : State) (ec : BitVec 4), xGo s = true → s.hub.xsplit = none → s.hub.xdone = some ec →
    (anyInFlight s (xCtx s) s.hub.xspans = true → exec .xlateRequestEnd s = .next s) ∧
    (anyInFlight s (xCtx s) s.hub.xspans = false → (xOp s = 3 → readsWoken s = false) →
      ∃ t, exec .xlateRequestEnd s = .next t ∧ t.hub.xdone = none ∧ t.hub.xspans = [] ∧ xGo t = false ∧ t.hub.xctl.extractLsb' 24 4 = ec ∧
        (ec = 0#4 → t.hub.xctl.getLsbD 30 = true) ∧ (ec ≠ 0#4 → t.hub.xctl.getLsbD 29 = true) ∧
        t.m = (if xOp s = 3 ∧ ec = 0#4 then (settleFrames s).m else s.m) ∧ t.w = s.w))

/-- R207 to R209: queues and contexts. -/
def Obligations.QueueRequestResult : Prop :=
  (∀ s : State, qctlRuns s 1 = true →
    (∀ t, enableQueue s (qctlQueue s) = .ok t → exec .queueEnable s = .next (qctlEnd t false)) ∧
    (enableQueue s (qctlQueue s) = .error true → exec .queueEnable s = .next (qctlEnd s true) ∧ (qctlEnd s true).hub.qctl.getLsbD 30 = true) ∧
    (enableQueue s (qctlQueue s) = .error false → exec .queueEnable s = .next s) ∧
    (queueBad (BitVec.ofNat 512 (hubTable s (bitsNat s.hub.qtbase 16 36 * 2 ^ 16 + 64 * (qctlQueue s).toNat) 64).2) = true →
      enableQueue s (qctlQueue s) = .error true)) ∧
  (∀ s : State, qctlRuns s 0 = true → ∃ t, exec .queueDisable s = .next t ∧ t.hub.qctl.getLsbD 31 = false ∧ t.m = s.m ∧
    ∀ q, q ∈ t.hub.queues ↔ q ∈ s.hub.queues ∧ q.num ≠ qctlQueue s) ∧
  (∀ s : State, ctxctlRuns s 0 = true → ∃ t, exec .ctxQuery s = .next t ∧ t.hub.stopped = s.hub.stopped ∧ t.hub.ctxctl.getLsbD 31 = false ∧
    (t.hub.ctxctl.getLsbD 30 = true ↔ ctxctlCtx s ∈ s.hub.stopped) ∧ t.m = s.m) ∧
  (∀ s : State, ctxctlRuns s 1 = true → ∃ t, exec .ctxResume s = .next t ∧ (∀ c, c ∈ t.hub.stopped ↔ c ∈ s.hub.stopped ∧ c ≠ ctxctlCtx s) ∧
    (∀ r ∈ t.hub.retained, r.ctx = ctxctlCtx s → r.faulted = false) ∧ t.hub.ctxctl.getLsbD 31 = false ∧ t.hub.ctxctl.getLsbD 30 = false ∧ t.m = s.m) ∧
  (∀ s : State, ctxctlRuns s 2 = true → ∃ t, exec .ctxStop s = .next t ∧ (∀ c, c ∈ t.hub.stopped ↔ c ∈ s.hub.stopped ∨ c = ctxctlCtx s) ∧
    t.hub.ctxctl.getLsbD 31 = false ∧ t.hub.ctxctl.getLsbD 30 = true ∧ t.m = s.m) ∧
  (∀ (s : State) (n : BitVec 10), (s.hub.queues.find? (fun q => q.num = n) = none → exec (.tailChange n) s = .next s) ∧
    ∀ q : SubQueue, s.hub.queues.find? (fun q => q.num = n) = some q →
      (∀ (t : State) (v : Nat), hubFetch s (ctxFor s (qCtx q.desc)) (qTailVa q.desc) 8 = .ok (t, v) →
        exec (.tailChange n) s = .next (if qSlots q.desc < (BitVec.ofNat 64 v - q.head).toNat then (failQueue t q cIllegalInstruction).getD t
          else putQueue t { q with tail := BitVec.ofNat 64 v })) ∧
      (∀ f : TrapInfo, hubFetch s (ctxFor s (qCtx q.desc)) (qTailVa q.desc) 8 = .error (some f) →
        exec (.tailChange n) s = .next ((faultQueue s q f).getD s)) ∧
      (hubFetch s (ctxFor s (qCtx q.desc)) (qTailVa q.desc) 8 = .error none → exec (.tailChange n) s = .next s))

/-- R453, R168, R405, R460, R464, R57: register writes. -/
def Obligations.RegisterEventResult : Prop :=
  (∀ (s : State) (v : BitVec 64), exec (.fmwrite 0x3000#16 v) s = exec (.ckptCfg v) s ∧ exec (.ckptCfg v) s = .next (
    if v.extractLsb' 48 16 = 0#16 ∧ v.extractLsb' 14 18 = 0#18 ∧ 2 ≤ (v.extractLsb' 32 16).toNat ∧ (v.extractLsb' 32 16).toNat ≤ 1000 ∧
      5 ≤ (v.extractLsb' 0 14).toNat ∧ (v.extractLsb' 0 14).toNat ≤ 10000 then { s with
        hub := { s.hub with ckptNext := v }
        fab := { s.fab with outbox := s.fab.outbox ++ if s.fab.fm then (domainOthers s.fab).map (fun d => fmMessage d 0x3000 v) else [] } }
    else { s with hub := { s.hub with ckptErr := true } })) ∧
  (∀ (s : State) (v : BitVec 64), ∃ t, exec (.fabCfg v) s = .next t ∧
    (v.extractLsb' 21 42 = 0#42 → v.extractLsb' 12 4 = 0#4 → v.extractLsb' 5 3 = 0#3 → (v.extractLsb' 16 5).toNat ≤ 16 →
      t.fab.rnrlimit = v.extractLsb' 16 5 ∧ t.fab.adth = v.extractLsb' 8 4 ∧ (v.getLsbD 63 = true → t.fab.cfgErr = false)) ∧
    (¬(v.extractLsb' 21 42 = 0#42 ∧ v.extractLsb' 12 4 = 0#4 ∧ v.extractLsb' 5 3 = 0#3 ∧ (v.extractLsb' 16 5).toNat ≤ 16) → t.fab.rnrlimit = s.fab.rnrlimit ∧ t.fab.adth = s.fab.adth ∧ t.fab.cfgErr = true) ∧
    t.hub = s.hub ∧ t.m = s.m ∧ t.w = s.w) ∧
  (∀ (s : State) (v : BitVec 64), exec (.pwrCfg v) s = .next { s with hub := (
    if 1200 ≤ (v.extractLsb' 0 12).toNat ∧ (v.extractLsb' 0 12).toNat ≤ 2400 then { s.hub with cap := v.extractLsb' 0 12 }
    else { s.hub with capErr := true }) }) ∧
  (∀ (s : State) (v : BitVec 64), exec (.tlmSel v) s = .next { s with hub := { s.hub with
    tlmSel := v, tlmData := counterOf s.hub (v.extractLsb' 0 16) (v.extractLsb' 32 32) } }) ∧
  (∀ (s : State) (v : BitVec 64),
    exec (.registerWrite 0x1000#16 v) s = .next { s with hub := { s.hub with ctxbase := v } } ∧
    exec (.registerWrite 0x1008#16 v) s = .next { s with hub := { s.hub with qtbase := v } } ∧
    exec (.registerWrite 0x1020#16 v) s = .next { s with hub := { s.hub with gangcfg := v } } ∧
    (xGo s = false → exec (.registerWrite 0x2000#16 v) s = .next { s with hub := { s.hub with xva0 := v } } ∧
      exec (.registerWrite 0x2008#16 v) s = .next { s with hub := { s.hub with xva1 := v } } ∧
      exec (.registerWrite 0x2010#16 v) s = .next { s with hub := { s.hub with xcnt := v } } ∧
      exec (.registerWrite 0x2018#16 v) s = .next { s with hub := { s.hub with xarg := v } }) ∧
    (xGo s = true → ∀ off : BitVec 16, off = 0x2000#16 ∨ off = 0x2008#16 ∨ off = 0x2010#16 ∨ off = 0x2018#16 →
      exec (.registerWrite off v) s = .next { s with hub := { s.hub with xctl := setBits s.hub.xctl 28 1 1#1 } }) ∧
    (∀ off : BitVec 16, off = 0x0000#16 ∨ off = 0x1038#16 ∨ off = 0x1040#16 ∨ off = 0x4000#16 ∨ off = 0xC008#16 →
      exec (.registerWrite off v) s = .next s)) ∧
  (∀ (s : State) (v : BitVec 64) (n : BitVec 10),
    (∃ t, exec (.fmwrite 0x4000#16 v) s = .next t ∧ t.w = s.w ∧ t.fab = { s.fab with
      standby := v.getLsbD 35, mate := v.getLsbD 34, bridge := v.getLsbD 33, fm := v.getLsbD 32, ident := v.extractLsb' 16 10 }) ∧
    (∃ t, exec (.fmwrite 0x4010#16 v) s = .next t ∧ t.w = s.w ∧ t.m = s.m ∧ t.fab = { s.fab with
      buddy := v.extractLsb' 48 10, fmid := v.extractLsb' 32 10, brid := v.extractLsb' 16 10, domain := v.extractLsb' 0 10 } ∧
      t.hub.rebuild = if v.extractLsb' 48 10 = s.fab.buddy ∨ v.extractLsb' 48 10 = 0x3FF#10 then s.hub.rebuild else true) ∧
    (∃ t, exec (.fmwrite (0x6000#16 + 8#16 * n.setWidth 16) v) s = .next t ∧ routeOf t.fab n = v ∧ ∀ k, k ≠ n → routeOf t.fab k = routeOf s.fab k) ∧
    (n.toNat ≤ 992 → substitutes s (0x8000 + 8 * n.toNat) v = none → ∃ t, exec (.fmwrite (0x8000#16 + 8#16 * n.setWidth 16) v) s = .next t ∧ locOf t.fab n = v ∧
      ∀ k, k ≠ n → locOf t.fab k = locOf s.fab k))

/-- R210 to R222, R466: the pool of nodes. -/
def Obligations.CardAndDispatchResult : Prop :=
  (∀ (s t u w : State) (q : SubQueue) (c : Nat) (p : Place) (bad : Option TrapInfo), hubHeld s.hub = false → acceptPauses s = false →
    nextQueue s = some q →
    hubFetch s (ctxFor s (qCtx q.desc)) (qRing q.desc + 256 * (q.head.toNat % qSlots q.desc)) 256 = .ok (t, c) →
    hubPlace t (ctxFor s (qCtx q.desc)) .store (qHeadVa q.desc) = .ok (u, p) →
    checkCard u (ctxFor s (qCtx q.desc)) (BitVec.ofNat 2048 c) = some (w, bad) →
    ∃ v, v = enterCard (nextSeq w).1 q (nextSeq w).2 (BitVec.ofNat 2048 c) bad ∧
      exec .cardAccept s = .next (placePut { v with hub := { v.hub with turn := q.num + 1#10, queues :=
        (v.hub.queues.map fun r => if r.num = q.num then { r with head := q.head + 1#64 } else r) } } p (bytesOfNat 8 (q.head + 1#64).toNat))) ∧
  (∀ (s t u : State) (q : SubQueue) (c : Nat) (p : Place), hubHeld s.hub = false → acceptPauses s = false → nextQueue s = some q →
    hubFetch s (ctxFor s (qCtx q.desc)) (qRing q.desc + 256 * (q.head.toNat % qSlots q.desc)) 256 = .ok (t, c) →
    hubPlace t (ctxFor s (qCtx q.desc)) .store (qHeadVa q.desc) = .ok (u, p) →
    checkCard u (ctxFor s (qCtx q.desc)) (BitVec.ofNat 2048 c) = none → exec .cardAccept s = .next u) ∧
  (∀ (s : State) (q : SubQueue) (f : TrapInfo), hubHeld s.hub = false → acceptPauses s = false → nextQueue s = some q →
    hubFetch s (ctxFor s (qCtx q.desc)) (qRing q.desc + 256 * (q.head.toNat % qSlots q.desc)) 256 = .error (some f) →
    exec .cardAccept s = .next ((faultQueue s q f).getD s)) ∧
  (∀ s : State, hubHeld s.hub = true ∨ acceptPauses s = true ∨ nextQueue s = none → exec .cardAccept s = .next s) ∧
  (∀ (s : State) (c : BitVec 16), exec (.semLineChange c) s = .next (refreshReady
    ((s.hub.nodes.filter fun n => n.ctx = c).foldl (fun u n => tryWait (tryWait u n.seq 0) n.seq 1) s))) ∧
  (∀ (s : State) (n : Node), nodeOf s n.seq = some n → n.stopped = false →
    (n.latched0 = false → evalWait s (ctxFor s n.ctx) n.card 0 = .ok true → tryWait s n.seq 0 = putNode s { n with latched0 := true }) ∧
    (n.latched1 = false → evalWait s (ctxFor s n.ctx) n.card 1 = .ok true → tryWait s n.seq 1 = putNode s { n with latched1 := true }) ∧
    (n.latched0 = false → evalWait s (ctxFor s n.ctx) n.card 0 = .ok false → tryWait s n.seq 0 = s)) ∧
  (∀ (s : State) (n : Node), hubHeld s.hub = false → dispatchChoice s = some n → exec .nodeDispatch s = .next (dispatchNode s n) ∧
    n ∈ s.hub.nodes ∧ mayDispatch s n = true ∧ nodeFits s n = true ∧
    ∀ m ∈ s.hub.nodes, mayDispatch s m = true → nodeFits s m = true → nodeRank s m < nodeRank s n →
      ∃ h ∈ s.hub.nodes, mayDispatch s h = true ∧ holdsBack s h m = true) ∧
  (∀ (s t : State) (n : Node), t = countDispatch (beginNode s n) n →
    (cardKind n.card ≠ 0 → dispatchNode s n =
      startCmds { t with cmds := t.cmds ++ [nodeCmd s n], hub := { t.hub with nextCmd := t.hub.nextCmd + 1 } }) ∧
    (∀ core, cardKind n.card = 0 → n.leader = none → cardGcount n.card = 0 → placeOf s (cardShape n.card) = some core →
      dispatchNode s n = (launchBlock t n n.seq n.dispatched core []).getD s)) ∧
  (∀ s : State, hubHeld s.hub = true ∨ dispatchChoice s = none → exec .nodeDispatch s = .next s) ∧
  (∀ s : State, exec .priorityAging s = .next { s with hub := { s.hub with nodes :=
    (s.hub.nodes.map fun n => { n with prio :=
      (if waitsForUnits s n then BitVec.ofNat 3 (min 7 ((cardPrio n.card).toNat + (wall s - n.readySince) / 1000000)) else n.prio) }) } }) ∧
  (∀ (s : State) (n : Node), nodeOf s n.seq = some n → nodeOver s n = true → hubSealed s.hub = false →
    (∀ u, n.fcode ≠ 0#8 ∨ n.leader.isSome = true ∨ ((cardSignal n.card 0).1 = false ∧ (cardSignal n.card 1).1 = false) → sealNode s n = some u →
      ∃ t, t = refreshReady u ∧ exec (.nodeComplete n.seq) s = .next t ∧ nodeOf t n.seq = none ∧ (n.fcode ≠ 0#8 → n.ctx ∈ t.hub.stopped)) ∧
    (∀ u v, n.fcode = 0#8 → n.leader = none → applySignals s (ctxFor s n.ctx) n.card = .ok u → sealNode u n = some v →
      exec (.nodeComplete n.seq) s = .next (refreshReady v)) ∧
    (∀ f, n.fcode = 0#8 → n.leader = none → applySignals s (ctxFor s n.ctx) n.card = .error (some f) →
      exec (.nodeComplete n.seq) s = .next (refreshReady (endFaulted s n f)))) ∧
  (∀ (s : State) (n : Node), nodeOf s n.seq = some n → nodeOver s n = false ∨ hubSealed s.hub = true → exec (.nodeComplete n.seq) s = .next s) ∧
  (∀ (s : State) (n : Node), nodeOf s n.seq = some n →
    (watchdogDue s n = true → exec (.nodeWatchdog n.seq) s =
      .next (stopRunning (faultNode s (ctxFor s n.ctx) n.seq { code := cTimer, detail := 0x01 }) n)) ∧
    (watchdogDue s n = false → exec (.nodeWatchdog n.seq) s = .next s)) ∧
  (∀ (s : State) (q : BitVec 64), nodeOf s q = none → exec (.nodeComplete q) s = .next s ∧ exec (.nodeWatchdog q) s = .next s)

/-- R223: the launch of a gang. -/
def Obligations.GangEventResult : Prop :=
  (∀ (s : State) (n : Node), nodeOf s n.seq = some n → gangWaits s n = true → hubHeld s.hub = false →
    ∀ i : Instr, (i = .gangReserve n.seq ∧ n.attempt = 0 ∧ ∃ m, dispatchChoice s = some m ∧ m.seq = n.seq) ∨
      (i = .gangRetry n.seq ∧ 0 < n.attempt ∧ n.awaiting = [] ∧ ∃ due, n.timer = some due ∧ due ≤ wall s) →
    (∀ (t : State) (ms : List (BitVec 16)) (ds : List (BitVec 10)), gangMembers s (ctxFor s n.ctx) n.card = .ok (t, ms) →
      ds = (memberDevices ms).eraseDups → exec i s = .next (ds.foldl
        (fun v d => gangMessage v 0x27 d n.seq n.ctx (bytesOfNat 256 n.card.toNat) (.reserve v.fab.ident n.seq n.ctx n.card))
        (onNode t n.seq fun m => { m with
          attempt := m.attempt + 1, awaiting := ds, timer := some (wall t + gangTimeoutNs t), gangDevs := memberDevices ms, passedSince := none }))) ∧
    (∀ f, gangMembers s (ctxFor s n.ctx) n.card = .error (some f) → exec i s = .next (endFaulted s n f)) ∧
    (gangMembers s (ctxFor s n.ctx) n.card = .error none → exec i s = .next s)) ∧
  (∀ (s : State) (n : Node) (d : BitVec 10) (due : Nat), nodeOf s n.seq = some n → n.committed = false → d ∈ n.awaiting → n.timer = some due → wall s < due →
    ((∃ e ∈ n.awaiting, e ≠ d) → exec (.gangAcknowledgement n.seq d) s =
      .next (onNode s n.seq fun m => { m with awaiting := n.awaiting.filter (· ≠ d) })) ∧
    ((∀ e ∈ n.awaiting, e = d) → ∃ t, t = beginNode
        (onNode (takeSeq s).1 n.seq fun m => { m with awaiting := [], timer := none, committed := true })
        { n with awaiting := [], timer := none, committed := true } ∧
      exec (.gangAcknowledgement n.seq d) s = .next (tellMembers t n 0x28 (.gcommit t.fab.ident n.seq)))) ∧
  (∀ (s t : State) (n : Node) (due : Nat), nodeOf s n.seq = some n → n.committed = false → n.awaiting ≠ [] → n.timer = some due → due ≤ wall s →
    t = tellMembers (takeSeq s).1 n 0x29 (.grelease s.fab.ident n.seq) →
    (n.attempt < 4 → exec (.gangTimeout n.seq) s =
      .next (onNode t n.seq fun m => { m with awaiting := [], timer := some (wall t + n.attempt * gangTimeoutNs t) })) ∧
    (4 ≤ n.attempt → exec (.gangTimeout n.seq) s =
      .next (endFaulted t { n with awaiting := [], timer := none } { code := cGangAbort, detail := 0x00 }))) ∧
  (∀ (s : State) (l : BitVec 10) (seq : BitVec 64) (c : BitVec 16) (card : BitVec 2048), exec (.reserve l seq c card) s =
    .next (serveReservation { s with hub := { s.hub with
      waiting := s.hub.waiting ++ [{ leader := l, seq := seq, ctx := c, card := card, journal := 0#64, acked := false }] } }) ∧
    (hubHeld s.hub = false → s.hub.reservation = none → s.hub.waiting = [] → ∃ t r, exec (.reserve l seq c card) s = .next t ∧
      t.hub.reservation = some r ∧ r.leader = l ∧ r.seq = seq ∧ r.ctx = c ∧ r.card = card ∧ r.journal = s.hub.jtail ∧ t.hub.waiting = [])) ∧
  (∀ (s : State) (r : Reservation), s.hub.reservation = some r →
    (∃ t, exec (.gcommit r.leader r.seq) s = .next t ∧ t.hub.reservation = none ∧
      (∀ b ∈ allBlocks t, b.ctx = r.ctx → b.node = r.node s → b.started = true) ∧
      ∀ n, nodeOf s r.journal = some n → ∃ k, nodeOf t r.journal = some k ∧ k.committed = true) ∧
    (∃ t, exec (.grelease r.leader r.seq) s = .next t ∧ t.hub.reservation = none ∧ nodeOf t r.journal = none ∧ r.journal ∈ t.hub.gaps)) ∧
  (∀ (s : State) (l : BitVec 10) (seq : BitVec 64), reservationOf s l seq = none →
    exec (.gcommit l seq) s = .next s ∧
    exec (.grelease l seq) s = .next { s with hub := { s.hub with
      waiting := s.hub.waiting.filter fun r => !(r.leader = l && r.seq = seq) } })

/-- R394 to R398, R112, R113, R428: contexts leaving and returning, and the migration engine. -/
def Obligations.ContextEventResult : Prop :=
  (∀ (s t u : State) (c : BitVec 16), hubHeld s.hub = false → ctxResident s c = true → ctxBlocks s c ≠ [] →
    ((ctxFor s c).leaving = true ∨ switchDue s c = true) → t = onCtx s c (fun x => { x with leaving := true }) → u = gatherBlocks t c →
    (ctxAtRest t c = false → exec (.contextSwitchOut c) s = .next t) ∧
    (ctxAtRest t c = true → blocksGathered u c = false → exec (.contextSwitchOut c) s = .next u) ∧
    (ctxAtRest t c = true → blocksGathered u c = true → exec (.contextSwitchOut c) s = .next (leaveCores u c) ∧
      ∀ x ∈ allCtxs (leaveCores u c), x.num = c → x.resident = false ∧ x.leaving = false)) ∧
  (∀ (s : State) (c : BitVec 16), hubHeld s.hub = true ∨ ctxResident s c = false ∨ ((ctxFor s c).leaving = false ∧ switchDue s c = false) →
    exec (.contextSwitchOut c) s = .next s) ∧
  (∀ (s : State) (c : BitVec 16), (hubHeld s.hub = false → restoreDue s c = true →
      (∀ t, restoreContext s c = some t → exec (.contextRestore c) s = .next t) ∧
      (restoreContext s c = none → exec (.contextRestore c) s = .next s)) ∧
    (hubHeld s.hub = true ∨ restoreDue s c = false → exec (.contextRestore c) s = .next s)) ∧
  (∀ (s : State) (x : Ctx), ctxOf s x.num = some x →
    (hubHeld s.hub = false → x.resident = true → exec (.migrationRequest x.num) s = .next (asHub s x.num fun u => (serveRing x.num u, ())).1) ∧
    (hubHeld s.hub = true ∨ x.resident = false → exec (.migrationRequest x.num) s = .next s)) ∧
  (∀ (s : State) (d : BitVec 2) (st : BitVec 16), (∀ m ∈ s.hub.moves, awaitsDrive s.m d m = false) → exec (.nvmeCompletion d st) s = .next s) ∧
  (∀ (s : State) (d : BitVec 2) (st : BitVec 16) (mv : Move), s.hub.moves.find? (awaitsDrive s.m d) = some mv →
    exec (.nvmeCompletion d st) s = .next (asHub s mv.ctx fun u =>
      let a := answerMove mv (st = 0#16) u
      let q := continueMove u mv (if a.2.2 = .pending then runMove 8 a.2.1 a.1 else a)
      (if q.2 = .pending then q.1 else if mv.cmd.isNone then ringPop q.1 q.1.x 0 else putMove q.1 mv (some { mv with phase := q.2.kept }), ())).1) ∧
  (∀ (s : State) (mv : Move),
    (mv.phase = .nvmeRead → answerMove mv true s = (s, { mv with
      image := cellBytes (driveCells s.m) (driveKey (locDrive (kvLoc mv.old)) (locByte (kvLoc mv.old))) (32 * kvLen mv.old), phase := .write }, .pending)) ∧
    (mv.phase = .nvmeRead → answerMove mv false s = (s, { mv with phase := .spoil }, .pending)) ∧
    (mv.phase = .nvmeWrite → answerMove mv true s = (s, { mv with phase := .publish }, .pending)))

/-- R168 to R175: intervals. -/
def Obligations.CheckpointEventResult : Prop :=
  (∀ s : State, (cutDue s = true → exec .intervalCut s = .next (issueCut s)) ∧ (cutDue s = false → exec .intervalCut s = .next s) ∧
    issueCut s = tellDomain { s with hub := { s.hub with lastCut := wall s, cutsDone := [], cutNumber := s.m.interval } } 0x20 s.m.interval (.cut s.m.interval)) ∧
  (∀ s : State, (undoFull s = true → s.fab.fm = true → exec .undoLogFull s = .next (issueCut s)) ∧
    (undoFull s = true → s.fab.fm = false → s.hub.lastCut + 1000000 ≤ wall s → exec .undoLogFull s = .next { s with
      hub := { s.hub with lastCut := wall s }
      fab := { s.fab with outbox := s.fab.outbox ++ [shortMessage 0x20 s.fab.fmid 0#16 0#16 (bytesOfNat 8 s.m.interval)] } }) ∧
    (undoFull s = true → s.fab.fm = false → wall s < s.hub.lastCut + 1000000 → exec .undoLogFull s = .next s) ∧
    (undoFull s = false → exec .undoLogFull s = .next s)) ∧
  (∀ (s : State) (n : Nat), (n = s.m.interval → s.hub.cutting = false → (s.fab.fm = false ∨ s.hub.cutNumber = n) →
      exec (.cut n) s = .next { s with hub := { s.hub with cutting := true, cutReported := false } }) ∧
    (n = s.m.interval → s.hub.cutting = false → s.fab.fm = true → s.hub.cutNumber ≠ n → exec (.cut n) s = .next (issueCut s)) ∧
    (n ≠ s.m.interval ∨ s.hub.cutting = true → exec (.cut n) s = .next s)) ∧
  (∀ (s : State) (n : Nat) (d : BitVec 10), (s.fab.fm = false ∨ s.hub.cutting = false ∨ n ≠ s.m.interval → exec (.cutdone n d) s = .next s) ∧
    (s.fab.fm = true → s.hub.cutting = true → d ∉ s.hub.cutsDone →
      ((∃ e ∈ domainMembers s.fab, e ≠ d ∧ e ∉ s.hub.cutsDone) →
        exec (.cutdone s.m.interval d) s = .next { s with hub := { s.hub with cutsDone := d :: s.hub.cutsDone } }) ∧
      ((∀ e ∈ domainMembers s.fab, e = d ∨ e ∈ s.hub.cutsDone) → exec (.cutdone s.m.interval d) s =
        .next (tellDomain { s with hub := { s.hub with cutsDone := d :: s.hub.cutsDone } } 0x22 s.m.interval (.resume s.m.interval))))) ∧
  (∀ (s : State) (n : Nat), (s.hub.cutting = false ∨ s.hub.cutReported = false ∨ n ≠ s.m.interval → exec (.resume n) s = .next s) ∧
    (s.hub.cutting = true → s.hub.cutReported = true → ∃ t, exec (.resume s.m.interval) s = .next t ∧
      t.m.interval = s.m.interval + 1 ∧ t.hub.cutting = false ∧ t.hub.ckptcfg = s.hub.ckptNext ∧ t.hub.votesDue = s.hub.votesDue ++ [s.m.interval] ∧
      t.m.cells = s.m.cells ∧ t.w = s.w)) ∧
  (∀ (s t : State) (n : Nat) (d : BitVec 10), (s.fab.fm = false → ∀ b, exec (.vote n d b) s = .next s) ∧ (s.fab.fm = true →
    t = { s with hub := { s.hub with votes := (n, d) :: s.hub.votes.filter (· ≠ (n, d)), frail := s.hub.frail.filter (· ≠ d) } } →
    exec (.vote n d false) s = .next (tellDomain s 0x25 s.hub.lastCommit (.abort ⟨s.hub.lastCommit, false⟩)) ∧
    ((n ≠ s.hub.lastCommit + 1 ∨ s.hub.rebuild = true ∨ ∃ e ∈ domainMembers s.fab, e ≠ d ∧ (n, e) ∉ s.hub.votes) → exec (.vote n d true) s = .next t) ∧
    (n = s.hub.lastCommit + 1 → s.hub.rebuild = false → (∀ e ∈ domainMembers s.fab, e = d ∨ (n, e) ∈ s.hub.votes) →
      exec (.vote n d true) s = .next (tellDomain t 0x24 n (.commit n))))) ∧
  (∀ (s : State) (n : Nat), n = s.hub.lastCommit + 1 → n < s.m.interval → ∃ t, exec (.commit n) s = .next t ∧ t.hub.lastCommit = n ∧
    (∀ k ∈ t.m.marks, n < k.2) ∧ (∀ r ∈ t.m.inputs, n < r.interval) ∧ (∀ o ∈ t.m.outputs, n < o.1) ∧ (∀ a ∈ t.hub.accepted, n < a.interval)) ∧
  (∀ (s : State) (n : Nat), n ≠ s.hub.lastCommit + 1 ∨ s.m.interval ≤ n → exec (.commit n) s = .next s)

/-- R171, R177 to R182, R407: recovery. -/
def Obligations.RecoveryEventResult : Prop :=
  (∀ s : State, exec (.abort ⟨s.hub.lastCommit, false⟩) s = .next (rollBack s) ∧ ∃ t, exec (.abort ⟨s.hub.lastCommit, true⟩) s = .next t ∧
    t = endDomain (rollBack s) ∧ (∀ x ∈ allCtxs (rollBack s), x.num ∈ t.hub.stopped) ∧ (∀ n ∈ t.hub.nodes, n.fcode ≠ 0#8) ∧ t.hub.awaited = []) ∧
  (∀ (s : State) (n : Nat) (l : Bool), n ≠ s.hub.lastCommit → exec (.abort ⟨n, l⟩) s = .next s) ∧
  (∀ (m : Mem) (n : Nat), (undoMem m n).undo = [] ∧ (undoMem m n).marks = [] ∧ (undoMem m n).ip = [] ∧ (undoMem m n).tlb = [] ∧
    (undoMem m n).interval = n + 1 ∧ ∀ o ∈ (undoMem m n).outputs, o.1 ≤ n) ∧
  (∀ (s t : State) (l : BitVec 45), t = count s 0x0003#16 0#32 1 →
    exec (.uncorrectableError l) s = .next (voteUnsound (
      if inMirror l.toNat then mirrorStruck t l.toNat else { t with m := { t.m with bad := l.toNat :: t.m.bad.filter (· ≠ l.toNat) } })) ∧
    ∃ u, exec (.uncorrectableError l) s = .next u ∧ u.hub.sound = false) ∧
  (∀ s : State, (beatDue s = true ↔ s.fab.ident ≠ 0x3FF#10 ∧ s.hub.fatal = false ∧ 1000000 ≤ wall s - s.hub.lastBeat) ∧
    (beatDue s = false → exec .heartbeatTick s = .next s) ∧
    (beatDue s = true → s.fab.fm = false → s.fab.fmid ≠ s.fab.ident → exec .heartbeatTick s = .next { s with
      hub := { s.hub with lastBeat := wall s }
      fab := { s.fab with outbox := s.fab.outbox ++ [shortMessage 0x26 s.fab.fmid 0#16 0#16 (bytesOfNat 8 0)] } })) ∧
  (∀ (s : State) (d : BitVec 10),
    (s.fab.fm = true → exec (.heartbeat ⟨d, 0#2⟩) s =
      .next { s with hub := { s.hub with beats := (d, wall s) :: s.hub.beats.filter fun b => b.1 ≠ d } }) ∧
    (s.fab.fm = false → exec (.heartbeat ⟨d, 0#2⟩) s = .next s) ∧
    exec (.heartbeat ⟨d, 1#2⟩) s = .next { s with hub := { s.hub with fatals := d :: s.hub.fatals.filter (· ≠ d) } }) ∧
  (∀ (s : State) (d : BitVec 10), s.fab.fm = true → present s.fab d = true → d ≠ s.fab.ident →
    d ∈ s.hub.fatals ∨ bitsNat s.hub.ckptcfg 32 16 * 1000000 ≤ wall s - ((s.hub.beats.find? fun b => b.1 = d).map (·.2)).getD 0 →
    deathDue s d = true) ∧
  (∀ (s : State) (d : BitVec 10), deathDue s d = true → ∃ t u, exec (.deviceDeclaredDead d) s = .next t ∧ t = tellAbort u (imageLost s d) ∧
    (d.toNat ≤ 992 → locIncarn t.fab d = locIncarn s.fab d + 1#16 ∧ present t.fab d = false) ∧ (∀ e ∈ t.m.dir, e.agent / 4 ≠ d.toNat) ∧
    (∀ e ∈ t.m.bridgeDir, e.agent / 4 ≠ d.toNat) ∧ ∀ k ∈ t.fab.multicasts, d ∉ k.members) ∧
  (∀ (s : State) (d : BitVec 10), deathDue s d = false → exec (.deviceDeclaredDead d) s = .next s) ∧
  (∀ (s : State) (d v : BitVec 10) (i : BitVec 16), s.fab.standby = true → s.fab.vertex = v → ∃ t, exec (.standbySubstitute d v i) s = .next t ∧
    t.fab.ident = d ∧ t.fab.standby = false ∧ t.hub.incarn = i ∧ t.hub.rebuild = true ∧ t.hub.awaited = [d] ∧ t.m.ip = [] ∧ t.m.dir = [] ∧
    t.m.tlb = [] ∧ t.m.frames = [] ∧ t.m.keyFull = 1#128 ∧ locVertex t.fab d = v ∧ locIncarn t.fab d = i ∧ present t.fab d = true) ∧
  (∀ (s : State) (d v : BitVec 10) (i : BitVec 16), s.fab.standby = false ∨ s.fab.vertex ≠ v → ∃ t, exec (.standbySubstitute d v i) s = .next t ∧
    t.fab.ident = s.fab.ident ∧ d ∉ t.hub.awaited) ∧
  (∀ s : State, s.hub.mirrorPending = [] → (∀ q ∈ s.hub.mirrorQueue, hasAux q.2.aux auxCopy = false) → s.fab.ident ∉ s.hub.awaited →
    exec .rebuildDone s = .next (castVote { s with hub := { s.hub with rebuild := false } })) ∧
  (∀ (s : State) (d : BitVec 10) (f : BitVec 36) (o st : BitVec 16) (x : BitVec 1024), hasAux st auxAgain = false → hasAux st auxLoad = false →
    hasAux st auxOwner = false → hasAux st auxCopy = false →
    inReserved (128 * (512 * f.toNat + o.toNat / 128)) = false → ∃ t, exec (.mirror d f o ⟨x, st⟩) s = .next t ∧
      { src := d, line := 512 * f.toNat + o.toNat / 128, data := x, state := st &&& 0x0FFE#16 } ∈ t.hub.mirrorNew ∧ t.hub.mirrorOld = s.hub.mirrorOld ∧ t.m = s.m ∧
      t.fab.outbox = s.fab.outbox ++ if (512 * f.toNat + o.toNat / 128) % 512 = 511 then
        [{ mop := 0x2B, dst := d, tag := 0#16, addr := BitVec.ofNat 80 ((512 * f.toNat + o.toNat / 128) / 512 * 512), aux := 0#16, body := [] }] else []) ∧
  (∀ (s : State) (f : BitVec 36), exec (.mirrorack f) s =
    .next (castVote { s with hub := { s.hub with mirrorPending := s.hub.mirrorPending.erase f.toNat } }))

/-- R455 to R462: boot, security, power and cooling. -/
def Obligations.SecurityPowerResult : Prop :=
  (∀ s : State, s.hub.stage = 0#4 → s.hub.fail = false →
    exec (.powerGood true) s = .next { s with
      m := { s.m with keyFull := s.m.keyFull ||| 1#128 }
      hub := (if s.hub.flow then { s.hub with stage := 5#4, bootWaits := false } else { s.hub with stage := 4#4, bootWaits := true }) } ∧
    exec (.powerGood false) s = .next (if failsLate s.m then
        { s with m := { s.m with keyFull := s.m.keyFull ||| 1#128, free := s.m.free + 1 }, hub := { s.hub with stage := 3#4, fail := true } }
      else { s with m := { s.m with free := s.m.free + 1 }, hub := { s.hub with stage := 1#4, fail := true } })) ∧
  (∀ (s : State) (b : Bool), s.hub.stage ≠ 0#4 ∨ s.hub.fail = true → exec (.powerGood b) s = .next s) ∧
  (∀ s : State, exec .flowSignalAsserted s = .next { s with hub :=
    (if s.hub.bootWaits then { s.hub with flow := true, stage := 5#4, bootWaits := false } else { s.hub with flow := true }) }) ∧
  (∀ (s : State) (c : BitVec 8) (b : List (BitVec 8)),
    (s.hub.fail = false ∨ c = 0x84 ∨ c = 0xE1 ∨ c = 0xE0 → exec (.spdm c b) s =
      .next { s with hub := { s.hub with replies := s.hub.replies ++ [Config.spdmAnswer c b] } }) ∧
    (s.hub.fail = true → c ≠ 0x84 → c ≠ 0xE1 → c ≠ 0xE0 → exec (.spdm c b) s = .next s)) ∧
  (∀ (s : State) (k : BitVec 7) (v : BitVec 512), s.hub.fail = false → k ≠ 0#7 → s.m.keyFull.getLsbD k.toNat = false →
    ∃ t, exec (.keyset k v true) s = .next t ∧ (∀ n : BitVec 7, t.m.keyFull.getLsbD n.toNat = (s.m.keyFull.getLsbD n.toNat || n = k)) ∧
      t.hub.replies = s.hub.replies ++ [[0x01, k.setWidth 8]] ∧ t.m.cells = s.m.cells) ∧
  (∀ (s : State) (k : BitVec 7) (v : BitVec 512) (a : Bool), s.hub.fail = false → (a = false ∨ k = 0#7 ∨ s.m.keyFull.getLsbD k.toNat = true) →
    exec (.keyset k v a) s = .next { s with hub := { s.hub with replies := s.hub.replies ++ [[0x7F]] } }) ∧
  (∀ (s : State) (k : BitVec 7), s.hub.fail = false → k ≠ 0#7 → exec (.keyerase k true) s =
    .next { s with m := { s.m with outputs := s.m.outputs ++ [(s.m.interval, .keyEraseReply k)] } }) ∧
  (∀ (s : State) (k : BitVec 7) (a : Bool), s.hub.fail = false → (a = false ∨ k = 0#7) →
    exec (.keyerase k a) s = .next { s with hub := { s.hub with replies := s.hub.replies ++ [[0x7F]] } }) ∧
  (∀ (s : State) (x : Bool) (c : BitVec 8) (b : List (BitVec 8)), exec (.mctpMessage 0x05 x (c :: b)) s = exec (.spdm c b) s ∧
    exec (.mctpMessage 0x7E false (0x01 :: b)) s = .next s ∧
    (s.hub.fail = false → exec (.mctpMessage 0x7E true (0x01 :: b)) s = exec (.pwrCfg (BitVec.ofNat 64 (natOfBytes (b.take 8)))) s)) ∧
  (∀ (s : State) (k : BitVec 8) (x : Bool) (b : List (BitVec 8)), k ≠ 0x00 → k ≠ 0x05 → k ≠ 0x06 → k ≠ 0x7E →
    exec (.mctpMessage k x b) s = .next (count s 0x0033#16 0#32 1)) ∧
  (∀ (s : State) (x : Bool) (b : List (BitVec 8)), exec (.mctpMessage 0x00 x b) s =
    .next { s with hub := { s.hub with replies := s.hub.replies ++ [Config.mctpAnswer 0x00 b] } }) ∧
  (∀ (s : State) (a t : BitVec 12), (s.hub.cap.toNat < a.toNat ∨ 840 ≤ t.toNat) →
    exec (.throttle a t) s = .next { s with hub := { s.hub with avg := a, tmax := t, thr := decide (s.hub.cap.toNat < a.toNat), hot := decide (840 ≤ t.toNat) } }) ∧
  (∀ (s : State) (a t : BitVec 12), a.toNat ≤ s.hub.cap.toNat → t.toNat < 840 →
    exec (.throttleClear a t) s = .next { s with hub := { s.hub with avg := a, tmax := t, thr := false, hot := false } }) ∧
  (∀ (s : State) (a t : BitVec 12), ((s.hub.cap.toNat < a.toNat ∨ 840 ≤ t.toNat) → exec (.throttleClear a t) s = .next s) ∧
    (a.toNat ≤ s.hub.cap.toNat → t.toNat < 840 → exec (.throttle a t) s = .next s)) ∧
  (∀ (s : State) (t : BitVec 12), (920 ≤ t.toNat → ∃ u, exec (.thermalFatal t) s = .next u ∧ u.hub.fatal = true ∧ u.hub.tmax = t ∧
      (s.fab.ident ≠ 0x3FF#10 → s.fab.fm = false → s.fab.fmid ≠ 0x3FF#10 →
        u.fab.outbox = s.fab.outbox ++ [shortMessage 0x26 s.fab.fmid 0#16 1#16 (bytesOfNat 8 0)])) ∧
    (t.toNat < 920 → exec (.thermalFatal t) s = .next s)) ∧
  (∀ s : State, (s.hub.stage ≠ 5#4 → exec .flowLoss s = .next { s with hub := { s.hub with flow := false } }) ∧
    (s.hub.stage = 5#4 → ∃ u, exec .flowLoss s = .next u ∧ u.hub.fatal = true ∧ u.hub.flow = false ∧
      (s.fab.ident ≠ 0x3FF#10 → s.fab.fm = false → s.fab.fmid ≠ 0x3FF#10 → u = { s with
        hub := { s.hub with flow := false, fatal := true }
        fab := { s.fab with outbox := s.fab.outbox ++ [shortMessage 0x26 s.fab.fmid 0#16 1#16 (bytesOfNat 8 0)] } })))

/-- R403, R409 to R421: links. -/
def Obligations.LinkEventResult : Prop :=
  (∀ (s : State) (p : BitVec 6) (h : BitVec 64) (b : List (BitVec 8)) (ok : Bool), (portAt s.fab p.toNat).state ≠ 2#2 → exec (.flit p h b ok) s = .next s) ∧
  (∀ (s : State) (p : BitVec 6) (h : BitVec 64) (b : List (BitVec 8)) (ok : Bool), (portAt s.fab p.toNat).state = 2#2 →
    (linkAccepts (portAt s.fab p.toNat) h ok = false → exec (.flit p h b ok) s = .next (onPort s p.toNat fun q => { q with nak := true })) ∧
    (linkAccepts (portAt s.fab p.toNat) h ok = true → ∀ t, t = (onPort s p.toNat fun q => { q with rxSeq := q.rxSeq + 1#12, nak := false }) →
      (staleFlit s.fab h = true → exec (.flit p h b ok) s = .next { t with fab := { t.fab with stale := t.fab.stale + 1#64 } }) ∧
      (staleFlit s.fab h = false → exec (.flit p h b ok) s = .next (passFlit t p.toNat h b)))) ∧
  (∀ (s : State) (p : BitVec 6) (n : Fin 36) (l : BitVec 12) (k : Nat), n.val = p.toNat → (s.fab.ports[n]).state = 2#2 → (s.fab.ports[n]).rekey = false →
    k = (l - ((s.fab.ports[n]).txSeq - BitVec.ofNat 12 (s.fab.ports[n]).replay.length)).toNat → k ≤ (s.fab.ports[n]).replay.length →
    ∃ t, exec (.nak p l) s = .next t ∧ (t.fab.ports[n]).replay = (s.fab.ports[n]).replay.drop k ∧ (t.fab.ports[n]).txSeq = (s.fab.ports[n]).txSeq ∧
      ∀ m : Fin 36, m ≠ n → t.fab.ports[m] = s.fab.ports[m]) ∧
  (∀ (s : State) (p : BitVec 6) (n : Fin 36) (v : BitVec 10), n.val = p.toNat → n.val < 32 → s.hub.fail = false → 4 ≤ s.hub.stage.toNat →
    (s.fab.ports[n]).state = 0#2 →
    (assignedPeer s.fab n.val = some v.toNat → ∃ t, exec (.linkTrain p v) s = .next t ∧ (t.fab.ports[n]).state = 2#2 ∧ (t.fab.ports[n]).peer = v ∧
      (t.fab.ports[n]).txBanks = 1#2 ∧ (t.fab.ports[n]).rxBanks = 1#2 ∧ (t.fab.ports[n]).txSeq = 0#12 ∧ (t.fab.ports[n]).rxSeq = 0#12 ∧
      ∀ m : Fin 36, m ≠ n → t.fab.ports[m] = s.fab.ports[m]) ∧
    (assignedPeer s.fab n.val ≠ some v.toNat → exec (.linkTrain p v) s = .next (count s 0x0030#16 (BitVec.ofNat 32 n.val) 1))) ∧
  (∀ (s : State) (p : BitVec 6) (n : Fin 36) (v : BitVec 10), n.val = p.toNat → 32 ≤ n.val → s.hub.fail = false → 4 ≤ s.hub.stage.toNat →
    (s.fab.ports[n]).state = 0#2 → ∃ t, exec (.linkTrain p v) s = .next t ∧ t.fab.ports[n] = { s.fab.ports[n] with state := 3#2 } ∧
      ∀ m : Fin 36, m ≠ n → t.fab.ports[m] = s.fab.ports[m]) ∧
  (∀ (s : State) (p : BitVec 6) (n : Fin 36), n.val = p.toNat → (s.fab.ports[n]).state = 2#2 → 17 ≤ (s.fab.ports[n]).fails →
    ∃ t, exec (.linkDown p) s = .next t ∧ (t.fab.ports[n]).state = 0#2 ∧ (t.fab.ports[n]).txBanks = 0#2 ∧ (t.fab.ports[n]).rxBanks = 0#2 ∧
      (t.fab.ports[n]).replay = [] ∧ ((s.fab.ports[n]).replay ≠ [] → t.hub.sound = false) ∧
      ((s.fab.ports[n]).outbox = [] → ∀ m : Fin 36, m ≠ n → t.fab.ports[m] = s.fab.ports[m])) ∧
  (∀ (s : State) (p : BitVec 6), linkDownDue (portAt s.fab p.toNat) = false → exec (.linkDown p) s = .next s) ∧
  (∀ (s : State) (p : BitVec 6) (n : Fin 36), n.val = p.toNat → (s.fab.ports[n]).state = 2#2 → (s.fab.ports[n]).rekey = true →
    (s.fab.ports[n]).txBanks ≠ 3#2 →
    (∃ q ∈ (s.fab.ports[n]).replay, flitKg q.header = (s.fab.ports[n]).txkg) → ∃ t, exec (.keyrdy p) s = .next t ∧
      (t.fab.ports[n]).txkg = !(s.fab.ports[n]).txkg ∧ (t.fab.ports[n]).txBanks = 3#2 ∧ (t.fab.ports[n]).count = 0#64 ∧
      (t.fab.ports[n]).generation = (s.fab.ports[n]).generation + 1#64 ∧ (t.fab.ports[n]).replay = (s.fab.ports[n]).replay) ∧
  (∀ (s : State) (p : BitVec 6) (n : Fin 36), n.val = p.toNat → (s.fab.ports[n]).state = 2#2 → (s.fab.ports[n]).rekey = true →
    (s.fab.ports[n]).txBanks ≠ 3#2 → (s.fab.ports[n]).rekeyWaits = false →
    (∀ q ∈ (s.fab.ports[n]).replay, flitKg q.header ≠ (s.fab.ports[n]).txkg) → ∃ t, exec (.keyrdy p) s = .next t ∧ (t.fab.ports[n]).rekey = false ∧
      (t.fab.ports[n]).txkg = !(s.fab.ports[n]).txkg ∧ (t.fab.ports[n]).count = 0#64 ∧
      (t.fab.ports[n]).txBanks = if (s.fab.ports[n]).txkg then 1#2 else 2#2) ∧
  (∀ (s : State) (p : BitVec 6) (n : Fin 36), n.val = p.toNat → (s.fab.ports[n]).state = 2#2 →
    (rekeyDue (s.fab.ports[n]) = true → ∃ t, exec (.rekey p) s = .next t ∧ (t.fab.ports[n]).rekey = true ∧
      (t.fab.ports[n]).outbox.length = (s.fab.ports[n]).outbox.length + 1 ∧ (t.fab.ports[n]).rxBanks = (s.fab.ports[n]).rxBanks) ∧
    (rekeyDue (s.fab.ports[n]) = false → (s.fab.ports[n]).rekey = false → ∃ t, exec (.rekey p) s = .next t ∧ (t.fab.ports[n]).rekey = true ∧
      (t.fab.ports[n]).rxkg = !(s.fab.ports[n]).rxkg ∧ (t.fab.ports[n]).txkg = (s.fab.ports[n]).txkg ∧
      (t.fab.ports[n]).rxBanks = (s.fab.ports[n]).rxBanks ||| (if (s.fab.ports[n]).rxkg then 1#2 else 2#2)) ∧
    ((s.fab.ports[n]).rxBanks = 3#2 → (s.fab.ports[n]).rekeyWaits = false → ∃ t, exec (.retire p) s = .next t ∧ (t.fab.ports[n]).rekey = false ∧
      (t.fab.ports[n]).rxBanks = if (s.fab.ports[n]).rxkg then 2#2 else 1#2)) ∧
  (∀ (s : State) (d : BitVec 10) (c : BitVec 2), ∃ t, exec (.dack d c) s = .next t ∧ t = { s with fab := { s.fab with flows := t.fab.flows } } ∧
    (∀ q ∈ s.fab.flows, ¬(q.1 = d ∧ q.2.1 = c) → q ∈ t.fab.flows) ∧ ∀ q ∈ s.fab.flows, q.1 = d → q.2.1 = c → (d, c, q.2.2.1 - 1, q.2.2.2) ∈ t.fab.flows)

/-- R331, R333, R176: requests at their target. -/
def Obligations.RemoteRequestResult : Prop :=
  (∀ (s t u : State) (q : RemoteReq) (mask : BitVec 64) (offs : List (BitVec 32)) (data : List (BitVec 128)) (as : List (Nat × LaneAnswer)) (i : Instr),
    q.lanes = requestLanes mask offs data →
    (q.op = 0#3 ∧ data = [] ∧ q.place = none ∧ i = .rldRequest q.src q.tag q.ctx mask q.peer q.index q.mode q.space q.gang offs) ∨
      (q.op = 1#3 ∧ q.place = none ∧ i = .rstRequest q.src q.tag q.ctx mask q.peer q.index q.mode q.space q.gang offs data) ∨
      (q.op = 2#3 ∧ q.place = none ∧ i = .ratomRequest q.src q.tag q.ctx mask q.peer q.index q.mode q.space q.gang offs data) ∨
      (q.op = 3#3 ∧ q.place = none ∧ i = .rredRequest q.src q.tag q.ctx mask q.peer q.index q.mode q.space q.gang offs data) ∨
      (q.op = 4#3 ∧ q.place ≠ none ∧ i = .mcstRequest q.src q.tag q.ctx mask q.peer q.index q.mode q.space q.gang offs data q.place) →
    performRequest q false s = (u, as) → t = { u with m := nextStore u.m } → as ≠ [] →
    ((∀ a ∈ as, ∃ d, a.2 = .done d) →
      (forwarding t.m s.m.sid = false →
        (q.place = none → exec i s = .next (sendAck t q (if q.op = 0#3 ∨ q.op = 2#3 then (doneLanes as []).map (·.2) else []))) ∧
        (∀ n, q.place = some n → exec i s = .next (sendAck (mapBlocks t fun b =>
          if b.ctx = q.ctx && b.gang = q.gang && b.member.toNat = (peerTarget q.peer).toNat then { b with mcast := n + 1 } else b) q []))) ∧
      (forwarding t.m s.m.sid = true → exec i s = .next { t with fab := { t.fab with
        parked := t.fab.parked ++ [⟨parkClock s q.ctx, { q with lanes := [] }, doneLanes as [], [s.m.sid]⟩] } })) ∧
    (forwarding t.m s.m.sid = false →
      (∀ r, as = allLanes q (.rnr r) → exec i s = .next (sendRnr t q (maskOf (q.lanes.map (·.1))) r)) ∧
      (∀ c d, as = allLanes q (.err c d) → exec i s = .next (sendErr t q (maskOf (q.lanes.map (·.1))) c d)) ∧
      (as = allLanes q .parked → exec i s = .next { t with fab := { t.fab with
        parked := t.fab.parked ++ [⟨parkClock s q.ctx, q, [], []⟩] } }))) ∧
  (∀ (s : State) (q : RemoteReq), q.src ≠ s.fab.ident → locDomain s.fab q.src ≠ s.fab.domain →
    performRequest q false s = (s, allLanes q (.err cProtection 0x07))) ∧
  (∀ (s : State) (q : RemoteReq) (mask : BitVec 64) (offs : List (BitVec 32)) (data : List (BitVec 128)), q.lanes = requestLanes mask offs data →
    q.op = 4#3 → q.place = none → ∀ o, o = exec (.mcstRequest q.src q.tag q.ctx mask q.peer q.index q.mode q.space q.gang offs data none) s →
    (q.src ≠ s.fab.ident → locDomain s.fab q.src ≠ s.fab.domain → o = .next (sendErr s q (maskOf (q.lanes.map (·.1))) cProtection 0x07)) ∧
    (q.src = s.fab.ident ∨ locDomain s.fab q.src = s.fab.domain → targetBlock s q = none →
      o = .next (sendErr s q (maskOf (q.lanes.map (·.1))) cTetherGone 0x00)) ∧
    (∀ b n, q.src = s.fab.ident ∨ locDomain s.fab q.src = s.fab.domain → targetBlock s q = some b →
      n = ((s.fab.mcast.find? fun g => g.1 = q.gang).map (·.2)).getD 0 → o = .next (pumpMulticasts { s with fab := { s.fab with
        mcast := (q.gang, n + 1) :: s.fab.mcast.filter fun g => g.1 ≠ q.gang
        multicasts := s.fab.multicasts ++ [{ gang := q.gang, place := n, request := q, members := b.members, failed := none
                                             copies := (List.range b.gcount.toNat).map fun i =>
                                               { member := i, mask := maskOf (q.lanes.map (·.1)), tag := none, retries := 0, ready := none } }] } })))

/-- R331, R332: answers at the source. -/
def Obligations.RemoteAnswerResult : Prop :=
  (∀ (s : State) (tag : BitVec 16) (r : Remote), AtWarp s s.w.wid → remoteOwner s tag = some s.w.wid → remoteOf s.w tag = some r →
    (∀ (src : BitVec 10) (data : List (BitVec 64)), exec (.ack src tag data) s = .next (replaceRemote { s with w :=
      (if remoteReturns r.op then remoteWrite s.w r (r.lanes.zipIdx.map fun l => ⟨l.1.1, .value (data.getD l.2 0#64)⟩) else s.w) } r [])) ∧
    (∀ (src : BitVec 10) (mask : BitVec 64) (why : BitVec 8), r.retries < s.fab.rnrlimit.toNat → exec (.rnr src tag mask why) s =
      .next (replaceRemote (takeTag s).1 r [{ r with lanes := r.lanes.filter fun l => !mask.getLsbD l.1 },
        { r with lanes := r.lanes.filter (fun l => mask.getLsbD l.1), tag := (takeTag s).2, sent := false, retries := r.retries + 1
                 ready := some (wall s + 1000 * 2 ^ r.retries) }])) ∧
    (∀ (src : BitVec 10) (mask : BitVec 64) (why : BitVec 8), s.fab.rnrlimit.toNat ≤ r.retries → exec (.rnr src tag mask why) s =
      .next (replaceRemote (remoteFail s r (r.lanesIn mask) cRnrExhausted 0x00) r [{ r with lanes := r.lanes.filter fun l => !mask.getLsbD l.1 }])) ∧
    (∀ (src : BitVec 10) (mask : BitVec 64) (c d : BitVec 8), exec (.err src tag mask c d) s =
      .next (replaceRemote (remoteFail s r (r.lanesIn mask) c d) r [{ r with lanes := r.lanes.filter fun l => !mask.getLsbD l.1 }])) ∧
    (∀ due, r.ready = some due → due ≤ wall s → exec (.rnrRetry tag) s = .next { (sendRemote s r).1 with
      w := { (sendRemote s r).1.w with remotes := (sendRemote s r).1.w.remotes.map fun x => if x.tag = tag then (sendRemote s r).2 else x } })) ∧
  (∀ (s : State) (r : Remote) (ls : List Nat) (c d : Byte), ls ≠ [] →
    (remoteReturns r.op = true → remoteFail s r ls c d = { s with w := remoteWrite s.w r (ls.map fun l => ⟨l, .poison c d 0#80 true⟩) }) ∧
    (remoteReturns r.op = false → remoteFail s r ls c d = raiseAfter s r.pc r.hreg c d 0#80 (maskOf ls) (decide (c ≠ cTetherGone)))) ∧
  (∀ (s : State) (src : BitVec 10) (tag : BitVec 16) (data : List (BitVec 64)), remoteOwner s tag = none →
    exec (.ack src tag data) s = .next (onCopy s tag (fun c => if c.ready.isNone then none else some c) none) ∧
    (∀ (mask : BitVec 64) (c d : BitVec 8), exec (.err src tag mask c d) s = .next (onCopy s tag
      (fun x => if x.mask &&& ~~~mask = 0#64 then none else some { x with mask := x.mask &&& ~~~mask }) (some (c, d)))) ∧
    exec (.rnrRetry tag) s = .next (retryCopy s tag))

/-- R157 to R166, R174, R175: coherence and the host. -/
def Obligations.CoherenceEventResult : Prop :=
  (∀ (s : State) (a : BitVec 12) (l : BitVec 45), ownAgent s a = true → hostLineAt s (linePa l) = false → trackedLine s.m (linePa l) = true →
    ((∀ e ∈ s.m.dir, e.line ≠ l.toNat) → (∀ e ∈ s.m.hostDir, e.1 / 2 ≠ l.toNat) → (∀ u ∈ s.m.ucopies, u.line ≠ l.toNat) →
      ∃ t, exec (.readShared a l) s = .next t ∧ t.m.cells = s.m.cells ∧ t.w = s.w ∧
        dirGet t.m a.toNat l.toNat = if (frameRec s.m (linePa l)).attr = aWos then some .s else some .e) ∧
    (ownableLine s.m (linePa l) = true → ∃ t, exec (.readOwn a l) s = .next t ∧ dirGet t.m a.toNat l.toNat = some .m ∧ (∀ e ∈ t.m.dir, e.line = l.toNat → e.agent = a.toNat) ∧
      (∀ e ∈ t.m.hostDir, e.1 / 2 ≠ l.toNat) ∧ (∀ u ∈ t.m.ucopies, u.line ≠ l.toNat)) ∧
    (∀ c : BitVec 3, stateOfCode c = some .m → exec (.grant a l c) s = exec (.readOwn a l) s) ∧
    (∀ c : BitVec 3, stateOfCode c = some .e ∨ stateOfCode c = some .s → exec (.grant a l c) s = exec (.readShared a l) s) ∧
    (∃ t, exec (.grant a l 0#3) s = .next t ∧ dirGet t.m a.toNat l.toNat = none ∧ t.m.cells = s.m.cells)) ∧
  (∀ (s : State) (a : BitVec 12) (l : BitVec 45) (op : BitVec 3) (w : Bool) (t : BitVec 4), ownAgent s a = true → inDevice (linePa l) = true →
    (frameRec s.m (linePa l)).attr = aRc → homeDie (linePa l) ≠ a.toNat % 4 → ownsLine s.m a.toNat l.toNat = false → (∀ u ∈ s.m.ucopies, u.line ≠ l.toNat) →
    ∃ u, exec (.readUpdate a l op w t) s = .next u ∧ dirGet u.m a.toNat l.toNat = some .u ∧ u.m.cells = s.m.cells ∧ (∀ e ∈ u.m.hostDir, e.1 / 2 ≠ l.toNat) ∧
      u.m.ucopies = { agent := a.toNat, line := l.toNat, op := op, wide := w, type := t, parts := [] } :: s.m.ucopies) ∧
  (∀ (s : State) (a : BitVec 12) (l : BitVec 45) (k : BitVec 128) (d : BitVec 1024), hostLineAt s (linePa l) = false →
    (dirGet s.m a.toNat l.toNat = some .m → exec (.writeBack a l k d) s =
      .next { s with m := dieDrop (mergeBytes s.m l.toNat k d) a.toNat l.toNat }) ∧
    (ownAgent s a = true → dirGet s.m a.toNat l.toNat = some .m ∨ dirGet s.m a.toNat l.toNat = some .e → exec (.update a l k d) s =
      .next { s with m := dirSet (updateBytes s.m (a.toNat % 4) l.toNat k d) a.toNat l.toNat (some .m) }) ∧
    (ownAgent s a = true → dirGet s.m a.toNat l.toNat ≠ some .u → exec (.invalidate a l) s = .next { s with m := dieDrop s.m a.toNat l.toNat }) ∧
    exec (.acknowledge a l) s = .next s) ∧
  (∀ (s : State) (a : BitVec 12) (l : BitVec 45),
    ((∃ u ∈ s.m.ucopies, u.line = l.toNat ∧ u.agent = a.toNat) → exec (.recall a l) s = .next { s with m := recallLine s.m l.toNat }) ∧
    (dirGet s.m a.toNat l.toNat = some .u → exec (.partialReturn a l) s = .next { s with m := recallLine s.m l.toNat })) ∧
  (∀ (s : State) (pa : BitVec 52), (∀ u ∈ s.m.ucopies, u.line ≠ pa.toNat / 128) →
    (hostReaches pa.toNat = true → lineMarked s.m pa = false → ∀ c : Bool, ∃ t, exec (.hostMemRead pa c) s = .next t ∧
      t.m.hostOut = s.m.hostOut ++ [(pa, some (hostLine s.m pa))] ∧ t.m.cells = s.m.cells ∧ t.w = s.w ∧
      (c = false → s.fab.bridge = false → t = { s with m := { s.m with hostOut := t.m.hostOut } })) ∧
    (hostReaches pa.toNat = true → lineMarked s.m pa = true → s.fab.bridge = false → ∀ c : Bool, exec (.hostMemRead pa c) s =
      .next { s with m := { s.m with hostHeld := s.m.hostHeld ++ [{ snoop := none, copy := c, pa := pa, interval := markOf s.m pa }] } }) ∧
    (hostReaches pa.toNat = false → inJournal pa.toNat = false → ∀ c : Bool, exec (.hostMemRead pa c) s =
      .next (count { s with m := { s.m with hostOut := s.m.hostOut ++ [(pa, none)] } } 0x0032#16 0#32 1))) ∧
  (∀ (s : State) (pa : BitVec 52) (k : BitVec 64) (d : BitVec 512),
    (hostReaches pa.toNat = true → publishedLine s.m pa.toNat = false → s.fab.bridge = false → ∀ (r : InputRec) (u : State),
      r = { interval := s.m.interval, seq := s.hub.jtail, pa := BitVec.ofNat 52 (pa.toNat / 64 * 64), mask := k, data := d } →
      u = hubLog (takeSeq s).1 (inputAt s.hub.jtail) (inputRecord r) → exec (.hostMemWrite pa k d) s =
        .next { u with m := { mergeHost u.m pa.toNat k d with inputs := (mergeHost u.m pa.toNat k d).inputs ++ [r] } }) ∧
    (hostReaches pa.toNat = false ∨ publishedLine s.m pa.toNat = true → exec (.hostMemWrite pa k d) s = .next (count s 0x0032#16 0#32 1))) ∧
  (∀ (s : State) (pa : BitVec 52) (c : BitVec 3), (s.fab.bridge = false → exec (.hostSnoop pa c) s = .next s) ∧
    (s.fab.bridge = true → hostLineAt s pa.toNat = true → (∀ e ∈ s.m.bridgeDir, e.line ≠ pa.toNat / 128) → lineMarked s.m pa = false →
      (∀ u ∈ s.m.ucopies, u.line ≠ pa.toNat / 128) → ∃ t, exec (.hostSnoop pa c) s = .next t ∧
        t.m.hostOut = s.m.hostOut ++ [(pa, some (hostLine s.m pa))] ∧ t.m.cells = s.m.cells))

/-- R347: ACCZ. -/
def Obligations.AcczResets : Prop :=
  ∀ (s : State) (c : BitVec 2), AtCore s s.w.wid → Passes s .no [] → s.w.mat = none → active s.w ≠ 0#64 →
    ∃ t u, exec (.accz c) s = .next t ∧ exec (.matrixComplete s.w.wid) t = .next u ∧
      ((u.w.acc[c.toFin]).f64 = true ↔ modeEt s.w = .f64) ∧
      (∀ r : Fin 64, (active s.w).getLsbD r = true →
        (∀ e : Fin 64, ((u.w.acc[c.toFin]).rows[r]).elems[e] = 0#64) ∧ ((u.w.acc[c.toFin]).rows[r]).poison = false ∧
        (u.w.rowState[r]).max = 0xFF800000#32 ∧ (u.w.rowState[r]).sum = 0#32 ∧ (u.w.rowState[r]).sumc = 0#32 ∧
        (u.w.rowState[r]).corr = 0x3F800000#32 ∧ (u.w.rowState[r]).poison = false) ∧
      (∀ r : Fin 64, (active s.w).getLsbD r = false →
        (u.w.acc[c.toFin]).rows[r] = (s.w.acc[c.toFin]).rows[r] ∧ u.w.rowState[r] = s.w.rowState[r]) ∧
      ∀ k : Fin 4, k ≠ c.toFin → u.w.acc[k] = s.w.acc[k]

/-- R258, R272 to R280: the frame of the arithmetic forms. -/
def Obligations.ArithmeticFrame : Prop :=
  (∀ (f : Byte → Byte → Byte → Instr), f ∈ scalarTwoForms → ∀ (s t : State) (d a b : Byte), exec (f d a b) s = .next t → Quiet s t →
    SameRegisters s.w { t.w with s := s.w.s } ∧ t.w.flags = s.w.flags ∧ (∀ n : Fin 64, n.val ≠ d.toNat → t.w.s[n] = s.w.s[n]) ∧ SameBytes s t) ∧
  (∀ (f : Byte → Byte → Byte → Instr), f ∈ vectorForms → ∀ (s t : State) (d a b : Byte), exec (f d a b) s = .next t → Quiet s t →
    SameRegisters s.w { t.w with v := s.w.v } ∧ t.w.flags = s.w.flags ∧ SameBytes s t ∧
    (∀ r : Fin 232, r.val ≠ d.toNat → ¬(wideEt s = true ∧ r.val = d.toNat + 1) → t.w.v[r] = s.w.v[r]) ∧
    (∀ (r : Fin 232) (l : Fin 64), (active s.w).getLsbD l = false → (t.w.v[r])[l] = (s.w.v[r])[l])) ∧
  (∀ (f : BitVec 4 → BitVec 4 → BitVec 4 → Instr), f = .pand ∨ f = .por ∨ f = .pxor ∨ f = .pandn →
    ∀ (s t : State) (d a b : BitVec 4), exec (f d a b) s = .next t → Quiet s t → OnlyPredicate s t d) ∧
  (∀ (f : BitVec 4 → Byte → Byte → Instr), f = .vcmpEq ∨ f = .vcmpLt ∨ f = .vcmpLe ∨ f = .vcmpNe →
    ∀ (s t : State) (d : BitVec 4) (a b : Byte), exec (f d a b) s = .next t → Quiet s t → OnlyPredicate s t d)

/-- R57, R168, R189, R207, R405, R460: the state after reset. -/
def Obligations.ResetState : Prop :=
  ([0x1000#16, 0x1008#16, 0x1010#16, 0x1018#16, 0x2000#16, 0x2008#16, 0x2010#16, 0x2018#16, 0x2020#16, 0x4018#16, 0xD008#16].all
    fun o => readRegister State.reset o = 0#64) = true ∧
  readRegister State.reset 0x1020#16 = 0x7D0#64 ∧ readRegister State.reset 0x1038#16 = 1#64 ∧ readRegister State.reset 0x1040#16 = 1#64 ∧
  readRegister State.reset 0x3000#16 = 0x0000001400000064#64 ∧ readRegister State.reset 0x3008#16 = 0x0000000000010001#64 ∧
  (readRegister State.reset 0x4000#16).extractLsb' 10 54 = 0x200FFC0#54 ∧
  readRegister State.reset 0x4010#16 = 0x03FF03FF03FF0000#64 ∧ readRegister State.reset 0xD000#16 = 0x960#64 ∧
  (∀ n : Fin 36, State.reset.fab.ports[n] = Port.reset) ∧ portStat Port.reset = 0x0000000003FF0000#64 ∧
  State.reset.hub.stopped = [] ∧ State.reset.hub.queues = [] ∧ State.reset.m.interval = 1 ∧
  State.reset.w.exec = 0xFFFFFFFFFFFFFFFF#64 ∧ State.reset.w.mode = 0#32 ∧ State.reset.w.lr = 0#64 ∧ State.reset.w.lrhi = 0#16 ∧
  State.reset.w.trapmask = 0#64 ∧ State.reset.w.replay = 0#64 ∧ State.reset.w.rowprog = 0#64 ∧ State.reset.w.zerocnt = 0#64 ∧
  State.reset.w.cyc = 0#64 ∧ State.reset.w.porig = 0#256 ∧ State.reset.w.cycdl = 0#64 ∧ State.reset.w.walldl = 0#64 ∧
  flagBits State.reset.w = 0#12 ∧ State.reset.w.stack = [] ∧
  State.reset.m.cells = [] ∧ Memory.wf State.reset.m = true

/-- R228, R239: a step runs the decoded instruction. -/
def Obligations.StepRunsDecoded : Prop :=
  (∀ (s : State) (i : Instr) (rest : List Instr), s.inbox = i :: rest → encode i = none → step s = exec i { tick s with inbox := rest }) ∧
  (∀ (s u : State) (i : Instr), s.inbox = [] → s.turn ≠ 0 →
    u = { tick s with turn := s.turn - 1, b := if s.w.status = .running then { (tick s).b with stuckSince := none } else (tick s).b } →
    mayIssue u = true → u.w.rap = false → u.w.status = .running ∨ (∃ p, u.w.status = .parked p ∧ p ≠ .sleep) → boundaryTrap u = none →
    (u.w.enter = false → (u.w.status = .parked .flags → flagsHold u.w = false) → decodeWord (currentWord u.w) = .ok i → step s = exec i u) ∧
    (∀ (t v : State) (c : BitVec 512), u.w.enter = true → fetchClause u (clauseVa u.w.pc).toNat = .ok (t, c) → headerOk c = true →
      1 ≤ wordIndex u.w.pc → wordIndex u.w.pc ≤ 15 - bitsNat c 9 3 → v = { t with w := { t.w with clause := c, enter := false } } →
      flagsHold v.w = false → decodeWord (currentWord v.w) = .ok i → step s = exec i v)) ∧
  (∀ (s u : State), s.inbox = [] → s.turn = 0 → u = background (tick s) → step s = match nextEvent u with
    | none => .next (select u)
    | some i => match exec i u with
      | .next t => .next (select t)
      | r => r)

/-- R234 to R242: decoding of the spec's worked examples. -/
def Obligations.DecodeWords : Prop :=
  decodeWord 0x00000000#32 = .ok .nop ∧ decodeWord 0x00040000#32 = .ok .exit ∧ decodeWord 0x00080000#32 = .ok .yield ∧
  decodeWord 0x00100000#32 = .ok .ret ∧ decodeWord 0x00200000#32 = .ok .tret ∧ decodeWord 0x08000241#32 = .ok (.rcv 0#16 9#4) ∧
  decodeWord 0x04000240#32 = .ok (.br 0#16 9#4) ∧ decodeWord 0x04000201#32 = .ok (.brP 0#16 8#4 1#4) ∧
  decodeWord 0x04000842#32 = .ok (.brP 2#16 1#4 2#4) ∧ decodeWord 0x5C03C000#32 = .ok (.vscanAdd 0#8 240#8) ∧
  decodeWord 0x300403C0#32 = .ok (.vand 1#8 0#8 240#8) ∧ decodeWord 0x3C04040B#32 = .ok (.vcmpNe 1#4 1#8 2#8) ∧
  decodeWord 0xF0300007#32 = .ok (.movi 3#8 7#20) ∧ decodeWord 0xF03FFFFD#32 = .ok (.movi 3#8 0xFFFFD#20) ∧
  decodeWord 0x702014A2#32 = .ok (.ldv 8#8 5#8 2#4 2#2 0#1 2#3) ∧ decodeWord 0x2C2023C0#32 = .ok (.vadd 8#8 8#8 240#8) ∧
  decodeWord 0x342423EC#32 = .ok (.vshl 9#8 8#8 251#8) ∧ decodeWord 0x782414E2#32 = .ok (.stv 9#8 5#8 3#4 2#2 0#1 2#3) ∧
  decodeWord 0x00340000#32 = .error .reservedCode

/-- R234 to R239: decode of encode. -/
def Obligations.EncodingRoundTrip : Prop :=
  ∀ (i : Instr) (w : Word), i.wf = true → encode i = some w → decodeWord w = .ok i

/-- R16, R239: encode of decode. -/
def Obligations.DecodeExact : Prop :=
  ∀ (w : Word) (i : Instr), decodeWord w = .ok i → i.wf = true ∧ encode i = some w

/-- The canonical form of the memories is an invariant of every step. -/
def Obligations.StepKeepsMemory : Prop :=
  ∀ s t : State, Memory.wf s.m = true → step s = .next t → Memory.wf t.m = true
end

