-- ==== Sys2Proof/Laws/Forms.lean ====
section
/-!
SUPPORT. What the readers and the shared forms do: reading an operand leaves the warp as it is, and a form whose front end passes and
whose sources are readable writes its result and completes.
-/
namespace Sys2Proof.Machine

/-! ### Readers -/

theorem shareLine_w (s : State) (core pa : Nat) : (shareLine s core pa).w = s.w := by
  unfold shareLine; (repeat' split) <;> rfl

theorem resolveVaOf_w {s t : State} {x : Ctx} {a : Access} {va : Nat} {p : Place} (h : resolveVaOf s x a va = .ok t p) : t.w = s.w := by
  unfold resolveVaOf at h
  split at h
  · cases h
  · cases h
  · split at h <;> cases h; rfl

theorem loadAt_w (s : State) (core : Nat) (c : Bool) (p : Place) (n : Nat) : (loadAt s core c p n).1.w = s.w := by
  unfold loadAt
  simp only []
  (repeat' split) <;> simp [shareLine_w]

theorem resolveVa_w {s t : State} {a : Access} {va : Nat} {p : Place} (h : resolveVa s a va = .ok t p) : t.w = s.w := resolveVaOf_w h

theorem fillMapped_w (s : State) (line : Nat) (p : Place) : (fillMapped s line p).w = s.w := by
  unfold fillMapped; split <;> simp [shareLine_w]

theorem stashReturn_w {s t : State} {line : Nat} (h : stashReturn s line = some t) : t.w = s.w := by
  unfold stashReturn at h; simp only [] at h
  split at h
  · cases h; rfl
  · split at h
    · cases h
    · split at h
      · cases h
      · cases h; rfl
      · rename_i e; have k := resolveVa_w e; rw [← Option.some.inj h]; simp only [k]

theorem resolveStash_w {s t : State} {a : Access} {off : Nat} {p : Place} (h : resolveStash s a off = .ok t p) : t.w = s.w := by
  unfold resolveStash at h; simp only [] at h
  split at h
  · split at h
    · rename_i e; cases h; exact stashReturn_w e
    · cases h
  · split at h
    · cases h; rfl
    · split at h
      · cases h
      · cases h
      · split at h
        · exact resolveVa_w h
        · split at h
          · rename_i e
            have k := resolveVa_w e
            (repeat' split at h) <;> first
              | (cases h; done)
              | (cases h; simpa [fillMapped_w] using k)
              | exact (resolveVa_w h).trans k
              | exact (resolveVa_w h).trans ((fillMapped_w _ _ _).trans k)
          · exact resolveVa_w h

theorem throughMap_w {s t : State} {a : Access} {p q : Place} (h : throughMap s a p = .ok t q) : t.w = s.w := by
  unfold throughMap at h
  split at h
  · cases h; rfl
  · split at h
    · exact resolveStash_w h
    · cases h; rfl

/-- A read of a constant leaves the warp as it is. -/
theorem readVa_w {s t : State} {va n : Nat} {bs : List Byte} (h : readVa s va n = .ok (t, bs)) : t.w = s.w := by
  unfold readVa resolveVa at h
  split at h
  · cases h
  · split at h
    · cases h
    · cases h
    · rename_i e
      split at h
      · cases h
      · cases h
      · rename_i q p k
        split at h
        · cases h
        · split at h
          · cases h
          · split at h
            · cases h
            · split at h
              · unfold wosPark at h; split at h <;> cases h
              · split at h
                · cases h
                · have e1 : (loadAt q q.w.core.toNat true p n).1 = t := by injection h with h; rw [h]
                  rw [← e1, loadAt_w, throughMap_w k, resolveVaOf_w e]

/-- A scalar source read leaves the warp as it is. -/
theorem readS_w {s t : State} {f : Byte} {x : Scalar} (h : readS s f = .ok (t, x)) : t.w = s.w := by
  unfold readS at h; simp only [] at h
  split at h
  · cases h; rfl
  · split at h
    · cases h; rfl
    · split at h
      · cases h; exact readVa_w (by assumption)
      · cases h

/-- A vector source read leaves the warp as it is. -/
theorem readV_w {s t : State} {wide : Bool} {f : Byte} {x : Src} (h : readV s wide f = .ok (t, x)) : t.w = s.w := by
  unfold readV at h; simp only [] at h
  split at h
  · cases h; rfl
  · split at h
    · split at h <;> cases h; rfl
    · split at h
      · cases h; rfl
      · split at h
        · cases h; exact readVa_w (by assumption)
        · cases h

/-- A register source is read in the state as it stands. -/
theorem readS_reg {s : State} {f : Byte} (h : f.toNat < 64) : readS s f = .ok (s, sReg s.w (Fin.ofNat 64 f.toNat)) := by
  unfold readS; rw [if_pos (by omega)]

/-- A vector register or pair is read in the state as it stands. -/
theorem readV_reg {s : State} {wide : Bool} {f : Byte} (h : f.toNat < 232) : readV s wide f = .ok (s, vecSrc s.w wide f.toNat) := by
  unfold readV; rw [if_pos h]

/-! ### Poison and queues -/

theorem scalarOut_spread (v : DWord) : ∀ l : List Scalar, scalarOut l v = spread l v
  | [] => rfl
  | x :: r => by
    have ih := scalarOut_spread v r
    unfold scalarOut at ih ⊢
    rw [firstPoison, spread]
    cases x.poison
    · exact ih
    · rfl

theorem popQueues_none {l : List Opd} (h : l.filterMap Opd.queue = []) (s : State) : popQueues l s = s := by simp [popQueues, h]

/-! ### The front end -/

/-- A form that the front end passes ends as its own checks and effect say. -/
theorem issue_passes {s : State} {rap : RapUse} {l : List Opd} {h : BitVec 4} {k : State → Run State} (p : Passes s rap l h) :
    issue { rap := rap, opds := l, hreg := h } s k =
      finish s (namesHandle h (match k s with
        | .ok t => .ok (popQueues l t)
        | .error e => .error e)) := by
  unfold Passes at p
  unfold issue
  rewrite [p]
  cases k s <;> rfl

/-- A form that the front end passes and whose effect goes through completes. -/
theorem issue_next {s t : State} {rap : RapUse} {l : List Opd} {h : BitVec 4} {k : State → Run State} (p : Passes s rap l h) (e : k s = .ok t) :
    issue { rap := rap, opds := l, hreg := h } s k = .next (popQueues l t) := by
  rw [issue_passes p, e]; rfl

/-- A form that names no queue, passed by the front end and going through, completes. -/
theorem issue_ok {s t : State} {rap : RapUse} {l : List Opd} {h : BitVec 4} {k : State → Run State} (p : Passes s rap l h)
    (q : l.filterMap Opd.queue = []) (e : k s = .ok t) : issue { rap := rap, opds := l, hreg := h } s k = .next t := by
  rw [issue_next p e, popQueues_none q]

/-! ### Shared forms -/

/-- A once-per-warp form that the front end passes only moves on where no lane is active (R258). -/
theorem warpOnce_idle {s : State} {rap : RapUse} {l : List Opd} {k : State → State → Run State} (ha : active s.w = 0#64) (hc : Passes s rap l)
    (q : l.filterMap Opd.queue = []) : issue { rap := rap, opds := l } s (fun s => warpOnce s (k s)) = .next (advance s) :=
  issue_ok hc q (by simp only [warpOnce, if_pos ha])

theorem scalarBin_next {s s₁ s₂ : State} {d a b : Byte} {x y : Scalar} {f : Warp → DWord → DWord → DWord} (ha : active s.w ≠ 0#64)
    (hc : Passes s .yes [.sdst d, .ssrc a, .ssrc b]) (h₁ : readS s a = .ok (s₁, x)) (h₂ : readS s₁ b = .ok (s₂, y)) :
    scalarBin d a b f s = .next (s₂.putScalar d (spread [x, y] (f s.w x.val y.val))) := by
  refine issue_ok hc rfl ?_
  simp only [warpOnce, if_neg ha, h₁, h₂, scalarOut_spread, State.putScalar, (readS_w h₂).trans (readS_w h₁)]

theorem scalarUn_next {s s₁ : State} {d a : Byte} {x : Scalar} {f : Warp → DWord → DWord} (ha : active s.w ≠ 0#64)
    (hc : Passes s .yes [.sdst d, .ssrc a]) (h₁ : readS s a = .ok (s₁, x)) :
    scalarUn d a f s = .next (s₁.putScalar d (spread [x] (f s.w x.val))) := by
  refine issue_ok hc rfl ?_
  simp only [warpOnce, if_neg ha, h₁, scalarOut_spread, State.putScalar, readS_w h₁]

theorem perLane1_next {s s₁ : State} {wd wa : Bool} {d a : Byte} {x : Src} {check : Warp → Run Unit} {f : Warp → DWord → DWord}
    (hk : check s.w = .ok ()) (hc : Passes s .no [vdst d wd, .vsrc a wa]) (h₁ : readV s wa a = .ok (s₁, x)) :
    perLane1 wd wa d a check f s = .next (s₁.putVector [vdst d wd, .vsrc a wa] wd d fun l => spread [x l] (f s.w (x l).val)) := by
  refine issue_next hc ?_
  simp only [hk, h₁, scalarOut_spread, readV_w h₁]

theorem perLane2_next {s s₁ s₂ : State} {wide : Bool} {d a b : Byte} {x y : Src} {check : Warp → Run Unit}
    {f : Warp → DWord → DWord → DWord} (hk : check s.w = .ok ()) (hc : Passes s .no [vdst d wide, .vsrc a wide, .vsrc b wide])
    (h₁ : readV s wide a = .ok (s₁, x)) (h₂ : readV s₁ wide b = .ok (s₂, y)) :
    perLane2 wide d a b check f s =
      .next (s₂.putVector [vdst d wide, .vsrc a wide, .vsrc b wide] wide d fun l => spread [x l, y l] (f s.w (x l).val (y l).val)) := by
  refine issue_next hc ?_
  simp only [hk, h₁, h₂, scalarOut_spread, (readV_w h₂).trans (readV_w h₁)]

theorem perLane3_next {s s₁ s₂ : State} {wide : Bool} {d a b : Byte} {x y : Src} {check : Warp → Run Unit}
    {f : Warp → DWord → DWord → DWord → DWord} (hk : check s.w = .ok ()) (hc : Passes s .no [vdst d wide, .vsrc a wide, .vsrc b wide])
    (h₁ : readV s wide a = .ok (s₁, x)) (h₂ : readV s₁ wide b = .ok (s₂, y)) :
    perLane3 wide d a b check f s =
      .next (s₂.putVector [vdst d wide, .vsrc a wide, .vsrc b wide] wide d fun l =>
        spread [x l, y l, vecSrc s.w wide d.toNat l] (f s.w (x l).val (y l).val (vecSrc s.w wide d.toNat l).val)) := by
  refine issue_next hc ?_
  simp only [hk, h₁, h₂, scalarOut_spread, (readV_w h₂).trans (readV_w h₁)]

/-- A shuffle that the front end passes, with readable sources, completes. -/
theorem shuffle_next {s s₁ s₂ : State} {d a b : Byte} {x y : Src} {src : Nat → Nat → Nat}
    (hc : Passes s .no [vdst d (wideEt s), .vsrc a (wideEt s), .vsrc b (wideEt s)])
    (h₁ : readV s (wideEt s) a = .ok (s₁, x)) (h₂ : readV s₁ (wideEt s) b = .ok (s₂, y)) :
    shuffle d a b src s = .next (s₂.putVector [vdst d (wideEt s), .vsrc a (wideEt s), .vsrc b (wideEt s)] (wideEt s) d fun l =>
      if (y l).poison then poisonScalar (y l).code else moved s.w (x (Fin.ofNat 64 (src l.val ((y l).val.toNat % 64))))) := by
  refine issue_next hc ?_
  have w₁ : wideEt s₁ = wideEt s := by unfold wideEt; rw [readV_w h₁]
  have w₂ : wideEt s₂ = wideEt s := by unfold wideEt; rw [readV_w h₂, readV_w h₁]
  have e (z : DWord) : bitsNat z 0 6 = z.toNat % 64 := by simp [bitsNat]
  simp only [h₁, w₁, h₂, w₂, e, (readV_w h₂).trans (readV_w h₁)]

/-! ### From a shared form to an instruction -/

/-- A check that holds goes through. -/
theorem require_true {c : Bool} {a b : Byte} (h : c = true) : require c a b = .ok () := by simp [require, h]

theorem givesScalarTwo_of {form : Byte → Byte → Byte → Instr} {f : Warp → DWord → DWord → DWord}
    (e : ∀ d a b s, exec (form d a b) s = scalarBin d a b f s) : GivesScalarTwo form f :=
  fun _ _ _ _ hc => ⟨fun ha => (e _ _ _ _).trans (warpOnce_idle ha hc rfl), fun _ _ _ _ ha h₁ h₂ => (e _ _ _ _).trans (scalarBin_next ha hc h₁ h₂)⟩

theorem givesScalarOne_of {form : Byte → Byte → Instr} {f : Warp → DWord → DWord} (e : ∀ d a s, exec (form d a) s = scalarUn d a f s) :
    GivesScalarOne form f :=
  fun _ _ _ hc => ⟨fun ha => (e _ _ _).trans (warpOnce_idle ha hc rfl), fun _ _ ha h₁ => (e _ _ _).trans (scalarUn_next ha hc h₁)⟩

theorem givesVectorTwo_of {accepts : Elem → Bool} {form : Byte → Byte → Byte → Instr} {f : Warp → DWord → DWord → DWord}
    (check : Warp → Run Unit) (e : ∀ d a b s, exec (form d a b) s = perLane2 (wideEt s) d a b check f s)
    (k : ∀ w, accepts (modeEt w) = true → check w = .ok ()) : GivesVectorTwo accepts form f :=
  fun _ _ _ _ _ _ _ _ hk hc h₁ h₂ => (e _ _ _ _).trans (perLane2_next (k _ hk) hc h₁ h₂)

theorem givesVectorThree_of {accepts : Elem → Bool} {form : Byte → Byte → Byte → Instr} {f : Warp → DWord → DWord → DWord → DWord}
    (check : Warp → Run Unit) (e : ∀ d a b s, exec (form d a b) s = perLane3 (wideEt s) d a b check f s)
    (k : ∀ w, accepts (modeEt w) = true → check w = .ok ()) : GivesVectorThree accepts form f :=
  fun _ _ _ _ _ _ _ _ hk hc h₁ h₂ => (e _ _ _ _).trans (perLane3_next (k _ hk) hc h₁ h₂)

theorem givesVectorOne_of {accepts : Elem → Bool} {form : Byte → Byte → Instr} {f : Warp → DWord → DWord}
    (check : Warp → Run Unit) (e : ∀ d a s, exec (form d a) s = perLane1 (wideEt s) (wideEt s) d a check f s)
    (k : ∀ w, accepts (modeEt w) = true → check w = .ok ()) : GivesVectorOne accepts form f :=
  fun _ _ _ _ _ hk hc h₁ => (e _ _ _).trans (perLane1_next (k _ hk) hc h₁)

theorem givesShuffle_of {form : Byte → Byte → Byte → Instr} {src : Nat → Nat → Nat}
    (e : ∀ d a b s, exec (form d a b) s = shuffle d a b src s) : GivesShuffle form src :=
  fun _ _ _ _ _ _ _ _ hc h₁ h₂ => (e _ _ _ _).trans (shuffle_next hc h₁ h₂)

/-! ### Matrix work (R355, R356) -/

theorem recordWork_idle {s : State} (h : s.w.mat = none) : recordWork s = s := by simp [recordWork, h]

/-- What a switch-out does with accepted work: it is applied, or goes on after the restore and shows in ACCSTAT. -/
theorem recordWork_cases {s : State} {k : MatWork} (h : s.w.mat = some k) : recordWork s = applyWork s k ∨
    ∃ d : BitVec 8, recordWork s = { s with w := { s.w with mat := some { k with done := d }, accPend := 1#1 ++ BitVec.ofFin (w := 2) k.acc ++ k.form ++ d } } := by
  simp only [recordWork, h]
  split
  · exact .inl rfl
  · exact .inr ⟨_, rfl⟩

/-- A context that owns a bank of an engine, or finds one free, takes it without a write to memory. -/
theorem takeBank_free {s : State} {n : Nat} {c : BitVec 16} (h : (s.engines.toList[n]?.bind fun e => bankLost e c) = none) :
    takeBank s n c = onEngine s n fun e => { e with banks := (c :: e.banks.filter (· ≠ c)).take 2 } := by
  unfold takeBank
  rw [h]

end Sys2Proof.Machine
end

