-- ==== Sys2Proof/Laws/Memory.lean ====
section
/-!
SUPPORT. Memory: what a write leaves, and that every operation of Mem.lean keeps the canonical form.
-/
namespace Sys2Proof.Machine

/-! ### The reservation -/

/-- The reservation leaves at least 24 of the 32 units to software (R51, R454). -/
theorem reservedOf_ge : ∀ n, 0x18000000000 ≤ reservedOf n := by decide +kernel
theorem reservedFrom_ge : 0x18000000000 ≤ reservedFrom := reservedOf_ge _

/-! ### Cells -/

theorem cellsWfFrom_mono {lo lo' : Nat} (h : lo ≤ lo') : ∀ {l : List Host.Cell}, cellsWfFrom lo' l = true → cellsWfFrom lo l = true
  | [], _ => rfl
  | (k, v) :: t, w => by
    simp only [cellsWfFrom, Bool.and_eq_true, decide_eq_true_eq] at w ⊢
    exact ⟨⟨by omega, w.1.2⟩, w.2⟩

/-- Below its bound a canonical list lists nothing. -/
theorem cellGet_below {a : Nat} : ∀ {lo : Nat} {l : List Host.Cell}, cellsWfFrom lo l = true → a < lo → cellGet l a = 0#8
  | _, [], _, _ => rfl
  | lo, (k, v) :: t, w, h => by
    simp only [cellsWfFrom, Bool.and_eq_true, decide_eq_true_eq] at w
    rw [cellGet, if_neg (by omega), if_pos (by omega)]

theorem cellSet_wfFrom {a : Nat} {b : Byte} : ∀ {lo : Nat} {l : List Host.Cell},
    cellsWfFrom lo l = true → lo ≤ a → cellsWfFrom lo (cellSet l a b) = true
  | lo, [], _, h => by
    unfold cellSet; split <;> simp_all [cellsWfFrom]
  | lo, (k, v) :: t, w, h => by
    have w' := w
    simp only [cellsWfFrom, Bool.and_eq_true, decide_eq_true_eq] at w
    unfold cellSet
    split
    · split
      · exact w'
      · rename_i hb
        simp only [cellsWfFrom, Bool.and_eq_true, decide_eq_true_eq, bne_iff_ne, ne_eq]
        exact ⟨⟨h, hb⟩, ⟨by omega, bne_iff_ne.mp w.1.2⟩, w.2⟩
    · split
      · split
        · exact cellsWfFrom_mono (by omega) w.2
        · rename_i hb
          simp only [cellsWfFrom, Bool.and_eq_true, decide_eq_true_eq, bne_iff_ne, ne_eq]
          exact ⟨⟨h, hb⟩, cellsWfFrom_mono (by omega) w.2⟩
      · simp only [cellsWfFrom, Bool.and_eq_true, decide_eq_true_eq]
        exact ⟨w.1, cellSet_wfFrom w.2 (by omega)⟩

/-- A byte written keeps the canonical form. -/
theorem cellSet_wf {l : List Host.Cell} (h : cellsWf l = true) (a : Nat) (b : Byte) : cellsWf (cellSet l a b) = true :=
  cellSet_wfFrom h (Nat.zero_le a)

/-- Bytes written keep the canonical form. -/
theorem cellPut_wf : ∀ {l : List Host.Cell} (_ : cellsWf l = true) (a : Nat) (bs : List Byte), cellsWf (cellPut l a bs) = true
  | _, h, _, [] => h
  | _, h, a, b :: bs => cellPut_wf (cellSet_wf h a b) (a + 1) bs

theorem cellGet_setFrom {a c : Nat} {b : Byte} : ∀ {lo : Nat} {l : List Host.Cell}, cellsWfFrom lo l = true →
    cellGet (cellSet l a b) c = if c = a then b else cellGet l c
  | lo, [], _ => by
    unfold cellSet
    split
    · simp_all [cellGet]
    · simp only [cellGet]; split <;> simp_all
  | lo, (k, v) :: t, w => by
    have w' := w
    simp only [cellsWfFrom, Bool.and_eq_true, decide_eq_true_eq] at w
    unfold cellSet
    split
    · rename_i hlt
      split
      · rename_i hb
        split
        · rename_i hc; subst hc; rw [cellGet, if_neg (by omega), if_pos hlt, hb]
        · rfl
      · rw [cellGet]
        split
        · rfl
        · split
          · rw [cellGet, if_neg (by omega), if_pos (by omega)]
          · rfl
    · split
      · rename_i hk
        subst hk
        split
        · rename_i hb
          split
          · rename_i hc; subst hc; rw [cellGet_below w.2 (by omega), hb]
          · rw [cellGet, if_neg (by assumption)]
            split
            · rw [cellGet_below w.2 (by omega)]
            · rfl
        · rw [cellGet]
          split
          · rfl
          · rename_i hc; rw [cellGet, if_neg hc]
      · rw [cellGet]
        split
        · rw [if_neg (by omega), cellGet, if_pos (by assumption)]
        · split
          · rw [if_neg (by omega), cellGet, if_neg (by omega), if_pos (by assumption)]
          · rename_i h1 h2; rw [cellGet_setFrom w.2, cellGet.eq_2, if_neg h1, if_neg h2]

/-- A byte read after a byte written. -/
theorem cellGet_set {l : List Host.Cell} (h : cellsWf l = true) (a c : Nat) (b : Byte) :
    cellGet (cellSet l a b) c = if c = a then b else cellGet l c := cellGet_setFrom h

/-- A byte read after bytes written: the byte written there, else the byte before. -/
theorem cellGet_put : ∀ {l : List Host.Cell} (_ : cellsWf l = true) (a : Nat) (bs : List Byte) (c : Nat),
    cellGet (cellPut l a bs) c = if h : a ≤ c ∧ c - a < bs.length then bs[c - a]'h.2 else cellGet l c
  | l, w, a, [], c => by simp [cellPut]
  | l, w, a, b :: bs, c => by
    rw [cellPut, cellGet_put (cellSet_wf w a b), cellGet_set w]
    by_cases h1 : a + 1 ≤ c ∧ c - (a + 1) < bs.length
    · rw [dif_pos h1, dif_pos (by simp only [List.length_cons]; omega)]
      have e : c - a = (c - (a + 1)) + 1 := by omega
      simp only [e, List.getElem_cons_succ]
    · rw [dif_neg h1]
      by_cases h2 : c = a
      · subst h2; rw [if_pos rfl, dif_pos (by simp)]; simp
      · rw [if_neg h2, dif_neg (by simp only [List.length_cons]; omega)]

/-- Outside the bytes written, every byte reads as before. -/
theorem cellGet_put_outside {l : List Host.Cell} (w : cellsWf l = true) {a c : Nat} {bs : List Byte}
    (h : c < a ∨ a + bs.length ≤ c) : cellGet (cellPut l a bs) c = cellGet l c := by
  rw [cellGet_put w, dif_neg (by omega)]

/-- The bytes written read back. -/
theorem cellBytes_put {l : List Host.Cell} (w : cellsWf l = true) (a : Nat) (bs : List Byte) :
    cellBytes (cellPut l a bs) a bs.length = bs := by
  apply List.ext_getElem
  · simp [cellBytes]
  · intro i h1 h2
    simp only [cellBytes, List.getElem_map, List.getElem_range]
    rw [cellGet_put w, dif_pos ⟨by omega, by omega⟩]
    simp

/-- A folded operation that keeps the canonical form. -/
theorem foldl_keeps {α β : Type} {P : β → Prop} {f : β → α → β} (hf : ∀ b a, P b → P (f b a)) :
    ∀ (l : List α) {b : β}, P b → P (l.foldl f b)
  | [], _, h => h
  | a :: l, b, h => foldl_keeps hf l (hf b a h)

/-! ### The memory subsystem -/

theorem Memory.wf_iff {m : Mem} : Memory.wf m = true ↔ cellsWf m.cells = true ∧ cellsWf m.hostMem = true ∧ cellsWf m.nvme = true := by
  simp [Memory.wf, and_assoc]

/-- Two memories hold the same bytes, of the device, of the host and of the drives. -/
def SameCells (q m : Mem) : Prop := q.cells = m.cells ∧ q.hostMem = m.hostMem ∧ q.nvme = m.nvme

theorem SameCells.trans {a b c : Mem} (h : SameCells a b) (k : SameCells b c) : SameCells a c :=
  ⟨h.1.trans k.1, h.2.1.trans k.2.1, h.2.2.trans k.2.2⟩

/-- What leaves the bytes alone keeps the form. -/
theorem Memory.wf_of {m q : Mem} (h : Memory.wf m = true) (k : SameCells q m) : Memory.wf q = true := by
  rw [Memory.wf_iff] at h ⊢; rw [k.1, k.2.1, k.2.2]; exact h

/-- Canonical cells put in the place of the device's keep the form. -/
theorem Memory.wf_cells {m : Mem} (h : Memory.wf m = true) {q : Mem} (hc : cellsWf q.cells = true) (hh : q.hostMem = m.hostMem) (hn : q.nvme = m.nvme) :
    Memory.wf q = true := by
  rw [Memory.wf_iff] at h ⊢; rw [hh, hn]; exact ⟨hc, h.2⟩

/-- Bytes put into the cells keep the form. -/
theorem Memory.wf_put {m : Mem} (h : Memory.wf m = true) (a : Nat) (bs : List Byte) : Memory.wf { m with cells := cellPut m.cells a bs } = true :=
  Memory.wf_cells h (cellPut_wf (Memory.wf_iff.mp h).1 a bs) rfl rfl

/-- Bytes put into host memory keep the form. -/
theorem Memory.wf_host {m : Mem} (h : Memory.wf m = true) (a : Nat) (bs : List Byte) : Memory.wf { m with hostMem := cellPut m.hostMem a bs } = true := by
  rw [Memory.wf_iff] at h ⊢; exact ⟨h.1, cellPut_wf h.2.1 a bs, h.2.2⟩

/-- Bytes put on a drive keep the form. -/
theorem Memory.wf_drive {m : Mem} (h : Memory.wf m = true) (a : Nat) (bs : List Byte) : Memory.wf { m with nvme := cellPut m.nvme a bs } = true := by
  rw [Memory.wf_iff] at h ⊢; exact ⟨h.1, h.2.1, cellPut_wf h.2.2 a bs⟩

theorem logLine_same (m : Mem) (l : Nat) (p : BitVec 2) : SameCells (logLine m l p) m := by
  unfold logLine; split <;> exact ⟨rfl, rfl, rfl⟩

theorem logRange_same (m : Mem) (a n : Nat) (p : BitVec 2) : SameCells (logRange m a n p) m :=
  foldl_keeps (P := fun q : Mem => SameCells q m) (fun b a h => (logLine_same b a p).trans h) _ ⟨rfl, rfl, rfl⟩

/-- What a write at a home does to the bytes: those written and no others. -/
theorem cellWrite_cells (m : Mem) (a : Nat) (d : List Byte) (p : BitVec 2) :
    (cellWrite m a d p).cells = cellPut m.cells a d ∧ (cellWrite m a d p).hostMem = m.hostMem ∧ (cellWrite m a d p).nvme = m.nvme := by
  have h := logRange_same m a d.length p
  unfold cellWrite sealLines looseRange markRange
  (repeat' split) <;> simp [h.1, h.2.1, h.2.2]

theorem homeWrite_cells (m : Mem) (a : Nat) (d : List Byte) (p : BitVec 2) :
    (homeWrite m a d p).cells = cellPut m.cells a d ∧ (homeWrite m a d p).hostMem = m.hostMem ∧ (homeWrite m a d p).nvme = m.nvme :=
  cellWrite_cells (dropCopies m a d.length) a d p

/-- Outside the bytes written at a home, memory reads as before. -/
theorem homeWrite_outside {m : Mem} (w : Memory.wf m = true) {a c : Nat} {d : List Byte} {p : BitVec 2}
    (h : c < a ∨ a + d.length ≤ c) : cellGet (homeWrite m a d p).cells c = cellGet m.cells c := by
  rw [(homeWrite_cells m a d p).1, cellGet_put_outside (Memory.wf_iff.mp w).1 h]

theorem cellWrite_wf {m : Mem} (h : Memory.wf m = true) (a : Nat) (d : List Byte) (p : BitVec 2) : Memory.wf (cellWrite m a d p) = true := by
  have k := cellWrite_cells m a d p
  exact Memory.wf_cells h (k.1 ▸ cellPut_wf (Memory.wf_iff.mp h).1 a d) k.2.1 k.2.2

theorem homeWrite_wf {m : Mem} (h : Memory.wf m = true) (a : Nat) (d : List Byte) (p : BitVec 2) : Memory.wf (homeWrite m a d p) = true :=
  cellWrite_wf (m := dropCopies m a d.length) h a d p

theorem dropCopies_wf {m : Mem} (h : Memory.wf m = true) (a n : Nat) : Memory.wf (dropCopies m a n) = true := h
theorem sealLines_wf {m : Mem} (h : Memory.wf m = true) (a n : Nat) : Memory.wf (sealLines m a n) = true := h

theorem sliceApply_wf {m : Mem} (h : Memory.wf m = true) (own : Option Nat) (die a : Nat) (d : List Byte) (p : BitVec 2) :
    Memory.wf (sliceApply m own die a d p) = true := Memory.wf_of (cellWrite_wf h a d p) ⟨rfl, rfl, rfl⟩

theorem sliceWrite_wf {m : Mem} (h : Memory.wf m = true) (core a : Nat) (d : List Byte) (p : BitVec 2) :
    Memory.wf (sliceWrite m core a d p) = true := sliceApply_wf h _ _ a d p

theorem sliceWriteEngine_wf {m : Mem} (h : Memory.wf m = true) (die a : Nat) (d : List Byte) (p : BitVec 2) :
    Memory.wf (sliceWriteEngine m die a d p) = true := Memory.wf_of (sliceApply_wf h none die a d p) ⟨rfl, rfl, rfl⟩

theorem recallLine_wf {m : Mem} (h : Memory.wf m = true) (l : Nat) : Memory.wf (recallLine m l) = true := by
  unfold recallLine
  simp only []
  split
  · exact h
  · have k := logLine_same m l 0#2
    refine Memory.wf_cells h ?_ (by simpa [sealLines] using k.2.1) (by simpa [sealLines] using k.2.2)
    apply foldl_keeps (P := fun c => cellsWf c = true) _ _ (by rw [k.1]; exact (Memory.wf_iff.mp h).1)
    intro c u hc
    exact foldl_keeps (P := fun c => cellsWf c = true) (fun c p hc => cellPut_wf hc _ _) _ hc

theorem recallRange_wf {m : Mem} (h : Memory.wf m = true) (a n : Nat) : Memory.wf (recallRange m a n) = true :=
  foldl_keeps (P := fun q : Mem => Memory.wf q = true) (fun _ _ h => recallLine_wf h _) _ h

/-- With no reduction outstanding a recall does nothing. -/
theorem recallLine_none {m : Mem} (h : m.ucopies = []) (l : Nat) : recallLine m l = m := by simp [recallLine, h]

theorem dirSet_wf {m : Mem} (h : Memory.wf m = true) (a l : Nat) (st : Option LineState) : Memory.wf (dirSet m a l st) = true := h
theorem dirOwn_wf {m : Mem} (h : Memory.wf m = true) (a l : Nat) : Memory.wf (dirOwn m a l) = true := h
theorem dieDrop_wf {m : Mem} (h : Memory.wf m = true) (a l : Nat) : Memory.wf (dieDrop m a l) = true := h
theorem grantU_wf {m : Mem} (h : Memory.wf m = true) (a l : Nat) : Memory.wf (grantU m a l) = true := h
theorem applyForwards_wf {m : Mem} (h : Memory.wf m = true) (d l : Nat) : Memory.wf (applyForwards m d l) = true := h
theorem copyFill_wf {m : Mem} (h : Memory.wf m = true) (c l : Nat) : Memory.wf (copyFill m c l) = true := by
  unfold copyFill; split <;> exact h
theorem dirShare_wf {m : Mem} (h : Memory.wf m = true) (a l : Nat) : Memory.wf (dirShare m a l) = true := by
  unfold dirShare; (repeat' split) <;> exact h
theorem setWos_wf {m : Mem} (h : Memory.wf m = true) (l : Nat) (w : Wos) : Memory.wf (setWos m l w) = true := h
theorem setFrameRec_wf {m : Mem} (h : Memory.wf m = true) (r : FrameRec) : Memory.wf (setFrameRec m r) = true := h
theorem logFrame_wf {m : Mem} (h : Memory.wf m = true) (r : FrameRec) : Memory.wf (logFrame m r) = true := by
  unfold logFrame; split <;> exact h
theorem noteStates_wf {m : Mem} (h : Memory.wf m = true) (f : Nat) : Memory.wf (noteStates m f) = true := h
theorem markLine_wf {m : Mem} (h : Memory.wf m = true) (l : Nat) : Memory.wf (markLine m l) = true := Memory.wf_of h (logLine_same m l 0#2)
theorem ipSet_wf {m : Mem} (h : Memory.wf m = true) (c : IpCopy) : Memory.wf (ipSet m c) = true := h
theorem ipDrop_wf {m : Mem} (h : Memory.wf m = true) (q : IpHolder) (l : Nat) : Memory.wf (ipDrop m q l) = true := h

theorem rekeyLine_wf {m : Mem} (h : Memory.wf m = true) (k : BitVec 7) (l : Nat) : Memory.wf (rekeyLine m k l) = true := by
  unfold rekeyLine
  generalize bytesOfNat 128 (lineUnder m k l).toNat = bs
  exact Memory.wf_of (Memory.wf_put h (l * 128) bs) ⟨rfl, rfl, rfl⟩

theorem restoreFrame_wf {m : Mem} (h : Memory.wf m = true) (r : FrameRec) : Memory.wf (restoreFrame m r) = true := by
  unfold restoreFrame
  refine setFrameRec_wf ?_ r
  split
  · exact h
  · exact foldl_keeps (P := fun q : Mem => Memory.wf q = true) (fun _ _ h => rekeyLine_wf h _ _) _ h

theorem reduceAt_wf {m : Mem} (h : Memory.wf m = true) (core agent : Nat) (home : Bool) (pa : Nat) (op : BitVec 3) (wide : Bool) (t : BitVec 4)
    (x : Nat) : Memory.wf (reduceAt m core agent home pa op wide t x) = true := by
  unfold reduceAt
  simp only []
  have h' : Memory.wf (if (m.ucopies.any fun u => u.line = lineOf pa && !(u.op = op && u.wide = wide && u.type = t)) = true
      then recallLine m (lineOf pa) else m) = true := by
    split
    · exact recallLine_wf h _
    · exact h
  generalize (if (m.ucopies.any fun u => u.line = lineOf pa && !(u.op = op && u.wide = wide && u.type = t)) = true
      then recallLine m (lineOf pa) else m) = q at h' ⊢
  (repeat' split) <;> first
    | with_reducible exact sliceWrite_wf h' _ _ _ _
    | with_reducible exact sliceWrite_wf (dirOwn_wf h' _ _) _ _ _ _
    | with_reducible exact sliceWrite_wf (dirSet_wf h' _ _ _) _ _ _ _
    | exact Memory.wf_of (markLine_wf h' (lineOf pa)) ⟨rfl, rfl, rfl⟩
    | exact Memory.wf_of (markLine_wf (grantU_wf h' agent (lineOf pa)) (lineOf pa)) ⟨rfl, rfl, rfl⟩

theorem writeBack_wf {m : Mem} (h : Memory.wf m = true) (l : Nat) (d : BitVec 1024) (k p : BitVec 128) :
    Memory.wf (writeBack m l d k p) = true :=
  foldl_keeps (P := fun q : Mem => Memory.wf q = true) (fun _ _ h => by
    split
    · exact homeWrite_wf h _ _ _
    · exact h) _ h

theorem ipLoad_wf {m : Mem} (h : Memory.wf m = true) (core : Nat) (c p : Bool) (pa n : Nat) : Memory.wf (ipLoad m core c p pa n).1 = true := by
  unfold ipLoad; simp only []; (repeat' split) <;> exact h

theorem ipStore_wf {m : Mem} (h : Memory.wf m = true) (core : Nat) (p : Bool) (pa : Nat) (d : List Byte) (pr : BitVec 2) :
    Memory.wf (ipStore m core p pa d pr) = true := by
  unfold ipStore; simp only []; (repeat' split) <;> first | exact homeWrite_wf h _ _ _ | exact h

theorem ipEngineWrite_wf {m : Mem} (h : Memory.wf m = true) (die : Option Nat) (p : Bool) (pa : Nat) (d : List Byte) (pr : BitVec 2) :
    Memory.wf (ipEngineWrite m die p pa d pr) = true := by
  unfold ipEngineWrite; (repeat' split) <;> first | exact homeWrite_wf h _ _ _ | exact h

theorem scramble_wf {m : Mem} (h : Memory.wf m = true) (a n : Nat) : Memory.wf (scramble m a n) = true :=
  Memory.wf_cells h (cellPut_wf (Memory.wf_iff.mp h).1 _ _) rfl rfl

/-- Memory after reset has the form. -/
theorem Mem.reset_wf : Memory.wf Mem.reset = true := rfl

end Sys2Proof.Machine
end

