-- ==== Sys2Proof/Laws/PerInstr.lean ====
section
/-!
SUPPORT. Statements made per instruction: the family Encoding says that decoding the word of a well-formed instruction gives the
instruction back (R234 to R249), one lemma per constructor.
-/
namespace Sys2Proof.Laws

/-- The word of the instruction, when it is well formed and has one, decodes to it. -/
def Encoding.Statement (i : Instr) : Prop := ∀ w, i.wf = true → encode i = some w → decodeWord w = .ok i

/-- The number of an encoded word, where its fields do not overflow. -/
theorem word_toNat {i : Instr} {w : Word} {n m : Nat} (e : encode i = some w) (p : encode i = some (BitVec.ofNat 32 m)) (b : m = n ∧ n < 4294967296) :
    w.toNat = n := by
  rw [p] at e; cases e; rw [BitVec.toNat_ofNat]; omega

/-- The index rule of the MEM format. -/
theorem indexWf_iff {w : BitVec 2} {g : BitVec 1} (h : Instr.indexWf w g = true) : ¬(g = 1#1 ∧ w = 3#2) := by
  simp [Instr.indexWf] at h; rintro ⟨rfl, rfl⟩; simp at h

/-- The reply rule of the engine functions. -/
theorem replyWf_iff {r : BitVec 1} {d : BitVec 6} (h : Instr.replyWf r d = true) : ¬(r = 0#1 ∧ ¬d = 0#6) := by
  simp [Instr.replyWf] at h; rintro ⟨rfl, n⟩; simp [n] at h

/-- A lane number leaves the top bits of its field clear. -/
theorem topBits {k : BitVec 8} (h : k.toNat < 64) : k.extractLsb' 6 2 = 0#2 := by
  apply BitVec.eq_of_toNat_eq; rw [BitVec.extractLsb'_toNat, Nat.shiftRight_eq_div_pow]; simp; omega

/-- A field read out of a field. -/
theorem within (a n b m : Nat) (w : Word) (h : b + m ≤ n) : w.extractLsb' (a + b) m = (w.extractLsb' a n).extractLsb' b m := by
  ext i hi
  simp [show b + i < n by omega, Nat.add_assoc]

/-- A field within a field. -/
theorem sub82 {w : Word} {k : BitVec 8} (h : w.extractLsb' 2 8 = k) (h' : k.extractLsb' 6 2 = 0#2) : w.extractLsb' 8 2 = 0#2 := by
  subst h; rw [← h']; exact within 2 8 6 2 w (by decide)
/-- The low bit of a reduction's rounding field. -/
theorem lowBit {r : BitVec 2} (h : (r == 0#2 || r == 2#2) = true) : r.extractLsb' 0 1 ≠ 1#1 := by revert h; revert r; decide
/-- A field within a field. -/
theorem sub01 {w : Word} {r : BitVec 2} (h : w.extractLsb' 0 2 = r) : w.extractLsb' 0 1 = r.extractLsb' 0 1 := by
  subst h; exact within 0 2 0 1 w (by decide)

/-- The words of SMOVI. -/
theorem smoviWord {w : Word} (h : 56 ≤ (w.extractLsb' 26 6).toNat) (h' : (w.extractLsb' 26 6).toNat < 60) :
    decodeWord w = .ok (.smovi (w.extractLsb' 20 8) (w.extractLsb' 0 20)) := by
  rw [decodeWord]
  have : (w.extractLsb' 26 6).toNat = 56 ∨ (w.extractLsb' 26 6).toNat = 57 ∨ (w.extractLsb' 26 6).toNat = 58 ∨ (w.extractLsb' 26 6).toNat = 59 := by omega
  rcases this with e | e | e | e <;> rw [e] <;> rfl

/-- The words of MOVI. -/
theorem moviWord {w : Word} (h : 60 ≤ (w.extractLsb' 26 6).toNat) : decodeWord w = .ok (.movi (w.extractLsb' 20 8) (w.extractLsb' 0 20)) := by
  rw [decodeWord]
  have : (w.extractLsb' 26 6).toNat = 60 ∨ (w.extractLsb' 26 6).toNat = 61 ∨ (w.extractLsb' 26 6).toNat = 62 ∨ (w.extractLsb' 26 6).toNat = 63 := by
    have := (w.extractLsb' 26 6).isLt; omega
  rcases this with e | e | e | e <;> rw [e] <;> rfl

/-- A field of a word, from the number above it and the number below it. -/
theorem field_of {w : Word} {n len : Nat} (lo : Nat) (x : BitVec len) (above below : Nat) (e : w.toNat = n)
    (h : n = (above * 2 ^ len + x.toNat) * 2 ^ lo + below) (b : below < 2 ^ lo) : w.extractLsb' lo len = x := by
  apply BitVec.eq_of_toNat_eq
  rw [BitVec.extractLsb'_toNat, e, h, Nat.shiftRight_eq_div_pow, Nat.mul_comm _ (2 ^ lo), Nat.mul_add_div (Nat.two_pow_pos lo),
    Nat.div_eq_of_lt b, Nat.add_zero, Nat.mul_comm above, Nat.mul_add_mod, Nat.mod_eq_of_lt x.isLt]

theorem decodeWord_00 {w : Word} (h : w.extractLsb' 26 6 = 0#6) : decodeWord w = decodeCtl w := by rw [decodeWord, h]; rfl
theorem decodeWord_01 {w : Word} (h : w.extractLsb' 26 6 = 1#6) : decodeWord w = decodeBr w := by rw [decodeWord, h]; rfl
theorem decodeWord_02 {w : Word} (h : w.extractLsb' 26 6 = 2#6) : decodeWord w = decodeCallRcv w := by rw [decodeWord, h]; rfl
theorem decodeWord_03 {w : Word} (h : w.extractLsb' 26 6 = 3#6) : decodeWord w = decodeRdsr w := by rw [decodeWord, h]; rfl
theorem decodeWord_04 {w : Word} (h : w.extractLsb' 26 6 = 4#6) : decodeWord w = decodeWrsr w := by rw [decodeWord, h]; rfl
theorem decodeWord_05 {w : Word} (h : w.extractLsb' 26 6 = 5#6) : decodeWord w = decodeSarith w := by rw [decodeWord, h]; rfl
theorem decodeWord_06 {w : Word} (h : w.extractLsb' 26 6 = 6#6) : decodeWord w = decodeSlogic w := by rw [decodeWord, h]; rfl
theorem decodeWord_07 {w : Word} (h : w.extractLsb' 26 6 = 7#6) : decodeWord w = decodeSshift w := by rw [decodeWord, h]; rfl
theorem decodeWord_08 {w : Word} (h : w.extractLsb' 26 6 = 8#6) : decodeWord w = decodeScmp w := by rw [decodeWord, h]; rfl
theorem decodeWord_09 {w : Word} (h : w.extractLsb' 26 6 = 9#6) : decodeWord w = decodeSdiv w := by rw [decodeWord, h]; rfl
theorem decodeWord_0a {w : Word} (h : w.extractLsb' 26 6 = 10#6) : decodeWord w = decodeSunary w := by rw [decodeWord, h]; rfl
theorem decodeWord_0b {w : Word} (h : w.extractLsb' 26 6 = 11#6) : decodeWord w = decodeVarith w := by rw [decodeWord, h]; rfl
theorem decodeWord_0c {w : Word} (h : w.extractLsb' 26 6 = 12#6) : decodeWord w = decodeVlogic w := by rw [decodeWord, h]; rfl
theorem decodeWord_0d {w : Word} (h : w.extractLsb' 26 6 = 13#6) : decodeWord w = decodeVshift w := by rw [decodeWord, h]; rfl
theorem decodeWord_0e {w : Word} (h : w.extractLsb' 26 6 = 14#6) : decodeWord w = decodeVminmax w := by rw [decodeWord, h]; rfl
theorem decodeWord_0f {w : Word} (h : w.extractLsb' 26 6 = 15#6) : decodeWord w = decodeVcmp w := by rw [decodeWord, h]; rfl
theorem decodeWord_10 {w : Word} (h : w.extractLsb' 26 6 = 16#6) : decodeWord w = decodeVunary w := by rw [decodeWord, h]; rfl
theorem decodeWord_11 {w : Word} (h : w.extractLsb' 26 6 = 17#6) : decodeWord w = decodeVfarith w := by rw [decodeWord, h]; rfl
theorem decodeWord_12 {w : Word} (h : w.extractLsb' 26 6 = 18#6) : decodeWord w = decodeVffma w := by rw [decodeWord, h]; rfl
theorem decodeWord_13 {w : Word} (h : w.extractLsb' 26 6 = 19#6) : decodeWord w = decodeVcvt w := by rw [decodeWord, h]; rfl
theorem decodeWord_14 {w : Word} (h : w.extractLsb' 26 6 = 20#6) : decodeWord w = decodeVshfl w := by rw [decodeWord, h]; rfl
theorem decodeWord_15 {w : Word} (h : w.extractLsb' 26 6 = 21#6) : decodeWord w = decodeVxfer w := by rw [decodeWord, h]; rfl
theorem decodeWord_16 {w : Word} (h : w.extractLsb' 26 6 = 22#6) : decodeWord w = decodeVote w := by rw [decodeWord, h]; rfl
theorem decodeWord_17 {w : Word} (h : w.extractLsb' 26 6 = 23#6) : decodeWord w = decodeVscan w := by rw [decodeWord, h]; rfl
theorem decodeWord_18 {w : Word} (h : w.extractLsb' 26 6 = 24#6) : decodeWord w = decodeVreduce w := by rw [decodeWord, h]; rfl
theorem decodeWord_19 {w : Word} (h : w.extractLsb' 26 6 = 25#6) : decodeWord w = decodeMaskOp w := by rw [decodeWord, h]; rfl
theorem decodeWord_1a {w : Word} (h : w.extractLsb' 26 6 = 26#6) : decodeWord w = decodePlogic w := by rw [decodeWord, h]; rfl
theorem decodeWord_1b {w : Word} (h : w.extractLsb' 26 6 = 27#6) : decodeWord w = decodeReord w := by rw [decodeWord, h]; rfl
theorem decodeWord_1c {w : Word} (h : w.extractLsb' 26 6 = 28#6) : decodeWord w = decodeLdv w := by rw [decodeWord, h]; rfl
theorem decodeWord_1d {w : Word} (h : w.extractLsb' 26 6 = 29#6) : decodeWord w = decodeGather w := by rw [decodeWord, h]; rfl
theorem decodeWord_1e {w : Word} (h : w.extractLsb' 26 6 = 30#6) : decodeWord w = decodeStv w := by rw [decodeWord, h]; rfl
theorem decodeWord_1f {w : Word} (h : w.extractLsb' 26 6 = 31#6) : decodeWord w = decodeScatter w := by rw [decodeWord, h]; rfl
theorem decodeWord_20 {w : Word} (h : w.extractLsb' 26 6 = 32#6) : decodeWord w = decodeLdc w := by rw [decodeWord, h]; rfl
theorem decodeWord_21 {w : Word} (h : w.extractLsb' 26 6 = 33#6) : decodeWord w = decodeSld w := by rw [decodeWord, h]; rfl
theorem decodeWord_22 {w : Word} (h : w.extractLsb' 26 6 = 34#6) : decodeWord w = decodeSst w := by rw [decodeWord, h]; rfl
theorem decodeWord_23 {w : Word} (h : w.extractLsb' 26 6 = 35#6) : decodeWord w = decodeLda w := by rw [decodeWord, h]; rfl
theorem decodeWord_24 {w : Word} (h : w.extractLsb' 26 6 = 36#6) : decodeWord w = decodeStl w := by rw [decodeWord, h]; rfl
theorem decodeWord_25 {w : Word} (h : w.extractLsb' 26 6 = 37#6) : decodeWord w = decodeTile w := by rw [decodeWord, h]; rfl
theorem decodeWord_26 {w : Word} (h : w.extractLsb' 26 6 = 38#6) : decodeWord w = decodeHandle w := by rw [decodeWord, h]; rfl
theorem decodeWord_27 {w : Word} (h : w.extractLsb' 26 6 = 39#6) : decodeWord w = decodeMemCtl w := by rw [decodeWord, h]; rfl
theorem decodeWord_28 {w : Word} (h : w.extractLsb' 26 6 = 40#6) : decodeWord w = decodeFence w := by rw [decodeWord, h]; rfl
theorem decodeWord_29 {w : Word} (h : w.extractLsb' 26 6 = 41#6) : decodeWord w = decodeAtom w := by rw [decodeWord, h]; rfl
theorem decodeWord_2a {w : Word} (h : w.extractLsb' 26 6 = 42#6) : decodeWord w = decodeRed w := by rw [decodeWord, h]; rfl
theorem decodeWord_2b {w : Word} (h : w.extractLsb' 26 6 = 43#6) : decodeWord w = decodeBar w := by rw [decodeWord, h]; rfl
theorem decodeWord_2c {w : Word} (h : w.extractLsb' 26 6 = 44#6) : decodeWord w = decodeRegClm w := by rw [decodeWord, h]; rfl
theorem decodeWord_2d {w : Word} (h : w.extractLsb' 26 6 = 45#6) : decodeWord w = decodeQkvs w := by rw [decodeWord, h]; rfl
theorem decodeWord_2e {w : Word} (h : w.extractLsb' 26 6 = 46#6) : decodeWord w = decodeKvx w := by rw [decodeWord, h]; rfl
theorem decodeWord_2f {w : Word} (h : w.extractLsb' 26 6 = 47#6) : decodeWord w = decodeRld w := by rw [decodeWord, h]; rfl
theorem decodeWord_30 {w : Word} (h : w.extractLsb' 26 6 = 48#6) : decodeWord w = decodeRst w := by rw [decodeWord, h]; rfl
theorem decodeWord_31 {w : Word} (h : w.extractLsb' 26 6 = 49#6) : decodeWord w = decodeRatom w := by rw [decodeWord, h]; rfl
theorem decodeWord_32 {w : Word} (h : w.extractLsb' 26 6 = 50#6) : decodeWord w = decodeRred w := by rw [decodeWord, h]; rfl
theorem decodeWord_33 {w : Word} (h : w.extractLsb' 26 6 = 51#6) : decodeWord w = decodeMcst w := by rw [decodeWord, h]; rfl
theorem decodeWord_34 {w : Word} (h : w.extractLsb' 26 6 = 52#6) : decodeWord w = decodeMatrix w := by rw [decodeWord, h]; rfl
theorem decodeWord_35 {w : Word} (h : w.extractLsb' 26 6 = 53#6) : decodeWord w = decodeAcc w := by rw [decodeWord, h]; rfl
theorem decodeWord_36 {w : Word} (h : w.extractLsb' 26 6 = 54#6) : decodeWord w = decodeCop w := by rw [decodeWord, h]; rfl
theorem decodeWord_37 {w : Word} (h : w.extractLsb' 26 6 = 55#6) : decodeWord w = decodeCodeTab w := by rw [decodeWord, h]; rfl

theorem layout0 {i : Instr} {w : Word} {c : Nat} (x0 : BitVec 10) (g0 g1 g2 : Nat) (en : encode i = some w)
    (p : encode i = some (BitVec.ofNat 32 (c + place 0 x0)))
    (hc : (Nat.beq c (g0 * 1024 + g1 * 262144 + g2 * 67108864) && Nat.blt g0 256 && Nat.blt g1 256 && Nat.blt g2 64) = true) :
    w.extractLsb' 0 10 = x0 ∧ w.extractLsb' 10 8 = BitVec.ofNat 8 g0 ∧ w.extractLsb' 18 8 = BitVec.ofNat 8 g1 ∧ w.extractLsb' 26 6 = BitVec.ofNat 6 g2 := by
  simp only [Bool.and_eq_true, Nat.beq_eq, Nat.blt_eq] at hc
  have := x0.isLt
  have eq := word_toNat en p (n := x0.toNat + g0 * 1024 + g1 * 262144 + g2 * 67108864) (by simp only [place]; omega)
  refine ⟨field_of _ _ (g0 + g1 * 256 + g2 * 65536) (0) eq ?_ ?_, field_of _ _ (g1 + g2 * 256) (x0.toNat) eq ?_ ?_, field_of _ _ (g2) (x0.toNat + g0 * 1024) eq ?_ ?_, field_of _ _ (0) (x0.toNat + g0 * 1024 + g1 * 262144) eq ?_ ?_⟩
  all_goals (try simp only [BitVec.toNat_ofNat]); omega

theorem layout1 {i : Instr} {w : Word} {c : Nat} (x0 : BitVec 8) (g0 g1 g2 : Nat) (en : encode i = some w)
    (p : encode i = some (BitVec.ofNat 32 (c + place 10 x0)))
    (hc : (Nat.beq c (g0 + g1 * 262144 + g2 * 67108864) && Nat.blt g0 1024 && Nat.blt g1 256 && Nat.blt g2 64) = true) :
    w.extractLsb' 0 10 = BitVec.ofNat 10 g0 ∧ w.extractLsb' 10 8 = x0 ∧ w.extractLsb' 18 8 = BitVec.ofNat 8 g1 ∧ w.extractLsb' 26 6 = BitVec.ofNat 6 g2 := by
  simp only [Bool.and_eq_true, Nat.beq_eq, Nat.blt_eq] at hc
  have := x0.isLt
  have eq := word_toNat en p (n := g0 + x0.toNat * 1024 + g1 * 262144 + g2 * 67108864) (by simp only [place]; omega)
  refine ⟨field_of _ _ (x0.toNat + g1 * 256 + g2 * 65536) (0) eq ?_ ?_, field_of _ _ (g1 + g2 * 256) (g0) eq ?_ ?_, field_of _ _ (g2) (g0 + x0.toNat * 1024) eq ?_ ?_, field_of _ _ (0) (g0 + x0.toNat * 1024 + g1 * 262144) eq ?_ ?_⟩
  all_goals (try simp only [BitVec.toNat_ofNat]); omega

theorem layout2 {i : Instr} {w : Word} {c : Nat} (x0 : BitVec 16) (x1 : BitVec 4) (g0 g1 g2 : Nat) (en : encode i = some w)
    (p : encode i = some (BitVec.ofNat 32 (c + place 10 x0 + place 6 x1)))
    (hc : (Nat.beq c (g0 + g1 * 16 + g2 * 67108864) && Nat.blt g0 16 && Nat.blt g1 4 && Nat.blt g2 64) = true) :
    w.extractLsb' 0 4 = BitVec.ofNat 4 g0 ∧ w.extractLsb' 4 2 = BitVec.ofNat 2 g1 ∧ w.extractLsb' 6 4 = x1 ∧ w.extractLsb' 10 16 = x0 ∧ w.extractLsb' 26 6 = BitVec.ofNat 6 g2 := by
  simp only [Bool.and_eq_true, Nat.beq_eq, Nat.blt_eq] at hc
  have := x0.isLt; have := x1.isLt
  have eq := word_toNat en p (n := g0 + g1 * 16 + x1.toNat * 64 + x0.toNat * 1024 + g2 * 67108864) (by simp only [place]; omega)
  refine ⟨field_of _ _ (g1 + x1.toNat * 4 + x0.toNat * 64 + g2 * 4194304) (0) eq ?_ ?_, field_of _ _ (x1.toNat + x0.toNat * 16 + g2 * 1048576) (g0) eq ?_ ?_, field_of _ _ (x0.toNat + g2 * 65536) (g0 + g1 * 16) eq ?_ ?_, field_of _ _ (g2) (g0 + g1 * 16 + x1.toNat * 64) eq ?_ ?_, field_of _ _ (0) (g0 + g1 * 16 + x1.toNat * 64 + x0.toNat * 1024) eq ?_ ?_⟩
  all_goals (try simp only [BitVec.toNat_ofNat]); omega

theorem layout3 {i : Instr} {w : Word} {c : Nat} (x0 : BitVec 16) (x1 : BitVec 4) (x2 : BitVec 4) (g0 g1 : Nat) (en : encode i = some w)
    (p : encode i = some (BitVec.ofNat 32 (c + place 10 x0 + place 6 x1 + place 0 x2)))
    (hc : (Nat.beq c (g0 * 16 + g1 * 67108864) && Nat.blt g0 4 && Nat.blt g1 64) = true) :
    w.extractLsb' 0 4 = x2 ∧ w.extractLsb' 4 2 = BitVec.ofNat 2 g0 ∧ w.extractLsb' 6 4 = x1 ∧ w.extractLsb' 10 16 = x0 ∧ w.extractLsb' 26 6 = BitVec.ofNat 6 g1 := by
  simp only [Bool.and_eq_true, Nat.beq_eq, Nat.blt_eq] at hc
  have := x0.isLt; have := x1.isLt; have := x2.isLt
  have eq := word_toNat en p (n := x2.toNat + g0 * 16 + x1.toNat * 64 + x0.toNat * 1024 + g1 * 67108864) (by simp only [place]; omega)
  refine ⟨field_of _ _ (g0 + x1.toNat * 4 + x0.toNat * 64 + g1 * 4194304) (0) eq ?_ ?_, field_of _ _ (x1.toNat + x0.toNat * 16 + g1 * 1048576) (x2.toNat) eq ?_ ?_, field_of _ _ (x0.toNat + g1 * 65536) (x2.toNat + g0 * 16) eq ?_ ?_, field_of _ _ (g1) (x2.toNat + g0 * 16 + x1.toNat * 64) eq ?_ ?_, field_of _ _ (0) (x2.toNat + g0 * 16 + x1.toNat * 64 + x0.toNat * 1024) eq ?_ ?_⟩
  all_goals (try simp only [BitVec.toNat_ofNat]); omega

theorem layout4 {i : Instr} {w : Word} {c : Nat} (x0 : BitVec 16) (x1 : BitVec 4) (g0 g1 : Nat) (en : encode i = some w)
    (p : encode i = some (BitVec.ofNat 32 (c + place 10 x0 + place 6 x1)))
    (hc : (Nat.beq c (g0 + g1 * 67108864) && Nat.blt g0 64 && Nat.blt g1 64) = true) :
    w.extractLsb' 0 6 = BitVec.ofNat 6 g0 ∧ w.extractLsb' 6 4 = x1 ∧ w.extractLsb' 10 16 = x0 ∧ w.extractLsb' 26 6 = BitVec.ofNat 6 g1 := by
  simp only [Bool.and_eq_true, Nat.beq_eq, Nat.blt_eq] at hc
  have := x0.isLt; have := x1.isLt
  have eq := word_toNat en p (n := g0 + x1.toNat * 64 + x0.toNat * 1024 + g1 * 67108864) (by simp only [place]; omega)
  refine ⟨field_of _ _ (x1.toNat + x0.toNat * 16 + g1 * 1048576) (0) eq ?_ ?_, field_of _ _ (x0.toNat + g1 * 65536) (g0) eq ?_ ?_, field_of _ _ (g1) (g0 + x1.toNat * 64) eq ?_ ?_, field_of _ _ (0) (g0 + x1.toNat * 64 + x0.toNat * 1024) eq ?_ ?_⟩
  all_goals (try simp only [BitVec.toNat_ofNat]); omega

theorem layout5 {i : Instr} {w : Word} {c : Nat} (x0 : BitVec 8) (x1 : BitVec 10) (g0 g1 : Nat) (en : encode i = some w)
    (p : encode i = some (BitVec.ofNat 32 (c + place 18 x0 + place 0 x1)))
    (hc : (Nat.beq c (g0 * 1024 + g1 * 67108864) && Nat.blt g0 256 && Nat.blt g1 64) = true) :
    w.extractLsb' 0 10 = x1 ∧ w.extractLsb' 10 8 = BitVec.ofNat 8 g0 ∧ w.extractLsb' 18 8 = x0 ∧ w.extractLsb' 26 6 = BitVec.ofNat 6 g1 := by
  simp only [Bool.and_eq_true, Nat.beq_eq, Nat.blt_eq] at hc
  have := x0.isLt; have := x1.isLt
  have eq := word_toNat en p (n := x1.toNat + g0 * 1024 + x0.toNat * 262144 + g1 * 67108864) (by simp only [place]; omega)
  refine ⟨field_of _ _ (g0 + x0.toNat * 256 + g1 * 65536) (0) eq ?_ ?_, field_of _ _ (x0.toNat + g1 * 256) (x1.toNat) eq ?_ ?_, field_of _ _ (g1) (x1.toNat + g0 * 1024) eq ?_ ?_, field_of _ _ (0) (x1.toNat + g0 * 1024 + x0.toNat * 262144) eq ?_ ?_⟩
  all_goals (try simp only [BitVec.toNat_ofNat]); omega

theorem layout6 {i : Instr} {w : Word} {c : Nat} (x0 : BitVec 8) (x1 : BitVec 10) (g0 g1 : Nat) (en : encode i = some w)
    (p : encode i = some (BitVec.ofNat 32 (c + place 10 x0 + place 0 x1)))
    (hc : (Nat.beq c (g0 * 262144 + g1 * 67108864) && Nat.blt g0 256 && Nat.blt g1 64) = true) :
    w.extractLsb' 0 10 = x1 ∧ w.extractLsb' 10 8 = x0 ∧ w.extractLsb' 18 8 = BitVec.ofNat 8 g0 ∧ w.extractLsb' 26 6 = BitVec.ofNat 6 g1 := by
  simp only [Bool.and_eq_true, Nat.beq_eq, Nat.blt_eq] at hc
  have := x0.isLt; have := x1.isLt
  have eq := word_toNat en p (n := x1.toNat + x0.toNat * 1024 + g0 * 262144 + g1 * 67108864) (by simp only [place]; omega)
  refine ⟨field_of _ _ (x0.toNat + g0 * 256 + g1 * 65536) (0) eq ?_ ?_, field_of _ _ (g0 + g1 * 256) (x1.toNat) eq ?_ ?_, field_of _ _ (g1) (x1.toNat + x0.toNat * 1024) eq ?_ ?_, field_of _ _ (0) (x1.toNat + x0.toNat * 1024 + g0 * 262144) eq ?_ ?_⟩
  all_goals (try simp only [BitVec.toNat_ofNat]); omega

theorem layout7 {i : Instr} {w : Word} {c : Nat} (x0 : BitVec 8) (x1 : BitVec 8) (x2 : BitVec 8) (g0 g1 : Nat) (en : encode i = some w)
    (p : encode i = some (BitVec.ofNat 32 (c + place 18 x0 + place 10 x1 + place 2 x2)))
    (hc : (Nat.beq c (g0 + g1 * 67108864) && Nat.blt g0 4 && Nat.blt g1 64) = true) :
    w.extractLsb' 0 2 = BitVec.ofNat 2 g0 ∧ w.extractLsb' 2 8 = x2 ∧ w.extractLsb' 10 8 = x1 ∧ w.extractLsb' 18 8 = x0 ∧ w.extractLsb' 26 6 = BitVec.ofNat 6 g1 := by
  simp only [Bool.and_eq_true, Nat.beq_eq, Nat.blt_eq] at hc
  have := x0.isLt; have := x1.isLt; have := x2.isLt
  have eq := word_toNat en p (n := g0 + x2.toNat * 4 + x1.toNat * 1024 + x0.toNat * 262144 + g1 * 67108864) (by simp only [place]; omega)
  refine ⟨field_of _ _ (x2.toNat + x1.toNat * 256 + x0.toNat * 65536 + g1 * 16777216) (0) eq ?_ ?_, field_of _ _ (x1.toNat + x0.toNat * 256 + g1 * 65536) (g0) eq ?_ ?_, field_of _ _ (x0.toNat + g1 * 256) (g0 + x2.toNat * 4) eq ?_ ?_, field_of _ _ (g1) (g0 + x2.toNat * 4 + x1.toNat * 1024) eq ?_ ?_, field_of _ _ (0) (g0 + x2.toNat * 4 + x1.toNat * 1024 + x0.toNat * 262144) eq ?_ ?_⟩
  all_goals (try simp only [BitVec.toNat_ofNat]); omega

theorem layout8 {i : Instr} {w : Word} {c : Nat} (x0 : BitVec 8) (x1 : BitVec 8) (g0 g1 g2 : Nat) (en : encode i = some w)
    (p : encode i = some (BitVec.ofNat 32 (c + place 18 x0 + place 10 x1)))
    (hc : (Nat.beq c (g0 + g1 * 4 + g2 * 67108864) && Nat.blt g0 4 && Nat.blt g1 256 && Nat.blt g2 64) = true) :
    w.extractLsb' 0 2 = BitVec.ofNat 2 g0 ∧ w.extractLsb' 2 8 = BitVec.ofNat 8 g1 ∧ w.extractLsb' 10 8 = x1 ∧ w.extractLsb' 18 8 = x0 ∧ w.extractLsb' 26 6 = BitVec.ofNat 6 g2 := by
  simp only [Bool.and_eq_true, Nat.beq_eq, Nat.blt_eq] at hc
  have := x0.isLt; have := x1.isLt
  have eq := word_toNat en p (n := g0 + g1 * 4 + x1.toNat * 1024 + x0.toNat * 262144 + g2 * 67108864) (by simp only [place]; omega)
  refine ⟨field_of _ _ (g1 + x1.toNat * 256 + x0.toNat * 65536 + g2 * 16777216) (0) eq ?_ ?_, field_of _ _ (x1.toNat + x0.toNat * 256 + g2 * 65536) (g0) eq ?_ ?_, field_of _ _ (x0.toNat + g2 * 256) (g0 + g1 * 4) eq ?_ ?_, field_of _ _ (g2) (g0 + g1 * 4 + x1.toNat * 1024) eq ?_ ?_, field_of _ _ (0) (g0 + g1 * 4 + x1.toNat * 1024 + x0.toNat * 262144) eq ?_ ?_⟩
  all_goals (try simp only [BitVec.toNat_ofNat]); omega

theorem layout9 {i : Instr} {w : Word} {c : Nat} (x0 : BitVec 4) (x1 : BitVec 8) (x2 : BitVec 8) (g0 g1 g2 : Nat) (en : encode i = some w)
    (p : encode i = some (BitVec.ofNat 32 (c + place 18 x0 + place 10 x1 + place 2 x2)))
    (hc : (Nat.beq c (g0 + g1 * 4194304 + g2 * 67108864) && Nat.blt g0 4 && Nat.blt g1 16 && Nat.blt g2 64) = true) :
    w.extractLsb' 0 2 = BitVec.ofNat 2 g0 ∧ w.extractLsb' 2 8 = x2 ∧ w.extractLsb' 10 8 = x1 ∧ w.extractLsb' 18 4 = x0 ∧ w.extractLsb' 22 4 = BitVec.ofNat 4 g1 ∧ w.extractLsb' 26 6 = BitVec.ofNat 6 g2 := by
  simp only [Bool.and_eq_true, Nat.beq_eq, Nat.blt_eq] at hc
  have := x0.isLt; have := x1.isLt; have := x2.isLt
  have eq := word_toNat en p (n := g0 + x2.toNat * 4 + x1.toNat * 1024 + x0.toNat * 262144 + g1 * 4194304 + g2 * 67108864) (by simp only [place]; omega)
  refine ⟨field_of _ _ (x2.toNat + x1.toNat * 256 + x0.toNat * 65536 + g1 * 1048576 + g2 * 16777216) (0) eq ?_ ?_, field_of _ _ (x1.toNat + x0.toNat * 256 + g1 * 4096 + g2 * 65536) (g0) eq ?_ ?_, field_of _ _ (x0.toNat + g1 * 16 + g2 * 256) (g0 + x2.toNat * 4) eq ?_ ?_, field_of _ _ (g1 + g2 * 16) (g0 + x2.toNat * 4 + x1.toNat * 1024) eq ?_ ?_, field_of _ _ (g2) (g0 + x2.toNat * 4 + x1.toNat * 1024 + x0.toNat * 262144) eq ?_ ?_, field_of _ _ (0) (g0 + x2.toNat * 4 + x1.toNat * 1024 + x0.toNat * 262144 + g1 * 4194304) eq ?_ ?_⟩
  all_goals (try simp only [BitVec.toNat_ofNat]); omega

theorem layout10 {i : Instr} {w : Word} {c : Nat} (x0 : BitVec 8) (x1 : BitVec 8) (x2 : BitVec 4) (x3 : BitVec 4) (g0 g1 : Nat) (en : encode i = some w)
    (p : encode i = some (BitVec.ofNat 32 (c + place 18 x0 + place 10 x1 + place 6 x2 + place 2 x3)))
    (hc : (Nat.beq c (g0 + g1 * 67108864) && Nat.blt g0 4 && Nat.blt g1 64) = true) :
    w.extractLsb' 0 2 = BitVec.ofNat 2 g0 ∧ w.extractLsb' 2 4 = x3 ∧ w.extractLsb' 6 4 = x2 ∧ w.extractLsb' 10 8 = x1 ∧ w.extractLsb' 18 8 = x0 ∧ w.extractLsb' 26 6 = BitVec.ofNat 6 g1 := by
  simp only [Bool.and_eq_true, Nat.beq_eq, Nat.blt_eq] at hc
  have := x0.isLt; have := x1.isLt; have := x2.isLt; have := x3.isLt
  have eq := word_toNat en p (n := g0 + x3.toNat * 4 + x2.toNat * 64 + x1.toNat * 1024 + x0.toNat * 262144 + g1 * 67108864) (by simp only [place]; omega)
  refine ⟨field_of _ _ (x3.toNat + x2.toNat * 16 + x1.toNat * 256 + x0.toNat * 65536 + g1 * 16777216) (0) eq ?_ ?_, field_of _ _ (x2.toNat + x1.toNat * 16 + x0.toNat * 4096 + g1 * 1048576) (g0) eq ?_ ?_, field_of _ _ (x1.toNat + x0.toNat * 256 + g1 * 65536) (g0 + x3.toNat * 4) eq ?_ ?_, field_of _ _ (x0.toNat + g1 * 256) (g0 + x3.toNat * 4 + x2.toNat * 64) eq ?_ ?_, field_of _ _ (g1) (g0 + x3.toNat * 4 + x2.toNat * 64 + x1.toNat * 1024) eq ?_ ?_, field_of _ _ (0) (g0 + x3.toNat * 4 + x2.toNat * 64 + x1.toNat * 1024 + x0.toNat * 262144) eq ?_ ?_⟩
  all_goals (try simp only [BitVec.toNat_ofNat]); omega

theorem layout11 {i : Instr} {w : Word} {c : Nat} (x0 : BitVec 4) (x1 : BitVec 4) (g0 g1 g2 g3 g4 : Nat) (en : encode i = some w)
    (p : encode i = some (BitVec.ofNat 32 (c + place 18 x0 + place 10 x1)))
    (hc : (Nat.beq c (g0 + g1 * 4 + g2 * 16384 + g3 * 4194304 + g4 * 67108864) && Nat.blt g0 4 && Nat.blt g1 256 && Nat.blt g2 16 && Nat.blt g3 16 && Nat.blt g4 64) = true) :
    w.extractLsb' 0 2 = BitVec.ofNat 2 g0 ∧ w.extractLsb' 2 8 = BitVec.ofNat 8 g1 ∧ w.extractLsb' 10 4 = x1 ∧ w.extractLsb' 14 4 = BitVec.ofNat 4 g2 ∧ w.extractLsb' 18 4 = x0 ∧ w.extractLsb' 22 4 = BitVec.ofNat 4 g3 ∧ w.extractLsb' 26 6 = BitVec.ofNat 6 g4 := by
  simp only [Bool.and_eq_true, Nat.beq_eq, Nat.blt_eq] at hc
  have := x0.isLt; have := x1.isLt
  have eq := word_toNat en p (n := g0 + g1 * 4 + x1.toNat * 1024 + g2 * 16384 + x0.toNat * 262144 + g3 * 4194304 + g4 * 67108864) (by simp only [place]; omega)
  refine ⟨field_of _ _ (g1 + x1.toNat * 256 + g2 * 4096 + x0.toNat * 65536 + g3 * 1048576 + g4 * 16777216) (0) eq ?_ ?_, field_of _ _ (x1.toNat + g2 * 16 + x0.toNat * 256 + g3 * 4096 + g4 * 65536) (g0) eq ?_ ?_, field_of _ _ (g2 + x0.toNat * 16 + g3 * 256 + g4 * 4096) (g0 + g1 * 4) eq ?_ ?_, field_of _ _ (x0.toNat + g3 * 16 + g4 * 256) (g0 + g1 * 4 + x1.toNat * 1024) eq ?_ ?_, field_of _ _ (g3 + g4 * 16) (g0 + g1 * 4 + x1.toNat * 1024 + g2 * 16384) eq ?_ ?_, field_of _ _ (g4) (g0 + g1 * 4 + x1.toNat * 1024 + g2 * 16384 + x0.toNat * 262144) eq ?_ ?_, field_of _ _ (0) (g0 + g1 * 4 + x1.toNat * 1024 + g2 * 16384 + x0.toNat * 262144 + g3 * 4194304) eq ?_ ?_⟩
  all_goals (try simp only [BitVec.toNat_ofNat]); omega

theorem layout12 {i : Instr} {w : Word} {c : Nat} (x0 : BitVec 8) (x1 : BitVec 4) (g0 g1 g2 g3 : Nat) (en : encode i = some w)
    (p : encode i = some (BitVec.ofNat 32 (c + place 18 x0 + place 10 x1)))
    (hc : (Nat.beq c (g0 + g1 * 4 + g2 * 16384 + g3 * 67108864) && Nat.blt g0 4 && Nat.blt g1 256 && Nat.blt g2 16 && Nat.blt g3 64) = true) :
    w.extractLsb' 0 2 = BitVec.ofNat 2 g0 ∧ w.extractLsb' 2 8 = BitVec.ofNat 8 g1 ∧ w.extractLsb' 10 4 = x1 ∧ w.extractLsb' 14 4 = BitVec.ofNat 4 g2 ∧ w.extractLsb' 18 8 = x0 ∧ w.extractLsb' 26 6 = BitVec.ofNat 6 g3 := by
  simp only [Bool.and_eq_true, Nat.beq_eq, Nat.blt_eq] at hc
  have := x0.isLt; have := x1.isLt
  have eq := word_toNat en p (n := g0 + g1 * 4 + x1.toNat * 1024 + g2 * 16384 + x0.toNat * 262144 + g3 * 67108864) (by simp only [place]; omega)
  refine ⟨field_of _ _ (g1 + x1.toNat * 256 + g2 * 4096 + x0.toNat * 65536 + g3 * 16777216) (0) eq ?_ ?_, field_of _ _ (x1.toNat + g2 * 16 + x0.toNat * 256 + g3 * 65536) (g0) eq ?_ ?_, field_of _ _ (g2 + x0.toNat * 16 + g3 * 4096) (g0 + g1 * 4) eq ?_ ?_, field_of _ _ (x0.toNat + g3 * 256) (g0 + g1 * 4 + x1.toNat * 1024) eq ?_ ?_, field_of _ _ (g3) (g0 + g1 * 4 + x1.toNat * 1024 + g2 * 16384) eq ?_ ?_, field_of _ _ (0) (g0 + g1 * 4 + x1.toNat * 1024 + g2 * 16384 + x0.toNat * 262144) eq ?_ ?_⟩
  all_goals (try simp only [BitVec.toNat_ofNat]); omega

theorem layout13 {i : Instr} {w : Word} {c : Nat} (x0 : BitVec 4) (x1 : BitVec 8) (g0 g1 g2 g3 : Nat) (en : encode i = some w)
    (p : encode i = some (BitVec.ofNat 32 (c + place 18 x0 + place 10 x1)))
    (hc : (Nat.beq c (g0 + g1 * 4 + g2 * 4194304 + g3 * 67108864) && Nat.blt g0 4 && Nat.blt g1 256 && Nat.blt g2 16 && Nat.blt g3 64) = true) :
    w.extractLsb' 0 2 = BitVec.ofNat 2 g0 ∧ w.extractLsb' 2 8 = BitVec.ofNat 8 g1 ∧ w.extractLsb' 10 8 = x1 ∧ w.extractLsb' 18 4 = x0 ∧ w.extractLsb' 22 4 = BitVec.ofNat 4 g2 ∧ w.extractLsb' 26 6 = BitVec.ofNat 6 g3 := by
  simp only [Bool.and_eq_true, Nat.beq_eq, Nat.blt_eq] at hc
  have := x0.isLt; have := x1.isLt
  have eq := word_toNat en p (n := g0 + g1 * 4 + x1.toNat * 1024 + x0.toNat * 262144 + g2 * 4194304 + g3 * 67108864) (by simp only [place]; omega)
  refine ⟨field_of _ _ (g1 + x1.toNat * 256 + x0.toNat * 65536 + g2 * 1048576 + g3 * 16777216) (0) eq ?_ ?_, field_of _ _ (x1.toNat + x0.toNat * 256 + g2 * 4096 + g3 * 65536) (g0) eq ?_ ?_, field_of _ _ (x0.toNat + g2 * 16 + g3 * 256) (g0 + g1 * 4) eq ?_ ?_, field_of _ _ (g2 + g3 * 16) (g0 + g1 * 4 + x1.toNat * 1024) eq ?_ ?_, field_of _ _ (g3) (g0 + g1 * 4 + x1.toNat * 1024 + x0.toNat * 262144) eq ?_ ?_, field_of _ _ (0) (g0 + g1 * 4 + x1.toNat * 1024 + x0.toNat * 262144 + g2 * 4194304) eq ?_ ?_⟩
  all_goals (try simp only [BitVec.toNat_ofNat]); omega

theorem layout14 {i : Instr} {w : Word} {c : Nat} (x0 : BitVec 8) (g0 g1 g2 g3 : Nat) (en : encode i = some w)
    (p : encode i = some (BitVec.ofNat 32 (c + place 10 x0)))
    (hc : (Nat.beq c (g0 + g1 * 4 + g2 * 262144 + g3 * 67108864) && Nat.blt g0 4 && Nat.blt g1 256 && Nat.blt g2 256 && Nat.blt g3 64) = true) :
    w.extractLsb' 0 2 = BitVec.ofNat 2 g0 ∧ w.extractLsb' 2 8 = BitVec.ofNat 8 g1 ∧ w.extractLsb' 10 8 = x0 ∧ w.extractLsb' 18 8 = BitVec.ofNat 8 g2 ∧ w.extractLsb' 26 6 = BitVec.ofNat 6 g3 := by
  simp only [Bool.and_eq_true, Nat.beq_eq, Nat.blt_eq] at hc
  have := x0.isLt
  have eq := word_toNat en p (n := g0 + g1 * 4 + x0.toNat * 1024 + g2 * 262144 + g3 * 67108864) (by simp only [place]; omega)
  refine ⟨field_of _ _ (g1 + x0.toNat * 256 + g2 * 65536 + g3 * 16777216) (0) eq ?_ ?_, field_of _ _ (x0.toNat + g2 * 256 + g3 * 65536) (g0) eq ?_ ?_, field_of _ _ (g2 + g3 * 256) (g0 + g1 * 4) eq ?_ ?_, field_of _ _ (g3) (g0 + g1 * 4 + x0.toNat * 1024) eq ?_ ?_, field_of _ _ (0) (g0 + g1 * 4 + x0.toNat * 1024 + g2 * 262144) eq ?_ ?_⟩
  all_goals (try simp only [BitVec.toNat_ofNat]); omega

theorem layout15 {i : Instr} {w : Word} {c : Nat} (x0 : BitVec 8) (g0 g1 g2 : Nat) (en : encode i = some w)
    (p : encode i = some (BitVec.ofNat 32 (c + place 18 x0)))
    (hc : (Nat.beq c (g0 + g1 * 4 + g2 * 67108864) && Nat.blt g0 4 && Nat.blt g1 65536 && Nat.blt g2 64) = true) :
    w.extractLsb' 0 2 = BitVec.ofNat 2 g0 ∧ w.extractLsb' 2 16 = BitVec.ofNat 16 g1 ∧ w.extractLsb' 18 8 = x0 ∧ w.extractLsb' 26 6 = BitVec.ofNat 6 g2 := by
  simp only [Bool.and_eq_true, Nat.beq_eq, Nat.blt_eq] at hc
  have := x0.isLt
  have eq := word_toNat en p (n := g0 + g1 * 4 + x0.toNat * 262144 + g2 * 67108864) (by simp only [place]; omega)
  refine ⟨field_of _ _ (g1 + x0.toNat * 65536 + g2 * 16777216) (0) eq ?_ ?_, field_of _ _ (x0.toNat + g2 * 256) (g0) eq ?_ ?_, field_of _ _ (g2) (g0 + g1 * 4) eq ?_ ?_, field_of _ _ (0) (g0 + g1 * 4 + x0.toNat * 262144) eq ?_ ?_⟩
  all_goals (try simp only [BitVec.toNat_ofNat]); omega

theorem layout16 {i : Instr} {w : Word} {c : Nat} (x0 : BitVec 4) (x1 : BitVec 4) (x2 : BitVec 4) (g0 g1 g2 g3 g4 : Nat) (en : encode i = some w)
    (p : encode i = some (BitVec.ofNat 32 (c + place 18 x0 + place 10 x1 + place 2 x2)))
    (hc : (Nat.beq c (g0 + g1 * 64 + g2 * 16384 + g3 * 4194304 + g4 * 67108864) && Nat.blt g0 4 && Nat.blt g1 16 && Nat.blt g2 16 && Nat.blt g3 16 && Nat.blt g4 64) = true) :
    w.extractLsb' 0 2 = BitVec.ofNat 2 g0 ∧ w.extractLsb' 2 4 = x2 ∧ w.extractLsb' 6 4 = BitVec.ofNat 4 g1 ∧ w.extractLsb' 10 4 = x1 ∧ w.extractLsb' 14 4 = BitVec.ofNat 4 g2 ∧ w.extractLsb' 18 4 = x0 ∧ w.extractLsb' 22 4 = BitVec.ofNat 4 g3 ∧ w.extractLsb' 26 6 = BitVec.ofNat 6 g4 := by
  simp only [Bool.and_eq_true, Nat.beq_eq, Nat.blt_eq] at hc
  have := x0.isLt; have := x1.isLt; have := x2.isLt
  have eq := word_toNat en p (n := g0 + x2.toNat * 4 + g1 * 64 + x1.toNat * 1024 + g2 * 16384 + x0.toNat * 262144 + g3 * 4194304 + g4 * 67108864) (by simp only [place]; omega)
  refine ⟨field_of _ _ (x2.toNat + g1 * 16 + x1.toNat * 256 + g2 * 4096 + x0.toNat * 65536 + g3 * 1048576 + g4 * 16777216) (0) eq ?_ ?_, field_of _ _ (g1 + x1.toNat * 16 + g2 * 256 + x0.toNat * 4096 + g3 * 65536 + g4 * 1048576) (g0) eq ?_ ?_, field_of _ _ (x1.toNat + g2 * 16 + x0.toNat * 256 + g3 * 4096 + g4 * 65536) (g0 + x2.toNat * 4) eq ?_ ?_, field_of _ _ (g2 + x0.toNat * 16 + g3 * 256 + g4 * 4096) (g0 + x2.toNat * 4 + g1 * 64) eq ?_ ?_, field_of _ _ (x0.toNat + g3 * 16 + g4 * 256) (g0 + x2.toNat * 4 + g1 * 64 + x1.toNat * 1024) eq ?_ ?_, field_of _ _ (g3 + g4 * 16) (g0 + x2.toNat * 4 + g1 * 64 + x1.toNat * 1024 + g2 * 16384) eq ?_ ?_, field_of _ _ (g4) (g0 + x2.toNat * 4 + g1 * 64 + x1.toNat * 1024 + g2 * 16384 + x0.toNat * 262144) eq ?_ ?_, field_of _ _ (0) (g0 + x2.toNat * 4 + g1 * 64 + x1.toNat * 1024 + g2 * 16384 + x0.toNat * 262144 + g3 * 4194304) eq ?_ ?_⟩
  all_goals (try simp only [BitVec.toNat_ofNat]); omega

theorem layout17 {i : Instr} {w : Word} {c : Nat} (x0 : BitVec 8) (x1 : BitVec 8) (g0 g1 g2 : Nat) (en : encode i = some w)
    (p : encode i = some (BitVec.ofNat 32 (c + place 10 x0 + place 2 x1)))
    (hc : (Nat.beq c (g0 + g1 * 262144 + g2 * 67108864) && Nat.blt g0 4 && Nat.blt g1 256 && Nat.blt g2 64) = true) :
    w.extractLsb' 0 2 = BitVec.ofNat 2 g0 ∧ w.extractLsb' 2 8 = x1 ∧ w.extractLsb' 10 8 = x0 ∧ w.extractLsb' 18 8 = BitVec.ofNat 8 g1 ∧ w.extractLsb' 26 6 = BitVec.ofNat 6 g2 := by
  simp only [Bool.and_eq_true, Nat.beq_eq, Nat.blt_eq] at hc
  have := x0.isLt; have := x1.isLt
  have eq := word_toNat en p (n := g0 + x1.toNat * 4 + x0.toNat * 1024 + g1 * 262144 + g2 * 67108864) (by simp only [place]; omega)
  refine ⟨field_of _ _ (x1.toNat + x0.toNat * 256 + g1 * 65536 + g2 * 16777216) (0) eq ?_ ?_, field_of _ _ (x0.toNat + g1 * 256 + g2 * 65536) (g0) eq ?_ ?_, field_of _ _ (g1 + g2 * 256) (g0 + x1.toNat * 4) eq ?_ ?_, field_of _ _ (g2) (g0 + x1.toNat * 4 + x0.toNat * 1024) eq ?_ ?_, field_of _ _ (0) (g0 + x1.toNat * 4 + x0.toNat * 1024 + g1 * 262144) eq ?_ ?_⟩
  all_goals (try simp only [BitVec.toNat_ofNat]); omega

theorem layout18 {i : Instr} {w : Word} {c : Nat} (x0 : BitVec 8) (x1 : BitVec 8) (x2 : BitVec 4) (x3 : BitVec 2) (x4 : BitVec 1) (x5 : BitVec 3) (g0 : Nat) (en : encode i = some w)
    (p : encode i = some (BitVec.ofNat 32 (c + place 18 x0 + place 10 x1 + place 6 x2 + place 4 x3 + place 3 x4 + place 0 x5)))
    (hc : (Nat.beq c (g0 * 67108864) && Nat.blt g0 64) = true) :
    w.extractLsb' 0 3 = x5 ∧ w.extractLsb' 3 1 = x4 ∧ w.extractLsb' 4 2 = x3 ∧ w.extractLsb' 6 4 = x2 ∧ w.extractLsb' 10 8 = x1 ∧ w.extractLsb' 18 8 = x0 ∧ w.extractLsb' 26 6 = BitVec.ofNat 6 g0 := by
  simp only [Bool.and_eq_true, Nat.beq_eq, Nat.blt_eq] at hc
  have := x0.isLt; have := x1.isLt; have := x2.isLt; have := x3.isLt; have := x4.isLt; have := x5.isLt
  have eq := word_toNat en p (n := x5.toNat + x4.toNat * 8 + x3.toNat * 16 + x2.toNat * 64 + x1.toNat * 1024 + x0.toNat * 262144 + g0 * 67108864) (by simp only [place]; omega)
  refine ⟨field_of _ _ (x4.toNat + x3.toNat * 2 + x2.toNat * 8 + x1.toNat * 128 + x0.toNat * 32768 + g0 * 8388608) (0) eq ?_ ?_, field_of _ _ (x3.toNat + x2.toNat * 4 + x1.toNat * 64 + x0.toNat * 16384 + g0 * 4194304) (x5.toNat) eq ?_ ?_, field_of _ _ (x2.toNat + x1.toNat * 16 + x0.toNat * 4096 + g0 * 1048576) (x5.toNat + x4.toNat * 8) eq ?_ ?_, field_of _ _ (x1.toNat + x0.toNat * 256 + g0 * 65536) (x5.toNat + x4.toNat * 8 + x3.toNat * 16) eq ?_ ?_, field_of _ _ (x0.toNat + g0 * 256) (x5.toNat + x4.toNat * 8 + x3.toNat * 16 + x2.toNat * 64) eq ?_ ?_, field_of _ _ (g0) (x5.toNat + x4.toNat * 8 + x3.toNat * 16 + x2.toNat * 64 + x1.toNat * 1024) eq ?_ ?_, field_of _ _ (0) (x5.toNat + x4.toNat * 8 + x3.toNat * 16 + x2.toNat * 64 + x1.toNat * 1024 + x0.toNat * 262144) eq ?_ ?_⟩
  all_goals (try simp only [BitVec.toNat_ofNat]); omega

theorem layout19 {i : Instr} {w : Word} {c : Nat} (x0 : BitVec 8) (x1 : BitVec 8) (x2 : BitVec 2) (x3 : BitVec 1) (x4 : BitVec 3) (g0 g1 : Nat) (en : encode i = some w)
    (p : encode i = some (BitVec.ofNat 32 (c + place 18 x0 + place 10 x1 + place 4 x2 + place 3 x3 + place 0 x4)))
    (hc : (Nat.beq c (g0 * 64 + g1 * 67108864) && Nat.blt g0 16 && Nat.blt g1 64) = true) :
    w.extractLsb' 0 3 = x4 ∧ w.extractLsb' 3 1 = x3 ∧ w.extractLsb' 4 2 = x2 ∧ w.extractLsb' 6 4 = BitVec.ofNat 4 g0 ∧ w.extractLsb' 10 8 = x1 ∧ w.extractLsb' 18 8 = x0 ∧ w.extractLsb' 26 6 = BitVec.ofNat 6 g1 := by
  simp only [Bool.and_eq_true, Nat.beq_eq, Nat.blt_eq] at hc
  have := x0.isLt; have := x1.isLt; have := x2.isLt; have := x3.isLt; have := x4.isLt
  have eq := word_toNat en p (n := x4.toNat + x3.toNat * 8 + x2.toNat * 16 + g0 * 64 + x1.toNat * 1024 + x0.toNat * 262144 + g1 * 67108864) (by simp only [place]; omega)
  refine ⟨field_of _ _ (x3.toNat + x2.toNat * 2 + g0 * 8 + x1.toNat * 128 + x0.toNat * 32768 + g1 * 8388608) (0) eq ?_ ?_, field_of _ _ (x2.toNat + g0 * 4 + x1.toNat * 64 + x0.toNat * 16384 + g1 * 4194304) (x4.toNat) eq ?_ ?_, field_of _ _ (g0 + x1.toNat * 16 + x0.toNat * 4096 + g1 * 1048576) (x4.toNat + x3.toNat * 8) eq ?_ ?_, field_of _ _ (x1.toNat + x0.toNat * 256 + g1 * 65536) (x4.toNat + x3.toNat * 8 + x2.toNat * 16) eq ?_ ?_, field_of _ _ (x0.toNat + g1 * 256) (x4.toNat + x3.toNat * 8 + x2.toNat * 16 + g0 * 64) eq ?_ ?_, field_of _ _ (g1) (x4.toNat + x3.toNat * 8 + x2.toNat * 16 + g0 * 64 + x1.toNat * 1024) eq ?_ ?_, field_of _ _ (0) (x4.toNat + x3.toNat * 8 + x2.toNat * 16 + g0 * 64 + x1.toNat * 1024 + x0.toNat * 262144) eq ?_ ?_⟩
  all_goals (try simp only [BitVec.toNat_ofNat]); omega

theorem layout20 {i : Instr} {w : Word} {c : Nat} (x0 : BitVec 8) (x1 : BitVec 8) (x2 : BitVec 4) (g0 g1 g2 : Nat) (en : encode i = some w)
    (p : encode i = some (BitVec.ofNat 32 (c + place 18 x0 + place 10 x1 + place 6 x2)))
    (hc : (Nat.beq c (g0 + g1 * 16 + g2 * 67108864) && Nat.blt g0 16 && Nat.blt g1 4 && Nat.blt g2 64) = true) :
    w.extractLsb' 0 4 = BitVec.ofNat 4 g0 ∧ w.extractLsb' 4 2 = BitVec.ofNat 2 g1 ∧ w.extractLsb' 6 4 = x2 ∧ w.extractLsb' 10 8 = x1 ∧ w.extractLsb' 18 8 = x0 ∧ w.extractLsb' 26 6 = BitVec.ofNat 6 g2 := by
  simp only [Bool.and_eq_true, Nat.beq_eq, Nat.blt_eq] at hc
  have := x0.isLt; have := x1.isLt; have := x2.isLt
  have eq := word_toNat en p (n := g0 + g1 * 16 + x2.toNat * 64 + x1.toNat * 1024 + x0.toNat * 262144 + g2 * 67108864) (by simp only [place]; omega)
  refine ⟨field_of _ _ (g1 + x2.toNat * 4 + x1.toNat * 64 + x0.toNat * 16384 + g2 * 4194304) (0) eq ?_ ?_, field_of _ _ (x2.toNat + x1.toNat * 16 + x0.toNat * 4096 + g2 * 1048576) (g0) eq ?_ ?_, field_of _ _ (x1.toNat + x0.toNat * 256 + g2 * 65536) (g0 + g1 * 16) eq ?_ ?_, field_of _ _ (x0.toNat + g2 * 256) (g0 + g1 * 16 + x2.toNat * 64) eq ?_ ?_, field_of _ _ (g2) (g0 + g1 * 16 + x2.toNat * 64 + x1.toNat * 1024) eq ?_ ?_, field_of _ _ (0) (g0 + g1 * 16 + x2.toNat * 64 + x1.toNat * 1024 + x0.toNat * 262144) eq ?_ ?_⟩
  all_goals (try simp only [BitVec.toNat_ofNat]); omega

theorem layout21 {i : Instr} {w : Word} {c : Nat} (x0 : BitVec 4) (x1 : BitVec 8) (g0 g1 g2 g3 : Nat) (en : encode i = some w)
    (p : encode i = some (BitVec.ofNat 32 (c + place 18 x0 + place 10 x1)))
    (hc : (Nat.beq c (g0 + g1 * 256 + g2 * 4194304 + g3 * 67108864) && Nat.blt g0 256 && Nat.blt g1 4 && Nat.blt g2 16 && Nat.blt g3 64) = true) :
    w.extractLsb' 0 8 = BitVec.ofNat 8 g0 ∧ w.extractLsb' 8 2 = BitVec.ofNat 2 g1 ∧ w.extractLsb' 10 8 = x1 ∧ w.extractLsb' 18 4 = x0 ∧ w.extractLsb' 22 4 = BitVec.ofNat 4 g2 ∧ w.extractLsb' 26 6 = BitVec.ofNat 6 g3 := by
  simp only [Bool.and_eq_true, Nat.beq_eq, Nat.blt_eq] at hc
  have := x0.isLt; have := x1.isLt
  have eq := word_toNat en p (n := g0 + g1 * 256 + x1.toNat * 1024 + x0.toNat * 262144 + g2 * 4194304 + g3 * 67108864) (by simp only [place]; omega)
  refine ⟨field_of _ _ (g1 + x1.toNat * 4 + x0.toNat * 1024 + g2 * 16384 + g3 * 262144) (0) eq ?_ ?_, field_of _ _ (x1.toNat + x0.toNat * 256 + g2 * 4096 + g3 * 65536) (g0) eq ?_ ?_, field_of _ _ (x0.toNat + g2 * 16 + g3 * 256) (g0 + g1 * 256) eq ?_ ?_, field_of _ _ (g2 + g3 * 16) (g0 + g1 * 256 + x1.toNat * 1024) eq ?_ ?_, field_of _ _ (g3) (g0 + g1 * 256 + x1.toNat * 1024 + x0.toNat * 262144) eq ?_ ?_, field_of _ _ (0) (g0 + g1 * 256 + x1.toNat * 1024 + x0.toNat * 262144 + g2 * 4194304) eq ?_ ?_⟩
  all_goals (try simp only [BitVec.toNat_ofNat]); omega

theorem layout22 {i : Instr} {w : Word} {c : Nat} (x0 : BitVec 8) (x1 : BitVec 4) (x2 : BitVec 4) (g0 g1 g2 : Nat) (en : encode i = some w)
    (p : encode i = some (BitVec.ofNat 32 (c + place 18 x0 + place 4 x1 + place 0 x2)))
    (hc : (Nat.beq c (g0 * 256 + g1 * 1024 + g2 * 67108864) && Nat.blt g0 4 && Nat.blt g1 256 && Nat.blt g2 64) = true) :
    w.extractLsb' 0 4 = x2 ∧ w.extractLsb' 4 4 = x1 ∧ w.extractLsb' 8 2 = BitVec.ofNat 2 g0 ∧ w.extractLsb' 10 8 = BitVec.ofNat 8 g1 ∧ w.extractLsb' 18 8 = x0 ∧ w.extractLsb' 26 6 = BitVec.ofNat 6 g2 := by
  simp only [Bool.and_eq_true, Nat.beq_eq, Nat.blt_eq] at hc
  have := x0.isLt; have := x1.isLt; have := x2.isLt
  have eq := word_toNat en p (n := x2.toNat + x1.toNat * 16 + g0 * 256 + g1 * 1024 + x0.toNat * 262144 + g2 * 67108864) (by simp only [place]; omega)
  refine ⟨field_of _ _ (x1.toNat + g0 * 16 + g1 * 64 + x0.toNat * 16384 + g2 * 4194304) (0) eq ?_ ?_, field_of _ _ (g0 + g1 * 4 + x0.toNat * 1024 + g2 * 262144) (x2.toNat) eq ?_ ?_, field_of _ _ (g1 + x0.toNat * 256 + g2 * 65536) (x2.toNat + x1.toNat * 16) eq ?_ ?_, field_of _ _ (x0.toNat + g2 * 256) (x2.toNat + x1.toNat * 16 + g0 * 256) eq ?_ ?_, field_of _ _ (g2) (x2.toNat + x1.toNat * 16 + g0 * 256 + g1 * 1024) eq ?_ ?_, field_of _ _ (0) (x2.toNat + x1.toNat * 16 + g0 * 256 + g1 * 1024 + x0.toNat * 262144) eq ?_ ?_⟩
  all_goals (try simp only [BitVec.toNat_ofNat]); omega

theorem layout23 {i : Instr} {w : Word} {c : Nat} (x0 : BitVec 8) (x1 : BitVec 8) (x2 : BitVec 4) (g0 g1 g2 : Nat) (en : encode i = some w)
    (p : encode i = some (BitVec.ofNat 32 (c + place 18 x0 + place 10 x1 + place 2 x2)))
    (hc : (Nat.beq c (g0 + g1 * 64 + g2 * 67108864) && Nat.blt g0 4 && Nat.blt g1 16 && Nat.blt g2 64) = true) :
    w.extractLsb' 0 2 = BitVec.ofNat 2 g0 ∧ w.extractLsb' 2 4 = x2 ∧ w.extractLsb' 6 4 = BitVec.ofNat 4 g1 ∧ w.extractLsb' 10 8 = x1 ∧ w.extractLsb' 18 8 = x0 ∧ w.extractLsb' 26 6 = BitVec.ofNat 6 g2 := by
  simp only [Bool.and_eq_true, Nat.beq_eq, Nat.blt_eq] at hc
  have := x0.isLt; have := x1.isLt; have := x2.isLt
  have eq := word_toNat en p (n := g0 + x2.toNat * 4 + g1 * 64 + x1.toNat * 1024 + x0.toNat * 262144 + g2 * 67108864) (by simp only [place]; omega)
  refine ⟨field_of _ _ (x2.toNat + g1 * 16 + x1.toNat * 256 + x0.toNat * 65536 + g2 * 16777216) (0) eq ?_ ?_, field_of _ _ (g1 + x1.toNat * 16 + x0.toNat * 4096 + g2 * 1048576) (g0) eq ?_ ?_, field_of _ _ (x1.toNat + x0.toNat * 256 + g2 * 65536) (g0 + x2.toNat * 4) eq ?_ ?_, field_of _ _ (x0.toNat + g2 * 256) (g0 + x2.toNat * 4 + g1 * 64) eq ?_ ?_, field_of _ _ (g2) (g0 + x2.toNat * 4 + g1 * 64 + x1.toNat * 1024) eq ?_ ?_, field_of _ _ (0) (g0 + x2.toNat * 4 + g1 * 64 + x1.toNat * 1024 + x0.toNat * 262144) eq ?_ ?_⟩
  all_goals (try simp only [BitVec.toNat_ofNat]); omega

theorem layout24 {i : Instr} {w : Word} {c : Nat} (x0 : BitVec 8) (g0 g1 g2 g3 : Nat) (en : encode i = some w)
    (p : encode i = some (BitVec.ofNat 32 (c + place 10 x0)))
    (hc : (Nat.beq c (g0 + g1 * 64 + g2 * 262144 + g3 * 67108864) && Nat.blt g0 64 && Nat.blt g1 16 && Nat.blt g2 256 && Nat.blt g3 64) = true) :
    w.extractLsb' 0 6 = BitVec.ofNat 6 g0 ∧ w.extractLsb' 6 4 = BitVec.ofNat 4 g1 ∧ w.extractLsb' 10 8 = x0 ∧ w.extractLsb' 18 8 = BitVec.ofNat 8 g2 ∧ w.extractLsb' 26 6 = BitVec.ofNat 6 g3 := by
  simp only [Bool.and_eq_true, Nat.beq_eq, Nat.blt_eq] at hc
  have := x0.isLt
  have eq := word_toNat en p (n := g0 + g1 * 64 + x0.toNat * 1024 + g2 * 262144 + g3 * 67108864) (by simp only [place]; omega)
  refine ⟨field_of _ _ (g1 + x0.toNat * 16 + g2 * 4096 + g3 * 1048576) (0) eq ?_ ?_, field_of _ _ (x0.toNat + g2 * 256 + g3 * 65536) (g0) eq ?_ ?_, field_of _ _ (g2 + g3 * 256) (g0 + g1 * 64) eq ?_ ?_, field_of _ _ (g3) (g0 + g1 * 64 + x0.toNat * 1024) eq ?_ ?_, field_of _ _ (0) (g0 + g1 * 64 + x0.toNat * 1024 + g2 * 262144) eq ?_ ?_⟩
  all_goals (try simp only [BitVec.toNat_ofNat]); omega

theorem layout25 {i : Instr} {w : Word} {c : Nat} (x0 : BitVec 8) (x1 : BitVec 8) (x2 : BitVec 4) (x3 : BitVec 1) (x4 : BitVec 2) (g0 g1 : Nat) (en : encode i = some w)
    (p : encode i = some (BitVec.ofNat 32 (c + place 18 x0 + place 10 x1 + place 6 x2 + place 2 x3 + place 0 x4)))
    (hc : (Nat.beq c (g0 * 8 + g1 * 67108864) && Nat.blt g0 8 && Nat.blt g1 64) = true) :
    w.extractLsb' 0 2 = x4 ∧ w.extractLsb' 2 1 = x3 ∧ w.extractLsb' 3 3 = BitVec.ofNat 3 g0 ∧ w.extractLsb' 6 4 = x2 ∧ w.extractLsb' 10 8 = x1 ∧ w.extractLsb' 18 8 = x0 ∧ w.extractLsb' 26 6 = BitVec.ofNat 6 g1 := by
  simp only [Bool.and_eq_true, Nat.beq_eq, Nat.blt_eq] at hc
  have := x0.isLt; have := x1.isLt; have := x2.isLt; have := x3.isLt; have := x4.isLt
  have eq := word_toNat en p (n := x4.toNat + x3.toNat * 4 + g0 * 8 + x2.toNat * 64 + x1.toNat * 1024 + x0.toNat * 262144 + g1 * 67108864) (by simp only [place]; omega)
  refine ⟨field_of _ _ (x3.toNat + g0 * 2 + x2.toNat * 16 + x1.toNat * 256 + x0.toNat * 65536 + g1 * 16777216) (0) eq ?_ ?_, field_of _ _ (g0 + x2.toNat * 8 + x1.toNat * 128 + x0.toNat * 32768 + g1 * 8388608) (x4.toNat) eq ?_ ?_, field_of _ _ (x2.toNat + x1.toNat * 16 + x0.toNat * 4096 + g1 * 1048576) (x4.toNat + x3.toNat * 4) eq ?_ ?_, field_of _ _ (x1.toNat + x0.toNat * 256 + g1 * 65536) (x4.toNat + x3.toNat * 4 + g0 * 8) eq ?_ ?_, field_of _ _ (x0.toNat + g1 * 256) (x4.toNat + x3.toNat * 4 + g0 * 8 + x2.toNat * 64) eq ?_ ?_, field_of _ _ (g1) (x4.toNat + x3.toNat * 4 + g0 * 8 + x2.toNat * 64 + x1.toNat * 1024) eq ?_ ?_, field_of _ _ (0) (x4.toNat + x3.toNat * 4 + g0 * 8 + x2.toNat * 64 + x1.toNat * 1024 + x0.toNat * 262144) eq ?_ ?_⟩
  all_goals (try simp only [BitVec.toNat_ofNat]); omega

theorem layout26 {i : Instr} {w : Word} {c : Nat} (x0 : BitVec 8) (x1 : BitVec 8) (x2 : BitVec 4) (g0 g1 g2 : Nat) (en : encode i = some w)
    (p : encode i = some (BitVec.ofNat 32 (c + place 18 x0 + place 10 x1 + place 4 x2)))
    (hc : (Nat.beq c (g0 + g1 * 256 + g2 * 67108864) && Nat.blt g0 16 && Nat.blt g1 4 && Nat.blt g2 64) = true) :
    w.extractLsb' 0 4 = BitVec.ofNat 4 g0 ∧ w.extractLsb' 4 4 = x2 ∧ w.extractLsb' 8 2 = BitVec.ofNat 2 g1 ∧ w.extractLsb' 10 8 = x1 ∧ w.extractLsb' 18 8 = x0 ∧ w.extractLsb' 26 6 = BitVec.ofNat 6 g2 := by
  simp only [Bool.and_eq_true, Nat.beq_eq, Nat.blt_eq] at hc
  have := x0.isLt; have := x1.isLt; have := x2.isLt
  have eq := word_toNat en p (n := g0 + x2.toNat * 16 + g1 * 256 + x1.toNat * 1024 + x0.toNat * 262144 + g2 * 67108864) (by simp only [place]; omega)
  refine ⟨field_of _ _ (x2.toNat + g1 * 16 + x1.toNat * 64 + x0.toNat * 16384 + g2 * 4194304) (0) eq ?_ ?_, field_of _ _ (g1 + x1.toNat * 4 + x0.toNat * 1024 + g2 * 262144) (g0) eq ?_ ?_, field_of _ _ (x1.toNat + x0.toNat * 256 + g2 * 65536) (g0 + x2.toNat * 16) eq ?_ ?_, field_of _ _ (x0.toNat + g2 * 256) (g0 + x2.toNat * 16 + g1 * 256) eq ?_ ?_, field_of _ _ (g2) (g0 + x2.toNat * 16 + g1 * 256 + x1.toNat * 1024) eq ?_ ?_, field_of _ _ (0) (g0 + x2.toNat * 16 + g1 * 256 + x1.toNat * 1024 + x0.toNat * 262144) eq ?_ ?_⟩
  all_goals (try simp only [BitVec.toNat_ofNat]); omega

theorem layout27 {i : Instr} {w : Word} {c : Nat} (x0 : BitVec 8) (g0 g1 g2 g3 : Nat) (en : encode i = some w)
    (p : encode i = some (BitVec.ofNat 32 (c + place 10 x0)))
    (hc : (Nat.beq c (g0 + g1 * 256 + g2 * 262144 + g3 * 67108864) && Nat.blt g0 256 && Nat.blt g1 4 && Nat.blt g2 256 && Nat.blt g3 64) = true) :
    w.extractLsb' 0 8 = BitVec.ofNat 8 g0 ∧ w.extractLsb' 8 2 = BitVec.ofNat 2 g1 ∧ w.extractLsb' 10 8 = x0 ∧ w.extractLsb' 18 8 = BitVec.ofNat 8 g2 ∧ w.extractLsb' 26 6 = BitVec.ofNat 6 g3 := by
  simp only [Bool.and_eq_true, Nat.beq_eq, Nat.blt_eq] at hc
  have := x0.isLt
  have eq := word_toNat en p (n := g0 + g1 * 256 + x0.toNat * 1024 + g2 * 262144 + g3 * 67108864) (by simp only [place]; omega)
  refine ⟨field_of _ _ (g1 + x0.toNat * 4 + g2 * 1024 + g3 * 262144) (0) eq ?_ ?_, field_of _ _ (x0.toNat + g2 * 256 + g3 * 65536) (g0) eq ?_ ?_, field_of _ _ (g2 + g3 * 256) (g0 + g1 * 256) eq ?_ ?_, field_of _ _ (g3) (g0 + g1 * 256 + x0.toNat * 1024) eq ?_ ?_, field_of _ _ (0) (g0 + g1 * 256 + x0.toNat * 1024 + g2 * 262144) eq ?_ ?_⟩
  all_goals (try simp only [BitVec.toNat_ofNat]); omega

theorem layout28 {i : Instr} {w : Word} {c : Nat} (x0 : BitVec 8) (g0 g1 g2 g3 : Nat) (en : encode i = some w)
    (p : encode i = some (BitVec.ofNat 32 (c + place 18 x0)))
    (hc : (Nat.beq c (g0 + g1 * 256 + g2 * 1024 + g3 * 67108864) && Nat.blt g0 256 && Nat.blt g1 4 && Nat.blt g2 256 && Nat.blt g3 64) = true) :
    w.extractLsb' 0 8 = BitVec.ofNat 8 g0 ∧ w.extractLsb' 8 2 = BitVec.ofNat 2 g1 ∧ w.extractLsb' 10 8 = BitVec.ofNat 8 g2 ∧ w.extractLsb' 18 8 = x0 ∧ w.extractLsb' 26 6 = BitVec.ofNat 6 g3 := by
  simp only [Bool.and_eq_true, Nat.beq_eq, Nat.blt_eq] at hc
  have := x0.isLt
  have eq := word_toNat en p (n := g0 + g1 * 256 + g2 * 1024 + x0.toNat * 262144 + g3 * 67108864) (by simp only [place]; omega)
  refine ⟨field_of _ _ (g1 + g2 * 4 + x0.toNat * 1024 + g3 * 262144) (0) eq ?_ ?_, field_of _ _ (g2 + x0.toNat * 256 + g3 * 65536) (g0) eq ?_ ?_, field_of _ _ (x0.toNat + g3 * 256) (g0 + g1 * 256) eq ?_ ?_, field_of _ _ (g3) (g0 + g1 * 256 + g2 * 1024) eq ?_ ?_, field_of _ _ (0) (g0 + g1 * 256 + g2 * 1024 + x0.toNat * 262144) eq ?_ ?_⟩
  all_goals (try simp only [BitVec.toNat_ofNat]); omega

theorem layout29 {i : Instr} {w : Word} {c : Nat} (x0 : BitVec 3) (x1 : BitVec 8) (g0 g1 g2 g3 : Nat) (en : encode i = some w)
    (p : encode i = some (BitVec.ofNat 32 (c + place 18 x0 + place 10 x1)))
    (hc : (Nat.beq c (g0 + g1 * 256 + g2 * 2097152 + g3 * 67108864) && Nat.blt g0 256 && Nat.blt g1 4 && Nat.blt g2 32 && Nat.blt g3 64) = true) :
    w.extractLsb' 0 8 = BitVec.ofNat 8 g0 ∧ w.extractLsb' 8 2 = BitVec.ofNat 2 g1 ∧ w.extractLsb' 10 8 = x1 ∧ w.extractLsb' 18 3 = x0 ∧ w.extractLsb' 21 5 = BitVec.ofNat 5 g2 ∧ w.extractLsb' 26 6 = BitVec.ofNat 6 g3 := by
  simp only [Bool.and_eq_true, Nat.beq_eq, Nat.blt_eq] at hc
  have := x0.isLt; have := x1.isLt
  have eq := word_toNat en p (n := g0 + g1 * 256 + x1.toNat * 1024 + x0.toNat * 262144 + g2 * 2097152 + g3 * 67108864) (by simp only [place]; omega)
  refine ⟨field_of _ _ (g1 + x1.toNat * 4 + x0.toNat * 1024 + g2 * 8192 + g3 * 262144) (0) eq ?_ ?_, field_of _ _ (x1.toNat + x0.toNat * 256 + g2 * 2048 + g3 * 65536) (g0) eq ?_ ?_, field_of _ _ (x0.toNat + g2 * 8 + g3 * 256) (g0 + g1 * 256) eq ?_ ?_, field_of _ _ (g2 + g3 * 32) (g0 + g1 * 256 + x1.toNat * 1024) eq ?_ ?_, field_of _ _ (g3) (g0 + g1 * 256 + x1.toNat * 1024 + x0.toNat * 262144) eq ?_ ?_, field_of _ _ (0) (g0 + g1 * 256 + x1.toNat * 1024 + x0.toNat * 262144 + g2 * 2097152) eq ?_ ?_⟩
  all_goals (try simp only [BitVec.toNat_ofNat]); omega

theorem layout30 {i : Instr} {w : Word} {c : Nat} (x0 : BitVec 8) (x1 : BitVec 8) (x2 : BitVec 4) (g0 g1 : Nat) (en : encode i = some w)
    (p : encode i = some (BitVec.ofNat 32 (c + place 18 x0 + place 10 x1 + place 6 x2)))
    (hc : (Nat.beq c (g0 + g1 * 67108864) && Nat.blt g0 64 && Nat.blt g1 64) = true) :
    w.extractLsb' 0 6 = BitVec.ofNat 6 g0 ∧ w.extractLsb' 6 4 = x2 ∧ w.extractLsb' 10 8 = x1 ∧ w.extractLsb' 18 8 = x0 ∧ w.extractLsb' 26 6 = BitVec.ofNat 6 g1 := by
  simp only [Bool.and_eq_true, Nat.beq_eq, Nat.blt_eq] at hc
  have := x0.isLt; have := x1.isLt; have := x2.isLt
  have eq := word_toNat en p (n := g0 + x2.toNat * 64 + x1.toNat * 1024 + x0.toNat * 262144 + g1 * 67108864) (by simp only [place]; omega)
  refine ⟨field_of _ _ (x2.toNat + x1.toNat * 16 + x0.toNat * 4096 + g1 * 1048576) (0) eq ?_ ?_, field_of _ _ (x1.toNat + x0.toNat * 256 + g1 * 65536) (g0) eq ?_ ?_, field_of _ _ (x0.toNat + g1 * 256) (g0 + x2.toNat * 64) eq ?_ ?_, field_of _ _ (g1) (g0 + x2.toNat * 64 + x1.toNat * 1024) eq ?_ ?_, field_of _ _ (0) (g0 + x2.toNat * 64 + x1.toNat * 1024 + x0.toNat * 262144) eq ?_ ?_⟩
  all_goals (try simp only [BitVec.toNat_ofNat]); omega

theorem layout31 {i : Instr} {w : Word} {c : Nat} (x0 : BitVec 8) (x1 : BitVec 8) (x2 : BitVec 8) (x3 : BitVec 2) (g0 : Nat) (en : encode i = some w)
    (p : encode i = some (BitVec.ofNat 32 (c + place 18 x0 + place 10 x1 + place 2 x2 + place 0 x3)))
    (hc : (Nat.beq c (g0 * 67108864) && Nat.blt g0 64) = true) :
    w.extractLsb' 0 2 = x3 ∧ w.extractLsb' 2 8 = x2 ∧ w.extractLsb' 10 8 = x1 ∧ w.extractLsb' 18 8 = x0 ∧ w.extractLsb' 26 6 = BitVec.ofNat 6 g0 := by
  simp only [Bool.and_eq_true, Nat.beq_eq, Nat.blt_eq] at hc
  have := x0.isLt; have := x1.isLt; have := x2.isLt; have := x3.isLt
  have eq := word_toNat en p (n := x3.toNat + x2.toNat * 4 + x1.toNat * 1024 + x0.toNat * 262144 + g0 * 67108864) (by simp only [place]; omega)
  refine ⟨field_of _ _ (x2.toNat + x1.toNat * 256 + x0.toNat * 65536 + g0 * 16777216) (0) eq ?_ ?_, field_of _ _ (x1.toNat + x0.toNat * 256 + g0 * 65536) (x3.toNat) eq ?_ ?_, field_of _ _ (x0.toNat + g0 * 256) (x3.toNat + x2.toNat * 4) eq ?_ ?_, field_of _ _ (g0) (x3.toNat + x2.toNat * 4 + x1.toNat * 1024) eq ?_ ?_, field_of _ _ (0) (x3.toNat + x2.toNat * 4 + x1.toNat * 1024 + x0.toNat * 262144) eq ?_ ?_⟩
  all_goals (try simp only [BitVec.toNat_ofNat]); omega

theorem layout32 {i : Instr} {w : Word} {c : Nat} (x0 : BitVec 2) (x1 : BitVec 4) (x2 : BitVec 4) (x3 : BitVec 6) (x4 : BitVec 6) (x5 : BitVec 1) (g0 g1 g2 : Nat) (en : encode i = some w)
    (p : encode i = some (BitVec.ofNat 32 (c + place 24 x0 + place 20 x1 + place 16 x2 + place 10 x3 + place 4 x4 + place 1 x5)))
    (hc : (Nat.beq c (g0 + g1 * 4 + g2 * 67108864) && Nat.blt g0 2 && Nat.blt g1 4 && Nat.blt g2 64) = true) :
    w.extractLsb' 0 1 = BitVec.ofNat 1 g0 ∧ w.extractLsb' 1 1 = x5 ∧ w.extractLsb' 2 2 = BitVec.ofNat 2 g1 ∧ w.extractLsb' 4 6 = x4 ∧ w.extractLsb' 10 6 = x3 ∧ w.extractLsb' 16 4 = x2 ∧ w.extractLsb' 20 4 = x1 ∧ w.extractLsb' 24 2 = x0 ∧ w.extractLsb' 26 6 = BitVec.ofNat 6 g2 := by
  simp only [Bool.and_eq_true, Nat.beq_eq, Nat.blt_eq] at hc
  have := x0.isLt; have := x1.isLt; have := x2.isLt; have := x3.isLt; have := x4.isLt; have := x5.isLt
  have eq := word_toNat en p (n := g0 + x5.toNat * 2 + g1 * 4 + x4.toNat * 16 + x3.toNat * 1024 + x2.toNat * 65536 + x1.toNat * 1048576 + x0.toNat * 16777216 + g2 * 67108864) (by simp only [place]; omega)
  refine ⟨field_of _ _ (x5.toNat + g1 * 2 + x4.toNat * 8 + x3.toNat * 512 + x2.toNat * 32768 + x1.toNat * 524288 + x0.toNat * 8388608 + g2 * 33554432) (0) eq ?_ ?_, field_of _ _ (g1 + x4.toNat * 4 + x3.toNat * 256 + x2.toNat * 16384 + x1.toNat * 262144 + x0.toNat * 4194304 + g2 * 16777216) (g0) eq ?_ ?_, field_of _ _ (x4.toNat + x3.toNat * 64 + x2.toNat * 4096 + x1.toNat * 65536 + x0.toNat * 1048576 + g2 * 4194304) (g0 + x5.toNat * 2) eq ?_ ?_, field_of _ _ (x3.toNat + x2.toNat * 64 + x1.toNat * 1024 + x0.toNat * 16384 + g2 * 65536) (g0 + x5.toNat * 2 + g1 * 4) eq ?_ ?_, field_of _ _ (x2.toNat + x1.toNat * 16 + x0.toNat * 256 + g2 * 1024) (g0 + x5.toNat * 2 + g1 * 4 + x4.toNat * 16) eq ?_ ?_, field_of _ _ (x1.toNat + x0.toNat * 16 + g2 * 64) (g0 + x5.toNat * 2 + g1 * 4 + x4.toNat * 16 + x3.toNat * 1024) eq ?_ ?_, field_of _ _ (x0.toNat + g2 * 4) (g0 + x5.toNat * 2 + g1 * 4 + x4.toNat * 16 + x3.toNat * 1024 + x2.toNat * 65536) eq ?_ ?_, field_of _ _ (g2) (g0 + x5.toNat * 2 + g1 * 4 + x4.toNat * 16 + x3.toNat * 1024 + x2.toNat * 65536 + x1.toNat * 1048576) eq ?_ ?_, field_of _ _ (0) (g0 + x5.toNat * 2 + g1 * 4 + x4.toNat * 16 + x3.toNat * 1024 + x2.toNat * 65536 + x1.toNat * 1048576 + x0.toNat * 16777216) eq ?_ ?_⟩
  all_goals (try simp only [BitVec.toNat_ofNat]); omega

theorem layout33 {i : Instr} {w : Word} {c : Nat} (x0 : BitVec 2) (g0 g1 g2 : Nat) (en : encode i = some w)
    (p : encode i = some (BitVec.ofNat 32 (c + place 24 x0)))
    (hc : (Nat.beq c (g0 + g1 * 16 + g2 * 67108864) && Nat.blt g0 16 && Nat.blt g1 1048576 && Nat.blt g2 64) = true) :
    w.extractLsb' 0 4 = BitVec.ofNat 4 g0 ∧ w.extractLsb' 4 20 = BitVec.ofNat 20 g1 ∧ w.extractLsb' 24 2 = x0 ∧ w.extractLsb' 26 6 = BitVec.ofNat 6 g2 := by
  simp only [Bool.and_eq_true, Nat.beq_eq, Nat.blt_eq] at hc
  have := x0.isLt
  have eq := word_toNat en p (n := g0 + g1 * 16 + x0.toNat * 16777216 + g2 * 67108864) (by simp only [place]; omega)
  refine ⟨field_of _ _ (g1 + x0.toNat * 1048576 + g2 * 4194304) (0) eq ?_ ?_, field_of _ _ (x0.toNat + g2 * 4) (g0) eq ?_ ?_, field_of _ _ (g2) (g0 + g1 * 16) eq ?_ ?_, field_of _ _ (0) (g0 + g1 * 16 + x0.toNat * 16777216) eq ?_ ?_⟩
  all_goals (try simp only [BitVec.toNat_ofNat]); omega

theorem layout34 {i : Instr} {w : Word} {c : Nat} (x0 : BitVec 2) (x1 : BitVec 4) (x2 : BitVec 6) (g0 g1 g2 g3 : Nat) (en : encode i = some w)
    (p : encode i = some (BitVec.ofNat 32 (c + place 24 x0 + place 20 x1 + place 10 x2)))
    (hc : (Nat.beq c (g0 + g1 * 16 + g2 * 65536 + g3 * 67108864) && Nat.blt g0 16 && Nat.blt g1 64 && Nat.blt g2 16 && Nat.blt g3 64) = true) :
    w.extractLsb' 0 4 = BitVec.ofNat 4 g0 ∧ w.extractLsb' 4 6 = BitVec.ofNat 6 g1 ∧ w.extractLsb' 10 6 = x2 ∧ w.extractLsb' 16 4 = BitVec.ofNat 4 g2 ∧ w.extractLsb' 20 4 = x1 ∧ w.extractLsb' 24 2 = x0 ∧ w.extractLsb' 26 6 = BitVec.ofNat 6 g3 := by
  simp only [Bool.and_eq_true, Nat.beq_eq, Nat.blt_eq] at hc
  have := x0.isLt; have := x1.isLt; have := x2.isLt
  have eq := word_toNat en p (n := g0 + g1 * 16 + x2.toNat * 1024 + g2 * 65536 + x1.toNat * 1048576 + x0.toNat * 16777216 + g3 * 67108864) (by simp only [place]; omega)
  refine ⟨field_of _ _ (g1 + x2.toNat * 64 + g2 * 4096 + x1.toNat * 65536 + x0.toNat * 1048576 + g3 * 4194304) (0) eq ?_ ?_, field_of _ _ (x2.toNat + g2 * 64 + x1.toNat * 1024 + x0.toNat * 16384 + g3 * 65536) (g0) eq ?_ ?_, field_of _ _ (g2 + x1.toNat * 16 + x0.toNat * 256 + g3 * 1024) (g0 + g1 * 16) eq ?_ ?_, field_of _ _ (x1.toNat + x0.toNat * 16 + g3 * 64) (g0 + g1 * 16 + x2.toNat * 1024) eq ?_ ?_, field_of _ _ (x0.toNat + g3 * 4) (g0 + g1 * 16 + x2.toNat * 1024 + g2 * 65536) eq ?_ ?_, field_of _ _ (g3) (g0 + g1 * 16 + x2.toNat * 1024 + g2 * 65536 + x1.toNat * 1048576) eq ?_ ?_, field_of _ _ (0) (g0 + g1 * 16 + x2.toNat * 1024 + g2 * 65536 + x1.toNat * 1048576 + x0.toNat * 16777216) eq ?_ ?_⟩
  all_goals (try simp only [BitVec.toNat_ofNat]); omega

theorem layout35 {i : Instr} {w : Word} {c : Nat} (x0 : BitVec 2) (x1 : BitVec 6) (g0 g1 g2 g3 : Nat) (en : encode i = some w)
    (p : encode i = some (BitVec.ofNat 32 (c + place 24 x0 + place 10 x1)))
    (hc : (Nat.beq c (g0 + g1 * 16 + g2 * 65536 + g3 * 67108864) && Nat.blt g0 16 && Nat.blt g1 64 && Nat.blt g2 256 && Nat.blt g3 64) = true) :
    w.extractLsb' 0 4 = BitVec.ofNat 4 g0 ∧ w.extractLsb' 4 6 = BitVec.ofNat 6 g1 ∧ w.extractLsb' 10 6 = x1 ∧ w.extractLsb' 16 8 = BitVec.ofNat 8 g2 ∧ w.extractLsb' 24 2 = x0 ∧ w.extractLsb' 26 6 = BitVec.ofNat 6 g3 := by
  simp only [Bool.and_eq_true, Nat.beq_eq, Nat.blt_eq] at hc
  have := x0.isLt; have := x1.isLt
  have eq := word_toNat en p (n := g0 + g1 * 16 + x1.toNat * 1024 + g2 * 65536 + x0.toNat * 16777216 + g3 * 67108864) (by simp only [place]; omega)
  refine ⟨field_of _ _ (g1 + x1.toNat * 64 + g2 * 4096 + x0.toNat * 1048576 + g3 * 4194304) (0) eq ?_ ?_, field_of _ _ (x1.toNat + g2 * 64 + x0.toNat * 16384 + g3 * 65536) (g0) eq ?_ ?_, field_of _ _ (g2 + x0.toNat * 256 + g3 * 1024) (g0 + g1 * 16) eq ?_ ?_, field_of _ _ (x0.toNat + g3 * 4) (g0 + g1 * 16 + x1.toNat * 1024) eq ?_ ?_, field_of _ _ (g3) (g0 + g1 * 16 + x1.toNat * 1024 + g2 * 65536) eq ?_ ?_, field_of _ _ (0) (g0 + g1 * 16 + x1.toNat * 1024 + g2 * 65536 + x0.toNat * 16777216) eq ?_ ?_⟩
  all_goals (try simp only [BitVec.toNat_ofNat]); omega

theorem layout36 {i : Instr} {w : Word} {c : Nat} (x0 : BitVec 2) (x1 : BitVec 2) (x2 : BitVec 6) (g0 g1 g2 g3 : Nat) (en : encode i = some w)
    (p : encode i = some (BitVec.ofNat 32 (c + place 24 x0 + place 16 x1 + place 10 x2)))
    (hc : (Nat.beq c (g0 + g1 * 16 + g2 * 262144 + g3 * 67108864) && Nat.blt g0 16 && Nat.blt g1 64 && Nat.blt g2 64 && Nat.blt g3 64) = true) :
    w.extractLsb' 0 4 = BitVec.ofNat 4 g0 ∧ w.extractLsb' 4 6 = BitVec.ofNat 6 g1 ∧ w.extractLsb' 10 6 = x2 ∧ w.extractLsb' 16 2 = x1 ∧ w.extractLsb' 18 6 = BitVec.ofNat 6 g2 ∧ w.extractLsb' 24 2 = x0 ∧ w.extractLsb' 26 6 = BitVec.ofNat 6 g3 := by
  simp only [Bool.and_eq_true, Nat.beq_eq, Nat.blt_eq] at hc
  have := x0.isLt; have := x1.isLt; have := x2.isLt
  have eq := word_toNat en p (n := g0 + g1 * 16 + x2.toNat * 1024 + x1.toNat * 65536 + g2 * 262144 + x0.toNat * 16777216 + g3 * 67108864) (by simp only [place]; omega)
  refine ⟨field_of _ _ (g1 + x2.toNat * 64 + x1.toNat * 4096 + g2 * 16384 + x0.toNat * 1048576 + g3 * 4194304) (0) eq ?_ ?_, field_of _ _ (x2.toNat + x1.toNat * 64 + g2 * 256 + x0.toNat * 16384 + g3 * 65536) (g0) eq ?_ ?_, field_of _ _ (x1.toNat + g2 * 4 + x0.toNat * 256 + g3 * 1024) (g0 + g1 * 16) eq ?_ ?_, field_of _ _ (g2 + x0.toNat * 64 + g3 * 256) (g0 + g1 * 16 + x2.toNat * 1024) eq ?_ ?_, field_of _ _ (x0.toNat + g3 * 4) (g0 + g1 * 16 + x2.toNat * 1024 + x1.toNat * 65536) eq ?_ ?_, field_of _ _ (g3) (g0 + g1 * 16 + x2.toNat * 1024 + x1.toNat * 65536 + g2 * 262144) eq ?_ ?_, field_of _ _ (0) (g0 + g1 * 16 + x2.toNat * 1024 + x1.toNat * 65536 + g2 * 262144 + x0.toNat * 16777216) eq ?_ ?_⟩
  all_goals (try simp only [BitVec.toNat_ofNat]); omega

theorem layout37 {i : Instr} {w : Word} {c : Nat} (x0 : BitVec 6) (x1 : BitVec 6) (x2 : BitVec 6) (g0 g1 g2 : Nat) (en : encode i = some w)
    (p : encode i = some (BitVec.ofNat 32 (c + place 12 x0 + place 6 x1 + place 0 x2)))
    (hc : (Nat.beq c (g0 * 262144 + g1 * 524288 + g2 * 67108864) && Nat.blt g0 2 && Nat.blt g1 128 && Nat.blt g2 64) = true) :
    w.extractLsb' 0 6 = x2 ∧ w.extractLsb' 6 6 = x1 ∧ w.extractLsb' 12 6 = x0 ∧ w.extractLsb' 18 1 = BitVec.ofNat 1 g0 ∧ w.extractLsb' 19 7 = BitVec.ofNat 7 g1 ∧ w.extractLsb' 26 6 = BitVec.ofNat 6 g2 := by
  simp only [Bool.and_eq_true, Nat.beq_eq, Nat.blt_eq] at hc
  have := x0.isLt; have := x1.isLt; have := x2.isLt
  have eq := word_toNat en p (n := x2.toNat + x1.toNat * 64 + x0.toNat * 4096 + g0 * 262144 + g1 * 524288 + g2 * 67108864) (by simp only [place]; omega)
  refine ⟨field_of _ _ (x1.toNat + x0.toNat * 64 + g0 * 4096 + g1 * 8192 + g2 * 1048576) (0) eq ?_ ?_, field_of _ _ (x0.toNat + g0 * 64 + g1 * 128 + g2 * 16384) (x2.toNat) eq ?_ ?_, field_of _ _ (g0 + g1 * 2 + g2 * 256) (x2.toNat + x1.toNat * 64) eq ?_ ?_, field_of _ _ (g1 + g2 * 128) (x2.toNat + x1.toNat * 64 + x0.toNat * 4096) eq ?_ ?_, field_of _ _ (g2) (x2.toNat + x1.toNat * 64 + x0.toNat * 4096 + g0 * 262144) eq ?_ ?_, field_of _ _ (0) (x2.toNat + x1.toNat * 64 + x0.toNat * 4096 + g0 * 262144 + g1 * 524288) eq ?_ ?_⟩
  all_goals (try simp only [BitVec.toNat_ofNat]); omega

theorem layout38 {i : Instr} {w : Word} {c : Nat} (x0 : BitVec 1) (x1 : BitVec 6) (x2 : BitVec 6) (x3 : BitVec 6) (g0 g1 : Nat) (en : encode i = some w)
    (p : encode i = some (BitVec.ofNat 32 (c + place 18 x0 + place 12 x1 + place 6 x2 + place 0 x3)))
    (hc : (Nat.beq c (g0 * 524288 + g1 * 67108864) && Nat.blt g0 128 && Nat.blt g1 64) = true) :
    w.extractLsb' 0 6 = x3 ∧ w.extractLsb' 6 6 = x2 ∧ w.extractLsb' 12 6 = x1 ∧ w.extractLsb' 18 1 = x0 ∧ w.extractLsb' 19 7 = BitVec.ofNat 7 g0 ∧ w.extractLsb' 26 6 = BitVec.ofNat 6 g1 := by
  simp only [Bool.and_eq_true, Nat.beq_eq, Nat.blt_eq] at hc
  have := x0.isLt; have := x1.isLt; have := x2.isLt; have := x3.isLt
  have eq := word_toNat en p (n := x3.toNat + x2.toNat * 64 + x1.toNat * 4096 + x0.toNat * 262144 + g0 * 524288 + g1 * 67108864) (by simp only [place]; omega)
  refine ⟨field_of _ _ (x2.toNat + x1.toNat * 64 + x0.toNat * 4096 + g0 * 8192 + g1 * 1048576) (0) eq ?_ ?_, field_of _ _ (x1.toNat + x0.toNat * 64 + g0 * 128 + g1 * 16384) (x3.toNat) eq ?_ ?_, field_of _ _ (x0.toNat + g0 * 2 + g1 * 256) (x3.toNat + x2.toNat * 64) eq ?_ ?_, field_of _ _ (g0 + g1 * 128) (x3.toNat + x2.toNat * 64 + x1.toNat * 4096) eq ?_ ?_, field_of _ _ (g1) (x3.toNat + x2.toNat * 64 + x1.toNat * 4096 + x0.toNat * 262144) eq ?_ ?_, field_of _ _ (0) (x3.toNat + x2.toNat * 64 + x1.toNat * 4096 + x0.toNat * 262144 + g0 * 524288) eq ?_ ?_⟩
  all_goals (try simp only [BitVec.toNat_ofNat]); omega

theorem layout39 {i : Instr} {w : Word} {c : Nat} (x0 : BitVec 6) (x1 : BitVec 6) (g0 g1 g2 g3 : Nat) (en : encode i = some w)
    (p : encode i = some (BitVec.ofNat 32 (c + place 12 x0 + place 6 x1)))
    (hc : (Nat.beq c (g0 + g1 * 262144 + g2 * 524288 + g3 * 67108864) && Nat.blt g0 64 && Nat.blt g1 2 && Nat.blt g2 128 && Nat.blt g3 64) = true) :
    w.extractLsb' 0 6 = BitVec.ofNat 6 g0 ∧ w.extractLsb' 6 6 = x1 ∧ w.extractLsb' 12 6 = x0 ∧ w.extractLsb' 18 1 = BitVec.ofNat 1 g1 ∧ w.extractLsb' 19 7 = BitVec.ofNat 7 g2 ∧ w.extractLsb' 26 6 = BitVec.ofNat 6 g3 := by
  simp only [Bool.and_eq_true, Nat.beq_eq, Nat.blt_eq] at hc
  have := x0.isLt; have := x1.isLt
  have eq := word_toNat en p (n := g0 + x1.toNat * 64 + x0.toNat * 4096 + g1 * 262144 + g2 * 524288 + g3 * 67108864) (by simp only [place]; omega)
  refine ⟨field_of _ _ (x1.toNat + x0.toNat * 64 + g1 * 4096 + g2 * 8192 + g3 * 1048576) (0) eq ?_ ?_, field_of _ _ (x0.toNat + g1 * 64 + g2 * 128 + g3 * 16384) (g0) eq ?_ ?_, field_of _ _ (g1 + g2 * 2 + g3 * 256) (g0 + x1.toNat * 64) eq ?_ ?_, field_of _ _ (g2 + g3 * 128) (g0 + x1.toNat * 64 + x0.toNat * 4096) eq ?_ ?_, field_of _ _ (g3) (g0 + x1.toNat * 64 + x0.toNat * 4096 + g1 * 262144) eq ?_ ?_, field_of _ _ (0) (g0 + x1.toNat * 64 + x0.toNat * 4096 + g1 * 262144 + g2 * 524288) eq ?_ ?_⟩
  all_goals (try simp only [BitVec.toNat_ofNat]); omega

theorem layout40 {i : Instr} {w : Word} {c : Nat} (x0 : BitVec 1) (x1 : BitVec 6) (x2 : BitVec 6) (g0 g1 g2 : Nat) (en : encode i = some w)
    (p : encode i = some (BitVec.ofNat 32 (c + place 18 x0 + place 12 x1 + place 6 x2)))
    (hc : (Nat.beq c (g0 + g1 * 524288 + g2 * 67108864) && Nat.blt g0 64 && Nat.blt g1 128 && Nat.blt g2 64) = true) :
    w.extractLsb' 0 6 = BitVec.ofNat 6 g0 ∧ w.extractLsb' 6 6 = x2 ∧ w.extractLsb' 12 6 = x1 ∧ w.extractLsb' 18 1 = x0 ∧ w.extractLsb' 19 7 = BitVec.ofNat 7 g1 ∧ w.extractLsb' 26 6 = BitVec.ofNat 6 g2 := by
  simp only [Bool.and_eq_true, Nat.beq_eq, Nat.blt_eq] at hc
  have := x0.isLt; have := x1.isLt; have := x2.isLt
  have eq := word_toNat en p (n := g0 + x2.toNat * 64 + x1.toNat * 4096 + x0.toNat * 262144 + g1 * 524288 + g2 * 67108864) (by simp only [place]; omega)
  refine ⟨field_of _ _ (x2.toNat + x1.toNat * 64 + x0.toNat * 4096 + g1 * 8192 + g2 * 1048576) (0) eq ?_ ?_, field_of _ _ (x1.toNat + x0.toNat * 64 + g1 * 128 + g2 * 16384) (g0) eq ?_ ?_, field_of _ _ (x0.toNat + g1 * 2 + g2 * 256) (g0 + x2.toNat * 64) eq ?_ ?_, field_of _ _ (g1 + g2 * 128) (g0 + x2.toNat * 64 + x1.toNat * 4096) eq ?_ ?_, field_of _ _ (g2) (g0 + x2.toNat * 64 + x1.toNat * 4096 + x0.toNat * 262144) eq ?_ ?_, field_of _ _ (0) (g0 + x2.toNat * 64 + x1.toNat * 4096 + x0.toNat * 262144 + g1 * 524288) eq ?_ ?_⟩
  all_goals (try simp only [BitVec.toNat_ofNat]); omega

theorem layout41 {i : Instr} {w : Word} {c : Nat} (x0 : BitVec 8) (x1 : BitVec 6) (g0 g1 g2 g3 : Nat) (en : encode i = some w)
    (p : encode i = some (BitVec.ofNat 32 (c + place 10 x0 + place 0 x1)))
    (hc : (Nat.beq c (g0 * 64 + g1 * 256 + g2 * 262144 + g3 * 67108864) && Nat.blt g0 4 && Nat.blt g1 4 && Nat.blt g2 256 && Nat.blt g3 64) = true) :
    w.extractLsb' 0 6 = x1 ∧ w.extractLsb' 6 2 = BitVec.ofNat 2 g0 ∧ w.extractLsb' 8 2 = BitVec.ofNat 2 g1 ∧ w.extractLsb' 10 8 = x0 ∧ w.extractLsb' 18 8 = BitVec.ofNat 8 g2 ∧ w.extractLsb' 26 6 = BitVec.ofNat 6 g3 := by
  simp only [Bool.and_eq_true, Nat.beq_eq, Nat.blt_eq] at hc
  have := x0.isLt; have := x1.isLt
  have eq := word_toNat en p (n := x1.toNat + g0 * 64 + g1 * 256 + x0.toNat * 1024 + g2 * 262144 + g3 * 67108864) (by simp only [place]; omega)
  refine ⟨field_of _ _ (g0 + g1 * 4 + x0.toNat * 16 + g2 * 4096 + g3 * 1048576) (0) eq ?_ ?_, field_of _ _ (g1 + x0.toNat * 4 + g2 * 1024 + g3 * 262144) (x1.toNat) eq ?_ ?_, field_of _ _ (x0.toNat + g2 * 256 + g3 * 65536) (x1.toNat + g0 * 64) eq ?_ ?_, field_of _ _ (g2 + g3 * 256) (x1.toNat + g0 * 64 + g1 * 256) eq ?_ ?_, field_of _ _ (g3) (x1.toNat + g0 * 64 + g1 * 256 + x0.toNat * 1024) eq ?_ ?_, field_of _ _ (0) (x1.toNat + g0 * 64 + g1 * 256 + x0.toNat * 1024 + g2 * 262144) eq ?_ ?_⟩
  all_goals (try simp only [BitVec.toNat_ofNat]); omega

theorem layout42 {i : Instr} {w : Word} {c : Nat} (x0 : BitVec 6) (g0 g1 g2 g3 : Nat) (en : encode i = some w)
    (p : encode i = some (BitVec.ofNat 32 (c + place 0 x0)))
    (hc : (Nat.beq c (g0 * 64 + g1 * 256 + g2 * 1024 + g3 * 67108864) && Nat.blt g0 4 && Nat.blt g1 4 && Nat.blt g2 65536 && Nat.blt g3 64) = true) :
    w.extractLsb' 0 6 = x0 ∧ w.extractLsb' 6 2 = BitVec.ofNat 2 g0 ∧ w.extractLsb' 8 2 = BitVec.ofNat 2 g1 ∧ w.extractLsb' 10 16 = BitVec.ofNat 16 g2 ∧ w.extractLsb' 26 6 = BitVec.ofNat 6 g3 := by
  simp only [Bool.and_eq_true, Nat.beq_eq, Nat.blt_eq] at hc
  have := x0.isLt
  have eq := word_toNat en p (n := x0.toNat + g0 * 64 + g1 * 256 + g2 * 1024 + g3 * 67108864) (by simp only [place]; omega)
  refine ⟨field_of _ _ (g0 + g1 * 4 + g2 * 16 + g3 * 1048576) (0) eq ?_ ?_, field_of _ _ (g1 + g2 * 4 + g3 * 262144) (x0.toNat) eq ?_ ?_, field_of _ _ (g2 + g3 * 65536) (x0.toNat + g0 * 64) eq ?_ ?_, field_of _ _ (g3) (x0.toNat + g0 * 64 + g1 * 256) eq ?_ ?_, field_of _ _ (0) (x0.toNat + g0 * 64 + g1 * 256 + g2 * 1024) eq ?_ ?_⟩
  all_goals (try simp only [BitVec.toNat_ofNat]); omega

theorem layout43 {i : Instr} {w : Word} {c : Nat} (g0 g1 g2 : Nat) (en : encode i = some w)
    (p : encode i = some (BitVec.ofNat 32 (c)))
    (hc : (Nat.beq c (g0 + g1 * 262144 + g2 * 67108864) && Nat.blt g0 262144 && Nat.blt g1 256 && Nat.blt g2 64) = true) :
    w.extractLsb' 0 18 = BitVec.ofNat 18 g0 ∧ w.extractLsb' 18 8 = BitVec.ofNat 8 g1 ∧ w.extractLsb' 26 6 = BitVec.ofNat 6 g2 := by
  simp only [Bool.and_eq_true, Nat.beq_eq, Nat.blt_eq] at hc
  have eq := word_toNat en p (n := g0 + g1 * 262144 + g2 * 67108864) (by omega)
  refine ⟨field_of _ _ (g1 + g2 * 256) (0) eq ?_ ?_, field_of _ _ (g2) (g0) eq ?_ ?_, field_of _ _ (0) (g0 + g1 * 262144) eq ?_ ?_⟩
  all_goals (try simp only [BitVec.toNat_ofNat]); omega

theorem layout44 {i : Instr} {w : Word} {c : Nat} (g0 g1 g2 : Nat) (en : encode i = some w)
    (p : encode i = some (BitVec.ofNat 32 (c)))
    (hc : (Nat.beq c (g0 + g1 * 8 + g2 * 67108864) && Nat.blt g0 8 && Nat.blt g1 8388608 && Nat.blt g2 64) = true) :
    w.extractLsb' 0 3 = BitVec.ofNat 3 g0 ∧ w.extractLsb' 3 23 = BitVec.ofNat 23 g1 ∧ w.extractLsb' 26 6 = BitVec.ofNat 6 g2 := by
  simp only [Bool.and_eq_true, Nat.beq_eq, Nat.blt_eq] at hc
  have eq := word_toNat en p (n := g0 + g1 * 8 + g2 * 67108864) (by omega)
  refine ⟨field_of _ _ (g1 + g2 * 8388608) (0) eq ?_ ?_, field_of _ _ (g2) (g0) eq ?_ ?_, field_of _ _ (0) (g0 + g1 * 8) eq ?_ ?_⟩
  all_goals (try simp only [BitVec.toNat_ofNat]); omega

theorem Encoding.sleep (n : BitVec 10) : Encoding.Statement (.sleep n) := by
  intro w' wf en
  obtain ⟨f0_10, f10_8, f18_8, f26_6⟩ := layout0 n 0 3 0 en rfl rfl
  rw [decodeWord_00 f26_6, decodeCtl, f0_10, f10_8, f18_8]; rfl

theorem Encoding.jmpi (a : BitVec 8) : Encoding.Statement (.jmpi a) := by
  intro w' wf en
  obtain ⟨f0_10, f10_8, f18_8, f26_6⟩ := layout1 a 0 5 0 en rfl rfl
  rw [decodeWord_00 f26_6, decodeCtl, f0_10, f10_8, f18_8]; rfl

theorem Encoding.calli (a : BitVec 8) : Encoding.Statement (.calli a) := by
  intro w' wf en
  obtain ⟨f0_10, f10_8, f18_8, f26_6⟩ := layout1 a 0 6 0 en rfl rfl
  rw [decodeWord_00 f26_6, decodeCtl, f0_10, f10_8, f18_8]; rfl

theorem Encoding.trap (n : BitVec 10) : Encoding.Statement (.trap n) := by
  intro w' wf en
  obtain ⟨f0_10, f10_8, f18_8, f26_6⟩ := layout0 n 0 7 0 en rfl rfl
  rw [decodeWord_00 f26_6, decodeCtl, f0_10, f10_8, f18_8]; rfl

theorem Encoding.ttrap (a : BitVec 8) : Encoding.Statement (.ttrap a) := by
  intro w' wf en
  obtain ⟨f0_10, f10_8, f18_8, f26_6⟩ := layout1 a 0 11 0 en rfl rfl
  rw [decodeWord_00 f26_6, decodeCtl, f0_10, f10_8, f18_8]; rfl

theorem Encoding.tdead (a : BitVec 8) : Encoding.Statement (.tdead a) := by
  intro w' wf en
  obtain ⟨f0_10, f10_8, f18_8, f26_6⟩ := layout1 a 0 12 0 en rfl rfl
  rw [decodeWord_00 f26_6, decodeCtl, f0_10, f10_8, f18_8]; rfl

theorem Encoding.br (o : BitVec 16) (w : BitVec 4) : Encoding.Statement (.br o w) := by
  intro w' wf en
  obtain ⟨f0_4, f4_2, f6_4, f10_16, f26_6⟩ := layout2 o w 0 0 1 en rfl rfl
  rw [decodeWord_01 f26_6, decodeBr, f0_4, f4_2, f6_4, f10_16]; rfl

theorem Encoding.brP (o : BitVec 16) (w : BitVec 4) (p : BitVec 4) : Encoding.Statement (.brP o w p) := by
  intro w' wf en
  have wf : p ≠ 0#4 := bne_iff_ne.mp wf
  obtain ⟨f0_4, f4_2, f6_4, f10_16, f26_6⟩ := layout3 o w p 0 1 en rfl rfl
  rw [decodeWord_01 f26_6, decodeBr, f0_4, f4_2, f6_4, f10_16]; exact if_neg wf

theorem Encoding.brNp (o : BitVec 16) (w : BitVec 4) (p : BitVec 4) : Encoding.Statement (.brNp o w p) := by
  intro w' wf en
  obtain ⟨f0_4, f4_2, f6_4, f10_16, f26_6⟩ := layout3 o w p 1 1 en rfl rfl
  rw [decodeWord_01 f26_6, decodeBr, f0_4, f4_2, f6_4, f10_16]; rfl

theorem Encoding.brZ (o : BitVec 16) (w : BitVec 4) (s : BitVec 4) : Encoding.Statement (.brZ o w s) := by
  intro w' wf en
  obtain ⟨f0_4, f4_2, f6_4, f10_16, f26_6⟩ := layout3 o w s 2 1 en rfl rfl
  rw [decodeWord_01 f26_6, decodeBr, f0_4, f4_2, f6_4, f10_16]; rfl

theorem Encoding.brNz (o : BitVec 16) (w : BitVec 4) (s : BitVec 4) : Encoding.Statement (.brNz o w s) := by
  intro w' wf en
  obtain ⟨f0_4, f4_2, f6_4, f10_16, f26_6⟩ := layout3 o w s 3 1 en rfl rfl
  rw [decodeWord_01 f26_6, decodeBr, f0_4, f4_2, f6_4, f10_16]; rfl

theorem Encoding.call (o : BitVec 16) (w : BitVec 4) : Encoding.Statement (.call o w) := by
  intro w' wf en
  obtain ⟨f0_6, f6_4, f10_16, f26_6⟩ := layout4 o w 0 2 en rfl rfl
  rw [decodeWord_02 f26_6, decodeCallRcv, f0_6, f6_4, f10_16]; rfl

theorem Encoding.rcv (o : BitVec 16) (w : BitVec 4) : Encoding.Statement (.rcv o w) := by
  intro w' wf en
  obtain ⟨f0_6, f6_4, f10_16, f26_6⟩ := layout4 o w 1 2 en rfl rfl
  rw [decodeWord_02 f26_6, decodeCallRcv, f0_6, f6_4, f10_16]; rfl

theorem Encoding.rapent (o : BitVec 16) (w : BitVec 4) : Encoding.Statement (.rapent o w) := by
  intro w' wf en
  obtain ⟨f0_6, f6_4, f10_16, f26_6⟩ := layout4 o w 2 2 en rfl rfl
  rw [decodeWord_02 f26_6, decodeCallRcv, f0_6, f6_4, f10_16]; rfl

theorem Encoding.rdsr (d : BitVec 8) (n : BitVec 10) : Encoding.Statement (.rdsr d n) := by
  intro w' wf en
  have wf : ¬ 25 < n.toNat := by have := of_decide_eq_true (p := n.toNat < 26) wf; omega
  obtain ⟨f0_10, f10_8, f18_8, f26_6⟩ := layout5 d n 0 3 en rfl rfl
  rw [decodeWord_03 f26_6, decodeRdsr, f0_10, f10_8, f18_8]; exact if_neg wf

theorem Encoding.wrsr (a : BitVec 8) (n : BitVec 10) : Encoding.Statement (.wrsr a n) := by
  intro w' wf en
  have wf : ¬ 25 < n.toNat := by have := of_decide_eq_true (p := n.toNat < 26) wf; omega
  obtain ⟨f0_10, f10_8, f18_8, f26_6⟩ := layout6 a n 0 4 en rfl rfl
  rw [decodeWord_04 f26_6, decodeWrsr, f0_10, f10_8, f18_8]; exact if_neg wf

theorem Encoding.sadd (d : BitVec 8) (a : BitVec 8) (b : BitVec 8) : Encoding.Statement (.sadd d a b) := by
  intro w' wf en
  obtain ⟨f0_2, f2_8, f10_8, f18_8, f26_6⟩ := layout7 d a b 0 5 en rfl rfl
  rw [decodeWord_05 f26_6, decodeSarith, f0_2, f2_8, f10_8, f18_8]; rfl

theorem Encoding.ssub (d : BitVec 8) (a : BitVec 8) (b : BitVec 8) : Encoding.Statement (.ssub d a b) := by
  intro w' wf en
  obtain ⟨f0_2, f2_8, f10_8, f18_8, f26_6⟩ := layout7 d a b 1 5 en rfl rfl
  rw [decodeWord_05 f26_6, decodeSarith, f0_2, f2_8, f10_8, f18_8]; rfl

theorem Encoding.smul (d : BitVec 8) (a : BitVec 8) (b : BitVec 8) : Encoding.Statement (.smul d a b) := by
  intro w' wf en
  obtain ⟨f0_2, f2_8, f10_8, f18_8, f26_6⟩ := layout7 d a b 2 5 en rfl rfl
  rw [decodeWord_05 f26_6, decodeSarith, f0_2, f2_8, f10_8, f18_8]; rfl

theorem Encoding.smulh (d : BitVec 8) (a : BitVec 8) (b : BitVec 8) : Encoding.Statement (.smulh d a b) := by
  intro w' wf en
  obtain ⟨f0_2, f2_8, f10_8, f18_8, f26_6⟩ := layout7 d a b 3 5 en rfl rfl
  rw [decodeWord_05 f26_6, decodeSarith, f0_2, f2_8, f10_8, f18_8]; rfl

theorem Encoding.sand (d : BitVec 8) (a : BitVec 8) (b : BitVec 8) : Encoding.Statement (.sand d a b) := by
  intro w' wf en
  obtain ⟨f0_2, f2_8, f10_8, f18_8, f26_6⟩ := layout7 d a b 0 6 en rfl rfl
  rw [decodeWord_06 f26_6, decodeSlogic, f0_2, f2_8, f10_8, f18_8]; rfl

theorem Encoding.sor (d : BitVec 8) (a : BitVec 8) (b : BitVec 8) : Encoding.Statement (.sor d a b) := by
  intro w' wf en
  obtain ⟨f0_2, f2_8, f10_8, f18_8, f26_6⟩ := layout7 d a b 1 6 en rfl rfl
  rw [decodeWord_06 f26_6, decodeSlogic, f0_2, f2_8, f10_8, f18_8]; rfl

theorem Encoding.sxor (d : BitVec 8) (a : BitVec 8) (b : BitVec 8) : Encoding.Statement (.sxor d a b) := by
  intro w' wf en
  obtain ⟨f0_2, f2_8, f10_8, f18_8, f26_6⟩ := layout7 d a b 2 6 en rfl rfl
  rw [decodeWord_06 f26_6, decodeSlogic, f0_2, f2_8, f10_8, f18_8]; rfl

theorem Encoding.sandn (d : BitVec 8) (a : BitVec 8) (b : BitVec 8) : Encoding.Statement (.sandn d a b) := by
  intro w' wf en
  obtain ⟨f0_2, f2_8, f10_8, f18_8, f26_6⟩ := layout7 d a b 3 6 en rfl rfl
  rw [decodeWord_06 f26_6, decodeSlogic, f0_2, f2_8, f10_8, f18_8]; rfl

theorem Encoding.sshl (d : BitVec 8) (a : BitVec 8) (b : BitVec 8) : Encoding.Statement (.sshl d a b) := by
  intro w' wf en
  obtain ⟨f0_2, f2_8, f10_8, f18_8, f26_6⟩ := layout7 d a b 0 7 en rfl rfl
  rw [decodeWord_07 f26_6, decodeSshift, f0_2, f2_8, f10_8, f18_8]; rfl

theorem Encoding.sshr (d : BitVec 8) (a : BitVec 8) (b : BitVec 8) : Encoding.Statement (.sshr d a b) := by
  intro w' wf en
  obtain ⟨f0_2, f2_8, f10_8, f18_8, f26_6⟩ := layout7 d a b 1 7 en rfl rfl
  rw [decodeWord_07 f26_6, decodeSshift, f0_2, f2_8, f10_8, f18_8]; rfl

theorem Encoding.sasr (d : BitVec 8) (a : BitVec 8) (b : BitVec 8) : Encoding.Statement (.sasr d a b) := by
  intro w' wf en
  obtain ⟨f0_2, f2_8, f10_8, f18_8, f26_6⟩ := layout7 d a b 2 7 en rfl rfl
  rw [decodeWord_07 f26_6, decodeSshift, f0_2, f2_8, f10_8, f18_8]; rfl

theorem Encoding.srot (d : BitVec 8) (a : BitVec 8) (b : BitVec 8) : Encoding.Statement (.srot d a b) := by
  intro w' wf en
  obtain ⟨f0_2, f2_8, f10_8, f18_8, f26_6⟩ := layout7 d a b 3 7 en rfl rfl
  rw [decodeWord_07 f26_6, decodeSshift, f0_2, f2_8, f10_8, f18_8]; rfl

theorem Encoding.seq (d : BitVec 8) (a : BitVec 8) (b : BitVec 8) : Encoding.Statement (.seq d a b) := by
  intro w' wf en
  obtain ⟨f0_2, f2_8, f10_8, f18_8, f26_6⟩ := layout7 d a b 0 8 en rfl rfl
  rw [decodeWord_08 f26_6, decodeScmp, f0_2, f2_8, f10_8, f18_8]; rfl

theorem Encoding.slt (d : BitVec 8) (a : BitVec 8) (b : BitVec 8) : Encoding.Statement (.slt d a b) := by
  intro w' wf en
  obtain ⟨f0_2, f2_8, f10_8, f18_8, f26_6⟩ := layout7 d a b 1 8 en rfl rfl
  rw [decodeWord_08 f26_6, decodeScmp, f0_2, f2_8, f10_8, f18_8]; rfl

theorem Encoding.sle (d : BitVec 8) (a : BitVec 8) (b : BitVec 8) : Encoding.Statement (.sle d a b) := by
  intro w' wf en
  obtain ⟨f0_2, f2_8, f10_8, f18_8, f26_6⟩ := layout7 d a b 2 8 en rfl rfl
  rw [decodeWord_08 f26_6, decodeScmp, f0_2, f2_8, f10_8, f18_8]; rfl

theorem Encoding.sne (d : BitVec 8) (a : BitVec 8) (b : BitVec 8) : Encoding.Statement (.sne d a b) := by
  intro w' wf en
  obtain ⟨f0_2, f2_8, f10_8, f18_8, f26_6⟩ := layout7 d a b 3 8 en rfl rfl
  rw [decodeWord_08 f26_6, decodeScmp, f0_2, f2_8, f10_8, f18_8]; rfl

theorem Encoding.smin (d : BitVec 8) (a : BitVec 8) (b : BitVec 8) : Encoding.Statement (.smin d a b) := by
  intro w' wf en
  obtain ⟨f0_2, f2_8, f10_8, f18_8, f26_6⟩ := layout7 d a b 0 9 en rfl rfl
  rw [decodeWord_09 f26_6, decodeSdiv, f0_2, f2_8, f10_8, f18_8]; rfl

theorem Encoding.smax (d : BitVec 8) (a : BitVec 8) (b : BitVec 8) : Encoding.Statement (.smax d a b) := by
  intro w' wf en
  obtain ⟨f0_2, f2_8, f10_8, f18_8, f26_6⟩ := layout7 d a b 1 9 en rfl rfl
  rw [decodeWord_09 f26_6, decodeSdiv, f0_2, f2_8, f10_8, f18_8]; rfl

theorem Encoding.sdiv (d : BitVec 8) (a : BitVec 8) (b : BitVec 8) : Encoding.Statement (.sdiv d a b) := by
  intro w' wf en
  obtain ⟨f0_2, f2_8, f10_8, f18_8, f26_6⟩ := layout7 d a b 2 9 en rfl rfl
  rw [decodeWord_09 f26_6, decodeSdiv, f0_2, f2_8, f10_8, f18_8]; rfl

theorem Encoding.srem (d : BitVec 8) (a : BitVec 8) (b : BitVec 8) : Encoding.Statement (.srem d a b) := by
  intro w' wf en
  obtain ⟨f0_2, f2_8, f10_8, f18_8, f26_6⟩ := layout7 d a b 3 9 en rfl rfl
  rw [decodeWord_09 f26_6, decodeSdiv, f0_2, f2_8, f10_8, f18_8]; rfl

theorem Encoding.smov (d : BitVec 8) (a : BitVec 8) : Encoding.Statement (.smov d a) := by
  intro w' wf en
  obtain ⟨f0_2, f2_8, f10_8, f18_8, f26_6⟩ := layout8 d a 0 0 10 en rfl rfl
  rw [decodeWord_0a f26_6, decodeSunary, f0_2, f2_8, f10_8, f18_8]; rfl

theorem Encoding.snot (d : BitVec 8) (a : BitVec 8) : Encoding.Statement (.snot d a) := by
  intro w' wf en
  obtain ⟨f0_2, f2_8, f10_8, f18_8, f26_6⟩ := layout8 d a 0 1 10 en rfl rfl
  rw [decodeWord_0a f26_6, decodeSunary, f0_2, f2_8, f10_8, f18_8]; rfl

theorem Encoding.sneg (d : BitVec 8) (a : BitVec 8) : Encoding.Statement (.sneg d a) := by
  intro w' wf en
  obtain ⟨f0_2, f2_8, f10_8, f18_8, f26_6⟩ := layout8 d a 0 2 10 en rfl rfl
  rw [decodeWord_0a f26_6, decodeSunary, f0_2, f2_8, f10_8, f18_8]; rfl

theorem Encoding.sclz (d : BitVec 8) (a : BitVec 8) : Encoding.Statement (.sclz d a) := by
  intro w' wf en
  obtain ⟨f0_2, f2_8, f10_8, f18_8, f26_6⟩ := layout8 d a 0 4 10 en rfl rfl
  rw [decodeWord_0a f26_6, decodeSunary, f0_2, f2_8, f10_8, f18_8]; rfl

theorem Encoding.spopc (d : BitVec 8) (a : BitVec 8) : Encoding.Statement (.spopc d a) := by
  intro w' wf en
  obtain ⟨f0_2, f2_8, f10_8, f18_8, f26_6⟩ := layout8 d a 0 5 10 en rfl rfl
  rw [decodeWord_0a f26_6, decodeSunary, f0_2, f2_8, f10_8, f18_8]; rfl

theorem Encoding.sbrev (d : BitVec 8) (a : BitVec 8) : Encoding.Statement (.sbrev d a) := by
  intro w' wf en
  obtain ⟨f0_2, f2_8, f10_8, f18_8, f26_6⟩ := layout8 d a 0 6 10 en rfl rfl
  rw [decodeWord_0a f26_6, decodeSunary, f0_2, f2_8, f10_8, f18_8]; rfl

theorem Encoding.vadd (d : BitVec 8) (a : BitVec 8) (b : BitVec 8) : Encoding.Statement (.vadd d a b) := by
  intro w' wf en
  obtain ⟨f0_2, f2_8, f10_8, f18_8, f26_6⟩ := layout7 d a b 0 11 en rfl rfl
  rw [decodeWord_0b f26_6, decodeVarith, f0_2, f2_8, f10_8, f18_8]; rfl

theorem Encoding.vsub (d : BitVec 8) (a : BitVec 8) (b : BitVec 8) : Encoding.Statement (.vsub d a b) := by
  intro w' wf en
  obtain ⟨f0_2, f2_8, f10_8, f18_8, f26_6⟩ := layout7 d a b 1 11 en rfl rfl
  rw [decodeWord_0b f26_6, decodeVarith, f0_2, f2_8, f10_8, f18_8]; rfl

theorem Encoding.vmul (d : BitVec 8) (a : BitVec 8) (b : BitVec 8) : Encoding.Statement (.vmul d a b) := by
  intro w' wf en
  obtain ⟨f0_2, f2_8, f10_8, f18_8, f26_6⟩ := layout7 d a b 2 11 en rfl rfl
  rw [decodeWord_0b f26_6, decodeVarith, f0_2, f2_8, f10_8, f18_8]; rfl

theorem Encoding.vmulh (d : BitVec 8) (a : BitVec 8) (b : BitVec 8) : Encoding.Statement (.vmulh d a b) := by
  intro w' wf en
  obtain ⟨f0_2, f2_8, f10_8, f18_8, f26_6⟩ := layout7 d a b 3 11 en rfl rfl
  rw [decodeWord_0b f26_6, decodeVarith, f0_2, f2_8, f10_8, f18_8]; rfl

theorem Encoding.vand (d : BitVec 8) (a : BitVec 8) (b : BitVec 8) : Encoding.Statement (.vand d a b) := by
  intro w' wf en
  obtain ⟨f0_2, f2_8, f10_8, f18_8, f26_6⟩ := layout7 d a b 0 12 en rfl rfl
  rw [decodeWord_0c f26_6, decodeVlogic, f0_2, f2_8, f10_8, f18_8]; rfl

theorem Encoding.vor (d : BitVec 8) (a : BitVec 8) (b : BitVec 8) : Encoding.Statement (.vor d a b) := by
  intro w' wf en
  obtain ⟨f0_2, f2_8, f10_8, f18_8, f26_6⟩ := layout7 d a b 1 12 en rfl rfl
  rw [decodeWord_0c f26_6, decodeVlogic, f0_2, f2_8, f10_8, f18_8]; rfl

theorem Encoding.vxor (d : BitVec 8) (a : BitVec 8) (b : BitVec 8) : Encoding.Statement (.vxor d a b) := by
  intro w' wf en
  obtain ⟨f0_2, f2_8, f10_8, f18_8, f26_6⟩ := layout7 d a b 2 12 en rfl rfl
  rw [decodeWord_0c f26_6, decodeVlogic, f0_2, f2_8, f10_8, f18_8]; rfl

theorem Encoding.vandn (d : BitVec 8) (a : BitVec 8) (b : BitVec 8) : Encoding.Statement (.vandn d a b) := by
  intro w' wf en
  obtain ⟨f0_2, f2_8, f10_8, f18_8, f26_6⟩ := layout7 d a b 3 12 en rfl rfl
  rw [decodeWord_0c f26_6, decodeVlogic, f0_2, f2_8, f10_8, f18_8]; rfl

theorem Encoding.vshl (d : BitVec 8) (a : BitVec 8) (b : BitVec 8) : Encoding.Statement (.vshl d a b) := by
  intro w' wf en
  obtain ⟨f0_2, f2_8, f10_8, f18_8, f26_6⟩ := layout7 d a b 0 13 en rfl rfl
  rw [decodeWord_0d f26_6, decodeVshift, f0_2, f2_8, f10_8, f18_8]; rfl

theorem Encoding.vshr (d : BitVec 8) (a : BitVec 8) (b : BitVec 8) : Encoding.Statement (.vshr d a b) := by
  intro w' wf en
  obtain ⟨f0_2, f2_8, f10_8, f18_8, f26_6⟩ := layout7 d a b 1 13 en rfl rfl
  rw [decodeWord_0d f26_6, decodeVshift, f0_2, f2_8, f10_8, f18_8]; rfl

theorem Encoding.vasr (d : BitVec 8) (a : BitVec 8) (b : BitVec 8) : Encoding.Statement (.vasr d a b) := by
  intro w' wf en
  obtain ⟨f0_2, f2_8, f10_8, f18_8, f26_6⟩ := layout7 d a b 2 13 en rfl rfl
  rw [decodeWord_0d f26_6, decodeVshift, f0_2, f2_8, f10_8, f18_8]; rfl

theorem Encoding.vrot (d : BitVec 8) (a : BitVec 8) (b : BitVec 8) : Encoding.Statement (.vrot d a b) := by
  intro w' wf en
  obtain ⟨f0_2, f2_8, f10_8, f18_8, f26_6⟩ := layout7 d a b 3 13 en rfl rfl
  rw [decodeWord_0d f26_6, decodeVshift, f0_2, f2_8, f10_8, f18_8]; rfl

theorem Encoding.vmin (d : BitVec 8) (a : BitVec 8) (b : BitVec 8) : Encoding.Statement (.vmin d a b) := by
  intro w' wf en
  obtain ⟨f0_2, f2_8, f10_8, f18_8, f26_6⟩ := layout7 d a b 0 14 en rfl rfl
  rw [decodeWord_0e f26_6, decodeVminmax, f0_2, f2_8, f10_8, f18_8]; rfl

theorem Encoding.vmax (d : BitVec 8) (a : BitVec 8) (b : BitVec 8) : Encoding.Statement (.vmax d a b) := by
  intro w' wf en
  obtain ⟨f0_2, f2_8, f10_8, f18_8, f26_6⟩ := layout7 d a b 1 14 en rfl rfl
  rw [decodeWord_0e f26_6, decodeVminmax, f0_2, f2_8, f10_8, f18_8]; rfl

theorem Encoding.vabsd (d : BitVec 8) (a : BitVec 8) (b : BitVec 8) : Encoding.Statement (.vabsd d a b) := by
  intro w' wf en
  obtain ⟨f0_2, f2_8, f10_8, f18_8, f26_6⟩ := layout7 d a b 2 14 en rfl rfl
  rw [decodeWord_0e f26_6, decodeVminmax, f0_2, f2_8, f10_8, f18_8]; rfl

theorem Encoding.vmadi (d : BitVec 8) (a : BitVec 8) (b : BitVec 8) : Encoding.Statement (.vmadi d a b) := by
  intro w' wf en
  obtain ⟨f0_2, f2_8, f10_8, f18_8, f26_6⟩ := layout7 d a b 3 14 en rfl rfl
  rw [decodeWord_0e f26_6, decodeVminmax, f0_2, f2_8, f10_8, f18_8]; rfl

theorem Encoding.vcmpEq (d : BitVec 4) (a : BitVec 8) (b : BitVec 8) : Encoding.Statement (.vcmpEq d a b) := by
  intro w' wf en
  obtain ⟨f0_2, f2_8, f10_8, f18_4, f22_4, f26_6⟩ := layout9 d a b 0 0 15 en rfl rfl
  rw [decodeWord_0f f26_6, decodeVcmp, f0_2, f2_8, f10_8, f18_4, f22_4]; rfl

theorem Encoding.vcmpLt (d : BitVec 4) (a : BitVec 8) (b : BitVec 8) : Encoding.Statement (.vcmpLt d a b) := by
  intro w' wf en
  obtain ⟨f0_2, f2_8, f10_8, f18_4, f22_4, f26_6⟩ := layout9 d a b 1 0 15 en rfl rfl
  rw [decodeWord_0f f26_6, decodeVcmp, f0_2, f2_8, f10_8, f18_4, f22_4]; rfl

theorem Encoding.vcmpLe (d : BitVec 4) (a : BitVec 8) (b : BitVec 8) : Encoding.Statement (.vcmpLe d a b) := by
  intro w' wf en
  obtain ⟨f0_2, f2_8, f10_8, f18_4, f22_4, f26_6⟩ := layout9 d a b 2 0 15 en rfl rfl
  rw [decodeWord_0f f26_6, decodeVcmp, f0_2, f2_8, f10_8, f18_4, f22_4]; rfl

theorem Encoding.vcmpNe (d : BitVec 4) (a : BitVec 8) (b : BitVec 8) : Encoding.Statement (.vcmpNe d a b) := by
  intro w' wf en
  obtain ⟨f0_2, f2_8, f10_8, f18_4, f22_4, f26_6⟩ := layout9 d a b 3 0 15 en rfl rfl
  rw [decodeWord_0f f26_6, decodeVcmp, f0_2, f2_8, f10_8, f18_4, f22_4]; rfl

theorem Encoding.vmov (d : BitVec 8) (a : BitVec 8) : Encoding.Statement (.vmov d a) := by
  intro w' wf en
  obtain ⟨f0_2, f2_8, f10_8, f18_8, f26_6⟩ := layout8 d a 0 0 16 en rfl rfl
  rw [decodeWord_10 f26_6, decodeVunary, f0_2, f2_8, f10_8, f18_8]; rfl

theorem Encoding.vnot (d : BitVec 8) (a : BitVec 8) : Encoding.Statement (.vnot d a) := by
  intro w' wf en
  obtain ⟨f0_2, f2_8, f10_8, f18_8, f26_6⟩ := layout8 d a 0 1 16 en rfl rfl
  rw [decodeWord_10 f26_6, decodeVunary, f0_2, f2_8, f10_8, f18_8]; rfl

theorem Encoding.vneg (d : BitVec 8) (a : BitVec 8) : Encoding.Statement (.vneg d a) := by
  intro w' wf en
  obtain ⟨f0_2, f2_8, f10_8, f18_8, f26_6⟩ := layout8 d a 0 2 16 en rfl rfl
  rw [decodeWord_10 f26_6, decodeVunary, f0_2, f2_8, f10_8, f18_8]; rfl

theorem Encoding.vabs (d : BitVec 8) (a : BitVec 8) : Encoding.Statement (.vabs d a) := by
  intro w' wf en
  obtain ⟨f0_2, f2_8, f10_8, f18_8, f26_6⟩ := layout8 d a 0 3 16 en rfl rfl
  rw [decodeWord_10 f26_6, decodeVunary, f0_2, f2_8, f10_8, f18_8]; rfl

theorem Encoding.vclz (d : BitVec 8) (a : BitVec 8) : Encoding.Statement (.vclz d a) := by
  intro w' wf en
  obtain ⟨f0_2, f2_8, f10_8, f18_8, f26_6⟩ := layout8 d a 0 4 16 en rfl rfl
  rw [decodeWord_10 f26_6, decodeVunary, f0_2, f2_8, f10_8, f18_8]; rfl

theorem Encoding.vpopc (d : BitVec 8) (a : BitVec 8) : Encoding.Statement (.vpopc d a) := by
  intro w' wf en
  obtain ⟨f0_2, f2_8, f10_8, f18_8, f26_6⟩ := layout8 d a 0 5 16 en rfl rfl
  rw [decodeWord_10 f26_6, decodeVunary, f0_2, f2_8, f10_8, f18_8]; rfl

theorem Encoding.vbrev (d : BitVec 8) (a : BitVec 8) : Encoding.Statement (.vbrev d a) := by
  intro w' wf en
  obtain ⟨f0_2, f2_8, f10_8, f18_8, f26_6⟩ := layout8 d a 0 6 16 en rfl rfl
  rw [decodeWord_10 f26_6, decodeVunary, f0_2, f2_8, f10_8, f18_8]; rfl

theorem Encoding.vfneg (d : BitVec 8) (a : BitVec 8) : Encoding.Statement (.vfneg d a) := by
  intro w' wf en
  obtain ⟨f0_2, f2_8, f10_8, f18_8, f26_6⟩ := layout8 d a 0 8 16 en rfl rfl
  rw [decodeWord_10 f26_6, decodeVunary, f0_2, f2_8, f10_8, f18_8]; rfl

theorem Encoding.vfabs (d : BitVec 8) (a : BitVec 8) : Encoding.Statement (.vfabs d a) := by
  intro w' wf en
  obtain ⟨f0_2, f2_8, f10_8, f18_8, f26_6⟩ := layout8 d a 0 9 16 en rfl rfl
  rw [decodeWord_10 f26_6, decodeVunary, f0_2, f2_8, f10_8, f18_8]; rfl

theorem Encoding.vrcp (d : BitVec 8) (a : BitVec 8) : Encoding.Statement (.vrcp d a) := by
  intro w' wf en
  obtain ⟨f0_2, f2_8, f10_8, f18_8, f26_6⟩ := layout8 d a 0 10 16 en rfl rfl
  rw [decodeWord_10 f26_6, decodeVunary, f0_2, f2_8, f10_8, f18_8]; rfl

theorem Encoding.vrsqrt (d : BitVec 8) (a : BitVec 8) : Encoding.Statement (.vrsqrt d a) := by
  intro w' wf en
  obtain ⟨f0_2, f2_8, f10_8, f18_8, f26_6⟩ := layout8 d a 0 11 16 en rfl rfl
  rw [decodeWord_10 f26_6, decodeVunary, f0_2, f2_8, f10_8, f18_8]; rfl

theorem Encoding.vsqrt (d : BitVec 8) (a : BitVec 8) : Encoding.Statement (.vsqrt d a) := by
  intro w' wf en
  obtain ⟨f0_2, f2_8, f10_8, f18_8, f26_6⟩ := layout8 d a 0 12 16 en rfl rfl
  rw [decodeWord_10 f26_6, decodeVunary, f0_2, f2_8, f10_8, f18_8]; rfl

theorem Encoding.vexp2 (d : BitVec 8) (a : BitVec 8) : Encoding.Statement (.vexp2 d a) := by
  intro w' wf en
  obtain ⟨f0_2, f2_8, f10_8, f18_8, f26_6⟩ := layout8 d a 0 13 16 en rfl rfl
  rw [decodeWord_10 f26_6, decodeVunary, f0_2, f2_8, f10_8, f18_8]; rfl

theorem Encoding.vlog2 (d : BitVec 8) (a : BitVec 8) : Encoding.Statement (.vlog2 d a) := by
  intro w' wf en
  obtain ⟨f0_2, f2_8, f10_8, f18_8, f26_6⟩ := layout8 d a 0 14 16 en rfl rfl
  rw [decodeWord_10 f26_6, decodeVunary, f0_2, f2_8, f10_8, f18_8]; rfl

theorem Encoding.vsin (d : BitVec 8) (a : BitVec 8) : Encoding.Statement (.vsin d a) := by
  intro w' wf en
  obtain ⟨f0_2, f2_8, f10_8, f18_8, f26_6⟩ := layout8 d a 0 15 16 en rfl rfl
  rw [decodeWord_10 f26_6, decodeVunary, f0_2, f2_8, f10_8, f18_8]; rfl

theorem Encoding.vcos (d : BitVec 8) (a : BitVec 8) : Encoding.Statement (.vcos d a) := by
  intro w' wf en
  obtain ⟨f0_2, f2_8, f10_8, f18_8, f26_6⟩ := layout8 d a 0 16 16 en rfl rfl
  rw [decodeWord_10 f26_6, decodeVunary, f0_2, f2_8, f10_8, f18_8]; rfl

theorem Encoding.vtanh (d : BitVec 8) (a : BitVec 8) : Encoding.Statement (.vtanh d a) := by
  intro w' wf en
  obtain ⟨f0_2, f2_8, f10_8, f18_8, f26_6⟩ := layout8 d a 0 17 16 en rfl rfl
  rw [decodeWord_10 f26_6, decodeVunary, f0_2, f2_8, f10_8, f18_8]; rfl

theorem Encoding.vfadd (d : BitVec 8) (a : BitVec 8) (b : BitVec 8) : Encoding.Statement (.vfadd d a b) := by
  intro w' wf en
  obtain ⟨f0_2, f2_8, f10_8, f18_8, f26_6⟩ := layout7 d a b 0 17 en rfl rfl
  rw [decodeWord_11 f26_6, decodeVfarith, f0_2, f2_8, f10_8, f18_8]; rfl

theorem Encoding.vfsub (d : BitVec 8) (a : BitVec 8) (b : BitVec 8) : Encoding.Statement (.vfsub d a b) := by
  intro w' wf en
  obtain ⟨f0_2, f2_8, f10_8, f18_8, f26_6⟩ := layout7 d a b 1 17 en rfl rfl
  rw [decodeWord_11 f26_6, decodeVfarith, f0_2, f2_8, f10_8, f18_8]; rfl

theorem Encoding.vfmul (d : BitVec 8) (a : BitVec 8) (b : BitVec 8) : Encoding.Statement (.vfmul d a b) := by
  intro w' wf en
  obtain ⟨f0_2, f2_8, f10_8, f18_8, f26_6⟩ := layout7 d a b 2 17 en rfl rfl
  rw [decodeWord_11 f26_6, decodeVfarith, f0_2, f2_8, f10_8, f18_8]; rfl

theorem Encoding.vfmin (d : BitVec 8) (a : BitVec 8) (b : BitVec 8) : Encoding.Statement (.vfmin d a b) := by
  intro w' wf en
  obtain ⟨f0_2, f2_8, f10_8, f18_8, f26_6⟩ := layout7 d a b 3 17 en rfl rfl
  rw [decodeWord_11 f26_6, decodeVfarith, f0_2, f2_8, f10_8, f18_8]; rfl

theorem Encoding.vfmad (d : BitVec 8) (a : BitVec 8) (b : BitVec 8) : Encoding.Statement (.vfmad d a b) := by
  intro w' wf en
  obtain ⟨f0_2, f2_8, f10_8, f18_8, f26_6⟩ := layout7 d a b 0 18 en rfl rfl
  rw [decodeWord_12 f26_6, decodeVffma, f0_2, f2_8, f10_8, f18_8]; rfl

theorem Encoding.vfmac (d : BitVec 8) (a : BitVec 8) (b : BitVec 8) : Encoding.Statement (.vfmac d a b) := by
  intro w' wf en
  obtain ⟨f0_2, f2_8, f10_8, f18_8, f26_6⟩ := layout7 d a b 1 18 en rfl rfl
  rw [decodeWord_12 f26_6, decodeVffma, f0_2, f2_8, f10_8, f18_8]; rfl

theorem Encoding.vfnmac (d : BitVec 8) (a : BitVec 8) (b : BitVec 8) : Encoding.Statement (.vfnmac d a b) := by
  intro w' wf en
  obtain ⟨f0_2, f2_8, f10_8, f18_8, f26_6⟩ := layout7 d a b 2 18 en rfl rfl
  rw [decodeWord_12 f26_6, decodeVffma, f0_2, f2_8, f10_8, f18_8]; rfl

theorem Encoding.vfmax (d : BitVec 8) (a : BitVec 8) (b : BitVec 8) : Encoding.Statement (.vfmax d a b) := by
  intro w' wf en
  obtain ⟨f0_2, f2_8, f10_8, f18_8, f26_6⟩ := layout7 d a b 3 18 en rfl rfl
  rw [decodeWord_12 f26_6, decodeVffma, f0_2, f2_8, f10_8, f18_8]; rfl

theorem Encoding.vcvt (d : BitVec 8) (a : BitVec 8) (t : BitVec 4) (s : BitVec 4) : Encoding.Statement (.vcvt d a t s) := by
  intro w' wf en
  obtain ⟨f0_2, f2_4, f6_4, f10_8, f18_8, f26_6⟩ := layout10 d a t s 0 19 en rfl rfl
  rw [decodeWord_13 f26_6, decodeVcvt, f0_2, f2_4, f6_4, f10_8, f18_8]; rfl

theorem Encoding.vmxscale (d : BitVec 8) (a : BitVec 8) : Encoding.Statement (.vmxscale d a) := by
  intro w' wf en
  obtain ⟨f0_2, f2_8, f10_8, f18_8, f26_6⟩ := layout8 d a 1 0 19 en rfl rfl
  rw [decodeWord_13 f26_6, decodeVcvt, f0_2, f2_8, f10_8, f18_8]; rfl

theorem Encoding.vmxq (d : BitVec 8) (a : BitVec 8) (b : BitVec 8) : Encoding.Statement (.vmxq d a b) := by
  intro w' wf en
  obtain ⟨f0_2, f2_8, f10_8, f18_8, f26_6⟩ := layout7 d a b 2 19 en rfl rfl
  rw [decodeWord_13 f26_6, decodeVcvt, f0_2, f2_8, f10_8, f18_8]; rfl

theorem Encoding.vmxdq (d : BitVec 8) (a : BitVec 8) (b : BitVec 8) : Encoding.Statement (.vmxdq d a b) := by
  intro w' wf en
  obtain ⟨f0_2, f2_8, f10_8, f18_8, f26_6⟩ := layout7 d a b 3 19 en rfl rfl
  rw [decodeWord_13 f26_6, decodeVcvt, f0_2, f2_8, f10_8, f18_8]; rfl

theorem Encoding.vshflIdx (d : BitVec 8) (a : BitVec 8) (b : BitVec 8) : Encoding.Statement (.vshflIdx d a b) := by
  intro w' wf en
  obtain ⟨f0_2, f2_8, f10_8, f18_8, f26_6⟩ := layout7 d a b 0 20 en rfl rfl
  rw [decodeWord_14 f26_6, decodeVshfl, f0_2, f2_8, f10_8, f18_8]; rfl

theorem Encoding.vshflUp (d : BitVec 8) (a : BitVec 8) (b : BitVec 8) : Encoding.Statement (.vshflUp d a b) := by
  intro w' wf en
  obtain ⟨f0_2, f2_8, f10_8, f18_8, f26_6⟩ := layout7 d a b 1 20 en rfl rfl
  rw [decodeWord_14 f26_6, decodeVshfl, f0_2, f2_8, f10_8, f18_8]; rfl

theorem Encoding.vshflDown (d : BitVec 8) (a : BitVec 8) (b : BitVec 8) : Encoding.Statement (.vshflDown d a b) := by
  intro w' wf en
  obtain ⟨f0_2, f2_8, f10_8, f18_8, f26_6⟩ := layout7 d a b 2 20 en rfl rfl
  rw [decodeWord_14 f26_6, decodeVshfl, f0_2, f2_8, f10_8, f18_8]; rfl

theorem Encoding.vshflXor (d : BitVec 8) (a : BitVec 8) (b : BitVec 8) : Encoding.Statement (.vshflXor d a b) := by
  intro w' wf en
  obtain ⟨f0_2, f2_8, f10_8, f18_8, f26_6⟩ := layout7 d a b 3 20 en rfl rfl
  rw [decodeWord_14 f26_6, decodeVshfl, f0_2, f2_8, f10_8, f18_8]; rfl

theorem Encoding.vbcast (d : BitVec 8) (a : BitVec 8) (k : BitVec 8) : Encoding.Statement (.vbcast d a k) := by
  intro w' wf en
  have k6 : k.extractLsb' 6 2 = 0#2 := topBits (of_decide_eq_true (p := k.toNat < 64) wf)
  obtain ⟨f0_2, f2_8, f10_8, f18_8, f26_6⟩ := layout7 d a k 0 21 en rfl rfl
  rw [decodeWord_15 f26_6, decodeVxfer, sub82 f2_8 k6, f0_2, f2_8, f10_8, f18_8]; rfl

theorem Encoding.vs2v (d : BitVec 8) (a : BitVec 8) : Encoding.Statement (.vs2v d a) := by
  intro w' wf en
  obtain ⟨f0_2, f2_8, f10_8, f18_8, f26_6⟩ := layout8 d a 1 0 21 en rfl rfl
  rw [decodeWord_15 f26_6, decodeVxfer, f0_2, f2_8, f10_8, f18_8]; rfl

theorem Encoding.v2s (d : BitVec 8) (a : BitVec 8) (k : BitVec 8) : Encoding.Statement (.v2s d a k) := by
  intro w' wf en
  have k6 : k.extractLsb' 6 2 = 0#2 := topBits (of_decide_eq_true (p := k.toNat < 64) wf)
  obtain ⟨f0_2, f2_8, f10_8, f18_8, f26_6⟩ := layout7 d a k 2 21 en rfl rfl
  rw [decodeWord_15 f26_6, decodeVxfer, sub82 f2_8 k6, f0_2, f2_8, f10_8, f18_8]; rfl

theorem Encoding.voteAny (d : BitVec 4) (a : BitVec 4) : Encoding.Statement (.voteAny d a) := by
  intro w' wf en
  obtain ⟨f0_2, f2_8, f10_4, f14_4, f18_4, f22_4, f26_6⟩ := layout11 d a 0 0 0 0 22 en rfl rfl
  rw [decodeWord_16 f26_6, decodeVote, f0_2, f2_8, f10_4, f14_4, f18_4, f22_4]; rfl

theorem Encoding.voteAll (d : BitVec 4) (a : BitVec 4) : Encoding.Statement (.voteAll d a) := by
  intro w' wf en
  obtain ⟨f0_2, f2_8, f10_4, f14_4, f18_4, f22_4, f26_6⟩ := layout11 d a 1 0 0 0 22 en rfl rfl
  rw [decodeWord_16 f26_6, decodeVote, f0_2, f2_8, f10_4, f14_4, f18_4, f22_4]; rfl

theorem Encoding.voteBallot (d : BitVec 8) (a : BitVec 4) : Encoding.Statement (.voteBallot d a) := by
  intro w' wf en
  obtain ⟨f0_2, f2_8, f10_4, f14_4, f18_8, f26_6⟩ := layout12 d a 2 0 0 22 en rfl rfl
  rw [decodeWord_16 f26_6, decodeVote, f0_2, f2_8, f10_4, f14_4, f18_8]; rfl

theorem Encoding.voteUni (d : BitVec 4) (a : BitVec 8) : Encoding.Statement (.voteUni d a) := by
  intro w' wf en
  obtain ⟨f0_2, f2_8, f10_8, f18_4, f22_4, f26_6⟩ := layout13 d a 3 0 0 22 en rfl rfl
  rw [decodeWord_16 f26_6, decodeVote, f0_2, f2_8, f10_8, f18_4, f22_4]; rfl

theorem Encoding.vscanAdd (d : BitVec 8) (a : BitVec 8) : Encoding.Statement (.vscanAdd d a) := by
  intro w' wf en
  obtain ⟨f0_2, f2_8, f10_8, f18_8, f26_6⟩ := layout8 d a 0 0 23 en rfl rfl
  rw [decodeWord_17 f26_6, decodeVscan, f0_2, f2_8, f10_8, f18_8]; rfl

theorem Encoding.vscanMin (d : BitVec 8) (a : BitVec 8) : Encoding.Statement (.vscanMin d a) := by
  intro w' wf en
  obtain ⟨f0_2, f2_8, f10_8, f18_8, f26_6⟩ := layout8 d a 1 0 23 en rfl rfl
  rw [decodeWord_17 f26_6, decodeVscan, f0_2, f2_8, f10_8, f18_8]; rfl

theorem Encoding.vscanMax (d : BitVec 8) (a : BitVec 8) : Encoding.Statement (.vscanMax d a) := by
  intro w' wf en
  obtain ⟨f0_2, f2_8, f10_8, f18_8, f26_6⟩ := layout8 d a 2 0 23 en rfl rfl
  rw [decodeWord_17 f26_6, decodeVscan, f0_2, f2_8, f10_8, f18_8]; rfl

theorem Encoding.vscanOr (d : BitVec 8) (a : BitVec 8) : Encoding.Statement (.vscanOr d a) := by
  intro w' wf en
  obtain ⟨f0_2, f2_8, f10_8, f18_8, f26_6⟩ := layout8 d a 3 0 23 en rfl rfl
  rw [decodeWord_17 f26_6, decodeVscan, f0_2, f2_8, f10_8, f18_8]; rfl

theorem Encoding.vreduceAdd (d : BitVec 8) (a : BitVec 8) : Encoding.Statement (.vreduceAdd d a) := by
  intro w' wf en
  obtain ⟨f0_2, f2_8, f10_8, f18_8, f26_6⟩ := layout8 d a 0 0 24 en rfl rfl
  rw [decodeWord_18 f26_6, decodeVreduce, f0_2, f2_8, f10_8, f18_8]; rfl

theorem Encoding.vreduceMin (d : BitVec 8) (a : BitVec 8) : Encoding.Statement (.vreduceMin d a) := by
  intro w' wf en
  obtain ⟨f0_2, f2_8, f10_8, f18_8, f26_6⟩ := layout8 d a 1 0 24 en rfl rfl
  rw [decodeWord_18 f26_6, decodeVreduce, f0_2, f2_8, f10_8, f18_8]; rfl

theorem Encoding.vreduceMax (d : BitVec 8) (a : BitVec 8) : Encoding.Statement (.vreduceMax d a) := by
  intro w' wf en
  obtain ⟨f0_2, f2_8, f10_8, f18_8, f26_6⟩ := layout8 d a 2 0 24 en rfl rfl
  rw [decodeWord_18 f26_6, decodeVreduce, f0_2, f2_8, f10_8, f18_8]; rfl

theorem Encoding.vreduceOr (d : BitVec 8) (a : BitVec 8) : Encoding.Statement (.vreduceOr d a) := by
  intro w' wf en
  obtain ⟨f0_2, f2_8, f10_8, f18_8, f26_6⟩ := layout8 d a 3 0 24 en rfl rfl
  rw [decodeWord_18 f26_6, decodeVreduce, f0_2, f2_8, f10_8, f18_8]; rfl

theorem Encoding.mset (d : BitVec 4) (a : BitVec 8) : Encoding.Statement (.mset d a) := by
  intro w' wf en
  obtain ⟨f0_2, f2_8, f10_8, f18_4, f22_4, f26_6⟩ := layout13 d a 0 0 0 25 en rfl rfl
  rw [decodeWord_19 f26_6, decodeMaskOp, f0_2, f2_8, f10_8, f18_4, f22_4]; rfl

theorem Encoding.mget (d : BitVec 8) (a : BitVec 4) : Encoding.Statement (.mget d a) := by
  intro w' wf en
  obtain ⟨f0_2, f2_8, f10_4, f14_4, f18_8, f26_6⟩ := layout12 d a 1 0 0 25 en rfl rfl
  rw [decodeWord_19 f26_6, decodeMaskOp, f0_2, f2_8, f10_4, f14_4, f18_8]; rfl

theorem Encoding.msetx (a : BitVec 8) : Encoding.Statement (.msetx a) := by
  intro w' wf en
  obtain ⟨f0_2, f2_8, f10_8, f18_8, f26_6⟩ := layout14 a 2 0 0 25 en rfl rfl
  rw [decodeWord_19 f26_6, decodeMaskOp, f0_2, f2_8, f10_8, f18_8]; rfl

theorem Encoding.mgetx (d : BitVec 8) : Encoding.Statement (.mgetx d) := by
  intro w' wf en
  obtain ⟨f0_2, f2_16, f18_8, f26_6⟩ := layout15 d 3 0 25 en rfl rfl
  rw [decodeWord_19 f26_6, decodeMaskOp, f0_2, f2_16, f18_8]; rfl

theorem Encoding.pand (d : BitVec 4) (a : BitVec 4) (b : BitVec 4) : Encoding.Statement (.pand d a b) := by
  intro w' wf en
  obtain ⟨f0_2, f2_4, f6_4, f10_4, f14_4, f18_4, f22_4, f26_6⟩ := layout16 d a b 0 0 0 0 26 en rfl rfl
  rw [decodeWord_1a f26_6, decodePlogic, f0_2, f2_4, f6_4, f10_4, f14_4, f18_4, f22_4]; rfl

theorem Encoding.por (d : BitVec 4) (a : BitVec 4) (b : BitVec 4) : Encoding.Statement (.por d a b) := by
  intro w' wf en
  obtain ⟨f0_2, f2_4, f6_4, f10_4, f14_4, f18_4, f22_4, f26_6⟩ := layout16 d a b 1 0 0 0 26 en rfl rfl
  rw [decodeWord_1a f26_6, decodePlogic, f0_2, f2_4, f6_4, f10_4, f14_4, f18_4, f22_4]; rfl

theorem Encoding.pxor (d : BitVec 4) (a : BitVec 4) (b : BitVec 4) : Encoding.Statement (.pxor d a b) := by
  intro w' wf en
  obtain ⟨f0_2, f2_4, f6_4, f10_4, f14_4, f18_4, f22_4, f26_6⟩ := layout16 d a b 2 0 0 0 26 en rfl rfl
  rw [decodeWord_1a f26_6, decodePlogic, f0_2, f2_4, f6_4, f10_4, f14_4, f18_4, f22_4]; rfl

theorem Encoding.pandn (d : BitVec 4) (a : BitVec 4) (b : BitVec 4) : Encoding.Statement (.pandn d a b) := by
  intro w' wf en
  obtain ⟨f0_2, f2_4, f6_4, f10_4, f14_4, f18_4, f22_4, f26_6⟩ := layout16 d a b 3 0 0 0 26 en rfl rfl
  rw [decodeWord_1a f26_6, decodePlogic, f0_2, f2_4, f6_4, f10_4, f14_4, f18_4, f22_4]; rfl

theorem Encoding.reord (a : BitVec 8) (b : BitVec 8) : Encoding.Statement (.reord a b) := by
  intro w' wf en
  obtain ⟨f0_2, f2_8, f10_8, f18_8, f26_6⟩ := layout17 a b 0 0 27 en rfl rfl
  rw [decodeWord_1b f26_6, decodeReord, f0_2, f2_8, f10_8, f18_8]; rfl

theorem Encoding.ldv (d : BitVec 8) (i : BitVec 8) (h : BitVec 4) (w : BitVec 2) (g : BitVec 1) (s : BitVec 3) : Encoding.Statement (.ldv d i h w g s) := by
  intro w' wf en
  have wf := indexWf_iff wf
  obtain ⟨f0_3, f3_1, f4_2, f6_4, f10_8, f18_8, f26_6⟩ := layout18 d i h w g s 28 en rfl rfl
  rw [decodeWord_1c f26_6, decodeLdv, f0_3, f3_1, f4_2, f6_4, f10_8, f18_8]; exact if_neg wf

theorem Encoding.gather (d : BitVec 8) (i : BitVec 8) (h : BitVec 4) (w : BitVec 2) (g : BitVec 1) (s : BitVec 3) : Encoding.Statement (.gather d i h w g s) := by
  intro w' wf en
  have wf := indexWf_iff wf
  obtain ⟨f0_3, f3_1, f4_2, f6_4, f10_8, f18_8, f26_6⟩ := layout18 d i h w g s 29 en rfl rfl
  rw [decodeWord_1d f26_6, decodeGather, f0_3, f3_1, f4_2, f6_4, f10_8, f18_8]; exact if_neg wf

theorem Encoding.stv (d : BitVec 8) (i : BitVec 8) (h : BitVec 4) (w : BitVec 2) (g : BitVec 1) (s : BitVec 3) : Encoding.Statement (.stv d i h w g s) := by
  intro w' wf en
  have wf := indexWf_iff wf
  obtain ⟨f0_3, f3_1, f4_2, f6_4, f10_8, f18_8, f26_6⟩ := layout18 d i h w g s 30 en rfl rfl
  rw [decodeWord_1e f26_6, decodeStv, f0_3, f3_1, f4_2, f6_4, f10_8, f18_8]; exact if_neg wf

theorem Encoding.scatter (d : BitVec 8) (i : BitVec 8) (h : BitVec 4) (w : BitVec 2) (g : BitVec 1) (s : BitVec 3) : Encoding.Statement (.scatter d i h w g s) := by
  intro w' wf en
  have wf := indexWf_iff wf
  obtain ⟨f0_3, f3_1, f4_2, f6_4, f10_8, f18_8, f26_6⟩ := layout18 d i h w g s 31 en rfl rfl
  rw [decodeWord_1f f26_6, decodeScatter, f0_3, f3_1, f4_2, f6_4, f10_8, f18_8]; exact if_neg wf

theorem Encoding.ldc (d : BitVec 8) (i : BitVec 8) (w : BitVec 2) (g : BitVec 1) (s : BitVec 3) : Encoding.Statement (.ldc d i w g s) := by
  intro w' wf en
  have wf := indexWf_iff wf
  obtain ⟨f0_3, f3_1, f4_2, f6_4, f10_8, f18_8, f26_6⟩ := layout19 d i w g s 0 32 en rfl rfl
  rw [decodeWord_20 f26_6, decodeLdc, f0_3, f3_1, f4_2, f6_4, f10_8, f18_8]; exact if_neg wf

theorem Encoding.sld (d : BitVec 8) (i : BitVec 8) (h : BitVec 4) (w : BitVec 2) (g : BitVec 1) (s : BitVec 3) : Encoding.Statement (.sld d i h w g s) := by
  intro w' wf en
  have wf := indexWf_iff wf
  obtain ⟨f0_3, f3_1, f4_2, f6_4, f10_8, f18_8, f26_6⟩ := layout18 d i h w g s 33 en rfl rfl
  rw [decodeWord_21 f26_6, decodeSld, f0_3, f3_1, f4_2, f6_4, f10_8, f18_8]; exact if_neg wf

theorem Encoding.sst (d : BitVec 8) (i : BitVec 8) (h : BitVec 4) (w : BitVec 2) (g : BitVec 1) (s : BitVec 3) : Encoding.Statement (.sst d i h w g s) := by
  intro w' wf en
  have wf := indexWf_iff wf
  obtain ⟨f0_3, f3_1, f4_2, f6_4, f10_8, f18_8, f26_6⟩ := layout18 d i h w g s 34 en rfl rfl
  rw [decodeWord_22 f26_6, decodeSst, f0_3, f3_1, f4_2, f6_4, f10_8, f18_8]; exact if_neg wf

theorem Encoding.lda (d : BitVec 8) (i : BitVec 8) (h : BitVec 4) (w : BitVec 2) (g : BitVec 1) (s : BitVec 3) : Encoding.Statement (.lda d i h w g s) := by
  intro w' wf en
  have wf := indexWf_iff wf
  obtain ⟨f0_3, f3_1, f4_2, f6_4, f10_8, f18_8, f26_6⟩ := layout18 d i h w g s 35 en rfl rfl
  rw [decodeWord_23 f26_6, decodeLda, f0_3, f3_1, f4_2, f6_4, f10_8, f18_8]; exact if_neg wf

theorem Encoding.stl (d : BitVec 8) (i : BitVec 8) (h : BitVec 4) (w : BitVec 2) (g : BitVec 1) (s : BitVec 3) : Encoding.Statement (.stl d i h w g s) := by
  intro w' wf en
  have wf := indexWf_iff wf
  obtain ⟨f0_3, f3_1, f4_2, f6_4, f10_8, f18_8, f26_6⟩ := layout18 d i h w g s 36 en rfl rfl
  rw [decodeWord_24 f26_6, decodeStl, f0_3, f3_1, f4_2, f6_4, f10_8, f18_8]; exact if_neg wf

theorem Encoding.tld (d : BitVec 8) (i : BitVec 8) (h : BitVec 4) : Encoding.Statement (.tld d i h) := by
  intro w' wf en
  obtain ⟨f0_4, f4_2, f6_4, f10_8, f18_8, f26_6⟩ := layout20 d i h 0 0 37 en rfl rfl
  rw [decodeWord_25 f26_6, decodeTile, f0_4, f4_2, f6_4, f10_8, f18_8]; rfl

theorem Encoding.tst (d : BitVec 8) (i : BitVec 8) (h : BitVec 4) : Encoding.Statement (.tst d i h) := by
  intro w' wf en
  obtain ⟨f0_4, f4_2, f6_4, f10_8, f18_8, f26_6⟩ := layout20 d i h 0 1 37 en rfl rfl
  rw [decodeWord_25 f26_6, decodeTile, f0_4, f4_2, f6_4, f10_8, f18_8]; rfl

theorem Encoding.hbind (h : BitVec 4) (a : BitVec 8) : Encoding.Statement (.hbind h a) := by
  intro w' wf en
  obtain ⟨f0_8, f8_2, f10_8, f18_4, f22_4, f26_6⟩ := layout21 h a 0 0 0 38 en rfl rfl
  rw [decodeWord_26 f26_6, decodeHandle, f0_8, f8_2, f10_8, f18_4, f22_4]; rfl

theorem Encoding.hset (h : BitVec 4) (a : BitVec 8) : Encoding.Statement (.hset h a) := by
  intro w' wf en
  obtain ⟨f0_8, f8_2, f10_8, f18_4, f22_4, f26_6⟩ := layout21 h a 0 1 0 38 en rfl rfl
  rw [decodeWord_26 f26_6, decodeHandle, f0_8, f8_2, f10_8, f18_4, f22_4]; rfl

theorem Encoding.hqry (d : BitVec 8) (h : BitVec 4) (q : BitVec 4) : Encoding.Statement (.hqry d h q) := by
  intro w' wf en
  have wf : ¬ 11 ≤ q.toNat := Nat.not_le.mpr (of_decide_eq_true (p := q.toNat < 11) wf)
  obtain ⟨f0_4, f4_4, f8_2, f10_8, f18_8, f26_6⟩ := layout22 d h q 2 0 38 en rfl rfl
  rw [decodeWord_26 f26_6, decodeHandle, f0_4, f4_4, f8_2, f10_8, f18_8]; exact if_neg wf

theorem Encoding.pref (d : BitVec 8) (a : BitVec 8) (h : BitVec 4) : Encoding.Statement (.pref d a h) := by
  intro w' wf en
  obtain ⟨f0_2, f2_4, f6_4, f10_8, f18_8, f26_6⟩ := layout23 d a h 0 0 39 en rfl rfl
  rw [decodeWord_27 f26_6, decodeMemCtl, f0_2, f2_4, f6_4, f10_8, f18_8]; rfl

theorem Encoding.flush (d : BitVec 8) (a : BitVec 8) (h : BitVec 4) : Encoding.Statement (.flush d a h) := by
  intro w' wf en
  obtain ⟨f0_2, f2_4, f6_4, f10_8, f18_8, f26_6⟩ := layout23 d a h 0 1 39 en rfl rfl
  rw [decodeWord_27 f26_6, decodeMemCtl, f0_2, f2_4, f6_4, f10_8, f18_8]; rfl

theorem Encoding.inval (d : BitVec 8) (a : BitVec 8) (h : BitVec 4) : Encoding.Statement (.inval d a h) := by
  intro w' wf en
  obtain ⟨f0_2, f2_4, f6_4, f10_8, f18_8, f26_6⟩ := layout23 d a h 0 2 39 en rfl rfl
  rw [decodeWord_27 f26_6, decodeMemCtl, f0_2, f2_4, f6_4, f10_8, f18_8]; rfl

theorem Encoding.pub (d : BitVec 8) (a : BitVec 8) (h : BitVec 4) : Encoding.Statement (.pub d a h) := by
  intro w' wf en
  obtain ⟨f0_2, f2_4, f6_4, f10_8, f18_8, f26_6⟩ := layout23 d a h 0 3 39 en rfl rfl
  rw [decodeWord_27 f26_6, decodeMemCtl, f0_2, f2_4, f6_4, f10_8, f18_8]; rfl

theorem Encoding.smap (d : BitVec 8) (a : BitVec 8) (h : BitVec 4) : Encoding.Statement (.smap d a h) := by
  intro w' wf en
  obtain ⟨f0_2, f2_4, f6_4, f10_8, f18_8, f26_6⟩ := layout23 d a h 0 4 39 en rfl rfl
  rw [decodeWord_27 f26_6, decodeMemCtl, f0_2, f2_4, f6_4, f10_8, f18_8]; rfl

theorem Encoding.sunmap (a : BitVec 8) : Encoding.Statement (.sunmap a) := by
  intro w' wf en
  obtain ⟨f0_6, f6_4, f10_8, f18_8, f26_6⟩ := layout24 a 0 5 0 39 en rfl rfl
  rw [decodeWord_27 f26_6, decodeMemCtl, f0_6, f6_4, f10_8, f18_8]; rfl

theorem Encoding.atomAdd (d : BitVec 8) (i : BitVec 8) (h : BitVec 4) (w : BitVec 1) (r : BitVec 2) : Encoding.Statement (.atomAdd d i h w r) := by
  intro w' wf en
  obtain ⟨f0_2, f2_1, f3_3, f6_4, f10_8, f18_8, f26_6⟩ := layout25 d i h w r 0 41 en rfl rfl
  rw [decodeWord_29 f26_6, decodeAtom, f0_2, f2_1, f3_3, f6_4, f10_8, f18_8]; rfl

theorem Encoding.atomMin (d : BitVec 8) (i : BitVec 8) (h : BitVec 4) (w : BitVec 1) (r : BitVec 2) : Encoding.Statement (.atomMin d i h w r) := by
  intro w' wf en
  obtain ⟨f0_2, f2_1, f3_3, f6_4, f10_8, f18_8, f26_6⟩ := layout25 d i h w r 1 41 en rfl rfl
  rw [decodeWord_29 f26_6, decodeAtom, f0_2, f2_1, f3_3, f6_4, f10_8, f18_8]; rfl

theorem Encoding.atomMax (d : BitVec 8) (i : BitVec 8) (h : BitVec 4) (w : BitVec 1) (r : BitVec 2) : Encoding.Statement (.atomMax d i h w r) := by
  intro w' wf en
  obtain ⟨f0_2, f2_1, f3_3, f6_4, f10_8, f18_8, f26_6⟩ := layout25 d i h w r 2 41 en rfl rfl
  rw [decodeWord_29 f26_6, decodeAtom, f0_2, f2_1, f3_3, f6_4, f10_8, f18_8]; rfl

theorem Encoding.atomAnd (d : BitVec 8) (i : BitVec 8) (h : BitVec 4) (w : BitVec 1) (r : BitVec 2) : Encoding.Statement (.atomAnd d i h w r) := by
  intro w' wf en
  obtain ⟨f0_2, f2_1, f3_3, f6_4, f10_8, f18_8, f26_6⟩ := layout25 d i h w r 3 41 en rfl rfl
  rw [decodeWord_29 f26_6, decodeAtom, f0_2, f2_1, f3_3, f6_4, f10_8, f18_8]; rfl

theorem Encoding.atomOr (d : BitVec 8) (i : BitVec 8) (h : BitVec 4) (w : BitVec 1) (r : BitVec 2) : Encoding.Statement (.atomOr d i h w r) := by
  intro w' wf en
  obtain ⟨f0_2, f2_1, f3_3, f6_4, f10_8, f18_8, f26_6⟩ := layout25 d i h w r 4 41 en rfl rfl
  rw [decodeWord_29 f26_6, decodeAtom, f0_2, f2_1, f3_3, f6_4, f10_8, f18_8]; rfl

theorem Encoding.atomXor (d : BitVec 8) (i : BitVec 8) (h : BitVec 4) (w : BitVec 1) (r : BitVec 2) : Encoding.Statement (.atomXor d i h w r) := by
  intro w' wf en
  obtain ⟨f0_2, f2_1, f3_3, f6_4, f10_8, f18_8, f26_6⟩ := layout25 d i h w r 5 41 en rfl rfl
  rw [decodeWord_29 f26_6, decodeAtom, f0_2, f2_1, f3_3, f6_4, f10_8, f18_8]; rfl

theorem Encoding.atomXchg (d : BitVec 8) (i : BitVec 8) (h : BitVec 4) (w : BitVec 1) (r : BitVec 2) : Encoding.Statement (.atomXchg d i h w r) := by
  intro w' wf en
  obtain ⟨f0_2, f2_1, f3_3, f6_4, f10_8, f18_8, f26_6⟩ := layout25 d i h w r 6 41 en rfl rfl
  rw [decodeWord_29 f26_6, decodeAtom, f0_2, f2_1, f3_3, f6_4, f10_8, f18_8]; rfl

theorem Encoding.atomCas (d : BitVec 8) (i : BitVec 8) (h : BitVec 4) (w : BitVec 1) (r : BitVec 2) : Encoding.Statement (.atomCas d i h w r) := by
  intro w' wf en
  obtain ⟨f0_2, f2_1, f3_3, f6_4, f10_8, f18_8, f26_6⟩ := layout25 d i h w r 7 41 en rfl rfl
  rw [decodeWord_29 f26_6, decodeAtom, f0_2, f2_1, f3_3, f6_4, f10_8, f18_8]; rfl

theorem Encoding.redAdd (d : BitVec 8) (i : BitVec 8) (h : BitVec 4) (w : BitVec 1) (r : BitVec 2) : Encoding.Statement (.redAdd d i h w r) := by
  intro w' wf en
  have wf : r.extractLsb' 0 1 ≠ 1#1 := lowBit wf
  obtain ⟨f0_2, f2_1, f3_3, f6_4, f10_8, f18_8, f26_6⟩ := layout25 d i h w r 0 42 en rfl rfl
  rw [decodeWord_2a f26_6, decodeRed, sub01 f0_2, f0_2, f2_1, f3_3, f6_4, f10_8, f18_8]; exact if_neg wf

theorem Encoding.redMin (d : BitVec 8) (i : BitVec 8) (h : BitVec 4) (w : BitVec 1) (r : BitVec 2) : Encoding.Statement (.redMin d i h w r) := by
  intro w' wf en
  have wf : r.extractLsb' 0 1 ≠ 1#1 := lowBit wf
  obtain ⟨f0_2, f2_1, f3_3, f6_4, f10_8, f18_8, f26_6⟩ := layout25 d i h w r 1 42 en rfl rfl
  rw [decodeWord_2a f26_6, decodeRed, sub01 f0_2, f0_2, f2_1, f3_3, f6_4, f10_8, f18_8]; exact if_neg wf

theorem Encoding.redMax (d : BitVec 8) (i : BitVec 8) (h : BitVec 4) (w : BitVec 1) (r : BitVec 2) : Encoding.Statement (.redMax d i h w r) := by
  intro w' wf en
  have wf : r.extractLsb' 0 1 ≠ 1#1 := lowBit wf
  obtain ⟨f0_2, f2_1, f3_3, f6_4, f10_8, f18_8, f26_6⟩ := layout25 d i h w r 2 42 en rfl rfl
  rw [decodeWord_2a f26_6, decodeRed, sub01 f0_2, f0_2, f2_1, f3_3, f6_4, f10_8, f18_8]; exact if_neg wf

theorem Encoding.redAnd (d : BitVec 8) (i : BitVec 8) (h : BitVec 4) (w : BitVec 1) (r : BitVec 2) : Encoding.Statement (.redAnd d i h w r) := by
  intro w' wf en
  have wf : r.extractLsb' 0 1 ≠ 1#1 := lowBit wf
  obtain ⟨f0_2, f2_1, f3_3, f6_4, f10_8, f18_8, f26_6⟩ := layout25 d i h w r 3 42 en rfl rfl
  rw [decodeWord_2a f26_6, decodeRed, sub01 f0_2, f0_2, f2_1, f3_3, f6_4, f10_8, f18_8]; exact if_neg wf

theorem Encoding.redOr (d : BitVec 8) (i : BitVec 8) (h : BitVec 4) (w : BitVec 1) (r : BitVec 2) : Encoding.Statement (.redOr d i h w r) := by
  intro w' wf en
  have wf : r.extractLsb' 0 1 ≠ 1#1 := lowBit wf
  obtain ⟨f0_2, f2_1, f3_3, f6_4, f10_8, f18_8, f26_6⟩ := layout25 d i h w r 4 42 en rfl rfl
  rw [decodeWord_2a f26_6, decodeRed, sub01 f0_2, f0_2, f2_1, f3_3, f6_4, f10_8, f18_8]; exact if_neg wf

theorem Encoding.redXor (d : BitVec 8) (i : BitVec 8) (h : BitVec 4) (w : BitVec 1) (r : BitVec 2) : Encoding.Statement (.redXor d i h w r) := by
  intro w' wf en
  have wf : r.extractLsb' 0 1 ≠ 1#1 := lowBit wf
  obtain ⟨f0_2, f2_1, f3_3, f6_4, f10_8, f18_8, f26_6⟩ := layout25 d i h w r 5 42 en rfl rfl
  rw [decodeWord_2a f26_6, decodeRed, sub01 f0_2, f0_2, f2_1, f3_3, f6_4, f10_8, f18_8]; exact if_neg wf

theorem Encoding.barArrive (d : BitVec 8) (a : BitVec 8) (h : BitVec 4) : Encoding.Statement (.barArrive d a h) := by
  intro w' wf en
  obtain ⟨f0_4, f4_4, f8_2, f10_8, f18_8, f26_6⟩ := layout26 d a h 0 0 43 en rfl rfl
  rw [decodeWord_2b f26_6, decodeBar, f0_4, f4_4, f8_2, f10_8, f18_8]; rfl

theorem Encoding.barWait (d : BitVec 8) (a : BitVec 8) (h : BitVec 4) : Encoding.Statement (.barWait d a h) := by
  intro w' wf en
  obtain ⟨f0_4, f4_4, f8_2, f10_8, f18_8, f26_6⟩ := layout26 d a h 0 1 43 en rfl rfl
  rw [decodeWord_2b f26_6, decodeBar, f0_4, f4_4, f8_2, f10_8, f18_8]; rfl

theorem Encoding.barArriveN (d : BitVec 8) (a : BitVec 8) (h : BitVec 4) : Encoding.Statement (.barArriveN d a h) := by
  intro w' wf en
  obtain ⟨f0_4, f4_4, f8_2, f10_8, f18_8, f26_6⟩ := layout26 d a h 0 2 43 en rfl rfl
  rw [decodeWord_2b f26_6, decodeBar, f0_4, f4_4, f8_2, f10_8, f18_8]; rfl

theorem Encoding.rclm (a : BitVec 8) : Encoding.Statement (.rclm a) := by
  intro w' wf en
  obtain ⟨f0_8, f8_2, f10_8, f18_8, f26_6⟩ := layout27 a 0 0 0 44 en rfl rfl
  rw [decodeWord_2c f26_6, decodeRegClm, f0_8, f8_2, f10_8, f18_8]; rfl

theorem Encoding.rrel (a : BitVec 8) : Encoding.Statement (.rrel a) := by
  intro w' wf en
  obtain ⟨f0_8, f8_2, f10_8, f18_8, f26_6⟩ := layout27 a 0 1 0 44 en rfl rfl
  rw [decodeWord_2c f26_6, decodeRegClm, f0_8, f8_2, f10_8, f18_8]; rfl

theorem Encoding.rqry (d : BitVec 8) : Encoding.Statement (.rqry d) := by
  intro w' wf en
  obtain ⟨f0_8, f8_2, f10_8, f18_8, f26_6⟩ := layout28 d 0 2 0 44 en rfl rfl
  rw [decodeWord_2c f26_6, decodeRegClm, f0_8, f8_2, f10_8, f18_8]; rfl

theorem Encoding.rqpool (d : BitVec 8) : Encoding.Statement (.rqpool d) := by
  intro w' wf en
  obtain ⟨f0_8, f8_2, f10_8, f18_8, f26_6⟩ := layout28 d 0 3 0 44 en rfl rfl
  rw [decodeWord_2c f26_6, decodeRegClm, f0_8, f8_2, f10_8, f18_8]; rfl

theorem Encoding.qpush (q : BitVec 3) (a : BitVec 8) : Encoding.Statement (.qpush q a) := by
  intro w' wf en
  obtain ⟨f0_8, f8_2, f10_8, f18_3, f21_5, f26_6⟩ := layout29 q a 0 0 0 45 en rfl rfl
  rw [decodeWord_2d f26_6, decodeQkvs, f0_8, f8_2, f10_8, f18_3, f21_5]; rfl

theorem Encoding.kvxs (d : BitVec 8) (a : BitVec 8) (h : BitVec 4) : Encoding.Statement (.kvxs d a h) := by
  intro w' wf en
  obtain ⟨f0_4, f4_4, f8_2, f10_8, f18_8, f26_6⟩ := layout26 d a h 0 1 45 en rfl rfl
  rw [decodeWord_2d f26_6, decodeQkvs, f0_4, f4_4, f8_2, f10_8, f18_8]; rfl

theorem Encoding.kvx (d : BitVec 8) (i : BitVec 8) (h : BitVec 4) : Encoding.Statement (.kvx d i h) := by
  intro w' wf en
  obtain ⟨f0_6, f6_4, f10_8, f18_8, f26_6⟩ := layout30 d i h 0 46 en rfl rfl
  rw [decodeWord_2e f26_6, decodeKvx, f0_6, f6_4, f10_8, f18_8]; rfl

theorem Encoding.rld (d : BitVec 8) (o : BitVec 8) (p : BitVec 8) (h : BitVec 2) : Encoding.Statement (.rld d o p h) := by
  intro w' wf en
  obtain ⟨f0_2, f2_8, f10_8, f18_8, f26_6⟩ := layout31 d o p h 47 en rfl rfl
  rw [decodeWord_2f f26_6, decodeRld, f0_2, f2_8, f10_8, f18_8]

theorem Encoding.rst (d : BitVec 8) (o : BitVec 8) (p : BitVec 8) (h : BitVec 2) : Encoding.Statement (.rst d o p h) := by
  intro w' wf en
  obtain ⟨f0_2, f2_8, f10_8, f18_8, f26_6⟩ := layout31 d o p h 48 en rfl rfl
  rw [decodeWord_30 f26_6, decodeRst, f0_2, f2_8, f10_8, f18_8]

theorem Encoding.ratom (d : BitVec 8) (o : BitVec 8) (p : BitVec 8) (h : BitVec 2) : Encoding.Statement (.ratom d o p h) := by
  intro w' wf en
  obtain ⟨f0_2, f2_8, f10_8, f18_8, f26_6⟩ := layout31 d o p h 49 en rfl rfl
  rw [decodeWord_31 f26_6, decodeRatom, f0_2, f2_8, f10_8, f18_8]

theorem Encoding.rred (d : BitVec 8) (o : BitVec 8) (p : BitVec 8) (h : BitVec 2) : Encoding.Statement (.rred d o p h) := by
  intro w' wf en
  obtain ⟨f0_2, f2_8, f10_8, f18_8, f26_6⟩ := layout31 d o p h 50 en rfl rfl
  rw [decodeWord_32 f26_6, decodeRred, f0_2, f2_8, f10_8, f18_8]

theorem Encoding.mcst (d : BitVec 8) (o : BitVec 8) (p : BitVec 8) (h : BitVec 2) : Encoding.Statement (.mcst d o p h) := by
  intro w' wf en
  obtain ⟨f0_2, f2_8, f10_8, f18_8, f26_6⟩ := layout31 d o p h 51 en rfl rfl
  rw [decodeWord_33 f26_6, decodeMcst, f0_2, f2_8, f10_8, f18_8]

theorem Encoding.mma (c : BitVec 2) (a : BitVec 4) (b : BitVec 4) (s : BitVec 6) (t : BitVec 6) (z : BitVec 1) : Encoding.Statement (.mma c a b s t z) := by
  intro w' wf en
  obtain ⟨f0_1, f1_1, f2_2, f4_6, f10_6, f16_4, f20_4, f24_2, f26_6⟩ := layout32 c a b s t z 0 0 52 en rfl rfl
  rw [decodeWord_34 f26_6, decodeMatrix, f0_1, f1_1, f2_2, f4_6, f10_6, f16_4, f20_4, f24_2]; rfl

theorem Encoding.mmat (c : BitVec 2) (a : BitVec 4) (b : BitVec 4) (s : BitVec 6) (t : BitVec 6) (z : BitVec 1) : Encoding.Statement (.mmat c a b s t z) := by
  intro w' wf en
  obtain ⟨f0_1, f1_1, f2_2, f4_6, f10_6, f16_4, f20_4, f24_2, f26_6⟩ := layout32 c a b s t z 0 1 52 en rfl rfl
  rw [decodeWord_34 f26_6, decodeMatrix, f0_1, f1_1, f2_2, f4_6, f10_6, f16_4, f20_4, f24_2]; rfl

theorem Encoding.mmap (c : BitVec 2) (a : BitVec 4) (b : BitVec 4) (s : BitVec 6) (t : BitVec 6) (z : BitVec 1) : Encoding.Statement (.mmap c a b s t z) := by
  intro w' wf en
  obtain ⟨f0_1, f1_1, f2_2, f4_6, f10_6, f16_4, f20_4, f24_2, f26_6⟩ := layout32 c a b s t z 0 2 52 en rfl rfl
  rw [decodeWord_34 f26_6, decodeMatrix, f0_1, f1_1, f2_2, f4_6, f10_6, f16_4, f20_4, f24_2]; rfl

theorem Encoding.accz (c : BitVec 2) : Encoding.Statement (.accz c) := by
  intro w' wf en
  obtain ⟨f0_4, f4_20, f24_2, f26_6⟩ := layout33 c 0 0 53 en rfl rfl
  rw [decodeWord_35 f26_6, decodeAcc, f0_4, f4_20, f24_2]; rfl

theorem Encoding.accld (c : BitVec 2) (h : BitVec 4) (s : BitVec 6) : Encoding.Statement (.accld c h s) := by
  intro w' wf en
  obtain ⟨f0_4, f4_6, f10_6, f16_4, f20_4, f24_2, f26_6⟩ := layout34 c h s 1 0 0 53 en rfl rfl
  rw [decodeWord_35 f26_6, decodeAcc, f0_4, f4_6, f10_6, f16_4, f20_4, f24_2]; rfl

theorem Encoding.accst (c : BitVec 2) (h : BitVec 4) (s : BitVec 6) : Encoding.Statement (.accst c h s) := by
  intro w' wf en
  obtain ⟨f0_4, f4_6, f10_6, f16_4, f20_4, f24_2, f26_6⟩ := layout34 c h s 2 0 0 53 en rfl rfl
  rw [decodeWord_35 f26_6, decodeAcc, f0_4, f4_6, f10_6, f16_4, f20_4, f24_2]; rfl

theorem Encoding.accg (c : BitVec 2) (s : BitVec 6) : Encoding.Statement (.accg c s) := by
  intro w' wf en
  obtain ⟨f0_4, f4_6, f10_6, f16_8, f24_2, f26_6⟩ := layout35 c s 3 0 0 53 en rfl rfl
  rw [decodeWord_35 f26_6, decodeAcc, f0_4, f4_6, f10_6, f16_8, f24_2]; rfl

theorem Encoding.accmax (c : BitVec 2) (s : BitVec 6) : Encoding.Statement (.accmax c s) := by
  intro w' wf en
  obtain ⟨f0_4, f4_6, f10_6, f16_8, f24_2, f26_6⟩ := layout35 c s 4 0 0 53 en rfl rfl
  rw [decodeWord_35 f26_6, decodeAcc, f0_4, f4_6, f10_6, f16_8, f24_2]; rfl

theorem Encoding.accexp (c : BitVec 2) (s : BitVec 6) : Encoding.Statement (.accexp c s) := by
  intro w' wf en
  obtain ⟨f0_4, f4_6, f10_6, f16_8, f24_2, f26_6⟩ := layout35 c s 5 0 0 53 en rfl rfl
  rw [decodeWord_35 f26_6, decodeAcc, f0_4, f4_6, f10_6, f16_8, f24_2]; rfl

theorem Encoding.accsum (c : BitVec 2) (m : BitVec 2) (s : BitVec 6) : Encoding.Statement (.accsum c m s) := by
  intro w' wf en
  obtain ⟨f0_4, f4_6, f10_6, f16_2, f18_6, f24_2, f26_6⟩ := layout36 c m s 6 0 0 53 en rfl rfl
  rw [decodeWord_35 f26_6, decodeAcc, f0_4, f4_6, f10_6, f16_2, f18_6, f24_2]; rfl

theorem Encoding.cpy (d : BitVec 6) (a : BitVec 6) (b : BitVec 6) : Encoding.Statement (.cpy d a b) := by
  intro w' wf en
  obtain ⟨f0_6, f6_6, f12_6, f18_1, f19_7, f26_6⟩ := layout37 d a b 1 0 54 en rfl rfl
  rw [decodeWord_36 f26_6, decodeCop, f0_6, f6_6, f12_6, f18_1, f19_7]; rfl

theorem Encoding.gath (d : BitVec 6) (a : BitVec 6) (b : BitVec 6) : Encoding.Statement (.gath d a b) := by
  intro w' wf en
  obtain ⟨f0_6, f6_6, f12_6, f18_1, f19_7, f26_6⟩ := layout37 d a b 1 1 54 en rfl rfl
  rw [decodeWord_36 f26_6, decodeCop, f0_6, f6_6, f12_6, f18_1, f19_7]; rfl

theorem Encoding.scat (d : BitVec 6) (a : BitVec 6) (b : BitVec 6) : Encoding.Statement (.scat d a b) := by
  intro w' wf en
  obtain ⟨f0_6, f6_6, f12_6, f18_1, f19_7, f26_6⟩ := layout37 d a b 1 2 54 en rfl rfl
  rw [decodeWord_36 f26_6, decodeCop, f0_6, f6_6, f12_6, f18_1, f19_7]; rfl

theorem Encoding.tcpy (r : BitVec 1) (d : BitVec 6) (a : BitVec 6) (b : BitVec 6) : Encoding.Statement (.tcpy r d a b) := by
  intro w' wf en
  have wf := replyWf_iff wf
  obtain ⟨f0_6, f6_6, f12_6, f18_1, f19_7, f26_6⟩ := layout38 r d a b 3 54 en rfl rfl
  rw [decodeWord_36 f26_6, decodeCop, f0_6, f6_6, f12_6, f18_1, f19_7]; exact if_neg wf

theorem Encoding.fill (d : BitVec 6) (a : BitVec 6) (b : BitVec 6) : Encoding.Statement (.fill d a b) := by
  intro w' wf en
  obtain ⟨f0_6, f6_6, f12_6, f18_1, f19_7, f26_6⟩ := layout37 d a b 1 4 54 en rfl rfl
  rw [decodeWord_36 f26_6, decodeCop, f0_6, f6_6, f12_6, f18_1, f19_7]; rfl

theorem Encoding.tdec (d : BitVec 6) (a : BitVec 6) (b : BitVec 6) : Encoding.Statement (.tdec d a b) := by
  intro w' wf en
  obtain ⟨f0_6, f6_6, f12_6, f18_1, f19_7, f26_6⟩ := layout37 d a b 1 5 54 en rfl rfl
  rw [decodeWord_36 f26_6, decodeCop, f0_6, f6_6, f12_6, f18_1, f19_7]; rfl

theorem Encoding.encv (d : BitVec 6) (a : BitVec 6) (b : BitVec 6) : Encoding.Statement (.encv d a b) := by
  intro w' wf en
  obtain ⟨f0_6, f6_6, f12_6, f18_1, f19_7, f26_6⟩ := layout37 d a b 1 16 54 en rfl rfl
  rw [decodeWord_36 f26_6, decodeCop, f0_6, f6_6, f12_6, f18_1, f19_7]; rfl

theorem Encoding.encc (d : BitVec 6) (a : BitVec 6) (b : BitVec 6) : Encoding.Statement (.encc d a b) := by
  intro w' wf en
  obtain ⟨f0_6, f6_6, f12_6, f18_1, f19_7, f26_6⟩ := layout37 d a b 1 17 54 en rfl rfl
  rw [decodeWord_36 f26_6, decodeCop, f0_6, f6_6, f12_6, f18_1, f19_7]; rfl

theorem Encoding.encvp (d : BitVec 6) (a : BitVec 6) (b : BitVec 6) : Encoding.Statement (.encvp d a b) := by
  intro w' wf en
  obtain ⟨f0_6, f6_6, f12_6, f18_1, f19_7, f26_6⟩ := layout37 d a b 1 18 54 en rfl rfl
  rw [decodeWord_36 f26_6, decodeCop, f0_6, f6_6, f12_6, f18_1, f19_7]; rfl

theorem Encoding.enccp (d : BitVec 6) (a : BitVec 6) (b : BitVec 6) : Encoding.Statement (.enccp d a b) := by
  intro w' wf en
  obtain ⟨f0_6, f6_6, f12_6, f18_1, f19_7, f26_6⟩ := layout37 d a b 1 19 54 en rfl rfl
  rw [decodeWord_36 f26_6, decodeCop, f0_6, f6_6, f12_6, f18_1, f19_7]; rfl

theorem Encoding.migp (d : BitVec 6) (a : BitVec 6) (b : BitVec 6) : Encoding.Statement (.migp d a b) := by
  intro w' wf en
  obtain ⟨f0_6, f6_6, f12_6, f18_1, f19_7, f26_6⟩ := layout37 d a b 1 32 54 en rfl rfl
  rw [decodeWord_36 f26_6, decodeCop, f0_6, f6_6, f12_6, f18_1, f19_7]; rfl

theorem Encoding.migb (r : BitVec 1) (d : BitVec 6) (a : BitVec 6) (b : BitVec 6) : Encoding.Statement (.migb r d a b) := by
  intro w' wf en
  have wf := replyWf_iff wf
  obtain ⟨f0_6, f6_6, f12_6, f18_1, f19_7, f26_6⟩ := layout38 r d a b 33 54 en rfl rfl
  rw [decodeWord_36 f26_6, decodeCop, f0_6, f6_6, f12_6, f18_1, f19_7]; exact if_neg wf

theorem Encoding.avdec (r : BitVec 1) (d : BitVec 6) (a : BitVec 6) (b : BitVec 6) : Encoding.Statement (.avdec r d a b) := by
  intro w' wf en
  have wf := replyWf_iff wf
  obtain ⟨f0_6, f6_6, f12_6, f18_1, f19_7, f26_6⟩ := layout38 r d a b 48 54 en rfl rfl
  rw [decodeWord_36 f26_6, decodeCop, f0_6, f6_6, f12_6, f18_1, f19_7]; exact if_neg wf

theorem Encoding.cbcast (d : BitVec 6) (a : BitVec 6) (b : BitVec 6) : Encoding.Statement (.cbcast d a b) := by
  intro w' wf en
  obtain ⟨f0_6, f6_6, f12_6, f18_1, f19_7, f26_6⟩ := layout37 d a b 1 64 54 en rfl rfl
  rw [decodeWord_36 f26_6, decodeCop, f0_6, f6_6, f12_6, f18_1, f19_7]; rfl

theorem Encoding.creduce (d : BitVec 6) (a : BitVec 6) (b : BitVec 6) : Encoding.Statement (.creduce d a b) := by
  intro w' wf en
  obtain ⟨f0_6, f6_6, f12_6, f18_1, f19_7, f26_6⟩ := layout37 d a b 1 65 54 en rfl rfl
  rw [decodeWord_36 f26_6, decodeCop, f0_6, f6_6, f12_6, f18_1, f19_7]; rfl

theorem Encoding.callred (d : BitVec 6) (a : BitVec 6) (b : BitVec 6) : Encoding.Statement (.callred d a b) := by
  intro w' wf en
  obtain ⟨f0_6, f6_6, f12_6, f18_1, f19_7, f26_6⟩ := layout37 d a b 1 66 54 en rfl rfl
  rw [decodeWord_36 f26_6, decodeCop, f0_6, f6_6, f12_6, f18_1, f19_7]; rfl

theorem Encoding.cgath (d : BitVec 6) (a : BitVec 6) (b : BitVec 6) : Encoding.Statement (.cgath d a b) := by
  intro w' wf en
  obtain ⟨f0_6, f6_6, f12_6, f18_1, f19_7, f26_6⟩ := layout37 d a b 1 67 54 en rfl rfl
  rw [decodeWord_36 f26_6, decodeCop, f0_6, f6_6, f12_6, f18_1, f19_7]; rfl

theorem Encoding.tdef (d : BitVec 6) (a : BitVec 6) : Encoding.Statement (.tdef d a) := by
  intro w' wf en
  obtain ⟨f0_6, f6_6, f12_6, f18_1, f19_7, f26_6⟩ := layout39 d a 0 1 80 54 en rfl rfl
  rw [decodeWord_36 f26_6, decodeCop, f0_6, f6_6, f12_6, f18_1, f19_7]; rfl

theorem Encoding.trel (r : BitVec 1) (d : BitVec 6) (a : BitVec 6) : Encoding.Statement (.trel r d a) := by
  intro w' wf en
  have wf := replyWf_iff wf
  obtain ⟨f0_6, f6_6, f12_6, f18_1, f19_7, f26_6⟩ := layout40 r d a 0 81 54 en rfl rfl
  rw [decodeWord_36 f26_6, decodeCop, f0_6, f6_6, f12_6, f18_1, f19_7]; exact if_neg wf

theorem Encoding.trdy (r : BitVec 1) (d : BitVec 6) (a : BitVec 6) : Encoding.Statement (.trdy r d a) := by
  intro w' wf en
  have wf := replyWf_iff wf
  obtain ⟨f0_6, f6_6, f12_6, f18_1, f19_7, f26_6⟩ := layout40 r d a 0 82 54 en rfl rfl
  rw [decodeWord_36 f26_6, decodeCop, f0_6, f6_6, f12_6, f18_1, f19_7]; exact if_neg wf

theorem Encoding.tdrn (r : BitVec 1) (d : BitVec 6) (a : BitVec 6) : Encoding.Statement (.tdrn r d a) := by
  intro w' wf en
  have wf := replyWf_iff wf
  obtain ⟨f0_6, f6_6, f12_6, f18_1, f19_7, f26_6⟩ := layout40 r d a 0 83 54 en rfl rfl
  rw [decodeWord_36 f26_6, decodeCop, f0_6, f6_6, f12_6, f18_1, f19_7]; exact if_neg wf

theorem Encoding.tqry (d : BitVec 6) (a : BitVec 6) : Encoding.Statement (.tqry d a) := by
  intro w' wf en
  obtain ⟨f0_6, f6_6, f12_6, f18_1, f19_7, f26_6⟩ := layout39 d a 0 1 84 54 en rfl rfl
  rw [decodeWord_36 f26_6, decodeCop, f0_6, f6_6, f12_6, f18_1, f19_7]; rfl

theorem Encoding.ctload (a : BitVec 8) (s : BitVec 6) : Encoding.Statement (.ctload a s) := by
  intro w' wf en
  obtain ⟨f0_6, f6_2, f8_2, f10_8, f18_8, f26_6⟩ := layout41 a s 0 0 0 55 en rfl rfl
  rw [decodeWord_37 f26_6, decodeCodeTab, f0_6, f6_2, f8_2, f10_8, f18_8]; rfl

theorem Encoding.ctsave (a : BitVec 8) (s : BitVec 6) : Encoding.Statement (.ctsave a s) := by
  intro w' wf en
  obtain ⟨f0_6, f6_2, f8_2, f10_8, f18_8, f26_6⟩ := layout41 a s 0 1 0 55 en rfl rfl
  rw [decodeWord_37 f26_6, decodeCodeTab, f0_6, f6_2, f8_2, f10_8, f18_8]; rfl

theorem Encoding.ctinv (s : BitVec 6) : Encoding.Statement (.ctinv s) := by
  intro w' wf en
  obtain ⟨f0_6, f6_2, f8_2, f10_16, f26_6⟩ := layout42 s 0 2 0 55 en rfl rfl
  rw [decodeWord_37 f26_6, decodeCodeTab, f0_6, f6_2, f8_2, f10_16]; rfl

theorem Encoding.smovi (d : BitVec 8) (i : BitVec 20) : Encoding.Statement (.smovi d i) := by
  intro w wf en
  have := d.isLt; have := i.isLt
  have eq := word_toNat en rfl (n := d.toNat * 1048576 + i.toNat + 3758096384) (by simp only [place]; omega)
  have top : (w.extractLsb' 26 6).toNat = 56 + d.toNat / 64 := by
    rw [BitVec.extractLsb'_toNat, eq, Nat.shiftRight_eq_div_pow]; omega
  rw [smoviWord (by omega) (by omega), field_of 20 d 14 i.toNat eq (by omega) (by omega),
    field_of 0 i (d.toNat + 3584) 0 eq (by omega) (by omega)]

theorem Encoding.movi (d : BitVec 8) (i : BitVec 20) : Encoding.Statement (.movi d i) := by
  intro w wf en
  have := d.isLt; have := i.isLt
  have eq := word_toNat en rfl (n := d.toNat * 1048576 + i.toNat + 4026531840) (by simp only [place]; omega)
  have top : (w.extractLsb' 26 6).toNat = 60 + d.toNat / 64 := by
    rw [BitVec.extractLsb'_toNat, eq, Nat.shiftRight_eq_div_pow]; omega
  rw [moviWord (by omega), field_of 20 d 15 i.toNat eq (by omega) (by omega),
    field_of 0 i (d.toNat + 3840) 0 eq (by omega) (by omega)]

theorem Encoding.loadComplete (wid : Nat) (k : Nat) : Encoding.Statement (.loadComplete wid k) := by
  intro w _ h; cases h

theorem Encoding.storePerformed (wid : Nat) : Encoding.Statement (.storePerformed wid) := by
  intro w _ h; cases h

theorem Encoding.wosTimeout (wid : Nat) (k : Nat) : Encoding.Statement (.wosTimeout wid k) := by
  intro w _ h; cases h

theorem Encoding.sleepEnd (wid : Nat) : Encoding.Statement (.sleepEnd wid) := by
  intro w _ h; cases h

theorem Encoding.accordWaitExpire (wid : Nat) : Encoding.Statement (.accordWaitExpire wid) := by
  intro w _ h; cases h

theorem Encoding.deadlockDetect (bid : Nat) : Encoding.Statement (.deadlockDetect bid) := by
  intro w _ h; cases h

theorem Encoding.rclmGrant (core : BitVec 8) : Encoding.Statement (.rclmGrant core) := by
  intro w _ h; cases h

theorem Encoding.matrixAccept (wid : Nat) : Encoding.Statement (.matrixAccept wid) := by
  intro w _ h; cases h

theorem Encoding.matrixComplete (wid : Nat) : Encoding.Statement (.matrixComplete wid) := by
  intro w _ h; cases h

theorem Encoding.engineStartGrant (die : BitVec 2) : Encoding.Statement (.engineStartGrant die) := by
  intro w _ h; cases h

theorem Encoding.engineGate (engine : BitVec 10) : Encoding.Statement (.engineGate engine) := by
  intro w _ h; cases h

theorem Encoding.engineCompletion (cmd : Nat) : Encoding.Statement (.engineCompletion cmd) := by
  intro w _ h; cases h

theorem Encoding.tailChange (queue : BitVec 10) : Encoding.Statement (.tailChange queue) := by
  intro w _ h; cases h

theorem Encoding.semLineChange (ctx : BitVec 16) : Encoding.Statement (.semLineChange ctx) := by
  intro w _ h; cases h

theorem Encoding.nodeComplete (seq : BitVec 64) : Encoding.Statement (.nodeComplete seq) := by
  intro w _ h; cases h

theorem Encoding.nodeWatchdog (seq : BitVec 64) : Encoding.Statement (.nodeWatchdog seq) := by
  intro w _ h; cases h

theorem Encoding.gangReserve (seq : BitVec 64) : Encoding.Statement (.gangReserve seq) := by
  intro w _ h; cases h

theorem Encoding.gangTimeout (seq : BitVec 64) : Encoding.Statement (.gangTimeout seq) := by
  intro w _ h; cases h

theorem Encoding.gangRetry (seq : BitVec 64) : Encoding.Statement (.gangRetry seq) := by
  intro w _ h; cases h

theorem Encoding.contextSwitchOut (ctx : BitVec 16) : Encoding.Statement (.contextSwitchOut ctx) := by
  intro w _ h; cases h

theorem Encoding.contextRestore (ctx : BitVec 16) : Encoding.Statement (.contextRestore ctx) := by
  intro w _ h; cases h

theorem Encoding.migrationRequest (ctx : BitVec 16) : Encoding.Statement (.migrationRequest ctx) := by
  intro w _ h; cases h

theorem Encoding.rnr (src : BitVec 10) (tag : BitVec 16) (mask : BitVec 64) (reason : BitVec 8) : Encoding.Statement (.rnr src tag mask reason) := by
  intro w _ h; cases h

theorem Encoding.err (src : BitVec 10) (tag : BitVec 16) (mask : BitVec 64) (code : BitVec 8) (detail : BitVec 8) : Encoding.Statement (.err src tag mask code detail) := by
  intro w _ h; cases h

theorem Encoding.rnrRetry (tag : BitVec 16) : Encoding.Statement (.rnrRetry tag) := by
  intro w _ h; cases h

theorem Encoding.cut (n : Nat) : Encoding.Statement (.cut n) := by
  intro w _ h; cases h

theorem Encoding.resume (n : Nat) : Encoding.Statement (.resume n) := by
  intro w _ h; cases h

theorem Encoding.commit (n : Nat) : Encoding.Statement (.commit n) := by
  intro w _ h; cases h

theorem Encoding.abort (n : AbortBody) : Encoding.Statement (.abort n) := by
  intro w _ h; cases h

theorem Encoding.gangAcknowledgement (seq : BitVec 64) (member : BitVec 10) : Encoding.Statement (.gangAcknowledgement seq member) := by
  intro w _ h; cases h

theorem Encoding.reserve (leader : BitVec 10) (seq : BitVec 64) (ctx : BitVec 16) (card : BitVec 2048) : Encoding.Statement (.reserve leader seq ctx card) := by
  intro w _ h; cases h

theorem Encoding.gcommit (leader : BitVec 10) (seq : BitVec 64) : Encoding.Statement (.gcommit leader seq) := by
  intro w _ h; cases h

theorem Encoding.grelease (leader : BitVec 10) (seq : BitVec 64) : Encoding.Statement (.grelease leader seq) := by
  intro w _ h; cases h

theorem Encoding.lateFault (wid : Nat) (record : BitVec 512) : Encoding.Statement (.lateFault wid record) := by
  intro w _ h; cases h

theorem Encoding.impreciseFaultDelivery (wid : Nat) : Encoding.Statement (.impreciseFaultDelivery wid) := by
  intro w _ h; cases h

theorem Encoding.ttrapDeadline (wid : Nat) : Encoding.Statement (.ttrapDeadline wid) := by
  intro w _ h; cases h

theorem Encoding.tdeadDeadline (wid : Nat) : Encoding.Statement (.tdeadDeadline wid) := by
  intro w _ h; cases h

theorem Encoding.ckptCfg (value : BitVec 64) : Encoding.Statement (.ckptCfg value) := by
  intro w _ h; cases h

theorem Encoding.fabCfg (value : BitVec 64) : Encoding.Statement (.fabCfg value) := by
  intro w _ h; cases h

theorem Encoding.pwrCfg (value : BitVec 64) : Encoding.Statement (.pwrCfg value) := by
  intro w _ h; cases h

theorem Encoding.tlmSel (value : BitVec 64) : Encoding.Statement (.tlmSel value) := by
  intro w _ h; cases h

theorem Encoding.registerWrite (offset : BitVec 16) (value : BitVec 64) : Encoding.Statement (.registerWrite offset value) := by
  intro w _ h; cases h

theorem Encoding.deviceDeclaredDead (ident : BitVec 10) : Encoding.Statement (.deviceDeclaredDead ident) := by
  intro w _ h; cases h

theorem Encoding.standbySubstitute (ident : BitVec 10) (vertex : BitVec 10) (incarn : BitVec 16) : Encoding.Statement (.standbySubstitute ident vertex incarn) := by
  intro w _ h; cases h

theorem Encoding.uncorrectableError (line : BitVec 45) : Encoding.Statement (.uncorrectableError line) := by
  intro w _ h; cases h

theorem Encoding.cutdone (n : Nat) (src : BitVec 10) : Encoding.Statement (.cutdone n src) := by
  intro w _ h; cases h

theorem Encoding.vote (n : Nat) (src : BitVec 10) (sound : Bool) : Encoding.Statement (.vote n src sound) := by
  intro w _ h; cases h

theorem Encoding.heartbeat (src : HeartbeatBody) : Encoding.Statement (.heartbeat src) := by
  intro w _ h; cases h

theorem Encoding.mirror (src : BitVec 10) (frame : BitVec 36) (offset : BitVec 16) (data : MirrorBody) : Encoding.Statement (.mirror src frame offset data) := by
  intro w _ h; cases h

theorem Encoding.mirrorack (frame : BitVec 36) : Encoding.Statement (.mirrorack frame) := by
  intro w _ h; cases h

theorem Encoding.fmwrite (offset : BitVec 16) (value : BitVec 64) : Encoding.Statement (.fmwrite offset value) := by
  intro w _ h; cases h

theorem Encoding.keyset (slot : BitVec 7) (key : BitVec 512) (authorised : Bool) : Encoding.Statement (.keyset slot key authorised) := by
  intro w _ h; cases h

theorem Encoding.keyerase (slot : BitVec 7) (authorised : Bool) : Encoding.Statement (.keyerase slot authorised) := by
  intro w _ h; cases h

theorem Encoding.rekey (port : BitVec 6) : Encoding.Statement (.rekey port) := by
  intro w _ h; cases h

theorem Encoding.keyrdy (port : BitVec 6) : Encoding.Statement (.keyrdy port) := by
  intro w _ h; cases h

theorem Encoding.retire (port : BitVec 6) : Encoding.Statement (.retire port) := by
  intro w _ h; cases h

theorem Encoding.nak (port : BitVec 6) (lseq : BitVec 12) : Encoding.Statement (.nak port lseq) := by
  intro w _ h; cases h

theorem Encoding.linkDown (port : BitVec 6) : Encoding.Statement (.linkDown port) := by
  intro w _ h; cases h

theorem Encoding.linkTrain (port : BitVec 6) (vertex : BitVec 10) : Encoding.Statement (.linkTrain port vertex) := by
  intro w _ h; cases h

theorem Encoding.dack (dst : BitVec 10) (cls : BitVec 2) : Encoding.Statement (.dack dst cls) := by
  intro w _ h; cases h

theorem Encoding.readShared (agent : BitVec 12) (line : BitVec 45) : Encoding.Statement (.readShared agent line) := by
  intro w _ h; cases h

theorem Encoding.readOwn (agent : BitVec 12) (line : BitVec 45) : Encoding.Statement (.readOwn agent line) := by
  intro w _ h; cases h

theorem Encoding.readUpdate (agent : BitVec 12) (line : BitVec 45) (op : BitVec 3) (wide : Bool) (type : BitVec 4) : Encoding.Statement (.readUpdate agent line op wide type) := by
  intro w _ h; cases h

theorem Encoding.writeBack (agent : BitVec 12) (line : BitVec 45) (mask : BitVec 128) (data : BitVec 1024) : Encoding.Statement (.writeBack agent line mask data) := by
  intro w _ h; cases h

theorem Encoding.invalidate (agent : BitVec 12) (line : BitVec 45) : Encoding.Statement (.invalidate agent line) := by
  intro w _ h; cases h

theorem Encoding.update (agent : BitVec 12) (line : BitVec 45) (mask : BitVec 128) (data : BitVec 1024) : Encoding.Statement (.update agent line mask data) := by
  intro w _ h; cases h

theorem Encoding.recall (agent : BitVec 12) (line : BitVec 45) : Encoding.Statement (.recall agent line) := by
  intro w _ h; cases h

theorem Encoding.partialReturn (agent : BitVec 12) (line : BitVec 45) : Encoding.Statement (.partialReturn agent line) := by
  intro w _ h; cases h

theorem Encoding.grant (agent : BitVec 12) (line : BitVec 45) (state : BitVec 3) : Encoding.Statement (.grant agent line state) := by
  intro w _ h; cases h

theorem Encoding.acknowledge (agent : BitVec 12) (line : BitVec 45) : Encoding.Statement (.acknowledge agent line) := by
  intro w _ h; cases h

theorem Encoding.hostMemRead (pa : BitVec 52) (copy : Bool) : Encoding.Statement (.hostMemRead pa copy) := by
  intro w _ h; cases h

theorem Encoding.hostMemWrite (pa : BitVec 52) (mask : BitVec 64) (data : BitVec 512) : Encoding.Statement (.hostMemWrite pa mask data) := by
  intro w _ h; cases h

theorem Encoding.hostSnoop (pa : BitVec 52) (state : BitVec 3) : Encoding.Statement (.hostSnoop pa state) := by
  intro w _ h; cases h

theorem Encoding.nvmeCompletion (drive : BitVec 2) (status : BitVec 16) : Encoding.Statement (.nvmeCompletion drive status) := by
  intro w _ h; cases h

theorem Encoding.powerGood (verified : Bool) : Encoding.Statement (.powerGood verified) := by
  intro w _ h; cases h

theorem Encoding.throttle (avg : BitVec 12) (tmax : BitVec 12) : Encoding.Statement (.throttle avg tmax) := by
  intro w _ h; cases h

theorem Encoding.thermalFatal (tmax : BitVec 12) : Encoding.Statement (.thermalFatal tmax) := by
  intro w _ h; cases h

theorem Encoding.throttleClear (avg : BitVec 12) (tmax : BitVec 12) : Encoding.Statement (.throttleClear avg tmax) := by
  intro w _ h; cases h

theorem Encoding.nop : Encoding.Statement .nop := by
  intro w' wf en
  obtain ⟨f0_18, f18_8, f26_6⟩ := layout43 0 0 0 en rfl rfl
  rw [decodeWord_00 f26_6, decodeCtl, f0_18, f18_8]; rfl

theorem Encoding.exit : Encoding.Statement .exit := by
  intro w' wf en
  obtain ⟨f0_18, f18_8, f26_6⟩ := layout43 0 1 0 en rfl rfl
  rw [decodeWord_00 f26_6, decodeCtl, f0_18, f18_8]; rfl

theorem Encoding.yield : Encoding.Statement .yield := by
  intro w' wf en
  obtain ⟨f0_18, f18_8, f26_6⟩ := layout43 0 2 0 en rfl rfl
  rw [decodeWord_00 f26_6, decodeCtl, f0_18, f18_8]; rfl

theorem Encoding.ret : Encoding.Statement .ret := by
  intro w' wf en
  obtain ⟨f0_18, f18_8, f26_6⟩ := layout43 0 4 0 en rfl rfl
  rw [decodeWord_00 f26_6, decodeCtl, f0_18, f18_8]; rfl

theorem Encoding.tret : Encoding.Statement .tret := by
  intro w' wf en
  obtain ⟨f0_18, f18_8, f26_6⟩ := layout43 0 8 0 en rfl rfl
  rw [decodeWord_00 f26_6, decodeCtl, f0_18, f18_8]; rfl

theorem Encoding.tattach : Encoding.Statement .tattach := by
  intro w' wf en
  obtain ⟨f0_18, f18_8, f26_6⟩ := layout43 0 9 0 en rfl rfl
  rw [decodeWord_00 f26_6, decodeCtl, f0_18, f18_8]; rfl

theorem Encoding.tdetach : Encoding.Statement .tdetach := by
  intro w' wf en
  obtain ⟨f0_18, f18_8, f26_6⟩ := layout43 0 10 0 en rfl rfl
  rw [decodeWord_00 f26_6, decodeCtl, f0_18, f18_8]; rfl

theorem Encoding.fenceWarp : Encoding.Statement .fenceWarp := by
  intro w' wf en
  obtain ⟨f0_3, f3_23, f26_6⟩ := layout44 0 0 40 en rfl rfl
  rw [decodeWord_28 f26_6, decodeFence, f0_3, f3_23]; rfl

theorem Encoding.fenceBlk : Encoding.Statement .fenceBlk := by
  intro w' wf en
  obtain ⟨f0_3, f3_23, f26_6⟩ := layout44 1 0 40 en rfl rfl
  rw [decodeWord_28 f26_6, decodeFence, f0_3, f3_23]; rfl

theorem Encoding.fenceDev : Encoding.Statement .fenceDev := by
  intro w' wf en
  obtain ⟨f0_3, f3_23, f26_6⟩ := layout44 2 0 40 en rfl rfl
  rw [decodeWord_28 f26_6, decodeFence, f0_3, f3_23]; rfl

theorem Encoding.fenceGang : Encoding.Statement .fenceGang := by
  intro w' wf en
  obtain ⟨f0_3, f3_23, f26_6⟩ := layout44 3 0 40 en rfl rfl
  rw [decodeWord_28 f26_6, decodeFence, f0_3, f3_23]; rfl

theorem Encoding.fenceSys : Encoding.Statement .fenceSys := by
  intro w' wf en
  obtain ⟨f0_3, f3_23, f26_6⟩ := layout44 4 0 40 en rfl rfl
  rw [decodeWord_28 f26_6, decodeFence, f0_3, f3_23]; rfl

theorem Encoding.fenceXp : Encoding.Statement .fenceXp := by
  intro w' wf en
  obtain ⟨f0_3, f3_23, f26_6⟩ := layout44 5 0 40 en rfl rfl
  rw [decodeWord_28 f26_6, decodeFence, f0_3, f3_23]; rfl

theorem Encoding.xlateInval : Encoding.Statement .xlateInval := by
  intro w _ h; cases h

theorem Encoding.xlateInvalctx : Encoding.Statement .xlateInvalctx := by
  intro w _ h; cases h

theorem Encoding.xlateSplinter : Encoding.Statement .xlateSplinter := by
  intro w _ h; cases h

theorem Encoding.xlateAttrchg : Encoding.Statement .xlateAttrchg := by
  intro w _ h; cases h

theorem Encoding.xlatePerm : Encoding.Statement .xlatePerm := by
  intro w _ h; cases h

theorem Encoding.xlateRequestEnd : Encoding.Statement .xlateRequestEnd := by
  intro w _ h; cases h

theorem Encoding.queueEnable : Encoding.Statement .queueEnable := by
  intro w _ h; cases h

theorem Encoding.queueDisable : Encoding.Statement .queueDisable := by
  intro w _ h; cases h

theorem Encoding.ctxQuery : Encoding.Statement .ctxQuery := by
  intro w _ h; cases h

theorem Encoding.ctxResume : Encoding.Statement .ctxResume := by
  intro w _ h; cases h

theorem Encoding.ctxStop : Encoding.Statement .ctxStop := by
  intro w _ h; cases h

theorem Encoding.cardAccept : Encoding.Statement .cardAccept := by
  intro w _ h; cases h

theorem Encoding.nodeDispatch : Encoding.Statement .nodeDispatch := by
  intro w _ h; cases h

theorem Encoding.priorityAging : Encoding.Statement .priorityAging := by
  intro w _ h; cases h

theorem Encoding.intervalCut : Encoding.Statement .intervalCut := by
  intro w _ h; cases h

theorem Encoding.undoLogFull : Encoding.Statement .undoLogFull := by
  intro w _ h; cases h

theorem Encoding.heartbeatTick : Encoding.Statement .heartbeatTick := by
  intro w _ h; cases h

theorem Encoding.rebuildDone : Encoding.Statement .rebuildDone := by
  intro w _ h; cases h

theorem Encoding.flowLoss : Encoding.Statement .flowLoss := by
  intro w _ h; cases h

theorem Encoding.flowSignalAsserted : Encoding.Statement .flowSignalAsserted := by
  intro w _ h; cases h

end Sys2Proof.Laws
end

