-- ==== Sys2Proof/Laws/State.lean ====
section
/-!
SUPPORT. The updates of State.lean's records, field by field: what each leaves as it was. No later proof unfolds an update.
-/
namespace Sys2Proof.Machine
set_option Elab.async false

/-! ### setS -/

@[simp] theorem setS_wid (w : Warp) (n : Fin 64) (x : Scalar) : (setS w n x).wid = w.wid := rfl
@[simp] theorem setS_ctx (w : Warp) (n : Fin 64) (x : Scalar) : (setS w n x).ctx = w.ctx := rfl
@[simp] theorem setS_bid (w : Warp) (n : Fin 64) (x : Scalar) : (setS w n x).bid = w.bid := rfl
@[simp] theorem setS_node (w : Warp) (n : Fin 64) (x : Scalar) : (setS w n x).node = w.node := rfl
@[simp] theorem setS_widx (w : Warp) (n : Fin 64) (x : Scalar) : (setS w n x).widx = w.widx := rfl
@[simp] theorem setS_stage (w : Warp) (n : Fin 64) (x : Scalar) : (setS w n x).stage = w.stage := rfl
@[simp] theorem setS_twin (w : Warp) (n : Fin 64) (x : Scalar) : (setS w n x).twin = w.twin := rfl
@[simp] theorem setS_rap (w : Warp) (n : Fin 64) (x : Scalar) : (setS w n x).rap = w.rap := rfl
@[simp] theorem setS_span (w : Warp) (n : Fin 64) (x : Scalar) : (setS w n x).span = w.span := rfl
@[simp] theorem setS_core (w : Warp) (n : Fin 64) (x : Scalar) : (setS w n x).core = w.core := rfl
@[simp] theorem setS_part (w : Warp) (n : Fin 64) (x : Scalar) : (setS w n x).part = w.part := rfl
@[simp] theorem setS_slot (w : Warp) (n : Fin 64) (x : Scalar) : (setS w n x).slot = w.slot := rfl
@[simp] theorem setS_pc (w : Warp) (n : Fin 64) (x : Scalar) : (setS w n x).pc = w.pc := rfl
@[simp] theorem setS_enter (w : Warp) (n : Fin 64) (x : Scalar) : (setS w n x).enter = w.enter := rfl
@[simp] theorem setS_clause (w : Warp) (n : Fin 64) (x : Scalar) : (setS w n x).clause = w.clause := rfl
@[simp] theorem setS_status (w : Warp) (n : Fin 64) (x : Scalar) : (setS w n x).status = w.status := rfl
@[simp] theorem setS_v (w : Warp) (n : Fin 64) (x : Scalar) : (setS w n x).v = w.v := rfl
@[simp] theorem setS_claimed (w : Warp) (n : Fin 64) (x : Scalar) : (setS w n x).claimed = w.claimed := rfl
@[simp] theorem setS_p (w : Warp) (n : Fin 64) (x : Scalar) : (setS w n x).p = w.p := rfl
@[simp] theorem setS_s (w : Warp) (n : Fin 64) (x : Scalar) : (setS w n x).s = w.s.set n x := rfl
@[simp] theorem setS_h (w : Warp) (n : Fin 64) (x : Scalar) : (setS w n x).h = w.h := rfl
@[simp] theorem setS_acc (w : Warp) (n : Fin 64) (x : Scalar) : (setS w n x).acc = w.acc := rfl
@[simp] theorem setS_rowState (w : Warp) (n : Fin 64) (x : Scalar) : (setS w n x).rowState = w.rowState := rfl
@[simp] theorem setS_exec (w : Warp) (n : Fin 64) (x : Scalar) : (setS w n x).exec = w.exec := rfl
@[simp] theorem setS_mode (w : Warp) (n : Fin 64) (x : Scalar) : (setS w n x).mode = w.mode := rfl
@[simp] theorem setS_lr (w : Warp) (n : Fin 64) (x : Scalar) : (setS w n x).lr = w.lr := rfl
@[simp] theorem setS_lrhi (w : Warp) (n : Fin 64) (x : Scalar) : (setS w n x).lrhi = w.lrhi := rfl
@[simp] theorem setS_trapmask (w : Warp) (n : Fin 64) (x : Scalar) : (setS w n x).trapmask = w.trapmask := rfl
@[simp] theorem setS_replay (w : Warp) (n : Fin 64) (x : Scalar) : (setS w n x).replay = w.replay := rfl
@[simp] theorem setS_rowprog (w : Warp) (n : Fin 64) (x : Scalar) : (setS w n x).rowprog = w.rowprog := rfl
@[simp] theorem setS_rowResume (w : Warp) (n : Fin 64) (x : Scalar) : (setS w n x).rowResume = w.rowResume := rfl
@[simp] theorem setS_rowAt (w : Warp) (n : Fin 64) (x : Scalar) : (setS w n x).rowAt = w.rowAt := rfl
@[simp] theorem setS_accPend (w : Warp) (n : Fin 64) (x : Scalar) : (setS w n x).accPend = w.accPend := rfl
@[simp] theorem setS_zerocnt (w : Warp) (n : Fin 64) (x : Scalar) : (setS w n x).zerocnt = w.zerocnt := rfl
@[simp] theorem setS_porig (w : Warp) (n : Fin 64) (x : Scalar) : (setS w n x).porig = w.porig := rfl
@[simp] theorem setS_qsub (w : Warp) (n : Fin 64) (x : Scalar) : (setS w n x).qsub = w.qsub := rfl
@[simp] theorem setS_qpos (w : Warp) (n : Fin 64) (x : Scalar) : (setS w n x).qpos = w.qpos := rfl
@[simp] theorem setS_cycdl (w : Warp) (n : Fin 64) (x : Scalar) : (setS w n x).cycdl = w.cycdl := rfl
@[simp] theorem setS_walldl (w : Warp) (n : Fin 64) (x : Scalar) : (setS w n x).walldl = w.walldl := rfl
@[simp] theorem setS_cyc (w : Warp) (n : Fin 64) (x : Scalar) : (setS w n x).cyc = w.cyc := rfl
@[simp] theorem setS_flags (w : Warp) (n : Fin 64) (x : Scalar) : (setS w n x).flags = w.flags := rfl
@[simp] theorem setS_stack (w : Warp) (n : Fin 64) (x : Scalar) : (setS w n x).stack = w.stack := rfl
@[simp] theorem setS_floor (w : Warp) (n : Fin 64) (x : Scalar) : (setS w n x).floor = w.floor := rfl
@[simp] theorem setS_m (w : Warp) (n : Fin 64) (x : Scalar) : (setS w n x).m = w.m := rfl
@[simp] theorem setS_gone (w : Warp) (n : Fin 64) (x : Scalar) : (setS w n x).gone = w.gone := rfl
@[simp] theorem setS_rp (w : Warp) (n : Fin 64) (x : Scalar) : (setS w n x).rp = w.rp := rfl
@[simp] theorem setS_stores (w : Warp) (n : Fin 64) (x : Scalar) : (setS w n x).stores = w.stores := rfl
@[simp] theorem setS_unacked (w : Warp) (n : Fin 64) (x : Scalar) : (setS w n x).unacked = w.unacked := rfl
@[simp] theorem setS_loads (w : Warp) (n : Fin 64) (x : Scalar) : (setS w n x).loads = w.loads := rfl
@[simp] theorem setS_xp (w : Warp) (n : Fin 64) (x : Scalar) : (setS w n x).xp = w.xp := rfl
@[simp] theorem setS_pushes (w : Warp) (n : Fin 64) (x : Scalar) : (setS w n x).pushes = w.pushes := rfl
@[simp] theorem setS_matReq (w : Warp) (n : Fin 64) (x : Scalar) : (setS w n x).matReq = w.matReq := rfl
@[simp] theorem setS_mat (w : Warp) (n : Fin 64) (x : Scalar) : (setS w n x).mat = w.mat := rfl
@[simp] theorem setS_remotes (w : Warp) (n : Fin 64) (x : Scalar) : (setS w n x).remotes = w.remotes := rfl
@[simp] theorem setS_late (w : Warp) (n : Fin 64) (x : Scalar) : (setS w n x).late = w.late := rfl
@[simp] theorem setS_summary (w : Warp) (n : Fin 64) (x : Scalar) : (setS w n x).summary = w.summary := rfl
@[simp] theorem setS_summaryDone (w : Warp) (n : Fin 64) (x : Scalar) : (setS w n x).summaryDone = w.summaryDone := rfl
@[simp] theorem setS_faultSlot (w : Warp) (n : Fin 64) (x : Scalar) : (setS w n x).faultSlot = w.faultSlot := rfl
@[simp] theorem setS_keys (w : Warp) (n : Fin 64) (x : Scalar) : (setS w n x).keys = w.keys := rfl
@[simp] theorem setS_live (w : Warp) (n : Fin 64) (x : Scalar) : (setS w n x).live = w.live := rfl
@[simp] theorem setS_keyPop (w : Warp) (n : Fin 64) (x : Scalar) : (setS w n x).keyPop = w.keyPop := rfl
@[simp] theorem setS_detached (w : Warp) (n : Fin 64) (x : Scalar) : (setS w n x).detached = w.detached := rfl
@[simp] theorem setS_attached (w : Warp) (n : Fin 64) (x : Scalar) : (setS w n x).attached = w.attached := rfl
@[simp] theorem setS_since (w : Warp) (n : Fin 64) (x : Scalar) : (setS w n x).since = w.since := rfl
@[simp] theorem setS_woken (w : Warp) (n : Fin 64) (x : Scalar) : (setS w n x).woken = w.woken := rfl
@[simp] theorem setS_waited (w : Warp) (n : Fin 64) (x : Scalar) : (setS w n x).waited = w.waited := rfl
@[simp] theorem setS_yields (w : Warp) (n : Fin 64) (x : Scalar) : (setS w n x).yields = w.yields := rfl
@[simp] theorem setS_spilled (w : Warp) (n : Fin 64) (x : Scalar) : (setS w n x).spilled = w.spilled := rfl
@[simp] theorem setS_away (w : Warp) (n : Fin 64) (x : Scalar) : (setS w n x).away = w.away := rfl
@[simp] theorem setS_backing (w : Warp) (n : Fin 64) (x : Scalar) : (setS w n x).backing = w.backing := rfl

/-! ### setV -/

@[simp] theorem setV_wid (w : Warp) (n : Fin 232) (k : Mask) (f : Fin 64 → Lane) : (setV w n k f).wid = w.wid := rfl
@[simp] theorem setV_ctx (w : Warp) (n : Fin 232) (k : Mask) (f : Fin 64 → Lane) : (setV w n k f).ctx = w.ctx := rfl
@[simp] theorem setV_bid (w : Warp) (n : Fin 232) (k : Mask) (f : Fin 64 → Lane) : (setV w n k f).bid = w.bid := rfl
@[simp] theorem setV_node (w : Warp) (n : Fin 232) (k : Mask) (f : Fin 64 → Lane) : (setV w n k f).node = w.node := rfl
@[simp] theorem setV_widx (w : Warp) (n : Fin 232) (k : Mask) (f : Fin 64 → Lane) : (setV w n k f).widx = w.widx := rfl
@[simp] theorem setV_stage (w : Warp) (n : Fin 232) (k : Mask) (f : Fin 64 → Lane) : (setV w n k f).stage = w.stage := rfl
@[simp] theorem setV_twin (w : Warp) (n : Fin 232) (k : Mask) (f : Fin 64 → Lane) : (setV w n k f).twin = w.twin := rfl
@[simp] theorem setV_rap (w : Warp) (n : Fin 232) (k : Mask) (f : Fin 64 → Lane) : (setV w n k f).rap = w.rap := rfl
@[simp] theorem setV_span (w : Warp) (n : Fin 232) (k : Mask) (f : Fin 64 → Lane) : (setV w n k f).span = w.span := rfl
@[simp] theorem setV_core (w : Warp) (n : Fin 232) (k : Mask) (f : Fin 64 → Lane) : (setV w n k f).core = w.core := rfl
@[simp] theorem setV_part (w : Warp) (n : Fin 232) (k : Mask) (f : Fin 64 → Lane) : (setV w n k f).part = w.part := rfl
@[simp] theorem setV_slot (w : Warp) (n : Fin 232) (k : Mask) (f : Fin 64 → Lane) : (setV w n k f).slot = w.slot := rfl
@[simp] theorem setV_pc (w : Warp) (n : Fin 232) (k : Mask) (f : Fin 64 → Lane) : (setV w n k f).pc = w.pc := rfl
@[simp] theorem setV_enter (w : Warp) (n : Fin 232) (k : Mask) (f : Fin 64 → Lane) : (setV w n k f).enter = w.enter := rfl
@[simp] theorem setV_clause (w : Warp) (n : Fin 232) (k : Mask) (f : Fin 64 → Lane) : (setV w n k f).clause = w.clause := rfl
@[simp] theorem setV_status (w : Warp) (n : Fin 232) (k : Mask) (f : Fin 64 → Lane) : (setV w n k f).status = w.status := rfl
@[simp] theorem setV_claimed (w : Warp) (n : Fin 232) (k : Mask) (f : Fin 64 → Lane) : (setV w n k f).claimed = w.claimed := rfl
@[simp] theorem setV_p (w : Warp) (n : Fin 232) (k : Mask) (f : Fin 64 → Lane) : (setV w n k f).p = w.p := rfl
@[simp] theorem setV_s (w : Warp) (n : Fin 232) (k : Mask) (f : Fin 64 → Lane) : (setV w n k f).s = w.s := rfl
@[simp] theorem setV_h (w : Warp) (n : Fin 232) (k : Mask) (f : Fin 64 → Lane) : (setV w n k f).h = w.h := rfl
@[simp] theorem setV_acc (w : Warp) (n : Fin 232) (k : Mask) (f : Fin 64 → Lane) : (setV w n k f).acc = w.acc := rfl
@[simp] theorem setV_rowState (w : Warp) (n : Fin 232) (k : Mask) (f : Fin 64 → Lane) : (setV w n k f).rowState = w.rowState := rfl
@[simp] theorem setV_exec (w : Warp) (n : Fin 232) (k : Mask) (f : Fin 64 → Lane) : (setV w n k f).exec = w.exec := rfl
@[simp] theorem setV_mode (w : Warp) (n : Fin 232) (k : Mask) (f : Fin 64 → Lane) : (setV w n k f).mode = w.mode := rfl
@[simp] theorem setV_lr (w : Warp) (n : Fin 232) (k : Mask) (f : Fin 64 → Lane) : (setV w n k f).lr = w.lr := rfl
@[simp] theorem setV_lrhi (w : Warp) (n : Fin 232) (k : Mask) (f : Fin 64 → Lane) : (setV w n k f).lrhi = w.lrhi := rfl
@[simp] theorem setV_trapmask (w : Warp) (n : Fin 232) (k : Mask) (f : Fin 64 → Lane) : (setV w n k f).trapmask = w.trapmask := rfl
@[simp] theorem setV_replay (w : Warp) (n : Fin 232) (k : Mask) (f : Fin 64 → Lane) : (setV w n k f).replay = w.replay := rfl
@[simp] theorem setV_rowprog (w : Warp) (n : Fin 232) (k : Mask) (f : Fin 64 → Lane) : (setV w n k f).rowprog = w.rowprog := rfl
@[simp] theorem setV_rowResume (w : Warp) (n : Fin 232) (k : Mask) (f : Fin 64 → Lane) : (setV w n k f).rowResume = w.rowResume := rfl
@[simp] theorem setV_rowAt (w : Warp) (n : Fin 232) (k : Mask) (f : Fin 64 → Lane) : (setV w n k f).rowAt = w.rowAt := rfl
@[simp] theorem setV_accPend (w : Warp) (n : Fin 232) (k : Mask) (f : Fin 64 → Lane) : (setV w n k f).accPend = w.accPend := rfl
@[simp] theorem setV_zerocnt (w : Warp) (n : Fin 232) (k : Mask) (f : Fin 64 → Lane) : (setV w n k f).zerocnt = w.zerocnt := rfl
@[simp] theorem setV_porig (w : Warp) (n : Fin 232) (k : Mask) (f : Fin 64 → Lane) : (setV w n k f).porig = w.porig := rfl
@[simp] theorem setV_qsub (w : Warp) (n : Fin 232) (k : Mask) (f : Fin 64 → Lane) : (setV w n k f).qsub = w.qsub := rfl
@[simp] theorem setV_qpos (w : Warp) (n : Fin 232) (k : Mask) (f : Fin 64 → Lane) : (setV w n k f).qpos = w.qpos := rfl
@[simp] theorem setV_cycdl (w : Warp) (n : Fin 232) (k : Mask) (f : Fin 64 → Lane) : (setV w n k f).cycdl = w.cycdl := rfl
@[simp] theorem setV_walldl (w : Warp) (n : Fin 232) (k : Mask) (f : Fin 64 → Lane) : (setV w n k f).walldl = w.walldl := rfl
@[simp] theorem setV_cyc (w : Warp) (n : Fin 232) (k : Mask) (f : Fin 64 → Lane) : (setV w n k f).cyc = w.cyc := rfl
@[simp] theorem setV_flags (w : Warp) (n : Fin 232) (k : Mask) (f : Fin 64 → Lane) : (setV w n k f).flags = w.flags := rfl
@[simp] theorem setV_stack (w : Warp) (n : Fin 232) (k : Mask) (f : Fin 64 → Lane) : (setV w n k f).stack = w.stack := rfl
@[simp] theorem setV_floor (w : Warp) (n : Fin 232) (k : Mask) (f : Fin 64 → Lane) : (setV w n k f).floor = w.floor := rfl
@[simp] theorem setV_m (w : Warp) (n : Fin 232) (k : Mask) (f : Fin 64 → Lane) : (setV w n k f).m = w.m := rfl
@[simp] theorem setV_gone (w : Warp) (n : Fin 232) (k : Mask) (f : Fin 64 → Lane) : (setV w n k f).gone = w.gone := rfl
@[simp] theorem setV_rp (w : Warp) (n : Fin 232) (k : Mask) (f : Fin 64 → Lane) : (setV w n k f).rp = w.rp := rfl
@[simp] theorem setV_stores (w : Warp) (n : Fin 232) (k : Mask) (f : Fin 64 → Lane) : (setV w n k f).stores = w.stores := rfl
@[simp] theorem setV_unacked (w : Warp) (n : Fin 232) (k : Mask) (f : Fin 64 → Lane) : (setV w n k f).unacked = w.unacked := rfl
@[simp] theorem setV_loads (w : Warp) (n : Fin 232) (k : Mask) (f : Fin 64 → Lane) : (setV w n k f).loads = w.loads := rfl
@[simp] theorem setV_xp (w : Warp) (n : Fin 232) (k : Mask) (f : Fin 64 → Lane) : (setV w n k f).xp = w.xp := rfl
@[simp] theorem setV_pushes (w : Warp) (n : Fin 232) (k : Mask) (f : Fin 64 → Lane) : (setV w n k f).pushes = w.pushes := rfl
@[simp] theorem setV_matReq (w : Warp) (n : Fin 232) (k : Mask) (f : Fin 64 → Lane) : (setV w n k f).matReq = w.matReq := rfl
@[simp] theorem setV_mat (w : Warp) (n : Fin 232) (k : Mask) (f : Fin 64 → Lane) : (setV w n k f).mat = w.mat := rfl
@[simp] theorem setV_remotes (w : Warp) (n : Fin 232) (k : Mask) (f : Fin 64 → Lane) : (setV w n k f).remotes = w.remotes := rfl
@[simp] theorem setV_late (w : Warp) (n : Fin 232) (k : Mask) (f : Fin 64 → Lane) : (setV w n k f).late = w.late := rfl
@[simp] theorem setV_summary (w : Warp) (n : Fin 232) (k : Mask) (f : Fin 64 → Lane) : (setV w n k f).summary = w.summary := rfl
@[simp] theorem setV_summaryDone (w : Warp) (n : Fin 232) (k : Mask) (f : Fin 64 → Lane) : (setV w n k f).summaryDone = w.summaryDone := rfl
@[simp] theorem setV_faultSlot (w : Warp) (n : Fin 232) (k : Mask) (f : Fin 64 → Lane) : (setV w n k f).faultSlot = w.faultSlot := rfl
@[simp] theorem setV_keys (w : Warp) (n : Fin 232) (k : Mask) (f : Fin 64 → Lane) : (setV w n k f).keys = w.keys := rfl
@[simp] theorem setV_live (w : Warp) (n : Fin 232) (k : Mask) (f : Fin 64 → Lane) : (setV w n k f).live = w.live := rfl
@[simp] theorem setV_keyPop (w : Warp) (n : Fin 232) (k : Mask) (f : Fin 64 → Lane) : (setV w n k f).keyPop = w.keyPop := rfl
@[simp] theorem setV_detached (w : Warp) (n : Fin 232) (k : Mask) (f : Fin 64 → Lane) : (setV w n k f).detached = w.detached := rfl
@[simp] theorem setV_attached (w : Warp) (n : Fin 232) (k : Mask) (f : Fin 64 → Lane) : (setV w n k f).attached = w.attached := rfl
@[simp] theorem setV_since (w : Warp) (n : Fin 232) (k : Mask) (f : Fin 64 → Lane) : (setV w n k f).since = w.since := rfl
@[simp] theorem setV_woken (w : Warp) (n : Fin 232) (k : Mask) (f : Fin 64 → Lane) : (setV w n k f).woken = w.woken := rfl
@[simp] theorem setV_waited (w : Warp) (n : Fin 232) (k : Mask) (f : Fin 64 → Lane) : (setV w n k f).waited = w.waited := rfl
@[simp] theorem setV_yields (w : Warp) (n : Fin 232) (k : Mask) (f : Fin 64 → Lane) : (setV w n k f).yields = w.yields := rfl
@[simp] theorem setV_spilled (w : Warp) (n : Fin 232) (k : Mask) (f : Fin 64 → Lane) : (setV w n k f).spilled = w.spilled := rfl
@[simp] theorem setV_away (w : Warp) (n : Fin 232) (k : Mask) (f : Fin 64 → Lane) : (setV w n k f).away = w.away := rfl
@[simp] theorem setV_backing (w : Warp) (n : Fin 232) (k : Mask) (f : Fin 64 → Lane) : (setV w n k f).backing = w.backing := rfl

/-! ### setP -/

@[simp] theorem setP_wid (w : Warp) (n : BitVec 4) (k : Mask) (f : Fin 64 → PLane) : (setP w n k f).wid = w.wid := rfl
@[simp] theorem setP_ctx (w : Warp) (n : BitVec 4) (k : Mask) (f : Fin 64 → PLane) : (setP w n k f).ctx = w.ctx := rfl
@[simp] theorem setP_bid (w : Warp) (n : BitVec 4) (k : Mask) (f : Fin 64 → PLane) : (setP w n k f).bid = w.bid := rfl
@[simp] theorem setP_node (w : Warp) (n : BitVec 4) (k : Mask) (f : Fin 64 → PLane) : (setP w n k f).node = w.node := rfl
@[simp] theorem setP_widx (w : Warp) (n : BitVec 4) (k : Mask) (f : Fin 64 → PLane) : (setP w n k f).widx = w.widx := rfl
@[simp] theorem setP_stage (w : Warp) (n : BitVec 4) (k : Mask) (f : Fin 64 → PLane) : (setP w n k f).stage = w.stage := rfl
@[simp] theorem setP_twin (w : Warp) (n : BitVec 4) (k : Mask) (f : Fin 64 → PLane) : (setP w n k f).twin = w.twin := rfl
@[simp] theorem setP_rap (w : Warp) (n : BitVec 4) (k : Mask) (f : Fin 64 → PLane) : (setP w n k f).rap = w.rap := rfl
@[simp] theorem setP_span (w : Warp) (n : BitVec 4) (k : Mask) (f : Fin 64 → PLane) : (setP w n k f).span = w.span := rfl
@[simp] theorem setP_core (w : Warp) (n : BitVec 4) (k : Mask) (f : Fin 64 → PLane) : (setP w n k f).core = w.core := rfl
@[simp] theorem setP_part (w : Warp) (n : BitVec 4) (k : Mask) (f : Fin 64 → PLane) : (setP w n k f).part = w.part := rfl
@[simp] theorem setP_slot (w : Warp) (n : BitVec 4) (k : Mask) (f : Fin 64 → PLane) : (setP w n k f).slot = w.slot := rfl
@[simp] theorem setP_pc (w : Warp) (n : BitVec 4) (k : Mask) (f : Fin 64 → PLane) : (setP w n k f).pc = w.pc := rfl
@[simp] theorem setP_enter (w : Warp) (n : BitVec 4) (k : Mask) (f : Fin 64 → PLane) : (setP w n k f).enter = w.enter := rfl
@[simp] theorem setP_clause (w : Warp) (n : BitVec 4) (k : Mask) (f : Fin 64 → PLane) : (setP w n k f).clause = w.clause := rfl
@[simp] theorem setP_status (w : Warp) (n : BitVec 4) (k : Mask) (f : Fin 64 → PLane) : (setP w n k f).status = w.status := rfl
@[simp] theorem setP_v (w : Warp) (n : BitVec 4) (k : Mask) (f : Fin 64 → PLane) : (setP w n k f).v = w.v := rfl
@[simp] theorem setP_claimed (w : Warp) (n : BitVec 4) (k : Mask) (f : Fin 64 → PLane) : (setP w n k f).claimed = w.claimed := rfl
@[simp] theorem setP_s (w : Warp) (n : BitVec 4) (k : Mask) (f : Fin 64 → PLane) : (setP w n k f).s = w.s := rfl
@[simp] theorem setP_h (w : Warp) (n : BitVec 4) (k : Mask) (f : Fin 64 → PLane) : (setP w n k f).h = w.h := rfl
@[simp] theorem setP_acc (w : Warp) (n : BitVec 4) (k : Mask) (f : Fin 64 → PLane) : (setP w n k f).acc = w.acc := rfl
@[simp] theorem setP_rowState (w : Warp) (n : BitVec 4) (k : Mask) (f : Fin 64 → PLane) : (setP w n k f).rowState = w.rowState := rfl
@[simp] theorem setP_exec (w : Warp) (n : BitVec 4) (k : Mask) (f : Fin 64 → PLane) : (setP w n k f).exec = w.exec := rfl
@[simp] theorem setP_mode (w : Warp) (n : BitVec 4) (k : Mask) (f : Fin 64 → PLane) : (setP w n k f).mode = w.mode := rfl
@[simp] theorem setP_lr (w : Warp) (n : BitVec 4) (k : Mask) (f : Fin 64 → PLane) : (setP w n k f).lr = w.lr := rfl
@[simp] theorem setP_lrhi (w : Warp) (n : BitVec 4) (k : Mask) (f : Fin 64 → PLane) : (setP w n k f).lrhi = w.lrhi := rfl
@[simp] theorem setP_trapmask (w : Warp) (n : BitVec 4) (k : Mask) (f : Fin 64 → PLane) : (setP w n k f).trapmask = w.trapmask := rfl
@[simp] theorem setP_replay (w : Warp) (n : BitVec 4) (k : Mask) (f : Fin 64 → PLane) : (setP w n k f).replay = w.replay := rfl
@[simp] theorem setP_rowprog (w : Warp) (n : BitVec 4) (k : Mask) (f : Fin 64 → PLane) : (setP w n k f).rowprog = w.rowprog := rfl
@[simp] theorem setP_rowResume (w : Warp) (n : BitVec 4) (k : Mask) (f : Fin 64 → PLane) : (setP w n k f).rowResume = w.rowResume := rfl
@[simp] theorem setP_rowAt (w : Warp) (n : BitVec 4) (k : Mask) (f : Fin 64 → PLane) : (setP w n k f).rowAt = w.rowAt := rfl
@[simp] theorem setP_accPend (w : Warp) (n : BitVec 4) (k : Mask) (f : Fin 64 → PLane) : (setP w n k f).accPend = w.accPend := rfl
@[simp] theorem setP_zerocnt (w : Warp) (n : BitVec 4) (k : Mask) (f : Fin 64 → PLane) : (setP w n k f).zerocnt = w.zerocnt := rfl
@[simp] theorem setP_porig (w : Warp) (n : BitVec 4) (k : Mask) (f : Fin 64 → PLane) : (setP w n k f).porig = w.porig := rfl
@[simp] theorem setP_qsub (w : Warp) (n : BitVec 4) (k : Mask) (f : Fin 64 → PLane) : (setP w n k f).qsub = w.qsub := rfl
@[simp] theorem setP_qpos (w : Warp) (n : BitVec 4) (k : Mask) (f : Fin 64 → PLane) : (setP w n k f).qpos = w.qpos := rfl
@[simp] theorem setP_cycdl (w : Warp) (n : BitVec 4) (k : Mask) (f : Fin 64 → PLane) : (setP w n k f).cycdl = w.cycdl := rfl
@[simp] theorem setP_walldl (w : Warp) (n : BitVec 4) (k : Mask) (f : Fin 64 → PLane) : (setP w n k f).walldl = w.walldl := rfl
@[simp] theorem setP_cyc (w : Warp) (n : BitVec 4) (k : Mask) (f : Fin 64 → PLane) : (setP w n k f).cyc = w.cyc := rfl
@[simp] theorem setP_flags (w : Warp) (n : BitVec 4) (k : Mask) (f : Fin 64 → PLane) : (setP w n k f).flags = w.flags := rfl
@[simp] theorem setP_stack (w : Warp) (n : BitVec 4) (k : Mask) (f : Fin 64 → PLane) : (setP w n k f).stack = w.stack := rfl
@[simp] theorem setP_floor (w : Warp) (n : BitVec 4) (k : Mask) (f : Fin 64 → PLane) : (setP w n k f).floor = w.floor := rfl
@[simp] theorem setP_m (w : Warp) (n : BitVec 4) (k : Mask) (f : Fin 64 → PLane) : (setP w n k f).m = w.m := rfl
@[simp] theorem setP_gone (w : Warp) (n : BitVec 4) (k : Mask) (f : Fin 64 → PLane) : (setP w n k f).gone = w.gone := rfl
@[simp] theorem setP_rp (w : Warp) (n : BitVec 4) (k : Mask) (f : Fin 64 → PLane) : (setP w n k f).rp = w.rp := rfl
@[simp] theorem setP_stores (w : Warp) (n : BitVec 4) (k : Mask) (f : Fin 64 → PLane) : (setP w n k f).stores = w.stores := rfl
@[simp] theorem setP_unacked (w : Warp) (n : BitVec 4) (k : Mask) (f : Fin 64 → PLane) : (setP w n k f).unacked = w.unacked := rfl
@[simp] theorem setP_loads (w : Warp) (n : BitVec 4) (k : Mask) (f : Fin 64 → PLane) : (setP w n k f).loads = w.loads := rfl
@[simp] theorem setP_xp (w : Warp) (n : BitVec 4) (k : Mask) (f : Fin 64 → PLane) : (setP w n k f).xp = w.xp := rfl
@[simp] theorem setP_pushes (w : Warp) (n : BitVec 4) (k : Mask) (f : Fin 64 → PLane) : (setP w n k f).pushes = w.pushes := rfl
@[simp] theorem setP_matReq (w : Warp) (n : BitVec 4) (k : Mask) (f : Fin 64 → PLane) : (setP w n k f).matReq = w.matReq := rfl
@[simp] theorem setP_mat (w : Warp) (n : BitVec 4) (k : Mask) (f : Fin 64 → PLane) : (setP w n k f).mat = w.mat := rfl
@[simp] theorem setP_remotes (w : Warp) (n : BitVec 4) (k : Mask) (f : Fin 64 → PLane) : (setP w n k f).remotes = w.remotes := rfl
@[simp] theorem setP_late (w : Warp) (n : BitVec 4) (k : Mask) (f : Fin 64 → PLane) : (setP w n k f).late = w.late := rfl
@[simp] theorem setP_summary (w : Warp) (n : BitVec 4) (k : Mask) (f : Fin 64 → PLane) : (setP w n k f).summary = w.summary := rfl
@[simp] theorem setP_summaryDone (w : Warp) (n : BitVec 4) (k : Mask) (f : Fin 64 → PLane) : (setP w n k f).summaryDone = w.summaryDone := rfl
@[simp] theorem setP_faultSlot (w : Warp) (n : BitVec 4) (k : Mask) (f : Fin 64 → PLane) : (setP w n k f).faultSlot = w.faultSlot := rfl
@[simp] theorem setP_keys (w : Warp) (n : BitVec 4) (k : Mask) (f : Fin 64 → PLane) : (setP w n k f).keys = w.keys := rfl
@[simp] theorem setP_live (w : Warp) (n : BitVec 4) (k : Mask) (f : Fin 64 → PLane) : (setP w n k f).live = w.live := rfl
@[simp] theorem setP_keyPop (w : Warp) (n : BitVec 4) (k : Mask) (f : Fin 64 → PLane) : (setP w n k f).keyPop = w.keyPop := rfl
@[simp] theorem setP_detached (w : Warp) (n : BitVec 4) (k : Mask) (f : Fin 64 → PLane) : (setP w n k f).detached = w.detached := rfl
@[simp] theorem setP_attached (w : Warp) (n : BitVec 4) (k : Mask) (f : Fin 64 → PLane) : (setP w n k f).attached = w.attached := rfl
@[simp] theorem setP_since (w : Warp) (n : BitVec 4) (k : Mask) (f : Fin 64 → PLane) : (setP w n k f).since = w.since := rfl
@[simp] theorem setP_woken (w : Warp) (n : BitVec 4) (k : Mask) (f : Fin 64 → PLane) : (setP w n k f).woken = w.woken := rfl
@[simp] theorem setP_waited (w : Warp) (n : BitVec 4) (k : Mask) (f : Fin 64 → PLane) : (setP w n k f).waited = w.waited := rfl
@[simp] theorem setP_yields (w : Warp) (n : BitVec 4) (k : Mask) (f : Fin 64 → PLane) : (setP w n k f).yields = w.yields := rfl
@[simp] theorem setP_spilled (w : Warp) (n : BitVec 4) (k : Mask) (f : Fin 64 → PLane) : (setP w n k f).spilled = w.spilled := rfl
@[simp] theorem setP_away (w : Warp) (n : BitVec 4) (k : Mask) (f : Fin 64 → PLane) : (setP w n k f).away = w.away := rfl
@[simp] theorem setP_backing (w : Warp) (n : BitVec 4) (k : Mask) (f : Fin 64 → PLane) : (setP w n k f).backing = w.backing := rfl

/-! ### waiting -/

@[simp] theorem waiting_wid (w : Warp) (k : Park) : (waiting w k).wid = w.wid := rfl
@[simp] theorem waiting_ctx (w : Warp) (k : Park) : (waiting w k).ctx = w.ctx := rfl
@[simp] theorem waiting_bid (w : Warp) (k : Park) : (waiting w k).bid = w.bid := rfl
@[simp] theorem waiting_node (w : Warp) (k : Park) : (waiting w k).node = w.node := rfl
@[simp] theorem waiting_widx (w : Warp) (k : Park) : (waiting w k).widx = w.widx := rfl
@[simp] theorem waiting_stage (w : Warp) (k : Park) : (waiting w k).stage = w.stage := rfl
@[simp] theorem waiting_twin (w : Warp) (k : Park) : (waiting w k).twin = w.twin := rfl
@[simp] theorem waiting_rap (w : Warp) (k : Park) : (waiting w k).rap = w.rap := rfl
@[simp] theorem waiting_span (w : Warp) (k : Park) : (waiting w k).span = w.span := rfl
@[simp] theorem waiting_core (w : Warp) (k : Park) : (waiting w k).core = w.core := rfl
@[simp] theorem waiting_part (w : Warp) (k : Park) : (waiting w k).part = w.part := rfl
@[simp] theorem waiting_slot (w : Warp) (k : Park) : (waiting w k).slot = w.slot := rfl
@[simp] theorem waiting_pc (w : Warp) (k : Park) : (waiting w k).pc = w.pc := rfl
@[simp] theorem waiting_enter (w : Warp) (k : Park) : (waiting w k).enter = w.enter := rfl
@[simp] theorem waiting_clause (w : Warp) (k : Park) : (waiting w k).clause = w.clause := rfl
@[simp] theorem waiting_status (w : Warp) (k : Park) : (waiting w k).status = .parked k := rfl
@[simp] theorem waiting_v (w : Warp) (k : Park) : (waiting w k).v = w.v := rfl
@[simp] theorem waiting_claimed (w : Warp) (k : Park) : (waiting w k).claimed = w.claimed := rfl
@[simp] theorem waiting_p (w : Warp) (k : Park) : (waiting w k).p = w.p := rfl
@[simp] theorem waiting_s (w : Warp) (k : Park) : (waiting w k).s = w.s := rfl
@[simp] theorem waiting_h (w : Warp) (k : Park) : (waiting w k).h = w.h := rfl
@[simp] theorem waiting_acc (w : Warp) (k : Park) : (waiting w k).acc = w.acc := rfl
@[simp] theorem waiting_rowState (w : Warp) (k : Park) : (waiting w k).rowState = w.rowState := rfl
@[simp] theorem waiting_exec (w : Warp) (k : Park) : (waiting w k).exec = w.exec := rfl
@[simp] theorem waiting_mode (w : Warp) (k : Park) : (waiting w k).mode = w.mode := rfl
@[simp] theorem waiting_lr (w : Warp) (k : Park) : (waiting w k).lr = w.lr := rfl
@[simp] theorem waiting_lrhi (w : Warp) (k : Park) : (waiting w k).lrhi = w.lrhi := rfl
@[simp] theorem waiting_trapmask (w : Warp) (k : Park) : (waiting w k).trapmask = w.trapmask := rfl
@[simp] theorem waiting_replay (w : Warp) (k : Park) : (waiting w k).replay = w.replay := rfl
@[simp] theorem waiting_rowprog (w : Warp) (k : Park) : (waiting w k).rowprog = w.rowprog := rfl
@[simp] theorem waiting_rowResume (w : Warp) (k : Park) : (waiting w k).rowResume = w.rowResume := rfl
@[simp] theorem waiting_rowAt (w : Warp) (k : Park) : (waiting w k).rowAt = w.rowAt := rfl
@[simp] theorem waiting_accPend (w : Warp) (k : Park) : (waiting w k).accPend = w.accPend := rfl
@[simp] theorem waiting_zerocnt (w : Warp) (k : Park) : (waiting w k).zerocnt = w.zerocnt := rfl
@[simp] theorem waiting_porig (w : Warp) (k : Park) : (waiting w k).porig = w.porig := rfl
@[simp] theorem waiting_qsub (w : Warp) (k : Park) : (waiting w k).qsub = w.qsub := rfl
@[simp] theorem waiting_qpos (w : Warp) (k : Park) : (waiting w k).qpos = w.qpos := rfl
@[simp] theorem waiting_cycdl (w : Warp) (k : Park) : (waiting w k).cycdl = w.cycdl := rfl
@[simp] theorem waiting_walldl (w : Warp) (k : Park) : (waiting w k).walldl = w.walldl := rfl
@[simp] theorem waiting_cyc (w : Warp) (k : Park) : (waiting w k).cyc = w.cyc := rfl
@[simp] theorem waiting_flags (w : Warp) (k : Park) : (waiting w k).flags = w.flags := rfl
@[simp] theorem waiting_stack (w : Warp) (k : Park) : (waiting w k).stack = w.stack := rfl
@[simp] theorem waiting_floor (w : Warp) (k : Park) : (waiting w k).floor = w.floor := rfl
@[simp] theorem waiting_m (w : Warp) (k : Park) : (waiting w k).m = w.m := rfl
@[simp] theorem waiting_gone (w : Warp) (k : Park) : (waiting w k).gone = w.gone := rfl
@[simp] theorem waiting_rp (w : Warp) (k : Park) : (waiting w k).rp = w.rp := rfl
@[simp] theorem waiting_stores (w : Warp) (k : Park) : (waiting w k).stores = w.stores := rfl
@[simp] theorem waiting_unacked (w : Warp) (k : Park) : (waiting w k).unacked = w.unacked := rfl
@[simp] theorem waiting_loads (w : Warp) (k : Park) : (waiting w k).loads = w.loads := rfl
@[simp] theorem waiting_xp (w : Warp) (k : Park) : (waiting w k).xp = w.xp := rfl
@[simp] theorem waiting_pushes (w : Warp) (k : Park) : (waiting w k).pushes = w.pushes := rfl
@[simp] theorem waiting_matReq (w : Warp) (k : Park) : (waiting w k).matReq = w.matReq := rfl
@[simp] theorem waiting_mat (w : Warp) (k : Park) : (waiting w k).mat = w.mat := rfl
@[simp] theorem waiting_remotes (w : Warp) (k : Park) : (waiting w k).remotes = w.remotes := rfl
@[simp] theorem waiting_late (w : Warp) (k : Park) : (waiting w k).late = w.late := rfl
@[simp] theorem waiting_summary (w : Warp) (k : Park) : (waiting w k).summary = w.summary := rfl
@[simp] theorem waiting_summaryDone (w : Warp) (k : Park) : (waiting w k).summaryDone = w.summaryDone := rfl
@[simp] theorem waiting_faultSlot (w : Warp) (k : Park) : (waiting w k).faultSlot = w.faultSlot := rfl
@[simp] theorem waiting_keys (w : Warp) (k : Park) : (waiting w k).keys = w.keys := rfl
@[simp] theorem waiting_live (w : Warp) (k : Park) : (waiting w k).live = w.live := rfl
@[simp] theorem waiting_keyPop (w : Warp) (k : Park) : (waiting w k).keyPop = w.keyPop := rfl
@[simp] theorem waiting_detached (w : Warp) (k : Park) : (waiting w k).detached = w.detached := rfl
@[simp] theorem waiting_attached (w : Warp) (k : Park) : (waiting w k).attached = w.attached := rfl
@[simp] theorem waiting_waited (w : Warp) (k : Park) : (waiting w k).waited = w.waited := rfl
@[simp] theorem waiting_yields (w : Warp) (k : Park) : (waiting w k).yields = w.yields := rfl
@[simp] theorem waiting_spilled (w : Warp) (k : Park) : (waiting w k).spilled = w.spilled := rfl
@[simp] theorem waiting_away (w : Warp) (k : Park) : (waiting w k).away = w.away := rfl
@[simp] theorem waiting_backing (w : Warp) (k : Park) : (waiting w k).backing = w.backing := rfl

/-! ### flagInc -/

@[simp] theorem flagInc_wid (w : Warp) (f : Option (Fin 12)) : (flagInc w f).wid = w.wid := by cases f <;> rfl
@[simp] theorem flagInc_ctx (w : Warp) (f : Option (Fin 12)) : (flagInc w f).ctx = w.ctx := by cases f <;> rfl
@[simp] theorem flagInc_bid (w : Warp) (f : Option (Fin 12)) : (flagInc w f).bid = w.bid := by cases f <;> rfl
@[simp] theorem flagInc_node (w : Warp) (f : Option (Fin 12)) : (flagInc w f).node = w.node := by cases f <;> rfl
@[simp] theorem flagInc_widx (w : Warp) (f : Option (Fin 12)) : (flagInc w f).widx = w.widx := by cases f <;> rfl
@[simp] theorem flagInc_stage (w : Warp) (f : Option (Fin 12)) : (flagInc w f).stage = w.stage := by cases f <;> rfl
@[simp] theorem flagInc_twin (w : Warp) (f : Option (Fin 12)) : (flagInc w f).twin = w.twin := by cases f <;> rfl
@[simp] theorem flagInc_rap (w : Warp) (f : Option (Fin 12)) : (flagInc w f).rap = w.rap := by cases f <;> rfl
@[simp] theorem flagInc_span (w : Warp) (f : Option (Fin 12)) : (flagInc w f).span = w.span := by cases f <;> rfl
@[simp] theorem flagInc_core (w : Warp) (f : Option (Fin 12)) : (flagInc w f).core = w.core := by cases f <;> rfl
@[simp] theorem flagInc_part (w : Warp) (f : Option (Fin 12)) : (flagInc w f).part = w.part := by cases f <;> rfl
@[simp] theorem flagInc_slot (w : Warp) (f : Option (Fin 12)) : (flagInc w f).slot = w.slot := by cases f <;> rfl
@[simp] theorem flagInc_pc (w : Warp) (f : Option (Fin 12)) : (flagInc w f).pc = w.pc := by cases f <;> rfl
@[simp] theorem flagInc_enter (w : Warp) (f : Option (Fin 12)) : (flagInc w f).enter = w.enter := by cases f <;> rfl
@[simp] theorem flagInc_clause (w : Warp) (f : Option (Fin 12)) : (flagInc w f).clause = w.clause := by cases f <;> rfl
@[simp] theorem flagInc_status (w : Warp) (f : Option (Fin 12)) : (flagInc w f).status = w.status := by cases f <;> rfl
@[simp] theorem flagInc_v (w : Warp) (f : Option (Fin 12)) : (flagInc w f).v = w.v := by cases f <;> rfl
@[simp] theorem flagInc_claimed (w : Warp) (f : Option (Fin 12)) : (flagInc w f).claimed = w.claimed := by cases f <;> rfl
@[simp] theorem flagInc_p (w : Warp) (f : Option (Fin 12)) : (flagInc w f).p = w.p := by cases f <;> rfl
@[simp] theorem flagInc_s (w : Warp) (f : Option (Fin 12)) : (flagInc w f).s = w.s := by cases f <;> rfl
@[simp] theorem flagInc_h (w : Warp) (f : Option (Fin 12)) : (flagInc w f).h = w.h := by cases f <;> rfl
@[simp] theorem flagInc_acc (w : Warp) (f : Option (Fin 12)) : (flagInc w f).acc = w.acc := by cases f <;> rfl
@[simp] theorem flagInc_rowState (w : Warp) (f : Option (Fin 12)) : (flagInc w f).rowState = w.rowState := by cases f <;> rfl
@[simp] theorem flagInc_exec (w : Warp) (f : Option (Fin 12)) : (flagInc w f).exec = w.exec := by cases f <;> rfl
@[simp] theorem flagInc_mode (w : Warp) (f : Option (Fin 12)) : (flagInc w f).mode = w.mode := by cases f <;> rfl
@[simp] theorem flagInc_lr (w : Warp) (f : Option (Fin 12)) : (flagInc w f).lr = w.lr := by cases f <;> rfl
@[simp] theorem flagInc_lrhi (w : Warp) (f : Option (Fin 12)) : (flagInc w f).lrhi = w.lrhi := by cases f <;> rfl
@[simp] theorem flagInc_trapmask (w : Warp) (f : Option (Fin 12)) : (flagInc w f).trapmask = w.trapmask := by cases f <;> rfl
@[simp] theorem flagInc_replay (w : Warp) (f : Option (Fin 12)) : (flagInc w f).replay = w.replay := by cases f <;> rfl
@[simp] theorem flagInc_rowprog (w : Warp) (f : Option (Fin 12)) : (flagInc w f).rowprog = w.rowprog := by cases f <;> rfl
@[simp] theorem flagInc_rowResume (w : Warp) (f : Option (Fin 12)) : (flagInc w f).rowResume = w.rowResume := by cases f <;> rfl
@[simp] theorem flagInc_rowAt (w : Warp) (f : Option (Fin 12)) : (flagInc w f).rowAt = w.rowAt := by cases f <;> rfl
@[simp] theorem flagInc_accPend (w : Warp) (f : Option (Fin 12)) : (flagInc w f).accPend = w.accPend := by cases f <;> rfl
@[simp] theorem flagInc_zerocnt (w : Warp) (f : Option (Fin 12)) : (flagInc w f).zerocnt = w.zerocnt := by cases f <;> rfl
@[simp] theorem flagInc_porig (w : Warp) (f : Option (Fin 12)) : (flagInc w f).porig = w.porig := by cases f <;> rfl
@[simp] theorem flagInc_qsub (w : Warp) (f : Option (Fin 12)) : (flagInc w f).qsub = w.qsub := by cases f <;> rfl
@[simp] theorem flagInc_qpos (w : Warp) (f : Option (Fin 12)) : (flagInc w f).qpos = w.qpos := by cases f <;> rfl
@[simp] theorem flagInc_cycdl (w : Warp) (f : Option (Fin 12)) : (flagInc w f).cycdl = w.cycdl := by cases f <;> rfl
@[simp] theorem flagInc_walldl (w : Warp) (f : Option (Fin 12)) : (flagInc w f).walldl = w.walldl := by cases f <;> rfl
@[simp] theorem flagInc_cyc (w : Warp) (f : Option (Fin 12)) : (flagInc w f).cyc = w.cyc := by cases f <;> rfl
@[simp] theorem flagInc_stack (w : Warp) (f : Option (Fin 12)) : (flagInc w f).stack = w.stack := by cases f <;> rfl
@[simp] theorem flagInc_floor (w : Warp) (f : Option (Fin 12)) : (flagInc w f).floor = w.floor := by cases f <;> rfl
@[simp] theorem flagInc_m (w : Warp) (f : Option (Fin 12)) : (flagInc w f).m = w.m := by cases f <;> rfl
@[simp] theorem flagInc_gone (w : Warp) (f : Option (Fin 12)) : (flagInc w f).gone = w.gone := by cases f <;> rfl
@[simp] theorem flagInc_rp (w : Warp) (f : Option (Fin 12)) : (flagInc w f).rp = w.rp := by cases f <;> rfl
@[simp] theorem flagInc_stores (w : Warp) (f : Option (Fin 12)) : (flagInc w f).stores = w.stores := by cases f <;> rfl
@[simp] theorem flagInc_unacked (w : Warp) (f : Option (Fin 12)) : (flagInc w f).unacked = w.unacked := by cases f <;> rfl
@[simp] theorem flagInc_loads (w : Warp) (f : Option (Fin 12)) : (flagInc w f).loads = w.loads := by cases f <;> rfl
@[simp] theorem flagInc_xp (w : Warp) (f : Option (Fin 12)) : (flagInc w f).xp = w.xp := by cases f <;> rfl
@[simp] theorem flagInc_pushes (w : Warp) (f : Option (Fin 12)) : (flagInc w f).pushes = w.pushes := by cases f <;> rfl
@[simp] theorem flagInc_matReq (w : Warp) (f : Option (Fin 12)) : (flagInc w f).matReq = w.matReq := by cases f <;> rfl
@[simp] theorem flagInc_mat (w : Warp) (f : Option (Fin 12)) : (flagInc w f).mat = w.mat := by cases f <;> rfl
@[simp] theorem flagInc_remotes (w : Warp) (f : Option (Fin 12)) : (flagInc w f).remotes = w.remotes := by cases f <;> rfl
@[simp] theorem flagInc_late (w : Warp) (f : Option (Fin 12)) : (flagInc w f).late = w.late := by cases f <;> rfl
@[simp] theorem flagInc_summary (w : Warp) (f : Option (Fin 12)) : (flagInc w f).summary = w.summary := by cases f <;> rfl
@[simp] theorem flagInc_summaryDone (w : Warp) (f : Option (Fin 12)) : (flagInc w f).summaryDone = w.summaryDone := by cases f <;> rfl
@[simp] theorem flagInc_faultSlot (w : Warp) (f : Option (Fin 12)) : (flagInc w f).faultSlot = w.faultSlot := by cases f <;> rfl
@[simp] theorem flagInc_keys (w : Warp) (f : Option (Fin 12)) : (flagInc w f).keys = w.keys := by cases f <;> rfl
@[simp] theorem flagInc_live (w : Warp) (f : Option (Fin 12)) : (flagInc w f).live = w.live := by cases f <;> rfl
@[simp] theorem flagInc_keyPop (w : Warp) (f : Option (Fin 12)) : (flagInc w f).keyPop = w.keyPop := by cases f <;> rfl
@[simp] theorem flagInc_detached (w : Warp) (f : Option (Fin 12)) : (flagInc w f).detached = w.detached := by cases f <;> rfl
@[simp] theorem flagInc_attached (w : Warp) (f : Option (Fin 12)) : (flagInc w f).attached = w.attached := by cases f <;> rfl
@[simp] theorem flagInc_since (w : Warp) (f : Option (Fin 12)) : (flagInc w f).since = w.since := by cases f <;> rfl
@[simp] theorem flagInc_woken (w : Warp) (f : Option (Fin 12)) : (flagInc w f).woken = w.woken := by cases f <;> rfl
@[simp] theorem flagInc_waited (w : Warp) (f : Option (Fin 12)) : (flagInc w f).waited = w.waited := by cases f <;> rfl
@[simp] theorem flagInc_yields (w : Warp) (f : Option (Fin 12)) : (flagInc w f).yields = w.yields := by cases f <;> rfl
@[simp] theorem flagInc_spilled (w : Warp) (f : Option (Fin 12)) : (flagInc w f).spilled = w.spilled := by cases f <;> rfl
@[simp] theorem flagInc_away (w : Warp) (f : Option (Fin 12)) : (flagInc w f).away = w.away := by cases f <;> rfl
@[simp] theorem flagInc_backing (w : Warp) (f : Option (Fin 12)) : (flagInc w f).backing = w.backing := by cases f <;> rfl

/-! ### flagDec -/

@[simp] theorem flagDec_wid (w : Warp) (f : Option (Fin 12)) : (flagDec w f).wid = w.wid := by cases f <;> rfl
@[simp] theorem flagDec_ctx (w : Warp) (f : Option (Fin 12)) : (flagDec w f).ctx = w.ctx := by cases f <;> rfl
@[simp] theorem flagDec_bid (w : Warp) (f : Option (Fin 12)) : (flagDec w f).bid = w.bid := by cases f <;> rfl
@[simp] theorem flagDec_node (w : Warp) (f : Option (Fin 12)) : (flagDec w f).node = w.node := by cases f <;> rfl
@[simp] theorem flagDec_widx (w : Warp) (f : Option (Fin 12)) : (flagDec w f).widx = w.widx := by cases f <;> rfl
@[simp] theorem flagDec_stage (w : Warp) (f : Option (Fin 12)) : (flagDec w f).stage = w.stage := by cases f <;> rfl
@[simp] theorem flagDec_twin (w : Warp) (f : Option (Fin 12)) : (flagDec w f).twin = w.twin := by cases f <;> rfl
@[simp] theorem flagDec_rap (w : Warp) (f : Option (Fin 12)) : (flagDec w f).rap = w.rap := by cases f <;> rfl
@[simp] theorem flagDec_span (w : Warp) (f : Option (Fin 12)) : (flagDec w f).span = w.span := by cases f <;> rfl
@[simp] theorem flagDec_core (w : Warp) (f : Option (Fin 12)) : (flagDec w f).core = w.core := by cases f <;> rfl
@[simp] theorem flagDec_part (w : Warp) (f : Option (Fin 12)) : (flagDec w f).part = w.part := by cases f <;> rfl
@[simp] theorem flagDec_slot (w : Warp) (f : Option (Fin 12)) : (flagDec w f).slot = w.slot := by cases f <;> rfl
@[simp] theorem flagDec_pc (w : Warp) (f : Option (Fin 12)) : (flagDec w f).pc = w.pc := by cases f <;> rfl
@[simp] theorem flagDec_enter (w : Warp) (f : Option (Fin 12)) : (flagDec w f).enter = w.enter := by cases f <;> rfl
@[simp] theorem flagDec_clause (w : Warp) (f : Option (Fin 12)) : (flagDec w f).clause = w.clause := by cases f <;> rfl
@[simp] theorem flagDec_status (w : Warp) (f : Option (Fin 12)) : (flagDec w f).status = w.status := by cases f <;> rfl
@[simp] theorem flagDec_v (w : Warp) (f : Option (Fin 12)) : (flagDec w f).v = w.v := by cases f <;> rfl
@[simp] theorem flagDec_claimed (w : Warp) (f : Option (Fin 12)) : (flagDec w f).claimed = w.claimed := by cases f <;> rfl
@[simp] theorem flagDec_p (w : Warp) (f : Option (Fin 12)) : (flagDec w f).p = w.p := by cases f <;> rfl
@[simp] theorem flagDec_s (w : Warp) (f : Option (Fin 12)) : (flagDec w f).s = w.s := by cases f <;> rfl
@[simp] theorem flagDec_h (w : Warp) (f : Option (Fin 12)) : (flagDec w f).h = w.h := by cases f <;> rfl
@[simp] theorem flagDec_acc (w : Warp) (f : Option (Fin 12)) : (flagDec w f).acc = w.acc := by cases f <;> rfl
@[simp] theorem flagDec_rowState (w : Warp) (f : Option (Fin 12)) : (flagDec w f).rowState = w.rowState := by cases f <;> rfl
@[simp] theorem flagDec_exec (w : Warp) (f : Option (Fin 12)) : (flagDec w f).exec = w.exec := by cases f <;> rfl
@[simp] theorem flagDec_mode (w : Warp) (f : Option (Fin 12)) : (flagDec w f).mode = w.mode := by cases f <;> rfl
@[simp] theorem flagDec_lr (w : Warp) (f : Option (Fin 12)) : (flagDec w f).lr = w.lr := by cases f <;> rfl
@[simp] theorem flagDec_lrhi (w : Warp) (f : Option (Fin 12)) : (flagDec w f).lrhi = w.lrhi := by cases f <;> rfl
@[simp] theorem flagDec_trapmask (w : Warp) (f : Option (Fin 12)) : (flagDec w f).trapmask = w.trapmask := by cases f <;> rfl
@[simp] theorem flagDec_replay (w : Warp) (f : Option (Fin 12)) : (flagDec w f).replay = w.replay := by cases f <;> rfl
@[simp] theorem flagDec_rowprog (w : Warp) (f : Option (Fin 12)) : (flagDec w f).rowprog = w.rowprog := by cases f <;> rfl
@[simp] theorem flagDec_rowResume (w : Warp) (f : Option (Fin 12)) : (flagDec w f).rowResume = w.rowResume := by cases f <;> rfl
@[simp] theorem flagDec_rowAt (w : Warp) (f : Option (Fin 12)) : (flagDec w f).rowAt = w.rowAt := by cases f <;> rfl
@[simp] theorem flagDec_accPend (w : Warp) (f : Option (Fin 12)) : (flagDec w f).accPend = w.accPend := by cases f <;> rfl
@[simp] theorem flagDec_zerocnt (w : Warp) (f : Option (Fin 12)) : (flagDec w f).zerocnt = w.zerocnt := by cases f <;> rfl
@[simp] theorem flagDec_porig (w : Warp) (f : Option (Fin 12)) : (flagDec w f).porig = w.porig := by cases f <;> rfl
@[simp] theorem flagDec_qsub (w : Warp) (f : Option (Fin 12)) : (flagDec w f).qsub = w.qsub := by cases f <;> rfl
@[simp] theorem flagDec_qpos (w : Warp) (f : Option (Fin 12)) : (flagDec w f).qpos = w.qpos := by cases f <;> rfl
@[simp] theorem flagDec_cycdl (w : Warp) (f : Option (Fin 12)) : (flagDec w f).cycdl = w.cycdl := by cases f <;> rfl
@[simp] theorem flagDec_walldl (w : Warp) (f : Option (Fin 12)) : (flagDec w f).walldl = w.walldl := by cases f <;> rfl
@[simp] theorem flagDec_cyc (w : Warp) (f : Option (Fin 12)) : (flagDec w f).cyc = w.cyc := by cases f <;> rfl
@[simp] theorem flagDec_stack (w : Warp) (f : Option (Fin 12)) : (flagDec w f).stack = w.stack := by cases f <;> rfl
@[simp] theorem flagDec_floor (w : Warp) (f : Option (Fin 12)) : (flagDec w f).floor = w.floor := by cases f <;> rfl
@[simp] theorem flagDec_m (w : Warp) (f : Option (Fin 12)) : (flagDec w f).m = w.m := by cases f <;> rfl
@[simp] theorem flagDec_gone (w : Warp) (f : Option (Fin 12)) : (flagDec w f).gone = w.gone := by cases f <;> rfl
@[simp] theorem flagDec_rp (w : Warp) (f : Option (Fin 12)) : (flagDec w f).rp = w.rp := by cases f <;> rfl
@[simp] theorem flagDec_stores (w : Warp) (f : Option (Fin 12)) : (flagDec w f).stores = w.stores := by cases f <;> rfl
@[simp] theorem flagDec_unacked (w : Warp) (f : Option (Fin 12)) : (flagDec w f).unacked = w.unacked := by cases f <;> rfl
@[simp] theorem flagDec_loads (w : Warp) (f : Option (Fin 12)) : (flagDec w f).loads = w.loads := by cases f <;> rfl
@[simp] theorem flagDec_xp (w : Warp) (f : Option (Fin 12)) : (flagDec w f).xp = w.xp := by cases f <;> rfl
@[simp] theorem flagDec_pushes (w : Warp) (f : Option (Fin 12)) : (flagDec w f).pushes = w.pushes := by cases f <;> rfl
@[simp] theorem flagDec_matReq (w : Warp) (f : Option (Fin 12)) : (flagDec w f).matReq = w.matReq := by cases f <;> rfl
@[simp] theorem flagDec_mat (w : Warp) (f : Option (Fin 12)) : (flagDec w f).mat = w.mat := by cases f <;> rfl
@[simp] theorem flagDec_remotes (w : Warp) (f : Option (Fin 12)) : (flagDec w f).remotes = w.remotes := by cases f <;> rfl
@[simp] theorem flagDec_late (w : Warp) (f : Option (Fin 12)) : (flagDec w f).late = w.late := by cases f <;> rfl
@[simp] theorem flagDec_summary (w : Warp) (f : Option (Fin 12)) : (flagDec w f).summary = w.summary := by cases f <;> rfl
@[simp] theorem flagDec_summaryDone (w : Warp) (f : Option (Fin 12)) : (flagDec w f).summaryDone = w.summaryDone := by cases f <;> rfl
@[simp] theorem flagDec_faultSlot (w : Warp) (f : Option (Fin 12)) : (flagDec w f).faultSlot = w.faultSlot := by cases f <;> rfl
@[simp] theorem flagDec_keys (w : Warp) (f : Option (Fin 12)) : (flagDec w f).keys = w.keys := by cases f <;> rfl
@[simp] theorem flagDec_live (w : Warp) (f : Option (Fin 12)) : (flagDec w f).live = w.live := by cases f <;> rfl
@[simp] theorem flagDec_keyPop (w : Warp) (f : Option (Fin 12)) : (flagDec w f).keyPop = w.keyPop := by cases f <;> rfl
@[simp] theorem flagDec_detached (w : Warp) (f : Option (Fin 12)) : (flagDec w f).detached = w.detached := by cases f <;> rfl
@[simp] theorem flagDec_attached (w : Warp) (f : Option (Fin 12)) : (flagDec w f).attached = w.attached := by cases f <;> rfl
@[simp] theorem flagDec_since (w : Warp) (f : Option (Fin 12)) : (flagDec w f).since = w.since := by cases f <;> rfl
@[simp] theorem flagDec_woken (w : Warp) (f : Option (Fin 12)) : (flagDec w f).woken = w.woken := by cases f <;> rfl
@[simp] theorem flagDec_waited (w : Warp) (f : Option (Fin 12)) : (flagDec w f).waited = w.waited := by cases f <;> rfl
@[simp] theorem flagDec_yields (w : Warp) (f : Option (Fin 12)) : (flagDec w f).yields = w.yields := by cases f <;> rfl
@[simp] theorem flagDec_spilled (w : Warp) (f : Option (Fin 12)) : (flagDec w f).spilled = w.spilled := by cases f <;> rfl
@[simp] theorem flagDec_away (w : Warp) (f : Option (Fin 12)) : (flagDec w f).away = w.away := by cases f <;> rfl
@[simp] theorem flagDec_backing (w : Warp) (f : Option (Fin 12)) : (flagDec w f).backing = w.backing := by cases f <;> rfl

/-! ### advance -/

@[simp] theorem advance_w (s : State) : (advance s).w = stepOver s.w := rfl
@[simp] theorem advance_b (s : State) : (advance s).b = s.b := rfl
@[simp] theorem advance_x (s : State) : (advance s).x = s.x := rfl
@[simp] theorem advance_warps (s : State) : (advance s).warps = s.warps := rfl
@[simp] theorem advance_blocks (s : State) : (advance s).blocks = s.blocks := rfl
@[simp] theorem advance_ctxs (s : State) : (advance s).ctxs = s.ctxs := rfl
@[simp] theorem advance_cores (s : State) : (advance s).cores = s.cores := rfl
@[simp] theorem advance_engines (s : State) : (advance s).engines = s.engines := rfl
@[simp] theorem advance_cmds (s : State) : (advance s).cmds = s.cmds := rfl
@[simp] theorem advance_m (s : State) : (advance s).m = s.m := rfl
@[simp] theorem advance_hub (s : State) : (advance s).hub = s.hub := rfl
@[simp] theorem advance_fab (s : State) : (advance s).fab = s.fab := rfl
@[simp] theorem advance_clk (s : State) : (advance s).clk = s.clk := rfl
@[simp] theorem advance_inbox (s : State) : (advance s).inbox = s.inbox := rfl
@[simp] theorem advance_turn (s : State) : (advance s).turn = s.turn := rfl
@[simp] theorem advance_pick (s : State) : (advance s).pick = s.pick := rfl
@[simp] theorem advance_picked (s : State) : (advance s).picked = s.picked := rfl
@[simp] theorem advance_grantAt (s : State) : (advance s).grantAt = s.grantAt := rfl

/-! ### setHandle -/

@[simp] theorem setHandle_b (s : State) (n : BitVec 4) (k : Handle) : (setHandle s n k).b = s.b := rfl
@[simp] theorem setHandle_x (s : State) (n : BitVec 4) (k : Handle) : (setHandle s n k).x = s.x := rfl
@[simp] theorem setHandle_warps (s : State) (n : BitVec 4) (k : Handle) : (setHandle s n k).warps = s.warps := rfl
@[simp] theorem setHandle_blocks (s : State) (n : BitVec 4) (k : Handle) : (setHandle s n k).blocks = s.blocks := rfl
@[simp] theorem setHandle_ctxs (s : State) (n : BitVec 4) (k : Handle) : (setHandle s n k).ctxs = s.ctxs := rfl
@[simp] theorem setHandle_cores (s : State) (n : BitVec 4) (k : Handle) : (setHandle s n k).cores = s.cores := rfl
@[simp] theorem setHandle_engines (s : State) (n : BitVec 4) (k : Handle) : (setHandle s n k).engines = s.engines := rfl
@[simp] theorem setHandle_cmds (s : State) (n : BitVec 4) (k : Handle) : (setHandle s n k).cmds = s.cmds := rfl
@[simp] theorem setHandle_m (s : State) (n : BitVec 4) (k : Handle) : (setHandle s n k).m = s.m := rfl
@[simp] theorem setHandle_hub (s : State) (n : BitVec 4) (k : Handle) : (setHandle s n k).hub = s.hub := rfl
@[simp] theorem setHandle_fab (s : State) (n : BitVec 4) (k : Handle) : (setHandle s n k).fab = s.fab := rfl
@[simp] theorem setHandle_clk (s : State) (n : BitVec 4) (k : Handle) : (setHandle s n k).clk = s.clk := rfl
@[simp] theorem setHandle_inbox (s : State) (n : BitVec 4) (k : Handle) : (setHandle s n k).inbox = s.inbox := rfl
@[simp] theorem setHandle_turn (s : State) (n : BitVec 4) (k : Handle) : (setHandle s n k).turn = s.turn := rfl
@[simp] theorem setHandle_pick (s : State) (n : BitVec 4) (k : Handle) : (setHandle s n k).pick = s.pick := rfl
@[simp] theorem setHandle_picked (s : State) (n : BitVec 4) (k : Handle) : (setHandle s n k).picked = s.picked := rfl
@[simp] theorem setHandle_grantAt (s : State) (n : BitVec 4) (k : Handle) : (setHandle s n k).grantAt = s.grantAt := rfl

/-! ### mapWarps -/

@[simp] theorem mapWarps_w (s : State) (f : Warp → Warp) : (mapWarps s f).w = f s.w := rfl
@[simp] theorem mapWarps_b (s : State) (f : Warp → Warp) : (mapWarps s f).b = s.b := rfl
@[simp] theorem mapWarps_x (s : State) (f : Warp → Warp) : (mapWarps s f).x = s.x := rfl
@[simp] theorem mapWarps_warps (s : State) (f : Warp → Warp) : (mapWarps s f).warps = s.warps.map f := rfl
@[simp] theorem mapWarps_blocks (s : State) (f : Warp → Warp) : (mapWarps s f).blocks = s.blocks := rfl
@[simp] theorem mapWarps_ctxs (s : State) (f : Warp → Warp) : (mapWarps s f).ctxs = s.ctxs := rfl
@[simp] theorem mapWarps_cores (s : State) (f : Warp → Warp) : (mapWarps s f).cores = s.cores := rfl
@[simp] theorem mapWarps_engines (s : State) (f : Warp → Warp) : (mapWarps s f).engines = s.engines := rfl
@[simp] theorem mapWarps_cmds (s : State) (f : Warp → Warp) : (mapWarps s f).cmds = s.cmds := rfl
@[simp] theorem mapWarps_m (s : State) (f : Warp → Warp) : (mapWarps s f).m = s.m := rfl
@[simp] theorem mapWarps_hub (s : State) (f : Warp → Warp) : (mapWarps s f).hub = s.hub := rfl
@[simp] theorem mapWarps_fab (s : State) (f : Warp → Warp) : (mapWarps s f).fab = s.fab := rfl
@[simp] theorem mapWarps_clk (s : State) (f : Warp → Warp) : (mapWarps s f).clk = s.clk := rfl
@[simp] theorem mapWarps_inbox (s : State) (f : Warp → Warp) : (mapWarps s f).inbox = s.inbox := rfl
@[simp] theorem mapWarps_turn (s : State) (f : Warp → Warp) : (mapWarps s f).turn = s.turn := rfl
@[simp] theorem mapWarps_pick (s : State) (f : Warp → Warp) : (mapWarps s f).pick = s.pick := rfl
@[simp] theorem mapWarps_picked (s : State) (f : Warp → Warp) : (mapWarps s f).picked = s.picked := rfl
@[simp] theorem mapWarps_grantAt (s : State) (f : Warp → Warp) : (mapWarps s f).grantAt = s.grantAt := rfl

/-! ### mapBlocks -/

@[simp] theorem mapBlocks_w (s : State) (f : Block → Block) : (mapBlocks s f).w = s.w := rfl
@[simp] theorem mapBlocks_b (s : State) (f : Block → Block) : (mapBlocks s f).b = f s.b := rfl
@[simp] theorem mapBlocks_x (s : State) (f : Block → Block) : (mapBlocks s f).x = s.x := rfl
@[simp] theorem mapBlocks_warps (s : State) (f : Block → Block) : (mapBlocks s f).warps = s.warps := rfl
@[simp] theorem mapBlocks_blocks (s : State) (f : Block → Block) : (mapBlocks s f).blocks = s.blocks.map f := rfl
@[simp] theorem mapBlocks_ctxs (s : State) (f : Block → Block) : (mapBlocks s f).ctxs = s.ctxs := rfl
@[simp] theorem mapBlocks_cores (s : State) (f : Block → Block) : (mapBlocks s f).cores = s.cores := rfl
@[simp] theorem mapBlocks_engines (s : State) (f : Block → Block) : (mapBlocks s f).engines = s.engines := rfl
@[simp] theorem mapBlocks_cmds (s : State) (f : Block → Block) : (mapBlocks s f).cmds = s.cmds := rfl
@[simp] theorem mapBlocks_m (s : State) (f : Block → Block) : (mapBlocks s f).m = s.m := rfl
@[simp] theorem mapBlocks_hub (s : State) (f : Block → Block) : (mapBlocks s f).hub = s.hub := rfl
@[simp] theorem mapBlocks_fab (s : State) (f : Block → Block) : (mapBlocks s f).fab = s.fab := rfl
@[simp] theorem mapBlocks_clk (s : State) (f : Block → Block) : (mapBlocks s f).clk = s.clk := rfl
@[simp] theorem mapBlocks_inbox (s : State) (f : Block → Block) : (mapBlocks s f).inbox = s.inbox := rfl
@[simp] theorem mapBlocks_turn (s : State) (f : Block → Block) : (mapBlocks s f).turn = s.turn := rfl
@[simp] theorem mapBlocks_pick (s : State) (f : Block → Block) : (mapBlocks s f).pick = s.pick := rfl
@[simp] theorem mapBlocks_picked (s : State) (f : Block → Block) : (mapBlocks s f).picked = s.picked := rfl
@[simp] theorem mapBlocks_grantAt (s : State) (f : Block → Block) : (mapBlocks s f).grantAt = s.grantAt := rfl

/-! ### mapCtxs -/

@[simp] theorem mapCtxs_w (s : State) (f : Ctx → Ctx) : (mapCtxs s f).w = s.w := rfl
@[simp] theorem mapCtxs_b (s : State) (f : Ctx → Ctx) : (mapCtxs s f).b = s.b := rfl
@[simp] theorem mapCtxs_x (s : State) (f : Ctx → Ctx) : (mapCtxs s f).x = f s.x := rfl
@[simp] theorem mapCtxs_warps (s : State) (f : Ctx → Ctx) : (mapCtxs s f).warps = s.warps := rfl
@[simp] theorem mapCtxs_blocks (s : State) (f : Ctx → Ctx) : (mapCtxs s f).blocks = s.blocks := rfl
@[simp] theorem mapCtxs_ctxs (s : State) (f : Ctx → Ctx) : (mapCtxs s f).ctxs = s.ctxs.map f := rfl
@[simp] theorem mapCtxs_cores (s : State) (f : Ctx → Ctx) : (mapCtxs s f).cores = s.cores := rfl
@[simp] theorem mapCtxs_engines (s : State) (f : Ctx → Ctx) : (mapCtxs s f).engines = s.engines := rfl
@[simp] theorem mapCtxs_cmds (s : State) (f : Ctx → Ctx) : (mapCtxs s f).cmds = s.cmds := rfl
@[simp] theorem mapCtxs_m (s : State) (f : Ctx → Ctx) : (mapCtxs s f).m = s.m := rfl
@[simp] theorem mapCtxs_hub (s : State) (f : Ctx → Ctx) : (mapCtxs s f).hub = s.hub := rfl
@[simp] theorem mapCtxs_fab (s : State) (f : Ctx → Ctx) : (mapCtxs s f).fab = s.fab := rfl
@[simp] theorem mapCtxs_clk (s : State) (f : Ctx → Ctx) : (mapCtxs s f).clk = s.clk := rfl
@[simp] theorem mapCtxs_inbox (s : State) (f : Ctx → Ctx) : (mapCtxs s f).inbox = s.inbox := rfl
@[simp] theorem mapCtxs_turn (s : State) (f : Ctx → Ctx) : (mapCtxs s f).turn = s.turn := rfl
@[simp] theorem mapCtxs_pick (s : State) (f : Ctx → Ctx) : (mapCtxs s f).pick = s.pick := rfl
@[simp] theorem mapCtxs_picked (s : State) (f : Ctx → Ctx) : (mapCtxs s f).picked = s.picked := rfl
@[simp] theorem mapCtxs_grantAt (s : State) (f : Ctx → Ctx) : (mapCtxs s f).grantAt = s.grantAt := rfl

/-! ### post -/

@[simp] theorem post_w (s : State) (i : Instr) : (post s i).w = s.w := rfl
@[simp] theorem post_b (s : State) (i : Instr) : (post s i).b = s.b := rfl
@[simp] theorem post_x (s : State) (i : Instr) : (post s i).x = s.x := rfl
@[simp] theorem post_warps (s : State) (i : Instr) : (post s i).warps = s.warps := rfl
@[simp] theorem post_blocks (s : State) (i : Instr) : (post s i).blocks = s.blocks := rfl
@[simp] theorem post_ctxs (s : State) (i : Instr) : (post s i).ctxs = s.ctxs := rfl
@[simp] theorem post_cores (s : State) (i : Instr) : (post s i).cores = s.cores := rfl
@[simp] theorem post_engines (s : State) (i : Instr) : (post s i).engines = s.engines := rfl
@[simp] theorem post_cmds (s : State) (i : Instr) : (post s i).cmds = s.cmds := rfl
@[simp] theorem post_m (s : State) (i : Instr) : (post s i).m = s.m := rfl
@[simp] theorem post_hub (s : State) (i : Instr) : (post s i).hub = s.hub := rfl
@[simp] theorem post_fab (s : State) (i : Instr) : (post s i).fab = s.fab := rfl
@[simp] theorem post_clk (s : State) (i : Instr) : (post s i).clk = s.clk := rfl
@[simp] theorem post_inbox (s : State) (i : Instr) : (post s i).inbox = s.inbox ++ [i] := rfl
@[simp] theorem post_turn (s : State) (i : Instr) : (post s i).turn = s.turn := rfl
@[simp] theorem post_pick (s : State) (i : Instr) : (post s i).pick = s.pick := rfl
@[simp] theorem post_picked (s : State) (i : Instr) : (post s i).picked = s.picked := rfl
@[simp] theorem post_grantAt (s : State) (i : Instr) : (post s i).grantAt = s.grantAt := rfl

/-! ### sendOut -/

@[simp] theorem sendOut_w (s : State) (k : Message) : (sendOut s k).w = s.w := rfl
@[simp] theorem sendOut_b (s : State) (k : Message) : (sendOut s k).b = s.b := rfl
@[simp] theorem sendOut_x (s : State) (k : Message) : (sendOut s k).x = s.x := rfl
@[simp] theorem sendOut_warps (s : State) (k : Message) : (sendOut s k).warps = s.warps := rfl
@[simp] theorem sendOut_blocks (s : State) (k : Message) : (sendOut s k).blocks = s.blocks := rfl
@[simp] theorem sendOut_ctxs (s : State) (k : Message) : (sendOut s k).ctxs = s.ctxs := rfl
@[simp] theorem sendOut_cores (s : State) (k : Message) : (sendOut s k).cores = s.cores := rfl
@[simp] theorem sendOut_engines (s : State) (k : Message) : (sendOut s k).engines = s.engines := rfl
@[simp] theorem sendOut_cmds (s : State) (k : Message) : (sendOut s k).cmds = s.cmds := rfl
@[simp] theorem sendOut_m (s : State) (k : Message) : (sendOut s k).m = s.m := rfl
@[simp] theorem sendOut_hub (s : State) (k : Message) : (sendOut s k).hub = s.hub := rfl
@[simp] theorem sendOut_clk (s : State) (k : Message) : (sendOut s k).clk = s.clk := rfl
@[simp] theorem sendOut_inbox (s : State) (k : Message) : (sendOut s k).inbox = s.inbox := rfl
@[simp] theorem sendOut_turn (s : State) (k : Message) : (sendOut s k).turn = s.turn := rfl
@[simp] theorem sendOut_pick (s : State) (k : Message) : (sendOut s k).pick = s.pick := rfl
@[simp] theorem sendOut_picked (s : State) (k : Message) : (sendOut s k).picked = s.picked := rfl
@[simp] theorem sendOut_grantAt (s : State) (k : Message) : (sendOut s k).grantAt = s.grantAt := rfl
@[simp] theorem sendOut_fab_standby (s : State) (k : Message) : (sendOut s k).fab.standby = s.fab.standby := rfl
@[simp] theorem sendOut_fab_mate (s : State) (k : Message) : (sendOut s k).fab.mate = s.fab.mate := rfl
@[simp] theorem sendOut_fab_bridge (s : State) (k : Message) : (sendOut s k).fab.bridge = s.fab.bridge := rfl
@[simp] theorem sendOut_fab_fm (s : State) (k : Message) : (sendOut s k).fab.fm = s.fab.fm := rfl
@[simp] theorem sendOut_fab_ident (s : State) (k : Message) : (sendOut s k).fab.ident = s.fab.ident := rfl
@[simp] theorem sendOut_fab_vertex (s : State) (k : Message) : (sendOut s k).fab.vertex = s.fab.vertex := rfl
@[simp] theorem sendOut_fab_cfgErr (s : State) (k : Message) : (sendOut s k).fab.cfgErr = s.fab.cfgErr := rfl
@[simp] theorem sendOut_fab_rnrlimit (s : State) (k : Message) : (sendOut s k).fab.rnrlimit = s.fab.rnrlimit := rfl
@[simp] theorem sendOut_fab_adth (s : State) (k : Message) : (sendOut s k).fab.adth = s.fab.adth := rfl
@[simp] theorem sendOut_fab_buddy (s : State) (k : Message) : (sendOut s k).fab.buddy = s.fab.buddy := rfl
@[simp] theorem sendOut_fab_fmid (s : State) (k : Message) : (sendOut s k).fab.fmid = s.fab.fmid := rfl
@[simp] theorem sendOut_fab_brid (s : State) (k : Message) : (sendOut s k).fab.brid = s.fab.brid := rfl
@[simp] theorem sendOut_fab_domain (s : State) (k : Message) : (sendOut s k).fab.domain = s.fab.domain := rfl
@[simp] theorem sendOut_fab_stale (s : State) (k : Message) : (sendOut s k).fab.stale = s.fab.stale := rfl
@[simp] theorem sendOut_fab_ports (s : State) (k : Message) : (sendOut s k).fab.ports = s.fab.ports := rfl
@[simp] theorem sendOut_fab_loc (s : State) (k : Message) : (sendOut s k).fab.loc = s.fab.loc := rfl
@[simp] theorem sendOut_fab_route (s : State) (k : Message) : (sendOut s k).fab.route = s.fab.route := rfl
@[simp] theorem sendOut_fab_windows (s : State) (k : Message) : (sendOut s k).fab.windows = s.fab.windows := rfl
@[simp] theorem sendOut_fab_flows (s : State) (k : Message) : (sendOut s k).fab.flows = s.fab.flows := rfl
@[simp] theorem sendOut_fab_mcast (s : State) (k : Message) : (sendOut s k).fab.mcast = s.fab.mcast := rfl
@[simp] theorem sendOut_fab_multicasts (s : State) (k : Message) : (sendOut s k).fab.multicasts = s.fab.multicasts := rfl
@[simp] theorem sendOut_fab_parked (s : State) (k : Message) : (sendOut s k).fab.parked = s.fab.parked := rfl
@[simp] theorem sendOut_fab_partials (s : State) (k : Message) : (sendOut s k).fab.partials = s.fab.partials := rfl
@[simp] theorem sendOut_fab_copied (s : State) (k : Message) : (sendOut s k).fab.copied = s.fab.copied := rfl

/-! ### putNode -/

@[simp] theorem putNode_w (s : State) (k : Node) : (putNode s k).w = s.w := rfl
@[simp] theorem putNode_b (s : State) (k : Node) : (putNode s k).b = s.b := rfl
@[simp] theorem putNode_x (s : State) (k : Node) : (putNode s k).x = s.x := rfl
@[simp] theorem putNode_warps (s : State) (k : Node) : (putNode s k).warps = s.warps := rfl
@[simp] theorem putNode_blocks (s : State) (k : Node) : (putNode s k).blocks = s.blocks := rfl
@[simp] theorem putNode_ctxs (s : State) (k : Node) : (putNode s k).ctxs = s.ctxs := rfl
@[simp] theorem putNode_cores (s : State) (k : Node) : (putNode s k).cores = s.cores := rfl
@[simp] theorem putNode_engines (s : State) (k : Node) : (putNode s k).engines = s.engines := rfl
@[simp] theorem putNode_cmds (s : State) (k : Node) : (putNode s k).cmds = s.cmds := rfl
@[simp] theorem putNode_m (s : State) (k : Node) : (putNode s k).m = s.m := rfl
@[simp] theorem putNode_fab (s : State) (k : Node) : (putNode s k).fab = s.fab := rfl
@[simp] theorem putNode_clk (s : State) (k : Node) : (putNode s k).clk = s.clk := rfl
@[simp] theorem putNode_inbox (s : State) (k : Node) : (putNode s k).inbox = s.inbox := rfl
@[simp] theorem putNode_turn (s : State) (k : Node) : (putNode s k).turn = s.turn := rfl
@[simp] theorem putNode_pick (s : State) (k : Node) : (putNode s k).pick = s.pick := rfl
@[simp] theorem putNode_picked (s : State) (k : Node) : (putNode s k).picked = s.picked := rfl
@[simp] theorem putNode_grantAt (s : State) (k : Node) : (putNode s k).grantAt = s.grantAt := rfl
@[simp] theorem putNode_hub_stage (s : State) (k : Node) : (putNode s k).hub.stage = s.hub.stage := rfl
@[simp] theorem putNode_hub_fail (s : State) (k : Node) : (putNode s k).hub.fail = s.hub.fail := rfl
@[simp] theorem putNode_hub_flow (s : State) (k : Node) : (putNode s k).hub.flow = s.hub.flow := rfl
@[simp] theorem putNode_hub_bootWaits (s : State) (k : Node) : (putNode s k).hub.bootWaits = s.hub.bootWaits := rfl
@[simp] theorem putNode_hub_ctxbase (s : State) (k : Node) : (putNode s k).hub.ctxbase = s.hub.ctxbase := rfl
@[simp] theorem putNode_hub_qtbase (s : State) (k : Node) : (putNode s k).hub.qtbase = s.hub.qtbase := rfl
@[simp] theorem putNode_hub_qctl (s : State) (k : Node) : (putNode s k).hub.qctl = s.hub.qctl := rfl
@[simp] theorem putNode_hub_ctxctl (s : State) (k : Node) : (putNode s k).hub.ctxctl = s.hub.ctxctl := rfl
@[simp] theorem putNode_hub_gangcfg (s : State) (k : Node) : (putNode s k).hub.gangcfg = s.hub.gangcfg := rfl
@[simp] theorem putNode_hub_jhead (s : State) (k : Node) : (putNode s k).hub.jhead = s.hub.jhead := rfl
@[simp] theorem putNode_hub_jtail (s : State) (k : Node) : (putNode s k).hub.jtail = s.hub.jtail := rfl
@[simp] theorem putNode_hub_stopped (s : State) (k : Node) : (putNode s k).hub.stopped = s.hub.stopped := rfl
@[simp] theorem putNode_hub_xva0 (s : State) (k : Node) : (putNode s k).hub.xva0 = s.hub.xva0 := rfl
@[simp] theorem putNode_hub_xva1 (s : State) (k : Node) : (putNode s k).hub.xva1 = s.hub.xva1 := rfl
@[simp] theorem putNode_hub_xcnt (s : State) (k : Node) : (putNode s k).hub.xcnt = s.hub.xcnt := rfl
@[simp] theorem putNode_hub_xarg (s : State) (k : Node) : (putNode s k).hub.xarg = s.hub.xarg := rfl
@[simp] theorem putNode_hub_xctl (s : State) (k : Node) : (putNode s k).hub.xctl = s.hub.xctl := rfl
@[simp] theorem putNode_hub_xdone (s : State) (k : Node) : (putNode s k).hub.xdone = s.hub.xdone := rfl
@[simp] theorem putNode_hub_xsplit (s : State) (k : Node) : (putNode s k).hub.xsplit = s.hub.xsplit := rfl
@[simp] theorem putNode_hub_xtodo (s : State) (k : Node) : (putNode s k).hub.xtodo = s.hub.xtodo := rfl
@[simp] theorem putNode_hub_xspans (s : State) (k : Node) : (putNode s k).hub.xspans = s.hub.xspans := rfl
@[simp] theorem putNode_hub_ckptcfg (s : State) (k : Node) : (putNode s k).hub.ckptcfg = s.hub.ckptcfg := rfl
@[simp] theorem putNode_hub_ckptNext (s : State) (k : Node) : (putNode s k).hub.ckptNext = s.hub.ckptNext := rfl
@[simp] theorem putNode_hub_lastCommit (s : State) (k : Node) : (putNode s k).hub.lastCommit = s.hub.lastCommit := rfl
@[simp] theorem putNode_hub_incarn (s : State) (k : Node) : (putNode s k).hub.incarn = s.hub.incarn := rfl
@[simp] theorem putNode_hub_rebuild (s : State) (k : Node) : (putNode s k).hub.rebuild = s.hub.rebuild := rfl
@[simp] theorem putNode_hub_ckptErr (s : State) (k : Node) : (putNode s k).hub.ckptErr = s.hub.ckptErr := rfl
@[simp] theorem putNode_hub_sound (s : State) (k : Node) : (putNode s k).hub.sound = s.hub.sound := rfl
@[simp] theorem putNode_hub_cutting (s : State) (k : Node) : (putNode s k).hub.cutting = s.hub.cutting := rfl
@[simp] theorem putNode_hub_cutReported (s : State) (k : Node) : (putNode s k).hub.cutReported = s.hub.cutReported := rfl
@[simp] theorem putNode_hub_saved (s : State) (k : Node) : (putNode s k).hub.saved = s.hub.saved := rfl
@[simp] theorem putNode_hub_votesDue (s : State) (k : Node) : (putNode s k).hub.votesDue = s.hub.votesDue := rfl
@[simp] theorem putNode_hub_cutsDone (s : State) (k : Node) : (putNode s k).hub.cutsDone = s.hub.cutsDone := rfl
@[simp] theorem putNode_hub_votes (s : State) (k : Node) : (putNode s k).hub.votes = s.hub.votes := rfl
@[simp] theorem putNode_hub_lastCut (s : State) (k : Node) : (putNode s k).hub.lastCut = s.hub.lastCut := rfl
@[simp] theorem putNode_hub_mirrorPending (s : State) (k : Node) : (putNode s k).hub.mirrorPending = s.hub.mirrorPending := rfl
@[simp] theorem putNode_hub_mirrorQueue (s : State) (k : Node) : (putNode s k).hub.mirrorQueue = s.hub.mirrorQueue := rfl
@[simp] theorem putNode_hub_mirrorSent (s : State) (k : Node) : (putNode s k).hub.mirrorSent = s.hub.mirrorSent := rfl
@[simp] theorem putNode_hub_mirrorNew (s : State) (k : Node) : (putNode s k).hub.mirrorNew = s.hub.mirrorNew := rfl
@[simp] theorem putNode_hub_mirrorOld (s : State) (k : Node) : (putNode s k).hub.mirrorOld = s.hub.mirrorOld := rfl
@[simp] theorem putNode_hub_copying (s : State) (k : Node) : (putNode s k).hub.copying = s.hub.copying := rfl
@[simp] theorem putNode_hub_awaited (s : State) (k : Node) : (putNode s k).hub.awaited = s.hub.awaited := rfl
@[simp] theorem putNode_hub_frail (s : State) (k : Node) : (putNode s k).hub.frail = s.hub.frail := rfl
@[simp] theorem putNode_hub_fatals (s : State) (k : Node) : (putNode s k).hub.fatals = s.hub.fatals := rfl
@[simp] theorem putNode_hub_cutNumber (s : State) (k : Node) : (putNode s k).hub.cutNumber = s.hub.cutNumber := rfl
@[simp] theorem putNode_hub_beats (s : State) (k : Node) : (putNode s k).hub.beats = s.hub.beats := rfl
@[simp] theorem putNode_hub_lastBeat (s : State) (k : Node) : (putNode s k).hub.lastBeat = s.hub.lastBeat := rfl
@[simp] theorem putNode_hub_fatal (s : State) (k : Node) : (putNode s k).hub.fatal = s.hub.fatal := rfl
@[simp] theorem putNode_hub_queues (s : State) (k : Node) : (putNode s k).hub.queues = s.hub.queues := rfl
@[simp] theorem putNode_hub_turn (s : State) (k : Node) : (putNode s k).hub.turn = s.hub.turn := rfl
@[simp] theorem putNode_hub_dispatchTurn (s : State) (k : Node) : (putNode s k).hub.dispatchTurn = s.hub.dispatchTurn := rfl
@[simp] theorem putNode_hub_reservation (s : State) (k : Node) : (putNode s k).hub.reservation = s.hub.reservation := rfl
@[simp] theorem putNode_hub_waiting (s : State) (k : Node) : (putNode s k).hub.waiting = s.hub.waiting := rfl
@[simp] theorem putNode_hub_gaps (s : State) (k : Node) : (putNode s k).hub.gaps = s.hub.gaps := rfl
@[simp] theorem putNode_hub_accepted (s : State) (k : Node) : (putNode s k).hub.accepted = s.hub.accepted := rfl
@[simp] theorem putNode_hub_retained (s : State) (k : Node) : (putNode s k).hub.retained = s.hub.retained := rfl
@[simp] theorem putNode_hub_moves (s : State) (k : Node) : (putNode s k).hub.moves = s.hub.moves := rfl
@[simp] theorem putNode_hub_pageMove (s : State) (k : Node) : (putNode s k).hub.pageMove = s.hub.pageMove := rfl
@[simp] theorem putNode_hub_serials (s : State) (k : Node) : (putNode s k).hub.serials = s.hub.serials := rfl
@[simp] theorem putNode_hub_ringDue (s : State) (k : Node) : (putNode s k).hub.ringDue = s.hub.ringDue := rfl
@[simp] theorem putNode_hub_writesDue (s : State) (k : Node) : (putNode s k).hub.writesDue = s.hub.writesDue := rfl
@[simp] theorem putNode_hub_cap (s : State) (k : Node) : (putNode s k).hub.cap = s.hub.cap := rfl
@[simp] theorem putNode_hub_avg (s : State) (k : Node) : (putNode s k).hub.avg = s.hub.avg := rfl
@[simp] theorem putNode_hub_tmax (s : State) (k : Node) : (putNode s k).hub.tmax = s.hub.tmax := rfl
@[simp] theorem putNode_hub_capErr (s : State) (k : Node) : (putNode s k).hub.capErr = s.hub.capErr := rfl
@[simp] theorem putNode_hub_hot (s : State) (k : Node) : (putNode s k).hub.hot = s.hub.hot := rfl
@[simp] theorem putNode_hub_thr (s : State) (k : Node) : (putNode s k).hub.thr = s.hub.thr := rfl
@[simp] theorem putNode_hub_tlmSel (s : State) (k : Node) : (putNode s k).hub.tlmSel = s.hub.tlmSel := rfl
@[simp] theorem putNode_hub_tlmData (s : State) (k : Node) : (putNode s k).hub.tlmData = s.hub.tlmData := rfl
@[simp] theorem putNode_hub_counters (s : State) (k : Node) : (putNode s k).hub.counters = s.hub.counters := rfl
@[simp] theorem putNode_hub_replies (s : State) (k : Node) : (putNode s k).hub.replies = s.hub.replies := rfl
@[simp] theorem putNode_hub_msix (s : State) (k : Node) : (putNode s k).hub.msix = s.hub.msix := rfl
@[simp] theorem putNode_hub_nextCmd (s : State) (k : Node) : (putNode s k).hub.nextCmd = s.hub.nextCmd := rfl
@[simp] theorem putNode_hub_nextBid (s : State) (k : Node) : (putNode s k).hub.nextBid = s.hub.nextBid := rfl
@[simp] theorem putNode_hub_nextWid (s : State) (k : Node) : (putNode s k).hub.nextWid = s.hub.nextWid := rfl
@[simp] theorem putNode_hub_nextTag (s : State) (k : Node) : (putNode s k).hub.nextTag = s.hub.nextTag := rfl

/-! ### onNode -/

@[simp] theorem onNode_w (s : State) (k : BitVec 64) (f : Node → Node) : (onNode s k f).w = s.w := rfl
@[simp] theorem onNode_b (s : State) (k : BitVec 64) (f : Node → Node) : (onNode s k f).b = s.b := rfl
@[simp] theorem onNode_x (s : State) (k : BitVec 64) (f : Node → Node) : (onNode s k f).x = s.x := rfl
@[simp] theorem onNode_warps (s : State) (k : BitVec 64) (f : Node → Node) : (onNode s k f).warps = s.warps := rfl
@[simp] theorem onNode_blocks (s : State) (k : BitVec 64) (f : Node → Node) : (onNode s k f).blocks = s.blocks := rfl
@[simp] theorem onNode_ctxs (s : State) (k : BitVec 64) (f : Node → Node) : (onNode s k f).ctxs = s.ctxs := rfl
@[simp] theorem onNode_cores (s : State) (k : BitVec 64) (f : Node → Node) : (onNode s k f).cores = s.cores := rfl
@[simp] theorem onNode_engines (s : State) (k : BitVec 64) (f : Node → Node) : (onNode s k f).engines = s.engines := rfl
@[simp] theorem onNode_cmds (s : State) (k : BitVec 64) (f : Node → Node) : (onNode s k f).cmds = s.cmds := rfl
@[simp] theorem onNode_m (s : State) (k : BitVec 64) (f : Node → Node) : (onNode s k f).m = s.m := rfl
@[simp] theorem onNode_fab (s : State) (k : BitVec 64) (f : Node → Node) : (onNode s k f).fab = s.fab := rfl
@[simp] theorem onNode_clk (s : State) (k : BitVec 64) (f : Node → Node) : (onNode s k f).clk = s.clk := rfl
@[simp] theorem onNode_inbox (s : State) (k : BitVec 64) (f : Node → Node) : (onNode s k f).inbox = s.inbox := rfl
@[simp] theorem onNode_turn (s : State) (k : BitVec 64) (f : Node → Node) : (onNode s k f).turn = s.turn := rfl
@[simp] theorem onNode_pick (s : State) (k : BitVec 64) (f : Node → Node) : (onNode s k f).pick = s.pick := rfl
@[simp] theorem onNode_picked (s : State) (k : BitVec 64) (f : Node → Node) : (onNode s k f).picked = s.picked := rfl
@[simp] theorem onNode_grantAt (s : State) (k : BitVec 64) (f : Node → Node) : (onNode s k f).grantAt = s.grantAt := rfl
@[simp] theorem onNode_hub_stage (s : State) (k : BitVec 64) (f : Node → Node) : (onNode s k f).hub.stage = s.hub.stage := rfl
@[simp] theorem onNode_hub_fail (s : State) (k : BitVec 64) (f : Node → Node) : (onNode s k f).hub.fail = s.hub.fail := rfl
@[simp] theorem onNode_hub_flow (s : State) (k : BitVec 64) (f : Node → Node) : (onNode s k f).hub.flow = s.hub.flow := rfl
@[simp] theorem onNode_hub_bootWaits (s : State) (k : BitVec 64) (f : Node → Node) : (onNode s k f).hub.bootWaits = s.hub.bootWaits := rfl
@[simp] theorem onNode_hub_ctxbase (s : State) (k : BitVec 64) (f : Node → Node) : (onNode s k f).hub.ctxbase = s.hub.ctxbase := rfl
@[simp] theorem onNode_hub_qtbase (s : State) (k : BitVec 64) (f : Node → Node) : (onNode s k f).hub.qtbase = s.hub.qtbase := rfl
@[simp] theorem onNode_hub_qctl (s : State) (k : BitVec 64) (f : Node → Node) : (onNode s k f).hub.qctl = s.hub.qctl := rfl
@[simp] theorem onNode_hub_ctxctl (s : State) (k : BitVec 64) (f : Node → Node) : (onNode s k f).hub.ctxctl = s.hub.ctxctl := rfl
@[simp] theorem onNode_hub_gangcfg (s : State) (k : BitVec 64) (f : Node → Node) : (onNode s k f).hub.gangcfg = s.hub.gangcfg := rfl
@[simp] theorem onNode_hub_jhead (s : State) (k : BitVec 64) (f : Node → Node) : (onNode s k f).hub.jhead = s.hub.jhead := rfl
@[simp] theorem onNode_hub_jtail (s : State) (k : BitVec 64) (f : Node → Node) : (onNode s k f).hub.jtail = s.hub.jtail := rfl
@[simp] theorem onNode_hub_stopped (s : State) (k : BitVec 64) (f : Node → Node) : (onNode s k f).hub.stopped = s.hub.stopped := rfl
@[simp] theorem onNode_hub_xva0 (s : State) (k : BitVec 64) (f : Node → Node) : (onNode s k f).hub.xva0 = s.hub.xva0 := rfl
@[simp] theorem onNode_hub_xva1 (s : State) (k : BitVec 64) (f : Node → Node) : (onNode s k f).hub.xva1 = s.hub.xva1 := rfl
@[simp] theorem onNode_hub_xcnt (s : State) (k : BitVec 64) (f : Node → Node) : (onNode s k f).hub.xcnt = s.hub.xcnt := rfl
@[simp] theorem onNode_hub_xarg (s : State) (k : BitVec 64) (f : Node → Node) : (onNode s k f).hub.xarg = s.hub.xarg := rfl
@[simp] theorem onNode_hub_xctl (s : State) (k : BitVec 64) (f : Node → Node) : (onNode s k f).hub.xctl = s.hub.xctl := rfl
@[simp] theorem onNode_hub_xdone (s : State) (k : BitVec 64) (f : Node → Node) : (onNode s k f).hub.xdone = s.hub.xdone := rfl
@[simp] theorem onNode_hub_xsplit (s : State) (k : BitVec 64) (f : Node → Node) : (onNode s k f).hub.xsplit = s.hub.xsplit := rfl
@[simp] theorem onNode_hub_xtodo (s : State) (k : BitVec 64) (f : Node → Node) : (onNode s k f).hub.xtodo = s.hub.xtodo := rfl
@[simp] theorem onNode_hub_xspans (s : State) (k : BitVec 64) (f : Node → Node) : (onNode s k f).hub.xspans = s.hub.xspans := rfl
@[simp] theorem onNode_hub_ckptcfg (s : State) (k : BitVec 64) (f : Node → Node) : (onNode s k f).hub.ckptcfg = s.hub.ckptcfg := rfl
@[simp] theorem onNode_hub_ckptNext (s : State) (k : BitVec 64) (f : Node → Node) : (onNode s k f).hub.ckptNext = s.hub.ckptNext := rfl
@[simp] theorem onNode_hub_lastCommit (s : State) (k : BitVec 64) (f : Node → Node) : (onNode s k f).hub.lastCommit = s.hub.lastCommit := rfl
@[simp] theorem onNode_hub_incarn (s : State) (k : BitVec 64) (f : Node → Node) : (onNode s k f).hub.incarn = s.hub.incarn := rfl
@[simp] theorem onNode_hub_rebuild (s : State) (k : BitVec 64) (f : Node → Node) : (onNode s k f).hub.rebuild = s.hub.rebuild := rfl
@[simp] theorem onNode_hub_ckptErr (s : State) (k : BitVec 64) (f : Node → Node) : (onNode s k f).hub.ckptErr = s.hub.ckptErr := rfl
@[simp] theorem onNode_hub_sound (s : State) (k : BitVec 64) (f : Node → Node) : (onNode s k f).hub.sound = s.hub.sound := rfl
@[simp] theorem onNode_hub_cutting (s : State) (k : BitVec 64) (f : Node → Node) : (onNode s k f).hub.cutting = s.hub.cutting := rfl
@[simp] theorem onNode_hub_cutReported (s : State) (k : BitVec 64) (f : Node → Node) : (onNode s k f).hub.cutReported = s.hub.cutReported := rfl
@[simp] theorem onNode_hub_saved (s : State) (k : BitVec 64) (f : Node → Node) : (onNode s k f).hub.saved = s.hub.saved := rfl
@[simp] theorem onNode_hub_votesDue (s : State) (k : BitVec 64) (f : Node → Node) : (onNode s k f).hub.votesDue = s.hub.votesDue := rfl
@[simp] theorem onNode_hub_cutsDone (s : State) (k : BitVec 64) (f : Node → Node) : (onNode s k f).hub.cutsDone = s.hub.cutsDone := rfl
@[simp] theorem onNode_hub_votes (s : State) (k : BitVec 64) (f : Node → Node) : (onNode s k f).hub.votes = s.hub.votes := rfl
@[simp] theorem onNode_hub_lastCut (s : State) (k : BitVec 64) (f : Node → Node) : (onNode s k f).hub.lastCut = s.hub.lastCut := rfl
@[simp] theorem onNode_hub_mirrorPending (s : State) (k : BitVec 64) (f : Node → Node) : (onNode s k f).hub.mirrorPending = s.hub.mirrorPending := rfl
@[simp] theorem onNode_hub_mirrorQueue (s : State) (k : BitVec 64) (f : Node → Node) : (onNode s k f).hub.mirrorQueue = s.hub.mirrorQueue := rfl
@[simp] theorem onNode_hub_mirrorSent (s : State) (k : BitVec 64) (f : Node → Node) : (onNode s k f).hub.mirrorSent = s.hub.mirrorSent := rfl
@[simp] theorem onNode_hub_mirrorNew (s : State) (k : BitVec 64) (f : Node → Node) : (onNode s k f).hub.mirrorNew = s.hub.mirrorNew := rfl
@[simp] theorem onNode_hub_mirrorOld (s : State) (k : BitVec 64) (f : Node → Node) : (onNode s k f).hub.mirrorOld = s.hub.mirrorOld := rfl
@[simp] theorem onNode_hub_copying (s : State) (k : BitVec 64) (f : Node → Node) : (onNode s k f).hub.copying = s.hub.copying := rfl
@[simp] theorem onNode_hub_awaited (s : State) (k : BitVec 64) (f : Node → Node) : (onNode s k f).hub.awaited = s.hub.awaited := rfl
@[simp] theorem onNode_hub_frail (s : State) (k : BitVec 64) (f : Node → Node) : (onNode s k f).hub.frail = s.hub.frail := rfl
@[simp] theorem onNode_hub_fatals (s : State) (k : BitVec 64) (f : Node → Node) : (onNode s k f).hub.fatals = s.hub.fatals := rfl
@[simp] theorem onNode_hub_cutNumber (s : State) (k : BitVec 64) (f : Node → Node) : (onNode s k f).hub.cutNumber = s.hub.cutNumber := rfl
@[simp] theorem onNode_hub_beats (s : State) (k : BitVec 64) (f : Node → Node) : (onNode s k f).hub.beats = s.hub.beats := rfl
@[simp] theorem onNode_hub_lastBeat (s : State) (k : BitVec 64) (f : Node → Node) : (onNode s k f).hub.lastBeat = s.hub.lastBeat := rfl
@[simp] theorem onNode_hub_fatal (s : State) (k : BitVec 64) (f : Node → Node) : (onNode s k f).hub.fatal = s.hub.fatal := rfl
@[simp] theorem onNode_hub_queues (s : State) (k : BitVec 64) (f : Node → Node) : (onNode s k f).hub.queues = s.hub.queues := rfl
@[simp] theorem onNode_hub_turn (s : State) (k : BitVec 64) (f : Node → Node) : (onNode s k f).hub.turn = s.hub.turn := rfl
@[simp] theorem onNode_hub_dispatchTurn (s : State) (k : BitVec 64) (f : Node → Node) : (onNode s k f).hub.dispatchTurn = s.hub.dispatchTurn := rfl
@[simp] theorem onNode_hub_reservation (s : State) (k : BitVec 64) (f : Node → Node) : (onNode s k f).hub.reservation = s.hub.reservation := rfl
@[simp] theorem onNode_hub_waiting (s : State) (k : BitVec 64) (f : Node → Node) : (onNode s k f).hub.waiting = s.hub.waiting := rfl
@[simp] theorem onNode_hub_gaps (s : State) (k : BitVec 64) (f : Node → Node) : (onNode s k f).hub.gaps = s.hub.gaps := rfl
@[simp] theorem onNode_hub_accepted (s : State) (k : BitVec 64) (f : Node → Node) : (onNode s k f).hub.accepted = s.hub.accepted := rfl
@[simp] theorem onNode_hub_retained (s : State) (k : BitVec 64) (f : Node → Node) : (onNode s k f).hub.retained = s.hub.retained := rfl
@[simp] theorem onNode_hub_moves (s : State) (k : BitVec 64) (f : Node → Node) : (onNode s k f).hub.moves = s.hub.moves := rfl
@[simp] theorem onNode_hub_pageMove (s : State) (k : BitVec 64) (f : Node → Node) : (onNode s k f).hub.pageMove = s.hub.pageMove := rfl
@[simp] theorem onNode_hub_serials (s : State) (k : BitVec 64) (f : Node → Node) : (onNode s k f).hub.serials = s.hub.serials := rfl
@[simp] theorem onNode_hub_ringDue (s : State) (k : BitVec 64) (f : Node → Node) : (onNode s k f).hub.ringDue = s.hub.ringDue := rfl
@[simp] theorem onNode_hub_writesDue (s : State) (k : BitVec 64) (f : Node → Node) : (onNode s k f).hub.writesDue = s.hub.writesDue := rfl
@[simp] theorem onNode_hub_cap (s : State) (k : BitVec 64) (f : Node → Node) : (onNode s k f).hub.cap = s.hub.cap := rfl
@[simp] theorem onNode_hub_avg (s : State) (k : BitVec 64) (f : Node → Node) : (onNode s k f).hub.avg = s.hub.avg := rfl
@[simp] theorem onNode_hub_tmax (s : State) (k : BitVec 64) (f : Node → Node) : (onNode s k f).hub.tmax = s.hub.tmax := rfl
@[simp] theorem onNode_hub_capErr (s : State) (k : BitVec 64) (f : Node → Node) : (onNode s k f).hub.capErr = s.hub.capErr := rfl
@[simp] theorem onNode_hub_hot (s : State) (k : BitVec 64) (f : Node → Node) : (onNode s k f).hub.hot = s.hub.hot := rfl
@[simp] theorem onNode_hub_thr (s : State) (k : BitVec 64) (f : Node → Node) : (onNode s k f).hub.thr = s.hub.thr := rfl
@[simp] theorem onNode_hub_tlmSel (s : State) (k : BitVec 64) (f : Node → Node) : (onNode s k f).hub.tlmSel = s.hub.tlmSel := rfl
@[simp] theorem onNode_hub_tlmData (s : State) (k : BitVec 64) (f : Node → Node) : (onNode s k f).hub.tlmData = s.hub.tlmData := rfl
@[simp] theorem onNode_hub_counters (s : State) (k : BitVec 64) (f : Node → Node) : (onNode s k f).hub.counters = s.hub.counters := rfl
@[simp] theorem onNode_hub_replies (s : State) (k : BitVec 64) (f : Node → Node) : (onNode s k f).hub.replies = s.hub.replies := rfl
@[simp] theorem onNode_hub_msix (s : State) (k : BitVec 64) (f : Node → Node) : (onNode s k f).hub.msix = s.hub.msix := rfl
@[simp] theorem onNode_hub_nextCmd (s : State) (k : BitVec 64) (f : Node → Node) : (onNode s k f).hub.nextCmd = s.hub.nextCmd := rfl
@[simp] theorem onNode_hub_nextBid (s : State) (k : BitVec 64) (f : Node → Node) : (onNode s k f).hub.nextBid = s.hub.nextBid := rfl
@[simp] theorem onNode_hub_nextWid (s : State) (k : BitVec 64) (f : Node → Node) : (onNode s k f).hub.nextWid = s.hub.nextWid := rfl
@[simp] theorem onNode_hub_nextTag (s : State) (k : BitVec 64) (f : Node → Node) : (onNode s k f).hub.nextTag = s.hub.nextTag := rfl

/-! ### failNode -/

@[simp] theorem failNode_w (s : State) (k : BitVec 64) (c d : Byte) : (failNode s k c d).w = s.w := rfl
@[simp] theorem failNode_b (s : State) (k : BitVec 64) (c d : Byte) : (failNode s k c d).b = s.b := rfl
@[simp] theorem failNode_x (s : State) (k : BitVec 64) (c d : Byte) : (failNode s k c d).x = s.x := rfl
@[simp] theorem failNode_warps (s : State) (k : BitVec 64) (c d : Byte) : (failNode s k c d).warps = s.warps := rfl
@[simp] theorem failNode_blocks (s : State) (k : BitVec 64) (c d : Byte) : (failNode s k c d).blocks = s.blocks := rfl
@[simp] theorem failNode_ctxs (s : State) (k : BitVec 64) (c d : Byte) : (failNode s k c d).ctxs = s.ctxs := rfl
@[simp] theorem failNode_cores (s : State) (k : BitVec 64) (c d : Byte) : (failNode s k c d).cores = s.cores := rfl
@[simp] theorem failNode_engines (s : State) (k : BitVec 64) (c d : Byte) : (failNode s k c d).engines = s.engines := rfl
@[simp] theorem failNode_cmds (s : State) (k : BitVec 64) (c d : Byte) : (failNode s k c d).cmds = s.cmds := rfl
@[simp] theorem failNode_m (s : State) (k : BitVec 64) (c d : Byte) : (failNode s k c d).m = s.m := rfl
@[simp] theorem failNode_fab (s : State) (k : BitVec 64) (c d : Byte) : (failNode s k c d).fab = s.fab := rfl
@[simp] theorem failNode_clk (s : State) (k : BitVec 64) (c d : Byte) : (failNode s k c d).clk = s.clk := rfl
@[simp] theorem failNode_inbox (s : State) (k : BitVec 64) (c d : Byte) : (failNode s k c d).inbox = s.inbox := rfl
@[simp] theorem failNode_turn (s : State) (k : BitVec 64) (c d : Byte) : (failNode s k c d).turn = s.turn := rfl
@[simp] theorem failNode_pick (s : State) (k : BitVec 64) (c d : Byte) : (failNode s k c d).pick = s.pick := rfl
@[simp] theorem failNode_picked (s : State) (k : BitVec 64) (c d : Byte) : (failNode s k c d).picked = s.picked := rfl
@[simp] theorem failNode_grantAt (s : State) (k : BitVec 64) (c d : Byte) : (failNode s k c d).grantAt = s.grantAt := rfl

/-! ### stopNode -/

@[simp] theorem stopNode_w (s : State) (c : BitVec 16) (k : BitVec 64) : (stopNode s c k).w = s.w := rfl
@[simp] theorem stopNode_b (s : State) (c : BitVec 16) (k : BitVec 64) : (stopNode s c k).b = s.b := rfl
@[simp] theorem stopNode_x (s : State) (c : BitVec 16) (k : BitVec 64) : (stopNode s c k).x = s.x := rfl
@[simp] theorem stopNode_warps (s : State) (c : BitVec 16) (k : BitVec 64) : (stopNode s c k).warps = s.warps := rfl
@[simp] theorem stopNode_blocks (s : State) (c : BitVec 16) (k : BitVec 64) : (stopNode s c k).blocks = s.blocks := rfl
@[simp] theorem stopNode_ctxs (s : State) (c : BitVec 16) (k : BitVec 64) : (stopNode s c k).ctxs = s.ctxs := rfl
@[simp] theorem stopNode_cores (s : State) (c : BitVec 16) (k : BitVec 64) : (stopNode s c k).cores = s.cores := rfl
@[simp] theorem stopNode_engines (s : State) (c : BitVec 16) (k : BitVec 64) : (stopNode s c k).engines = s.engines := rfl
@[simp] theorem stopNode_cmds (s : State) (c : BitVec 16) (k : BitVec 64) : (stopNode s c k).cmds = s.cmds := rfl
@[simp] theorem stopNode_m (s : State) (c : BitVec 16) (k : BitVec 64) : (stopNode s c k).m = s.m := rfl
@[simp] theorem stopNode_fab (s : State) (c : BitVec 16) (k : BitVec 64) : (stopNode s c k).fab = s.fab := rfl
@[simp] theorem stopNode_clk (s : State) (c : BitVec 16) (k : BitVec 64) : (stopNode s c k).clk = s.clk := rfl
@[simp] theorem stopNode_inbox (s : State) (c : BitVec 16) (k : BitVec 64) : (stopNode s c k).inbox = s.inbox := rfl
@[simp] theorem stopNode_turn (s : State) (c : BitVec 16) (k : BitVec 64) : (stopNode s c k).turn = s.turn := rfl
@[simp] theorem stopNode_pick (s : State) (c : BitVec 16) (k : BitVec 64) : (stopNode s c k).pick = s.pick := rfl
@[simp] theorem stopNode_picked (s : State) (c : BitVec 16) (k : BitVec 64) : (stopNode s c k).picked = s.picked := rfl
@[simp] theorem stopNode_grantAt (s : State) (c : BitVec 16) (k : BitVec 64) : (stopNode s c k).grantAt = s.grantAt := rfl

/-! ### count -/

@[simp] theorem count_w (s : State) (k : BitVec 16) (j : Word) (n : Nat) : (count s k j n).w = s.w := rfl
@[simp] theorem count_b (s : State) (k : BitVec 16) (j : Word) (n : Nat) : (count s k j n).b = s.b := rfl
@[simp] theorem count_x (s : State) (k : BitVec 16) (j : Word) (n : Nat) : (count s k j n).x = s.x := rfl
@[simp] theorem count_warps (s : State) (k : BitVec 16) (j : Word) (n : Nat) : (count s k j n).warps = s.warps := rfl
@[simp] theorem count_blocks (s : State) (k : BitVec 16) (j : Word) (n : Nat) : (count s k j n).blocks = s.blocks := rfl
@[simp] theorem count_ctxs (s : State) (k : BitVec 16) (j : Word) (n : Nat) : (count s k j n).ctxs = s.ctxs := rfl
@[simp] theorem count_cores (s : State) (k : BitVec 16) (j : Word) (n : Nat) : (count s k j n).cores = s.cores := rfl
@[simp] theorem count_engines (s : State) (k : BitVec 16) (j : Word) (n : Nat) : (count s k j n).engines = s.engines := rfl
@[simp] theorem count_cmds (s : State) (k : BitVec 16) (j : Word) (n : Nat) : (count s k j n).cmds = s.cmds := rfl
@[simp] theorem count_m (s : State) (k : BitVec 16) (j : Word) (n : Nat) : (count s k j n).m = s.m := rfl
@[simp] theorem count_fab (s : State) (k : BitVec 16) (j : Word) (n : Nat) : (count s k j n).fab = s.fab := rfl
@[simp] theorem count_clk (s : State) (k : BitVec 16) (j : Word) (n : Nat) : (count s k j n).clk = s.clk := rfl
@[simp] theorem count_inbox (s : State) (k : BitVec 16) (j : Word) (n : Nat) : (count s k j n).inbox = s.inbox := rfl
@[simp] theorem count_turn (s : State) (k : BitVec 16) (j : Word) (n : Nat) : (count s k j n).turn = s.turn := rfl
@[simp] theorem count_pick (s : State) (k : BitVec 16) (j : Word) (n : Nat) : (count s k j n).pick = s.pick := rfl
@[simp] theorem count_picked (s : State) (k : BitVec 16) (j : Word) (n : Nat) : (count s k j n).picked = s.picked := rfl
@[simp] theorem count_grantAt (s : State) (k : BitVec 16) (j : Word) (n : Nat) : (count s k j n).grantAt = s.grantAt := rfl
@[simp] theorem count_hub_stage (s : State) (k : BitVec 16) (j : Word) (n : Nat) : (count s k j n).hub.stage = s.hub.stage := rfl
@[simp] theorem count_hub_fail (s : State) (k : BitVec 16) (j : Word) (n : Nat) : (count s k j n).hub.fail = s.hub.fail := rfl
@[simp] theorem count_hub_flow (s : State) (k : BitVec 16) (j : Word) (n : Nat) : (count s k j n).hub.flow = s.hub.flow := rfl
@[simp] theorem count_hub_bootWaits (s : State) (k : BitVec 16) (j : Word) (n : Nat) : (count s k j n).hub.bootWaits = s.hub.bootWaits := rfl
@[simp] theorem count_hub_ctxbase (s : State) (k : BitVec 16) (j : Word) (n : Nat) : (count s k j n).hub.ctxbase = s.hub.ctxbase := rfl
@[simp] theorem count_hub_qtbase (s : State) (k : BitVec 16) (j : Word) (n : Nat) : (count s k j n).hub.qtbase = s.hub.qtbase := rfl
@[simp] theorem count_hub_qctl (s : State) (k : BitVec 16) (j : Word) (n : Nat) : (count s k j n).hub.qctl = s.hub.qctl := rfl
@[simp] theorem count_hub_ctxctl (s : State) (k : BitVec 16) (j : Word) (n : Nat) : (count s k j n).hub.ctxctl = s.hub.ctxctl := rfl
@[simp] theorem count_hub_gangcfg (s : State) (k : BitVec 16) (j : Word) (n : Nat) : (count s k j n).hub.gangcfg = s.hub.gangcfg := rfl
@[simp] theorem count_hub_jhead (s : State) (k : BitVec 16) (j : Word) (n : Nat) : (count s k j n).hub.jhead = s.hub.jhead := rfl
@[simp] theorem count_hub_jtail (s : State) (k : BitVec 16) (j : Word) (n : Nat) : (count s k j n).hub.jtail = s.hub.jtail := rfl
@[simp] theorem count_hub_stopped (s : State) (k : BitVec 16) (j : Word) (n : Nat) : (count s k j n).hub.stopped = s.hub.stopped := rfl
@[simp] theorem count_hub_xva0 (s : State) (k : BitVec 16) (j : Word) (n : Nat) : (count s k j n).hub.xva0 = s.hub.xva0 := rfl
@[simp] theorem count_hub_xva1 (s : State) (k : BitVec 16) (j : Word) (n : Nat) : (count s k j n).hub.xva1 = s.hub.xva1 := rfl
@[simp] theorem count_hub_xcnt (s : State) (k : BitVec 16) (j : Word) (n : Nat) : (count s k j n).hub.xcnt = s.hub.xcnt := rfl
@[simp] theorem count_hub_xarg (s : State) (k : BitVec 16) (j : Word) (n : Nat) : (count s k j n).hub.xarg = s.hub.xarg := rfl
@[simp] theorem count_hub_xctl (s : State) (k : BitVec 16) (j : Word) (n : Nat) : (count s k j n).hub.xctl = s.hub.xctl := rfl
@[simp] theorem count_hub_xdone (s : State) (k : BitVec 16) (j : Word) (n : Nat) : (count s k j n).hub.xdone = s.hub.xdone := rfl
@[simp] theorem count_hub_xsplit (s : State) (k : BitVec 16) (j : Word) (n : Nat) : (count s k j n).hub.xsplit = s.hub.xsplit := rfl
@[simp] theorem count_hub_xtodo (s : State) (k : BitVec 16) (j : Word) (n : Nat) : (count s k j n).hub.xtodo = s.hub.xtodo := rfl
@[simp] theorem count_hub_xspans (s : State) (k : BitVec 16) (j : Word) (n : Nat) : (count s k j n).hub.xspans = s.hub.xspans := rfl
@[simp] theorem count_hub_ckptcfg (s : State) (k : BitVec 16) (j : Word) (n : Nat) : (count s k j n).hub.ckptcfg = s.hub.ckptcfg := rfl
@[simp] theorem count_hub_ckptNext (s : State) (k : BitVec 16) (j : Word) (n : Nat) : (count s k j n).hub.ckptNext = s.hub.ckptNext := rfl
@[simp] theorem count_hub_lastCommit (s : State) (k : BitVec 16) (j : Word) (n : Nat) : (count s k j n).hub.lastCommit = s.hub.lastCommit := rfl
@[simp] theorem count_hub_incarn (s : State) (k : BitVec 16) (j : Word) (n : Nat) : (count s k j n).hub.incarn = s.hub.incarn := rfl
@[simp] theorem count_hub_rebuild (s : State) (k : BitVec 16) (j : Word) (n : Nat) : (count s k j n).hub.rebuild = s.hub.rebuild := rfl
@[simp] theorem count_hub_ckptErr (s : State) (k : BitVec 16) (j : Word) (n : Nat) : (count s k j n).hub.ckptErr = s.hub.ckptErr := rfl
@[simp] theorem count_hub_sound (s : State) (k : BitVec 16) (j : Word) (n : Nat) : (count s k j n).hub.sound = s.hub.sound := rfl
@[simp] theorem count_hub_cutting (s : State) (k : BitVec 16) (j : Word) (n : Nat) : (count s k j n).hub.cutting = s.hub.cutting := rfl
@[simp] theorem count_hub_cutReported (s : State) (k : BitVec 16) (j : Word) (n : Nat) : (count s k j n).hub.cutReported = s.hub.cutReported := rfl
@[simp] theorem count_hub_saved (s : State) (k : BitVec 16) (j : Word) (n : Nat) : (count s k j n).hub.saved = s.hub.saved := rfl
@[simp] theorem count_hub_votesDue (s : State) (k : BitVec 16) (j : Word) (n : Nat) : (count s k j n).hub.votesDue = s.hub.votesDue := rfl
@[simp] theorem count_hub_cutsDone (s : State) (k : BitVec 16) (j : Word) (n : Nat) : (count s k j n).hub.cutsDone = s.hub.cutsDone := rfl
@[simp] theorem count_hub_votes (s : State) (k : BitVec 16) (j : Word) (n : Nat) : (count s k j n).hub.votes = s.hub.votes := rfl
@[simp] theorem count_hub_lastCut (s : State) (k : BitVec 16) (j : Word) (n : Nat) : (count s k j n).hub.lastCut = s.hub.lastCut := rfl
@[simp] theorem count_hub_mirrorPending (s : State) (k : BitVec 16) (j : Word) (n : Nat) : (count s k j n).hub.mirrorPending = s.hub.mirrorPending := rfl
@[simp] theorem count_hub_mirrorQueue (s : State) (k : BitVec 16) (j : Word) (n : Nat) : (count s k j n).hub.mirrorQueue = s.hub.mirrorQueue := rfl
@[simp] theorem count_hub_mirrorSent (s : State) (k : BitVec 16) (j : Word) (n : Nat) : (count s k j n).hub.mirrorSent = s.hub.mirrorSent := rfl
@[simp] theorem count_hub_mirrorNew (s : State) (k : BitVec 16) (j : Word) (n : Nat) : (count s k j n).hub.mirrorNew = s.hub.mirrorNew := rfl
@[simp] theorem count_hub_mirrorOld (s : State) (k : BitVec 16) (j : Word) (n : Nat) : (count s k j n).hub.mirrorOld = s.hub.mirrorOld := rfl
@[simp] theorem count_hub_copying (s : State) (k : BitVec 16) (j : Word) (n : Nat) : (count s k j n).hub.copying = s.hub.copying := rfl
@[simp] theorem count_hub_awaited (s : State) (k : BitVec 16) (j : Word) (n : Nat) : (count s k j n).hub.awaited = s.hub.awaited := rfl
@[simp] theorem count_hub_frail (s : State) (k : BitVec 16) (j : Word) (n : Nat) : (count s k j n).hub.frail = s.hub.frail := rfl
@[simp] theorem count_hub_fatals (s : State) (k : BitVec 16) (j : Word) (n : Nat) : (count s k j n).hub.fatals = s.hub.fatals := rfl
@[simp] theorem count_hub_cutNumber (s : State) (k : BitVec 16) (j : Word) (n : Nat) : (count s k j n).hub.cutNumber = s.hub.cutNumber := rfl
@[simp] theorem count_hub_beats (s : State) (k : BitVec 16) (j : Word) (n : Nat) : (count s k j n).hub.beats = s.hub.beats := rfl
@[simp] theorem count_hub_lastBeat (s : State) (k : BitVec 16) (j : Word) (n : Nat) : (count s k j n).hub.lastBeat = s.hub.lastBeat := rfl
@[simp] theorem count_hub_fatal (s : State) (k : BitVec 16) (j : Word) (n : Nat) : (count s k j n).hub.fatal = s.hub.fatal := rfl
@[simp] theorem count_hub_nodes (s : State) (k : BitVec 16) (j : Word) (n : Nat) : (count s k j n).hub.nodes = s.hub.nodes := rfl
@[simp] theorem count_hub_queues (s : State) (k : BitVec 16) (j : Word) (n : Nat) : (count s k j n).hub.queues = s.hub.queues := rfl
@[simp] theorem count_hub_turn (s : State) (k : BitVec 16) (j : Word) (n : Nat) : (count s k j n).hub.turn = s.hub.turn := rfl
@[simp] theorem count_hub_dispatchTurn (s : State) (k : BitVec 16) (j : Word) (n : Nat) : (count s k j n).hub.dispatchTurn = s.hub.dispatchTurn := rfl
@[simp] theorem count_hub_reservation (s : State) (k : BitVec 16) (j : Word) (n : Nat) : (count s k j n).hub.reservation = s.hub.reservation := rfl
@[simp] theorem count_hub_waiting (s : State) (k : BitVec 16) (j : Word) (n : Nat) : (count s k j n).hub.waiting = s.hub.waiting := rfl
@[simp] theorem count_hub_gaps (s : State) (k : BitVec 16) (j : Word) (n : Nat) : (count s k j n).hub.gaps = s.hub.gaps := rfl
@[simp] theorem count_hub_accepted (s : State) (k : BitVec 16) (j : Word) (n : Nat) : (count s k j n).hub.accepted = s.hub.accepted := rfl
@[simp] theorem count_hub_retained (s : State) (k : BitVec 16) (j : Word) (n : Nat) : (count s k j n).hub.retained = s.hub.retained := rfl
@[simp] theorem count_hub_moves (s : State) (k : BitVec 16) (j : Word) (n : Nat) : (count s k j n).hub.moves = s.hub.moves := rfl
@[simp] theorem count_hub_pageMove (s : State) (k : BitVec 16) (j : Word) (n : Nat) : (count s k j n).hub.pageMove = s.hub.pageMove := rfl
@[simp] theorem count_hub_serials (s : State) (k : BitVec 16) (j : Word) (n : Nat) : (count s k j n).hub.serials = s.hub.serials := rfl
@[simp] theorem count_hub_ringDue (s : State) (k : BitVec 16) (j : Word) (n : Nat) : (count s k j n).hub.ringDue = s.hub.ringDue := rfl
@[simp] theorem count_hub_writesDue (s : State) (k : BitVec 16) (j : Word) (n : Nat) : (count s k j n).hub.writesDue = s.hub.writesDue := rfl
@[simp] theorem count_hub_cap (s : State) (k : BitVec 16) (j : Word) (n : Nat) : (count s k j n).hub.cap = s.hub.cap := rfl
@[simp] theorem count_hub_avg (s : State) (k : BitVec 16) (j : Word) (n : Nat) : (count s k j n).hub.avg = s.hub.avg := rfl
@[simp] theorem count_hub_tmax (s : State) (k : BitVec 16) (j : Word) (n : Nat) : (count s k j n).hub.tmax = s.hub.tmax := rfl
@[simp] theorem count_hub_capErr (s : State) (k : BitVec 16) (j : Word) (n : Nat) : (count s k j n).hub.capErr = s.hub.capErr := rfl
@[simp] theorem count_hub_hot (s : State) (k : BitVec 16) (j : Word) (n : Nat) : (count s k j n).hub.hot = s.hub.hot := rfl
@[simp] theorem count_hub_thr (s : State) (k : BitVec 16) (j : Word) (n : Nat) : (count s k j n).hub.thr = s.hub.thr := rfl
@[simp] theorem count_hub_tlmSel (s : State) (k : BitVec 16) (j : Word) (n : Nat) : (count s k j n).hub.tlmSel = s.hub.tlmSel := rfl
@[simp] theorem count_hub_tlmData (s : State) (k : BitVec 16) (j : Word) (n : Nat) : (count s k j n).hub.tlmData = s.hub.tlmData := rfl
@[simp] theorem count_hub_replies (s : State) (k : BitVec 16) (j : Word) (n : Nat) : (count s k j n).hub.replies = s.hub.replies := rfl
@[simp] theorem count_hub_msix (s : State) (k : BitVec 16) (j : Word) (n : Nat) : (count s k j n).hub.msix = s.hub.msix := rfl
@[simp] theorem count_hub_nextCmd (s : State) (k : BitVec 16) (j : Word) (n : Nat) : (count s k j n).hub.nextCmd = s.hub.nextCmd := rfl
@[simp] theorem count_hub_nextBid (s : State) (k : BitVec 16) (j : Word) (n : Nat) : (count s k j n).hub.nextBid = s.hub.nextBid := rfl
@[simp] theorem count_hub_nextWid (s : State) (k : BitVec 16) (j : Word) (n : Nat) : (count s k j n).hub.nextWid = s.hub.nextWid := rfl
@[simp] theorem count_hub_nextTag (s : State) (k : BitVec 16) (j : Word) (n : Nat) : (count s k j n).hub.nextTag = s.hub.nextTag := rfl

/-! ### takeSeq -/

@[simp] theorem takeSeq_w (s : State) : (takeSeq s).1.w = s.w := rfl
@[simp] theorem takeSeq_b (s : State) : (takeSeq s).1.b = s.b := rfl
@[simp] theorem takeSeq_x (s : State) : (takeSeq s).1.x = s.x := rfl
@[simp] theorem takeSeq_warps (s : State) : (takeSeq s).1.warps = s.warps := rfl
@[simp] theorem takeSeq_blocks (s : State) : (takeSeq s).1.blocks = s.blocks := rfl
@[simp] theorem takeSeq_ctxs (s : State) : (takeSeq s).1.ctxs = s.ctxs := rfl
@[simp] theorem takeSeq_cores (s : State) : (takeSeq s).1.cores = s.cores := rfl
@[simp] theorem takeSeq_engines (s : State) : (takeSeq s).1.engines = s.engines := rfl
@[simp] theorem takeSeq_cmds (s : State) : (takeSeq s).1.cmds = s.cmds := rfl
@[simp] theorem takeSeq_m (s : State) : (takeSeq s).1.m = s.m := rfl
@[simp] theorem takeSeq_fab (s : State) : (takeSeq s).1.fab = s.fab := rfl
@[simp] theorem takeSeq_clk (s : State) : (takeSeq s).1.clk = s.clk := rfl
@[simp] theorem takeSeq_inbox (s : State) : (takeSeq s).1.inbox = s.inbox := rfl
@[simp] theorem takeSeq_turn (s : State) : (takeSeq s).1.turn = s.turn := rfl
@[simp] theorem takeSeq_pick (s : State) : (takeSeq s).1.pick = s.pick := rfl
@[simp] theorem takeSeq_picked (s : State) : (takeSeq s).1.picked = s.picked := rfl
@[simp] theorem takeSeq_grantAt (s : State) : (takeSeq s).1.grantAt = s.grantAt := rfl

/-! ### setWos -/

@[simp] theorem setWos_cells (m : Mem) (k : Nat) (q : Wos) : (setWos m k q).cells = m.cells := rfl
@[simp] theorem setWos_hostMem (m : Mem) (k : Nat) (q : Wos) : (setWos m k q).hostMem = m.hostMem := rfl
@[simp] theorem setWos_nvme (m : Mem) (k : Nat) (q : Wos) : (setWos m k q).nvme = m.nvme := rfl
@[simp] theorem setWos_tlb (m : Mem) (k : Nat) (q : Wos) : (setWos m k q).tlb = m.tlb := rfl
@[simp] theorem setWos_walks (m : Mem) (k : Nat) (q : Wos) : (setWos m k q).walks = m.walks := rfl
@[simp] theorem setWos_frames (m : Mem) (k : Nat) (q : Wos) : (setWos m k q).frames = m.frames := rfl
@[simp] theorem setWos_splinters (m : Mem) (k : Nat) (q : Wos) : (setWos m k q).splinters = m.splinters := rfl
@[simp] theorem setWos_ip (m : Mem) (k : Nat) (q : Wos) : (setWos m k q).ip = m.ip := rfl
@[simp] theorem setWos_copies (m : Mem) (k : Nat) (q : Wos) : (setWos m k q).copies = m.copies := rfl
@[simp] theorem setWos_sid (m : Mem) (k : Nat) (q : Wos) : (setWos m k q).sid = m.sid := rfl
@[simp] theorem setWos_dir (m : Mem) (k : Nat) (q : Wos) : (setWos m k q).dir = m.dir := rfl
@[simp] theorem setWos_ucopies (m : Mem) (k : Nat) (q : Wos) : (setWos m k q).ucopies = m.ucopies := rfl
@[simp] theorem setWos_hostDir (m : Mem) (k : Nat) (q : Wos) : (setWos m k q).hostDir = m.hostDir := rfl
@[simp] theorem setWos_bridgeDir (m : Mem) (k : Nat) (q : Wos) : (setWos m k q).bridgeDir = m.bridgeDir := rfl
@[simp] theorem setWos_asks (m : Mem) (k : Nat) (q : Wos) : (setWos m k q).asks = m.asks := rfl
@[simp] theorem setWos_wants (m : Mem) (k : Nat) (q : Wos) : (setWos m k q).wants = m.wants := rfl
@[simp] theorem setWos_halves (m : Mem) (k : Nat) (q : Wos) : (setWos m k q).halves = m.halves := rfl
@[simp] theorem setWos_undo (m : Mem) (k : Nat) (q : Wos) : (setWos m k q).undo = m.undo := rfl
@[simp] theorem setWos_marks (m : Mem) (k : Nat) (q : Wos) : (setWos m k q).marks = m.marks := rfl
@[simp] theorem setWos_outputs (m : Mem) (k : Nat) (q : Wos) : (setWos m k q).outputs = m.outputs := rfl
@[simp] theorem setWos_inputs (m : Mem) (k : Nat) (q : Wos) : (setWos m k q).inputs = m.inputs := rfl
@[simp] theorem setWos_hostHeld (m : Mem) (k : Nat) (q : Wos) : (setWos m k q).hostHeld = m.hostHeld := rfl
@[simp] theorem setWos_hostOut (m : Mem) (k : Nat) (q : Wos) : (setWos m k q).hostOut = m.hostOut := rfl
@[simp] theorem setWos_keyFull (m : Mem) (k : Nat) (q : Wos) : (setWos m k q).keyFull = m.keyFull := rfl
@[simp] theorem setWos_escrow (m : Mem) (k : Nat) (q : Wos) : (setWos m k q).escrow = m.escrow := rfl
@[simp] theorem setWos_free (m : Mem) (k : Nat) (q : Wos) : (setWos m k q).free = m.free := rfl
@[simp] theorem setWos_origins (m : Mem) (k : Nat) (q : Wos) : (setWos m k q).origins = m.origins := rfl
@[simp] theorem setWos_bad (m : Mem) (k : Nat) (q : Wos) : (setWos m k q).bad = m.bad := rfl
@[simp] theorem setWos_interval (m : Mem) (k : Nat) (q : Wos) : (setWos m k q).interval = m.interval := rfl

/-! ### setFrameRec -/

@[simp] theorem setFrameRec_cells (m : Mem) (r : FrameRec) : (setFrameRec m r).cells = m.cells := rfl
@[simp] theorem setFrameRec_hostMem (m : Mem) (r : FrameRec) : (setFrameRec m r).hostMem = m.hostMem := rfl
@[simp] theorem setFrameRec_nvme (m : Mem) (r : FrameRec) : (setFrameRec m r).nvme = m.nvme := rfl
@[simp] theorem setFrameRec_tlb (m : Mem) (r : FrameRec) : (setFrameRec m r).tlb = m.tlb := rfl
@[simp] theorem setFrameRec_walks (m : Mem) (r : FrameRec) : (setFrameRec m r).walks = m.walks := rfl
@[simp] theorem setFrameRec_splinters (m : Mem) (r : FrameRec) : (setFrameRec m r).splinters = m.splinters := rfl
@[simp] theorem setFrameRec_wos (m : Mem) (r : FrameRec) : (setFrameRec m r).wos = m.wos := rfl
@[simp] theorem setFrameRec_ip (m : Mem) (r : FrameRec) : (setFrameRec m r).ip = m.ip := rfl
@[simp] theorem setFrameRec_copies (m : Mem) (r : FrameRec) : (setFrameRec m r).copies = m.copies := rfl
@[simp] theorem setFrameRec_sid (m : Mem) (r : FrameRec) : (setFrameRec m r).sid = m.sid := rfl
@[simp] theorem setFrameRec_dir (m : Mem) (r : FrameRec) : (setFrameRec m r).dir = m.dir := rfl
@[simp] theorem setFrameRec_ucopies (m : Mem) (r : FrameRec) : (setFrameRec m r).ucopies = m.ucopies := rfl
@[simp] theorem setFrameRec_hostDir (m : Mem) (r : FrameRec) : (setFrameRec m r).hostDir = m.hostDir := rfl
@[simp] theorem setFrameRec_bridgeDir (m : Mem) (r : FrameRec) : (setFrameRec m r).bridgeDir = m.bridgeDir := rfl
@[simp] theorem setFrameRec_asks (m : Mem) (r : FrameRec) : (setFrameRec m r).asks = m.asks := rfl
@[simp] theorem setFrameRec_wants (m : Mem) (r : FrameRec) : (setFrameRec m r).wants = m.wants := rfl
@[simp] theorem setFrameRec_halves (m : Mem) (r : FrameRec) : (setFrameRec m r).halves = m.halves := rfl
@[simp] theorem setFrameRec_undo (m : Mem) (r : FrameRec) : (setFrameRec m r).undo = m.undo := rfl
@[simp] theorem setFrameRec_marks (m : Mem) (r : FrameRec) : (setFrameRec m r).marks = m.marks := rfl
@[simp] theorem setFrameRec_outputs (m : Mem) (r : FrameRec) : (setFrameRec m r).outputs = m.outputs := rfl
@[simp] theorem setFrameRec_inputs (m : Mem) (r : FrameRec) : (setFrameRec m r).inputs = m.inputs := rfl
@[simp] theorem setFrameRec_hostHeld (m : Mem) (r : FrameRec) : (setFrameRec m r).hostHeld = m.hostHeld := rfl
@[simp] theorem setFrameRec_hostOut (m : Mem) (r : FrameRec) : (setFrameRec m r).hostOut = m.hostOut := rfl
@[simp] theorem setFrameRec_keyFull (m : Mem) (r : FrameRec) : (setFrameRec m r).keyFull = m.keyFull := rfl
@[simp] theorem setFrameRec_escrow (m : Mem) (r : FrameRec) : (setFrameRec m r).escrow = m.escrow := rfl
@[simp] theorem setFrameRec_free (m : Mem) (r : FrameRec) : (setFrameRec m r).free = m.free := rfl
@[simp] theorem setFrameRec_origins (m : Mem) (r : FrameRec) : (setFrameRec m r).origins = m.origins := rfl
@[simp] theorem setFrameRec_bad (m : Mem) (r : FrameRec) : (setFrameRec m r).bad = m.bad := rfl
@[simp] theorem setFrameRec_interval (m : Mem) (r : FrameRec) : (setFrameRec m r).interval = m.interval := rfl

/-! ### dirOwn -/

@[simp] theorem dirOwn_cells (m : Mem) (a k : Nat) : (dirOwn m a k).cells = m.cells := rfl
@[simp] theorem dirOwn_hostMem (m : Mem) (a k : Nat) : (dirOwn m a k).hostMem = m.hostMem := rfl
@[simp] theorem dirOwn_nvme (m : Mem) (a k : Nat) : (dirOwn m a k).nvme = m.nvme := rfl
@[simp] theorem dirOwn_tlb (m : Mem) (a k : Nat) : (dirOwn m a k).tlb = m.tlb := rfl
@[simp] theorem dirOwn_walks (m : Mem) (a k : Nat) : (dirOwn m a k).walks = m.walks := rfl
@[simp] theorem dirOwn_frames (m : Mem) (a k : Nat) : (dirOwn m a k).frames = m.frames := rfl
@[simp] theorem dirOwn_splinters (m : Mem) (a k : Nat) : (dirOwn m a k).splinters = m.splinters := rfl
@[simp] theorem dirOwn_wos (m : Mem) (a k : Nat) : (dirOwn m a k).wos = m.wos := rfl
@[simp] theorem dirOwn_ip (m : Mem) (a k : Nat) : (dirOwn m a k).ip = m.ip := rfl
@[simp] theorem dirOwn_sid (m : Mem) (a k : Nat) : (dirOwn m a k).sid = m.sid := rfl
@[simp] theorem dirOwn_ucopies (m : Mem) (a k : Nat) : (dirOwn m a k).ucopies = m.ucopies := rfl
@[simp] theorem dirOwn_bridgeDir (m : Mem) (a k : Nat) : (dirOwn m a k).bridgeDir = m.bridgeDir := rfl
@[simp] theorem dirOwn_asks (m : Mem) (a k : Nat) : (dirOwn m a k).asks = m.asks := rfl
@[simp] theorem dirOwn_wants (m : Mem) (a k : Nat) : (dirOwn m a k).wants = m.wants := rfl
@[simp] theorem dirOwn_halves (m : Mem) (a k : Nat) : (dirOwn m a k).halves = m.halves := rfl
@[simp] theorem dirOwn_undo (m : Mem) (a k : Nat) : (dirOwn m a k).undo = m.undo := rfl
@[simp] theorem dirOwn_marks (m : Mem) (a k : Nat) : (dirOwn m a k).marks = m.marks := rfl
@[simp] theorem dirOwn_outputs (m : Mem) (a k : Nat) : (dirOwn m a k).outputs = m.outputs := rfl
@[simp] theorem dirOwn_inputs (m : Mem) (a k : Nat) : (dirOwn m a k).inputs = m.inputs := rfl
@[simp] theorem dirOwn_hostHeld (m : Mem) (a k : Nat) : (dirOwn m a k).hostHeld = m.hostHeld := rfl
@[simp] theorem dirOwn_hostOut (m : Mem) (a k : Nat) : (dirOwn m a k).hostOut = m.hostOut := rfl
@[simp] theorem dirOwn_keyFull (m : Mem) (a k : Nat) : (dirOwn m a k).keyFull = m.keyFull := rfl
@[simp] theorem dirOwn_escrow (m : Mem) (a k : Nat) : (dirOwn m a k).escrow = m.escrow := rfl
@[simp] theorem dirOwn_free (m : Mem) (a k : Nat) : (dirOwn m a k).free = m.free := rfl
@[simp] theorem dirOwn_origins (m : Mem) (a k : Nat) : (dirOwn m a k).origins = m.origins := rfl
@[simp] theorem dirOwn_bad (m : Mem) (a k : Nat) : (dirOwn m a k).bad = m.bad := rfl
@[simp] theorem dirOwn_interval (m : Mem) (a k : Nat) : (dirOwn m a k).interval = m.interval := rfl

/-! ### ipSet -/

@[simp] theorem ipSet_cells (m : Mem) (c : IpCopy) : (ipSet m c).cells = m.cells := rfl
@[simp] theorem ipSet_hostMem (m : Mem) (c : IpCopy) : (ipSet m c).hostMem = m.hostMem := rfl
@[simp] theorem ipSet_nvme (m : Mem) (c : IpCopy) : (ipSet m c).nvme = m.nvme := rfl
@[simp] theorem ipSet_tlb (m : Mem) (c : IpCopy) : (ipSet m c).tlb = m.tlb := rfl
@[simp] theorem ipSet_walks (m : Mem) (c : IpCopy) : (ipSet m c).walks = m.walks := rfl
@[simp] theorem ipSet_frames (m : Mem) (c : IpCopy) : (ipSet m c).frames = m.frames := rfl
@[simp] theorem ipSet_splinters (m : Mem) (c : IpCopy) : (ipSet m c).splinters = m.splinters := rfl
@[simp] theorem ipSet_wos (m : Mem) (c : IpCopy) : (ipSet m c).wos = m.wos := rfl
@[simp] theorem ipSet_copies (m : Mem) (c : IpCopy) : (ipSet m c).copies = m.copies := rfl
@[simp] theorem ipSet_sid (m : Mem) (c : IpCopy) : (ipSet m c).sid = m.sid := rfl
@[simp] theorem ipSet_dir (m : Mem) (c : IpCopy) : (ipSet m c).dir = m.dir := rfl
@[simp] theorem ipSet_ucopies (m : Mem) (c : IpCopy) : (ipSet m c).ucopies = m.ucopies := rfl
@[simp] theorem ipSet_hostDir (m : Mem) (c : IpCopy) : (ipSet m c).hostDir = m.hostDir := rfl
@[simp] theorem ipSet_bridgeDir (m : Mem) (c : IpCopy) : (ipSet m c).bridgeDir = m.bridgeDir := rfl
@[simp] theorem ipSet_asks (m : Mem) (c : IpCopy) : (ipSet m c).asks = m.asks := rfl
@[simp] theorem ipSet_wants (m : Mem) (c : IpCopy) : (ipSet m c).wants = m.wants := rfl
@[simp] theorem ipSet_halves (m : Mem) (c : IpCopy) : (ipSet m c).halves = m.halves := rfl
@[simp] theorem ipSet_undo (m : Mem) (c : IpCopy) : (ipSet m c).undo = m.undo := rfl
@[simp] theorem ipSet_marks (m : Mem) (c : IpCopy) : (ipSet m c).marks = m.marks := rfl
@[simp] theorem ipSet_outputs (m : Mem) (c : IpCopy) : (ipSet m c).outputs = m.outputs := rfl
@[simp] theorem ipSet_inputs (m : Mem) (c : IpCopy) : (ipSet m c).inputs = m.inputs := rfl
@[simp] theorem ipSet_hostHeld (m : Mem) (c : IpCopy) : (ipSet m c).hostHeld = m.hostHeld := rfl
@[simp] theorem ipSet_hostOut (m : Mem) (c : IpCopy) : (ipSet m c).hostOut = m.hostOut := rfl
@[simp] theorem ipSet_keyFull (m : Mem) (c : IpCopy) : (ipSet m c).keyFull = m.keyFull := rfl
@[simp] theorem ipSet_escrow (m : Mem) (c : IpCopy) : (ipSet m c).escrow = m.escrow := rfl
@[simp] theorem ipSet_free (m : Mem) (c : IpCopy) : (ipSet m c).free = m.free := rfl
@[simp] theorem ipSet_origins (m : Mem) (c : IpCopy) : (ipSet m c).origins = m.origins := rfl
@[simp] theorem ipSet_bad (m : Mem) (c : IpCopy) : (ipSet m c).bad = m.bad := rfl
@[simp] theorem ipSet_interval (m : Mem) (c : IpCopy) : (ipSet m c).interval = m.interval := rfl

/-! ### ipDrop -/

@[simp] theorem ipDrop_cells (m : Mem) (k : IpHolder) (n : Nat) : (ipDrop m k n).cells = m.cells := rfl
@[simp] theorem ipDrop_hostMem (m : Mem) (k : IpHolder) (n : Nat) : (ipDrop m k n).hostMem = m.hostMem := rfl
@[simp] theorem ipDrop_nvme (m : Mem) (k : IpHolder) (n : Nat) : (ipDrop m k n).nvme = m.nvme := rfl
@[simp] theorem ipDrop_tlb (m : Mem) (k : IpHolder) (n : Nat) : (ipDrop m k n).tlb = m.tlb := rfl
@[simp] theorem ipDrop_walks (m : Mem) (k : IpHolder) (n : Nat) : (ipDrop m k n).walks = m.walks := rfl
@[simp] theorem ipDrop_frames (m : Mem) (k : IpHolder) (n : Nat) : (ipDrop m k n).frames = m.frames := rfl
@[simp] theorem ipDrop_splinters (m : Mem) (k : IpHolder) (n : Nat) : (ipDrop m k n).splinters = m.splinters := rfl
@[simp] theorem ipDrop_wos (m : Mem) (k : IpHolder) (n : Nat) : (ipDrop m k n).wos = m.wos := rfl
@[simp] theorem ipDrop_copies (m : Mem) (k : IpHolder) (n : Nat) : (ipDrop m k n).copies = m.copies := rfl
@[simp] theorem ipDrop_sid (m : Mem) (k : IpHolder) (n : Nat) : (ipDrop m k n).sid = m.sid := rfl
@[simp] theorem ipDrop_dir (m : Mem) (k : IpHolder) (n : Nat) : (ipDrop m k n).dir = m.dir := rfl
@[simp] theorem ipDrop_ucopies (m : Mem) (k : IpHolder) (n : Nat) : (ipDrop m k n).ucopies = m.ucopies := rfl
@[simp] theorem ipDrop_hostDir (m : Mem) (k : IpHolder) (n : Nat) : (ipDrop m k n).hostDir = m.hostDir := rfl
@[simp] theorem ipDrop_bridgeDir (m : Mem) (k : IpHolder) (n : Nat) : (ipDrop m k n).bridgeDir = m.bridgeDir := rfl
@[simp] theorem ipDrop_asks (m : Mem) (k : IpHolder) (n : Nat) : (ipDrop m k n).asks = m.asks := rfl
@[simp] theorem ipDrop_wants (m : Mem) (k : IpHolder) (n : Nat) : (ipDrop m k n).wants = m.wants := rfl
@[simp] theorem ipDrop_halves (m : Mem) (k : IpHolder) (n : Nat) : (ipDrop m k n).halves = m.halves := rfl
@[simp] theorem ipDrop_undo (m : Mem) (k : IpHolder) (n : Nat) : (ipDrop m k n).undo = m.undo := rfl
@[simp] theorem ipDrop_marks (m : Mem) (k : IpHolder) (n : Nat) : (ipDrop m k n).marks = m.marks := rfl
@[simp] theorem ipDrop_outputs (m : Mem) (k : IpHolder) (n : Nat) : (ipDrop m k n).outputs = m.outputs := rfl
@[simp] theorem ipDrop_inputs (m : Mem) (k : IpHolder) (n : Nat) : (ipDrop m k n).inputs = m.inputs := rfl
@[simp] theorem ipDrop_hostHeld (m : Mem) (k : IpHolder) (n : Nat) : (ipDrop m k n).hostHeld = m.hostHeld := rfl
@[simp] theorem ipDrop_hostOut (m : Mem) (k : IpHolder) (n : Nat) : (ipDrop m k n).hostOut = m.hostOut := rfl
@[simp] theorem ipDrop_keyFull (m : Mem) (k : IpHolder) (n : Nat) : (ipDrop m k n).keyFull = m.keyFull := rfl
@[simp] theorem ipDrop_escrow (m : Mem) (k : IpHolder) (n : Nat) : (ipDrop m k n).escrow = m.escrow := rfl
@[simp] theorem ipDrop_free (m : Mem) (k : IpHolder) (n : Nat) : (ipDrop m k n).free = m.free := rfl
@[simp] theorem ipDrop_origins (m : Mem) (k : IpHolder) (n : Nat) : (ipDrop m k n).origins = m.origins := rfl
@[simp] theorem ipDrop_bad (m : Mem) (k : IpHolder) (n : Nat) : (ipDrop m k n).bad = m.bad := rfl
@[simp] theorem ipDrop_interval (m : Mem) (k : IpHolder) (n : Nat) : (ipDrop m k n).interval = m.interval := rfl

/-! ### noteStates -/

@[simp] theorem noteStates_cells (m : Mem) (k : Nat) : (noteStates m k).cells = m.cells := rfl
@[simp] theorem noteStates_hostMem (m : Mem) (k : Nat) : (noteStates m k).hostMem = m.hostMem := rfl
@[simp] theorem noteStates_nvme (m : Mem) (k : Nat) : (noteStates m k).nvme = m.nvme := rfl
@[simp] theorem noteStates_tlb (m : Mem) (k : Nat) : (noteStates m k).tlb = m.tlb := rfl
@[simp] theorem noteStates_walks (m : Mem) (k : Nat) : (noteStates m k).walks = m.walks := rfl
@[simp] theorem noteStates_frames (m : Mem) (k : Nat) : (noteStates m k).frames = m.frames := rfl
@[simp] theorem noteStates_splinters (m : Mem) (k : Nat) : (noteStates m k).splinters = m.splinters := rfl
@[simp] theorem noteStates_wos (m : Mem) (k : Nat) : (noteStates m k).wos = m.wos := rfl
@[simp] theorem noteStates_ip (m : Mem) (k : Nat) : (noteStates m k).ip = m.ip := rfl
@[simp] theorem noteStates_copies (m : Mem) (k : Nat) : (noteStates m k).copies = m.copies := rfl
@[simp] theorem noteStates_sid (m : Mem) (k : Nat) : (noteStates m k).sid = m.sid := rfl
@[simp] theorem noteStates_dir (m : Mem) (k : Nat) : (noteStates m k).dir = m.dir := rfl
@[simp] theorem noteStates_ucopies (m : Mem) (k : Nat) : (noteStates m k).ucopies = m.ucopies := rfl
@[simp] theorem noteStates_hostDir (m : Mem) (k : Nat) : (noteStates m k).hostDir = m.hostDir := rfl
@[simp] theorem noteStates_bridgeDir (m : Mem) (k : Nat) : (noteStates m k).bridgeDir = m.bridgeDir := rfl
@[simp] theorem noteStates_asks (m : Mem) (k : Nat) : (noteStates m k).asks = m.asks := rfl
@[simp] theorem noteStates_wants (m : Mem) (k : Nat) : (noteStates m k).wants = m.wants := rfl
@[simp] theorem noteStates_halves (m : Mem) (k : Nat) : (noteStates m k).halves = m.halves := rfl
@[simp] theorem noteStates_marks (m : Mem) (k : Nat) : (noteStates m k).marks = m.marks := rfl
@[simp] theorem noteStates_outputs (m : Mem) (k : Nat) : (noteStates m k).outputs = m.outputs := rfl
@[simp] theorem noteStates_inputs (m : Mem) (k : Nat) : (noteStates m k).inputs = m.inputs := rfl
@[simp] theorem noteStates_hostHeld (m : Mem) (k : Nat) : (noteStates m k).hostHeld = m.hostHeld := rfl
@[simp] theorem noteStates_hostOut (m : Mem) (k : Nat) : (noteStates m k).hostOut = m.hostOut := rfl
@[simp] theorem noteStates_keyFull (m : Mem) (k : Nat) : (noteStates m k).keyFull = m.keyFull := rfl
@[simp] theorem noteStates_escrow (m : Mem) (k : Nat) : (noteStates m k).escrow = m.escrow := rfl
@[simp] theorem noteStates_free (m : Mem) (k : Nat) : (noteStates m k).free = m.free := rfl
@[simp] theorem noteStates_origins (m : Mem) (k : Nat) : (noteStates m k).origins = m.origins := rfl
@[simp] theorem noteStates_bad (m : Mem) (k : Nat) : (noteStates m k).bad = m.bad := rfl
@[simp] theorem noteStates_interval (m : Mem) (k : Nat) : (noteStates m k).interval = m.interval := rfl

/-! ### withHeader -/

@[simp] theorem withHeader_num (x : Ctx) (k : BitVec 256) : (withHeader x k).num = x.num := rfl
@[simp] theorem withHeader_desc (x : Ctx) (k : BitVec 256) : (withHeader x k).desc = x.desc := rfl
@[simp] theorem withHeader_tables (x : Ctx) (k : BitVec 256) : (withHeader x k).tables = x.tables := rfl
@[simp] theorem withHeader_resident (x : Ctx) (k : BitVec 256) : (withHeader x k).resident = x.resident := rfl
@[simp] theorem withHeader_leaving (x : Ctx) (k : BitVec 256) : (withHeader x k).leaving = x.leaving := rfl
@[simp] theorem withHeader_tilesOut (x : Ctx) (k : BitVec 256) : (withHeader x k).tilesOut = x.tilesOut := rfl
@[simp] theorem withHeader_rclk (x : Ctx) (k : BitVec 256) : (withHeader x k).rclk = x.rclk := rfl

/-! ### Reading what an update wrote -/

@[simp] theorem sReg_setS_same (w : Warp) (n : Fin 64) (x : Scalar) : sReg (setS w n x) n = x := Vector.getElem_set_self n.isLt

theorem sReg_setS_other (w : Warp) {n k : Fin 64} (x : Scalar) (h : k ≠ n) : sReg (setS w n x) k = sReg w k :=
  Vector.getElem_set_ne n.isLt k.isLt fun e => h (Fin.ext e.symm)

theorem vLane_setV_other (w : Warp) {n k : Fin 232} (q : Mask) (f : Fin 64 → Lane) (l : Fin 64) (h : k ≠ n) :
    vLane (setV w n q f) k l = vLane w k l :=
  congrArg (·[l]) (Vector.getElem_set_ne n.isLt k.isLt fun e => h (Fin.ext e.symm))

/-! ### The paths that end (R193): what moving to the successor or to a target leaves as it was; the deferred path of a
split may come into focus with its own wait (R194) -/

/-- Ending paths changes the divergence stack, the path in focus, and what a trap entry restores, nothing else. -/
theorem unwind_frame : ∀ (n : Nat) (e : Bool) (w : Warp), { unwind n e w with stack := w.stack, exec := w.exec, m := w.m, pc := w.pc, enter := w.enter, trapmask := w.trapmask, floor := w.floor, rp := w.rp, rowResume := w.rowResume, clause := w.clause, status := w.status, since := w.since, woken := w.woken } = w
  | 0, _, _ => rfl
  | n + 1, e, w => by
    unfold unwind
    split
    · rfl
    · split
      all_goals repeat' split
      all_goals first | rfl | exact congrArg (fun q : Warp => { q with stack := w.stack, exec := w.exec, m := w.m, pc := w.pc, enter := w.enter, trapmask := w.trapmask, floor := w.floor, rp := w.rp, rowResume := w.rowResume, clause := w.clause, status := w.status, since := w.since, woken := w.woken }) (unwind_frame n _ _)

@[simp] theorem unwind_wid (n : Nat) (e : Bool) (w : Warp) : (unwind n e w).wid = w.wid := (congrArg Warp.wid (unwind_frame n e w) :)
@[simp] theorem unwind_ctx (n : Nat) (e : Bool) (w : Warp) : (unwind n e w).ctx = w.ctx := (congrArg Warp.ctx (unwind_frame n e w) :)
@[simp] theorem unwind_bid (n : Nat) (e : Bool) (w : Warp) : (unwind n e w).bid = w.bid := (congrArg Warp.bid (unwind_frame n e w) :)
@[simp] theorem unwind_node (n : Nat) (e : Bool) (w : Warp) : (unwind n e w).node = w.node := (congrArg Warp.node (unwind_frame n e w) :)
@[simp] theorem unwind_widx (n : Nat) (e : Bool) (w : Warp) : (unwind n e w).widx = w.widx := (congrArg Warp.widx (unwind_frame n e w) :)
@[simp] theorem unwind_stage (n : Nat) (e : Bool) (w : Warp) : (unwind n e w).stage = w.stage := (congrArg Warp.stage (unwind_frame n e w) :)
@[simp] theorem unwind_twin (n : Nat) (e : Bool) (w : Warp) : (unwind n e w).twin = w.twin := (congrArg Warp.twin (unwind_frame n e w) :)
@[simp] theorem unwind_rap (n : Nat) (e : Bool) (w : Warp) : (unwind n e w).rap = w.rap := (congrArg Warp.rap (unwind_frame n e w) :)
@[simp] theorem unwind_span (n : Nat) (e : Bool) (w : Warp) : (unwind n e w).span = w.span := (congrArg Warp.span (unwind_frame n e w) :)
@[simp] theorem unwind_core (n : Nat) (e : Bool) (w : Warp) : (unwind n e w).core = w.core := (congrArg Warp.core (unwind_frame n e w) :)
@[simp] theorem unwind_part (n : Nat) (e : Bool) (w : Warp) : (unwind n e w).part = w.part := (congrArg Warp.part (unwind_frame n e w) :)
@[simp] theorem unwind_slot (n : Nat) (e : Bool) (w : Warp) : (unwind n e w).slot = w.slot := (congrArg Warp.slot (unwind_frame n e w) :)
@[simp] theorem unwind_v (n : Nat) (e : Bool) (w : Warp) : (unwind n e w).v = w.v := (congrArg Warp.v (unwind_frame n e w) :)
@[simp] theorem unwind_claimed (n : Nat) (e : Bool) (w : Warp) : (unwind n e w).claimed = w.claimed := (congrArg Warp.claimed (unwind_frame n e w) :)
@[simp] theorem unwind_p (n : Nat) (e : Bool) (w : Warp) : (unwind n e w).p = w.p := (congrArg Warp.p (unwind_frame n e w) :)
@[simp] theorem unwind_s (n : Nat) (e : Bool) (w : Warp) : (unwind n e w).s = w.s := (congrArg Warp.s (unwind_frame n e w) :)
@[simp] theorem unwind_h (n : Nat) (e : Bool) (w : Warp) : (unwind n e w).h = w.h := (congrArg Warp.h (unwind_frame n e w) :)
@[simp] theorem unwind_acc (n : Nat) (e : Bool) (w : Warp) : (unwind n e w).acc = w.acc := (congrArg Warp.acc (unwind_frame n e w) :)
@[simp] theorem unwind_rowState (n : Nat) (e : Bool) (w : Warp) : (unwind n e w).rowState = w.rowState := (congrArg Warp.rowState (unwind_frame n e w) :)
@[simp] theorem unwind_mode (n : Nat) (e : Bool) (w : Warp) : (unwind n e w).mode = w.mode := (congrArg Warp.mode (unwind_frame n e w) :)
@[simp] theorem unwind_lr (n : Nat) (e : Bool) (w : Warp) : (unwind n e w).lr = w.lr := (congrArg Warp.lr (unwind_frame n e w) :)
@[simp] theorem unwind_lrhi (n : Nat) (e : Bool) (w : Warp) : (unwind n e w).lrhi = w.lrhi := (congrArg Warp.lrhi (unwind_frame n e w) :)
@[simp] theorem unwind_replay (n : Nat) (e : Bool) (w : Warp) : (unwind n e w).replay = w.replay := (congrArg Warp.replay (unwind_frame n e w) :)
@[simp] theorem unwind_rowprog (n : Nat) (e : Bool) (w : Warp) : (unwind n e w).rowprog = w.rowprog := (congrArg Warp.rowprog (unwind_frame n e w) :)
@[simp] theorem unwind_rowAt (n : Nat) (e : Bool) (w : Warp) : (unwind n e w).rowAt = w.rowAt := (congrArg Warp.rowAt (unwind_frame n e w) :)
@[simp] theorem unwind_accPend (n : Nat) (e : Bool) (w : Warp) : (unwind n e w).accPend = w.accPend := (congrArg Warp.accPend (unwind_frame n e w) :)
@[simp] theorem unwind_zerocnt (n : Nat) (e : Bool) (w : Warp) : (unwind n e w).zerocnt = w.zerocnt := (congrArg Warp.zerocnt (unwind_frame n e w) :)
@[simp] theorem unwind_porig (n : Nat) (e : Bool) (w : Warp) : (unwind n e w).porig = w.porig := (congrArg Warp.porig (unwind_frame n e w) :)
@[simp] theorem unwind_qsub (n : Nat) (e : Bool) (w : Warp) : (unwind n e w).qsub = w.qsub := (congrArg Warp.qsub (unwind_frame n e w) :)
@[simp] theorem unwind_qpos (n : Nat) (e : Bool) (w : Warp) : (unwind n e w).qpos = w.qpos := (congrArg Warp.qpos (unwind_frame n e w) :)
@[simp] theorem unwind_cycdl (n : Nat) (e : Bool) (w : Warp) : (unwind n e w).cycdl = w.cycdl := (congrArg Warp.cycdl (unwind_frame n e w) :)
@[simp] theorem unwind_walldl (n : Nat) (e : Bool) (w : Warp) : (unwind n e w).walldl = w.walldl := (congrArg Warp.walldl (unwind_frame n e w) :)
@[simp] theorem unwind_cyc (n : Nat) (e : Bool) (w : Warp) : (unwind n e w).cyc = w.cyc := (congrArg Warp.cyc (unwind_frame n e w) :)
@[simp] theorem unwind_flags (n : Nat) (e : Bool) (w : Warp) : (unwind n e w).flags = w.flags := (congrArg Warp.flags (unwind_frame n e w) :)
@[simp] theorem unwind_gone (n : Nat) (e : Bool) (w : Warp) : (unwind n e w).gone = w.gone := (congrArg Warp.gone (unwind_frame n e w) :)
@[simp] theorem unwind_stores (n : Nat) (e : Bool) (w : Warp) : (unwind n e w).stores = w.stores := (congrArg Warp.stores (unwind_frame n e w) :)
@[simp] theorem unwind_unacked (n : Nat) (e : Bool) (w : Warp) : (unwind n e w).unacked = w.unacked := (congrArg Warp.unacked (unwind_frame n e w) :)
@[simp] theorem unwind_loads (n : Nat) (e : Bool) (w : Warp) : (unwind n e w).loads = w.loads := (congrArg Warp.loads (unwind_frame n e w) :)
@[simp] theorem unwind_xp (n : Nat) (e : Bool) (w : Warp) : (unwind n e w).xp = w.xp := (congrArg Warp.xp (unwind_frame n e w) :)
@[simp] theorem unwind_pushes (n : Nat) (e : Bool) (w : Warp) : (unwind n e w).pushes = w.pushes := (congrArg Warp.pushes (unwind_frame n e w) :)
@[simp] theorem unwind_matReq (n : Nat) (e : Bool) (w : Warp) : (unwind n e w).matReq = w.matReq := (congrArg Warp.matReq (unwind_frame n e w) :)
@[simp] theorem unwind_mat (n : Nat) (e : Bool) (w : Warp) : (unwind n e w).mat = w.mat := (congrArg Warp.mat (unwind_frame n e w) :)
@[simp] theorem unwind_remotes (n : Nat) (e : Bool) (w : Warp) : (unwind n e w).remotes = w.remotes := (congrArg Warp.remotes (unwind_frame n e w) :)
@[simp] theorem unwind_late (n : Nat) (e : Bool) (w : Warp) : (unwind n e w).late = w.late := (congrArg Warp.late (unwind_frame n e w) :)
@[simp] theorem unwind_summary (n : Nat) (e : Bool) (w : Warp) : (unwind n e w).summary = w.summary := (congrArg Warp.summary (unwind_frame n e w) :)
@[simp] theorem unwind_summaryDone (n : Nat) (e : Bool) (w : Warp) : (unwind n e w).summaryDone = w.summaryDone := (congrArg Warp.summaryDone (unwind_frame n e w) :)
@[simp] theorem unwind_faultSlot (n : Nat) (e : Bool) (w : Warp) : (unwind n e w).faultSlot = w.faultSlot := (congrArg Warp.faultSlot (unwind_frame n e w) :)
@[simp] theorem unwind_keys (n : Nat) (e : Bool) (w : Warp) : (unwind n e w).keys = w.keys := (congrArg Warp.keys (unwind_frame n e w) :)
@[simp] theorem unwind_live (n : Nat) (e : Bool) (w : Warp) : (unwind n e w).live = w.live := (congrArg Warp.live (unwind_frame n e w) :)
@[simp] theorem unwind_keyPop (n : Nat) (e : Bool) (w : Warp) : (unwind n e w).keyPop = w.keyPop := (congrArg Warp.keyPop (unwind_frame n e w) :)
@[simp] theorem unwind_detached (n : Nat) (e : Bool) (w : Warp) : (unwind n e w).detached = w.detached := (congrArg Warp.detached (unwind_frame n e w) :)
@[simp] theorem unwind_attached (n : Nat) (e : Bool) (w : Warp) : (unwind n e w).attached = w.attached := (congrArg Warp.attached (unwind_frame n e w) :)
@[simp] theorem unwind_waited (n : Nat) (e : Bool) (w : Warp) : (unwind n e w).waited = w.waited := (congrArg Warp.waited (unwind_frame n e w) :)
@[simp] theorem unwind_yields (n : Nat) (e : Bool) (w : Warp) : (unwind n e w).yields = w.yields := (congrArg Warp.yields (unwind_frame n e w) :)
@[simp] theorem unwind_spilled (n : Nat) (e : Bool) (w : Warp) : (unwind n e w).spilled = w.spilled := (congrArg Warp.spilled (unwind_frame n e w) :)
@[simp] theorem unwind_away (n : Nat) (e : Bool) (w : Warp) : (unwind n e w).away = w.away := (congrArg Warp.away (unwind_frame n e w) :)
@[simp] theorem unwind_backing (n : Nat) (e : Bool) (w : Warp) : (unwind n e w).backing = w.backing := (congrArg Warp.backing (unwind_frame n e w) :)

@[simp] theorem stepOver_wid (w : Warp) : (stepOver w).wid = w.wid := unwind_wid _ _ _
@[simp] theorem stepOver_ctx (w : Warp) : (stepOver w).ctx = w.ctx := unwind_ctx _ _ _
@[simp] theorem stepOver_bid (w : Warp) : (stepOver w).bid = w.bid := unwind_bid _ _ _
@[simp] theorem stepOver_node (w : Warp) : (stepOver w).node = w.node := unwind_node _ _ _
@[simp] theorem stepOver_widx (w : Warp) : (stepOver w).widx = w.widx := unwind_widx _ _ _
@[simp] theorem stepOver_stage (w : Warp) : (stepOver w).stage = w.stage := unwind_stage _ _ _
@[simp] theorem stepOver_twin (w : Warp) : (stepOver w).twin = w.twin := unwind_twin _ _ _
@[simp] theorem stepOver_rap (w : Warp) : (stepOver w).rap = w.rap := unwind_rap _ _ _
@[simp] theorem stepOver_span (w : Warp) : (stepOver w).span = w.span := unwind_span _ _ _
@[simp] theorem stepOver_core (w : Warp) : (stepOver w).core = w.core := unwind_core _ _ _
@[simp] theorem stepOver_part (w : Warp) : (stepOver w).part = w.part := unwind_part _ _ _
@[simp] theorem stepOver_slot (w : Warp) : (stepOver w).slot = w.slot := unwind_slot _ _ _
@[simp] theorem stepOver_v (w : Warp) : (stepOver w).v = w.v := unwind_v _ _ _
@[simp] theorem stepOver_claimed (w : Warp) : (stepOver w).claimed = w.claimed := unwind_claimed _ _ _
@[simp] theorem stepOver_p (w : Warp) : (stepOver w).p = w.p := unwind_p _ _ _
@[simp] theorem stepOver_s (w : Warp) : (stepOver w).s = w.s := unwind_s _ _ _
@[simp] theorem stepOver_h (w : Warp) : (stepOver w).h = w.h := unwind_h _ _ _
@[simp] theorem stepOver_acc (w : Warp) : (stepOver w).acc = w.acc := unwind_acc _ _ _
@[simp] theorem stepOver_rowState (w : Warp) : (stepOver w).rowState = w.rowState := unwind_rowState _ _ _
@[simp] theorem stepOver_mode (w : Warp) : (stepOver w).mode = w.mode := unwind_mode _ _ _
@[simp] theorem stepOver_lr (w : Warp) : (stepOver w).lr = w.lr := unwind_lr _ _ _
@[simp] theorem stepOver_lrhi (w : Warp) : (stepOver w).lrhi = w.lrhi := unwind_lrhi _ _ _
@[simp] theorem stepOver_replay (w : Warp) : (stepOver w).replay = w.replay := unwind_replay _ _ _
@[simp] theorem stepOver_rowprog (w : Warp) : (stepOver w).rowprog = w.rowprog := unwind_rowprog _ _ _
@[simp] theorem stepOver_rowAt (w : Warp) : (stepOver w).rowAt = w.rowAt := unwind_rowAt _ _ _
@[simp] theorem stepOver_accPend (w : Warp) : (stepOver w).accPend = w.accPend := unwind_accPend _ _ _
@[simp] theorem stepOver_zerocnt (w : Warp) : (stepOver w).zerocnt = w.zerocnt := unwind_zerocnt _ _ _
@[simp] theorem stepOver_porig (w : Warp) : (stepOver w).porig = w.porig := unwind_porig _ _ _
@[simp] theorem stepOver_qsub (w : Warp) : (stepOver w).qsub = w.qsub := unwind_qsub _ _ _
@[simp] theorem stepOver_qpos (w : Warp) : (stepOver w).qpos = w.qpos := unwind_qpos _ _ _
@[simp] theorem stepOver_cycdl (w : Warp) : (stepOver w).cycdl = w.cycdl := unwind_cycdl _ _ _
@[simp] theorem stepOver_walldl (w : Warp) : (stepOver w).walldl = w.walldl := unwind_walldl _ _ _
@[simp] theorem stepOver_cyc (w : Warp) : (stepOver w).cyc = w.cyc := unwind_cyc _ _ _
@[simp] theorem stepOver_flags (w : Warp) : (stepOver w).flags = w.flags := unwind_flags _ _ _
@[simp] theorem stepOver_gone (w : Warp) : (stepOver w).gone = w.gone := unwind_gone _ _ _
@[simp] theorem stepOver_stores (w : Warp) : (stepOver w).stores = w.stores := unwind_stores _ _ _
@[simp] theorem stepOver_unacked (w : Warp) : (stepOver w).unacked = w.unacked := unwind_unacked _ _ _
@[simp] theorem stepOver_loads (w : Warp) : (stepOver w).loads = w.loads := unwind_loads _ _ _
@[simp] theorem stepOver_xp (w : Warp) : (stepOver w).xp = w.xp := unwind_xp _ _ _
@[simp] theorem stepOver_pushes (w : Warp) : (stepOver w).pushes = w.pushes := unwind_pushes _ _ _
@[simp] theorem stepOver_matReq (w : Warp) : (stepOver w).matReq = w.matReq := unwind_matReq _ _ _
@[simp] theorem stepOver_mat (w : Warp) : (stepOver w).mat = w.mat := unwind_mat _ _ _
@[simp] theorem stepOver_remotes (w : Warp) : (stepOver w).remotes = w.remotes := unwind_remotes _ _ _
@[simp] theorem stepOver_late (w : Warp) : (stepOver w).late = w.late := unwind_late _ _ _
@[simp] theorem stepOver_summary (w : Warp) : (stepOver w).summary = w.summary := unwind_summary _ _ _
@[simp] theorem stepOver_summaryDone (w : Warp) : (stepOver w).summaryDone = w.summaryDone := unwind_summaryDone _ _ _
@[simp] theorem stepOver_faultSlot (w : Warp) : (stepOver w).faultSlot = w.faultSlot := unwind_faultSlot _ _ _
@[simp] theorem stepOver_keys (w : Warp) : (stepOver w).keys = w.keys := unwind_keys _ _ _
@[simp] theorem stepOver_live (w : Warp) : (stepOver w).live = w.live := unwind_live _ _ _
@[simp] theorem stepOver_keyPop (w : Warp) : (stepOver w).keyPop = w.keyPop := unwind_keyPop _ _ _
@[simp] theorem stepOver_detached (w : Warp) : (stepOver w).detached = w.detached := unwind_detached _ _ _
@[simp] theorem stepOver_attached (w : Warp) : (stepOver w).attached = w.attached := unwind_attached _ _ _
@[simp] theorem stepOver_waited (w : Warp) : (stepOver w).waited = w.waited := unwind_waited _ _ _
@[simp] theorem stepOver_yields (w : Warp) : (stepOver w).yields = w.yields := unwind_yields _ _ _
@[simp] theorem stepOver_spilled (w : Warp) : (stepOver w).spilled = w.spilled := unwind_spilled _ _ _
@[simp] theorem stepOver_away (w : Warp) : (stepOver w).away = w.away := unwind_away _ _ _
@[simp] theorem stepOver_backing (w : Warp) : (stepOver w).backing = w.backing := unwind_backing _ _ _

@[simp] theorem jumpTo_wid (w : Warp) (k : VA) : (jumpTo w k).wid = w.wid := unwind_wid _ _ _
@[simp] theorem jumpTo_ctx (w : Warp) (k : VA) : (jumpTo w k).ctx = w.ctx := unwind_ctx _ _ _
@[simp] theorem jumpTo_bid (w : Warp) (k : VA) : (jumpTo w k).bid = w.bid := unwind_bid _ _ _
@[simp] theorem jumpTo_node (w : Warp) (k : VA) : (jumpTo w k).node = w.node := unwind_node _ _ _
@[simp] theorem jumpTo_widx (w : Warp) (k : VA) : (jumpTo w k).widx = w.widx := unwind_widx _ _ _
@[simp] theorem jumpTo_stage (w : Warp) (k : VA) : (jumpTo w k).stage = w.stage := unwind_stage _ _ _
@[simp] theorem jumpTo_twin (w : Warp) (k : VA) : (jumpTo w k).twin = w.twin := unwind_twin _ _ _
@[simp] theorem jumpTo_rap (w : Warp) (k : VA) : (jumpTo w k).rap = w.rap := unwind_rap _ _ _
@[simp] theorem jumpTo_span (w : Warp) (k : VA) : (jumpTo w k).span = w.span := unwind_span _ _ _
@[simp] theorem jumpTo_core (w : Warp) (k : VA) : (jumpTo w k).core = w.core := unwind_core _ _ _
@[simp] theorem jumpTo_part (w : Warp) (k : VA) : (jumpTo w k).part = w.part := unwind_part _ _ _
@[simp] theorem jumpTo_slot (w : Warp) (k : VA) : (jumpTo w k).slot = w.slot := unwind_slot _ _ _
@[simp] theorem jumpTo_v (w : Warp) (k : VA) : (jumpTo w k).v = w.v := unwind_v _ _ _
@[simp] theorem jumpTo_claimed (w : Warp) (k : VA) : (jumpTo w k).claimed = w.claimed := unwind_claimed _ _ _
@[simp] theorem jumpTo_p (w : Warp) (k : VA) : (jumpTo w k).p = w.p := unwind_p _ _ _
@[simp] theorem jumpTo_s (w : Warp) (k : VA) : (jumpTo w k).s = w.s := unwind_s _ _ _
@[simp] theorem jumpTo_h (w : Warp) (k : VA) : (jumpTo w k).h = w.h := unwind_h _ _ _
@[simp] theorem jumpTo_acc (w : Warp) (k : VA) : (jumpTo w k).acc = w.acc := unwind_acc _ _ _
@[simp] theorem jumpTo_rowState (w : Warp) (k : VA) : (jumpTo w k).rowState = w.rowState := unwind_rowState _ _ _
@[simp] theorem jumpTo_mode (w : Warp) (k : VA) : (jumpTo w k).mode = w.mode := unwind_mode _ _ _
@[simp] theorem jumpTo_lr (w : Warp) (k : VA) : (jumpTo w k).lr = w.lr := unwind_lr _ _ _
@[simp] theorem jumpTo_lrhi (w : Warp) (k : VA) : (jumpTo w k).lrhi = w.lrhi := unwind_lrhi _ _ _
@[simp] theorem jumpTo_replay (w : Warp) (k : VA) : (jumpTo w k).replay = w.replay := unwind_replay _ _ _
@[simp] theorem jumpTo_rowprog (w : Warp) (k : VA) : (jumpTo w k).rowprog = w.rowprog := unwind_rowprog _ _ _
@[simp] theorem jumpTo_rowAt (w : Warp) (k : VA) : (jumpTo w k).rowAt = w.rowAt := unwind_rowAt _ _ _
@[simp] theorem jumpTo_accPend (w : Warp) (k : VA) : (jumpTo w k).accPend = w.accPend := unwind_accPend _ _ _
@[simp] theorem jumpTo_zerocnt (w : Warp) (k : VA) : (jumpTo w k).zerocnt = w.zerocnt := unwind_zerocnt _ _ _
@[simp] theorem jumpTo_porig (w : Warp) (k : VA) : (jumpTo w k).porig = w.porig := unwind_porig _ _ _
@[simp] theorem jumpTo_qsub (w : Warp) (k : VA) : (jumpTo w k).qsub = w.qsub := unwind_qsub _ _ _
@[simp] theorem jumpTo_qpos (w : Warp) (k : VA) : (jumpTo w k).qpos = w.qpos := unwind_qpos _ _ _
@[simp] theorem jumpTo_cycdl (w : Warp) (k : VA) : (jumpTo w k).cycdl = w.cycdl := unwind_cycdl _ _ _
@[simp] theorem jumpTo_walldl (w : Warp) (k : VA) : (jumpTo w k).walldl = w.walldl := unwind_walldl _ _ _
@[simp] theorem jumpTo_cyc (w : Warp) (k : VA) : (jumpTo w k).cyc = w.cyc := unwind_cyc _ _ _
@[simp] theorem jumpTo_flags (w : Warp) (k : VA) : (jumpTo w k).flags = w.flags := unwind_flags _ _ _
@[simp] theorem jumpTo_gone (w : Warp) (k : VA) : (jumpTo w k).gone = w.gone := unwind_gone _ _ _
@[simp] theorem jumpTo_stores (w : Warp) (k : VA) : (jumpTo w k).stores = w.stores := unwind_stores _ _ _
@[simp] theorem jumpTo_unacked (w : Warp) (k : VA) : (jumpTo w k).unacked = w.unacked := unwind_unacked _ _ _
@[simp] theorem jumpTo_loads (w : Warp) (k : VA) : (jumpTo w k).loads = w.loads := unwind_loads _ _ _
@[simp] theorem jumpTo_xp (w : Warp) (k : VA) : (jumpTo w k).xp = w.xp := unwind_xp _ _ _
@[simp] theorem jumpTo_pushes (w : Warp) (k : VA) : (jumpTo w k).pushes = w.pushes := unwind_pushes _ _ _
@[simp] theorem jumpTo_matReq (w : Warp) (k : VA) : (jumpTo w k).matReq = w.matReq := unwind_matReq _ _ _
@[simp] theorem jumpTo_mat (w : Warp) (k : VA) : (jumpTo w k).mat = w.mat := unwind_mat _ _ _
@[simp] theorem jumpTo_remotes (w : Warp) (k : VA) : (jumpTo w k).remotes = w.remotes := unwind_remotes _ _ _
@[simp] theorem jumpTo_late (w : Warp) (k : VA) : (jumpTo w k).late = w.late := unwind_late _ _ _
@[simp] theorem jumpTo_summary (w : Warp) (k : VA) : (jumpTo w k).summary = w.summary := unwind_summary _ _ _
@[simp] theorem jumpTo_summaryDone (w : Warp) (k : VA) : (jumpTo w k).summaryDone = w.summaryDone := unwind_summaryDone _ _ _
@[simp] theorem jumpTo_faultSlot (w : Warp) (k : VA) : (jumpTo w k).faultSlot = w.faultSlot := unwind_faultSlot _ _ _
@[simp] theorem jumpTo_keys (w : Warp) (k : VA) : (jumpTo w k).keys = w.keys := unwind_keys _ _ _
@[simp] theorem jumpTo_live (w : Warp) (k : VA) : (jumpTo w k).live = w.live := unwind_live _ _ _
@[simp] theorem jumpTo_keyPop (w : Warp) (k : VA) : (jumpTo w k).keyPop = w.keyPop := unwind_keyPop _ _ _
@[simp] theorem jumpTo_detached (w : Warp) (k : VA) : (jumpTo w k).detached = w.detached := unwind_detached _ _ _
@[simp] theorem jumpTo_attached (w : Warp) (k : VA) : (jumpTo w k).attached = w.attached := unwind_attached _ _ _
@[simp] theorem jumpTo_waited (w : Warp) (k : VA) : (jumpTo w k).waited = w.waited := unwind_waited _ _ _
@[simp] theorem jumpTo_yields (w : Warp) (k : VA) : (jumpTo w k).yields = w.yields := unwind_yields _ _ _
@[simp] theorem jumpTo_spilled (w : Warp) (k : VA) : (jumpTo w k).spilled = w.spilled := unwind_spilled _ _ _
@[simp] theorem jumpTo_away (w : Warp) (k : VA) : (jumpTo w k).away = w.away := unwind_away _ _ _
@[simp] theorem jumpTo_backing (w : Warp) (k : VA) : (jumpTo w k).backing = w.backing := unwind_backing _ _ _

/-- A warp outside every divergent path and every trap moves to the successor of its word, and nothing else changes. -/
theorem stepOver_flat {w : Warp} (h : w.stack = []) :
    stepOver w = { w with pc := (succOf w).1, enter := (succOf w).2, status := .running, woken := false, rowResume := false } := by
  simp [stepOver, settle, unwind, h]

/-! ### The outcome of an instruction -/

/-- An instruction never stops the machine: it has its effect, takes its trap, or leaves the warp waiting at it. -/
theorem finish_cases (s : State) (r : Run State) :
    (∃ t, r = .ok t ∧ finish s r = .next t) ∨ (∃ t, r = .error (.trap t) ∧ finish s r = .next (takeTrap s t)) ∨
      ∃ p, r = .error (.wait p) ∧ finish s r = .next { s with w := waiting s.w p, m := wantFor s.m p, turn := 0 } := by
  rcases r with (t | p) | t
  · exact .inr (.inl ⟨t, rfl, rfl⟩)
  · exact .inr (.inr ⟨p, rfl, rfl⟩)
  · exact .inl ⟨t, rfl, rfl⟩

end Sys2Proof.Machine
end

