-- ==== Sys2Proof/Tests/Slice0.lean ====
section
/-!
SUPPORT. Tests: each theorem's expected result is worked out from the rule of spec/ that its docstring cites. The witnesses show states
and operands that meet the hypotheses of each obligation, clause by clause.
-/
namespace Sys2Proof.Tests
open Sys2Proof Sys2Proof.Machine

set_option Elab.async false

/-- A running warp that has claimed every block, all lanes active, in the state after reset. -/
def base : State := { State.reset with w := { Warp.empty with status := .running, claimed := 0x1FFFFFFF#29 } }
/-- The same with its warp changed. -/
def at_ (f : Warp → Warp) : State := { base with w := f base.w }
/-- The same under an element type (R190). -/
def typed (e : BitVec 4) : State := at_ fun w => { w with mode := e.setWidth 32 <<< 5 }
/-- No lane active. -/
def idle : State := at_ fun w => { w with exec := 0#64 }
/-- The run-ahead processor (R202). -/
def ahead : State := at_ fun w => { w with rap := true }

def fine {ε α : Type} : Except ε α → Bool
  | .ok _ => true
  | .error _ => false

theorem fine_iff {ε α : Type} {r : Except ε α} : fine r = true → ∃ a, r = .ok a := by
  cases r <;> simp [fine]

theorem fine_unit {r : Run Unit} (h : fine r = true) : r = .ok () := by
  cases r <;> simp_all [fine]

/-- `Passes` on numerals. -/
theorem passes {s : State} {r : RapUse} {o : List Opd} {h : BitVec 4} (p : fine (Form.check { rap := r, opds := o, hreg := h } s) = true) :
    Passes s r o h := fine_unit p

def okAnd {ε α : Type} (r : Except ε α) (p : α → Bool) : Bool := match r with
  | .ok a => p a
  | .error _ => false

/-- An access that resolves, with what its state and place satisfy. -/
def placed (r : Resolved) (p : State → Place → Bool) : Bool := match r with
  | .ok s q => p s q
  | _ => false

theorem placed_iff {r : Resolved} {p : State → Place → Bool} (h : placed r p = true) : ∃ s q, r = .ok s q ∧ p s q = true := by
  cases r <;> simp_all [placed]

/-- An access that faults. -/
theorem faulted_iff {r : Resolved} (h : (match r with | .fault .. => true | _ => false) = true) : ∃ c d v, r = .fault c d v := by
  cases r <;> simp_all

theorem cleanOf {m : Mask} {x : Src} (h : ((List.finRange 64).all fun l => !m.getLsbD l || !(x l).poison) = true) : Clean m x := by
  intro l hl
  have k := List.all_eq_true.mp h l (List.mem_finRange l)
  simp only [hl] at k
  simpa using k

/-- An instruction that answers a next state, with what the state satisfies. -/
def nextAnd (o : Host.Outcome State Fault Refusal) (p : State → Bool) : Bool := match o with
  | .next t => p t
  | _ => false

theorem nextAnd_iff {o : Host.Outcome State Fault Refusal} {p : State → Bool} (h : nextAnd o p = true) : ∃ t, o = .next t ∧ p t = true := by
  cases o <;> simp_all [nextAnd]

/-- A run that goes on, with what its result satisfies. -/
theorem okAnd_iff {ε α : Type} {r : Except ε α} {p : α → Bool} (h : okAnd r p = true) : ∃ a, r = .ok a ∧ p a = true := by
  cases r <;> simp_all [okAnd]

theorem okEq {ε α : Type} [DecidableEq α] {r : Except ε α} {n : α} (h : okAnd r (fun a => a = n) = true) : r = .ok n := by
  obtain ⟨a, e, h⟩ := okAnd_iff h
  rw [e, of_decide_eq_true h]

theorem someOf {α : Type} [DecidableEq α] {o : Option α} {a : α} (h : (match o with | some b => decide (b = a) | none => false) = true) : o = some a := by
  cases o <;> simp_all

theorem isNone {α : Type} {o : Option α} (h : o.isNone = true) : o = none := Option.isNone_iff_eq_none.mp h


theorem errEq {ε α : Type} [DecidableEq ε] {r : Except ε α} {e : ε} (h : (match r with | .error b => decide (b = e) | .ok _ => false) = true) :
    r = .error e := by
  cases r <;> simp_all

theorem errSome {ε α : Type} {r : Except (Option ε) α} (h : (match r with | .error (some _) => true | _ => false) = true) :
    ∃ f, r = .error (some f) := by
  rcases r with (_ | f) | _ <;> simp_all

theorem okSome {ε α : Type} {r : Except ε α} (h : (match r with | .error _ => false | .ok _ => true) = true) : ∃ a, r = .ok a := by
  cases r <;> simp_all
/-! ### Witnesses of the hypotheses -/

/-- Registers at both ends of the file are source and destination at once. -/
theorem witness_ScalarResult :
    (∃ (s s₁ s₂ : State) (d a b : Byte) (x y : Scalar), active s.w ≠ 0#64 ∧ Passes s .yes [.sdst d, .ssrc a, .ssrc b] ∧
      readS s a = .ok (s₁, x) ∧ readS s₁ b = .ok (s₂, y)) ∧
    (∃ (s s₁ : State) (d a : Byte) (x : Scalar), active s.w ≠ 0#64 ∧ Passes s .yes [.sdst d, .ssrc a] ∧ readS s a = .ok (s₁, x)) ∧
    (∃ (s : State) (d : Byte), Passes s .yes [.sdst d]) ∧
    (∃ (s : State) (d a b : Byte), Passes s .yes [.sdst d, .ssrc a, .ssrc b] ∧ active s.w = 0#64) ∧
    (∃ (s : State) (d a : Byte), Passes s .yes [.sdst d, .ssrc a] ∧ active s.w = 0#64) :=
  ⟨⟨base, base, base, 63, 0, 63, sReg base.w 0, sReg base.w 63, by decide +kernel, passes (by decide +kernel), rfl, rfl⟩,
   ⟨ahead, ahead, 31, 31, sReg ahead.w 31, by decide +kernel, passes (by decide +kernel), rfl⟩,
   ⟨base, 63, passes (by decide +kernel)⟩, ⟨idle, 63, 0, 63, passes (by decide +kernel), by decide +kernel⟩,
   ⟨idle, 63, 63, passes (by decide +kernel), by decide +kernel⟩⟩

/-- The vector forms of two sources under a type, `wide` a pair. -/
def CanTwo (accepts : Elem → Bool) : Prop :=
  ∃ (s s₁ s₂ : State) (d a b : Byte) (x y : Src), accepts (modeEt s.w) = true ∧
    Passes s .no [vdst d (wideEt s), .vsrc a (wideEt s), .vsrc b (wideEt s)] ∧
    readV s (wideEt s) a = .ok (s₁, x) ∧ readV s₁ (wideEt s) b = .ok (s₂, y)
def CanOne (accepts : Elem → Bool) : Prop :=
  ∃ (s s₁ : State) (d a : Byte) (x : Src), accepts (modeEt s.w) = true ∧ Passes s .no [vdst d (wideEt s), .vsrc a (wideEt s)] ∧
    readV s (wideEt s) a = .ok (s₁, x)

theorem witness_VectorResult : CanTwo Elem.isInt ∧ CanTwo anyElem ∧ CanTwo Elem.isFloat :=
  ⟨⟨typed 7, typed 7, typed 7, 230, 0, 230, vecSrc (typed 7).w true 0, vecSrc (typed 7).w true 230, by decide +kernel,
    passes (by decide +kernel), rfl, rfl⟩,
   ⟨typed 15, typed 15, typed 15, 231, 0, 231, vecSrc (typed 15).w false 0, vecSrc (typed 15).w false 231, by decide +kernel,
    passes (by decide +kernel), rfl, rfl⟩,
   ⟨typed 8, typed 8, typed 8, 0, 231, 0, vecSrc (typed 8).w false 231, vecSrc (typed 8).w false 0, by decide +kernel,
    passes (by decide +kernel), rfl, rfl⟩⟩

theorem witness_VectorOneSourceResult :
    (CanOne anyElem ∧ CanOne Elem.isInt ∧ CanOne Elem.isFloat ∧ CanOne notF64) ∧
    (∃ (s : State) (d : Byte), Passes s .no [vdst d (wideEt s)]) ∧
    (∃ (s s₁ : State) (d a : Byte) (t u : BitVec 4) (x : Src),
      Passes s .no [vdst d (Elem.ofCode t).isPair, .vsrc a (Elem.ofCode u).isPair] ∧ readV s (Elem.ofCode u).isPair a = .ok (s₁, x)) ∧
    (∃ (s s₁ : State) (d a : Byte) (x : Src), isCoded (modeEt s.w) = true ∧ Passes s .no [vdst d false, .vsrc a false] ∧
      readV s false a = .ok (s₁, x)) ∧
    (∃ (s s₁ s₂ : State) (d a b : Byte) (x y : Src), isCoded (modeEt s.w) = true ∧ Passes s .no [vdst d false, .vsrc a false, .vsrc b false] ∧
      readV s false a = .ok (s₁, x) ∧ readV s₁ false b = .ok (s₂, y)) :=
  ⟨⟨⟨typed 14, typed 14, 231, 0, vecSrc (typed 14).w false 0, by decide +kernel, passes (by decide +kernel), rfl⟩,
    ⟨typed 0, typed 0, 231, 231, vecSrc (typed 0).w false 231, by decide +kernel, passes (by decide +kernel), rfl⟩,
    ⟨typed 11, typed 11, 230, 0, vecSrc (typed 11).w true 0, by decide +kernel, passes (by decide +kernel), rfl⟩,
    ⟨typed 10, typed 10, 231, 0, vecSrc (typed 10).w false 0, by decide +kernel, passes (by decide +kernel), rfl⟩⟩,
   ⟨typed 11, 230, passes (by decide +kernel)⟩,
   ⟨base, base, 231, 230, 0, 7, vecSrc base.w true 230, passes (by decide +kernel), rfl⟩,
   ⟨typed 12, typed 12, 231, 0, vecSrc (typed 12).w false 0, by decide +kernel, passes (by decide +kernel), rfl⟩,
   ⟨typed 15, typed 15, typed 15, 231, 0, 231, vecSrc (typed 15).w false 0, vecSrc (typed 15).w false 231, by decide +kernel,
    passes (by decide +kernel), rfl, rfl⟩⟩

/-- Predicate p1 poisoned in every lane. -/
def spoiled : State := at_ fun w => { w with p := w.p.set 1 (Vector.replicate 64 ⟨false, true, 0x22#8⟩) }

theorem witness_LaneExchangeResult :
    (∃ (s s₁ s₂ : State) (d a b : Byte) (x y : Src), Passes s .no [vdst d (wideEt s), .vsrc a (wideEt s), .vsrc b (wideEt s)] ∧
      readV s (wideEt s) a = .ok (s₁, x) ∧ readV s₁ (wideEt s) b = .ok (s₂, y)) ∧
    CanOne anyElem ∧
    (∃ (s s₁ : State) (d a : Byte) (x : Scalar), Passes s .no [vdst d (wideEt s), .ssrc a] ∧ readS s a = .ok (s₁, x)) ∧
    (∃ (s s₁ : State) (d a : Byte) (x : Src), active s.w ≠ 0#64 ∧ Passes s .no [.sdst d, .vsrc a (wideEt s)] ∧
      readV s (wideEt s) a = .ok (s₁, x)) ∧
    (∃ (s : State) (d a : BitVec 4), Passes s .no [.pdst d] ∧ predPoison s.w (active s.w) a = none) ∧
    (∃ (s : State) (d a : BitVec 4) (c : Byte), Passes s .no [.pdst d] ∧ predPoison s.w (active s.w) a = some c) ∧
    (∃ (s : State) (d : Byte), active s.w ≠ 0#64 ∧ Passes s .no [.sdst d]) ∧
    (∃ (s s₁ : State) (d : BitVec 4) (a : Byte) (x : Src), Passes s .no [.pdst d, .vsrc a (wideEt s)] ∧ readV s (wideEt s) a = .ok (s₁, x)) ∧
    (∃ (s s₁ : State) (d a : Byte) (x : Src), active s.w = 0#64 ∧ Passes s .no [.sdst d, .vsrc a (wideEt s)] ∧
      readV s (wideEt s) a = .ok (s₁, x)) ∧
    (∃ (s : State) (d : Byte), active s.w = 0#64 ∧ Passes s .no [.sdst d]) :=
  ⟨⟨base, base, base, 231, 0, 231, vecSrc base.w false 0, vecSrc base.w false 231, passes (by decide +kernel), rfl, rfl⟩,
   ⟨base, base, 231, 0, vecSrc base.w false 0, by decide +kernel, passes (by decide +kernel), rfl⟩,
   ⟨base, base, 231, 63, sReg base.w 63, passes (by decide +kernel), rfl⟩,
   ⟨base, base, 63, 231, vecSrc base.w false 231, by decide +kernel, passes (by decide +kernel), rfl⟩,
   ⟨base, 15, 0, passes (by decide +kernel), by decide +kernel⟩,
   ⟨spoiled, 15, 1, 0x22#8, passes (by decide +kernel), by decide +kernel⟩,
   ⟨base, 63, by decide +kernel, passes (by decide +kernel)⟩,
   ⟨base, base, 15, 231, vecSrc base.w false 231, passes (by decide +kernel), rfl⟩,
   ⟨idle, idle, 63, 231, vecSrc idle.w false 231, by decide +kernel, passes (by decide +kernel), rfl⟩,
   ⟨idle, 63, by decide +kernel, passes (by decide +kernel)⟩⟩

theorem witness_ScanReduceResult : (∀ o, CanOne (foldAccepts o)) :=
  fun o => ⟨base, base, 231, 0, vecSrc base.w false 0, by cases o <;> decide +kernel, passes (by decide +kernel), rfl⟩

theorem witness_PredicateResult :
    (∃ (s : State) (d : BitVec 4), Passes s .no [.pdst d]) ∧
    (∃ (s s₁ s₂ : State) (d : BitVec 4) (a b : Byte) (x y : Src), ((modeEt s.w).isInt || (modeEt s.w).isFloat) = true ∧
      Passes s .no [.pdst d, .vsrc a (wideEt s), .vsrc b (wideEt s)] ∧ readV s (wideEt s) a = .ok (s₁, x) ∧ readV s₁ (wideEt s) b = .ok (s₂, y)) ∧
    (∃ (s s₁ : State) (d : BitVec 4) (a : Byte) (v : DWord), Passes s .no [.pdst d, .ssrc a] ∧ readS s a = .ok (s₁, ⟨v, false⟩)) ∧
    (∃ (s s₁ : State) (a : Byte) (v : DWord), Passes s .no [.ssrc a] ∧ readS s a = .ok (s₁, ⟨v, false⟩)) ∧
    (∃ (s : State) (d : Byte), Passes s .no [.sdst d]) :=
  ⟨⟨base, 15, passes (by decide +kernel)⟩,
   ⟨typed 11, typed 11, typed 11, 1, 0, 230, vecSrc (typed 11).w true 0, vecSrc (typed 11).w true 230, by decide +kernel, passes (by decide +kernel), rfl, rfl⟩,
   ⟨base, base, 15, 63, 0, passes (by decide +kernel), rfl⟩, ⟨base, base, 63, 0, passes (by decide +kernel), rfl⟩,
   ⟨base, 63, passes (by decide +kernel)⟩⟩

/-- A lane in which p1 holds; `rp` is the reconvergence point. -/
def forked (rp : Option VA) : State := at_ fun w => { w with p := w.p.set 1 ((Vector.replicate 64 PLane.zero).set 63 ⟨true, false, 0⟩), rp := rp }
/-- Guarded by p1, which holds in lane 63. -/
def guarded (rp : Option VA) : State := { forked rp with w := { (forked rp).w with mode := 1#32 } }

/-- What GivesBranch asks of the state and of the lanes taken: the four cases, the split with 254 entries on the stack. -/
def CanBranch (rap : RapUse) (on : Warp → BitVec 4 → Fin 64 → Bool) (c : Warp → Mask → Mask → Prop) : Prop :=
  ∃ (s : State) (p : BitVec 4) (taken others : Mask), Passes s rap [] ∧ s.w.rap = false ∧
    (∀ l : Fin 64, (active s.w).getLsbD l = true → (predLane s.w p l).poison = false) ∧
    taken = active s.w &&& laneMask (on s.w p) ∧ others = s.w.exec &&& ~~~taken ∧ c s.w taken others

theorem canBranch {rap : RapUse} {on : Warp → BitVec 4 → Fin 64 → Bool} {c : Warp → Mask → Mask → Prop} (s : State) (p : BitVec 4)
    (h : fine (Form.check { rap := rap, opds := [] } s) = true ∧ s.w.rap = false ∧
      ∀ l : Fin 64, (active s.w).getLsbD l = true → (predLane s.w p l).poison = false)
    (k : c s.w (active s.w &&& laneMask (on s.w p)) (s.w.exec &&& ~~~(active s.w &&& laneMask (on s.w p)))) : CanBranch rap on c :=
  ⟨s, p, _, _, passes h.1, h.2.1, h.2.2, rfl, rfl, k⟩

/-- 254 entries below. -/
def below : StackEntry := { kind := .call, rpc := 0, pc := 0, mask := 0, m := 0, running := false, pooled := false, other := none }
def deep (s : State) : State := { s with w := { s.w with stack := List.replicate 254 below } }
/-- A full stack. -/
def full (s : State) : State := { s with w := { s.w with stack := List.replicate 256 below } }

theorem witness_BranchResult :
    (CanBranch .yes (fun _ _ _ => true) (fun _ t _ => t = 0#64) ∧ CanBranch .yes (fun _ _ _ => true) (fun _ t o => t ≠ 0#64 ∧ o = 0#64) ∧
      CanBranch .yes (fun _ _ _ => true) (fun w t o => t ≠ 0#64 ∧ o ≠ 0#64 ∧ w.rp = some 0x40#80 ∧ w.stack.length ≤ 254) ∧
      CanBranch .yes (fun _ _ _ => true) (fun w t o => t ≠ 0#64 ∧ o ≠ 0#64 ∧ w.rp = none)) ∧
    (CanBranch .no (fun w p l => (predLane w p l).bit) (fun _ t _ => t = 0#64) ∧
      CanBranch .no (fun w p l => (predLane w p l).bit) (fun _ t o => t ≠ 0#64 ∧ o = 0#64) ∧
      CanBranch .no (fun w p l => (predLane w p l).bit) (fun w t o => t ≠ 0#64 ∧ o ≠ 0#64 ∧ w.rp = some 0x40#80 ∧ w.stack.length ≤ 254) ∧
      CanBranch .no (fun w p l => (predLane w p l).bit) (fun w t o => t ≠ 0#64 ∧ o ≠ 0#64 ∧ w.rp = none)) ∧
    (CanBranch .no (fun w p l => !(predLane w p l).bit) (fun _ t _ => t = 0#64) ∧
      CanBranch .no (fun w p l => !(predLane w p l).bit) (fun _ t o => t ≠ 0#64 ∧ o = 0#64) ∧
      CanBranch .no (fun w p l => !(predLane w p l).bit) (fun w t o => t ≠ 0#64 ∧ o ≠ 0#64 ∧ w.rp = some 0x40#80 ∧ w.stack.length ≤ 254) ∧
      CanBranch .no (fun w p l => !(predLane w p l).bit) (fun w t o => t ≠ 0#64 ∧ o ≠ 0#64 ∧ w.rp = none)) ∧
    (∃ s : State, Passes s .yes [] ∧ s.w.rap = true) ∧
    (∃ (s : State) (n : BitVec 4), Passes s .yes [.ssrc (n.setWidth 8)] ∧ active s.w = 0#64) ∧
    (∃ (s : State) (n : BitVec 4), Passes s .yes [.ssrc (n.setWidth 8)] ∧ active s.w ≠ 0#64 ∧ (s.w.s[Fin.ofNat 64 n.toNat]).poison = false) :=
  ⟨⟨canBranch idle 0 (by decide +kernel) (by decide +kernel), canBranch base 0 (by decide +kernel) (by decide +kernel),
    canBranch (deep (guarded (some 0x40))) 0 (by decide +kernel) (by decide +kernel), canBranch (guarded none) 0 (by decide +kernel) (by decide +kernel)⟩,
   ⟨canBranch base 1 (by decide +kernel) (by decide +kernel), canBranch base 0 (by decide +kernel) (by decide +kernel),
    canBranch (deep (forked (some 0x40))) 1 (by decide +kernel) (by decide +kernel), canBranch (forked none) 1 (by decide +kernel) (by decide +kernel)⟩,
   ⟨canBranch base 0 (by decide +kernel) (by decide +kernel), canBranch base 1 (by decide +kernel) (by decide +kernel),
    canBranch (deep (forked (some 0x40))) 1 (by decide +kernel) (by decide +kernel), canBranch (forked none) 1 (by decide +kernel) (by decide +kernel)⟩,
   ⟨ahead, passes (by decide +kernel), rfl⟩, ⟨idle, 15, passes (by decide +kernel), by decide +kernel⟩,
   ⟨base, 15, passes (by decide +kernel), by decide +kernel, by decide +kernel⟩⟩

/-- One entry of a kind on the stack. -/
def pushed (k : EntryKind) : State := at_ fun w => { w with stack := [{ kind := k, rpc := 0, pc := 0x1004, mask := 1, m := 1, running := false, pooled := false, other := none }] }

theorem witness_CallResult :
    (∃ s : State, Passes s .no [] ∧ active s.w ≠ 0#64 ∧ s.w.stack.length < 256) ∧ (∃ s : State, Passes s .no [] ∧ active s.w = 0#64) ∧
    (∃ (s : State) (a : Byte) (t : VA), Passes s .no [.sregs a 2] ∧ active s.w ≠ 0#64 ∧ s.w.stack.length < 256 ∧ PairHolds s.w a t) ∧
    (∃ (s : State) (a : Byte), Passes s .no [.sregs a 2] ∧ active s.w = 0#64) ∧
    (∃ (s : State) (e : StackEntry) (rest : List StackEntry), Passes s .no [] ∧ s.w.stack = e :: rest ∧ e.kind = .call) ∧
    (∃ (s : State) (a : Byte) (t : VA), Passes s .yes [.sregs a 2] ∧ active s.w ≠ 0#64 ∧ PairHolds s.w a t) ∧
    (∃ s : State, Passes s .no [] ∧ ∀ e rest, s.w.stack = e :: rest → e.kind ≠ .call) ∧
    (∃ (s : State) (a : Byte), Passes s .yes [.sregs a 2] ∧ active s.w = 0#64) ∧
    (∃ (s : State) (a : Byte) (x y : DWord), active s.w ≠ 0#64 ∧ s.w.s[Fin.ofNat 64 a.toNat] = ⟨x, false⟩ ∧
      s.w.s[Fin.ofNat 64 (a.toNat + 1)] = ⟨y, false⟩ ∧ x.extractLsb' 0 2 ≠ 0#2 ∧ Passes s .yes [.sregs a 2] ∧ Passes s .no [.sregs a 2]) ∧
    (∃ s : State, Passes s .no [] ∧ active s.w ≠ 0#64 ∧ s.w.stack.length = 256) :=
  ⟨⟨deep base, passes (by decide +kernel), by decide +kernel, by decide +kernel⟩, ⟨idle, passes (by decide +kernel), by decide +kernel⟩,
   ⟨base, 62, 0, passes (by decide +kernel), by decide +kernel, by decide +kernel, by decide +kernel, by decide +kernel, by decide +kernel, by decide +kernel⟩,
   ⟨idle, 62, passes (by decide +kernel), by decide +kernel⟩,
   ⟨pushed .call, { below with pc := 0x1004, mask := 1, m := 1 }, [], passes (by decide +kernel), rfl, rfl⟩,
   ⟨ahead, 30, 0, passes (by decide +kernel), by decide +kernel, by decide +kernel, by decide +kernel, by decide +kernel, by decide +kernel⟩,
   ⟨base, passes (by decide +kernel), fun e r h => by rw [show base.w.stack = [] from rfl] at h; cases h⟩, ⟨idle, 62, passes (by decide +kernel), by decide +kernel⟩,
   ⟨at_ fun w => { w with s := w.s.set 62 ⟨1, false⟩ }, 62, 1, 0, by decide +kernel, by decide +kernel, by decide +kernel, by decide +kernel,
    passes (by decide +kernel), passes (by decide +kernel)⟩,
   ⟨full base, passes (by decide +kernel), by decide +kernel, by decide +kernel⟩⟩

/-- Lane 63 alone set in EXEC, and a path entry of lane 0 on the stack. -/
def ending : State := at_ fun w => { w with
  exec := 0x8000000000000000#64, stack := [{ kind := .path, rpc := 0x1040, pc := 0x1004, mask := 1, m := 1, running := false, pooled := false, other := none }] }

theorem witness_ExitResult :
    (∃ s : State, Passes s .yes [] ∧ s.w.rap = true) ∧ (∃ s : State, Passes s .yes [] ∧ s.w.rap = false ∧ active s.w = 0#64) ∧
    (∃ s : State, Passes s .yes [] ∧ s.w.rap = false ∧ active s.w ≠ 0#64 ∧ s.w.exec &&& ~~~active s.w ≠ 0#64 ∧
      s.w.gone ||| active s.w ≠ 0xFFFFFFFFFFFFFFFF#64) ∧
    (∃ s : State, Passes s .yes [] ∧ s.w.rap = false ∧ active s.w ≠ 0#64 ∧ s.w.gone ||| active s.w = 0xFFFFFFFFFFFFFFFF#64) ∧
    (∃ (s : State) (u : Warp), Passes s .yes [] ∧ s.w.rap = false ∧ active s.w ≠ 0#64 ∧ s.w.exec &&& ~~~active s.w = 0#64 ∧
      s.w.gone ||| active s.w ≠ 0xFFFFFFFFFFFFFFFF#64 ∧ u = unwind (2 * s.w.stack.length + 1) true { leaves s.w (active s.w) with status := .running, woken := false } ∧
      (u.exec ≠ 0#64 ∨ u.stack ≠ [])) ∧
    (∃ s : State, Passes s .yes []) ∧ (∃ (s : State) (n : BitVec 10), Passes s .yes [] ∧ n ≠ 0#10) ∧
    (∃ s : State, Passes s .yes [] ∧ s.w.rap = false ∧ s.w.pc = s.b.code + 4#80) ∧
    (∃ s : State, Passes s .yes [] ∧ (s.w.rap = true ∨ s.w.pc ≠ s.b.code + 4#80)) :=
  ⟨⟨ahead, passes (by decide +kernel), rfl⟩, ⟨idle, passes (by decide +kernel), rfl, by decide +kernel⟩,
   ⟨guarded none, passes (by decide +kernel), rfl, by decide +kernel, by decide +kernel, by decide +kernel⟩,
   ⟨base, passes (by decide +kernel), rfl, by decide +kernel, by decide +kernel⟩,
   ⟨ending, _, passes (by decide +kernel), rfl, by decide +kernel, by decide +kernel, by decide +kernel, rfl, .inl (by decide +kernel)⟩,
   ⟨base, passes (by decide +kernel)⟩, ⟨base, 1023, passes (by decide +kernel), by decide +kernel⟩,
   ⟨at_ fun w => { w with pc := 4 }, passes (by decide +kernel), rfl, by decide +kernel⟩, ⟨ahead, passes (by decide +kernel), .inl rfl⟩⟩

/-- A context with a handler. -/
def handled (s : State) : State := { s with x := { s.x with trapva := 0x2004 } }

theorem witness_TrapEntersHandler :
    (∃ s : State, Passes s .no [] ∧ s.w.rap = false ∧ active s.w ≠ 0#64 ∧ s.x.trapva ≠ 0#80 ∧ (∀ e ∈ s.w.stack, e.kind ≠ .trap) ∧
      s.w.stack.length < 256) ∧ (∃ s : State, Passes s .no [] ∧ active s.w = 0#64) :=
  ⟨⟨handled (deep base), passes (by decide +kernel), rfl, by decide +kernel, by decide +kernel, by decide +kernel, by decide +kernel⟩,
   ⟨idle, passes (by decide +kernel), by decide +kernel⟩⟩

theorem witness_PreciseFaultEntersHandler :
    (∃ (s : State) (f : TrapInfo), f.next = false ∧ s.w.rap = false ∧ s.x.trapva ≠ 0#80 ∧ (∀ e ∈ s.w.stack, e.kind ≠ .trap) ∧ s.w.stack.length < 256) ∧
    (∃ s : State, s.w.rap = true ∧ ∀ e ∈ s.w.stack, e.kind ≠ .trap) ∧ (∃ s : State, s.x.trapva = 0#80 ∧ ∀ e ∈ s.w.stack, e.kind ≠ .trap) ∧
    (∃ s : State, ∃ e ∈ s.w.stack, e.kind = .trap) ∧
    (∃ s : State, s.w.rap = false ∧ s.x.trapva ≠ 0#80 ∧ (∀ e ∈ s.w.stack, e.kind ≠ .trap) ∧ s.w.stack.length = 256) :=
  ⟨⟨handled (deep base), { code := 1, detail := 1 }, rfl, rfl, by decide +kernel, by decide +kernel, by decide +kernel⟩,
   ⟨ahead, rfl, by decide +kernel⟩, ⟨base, rfl, by decide +kernel⟩, ⟨pushed .trap, _, .head _, rfl⟩,
   ⟨handled (full base), rfl, by decide +kernel, by decide +kernel, by decide +kernel⟩⟩

theorem witness_TretResult :
    (∃ (s : State) (above below : List StackEntry) (e : StackEntry), Passes s .no [] ∧ s.w.stack = above ++ e :: below ∧
      (∀ a ∈ above, a.kind ≠ .trap) ∧ e.kind = .trap ∧ e.mask ≠ 0#64 ∧ ∀ b ∈ below.head?, b.kind = .call ∨ b.kind = .trap ∨ e.pc ≠ b.rpc) ∧
    (∃ s : State, Passes s .no [] ∧ ∀ e ∈ s.w.stack, e.kind ≠ .trap) :=
  ⟨⟨pushed .trap, [], [], { below with kind := .trap, pc := 0x1004, mask := 1, m := 1 }, passes (by decide +kernel), rfl,
    by decide +kernel, rfl, by decide +kernel, by decide +kernel⟩, ⟨base, passes (by decide +kernel), by decide +kernel⟩⟩

theorem witness_RdsrResult :
    (∃ (s : State) (d : Byte) (n : BitVec 10), n.toNat ≤ 25 ∧ Passes s (if rapRegister n then .yes else .no) [.sdst d] ∧ s.w.rap = true) ∧
    (∃ (s : State) (d : Byte) (n : BitVec 10), n = 8#10 ∧ Passes s (if rapRegister n then .yes else .no) [.sdst d] ∧ s.w.mat = none) ∧
    (∃ s : State, s.w.stack.length = 256) :=
  ⟨⟨ahead, 31, 20, by decide +kernel, passes (by decide +kernel), rfl⟩, ⟨base, 63, 8, rfl, passes (by decide +kernel), rfl⟩,
   ⟨full base, by decide +kernel⟩⟩

/-- Scalar register 63 holds a value. -/
def holds (v : DWord) (s : State := base) : State := { s with w := setS s.w 63 ⟨v, false⟩ }

theorem witness_WrsrResult :
    (∃ (s s₁ : State) (a : Byte) (x : DWord), readS s a = .ok (s₁, ⟨x, false⟩) ∧ Passes s .no [.ssrc a] ∧ s.w.mat = none) ∧
    (∃ (s s₁ : State) (a : Byte) (x : DWord), readS s a = .ok (s₁, ⟨x, false⟩) ∧ Passes s .yes [.ssrc a] ∧ x.toNat < 2 ^ 30 ∧
      (x.extractLsb' 14 3).toNat ≤ 4) ∧
    (∃ (s s₁ : State) (a : Byte) (x : DWord), readS s a = .ok (s₁, ⟨x, false⟩) ∧ Passes s .yes [.ssrc a] ∧ x.toNat < 2 ^ 16) ∧
    (∃ (s s₁ : State) (a : Byte) (x : DWord), readS s a = .ok (s₁, ⟨x, false⟩) ∧ Passes s .yes [.ssrc a] ∧ x = 0#64) ∧
    (∃ (s s₁ : State) (a : Byte) (x : DWord), Passes s .no [.ssrc a] ∧ readS s a = .ok (s₁, ⟨x, false⟩) ∧ x.toNat < 2 ^ 8) ∧
    (∃ (s s₁ : State) (a : Byte) (x : DWord) (n : BitVec 10), Passes s (if rapRegister n then .yes else .no) [.ssrc a] ∧
      readS s a = .ok (s₁, ⟨x, false⟩) ∧ n ∈ [4#10, 6#10, 7#10, 9#10, 25#10]) ∧
    (∃ (s s₁ : State) (a : Byte) (x : DWord) (n : BitVec 10), Passes s (if rapRegister n then .yes else .no) [.ssrc a] ∧
      readS s a = .ok (s₁, ⟨x, false⟩) ∧ n = 1#10 ∧ 2 ^ 30 ≤ x.toNat) ∧
    (∃ (s s₁ : State) (a : Byte) (x : DWord) (n : BitVec 10), Passes s (if rapRegister n then .yes else .no) [.ssrc a] ∧
      readS s a = .ok (s₁, ⟨x, false⟩) ∧ n = 1#10 ∧ x.toNat < 2 ^ 30 ∧ 4 < (x.extractLsb' 14 3).toNat) ∧
    (∃ (s s₁ : State) (a : Byte) (x : DWord) (n : BitVec 10), Passes s (if rapRegister n then .yes else .no) [.ssrc a] ∧
      readS s a = .ok (s₁, ⟨x, false⟩) ∧ n = 19#10 ∧ x ≠ 0#64) :=
  ⟨⟨holds 1, holds 1, 63, 1, rfl, passes (by decide +kernel), rfl⟩,
   ⟨holds 0x3FFD3FFF, holds 0x3FFD3FFF, 63, 0x3FFD3FFF, rfl, passes (by decide +kernel), by decide +kernel, by decide +kernel⟩,
   ⟨holds 0xFFFF, holds 0xFFFF, 63, 0xFFFF, rfl, passes (by decide +kernel), by decide +kernel⟩,
   ⟨ahead, ahead, 31, 0, rfl, passes (by decide +kernel), rfl⟩,
   ⟨holds 0xFF, holds 0xFF, 63, 0xFF, passes (by decide +kernel), rfl, by decide +kernel⟩,
   ⟨holds 7, holds 7, 63, 7, 25, passes (by decide +kernel), rfl, by decide +kernel⟩,
   ⟨holds 0x40000000, holds 0x40000000, 63, 0x40000000, 1, passes (by decide +kernel), rfl, rfl, by decide +kernel⟩,
   ⟨holds 0x14000, holds 0x14000, 63, 0x14000, 1, passes (by decide +kernel), rfl, rfl, by decide +kernel, by decide +kernel⟩,
   ⟨holds 1, holds 1, 63, 1, 19, passes (by decide +kernel), rfl, rfl, by decide +kernel⟩⟩

theorem witness_ReordResult :
    (∃ (s s₁ s₂ : State) (a b : Byte) (x : Src) (y : DWord), arrived s.w = false ∧ Passes s .no [.vsrc a false, .ssrc b] ∧
      s.b.accord = false ∧ s.w.stack = [] ∧ readS s b = .ok (s₁, ⟨y, false⟩) ∧ readV s₁ false a = .ok (s₂, x) ∧
      (∀ l : Fin 64, (active s.w).getLsbD l = true → (x l).poison = false) ∧ y.toNat < 2 ^ 29 ∧ unclaimedLive s.w (y.setWidth 29) = none ∧
      (∀ r, r < 232 → (y.setWidth 29 : BitVec 29).getLsbD (r / 8) = true → vPending s.w r = false) ∧
      (y.setWidth 29 : BitVec 29) &&& s.w.away = 0#29) ∧
    (∃ (s : State) (b : Byte), arrived s.w = true ∧ Passes s .no [.ssrc b]) ∧
    (∃ s : State, participants s = [s.w]) :=
  ⟨⟨holds 0x1FFFFFFF, holds 0x1FFFFFFF, holds 0x1FFFFFFF, 231, 63, vecSrc base.w false 231, 0x1FFFFFFF, rfl, passes (by decide +kernel),
    rfl, rfl, rfl, rfl, by decide +kernel, by decide +kernel, by decide +kernel, fun _ _ _ => rfl, by decide +kernel⟩,
   ⟨at_ fun w => { w with keys := [Lane.zero] }, 63, rfl, passes (by decide +kernel)⟩, ⟨base, rfl⟩⟩
/-- The leaf of the 64 KiB page at VA and PA 0x10000, every permission, accessed and dirty, under an attribute (R48). -/
def leafOne (attr : BitVec 2) : BitVec 128 := (0x1000 : BitVec 128) <<< 4 ||| (0xFD#128 <<< 92) ||| (attr.setWidth 128 <<< 100)
/-- An entry of BASE 0x10000 and LENGTH 0x1000 in a space (R26). -/
def entryOf (space : Nat) (base length : Nat) : BitVec 512 :=
  BitVec.ofNat 512 (base + 2 ^ 92 * space + 2 ^ 95 + 2 ^ 128 * length)
def bound (e : BitVec 512) : Handle := { Handle.unbound with bound := true, entry := e, regionW := true }

/-- Handle h15 bound to a page of an attribute that a cached leaf translates; h14 bound to the stash of 4,096 bytes; blocks claimed. -/
def mapped (attr : BitVec 2) : State :=
  { base with
    w := { base.w with h := (base.w.h.set 15 (bound (entryOf 0 0x10000 0x1000))).set 14 (bound (entryOf 1 0 0x1000)) }
    b := { base.b with portion := 4096, htab := 0x10000, cbank := 0x10000 }
    m := { base.m with
      tlb := [{ ctx := 0, base := 0x10000, log := 16, pte := 0, entry := leafOne attr }]
      frames := if attr = aRc then [] else [{ frame := 1, attr := attr, key := 0, changing := none }] } }
/-- The same with bytes in memory from an address up. -/
def filled (attr : BitVec 2) (pa : Nat) (v n : Nat) : State :=
  { mapped attr with m := { (mapped attr).m with cells := cellPut [] pa (bytesOfNat n v) } }

theorem witness_LoadResult :
    (∃ (s s₁ t : State) (d i : Byte) (h : BitVec 4) (w : BitVec 2) (g : BitVec 1) (k : BitVec 3) (x : Scalar) (js : List LaneJob),
      Passes s .no [vdst d (wideEt s), .ssrc i] h ∧ readS s i = .ok (s₁, x) ∧ active s.w ≠ 0#64 ∧ readReady s₁ (laneList (active s.w)).length = .ok () ∧
      planLoad h (accessSize s.w) ((laneList (active s.w)).map fun l =>
        (l.val, if x.poison then .inl x.code else .inr (indexOffset w g k (l.val * accessSize s.w) x.val))) s₁ = .ok (t, js)) ∧
    (∃ (s s₁ t : State) (d i : Byte) (h : BitVec 4) (w : BitVec 2) (g : BitVec 1) (k : BitVec 3) (x : Src) (js : List LaneJob),
      Passes s .no [vdst d (wideEt s), .vsrc i (w = 3#2)] h ∧ readV s (w = 3#2) i = .ok (s₁, x) ∧ active s.w ≠ 0#64 ∧
      readReady s₁ (laneList (active s.w)).length = .ok () ∧
      planLoad h (accessSize s.w) ((laneList (active s.w)).map fun l =>
        (l.val, if (x l).poison then .inl (x l).code else .inr (indexOffset w g k 0 (x l).val))) s₁ = .ok (t, js)) ∧
    (∃ (s s₁ t : State) (d i : Byte) (w : BitVec 2) (g : BitVec 1) (k : BitVec 3) (x : Src) (js : List LaneJob),
      Passes s .no [vdst d (wideEt s), .vsrc i (w = 3#2)] ∧ readV s (w = 3#2) i = .ok (s₁, x) ∧ active s.w ≠ 0#64 ∧
      readReady s₁ (laneList (active s.w)).length = .ok () ∧
      planLanes (planConst (accessSize s.w)) ((laneList (active s.w)).map fun l =>
        (l.val, if (x l).poison then .inl (x l).code else .inr (indexOffset w g k 0 (x l).val))) s₁ = .ok (t, js)) ∧
    (∃ (s s₁ t : State) (d i : Byte) (h : BitVec 4) (w : BitVec 2) (g : BitVec 1) (k : BitVec 3) (x : Scalar) (js : List LaneJob),
      Passes s .yes [.sdst d, .ssrc i] h ∧ readS s i = .ok (s₁, x) ∧ active s.w ≠ 0#64 ∧ readReady s₁ 1 = .ok () ∧
      planLoad h (accessSize s.w) [(0, if x.poison then .inl x.code else .inr (indexOffset w g k 0 x.val))] s₁ = .ok (t, js)) ∧
    (∃ (s s₁ : State) (d i : Byte) (h : BitVec 4) (x : Scalar),
      Passes s .no [vdst d (wideEt s), .ssrc i] h ∧ readS s i = .ok (s₁, x) ∧ active s.w = 0#64) ∧
    (∃ (s s₁ : State) (d i : Byte) (h : BitVec 4) (x : Src),
      Passes s .no [vdst d (wideEt s), .vsrc i true] h ∧ readV s true i = .ok (s₁, x) ∧ active s.w = 0#64) ∧
    (∃ (s : State) (d i : Byte) (h : BitVec 4), Passes s .yes [.sdst d, .ssrc i] h ∧ active s.w = 0#64) := by
  refine ⟨?_, ?_, ?_, ?_, ⟨idle, idle, 231, 63, 0, sReg idle.w 63, passes (by decide +kernel), rfl, by decide +kernel⟩,
    ⟨idle, idle, 231, 230, 15, vecSrc idle.w true 230, passes (by decide +kernel), rfl, by decide +kernel⟩,
    ⟨idle, 63, 63, 15, passes (by decide +kernel), by decide +kernel⟩⟩
  · obtain ⟨⟨t, js⟩, e⟩ := fine_iff (r := planLoad 15 1 ((laneList (active (mapped 0).w)).map fun l =>
      (l.val, if (sReg (mapped 0).w 63).poison then .inl (sReg (mapped 0).w 63).code else .inr (indexOffset 0 0 0 (l.val * 1) (sReg (mapped 0).w 63).val)))
      (mapped 0)) (by decide +kernel)
    exact ⟨mapped 0, mapped 0, t, 231, 63, 15, 0, 0, 0, sReg (mapped 0).w 63, js, passes (by decide +kernel), rfl, by decide +kernel,
      fine_unit (by decide +kernel), e⟩
  · obtain ⟨⟨t, js⟩, e⟩ := fine_iff (r := planLoad 15 1 ((laneList (active (mapped 2).w)).map fun l =>
      (l.val, if (vecSrc (mapped 2).w true 230 l).poison then .inl (vecSrc (mapped 2).w true 230 l).code
        else .inr (indexOffset 3 1 7 0 (vecSrc (mapped 2).w true 230 l).val))) (mapped 2)) (by decide +kernel)
    exact ⟨mapped 2, mapped 2, t, 231, 230, 15, 3, 1, 7, vecSrc (mapped 2).w true 230, js, passes (by decide +kernel), rfl, by decide +kernel,
      fine_unit (by decide +kernel), e⟩
  · obtain ⟨⟨t, js⟩, e⟩ := fine_iff (r := planLanes (planConst 1) ((laneList (active (mapped 3).w)).map fun l =>
      (l.val, if (vecSrc (mapped 3).w false 231 l).poison then .inl (vecSrc (mapped 3).w false 231 l).code
        else .inr (indexOffset 2 0 0 0 (vecSrc (mapped 3).w false 231 l).val))) (mapped 3)) (by decide +kernel)
    exact ⟨mapped 3, mapped 3, t, 231, 231, 2, 0, 0, vecSrc (mapped 3).w false 231, js, passes (by decide +kernel), rfl, by decide +kernel,
      fine_unit (by decide +kernel), e⟩
  · obtain ⟨⟨t, js⟩, e⟩ := fine_iff (r := planLoad 15 1 [(0, if (sReg (mapped 1).w 63).poison then .inl (sReg (mapped 1).w 63).code
      else .inr (indexOffset 3 0 0 0 (sReg (mapped 1).w 63).val))] (mapped 1)) (by decide +kernel)
    exact ⟨mapped 1, mapped 1, t, 63, 63, 15, 3, 0, 0, sReg (mapped 1).w 63, js, passes (by decide +kernel), rfl, by decide +kernel,
      fine_unit (by decide +kernel), e⟩
/-- The queue has room, and the requests. -/
def roomy (s : State) (ls : List LaneStore) : Bool := s.w.stores.length < 256 && fine (requestsFree s ls.length)

theorem roomy_iff {s : State} {ls : List LaneStore} (h : roomy s ls = true) : QueueRoom s ls := by
  simp only [roomy, Bool.and_eq_true, decide_eq_true_eq] at h
  exact ⟨h.1, fine_unit h.2⟩

/-- No lane active. -/
def asleep (s : State) : State := { s with w := { s.w with exec := 0#64 } }

theorem witness_LoadLaneReadsMemory :
    (∃ (s t : State) (n : BitVec 4) (size : Nat) (off : Int) (p : Place), resolveLane s n .load off size = .ok t p ∧
      hSpace (handleAt s.w n).entry ≠ 1 ∧ p.stash = false ∧ p.attr = aSc ∧ readCheck t.m p = none ∧ homeStalls t.m p = false ∧
      (∀ i, i < size → forwardByte p i t.w.stores.reverse = .none) ∧ awaitLine t t.w.core.toNat p false = .ok () ∧ ∀ c ∈ t.m.ucopies, c.line ≠ lineOf p.pa) ∧
    (∃ (s : State) (n : BitVec 4) (size : Nat) (off : Int) (c d : Byte) (v : VA), resolveLane s n .load off size = .fault c d v) := by
  refine ⟨?_, ?_⟩
  rotate_left
  · obtain ⟨c, d, v, e⟩ := faulted_iff (r := resolveLane (mapped 1) 15 .load 0xFF9 8) (by decide +kernel)
    exact ⟨mapped 1, 15, 8, 0xFF9, c, d, v, e⟩
  obtain ⟨t, p, e, h⟩ := placed_iff (r := resolveLane (mapped 1) 15 .load 0xFF8 8) (p := fun t p =>
    !p.stash && p.attr = aSc && readCheck t.m p = none && !homeStalls t.m p && t.w.stores.isEmpty && fine (awaitLine t t.w.core.toNat p false) && t.m.ucopies.isEmpty) (by decide +kernel)
  simp only [Bool.and_eq_true, List.isEmpty_iff, decide_eq_true_eq, Bool.not_eq_true'] at h
  obtain ⟨⟨⟨⟨⟨⟨h₁, h₂⟩, h₃⟩, h₄⟩, h₅⟩, h₆⟩, h₇⟩ := h
  exact ⟨mapped 1, t, 15, 8, 0xFF8, p, e, by decide +kernel, h₁, h₂, h₃, h₄, by rw [h₅]; intros; rfl, fine_unit h₆, by rw [h₇]; nofun⟩

/-- The stores of a register's lanes at offset 0. -/
theorem witness_StoreResult :
    (∃ (s s₁ t : State) (d i : Byte) (h : BitVec 4) (w : BitVec 2) (g : BitVec 1) (k : BitVec 3) (x : DWord) (ls : List LaneStore),
      Passes s .no [vdst d (wideEt s), .ssrc i] h ∧ readS s i = .ok (s₁, ⟨x, false⟩) ∧ active s.w ≠ 0#64 ∧
      Clean (active s.w) (vecSrc s.w (wideEt s) d.toNat) ∧ handleFault (handleAt s.w h) true true = none ∧ memReady s₁ = .ok () ∧
      resolveStores h .store (accessSize s.w) ((laneList (active s.w)).map fun l =>
        ⟨l.val, indexOffset w g k (l.val * accessSize s.w) x, (vecSrc s.w (wideEt s) d.toNat l).val⟩) s₁ = .ok (t, ls, []) ∧
      QueueRoom t ls) ∧
    (∃ (s s₁ t : State) (d i : Byte) (h : BitVec 4) (w : BitVec 2) (g : BitVec 1) (k : BitVec 3) (x : Src) (ls : List LaneStore),
      Passes s .no [vdst d (wideEt s), .vsrc i (w = 3#2)] h ∧ readV s (w = 3#2) i = .ok (s₁, x) ∧ active s.w ≠ 0#64 ∧
      Clean (active s.w) x ∧ Clean (active s.w) (vecSrc s.w (wideEt s) d.toNat) ∧ handleFault (handleAt s.w h) true true = none ∧
      memReady s₁ = .ok () ∧
      resolveStores h .store (accessSize s.w) ((laneList (active s.w)).map fun l =>
        ⟨l.val, indexOffset w g k 0 (x l).val, (vecSrc s.w (wideEt s) d.toNat l).val⟩) s₁ = .ok (t, ls, []) ∧ QueueRoom t ls) ∧
    (∃ (s s₁ s₂ t : State) (d i : Byte) (h : BitVec 4) (w : BitVec 2) (g : BitVec 1) (k : BitVec 3) (x y : DWord) (ls : List LaneStore),
      Passes s .yes [.ssrc d, .ssrc i] h ∧ active s.w ≠ 0#64 ∧ readS s i = .ok (s₁, ⟨x, false⟩) ∧ readS s₁ d = .ok (s₂, ⟨y, false⟩) ∧
      handleFault (handleAt s.w h) true true = none ∧ memReady s₂ = .ok () ∧
      resolveStores h .store (accessSize s.w) [⟨0, indexOffset w g k 0 x, y⟩] s₂ = .ok (t, ls, []) ∧ QueueRoom t ls) ∧
    (∃ (s s₁ : State) (d i : Byte) (h : BitVec 4) (x : Scalar), Passes s .no [vdst d (wideEt s), .ssrc i] h ∧ readS s i = .ok (s₁, x) ∧
      handleFault (handleAt s.w h) true true = none ∧ active s.w = 0#64) ∧
    (∃ (s s₁ : State) (d i : Byte) (h : BitVec 4) (x : Src), Passes s .no [vdst d (wideEt s), .vsrc i true] h ∧ readV s true i = .ok (s₁, x) ∧
      handleFault (handleAt s.w h) true true = none ∧ active s.w = 0#64) ∧
    (∃ (s : State) (d i : Byte) (h : BitVec 4), Passes s .yes [.ssrc d, .ssrc i] h ∧ handleFault (handleAt s.w h) true true = none ∧
      active s.w = 0#64) := by
  refine ⟨?_, ?_, ?_, ⟨asleep (mapped 2), asleep (mapped 2), 231, 63, 15, sReg base.w 63, passes (by decide +kernel), rfl, by decide +kernel, by decide +kernel⟩,
    ⟨asleep (mapped 2), asleep (mapped 2), 231, 230, 14, vecSrc base.w true 230, passes (by decide +kernel), rfl, by decide +kernel, by decide +kernel⟩,
    ⟨asleep (mapped 2), 63, 63, 14, passes (by decide +kernel), by decide +kernel, by decide +kernel⟩⟩
  · obtain ⟨⟨t, ls, fs⟩, e, h⟩ := okAnd_iff (r := resolveStores 15 .store 1 ((laneList (active (mapped 3).w)).map fun l =>
      ⟨l.val, indexOffset 0 0 0 (l.val * 1) 0, (vecSrc (mapped 3).w false 231 l).val⟩) (mapped 3))
      (p := fun q => q.2.2.isEmpty && roomy q.1 q.2.1) (by decide +kernel)
    simp only [Bool.and_eq_true, List.isEmpty_iff] at h
    obtain ⟨rfl, h⟩ := h
    exact ⟨mapped 3, mapped 3, t, 231, 63, 15, 0, 0, 0, 0, ls, passes (by decide +kernel), rfl, by decide +kernel, cleanOf (by decide +kernel), by decide +kernel, fine_unit (by decide +kernel), e, roomy_iff h⟩
  · obtain ⟨⟨t, ls, fs⟩, e, h⟩ := okAnd_iff (r := resolveStores 14 .store 1 ((laneList (active (mapped 0).w)).map fun l =>
      ⟨l.val, indexOffset 0 0 0 0 (vecSrc (mapped 0).w false 231 l).val, (vecSrc (mapped 0).w false 231 l).val⟩) (mapped 0))
      (p := fun q => q.2.2.isEmpty && roomy q.1 q.2.1) (by decide +kernel)
    simp only [Bool.and_eq_true, List.isEmpty_iff] at h
    obtain ⟨rfl, h⟩ := h
    exact ⟨mapped 0, mapped 0, t, 231, 231, 14, 0, 0, 0, vecSrc (mapped 0).w false 231, ls, passes (by decide +kernel), rfl, by decide +kernel,
      cleanOf (by decide +kernel), cleanOf (by decide +kernel), by decide +kernel, fine_unit (by decide +kernel), e, roomy_iff h⟩
  · obtain ⟨⟨t, ls, fs⟩, e, h⟩ := okAnd_iff (r := resolveStores 15 .store 1 [⟨0, indexOffset 2 1 7 0 31, 31⟩] (holds 31 (mapped 2)))
      (p := fun q => q.2.2.isEmpty && roomy q.1 q.2.1) (by decide +kernel)
    simp only [Bool.and_eq_true, List.isEmpty_iff] at h
    obtain ⟨rfl, h⟩ := h
    exact ⟨holds 31 (mapped 2), holds 31 (mapped 2), holds 31 (mapped 2), t, 63, 63, 15, 2, 1, 7, 31, 31, ls, passes (by decide +kernel), by decide +kernel, rfl, rfl, by decide +kernel, fine_unit (by decide +kernel), e, roomy_iff h⟩

/-- An `stl` of which lane 63 alone is active. -/
theorem witness_StoreTouchesNoMemory : ∃ (s t : State), exec (.stl 231 231 15 0 0 0) s = .next t ∧ Quiet s t := by
  obtain ⟨t, e, h⟩ := nextAnd_iff (o := exec (.stl 231 231 15 0 0 0) (mapped 1)) (p := fun t => t.hub.jtail = (mapped 1).hub.jtail) (by decide +kernel)
  exact ⟨mapped 1, t, e, by simpa [Quiet] using h⟩

/-- The same entry with one tile of four n32 elements (R26). -/
def shaped : BitVec 512 := entryOf 0 0x10000 0x1000 ||| (4 <<< 99) ||| (4 <<< 272) ||| (4 <<< 384) ||| (1 <<< 432)
def tiled : State := { mapped 0 with w := { (mapped 0).w with h := (mapped 0).w.h.set 15 (bound shaped) } }

/-- Its coordinates poisoned; its space a tether window (R22), which a tile access does not take. -/
def badCoord : State := { tiled with w := setS tiled.w 63 (poisonScalar 0x22#8) }
def remoteTile : State := { tiled with w := { tiled.w with h := tiled.w.h.set 15 (bound (shaped ||| (3 <<< 92))) } }

theorem witness_TileAccessResult :
    (∃ (s t : State) (d i : Byte) (h : BitVec 4) (sh : TileShape) (c vals : List Nat) (scales : List Byte),
      Passes s .no [.vreg d 0 1, .sregs i 2] h ∧ tileChecks s d h false = .ok sh ∧ coordPair s.w i = .inr c ∧
      handleFault (handleAt s.w h) false false = none ∧ coordValid (handleAt s.w h).entry c = true ∧ active s.w ≠ 0#64 ∧ loadReady s = .ok () ∧
      requestsFree s (64 * sh.regs) = .ok () ∧ tileElems (warpReader s h (handleAt s.w h)) (handleAt s.w h) c s = .ok (t, vals, scales)) ∧
    (∃ (s t : State) (d i : Byte) (h : BitVec 4) (sh : TileShape) (c : List Nat) (ls : List LaneStore),
      Passes s .no [.vreg d 0 1, .sregs i 2] h ∧ tileChecks s d h true = .ok sh ∧ coordPair s.w i = .inr c ∧
      coordValid (handleAt s.w h).entry c = true ∧ active s.w ≠ 0#64 ∧ rangePoison s.w d.toNat sh.regs = none ∧ memReady s = .ok () ∧
      tileStores h (handleAt s.w h) sh c d.toNat s = .ok (t, ls) ∧ QueueRoom t ls) ∧
    (∃ (s : State) (d i : Byte) (h : BitVec 4) (sh : TileShape) (c : Byte),
      Passes s .no [.vreg d 0 1, .sregs i 2] h ∧ tileChecks s d h false = .ok sh ∧ coordPair s.w i = .inl c) ∧
    (∃ (s : State) (d i : Byte) (h : BitVec 4) (sh : TileShape) (c : List Nat) (code detail : Byte),
      Passes s .no [.vreg d 0 1, .sregs i 2] h ∧ tileChecks s d h false = .ok sh ∧ coordPair s.w i = .inr c ∧
      handleFault (handleAt s.w h) false false = some (code, detail)) ∧
    (∃ (s : State) (d i : Byte) (h : BitVec 4) (sh sh' : TileShape) (c : List Nat),
      Passes s .no [.vreg d 0 1, .sregs i 2] h ∧ tileChecks s d h false = .ok sh ∧ tileChecks s d h true = .ok sh' ∧ coordPair s.w i = .inr c ∧
      handleFault (handleAt s.w h) false false = none ∧ coordValid (handleAt s.w h).entry c = true ∧ active s.w = 0#64) := by
  refine ⟨?_, ?_, ?_, ?_, ?_⟩
  · obtain ⟨sh, e₁, h₁⟩ := okAnd_iff (r := tileChecks tiled 231 15 false) (p := fun sh => fine (requestsFree tiled (64 * sh.regs))) (by decide +kernel)
    obtain ⟨⟨t, vs, ss⟩, e₂⟩ := fine_iff (r := tileElems (warpReader tiled 15 (handleAt tiled.w 15)) (handleAt tiled.w 15) [0, 0, 0, 0] tiled) (by decide +kernel)
    exact ⟨tiled, t, 231, 62, 15, sh, [0, 0, 0, 0], vs, ss, passes (by decide +kernel), e₁, rfl, by decide +kernel, by decide +kernel,
      by decide +kernel, fine_unit (by decide +kernel), fine_unit h₁, e₂⟩
  · obtain ⟨sh, e₁, h₁⟩ := okAnd_iff (r := tileChecks tiled 231 15 true) (p := fun sh => rangePoison tiled.w 231 sh.regs = none ∧
      okAnd (tileStores 15 (handleAt tiled.w 15) sh [0, 0, 0, 0] 231 tiled) (fun q => roomy q.1 q.2) = true) (by decide +kernel)
    simp only [decide_eq_true_eq] at h₁
    obtain ⟨⟨t, ls⟩, e₂, h₂⟩ := okAnd_iff h₁.2
    exact ⟨tiled, t, 231, 62, 15, sh, [0, 0, 0, 0], ls, passes (by decide +kernel), e₁, rfl, by decide +kernel, by decide +kernel, h₁.1,
      fine_unit (by decide +kernel), e₂, roomy_iff h₂⟩
  · obtain ⟨sh, e₁⟩ := fine_iff (r := tileChecks badCoord 231 15 false) (by decide +kernel)
    exact ⟨badCoord, 231, 62, 15, sh, 0x22#8, passes (by decide +kernel), e₁, by decide +kernel⟩
  · obtain ⟨sh, e₁⟩ := fine_iff (r := tileChecks remoteTile 231 15 false) (by decide +kernel)
    exact ⟨remoteTile, 231, 62, 15, sh, [0, 0, 0, 0], 0x11, 0x00, passes (by decide +kernel), e₁, rfl, by decide +kernel⟩
  · obtain ⟨sh, e₁⟩ := fine_iff (r := tileChecks (asleep tiled) 231 15 false) (by decide +kernel)
    obtain ⟨sh', e₂⟩ := fine_iff (r := tileChecks (asleep tiled) 231 15 true) (by decide +kernel)
    exact ⟨asleep tiled, 231, 62, 15, sh, sh', [0, 0, 0, 0], passes (by decide +kernel), e₁, e₂, rfl, by decide +kernel, by decide +kernel,
      by decide +kernel⟩

/-- A table whose last entry, 65,535, is a binding of the stash; a region table whose last entry, 4,095, spans every VA. -/
def tabled : State := { filled 0 0x10000 (entryOf 1 0 0x1000).toNat 64 with b := { (mapped 0).b with htab := BitVec.ofInt 80 (0x10000 - 64 * 65535) } }
def regioned : State := { filled 0 0x10000 (2 ^ 96 * (2 ^ 80 - 1) + 2 ^ 176 * 7) 32 with
  b := { (mapped 0).b with htab := BitVec.ofInt 80 (0x10000 - 0x400000 - 32 * 4095) } }

theorem witness_HandleResult :
    (∃ (s s₁ t : State) (a : Byte) (x : DWord) (b : Handle), Passes s .yes [.ssrc a] ∧ readS s a = .ok (s₁, ⟨x, false⟩) ∧ x.toNat < 65536 ∧
      active s.w ≠ 0#64 ∧ bindEntry s₁ x.toNat = .ok (t, b)) ∧
    (∃ (s s₁ : State) (a : Byte) (x : DWord), Passes s .yes [.ssrc a] ∧ readS s a = .ok (s₁, ⟨x, false⟩) ∧ x.toNat < 65536 ∧ active s.w = 0#64) ∧
    (∀ on : Bool, ∃ (s t : State) (a : Byte) (va region : Nat) (r : BitVec 256), Passes s .yes [.sregs a 2] ∧ (on = true ↔ active s.w ≠ 0#64) ∧
      (s.w.s[Fin.ofNat 64 a.toNat]).poison = false ∧ (s.w.s[Fin.ofNat 64 (a.toNat + 1)]).poison = false ∧
      ((s.w.s[Fin.ofNat 64 (a.toNat + 1)]).val ++ (s.w.s[Fin.ofNat 64 a.toNat]).val).toNat = va + 2 ^ 80 * region ∧ va < 2 ^ 80 ∧ region < 2 ^ 12 ∧
      readRegion s region = .ok (t, r) ∧ regV r = true ∧ regR r = true ∧ regLo r ≤ va ∧ va < regHi r) ∧
    (∀ on : Bool, ∃ (s : State) (d : Byte) (n : BitVec 4), Passes s .yes [.sdst d] ∧ (on = true ↔ active s.w ≠ 0#64) ∧ (s.w.h[n.toNat]).bound = true) ∧
    (∃ h : Handle, hShapeless h.entry = false) := by
  refine ⟨?_, ⟨asleep (holds 65535), asleep (holds 65535), 63, 65535, passes (by decide +kernel), rfl, by decide +kernel, by decide +kernel⟩, ?_,
    fun on => ⟨if on then mapped 0 else asleep (mapped 0), 63, 15, passes (by cases on <;> decide +kernel), by cases on <;> decide +kernel,
      by cases on <;> decide +kernel⟩, ⟨bound shaped, by decide +kernel⟩⟩
  · obtain ⟨⟨t, b⟩, e⟩ := fine_iff (r := bindEntry (holds 65535 tabled) 65535) (by decide +kernel)
    exact ⟨holds 65535 tabled, holds 65535 tabled, t, 63, 65535, b, passes (by decide +kernel), rfl, by decide +kernel, by decide +kernel, e⟩
  · intro on
    let q := if on then holds 0xFFF0000 regioned else asleep (holds 0xFFF0000 regioned)
    obtain ⟨⟨t, r⟩, e, h⟩ := okAnd_iff (r := readRegion q 4095) (p := fun q =>
      regV q.2 = true ∧ regR q.2 = true ∧ regLo q.2 ≤ 0 ∧ 0 < regHi q.2) (by cases on <;> decide +kernel)
    exact ⟨q, t, 62, 0, 4095, r, passes (by cases on <;> decide +kernel), by cases on <;> decide +kernel, by cases on <;> decide +kernel,
      by cases on <;> decide +kernel, by cases on <;> decide +kernel, by decide +kernel, by decide +kernel, e, by simpa using h⟩

/-- Scalars: s62 an offset, s63 a length or descriptor. -/
def pairOf (x y : DWord) (s : State) : State := { s with w := setS (setS s.w 62 ⟨x, false⟩) 63 ⟨y, false⟩ }

/-- Handle h15 unbound; bound to the stash. -/
def unbound15 : State := { mapped 0 with w := { (mapped 0).w with h := (mapped 0).w.h.set 15 Handle.unbound } }

theorem witness_MemoryControlResult :
    (∃ (s : State) (d a : Byte) (h : BitVec 4), Passes s .yes [.ssrc d, .ssrc a] h ∧ active s.w = 0#64) ∧
    (∃ (s s₁ : State) (d a : Byte) (h : BitVec 4) (o n : Nat), Passes s .yes [.ssrc d, .ssrc a] h ∧ active s.w ≠ 0#64 ∧
      memctlOperands s d a = .ok (s₁, o, n) ∧ (handleAt s.w h).bound = false) ∧
    (∀ space : Fin 3, ∃ (s s₁ : State) (d a : Byte) (h : BitVec 4) (o n : Nat), Passes s .yes [.ssrc d, .ssrc a] h ∧ active s.w ≠ 0#64 ∧
      memctlOperands s d a = .ok (s₁, o, n) ∧ (handleAt s.w h).bound = true ∧ hSpace (handleAt s.w h).entry = space.val) ∧
    (∃ (s s₁ t u : State) (d a : Byte) (h : BitVec 4) (o n va : Nat) (ls ls' : List LaneStore), Passes s .no [.ssrc d, .ssrc a] h ∧ active s.w ≠ 0#64 ∧
      memctlOperands s d a = .ok (s₁, o, n) ∧ rangeCheck s₁ h o n = .ok va ∧ n ≠ 0 ∧ memReady s₁ = .ok () ∧
      (mappedLines (lineVas va n) s₁ = .ok (t, ls) ∧ QueueRoom t (ls.filter fun l => l.place.attr = aIp)) ∧
      (publishLines h (lineVas va n) s₁ = .ok (u, ls') ∧ QueueRoom u ls')) ∧
    (∃ (s s₁ : State) (d a : Byte) (h : BitVec 4) (o n va : Nat), Passes s .no [.ssrc d, .ssrc a] h ∧
      memctlOperands s d a = .ok (s₁, o, n) ∧ rangeCheck s₁ h o n = .ok va ∧ n = 0 ∧ active s.w ≠ 0#64) ∧
    (∀ on : Bool, ∃ (s s₁ : State) (d a : Byte) (h : BitVec 4) (o m : Nat), Passes s .no [.ssrc d, .ssrc a] h ∧ (on = true ↔ active s.w ≠ 0#64) ∧
      memctlOperands s d a = .ok (s₁, o, m) ∧ (handleAt s.w h).bound = true ∧ hSpace (handleAt s.w h).entry = 0 ∧
      hAttar (handleAt s.w h).entry = false ∧ smapFault s.b (handleAt s.w h) o (BitVec.ofNat 64 m) = none ∧ awaitDrained s₁ 1#3 = .ok () ∧
      removalReady s₁ (Fin.ofNat 16 m) = .ok ()) ∧
    (∀ on : Bool, ∃ (s s₁ : State) (a : Byte) (x : DWord), Passes s .no [.ssrc a] ∧ (on = true ↔ active s.w ≠ 0#64) ∧
      readS s a = .ok (s₁, ⟨x, false⟩) ∧ x.toNat < 16 ∧ awaitDrained s₁ 1#3 = .ok () ∧ removalReady s₁ (Fin.ofNat 16 x.toNat) = .ok ()) := by
  refine ⟨⟨idle, 62, 63, 15, passes (by decide +kernel), by decide +kernel⟩,
    ⟨unbound15, unbound15, 62, 63, 15, 0, 0, passes (by decide +kernel), by decide +kernel, rfl, by decide +kernel⟩, ?_, ?_,
    ⟨pairOf 0x1000 0 (mapped 2), pairOf 0x1000 0 (mapped 2), 62, 63, 15, 0x1000, 0, 0x11000, passes (by decide +kernel), rfl, okEq (by decide +kernel),
      rfl, by decide +kernel⟩, ?_, ?_⟩
  · intro k
    let q : State := { mapped 0 with w := { (mapped 0).w with h := (mapped 0).w.h.set 15 (bound (entryOf k.val 0 0x1000)) } }
    exact ⟨q, q, 62, 63, 15, 0, 0, passes (by revert k; decide +kernel), by revert k; decide +kernel, rfl, by revert k; decide +kernel,
      by revert k; decide +kernel⟩
  · obtain ⟨va, e₁, h⟩ := okAnd_iff (r := rangeCheck (pairOf 0xFFF 1 (mapped 2)) 15 0xFFF 1) (p := fun va =>
      okAnd (mappedLines (lineVas va 1) (pairOf 0xFFF 1 (mapped 2))) (fun q => roomy q.1 (q.2.filter fun l => l.place.attr = aIp)) &&
      okAnd (publishLines 15 (lineVas va 1) (pairOf 0xFFF 1 (mapped 2))) (fun q => roomy q.1 q.2)) (by decide +kernel)
    rw [Bool.and_eq_true] at h
    obtain ⟨⟨t, ls⟩, e₂, h₂⟩ := okAnd_iff h.1
    obtain ⟨⟨u, ls'⟩, e₃, h₃⟩ := okAnd_iff h.2
    exact ⟨pairOf 0xFFF 1 (mapped 2), pairOf 0xFFF 1 (mapped 2), t, u, 62, 63, 15, 0xFFF, 1, va, ls, ls', passes (by decide +kernel), by decide +kernel,
      rfl, e₁, by decide, fine_unit (by decide +kernel), ⟨e₂, roomy_iff h₂⟩, e₃, roomy_iff h₃⟩
  · intro on
    let q : State := pairOf 0xF80 0xF000F (if on then mapped 0 else asleep (mapped 0))
    exact ⟨q, q, 62, 63, 15, 0xF80, 0xF000F, passes (by cases on <;> decide +kernel), by cases on <;> decide +kernel, by cases on <;> rfl,
      by cases on <;> decide +kernel, by cases on <;> decide +kernel, by cases on <;> decide +kernel, by cases on <;> decide +kernel,
      fine_unit (by cases on <;> decide +kernel), fine_unit (by cases on <;> decide +kernel)⟩
  · intro on
    let q : State := if on then holds 15 else asleep (holds 15)
    exact ⟨q, q, 63, 15, passes (by cases on <;> decide +kernel), by cases on <;> decide +kernel, by cases on <;> rfl, by decide +kernel,
      fine_unit (by cases on <;> decide +kernel), fine_unit (by cases on <;> decide +kernel)⟩

/-- A store waits in the queue. -/
def storing : State := at_ fun w => { w with stores := [{ kind := .store, lanes := [], flag := none, pc := 0, hreg := 0, sc := false, rel := none,
                                                           since := 0, active := 0 }] }

/-- A load is parked on an unpublished line (R138). -/
def parkedLoad : State := at_ fun w => { w with
  loads := [{ kind := .scalar 0 8 false, jobs := [⟨0, .parked { stash := false, off := 0, pa := 0, va := 0, attr := 2#2, key := 0#7 }⟩], regs := [], flag := none, pc := 0, since := 0, acquire := false, rel := none, hreg := 0 }] }

theorem witness_FenceResult :
    (∃ s : State, s.w.stores = [] ∧ s.w.rap = true) ∧
    (∃ s : State, s.w.stores = [] ∧ (∀ l ∈ s.w.loads, l.waits = false) ∧ forwardingTo s.m (spanCore s.b) = false ∧
      forwardingTo s.m (fun _ => true) = false ∧ s.w.remotes = [] ∧ s.b.gcount = 0#9) ∧
    (∃ s : State, s.w.rap = false ∧ forwardingTo s.m (fun c => c = s.w.core.toNat) = false) ∧
    (∃ s : State, s.w.stores ≠ []) ∧ (∃ s : State, s.w.stores = [] ∧ ∃ l ∈ s.w.loads, l.waits = true) :=
  ⟨⟨ahead, rfl, rfl⟩, ⟨base, rfl, by decide +kernel, by decide +kernel, by decide +kernel, rfl, rfl⟩, ⟨base, rfl, by decide +kernel⟩,
   ⟨storing, by decide +kernel⟩, ⟨parkedLoad, rfl, by decide +kernel⟩⟩

/-- A mapped page under type n64, one lane active. -/
def at8 (attr : BitVec 2) : State := { mapped attr with w := { (mapped attr).w with mode := 6#32 <<< 5, exec := 0x8000000000000000#64 } }

/-- One lane of an atomic of any operation through h15; for the compare-and-swap two registers. -/
theorem witness_AtomicResult :
    (∀ op : BitVec 3, ∃ (s s₁ t : State) (d i : Byte) (h : BitVec 4) (w : BitVec 1) (ix y : Src) (js : List LaneJob),
      Passes s .no [atomOpd op (w = 1#1) d, .vsrc i false] h ∧ atomType op (w = 1#1) (modeEt s.w) = true ∧ readV s false i = .ok (s₁, ix) ∧
      active s.w ≠ 0#64 ∧ y = (if op = 7#3 then vecSrc s.w (w = 1#1) (d.toNat + if w = 1#1 then 2 else 1) else fun _ => Scalar.zero) ∧
      Clean (active s.w) ix ∧ Clean (active s.w) (vecSrc s.w (w = 1#1) d.toNat) ∧ Clean (active s.w) y ∧
      loadReady s₁ = .ok () ∧ requestsFree s₁ (laneList (active s.w)).length = .ok () ∧
      atomPlan h op (if w = 1#1 then 8 else 4) ((laneList (active s.w)).map fun l =>
        (l.val, atomOffset (w = 1#1) (ix l).val, (vecSrc s.w (w = 1#1) d.toNat l).val, (y l).val)) s₁ = .ok (t, js)) ∧
    (∀ op : BitVec 3, ∃ (s s₁ : State) (d i : Byte) (h : BitVec 4) (w : BitVec 1) (ix : Src),
      Passes s .no [atomOpd op (w = 1#1) d, .vsrc i false] h ∧ atomType op (w = 1#1) (modeEt s.w) = true ∧ readV s false i = .ok (s₁, ix) ∧
      active s.w = 0#64) ∧
    (∀ op : BitVec 3, ∃ (s s₁ t : State) (d i : Byte) (h : BitVec 4) (w : BitVec 1) (ix : Src) (ls : List LaneStore),
      Passes s .no [vdst d (w = 1#1), .vsrc i false] h ∧ atomType op (w = 1#1) (modeEt s.w) = true ∧ readV s false i = .ok (s₁, ix) ∧
      handleFault (handleAt s.w h) true true = none ∧ active s.w ≠ 0#64 ∧ Clean (active s.w) ix ∧
      Clean (active s.w) (vecSrc s.w (w = 1#1) d.toNat) ∧ memReady s₁ = .ok () ∧
      resolveStores h .reduce (if w = 1#1 then 8 else 4) ((laneList (active s.w)).map fun l =>
        ⟨l.val, atomOffset (w = 1#1) (ix l).val, (vecSrc s.w (w = 1#1) d.toNat l).val⟩) s₁ = .ok (t, ls, []) ∧
      (∀ q ∈ ls, atomPage q.place = none) ∧ QueueRoom t ls) ∧
    (∀ op : BitVec 3, ∃ (s s₁ : State) (d i : Byte) (h : BitVec 4) (w : BitVec 1) (ix : Src),
      Passes s .no [vdst d (w = 1#1), .vsrc i false] h ∧ atomType op (w = 1#1) (modeEt s.w) = true ∧ readV s false i = .ok (s₁, ix) ∧
      handleFault (handleAt s.w h) true true = none ∧ active s.w = 0#64) ∧
    (∀ r : Bool, ∃ (s : State) (p : PendLoad),
      p = ⟨.vec 0 8 false, [], [0, 1], none, s.w.pc, s.w.cyc.toNat, false, none, 15⟩ ∧ atomReady s p = r) := by
  have ty : ∀ op : BitVec 3, atomType op true (modeEt (at8 0).w) = true := by decide +kernel
  have ps : ∀ op : BitVec 3, fine (Form.check { rap := .no, opds := [atomOpd op true 228, .vsrc 231 false], hreg := 15 } (at8 0)) = true := by
    decide +kernel
  have pz : ∀ op : BitVec 3, fine (Form.check { rap := .no, opds := [atomOpd op true 228, .vsrc 231 false], hreg := 15 } (asleep (at8 0))) = true := by
    decide +kernel
  have cl : ∀ op : BitVec 3, ((List.finRange 64).all fun l => !(active (at8 0).w).getLsbD l ||
      !((if op = 7#3 then vecSrc (at8 0).w true 230 else fun _ => Scalar.zero) l).poison) = true := by decide +kernel
  refine ⟨fun op => ?_, fun op => ?_, fun op => ?_, fun op => ?_, fun r => ?_⟩
  · let y : Src := if op = 7#3 then vecSrc (at8 0).w true 230 else fun _ => Scalar.zero
    obtain ⟨⟨t, js⟩, e⟩ := fine_iff (r := atomPlan 15 op 8 ((laneList (active (at8 0).w)).map fun l =>
      (l.val, atomOffset true (vecSrc (at8 0).w false 231 l).val, (vecSrc (at8 0).w true 228 l).val, (y l).val)) (at8 0)) (by
        revert op; decide +kernel)
    exact ⟨at8 0, at8 0, t, 228, 231, 15, 1, vecSrc (at8 0).w false 231, y, js, passes (ps op), ty op, rfl, by decide +kernel, rfl,
      cleanOf (by decide +kernel), cleanOf (by decide +kernel), cleanOf (cl op), fine_unit (by decide +kernel), fine_unit (by decide +kernel), e⟩
  · exact ⟨asleep (at8 0), asleep (at8 0), 228, 231, 15, 1, vecSrc (at8 0).w false 231, passes (pz op), ty op, rfl, by decide +kernel⟩
  · obtain ⟨⟨t, ls, fs⟩, e, h⟩ := okAnd_iff (r := resolveStores 15 .reduce 8 ((laneList (active (at8 1).w)).map fun l =>
      ⟨l.val, atomOffset true (vecSrc (at8 1).w false 231 l).val, (vecSrc (at8 1).w true 230 l).val⟩) (at8 1))
      (p := fun q => q.2.2.isEmpty && q.2.1.all (fun q => atomPage q.place = none) && roomy q.1 q.2.1) (by decide +kernel)
    simp only [Bool.and_eq_true, List.isEmpty_iff, decide_eq_true_eq, List.all_eq_true] at h
    obtain ⟨⟨rfl, h₁⟩, h₂⟩ := h
    exact ⟨at8 1, at8 1, t, 230, 231, 15, 1, vecSrc (at8 1).w false 231, ls, passes (by decide +kernel), ty op, rfl, by decide +kernel,
      by decide +kernel, cleanOf (by decide +kernel), cleanOf (by decide +kernel), fine_unit (by decide +kernel), e, h₁, roomy_iff h₂⟩
  · exact ⟨asleep (at8 1), asleep (at8 1), 230, 231, 15, 1, vecSrc (at8 1).w false 231, passes (by decide +kernel), ty op, rfl,
      by decide +kernel, by decide +kernel⟩
  · cases r
    · exact ⟨{ storing with w := { storing.w with cyc := 1 } }, _, rfl, by decide +kernel⟩
    · exact ⟨base, _, rfl, by decide +kernel⟩

theorem witness_AtomicLaneReadsAndWrites :
    (∃ (s t : State) (n : BitVec 4) (size : Nat) (off : Int) (p : Place),
      resolveLane s n .atomic off size = .ok t p ∧ p.stash = false ∧ p.attr = aSc) ∧
    (∃ (t : State) (a : AtomJob), a.place.stash = false ∧ a.place.attr = aSc ∧ homeCheck t.m a.place = none ∧ homeStalls t.m a.place = false ∧
      lineHeld t t.w.core.toNat a.place.pa true = true ∧ (a.size = 4 ∨ a.size = 8) ∧ a.place.pa % a.size = 0) := by
  obtain ⟨t, p, e, h⟩ := placed_iff (r := resolveLane (mapped 1) 15 .atomic 0xFF8 8) (p := fun t p =>
    !p.stash && p.attr = aSc && homeCheck t.m p = none && !homeStalls t.m p && lineHeld t t.w.core.toNat p.pa true && p.pa % 8 = 0)
    (by decide +kernel)
  simp only [Bool.and_eq_true, decide_eq_true_eq, Bool.not_eq_true'] at h
  obtain ⟨⟨⟨⟨⟨h₁, h₂⟩, h₃⟩, h₄⟩, h₅⟩, h₆⟩ := h
  exact ⟨⟨mapped 1, t, 15, 8, 0xFF8, p, e, h₁, h₂⟩,
    ⟨t, { place := p, op := 7, type := 6, size := 8, x := 0, y := 1 }, h₁, h₂, h₃, h₄, h₅, .inr rfl, h₆⟩⟩

/-- A barrier word in the last doubleword of the stash: COUNT 2, PHASE 0, REMAINING `n`. -/
def barred (n : Nat) : State := { mapped 0 with b := { (mapped 0).b with stash := cellPut [] 0xFF8 (bytesOfNat 8 (2 ^ 34 + n)) } }

/-- A parked waiter that has been woken. -/
def woke : State := pairOf 0 0xFF8 { mapped 0 with w := { (mapped 0).w with woken := true } }

theorem witness_BarrierResult :
    (∀ (many last : Bool), ∃ (s s₁ s₂ : State) (d a : Byte) (h : BitVec 4) (x word : DWord) (off n : Nat),
      Passes s .no [.sdst d, .ssrc a] h ∧ readS s a = .ok (s₁, ⟨x, false⟩) ∧ barWord s₁ h x = .ok off ∧ loadReady s₁ = .ok () ∧
      awaitDrained s₁ 1#3 = .ok () ∧ stashHere s₁ off = .ok s₂ ∧ word = stashWord s₂.b off ∧ active s.w ≠ 0#64 ∧ barLeft word ≤ barCount word ∧
      0 < n ∧ n ≤ barLeft word ∧ n = (if many then (x.extractLsb' 32 32).toNat else 1) ∧ (last = true ↔ n = barLeft word)) ∧
    (∃ (s s₁ s₂ : State) (d a : Byte) (h : BitVec 4) (x : DWord) (off : Nat),
      Passes s .no [.sdst d, .ssrc a] h ∧ readS s a = .ok (s₁, ⟨x, false⟩) ∧ barWord s₁ h x = .ok off ∧ loadReady s₁ = .ok () ∧
      awaitDrained s₁ 1#3 = .ok () ∧ stashHere s₁ off = .ok s₂ ∧ active s.w = 0#64) ∧
    (∀ same : Bool, ∃ (s s₁ s₂ : State) (d a : Byte) (h : BitVec 4) (x y : DWord) (off : Nat), Passes s .no [.ssrc d, .ssrc a] h ∧
      readS s a = .ok (s₁, ⟨x, false⟩) ∧ readS s₁ d = .ok (s₂, ⟨y, false⟩) ∧ barWord s₂ h x = .ok off ∧ active s.w ≠ 0#64 ∧
      s.w.woken = false ∧ loadReady s₂ = .ok () ∧ (∀ i, i < 8 → forwardByte (stashAt off) i s.w.stores.reverse = .none) ∧
      (same = true ↔ barPhase (stashWord s₂.b off) = y.getLsbD 0)) ∧
    (∃ (s s₁ s₂ : State) (d a : Byte) (h : BitVec 4) (x y : DWord) (off : Nat), Passes s .no [.ssrc d, .ssrc a] h ∧
      readS s a = .ok (s₁, ⟨x, false⟩) ∧ readS s₁ d = .ok (s₂, ⟨y, false⟩) ∧ barWord s₂ h x = .ok off ∧ active s.w = 0#64) ∧
    (∃ (s s₁ s₂ : State) (d a : Byte) (h : BitVec 4) (x y : DWord) (off : Nat), Passes s .no [.ssrc d, .ssrc a] h ∧
      readS s a = .ok (s₁, ⟨x, false⟩) ∧ readS s₁ d = .ok (s₂, ⟨y, false⟩) ∧ barWord s₂ h x = .ok off ∧ s.w.woken = true) := by
  have arr : ∀ (many last : Bool), ∃ (s s₁ s₂ : State) (d a : Byte) (h : BitVec 4) (x word : DWord) (off n : Nat),
      Passes s .no [.sdst d, .ssrc a] h ∧ readS s a = .ok (s₁, ⟨x, false⟩) ∧ barWord s₁ h x = .ok off ∧ loadReady s₁ = .ok () ∧
      awaitDrained s₁ 1#3 = .ok () ∧ stashHere s₁ off = .ok s₂ ∧ word = stashWord s₂.b off ∧ active s.w ≠ 0#64 ∧ barLeft word ≤ barCount word ∧
      0 < n ∧ n ≤ barLeft word ∧ n = (if many then (x.extractLsb' 32 32).toNat else 1) ∧ (last = true ↔ n = barLeft word) := by
    intro many last
    let left := if last then (if many then 2 else 1) else 2
    let n := if many && last then 2 else 1
    let x : DWord := if many then BitVec.ofNat 64 (n * 2 ^ 32 + 0xFF8) else 0xFF8
    let q := holds x (barred left)
    obtain ⟨u, e, h⟩ := okAnd_iff (r := stashHere q 0xFF8) (p := fun u =>
      barLeft (stashWord u.b 0xFF8) ≤ barCount (stashWord u.b 0xFF8) && n ≤ barLeft (stashWord u.b 0xFF8) &&
      (last == (n == barLeft (stashWord u.b 0xFF8)))) (by cases many <;> cases last <;> decide +kernel)
    simp only [Bool.and_eq_true, decide_eq_true_eq, beq_iff_eq] at h
    exact ⟨q, q, u, 63, 63, 14, x, _, 0xFF8, n, passes (by cases many <;> cases last <;> decide +kernel), rfl,
      okEq (by cases many <;> cases last <;> decide +kernel), fine_unit (by cases many <;> cases last <;> decide +kernel),
      fine_unit (by cases many <;> cases last <;> decide +kernel), e, rfl, by cases many <;> cases last <;> decide +kernel, h.1.1,
      by cases many <;> cases last <;> decide +kernel, h.1.2, by cases many <;> cases last <;> decide +kernel, by rw [h.2]; simp⟩
  refine ⟨arr, ?_, ?_,
    ⟨pairOf 0 0xFF8 (asleep (mapped 0)), pairOf 0 0xFF8 (asleep (mapped 0)), pairOf 0 0xFF8 (asleep (mapped 0)), 62, 63, 14, 0xFF8, 0, 0xFF8,
      passes (by decide +kernel), rfl, rfl, okEq (by decide +kernel), by decide +kernel⟩,
    ⟨woke, woke, woke, 62, 63, 14, 0xFF8, 0, 0xFF8, passes (by decide +kernel), rfl, rfl, okEq (by decide +kernel), rfl⟩⟩
  · obtain ⟨u, e⟩ := fine_iff (r := stashHere (holds 0xFF8 (asleep (barred 2))) 0xFF8) (by decide +kernel)
    exact ⟨holds 0xFF8 (asleep (barred 2)), holds 0xFF8 (asleep (barred 2)), u, 63, 63, 14, 0xFF8, 0xFF8, passes (by decide +kernel), rfl,
      okEq (by decide +kernel), fine_unit (by decide +kernel), fine_unit (by decide +kernel), e, by decide +kernel⟩
  · intro same
    let q := pairOf (if same then 0 else 1) 0xFF8 (barred 2)
    exact ⟨q, q, q, 62, 63, 14, 0xFF8, if same then 0 else 1, 0xFF8, passes (by cases same <;> decide +kernel), rfl, rfl,
      okEq (by cases same <;> decide +kernel), by cases same <;> decide +kernel, rfl, fine_unit (by cases same <;> decide +kernel),
      by cases same <;> decide +kernel, by cases same <;> decide +kernel⟩

/-- A warp with nothing claimed on the last core, and a claim of its own already waiting. -/
def claimless : State := holds 0x1FFFFFFF (at_ fun w => { w with claimed := 0, core := 159 })
def claiming : State := onCore claimless 159 fun c => { c with claims := [⟨0, 0, 1⟩] }

/-- An older claim waits on the core. -/
def crowded : State := onCore { claimless with w := { claimless.w with wid := 9 } } 159 fun c => { c with claims := [⟨8, 8, 1⟩] }

theorem witness_ClaimResult :
    (∃ (s s₁ : State) (a : Byte) (x : DWord), Passes s .no [.ssrc a] ∧ readS s a = .ok (s₁, ⟨x, false⟩) ∧ x.toNat < 2 ^ 29 ∧
      x.setWidth 29 &&& ~~~s.w.claimed = 0#29) ∧
    (∀ now : Bool, ∃ (s s₁ : State) (a : Byte) (x : DWord) (want : BitVec 29), Passes s .no [.ssrc a] ∧ readS s a = .ok (s₁, ⟨x, false⟩) ∧ x.toNat < 2 ^ 29 ∧
      want = x.setWidth 29 &&& ~~~s.w.claimed ∧ want ≠ 0#29 ∧ (∀ q ∈ (coreAt s₁ s₁.w.core.toNat).claims, q.wid ≠ s₁.w.wid) ∧
      (now = true ↔ (∀ q ∈ (coreAt s₁ s₁.w.core.toNat).claims, s₁.w.wid < q.age) ∧ popNat 29 want.toNat ≤ poolFree (coreAt s₁ s₁.w.core.toNat))) ∧
    (∃ (s s₁ : State) (a : Byte) (x : DWord) (want : BitVec 29), Passes s .no [.ssrc a] ∧ readS s a = .ok (s₁, ⟨x, false⟩) ∧ x.toNat < 2 ^ 29 ∧
      want = x.setWidth 29 &&& ~~~s.w.claimed ∧ want ≠ 0#29 ∧ ∃ q ∈ (coreAt s₁ s₁.w.core.toNat).claims, q.wid = s₁.w.wid) ∧
    (∃ (s s₁ : State) (a : Byte) (x : DWord) (held : BitVec 29), Passes s .no [.ssrc a] ∧ readS s a = .ok (s₁, ⟨x, false⟩) ∧ x.toNat < 2 ^ 29 ∧
      held = x.setWidth 29 &&& s.w.claimed ∧ ∀ r, r < 232 → held.getLsbD (r / 8) = true → vPending s.w r = false) ∧
    (∃ (s : State) (d : Byte), Passes s .no [.sdst d]) :=
  ⟨⟨holds 0x1FFFFFFF, holds 0x1FFFFFFF, 63, 0x1FFFFFFF, passes (by decide +kernel), rfl, by decide +kernel, by decide +kernel⟩,
   fun now => ⟨if now then claimless else crowded, if now then claimless else crowded, 63, 0x1FFFFFFF, 0x1FFFFFFF,
    passes (by cases now <;> decide +kernel), by cases now <;> rfl, by decide +kernel, by cases now <;> decide +kernel, by decide +kernel,
    by cases now <;> decide +kernel, by cases now <;> decide +kernel⟩,
   ⟨claiming, claiming, 63, 0x1FFFFFFF, 0x1FFFFFFF, passes (by decide +kernel), rfl, by decide +kernel, by decide +kernel, by decide +kernel,
    by decide +kernel⟩,
   ⟨holds 0x1FFFFFFF, holds 0x1FFFFFFF, 63, 0x1FFFFFFF, _, passes (by decide +kernel), rfl, by decide +kernel, rfl, fun _ _ _ => rfl⟩,
   ⟨base, 63, passes (by decide +kernel)⟩⟩

/-- A block-table entry in its place, of LEN 1 (R110); block-table handles h15 of the run-ahead processor and of a warp. -/
def located : State := filled 0 0x10000 (2 ^ 125 + 2 ^ 100 + 0x1234) 16

def aheadLocated : State := { located with w := { located.w with rap := true } }
/-- The processor with queue 7 of `n` entries; its earlier store drained or not. -/
def pushing (n : Nat) (idle : Bool) : State := { ahead with
  w := { ahead.w with stores := if idle then [] else storing.w.stores }
  b := { ahead.b with queues := ahead.b.queues.set 7 { entries := List.replicate n Scalar.zero, retired := 0 } } }

theorem witness_QueueAndTranslationResult :
    (∃ (s s₁ : State) (q : BitVec 3) (a : Byte) (x : Scalar), Passes s .only [.ssrc a] ∧ readS s a = .ok (s₁, x) ∧ queueFill s₁ q = 32) ∧
    (∀ idle : Bool, ∃ (s s₁ : State) (q : BitVec 3) (a : Byte) (x : Scalar), Passes s .only [.ssrc a] ∧ readS s a = .ok (s₁, x) ∧
      queueFill s₁ q = 31 ∧ s₁.w.pushes = [] ∧ (idle = true ↔ drained s₁ 1#3 = true)) ∧
    (∃ (s s₁ t u : State) (d a : Byte) (h : BitVec 4) (x : Scalar) (js : List LaneJob) (rep evas : List Nat), Passes s .only [.sdst d, .ssrc a] h ∧
      readS s a = .ok (s₁, x) ∧ readReady s₁ 1 = .ok () ∧ kvPlan h [kvReq 0 x] s₁ = .ok (t, js, rep, evas) ∧ postRequests evas t = .ok u) ∧
    (∃ (s s₁ t u : State) (d i : Byte) (h : BitVec 4) (x : Src) (js : List LaneJob) (rep evas : List Nat),
      Passes s .no [.vreg d 2 2, .vsrc i true] h ∧ readV s true i = .ok (s₁, x) ∧ active s.w ≠ 0#64 ∧
      readReady s₁ (laneList (active s.w)).length = .ok () ∧ kvPlan h ((laneList (active s.w)).map fun l => kvReq l.val (x l)) s₁ = .ok (t, js, rep, evas) ∧
      postRequests evas.eraseDups { t with w := { t.w with replay := maskOf rep } } = .ok u) ∧
    (∃ (s s₁ : State) (d i : Byte) (h : BitVec 4) (x : Src), Passes s .no [.vreg d 2 2, .vsrc i true] h ∧ readV s true i = .ok (s₁, x) ∧
      active s.w = 0#64) := by
  refine ⟨⟨pushing 32 true, pushing 32 true, 7, 31, sReg base.w 31, passes (by decide +kernel), rfl, by decide +kernel⟩,
    fun idle => ⟨pushing 31 idle, pushing 31 idle, 7, 31, sReg base.w 31, passes (by cases idle <;> decide +kernel), rfl,
      by cases idle <;> decide +kernel, rfl, by cases idle <;> decide +kernel⟩, ?_, ?_,
    ⟨asleep located, asleep located, 230, 230, 15, vecSrc located.w true 230, passes (by decide +kernel), rfl, by decide +kernel⟩⟩
  · obtain ⟨⟨t, js, rep, evas⟩, e, h⟩ := okAnd_iff (r := kvPlan 15 [kvReq 0 (sReg located.w 31)] aheadLocated)
      (p := fun q => fine (postRequests q.2.2.2 q.1)) (by decide +kernel)
    obtain ⟨u, k⟩ := fine_iff h
    exact ⟨aheadLocated, aheadLocated, t, u, 31, 31, 15, _, js, rep, evas, passes (by decide +kernel), rfl, fine_unit (by decide +kernel), e, k⟩
  · obtain ⟨⟨t, js, rep, evas⟩, e, h⟩ := okAnd_iff (r := kvPlan 15 ((laneList (active located.w)).map fun l => kvReq l.val (vecSrc located.w true 230 l)) located)
      (p := fun q => fine (postRequests q.2.2.2.eraseDups { q.1 with w := { q.1.w with replay := maskOf q.2.2.1 } })) (by decide +kernel)
    obtain ⟨u, k⟩ := fine_iff h
    exact ⟨located, located, t, u, 230, 230, 15, _, js, rep, evas, passes (by decide +kernel), rfl, by decide +kernel, fine_unit (by decide +kernel), e, k⟩

/-- Member 255 of a gang of 256, with h3 a tether window of its stash (R22). -/
def teth : State := { base with
  w := { base.w with h := base.w.h.set 3 (bound (entryOf 3 0 0x1000)), mode := 4#32 <<< 5 }
  b := { base.b with gcount := 256, member := 255, gang := 1, portion := 4096, members := List.replicate 256 0 } }
def rlanes (op : BitVec 3) : List RLane := (laneList (active teth.w)).map fun l =>
  ⟨l, ((vecSrc teth.w false 229 l).val).setWidth 32, ((vecSrc teth.w false 231 l).val).setWidth 32,
    remoteData teth.w op 230 (((vecSrc teth.w false 229 l).val).setWidth 32) l⟩

/-- Parked at an attach in a gang of this device alone, which another of its warps has reached or not. -/
def attaching (all : Bool) : State := { teth with
  w := { teth.w with status := .parked .tattach, attached := 1, bid := 1 }
  b := { teth.b with bid := 1, gcount := 1, member := 0, members := [0x3FF] }
  warps := [{ teth.w with wid := 7, bid := 1, attached := if all then 1 else 0 }] }

theorem witness_RemoteResult :
    (∀ op : BitVec 3, op.toNat ≤ 4 → ∃ (s s₁ s₂ : State) (d o p : Byte) (h : BitVec 2) (off peer : Src) (ls : List RLane),
      Passes s .no [if remoteAtomic op then .vreg d 1 1 else vdst d (wideEt s), .vsrc o false, .vsrc p false] (h.setWidth 4) ∧
      readV s false o = .ok (s₁, off) ∧ readV s₁ false p = .ok (s₂, peer) ∧ Clean (active s.w) off ∧ Clean (active s.w) peer ∧
      ls = (laneList (active s.w)).map (fun l =>
        ⟨l, (peer l).val.setWidth 32, (off l).val.setWidth 32, remoteData s.w op d.toNat ((peer l).val.setWidth 32) l⟩) ∧
      (∀ x ∈ ls, ∀ y ∈ x.data, y.poison = false) ∧ remoteRefused s₂ op (handleAt s.w (h.setWidth 4)) = none ∧ active s.w ≠ 0#64 ∧
      (∀ x ∈ ls, peerBad s₂.b op (hSpace (handleAt s.w (h.setWidth 4)).entry = 3) x.peer = false ∧
        (remoteAtomic op = true → atomType (peerAop x.peer) (peerW64 x.peer) (modeEt s.w) = true) ∧
        (remoteOpd s.w op d x.peer).bad s.w = none ∧ (remoteOpd s.w op d x.peer).pending s₂ = false ∧
        x.off.toNat + remoteSize s.w op x.peer ≤ 2 ^ 32) ∧
      memReady s₂ = .ok () ∧ requestsFree s₂ ls.length = .ok () ∧ s.w.remotes.length < 256) ∧
    (∀ op : BitVec 3, op.toNat ≤ 4 → ∃ (s s₁ s₂ : State) (d o p : Byte) (h : BitVec 2) (off peer : Src),
      Passes s .no [if remoteAtomic op then .vreg d 1 1 else vdst d (wideEt s), .vsrc o false, .vsrc p false] (h.setWidth 4) ∧
      readV s false o = .ok (s₁, off) ∧ readV s₁ false p = .ok (s₂, peer) ∧ remoteRefused s₂ op (handleAt s.w (h.setWidth 4)) = none ∧
      active s.w = 0#64) ∧
    (∃ s : State, Passes s .no [] ∧ s.b.gcount = 0#9) ∧
    (∃ s : State, Passes s .no [] ∧ s.b.gcount ≠ 0#9 ∧ s.w.detached = false ∧ s.w.status ≠ .parked .tattach ∧ awaitDrained s 3#3 = .ok ()) ∧
    (∀ r : Bool, ∃ s : State, Passes s .no [] ∧ s.b.gcount ≠ 0#9 ∧ s.w.detached = false ∧ s.w.status = .parked .tattach ∧
      gangReached s s.w.attached = r) ∧
    (∃ s : State, Passes s .no [] ∧ s.w.remotes = []) := by
  have ps : ∀ op : BitVec 3, op.toNat ≤ 4 → fine (Form.check (Form.mk .no [if remoteAtomic op then .vreg 230 1 1 else vdst 230 (wideEt teth),
    .vsrc 231 false, .vsrc 229 false] 3) teth) = true := by decide +kernel
  have c₁ : ∀ op : BitVec 3, op.toNat ≤ 4 → ((rlanes op).all fun x => x.data.all fun y => !y.poison) = true := by decide +kernel
  have c₂ : ∀ op : BitVec 3, op.toNat ≤ 4 → remoteRefused teth op (handleAt teth.w 3) = none := by decide +kernel
  have c₃ : ∀ op : BitVec 3, op.toNat ≤ 4 → ((rlanes op).all fun x => !peerBad teth.b op (hSpace (handleAt teth.w 3).entry = 3) x.peer &&
        (!remoteAtomic op || atomType (peerAop x.peer) (peerW64 x.peer) (modeEt teth.w)) &&
        (remoteOpd teth.w op 230 x.peer).bad teth.w = none && !(remoteOpd teth.w op 230 x.peer).pending teth &&
        x.off.toNat + remoteSize teth.w op x.peer ≤ 2 ^ 32) = true := by decide +kernel
  have c₄ : ∀ op : BitVec 3, op.toNat ≤ 4 → fine (requestsFree teth (rlanes op).length) = true := by decide +kernel
  have pz : ∀ op : BitVec 3, op.toNat ≤ 4 → fine (Form.check (Form.mk .no [if remoteAtomic op then .vreg 230 1 1 else vdst 230 (wideEt (asleep teth)),
    .vsrc 231 false, .vsrc 229 false] 3) (asleep teth)) = true := by decide +kernel
  have c₅ : ∀ op : BitVec 3, op.toNat ≤ 4 → remoteRefused (asleep teth) op (handleAt (asleep teth).w 3) = none := by decide +kernel
  refine ⟨fun op hop => ⟨teth, teth, teth, 230, 231, 229, 3, vecSrc teth.w false 231, vecSrc teth.w false 229, rlanes op, passes (ps op hop), rfl, rfl, cleanOf (by decide +kernel),
    cleanOf (by decide +kernel), rfl, ?_, c₂ op hop, by decide +kernel, ?_, fine_unit (by decide +kernel), fine_unit (c₄ op hop), by decide +kernel⟩,
    fun op hop => ⟨asleep teth, asleep teth, asleep teth, 230, 231, 229, 3, vecSrc teth.w false 231, vecSrc teth.w false 229, passes (pz op hop), rfl, rfl,
      c₅ op hop, by decide +kernel⟩,
    ⟨base, passes (by decide +kernel), rfl⟩,
    ⟨teth, passes (by decide +kernel), by decide +kernel, rfl, by decide +kernel, fine_unit (by decide +kernel)⟩,
    fun r => ⟨attaching r, passes (by cases r <;> decide +kernel), by cases r <;> decide +kernel, rfl, rfl, by cases r <;> decide +kernel⟩,
    ⟨teth, passes (by decide +kernel), rfl⟩⟩
  · simpa using c₁ op hop
  · intro x hx
    have k := List.all_eq_true.mp (c₃ op hop) x hx
    simp only [Bool.and_eq_true, decide_eq_true_eq, Bool.not_eq_true', Bool.or_eq_true] at k
    obtain ⟨⟨⟨⟨a, b⟩, c⟩, d⟩, e⟩ := k
    exact ⟨a, fun h => by simpa [h] using b, c, d, e⟩

/-- A stash entry of type F32 and rank 1 whose one tile is of `x` columns and `y` rows (R26, R40). -/
def tileEntry (x y : Nat) : BitVec 512 :=
  BitVec.ofNat 512 (2 ^ 92 + 2 ^ 95 + 10 * 2 ^ 99 + 2 ^ 110 + 0x1000 * 2 ^ 128 + x * 2 ^ 272 + y * 2 ^ 300 + x * 2 ^ 384 + y * 2 ^ 396 + 2 ^ 432 + 2 ^ 452)

/-- Operands A and B of F32 in h15 and h14, one active lane, scalars zero (R340). -/
def matrixed : State := { mapped 0 with w := { (mapped 0).w with
  h := ((mapped 0).w.h.set 15 (bound (tileEntry 8 64))).set 14 (bound (tileEntry 64 8)), exec := 0x8000000000000000#64 } }

theorem matrixReady {s : State} {form c : BitVec 2} {a b : BitVec 4} {sa sb : BitVec 6} {z : BitVec 1}
    (h : (s.w.matReq.isNone && s.w.mat.isNone && matPoison s.w form sa.toNat sb.toNat = none &&
      (matFault s.w c.toFin a b (z = 1#1) (coordsOf (s.w.s[Fin.ofNat 64 sa.toNat]).val (s.w.s[Fin.ofNat 64 (sa.toNat + 1)]).val)
        (coordsOf (s.w.s[Fin.ofNat 64 sb.toNat]).val (s.w.s[Fin.ofNat 64 (sb.toNat + 1)]).val)).isNone && !boardFull s s.w.core && fine (xpReady s)) = true) :
    MatrixReady s form c a b sa sb z := by
  simp only [Bool.and_eq_true, Option.isNone_iff_eq_none, decide_eq_true_eq, Bool.not_eq_true'] at h
  obtain ⟨⟨⟨⟨⟨h₁, h₂⟩, h₃⟩, h₄⟩, h₅⟩, h₆⟩ := h
  exact ⟨h₁, h₂, h₃, h₄, h₅, fine_unit h₆⟩

theorem witness_MatrixIssueResult :
    (∃ (s : State) (c : BitVec 2) (a b : BitVec 4) (sa sb : BitVec 6) (z : BitVec 1),
      Passes s .no [.sregs (sa.setWidth 8) 2, .sregs (sb.setWidth 8) 2] ∧ MatrixReady s 0#2 c a b sa sb z ∧ active s.w ≠ 0#64) ∧
    (∃ (s : State) (c : BitVec 2) (a b : BitVec 4) (sa sb : BitVec 6) (z : BitVec 1),
      Passes s .no [.sregs (sa.setWidth 8) 4, .sregs (sb.setWidth 8) 2] ∧ MatrixReady s 1#2 c a b sa sb z ∧ active s.w ≠ 0#64) ∧
    (∃ (s : State) (c : BitVec 2) (a b : BitVec 4) (sa sb : BitVec 6) (z : BitVec 1),
      Passes s .no [.sregs (sa.setWidth 8) 2, .sregs (sb.setWidth 8) 2] ∧ MatrixReady s 2#2 c a b sa sb z ∧ s.b.accord = true) ∧
    (∃ (s : State) (c : BitVec 2) (a b : BitVec 4) (sa sb : BitVec 6) (z : BitVec 1),
      Passes s .no [.sregs (sa.setWidth 8) 2, .sregs (sb.setWidth 8) 2] ∧ MatrixReady s 0#2 c a b sa sb z ∧ active s.w = 0#64) ∧
    (∃ (s : State) (c : BitVec 2) (a b : BitVec 4) (sa sb : BitVec 6) (z : BitVec 1),
      Passes s .no [.sregs (sa.setWidth 8) 4, .sregs (sb.setWidth 8) 2] ∧ MatrixReady s 1#2 c a b sa sb z ∧ active s.w = 0#64) :=
  ⟨⟨matrixed, 3, 15, 14, 62, 0, 1, passes (by decide +kernel), matrixReady (by decide +kernel), by decide +kernel⟩,
   ⟨matrixed, 3, 15, 14, 60, 62, 0, passes (by decide +kernel), matrixReady (by decide +kernel), by decide +kernel⟩,
   ⟨{ matrixed with b := { matrixed.b with accord := true } }, 0, 15, 14, 62, 62, 0, passes (by decide +kernel), matrixReady (by decide +kernel), rfl⟩,
   ⟨asleep matrixed, 0, 15, 14, 62, 62, 0, passes (by decide +kernel), matrixReady (by decide +kernel), by decide +kernel⟩,
   ⟨asleep matrixed, 3, 15, 14, 60, 62, 0, passes (by decide +kernel), matrixReady (by decide +kernel), by decide +kernel⟩⟩

/-- A request that waits to be accepted; an accepted instruction. -/
def request : MatReq := matRequest matrixed.w 0 0#2 3 15 14 62 0 true
def waitingMat : State := { matrixed with w := { matrixed.w with matReq := some request, status := .parked .matrix } }
/-- One without an active row, parked on an unpublished line of its operand. -/
def noRows : MatReq := { request with skip := BitVec.allOnes 64 }
def parkedMat : State := { matrixed with w := { matrixed.w with matReq := some noRows, status := .parked .wos } }
def work (form : BitVec 2) : MatWork :=
  { acc := 3, tile := Acc.zero, rowState := Vector.replicate 64 RowState.launch, zeroAdd := 0, form := form, done := 0, since := 0, step := 8, flag := none }
def engineAt (e : Engine) : State := { base with engines := Vector.replicate 640 e }

theorem noneIs {α : Type} {o : Option α} {p : α → Prop} (h : o.isNone = true) : ∀ a, o = some a → p a := by
  intro a e
  simp [e] at h

theorem witness_MatrixEventResult :
    (∃ (s s₁ s₂ : State) (q : MatReq) (b : OpRead) (rows : List (Fin 64 × RowRead)), AtCore s s.w.wid ∧ s.w.matReq = some q ∧
      s.w.status = .parked .matrix ∧ s.w.mat = none ∧ matHeld s q = false ∧ q.paired = false ∧
      (if q.rows.isEmpty then .ok (s, .unread) else fetchB q (modeSp s.w) s) = .ok (s₁, b) ∧ fetchA q s₁ = .ok (s₂, rows) ∧ ∀ r ∈ rows, ∃ x, r.2 = .inl x) ∧
    (∃ (s : State) (q : MatReq), AtCore s s.w.wid ∧ s.w.matReq = some q ∧ s.w.status = .parked .wos ∧ s.w.mat = none ∧ matHeld s q = false ∧
      q.paired = false ∧ q.rows.isEmpty = true) ∧
    (∃ (s : State) (k : MatWork), AtCore s s.w.wid ∧ s.w.mat = some k ∧ (k.form ≠ 3#2 → engineReady s = true)) ∧
    (∃ (s : State) (k : MatWork), AtCore s s.w.wid ∧ s.w.mat = some k ∧ k.form = 2#2 ∧ (k.form ≠ 3#2 → engineReady s = true)) ∧
    (∃ (s : State) (q : MatReq), AtCore s s.w.wid ∧ s.w.status = .parked .accord ∧ s.w.matReq = some q ∧
      (∀ p, partnerOf s = some p → atMmap p = none ∧ p.status ≠ .done) ∧ 16 * modePw s.w ≤ s.w.cyc.toNat - s.w.since) ∧
    (∃ (s : State) (die : BitVec 2) (t : Nat) (n : Fin 640), oldestRequest s die.toNat = some (t, n.val) ∧ s.grantAt[die.toNat] ≤ s.clk) ∧
    (∃ (s : State) (n : BitVec 10), n.toNat < 640 ∧ engineBusy s n.toNat = false) := by
  have at_core : ∀ s : State, s.w.status ≠ .vacant → s.x.resident = true → AtCore s s.w.wid := fun s h k => ⟨⟨rfl, h⟩, k⟩
  refine ⟨?_, ⟨parkedMat, noRows, at_core _ (by decide +kernel) rfl, rfl, rfl, rfl, by decide +kernel, rfl, by decide +kernel⟩,
    ⟨at_ fun w => { w with mat := some (work 3) }, work 3, at_core _ (by decide +kernel) rfl, rfl, by decide⟩,
    ⟨{ engineAt { gated := false, requested := none, readyAt := 0, startedAt := none, idleSince := 0, banks := [] } with w := { base.w with mat := some (work 2) } }, _,
      at_core _ (by decide +kernel) rfl, rfl, rfl, by decide +kernel⟩,
    ⟨at_ fun w => { w with matReq := some request, status := .parked .accord, mode := 63#32 <<< 24, cyc := 1008 }, _, at_core _ (by decide +kernel) rfl, rfl, rfl,
      noneIs (by decide +kernel), by decide +kernel⟩,
    ⟨engineAt { gated := true, requested := some 5, readyAt := 0, startedAt := none, idleSince := 0, banks := [] }, 3, 5, 480, by decide +kernel, by decide +kernel⟩,
    ⟨base, 639, by decide, by decide +kernel⟩⟩
  obtain ⟨⟨s₁, b⟩, e₁, h⟩ := okAnd_iff (r := fetchB request (modeSp waitingMat.w) waitingMat) (p := fun q => okAnd (fetchA request q.1) fun q => q.2.all fun r => r.2.isLeft)
    (by decide +kernel)
  obtain ⟨⟨s₂, rows⟩, e₂, k⟩ := okAnd_iff h
  refine ⟨waitingMat, s₁, s₂, request, b, rows, at_core _ (by decide +kernel) rfl, rfl, rfl, rfl, by decide +kernel, rfl, (if_neg (by decide +kernel)).trans e₁, e₂, ?_⟩
  intro r hr
  have := List.all_eq_true.mp k r hr
  exact Sum.isLeft_iff.mp this

/-- The F32 tile of 64 columns and 64 rows: h13 dense in memory, h12 with ATTAR 1; h11 the row state (R348 to R350). -/
def dense : BitVec 512 := tileEntry 64 64 &&& ~~~((7 : BitVec 512) <<< 92) ||| 0x10000#512 ||| ((0x4000 : BitVec 512) <<< 128)
def transfer : State := { mapped 0 with w := { (mapped 0).w with h := ((mapped 0).w.h.set 15 (bound dense)).set 14 (bound (tileEntry 4 64)),
                                                                   exec := 0x8000000000000000#64 } }
theorem witness_AccumulatorResult :
    (∀ on : Bool, ∃ s : State, Passes s .no [] ∧ s.w.mat = none ∧ (on = true ↔ active s.w ≠ 0#64)) ∧
    (∃ (s : State) (c : BitVec 2) (h : BitVec 4) (i : BitVec 6) (k : AccCase) (f64 : Bool) (co : List Nat),
      Passes s .no [.sregs (i.setWidth 8) 2] h ∧ s.w.mat = none ∧ active s.w = 0#64 ∧ accChecks s c.toFin h i false = .ok (k, f64, co) ∧
      coordValid (handleAt s.w h).entry co = true) ∧
    (∀ st : Bool, ∃ (s t : State) (c : BitVec 2) (h : BitVec 4) (i : BitVec 6) (k : AccCase) (f64 : Bool) (co : List Nat) (rows : List (Fin 64 × RowLoad)),
      Passes s .no [.sregs (i.setWidth 8) 2] h ∧ s.w.mat = none ∧ active s.w ≠ 0#64 ∧ accChecks s c.toFin h i false = .ok (k, f64, co) ∧
      coordValid (handleAt s.w h).entry co = true ∧ readReady s 64 = .ok () ∧ accRead s k h (handleAt s.w h) co = .ok (t, rows) ∧ (st = true ↔ k = .state)) ∧
    (∀ on : Bool, ∃ (s : State) (c m : BitVec 2) (f : BitVec 6) (x : DWord), Passes s .no [.ssrc (f.setWidth 8)] ∧ s.w.mat = none ∧
      (on = true ↔ active s.w ≠ 0#64) ∧ s.w.s[Fin.ofNat 64 f.toNat] = ⟨x, false⟩ ∧ (s.w.acc[c.toFin]).f64 = false ∧ (s.w.acc[m.toFin]).f64 = false ∧
      x.toNat < 4) := by
  refine ⟨fun on => ⟨if on then base else idle, passes (by cases on <;> decide +kernel), by cases on <;> rfl, by cases on <;> decide +kernel⟩,
    ⟨asleep transfer, 3, 15, 62, .dense, false, [0, 0, 0, 0], passes (by decide +kernel), rfl, by decide +kernel, okEq (by decide +kernel),
      by decide +kernel⟩, ?_,
    fun on => ⟨if on then holds 3 else asleep (holds 3), 3, 0, 63, 3, passes (by cases on <;> decide +kernel), by cases on <;> rfl,
      by cases on <;> decide +kernel, by cases on <;> rfl, by cases on <;> decide +kernel, by cases on <;> decide +kernel, by decide⟩⟩
  intro st
  cases st
  · obtain ⟨⟨t, rows⟩, e⟩ := fine_iff (r := accRead transfer .dense 15 (handleAt transfer.w 15) [0, 0, 0, 0]) (by decide +kernel)
    exact ⟨transfer, t, 3, 15, 62, .dense, false, [0, 0, 0, 0], rows, passes (by decide +kernel), rfl, by decide +kernel, okEq (by decide +kernel), by decide +kernel,
      fine_unit (by decide +kernel), e, by decide⟩
  · obtain ⟨⟨t, rows⟩, e⟩ := fine_iff (r := accRead transfer .state 14 (handleAt transfer.w 14) [0, 0, 0, 0]) (by decide +kernel)
    exact ⟨transfer, t, 0, 14, 62, .state, false, [0, 0, 0, 0], rows, passes (by decide +kernel), rfl, by decide +kernel, okEq (by decide +kernel), by decide +kernel,
      fine_unit (by decide +kernel), e, by decide⟩

/-- Twins that wait at an ACCG of accumulators 3 and 0 (R197). -/
def twins : State :=
  let w := { base.w with matReq := some (accgRequest base.w 3 0), status := .parked .accg, wid := 1 }
  { base with w := { w with twin := true }, warps := [{ w with wid := 2, widx := 1, matReq := some (accgRequest base.w 0 0) }]
              b := { base.b with accord := true } }

/-- The pair s62 names the last image of the page, whose first length is 1 (R359, R75). -/
def coded : State := pairOf 0x1FF00 0 (filled 0 0x1FF00 1 1)

/-- A twin about to issue ACCG, its partner at one or not. -/
def twinning (there : Bool) : State :=
  { twins with w := { twins.w with matReq := none, status := .running }
               warps := if there then twins.warps else [{ base.w with wid := 2, widx := 1 }] }

theorem witness_AccumulatorStoreResult :
    (∃ (s t : State) (c : BitVec 2) (h : BitVec 4) (i : BitVec 6) (k : AccCase) (f64 : Bool) (co : List Nat) (ws : List LaneStore),
      Passes s .no [.sregs (i.setWidth 8) 2] h ∧ s.w.mat = none ∧ accChecks s c.toFin h i true = .ok (k, f64, co) ∧
      coordValid (handleAt s.w h).entry co = true ∧ active s.w ≠ 0#64 ∧
      (∀ r : Fin 64, (k = .attar ∨ (active s.w).getLsbD r = true) →
        (if k = .state then (s.w.rowState[r]).poison else ((s.w.acc[c.toFin]).rows[r]).poison) = false) ∧ memReady s = .ok () ∧
      (if k = .attar then storeAttar h (handleAt s.w h) co (accQuant s.w.acc[c.toFin] (handleAt s.w h).entry co).1
          (accQuant s.w.acc[c.toFin] (handleAt s.w h).entry co).2 s
        else storeDense h (handleAt s.w h) (accWrites s.w k s.w.acc[c.toFin] (handleAt s.w h).entry co) s) = .ok (t, ws) ∧ QueueRoom t ws) ∧
    (∃ (s : State) (c : BitVec 2) (h : BitVec 4) (i : BitVec 6) (k : AccCase) (f64 : Bool) (co : List Nat),
      Passes s .no [.sregs (i.setWidth 8) 2] h ∧ s.w.mat = none ∧ accChecks s c.toFin h i true = .ok (k, f64, co) ∧
      coordValid (handleAt s.w h).entry co = true ∧ active s.w = 0#64) ∧
    (∀ there : Bool, ∃ (s : State) (g : BitVec 6) (x : DWord) (p : Warp), Passes s .no [.ssrc (g.setWidth 8)] ∧ s.w.mat = none ∧ s.b.accord = true ∧
      s.w.status ≠ .parked .accg ∧ s.w.s[Fin.ofNat 64 g.toNat] = ⟨x, false⟩ ∧ partnerOf s = some p ∧ p.status ≠ .done ∧ (atAccg p).isSome = there) ∧
    (∃ (s : State) (g : BitVec 6) (q q2 : MatReq) (p : Warp), Passes s .no [.ssrc (g.setWidth 8)] ∧ s.w.mat = none ∧ atAccg s.w = some q ∧
      partnerOf s = some p ∧ p.status ≠ .done ∧ atAccg p = some q2 ∧ (s.w.acc[q.acc]).f64 = (p.acc[q2.acc]).f64) ∧
    (∃ (c : Acc) (q : MatReq) (r k : Fin 64), q.active.getLsbD r = true ∧ (c.f64 = true → k.val < 32)) ∧
    (∃ (s : State) (a : Byte) (va : Nat), Passes s .no [.sregs a 2] ∧ imageVa s a = .ok va ∧ active s.w = 0#64) ∧
    (∃ (s t : State) (a : Byte) (va : Nat) (bs : List Byte), Passes s .no [.sregs a 2] ∧ imageVa s a = .ok va ∧ active s.w ≠ 0#64 ∧
      loadReady s = .ok () ∧ readBytesVa { warpReader s 0#4 Handle.unbound with hreg := none } va 256 s = .ok (t, bs) ∧
      imageValid (BitVec.ofNat 2048 (natOfBytes bs)) = true) ∧
    (∃ (s t : State) (a : Byte) (k : BitVec 6) (va : Nat) (ls : List LaneStore), Passes s .no [.sregs a 2] ∧ imageVa s a = .ok va ∧ active s.w ≠ 0#64 ∧
      memReady s = .ok () ∧ storeVa 0#4 va (bytesOfNat 256 ((s.x.tables[k.toNat]).getD 0#2048).toNat) s = .ok (t, ls) ∧ QueueRoom t ls) ∧
    (∃ s : State, Passes s .no []) := by
  refine ⟨?_, ⟨asleep transfer, 0, 14, 62, .state, false, [0, 0, 0, 0], passes (by decide +kernel), rfl, okEq (by decide +kernel), by decide +kernel,
      by decide +kernel⟩, fun there => ⟨twinning there, 63, 0, if there then { base.w with wid := 2, widx := 1, matReq := some (accgRequest base.w 0 0), status := .parked .accg }
      else { base.w with wid := 2, widx := 1 }, passes (by cases there <;> decide +kernel), rfl, rfl, by cases there <;> decide +kernel, rfl,
      by cases there <;> rfl, by cases there <;> decide +kernel, by cases there <;> rfl⟩,
    ⟨twins, 63, accgRequest base.w 3 0, accgRequest base.w 0 0,
      { base.w with wid := 2, widx := 1, matReq := some (accgRequest base.w 0 0), status := .parked .accg }, passes (by decide +kernel), rfl, rfl, rfl,
      by decide +kernel, rfl, rfl⟩,
    ⟨{ Acc.zero with f64 := true }, accgRequest base.w 0 0, 63, 31, by decide +kernel, by decide⟩,
    ⟨asleep coded, 62, 0x1FF00, passes (by decide +kernel), okEq (by decide +kernel), by decide +kernel⟩, ?_, ?_,
    ⟨base, passes (by decide +kernel)⟩⟩
  · obtain ⟨⟨t, ls⟩, e, h⟩ := okAnd_iff (r := storeDense 14 (handleAt transfer.w 14) (accWrites transfer.w .state transfer.w.acc[(0 : Fin 4)] (handleAt transfer.w 14).entry
      [0, 0, 0, 0]) transfer) (p := fun q => roomy q.1 q.2) (by decide +kernel)
    exact ⟨transfer, t, 0, 14, 62, .state, false, [0, 0, 0, 0], ls, passes (by decide +kernel), rfl, okEq (by decide +kernel), by decide +kernel,
      by decide +kernel, by decide +kernel, fine_unit (by decide +kernel), (if_neg (by decide)).trans e, roomy_iff h⟩
  · obtain ⟨⟨t, bs⟩, e, h⟩ := okAnd_iff (r := readBytesVa { warpReader coded 0#4 Handle.unbound with hreg := none } 0x1FF00 256 coded)
      (p := fun q => imageValid (BitVec.ofNat 2048 (natOfBytes q.2))) (by decide +kernel)
    exact ⟨coded, t, 62, 0x1FF00, bs, passes (by decide +kernel), okEq (by decide +kernel), by decide +kernel, fine_unit (by decide +kernel), e, h⟩
  · obtain ⟨⟨t, ls⟩, e, h⟩ := okAnd_iff (r := storeVa 0#4 0x1FF00 (bytesOfNat 256 ((coded.x.tables[(63#6).toNat]).getD 0#2048).toNat) coded)
      (p := fun q => roomy q.1 q.2) (by decide +kernel)
    exact ⟨coded, t, 62, 63, 0x1FF00, ls, passes (by decide +kernel), okEq (by decide +kernel), by decide +kernel, fine_unit (by decide +kernel), e, roomy_iff h⟩

/-- Every handle bound, so that any selector below 16 names an object; scalars s60 to s63 are zero. -/
def engined : State := { base with w := { base.w with h := Vector.replicate 16 (bound (entryOf 1 0 0x1000)) }, b := { base.b with portion := 0x1000 } }

/-- The functions of an engine with the numbers of R364. -/
def engineFns : List (BitVec 7) :=
  [0x00, 0x01, 0x02, 0x03, 0x04, 0x05, 0x10, 0x11, 0x12, 0x13, 0x20, 0x21, 0x30, 0x40, 0x41, 0x42, 0x43]

theorem witness_EngineIssueResult (f : BitVec 7) (hf : f ∈ engineFns) (reply : Bool) :
    (∃ (s : State) (d a b : BitVec 6) (x y z : DWord), Passes s .no (copFields f reply d a b) ∧ copOperands f reply d a b s.w = .ok (x, y, z) ∧
      copRefs s.w (refWords f x y z) = .ok () ∧ active s.w = 0#64) ∧
    (∃ (s : State) (d a b : BitVec 6) (x y z : DWord), Passes s .no (copFields f reply d a b) ∧ copOperands f reply d a b s.w = .ok (x, y, z) ∧
      copRefs s.w (refWords f x y z) = .ok () ∧ active s.w ≠ 0#64 ∧ boardFull s s.w.core = false) := by
  have h₁ : ∀ e : Bool, fine (Form.check ⟨.no, copFields f reply 63 62 61, 0⟩ (if e then engined else { engined with w := { engined.w with exec := 0 } })) = true ∧
      okAnd (copOperands f reply 63 62 61 (if e then engined else { engined with w := { engined.w with exec := 0 } }).w) (fun q =>
        fine (copRefs (if e then engined else { engined with w := { engined.w with exec := 0 } }).w (refWords f q.1 q.2.1 q.2.2))) = true := by
    revert f reply; decide +kernel
  obtain ⟨p₁, q₁⟩ := h₁ false
  obtain ⟨p₂, q₂⟩ := h₁ true
  obtain ⟨⟨x, y, z⟩, e₁, r₁⟩ := okAnd_iff q₁
  obtain ⟨⟨x', y', z'⟩, e₂, r₂⟩ := okAnd_iff q₂
  exact ⟨⟨_, 63, 62, 61, x, y, z, passes p₁, e₁, fine_unit r₁, by decide +kernel⟩,
    ⟨_, 63, 62, 61, x', y', z', passes p₂, e₂, fine_unit r₂, by decide +kernel, by decide +kernel⟩⟩

/-- A started `fill` of eight bytes at offset 0xFF8 of h15, with a reply in s63 (R365). -/
def fillCmd : Cmd :=
  { newCmd engined 7 0x04#7 true 63 0x000F000000000FF8 0 8 with started := true, unit := 0x20, issuer := .warp 1 }
def filler : State := { engined with w := { engined.w with wid := 1 }, cmds := [fillCmd] }

theorem secondOk {ε α β : Type} {p : α × Except ε β} {x : β} (e : p.2 = .ok x) : p = (p.1, .ok x) := by rw [← e]

/-- A hub at a cut (R169). -/
def sealed : State := { base with hub := { base.hub with cutReported := true } }

theorem witness_EngineCompletionResult :
    (∃ (s : State) (id : Nat) (c : Cmd) (wid : Nat) (p : CmdPlan) (before r : State), hubSealed s.hub = false ∧
      s.cmds.find? (fun c => c.id = id && c.started) = some c ∧ c.issuer = .warp wid ∧
      c.func.toNat < 0x50 ∧ c.stopping = false ∧ p.spoiled = [] ∧ before = c.fills.foldl (fun s t => setTile s c.ctx t.1 t.2) s ∧
      asUnit before c (runCmd c) = (r, .ok p)) ∧
    (∃ (s : State) (c : Cmd), AtWarp s s.w.wid ∧ c.issuer = .warp s.w.wid ∧ c.reply = true ∧ s.x.resident = true) ∧
    (∃ (s : State) (id : Nat), hubSealed s.hub = false ∧ ∀ c ∈ s.cmds, ¬(c.id = id ∧ c.started = true)) ∧
    (∃ s : State, hubSealed s.hub = true) := by
  refine ⟨?_, ⟨filler, fillCmd, ⟨rfl, by decide +kernel⟩, rfl, rfl, rfl⟩, ⟨base, 0, by decide +kernel, by decide +kernel⟩,
    ⟨sealed, by decide +kernel⟩⟩
  obtain ⟨p, e, h⟩ := okAnd_iff (r := (asUnit filler fillCmd (runCmd fillCmd)).2)
    (p := fun p => p.spoiled.isEmpty) (by decide +kernel)
  exact ⟨filler, 7, fillCmd, 1, p, filler, (asUnit filler fillCmd (runCmd fillCmd)).1, by decide +kernel, by decide +kernel, rfl, by decide, rfl,
    by simpa using h, by rw [show fillCmd.fills = [] from rfl, List.foldl_nil], secondOk e⟩

/-- The range word of the last line of a portion of 4,096 bytes in s62; core 0's table holds that tile in a state. -/
def tileState (st : Option Nat) : State :=
  { pairOf 0x00000F8000000000 0 { mapped 0 with w := (mapped 0).w } with
    cores := match st with
      | none => base.cores
      | some n => Vector.replicate 160 { CoreState.reset with tiles := CoreState.reset.tiles.set 255
                                                                                         (BitVec.ofNat 64 (2 ^ 62 * n + 2 ^ 60 + 31 * 2 ^ 30 + 0xFF00)) } }

/-- The tile of that table in a state; a tile function at work. -/
def lastTile (n : Nat) : Nat × DWord := (255, BitVec.ofNat 64 (2 ^ 62 * n + 2 ^ 60 + 31 * 2 ^ 30 + 0xFF00))
def tileCmd (f : BitVec 7) : Cmd := { newCmd base 0 f true 63 0 0 0 with started := true, fills := [lastTile 1], issuer := .warp 0 }
def tiling (f : BitVec 7) : State := { tileState (some 1) with cmds := [tileCmd f] }

/-- A warp at a tile function: no lane active, the command already waiting for the scoreboard, or first issued. -/
def tileWaits (f : BitVec 7) (k : Fin 3) : State :=
  let s := tileState (some 2)
  if k = 0 then asleep s
  else if k = 1 then { s with w := { s.w with status := .parked .scoreboard }, cmds := [{ tileCmd f with started := false }] }
  else s

theorem witness_TileFunctionResult :
    (∃ (s : State) (d a : BitVec 6) (x z : DWord) (n : Nat), Passes s .no (copFields 0x50#7 true d a 0#6) ∧
      copOperands 0x50#7 true d a 0#6 s.w = .ok (x, 0#64, z) ∧ x.extractLsb' 11 21 = 0#21 ∧ rangeInside s x = true ∧
      tilesAt s s.b (rangeOff x) (rangeBytes x) = [] ∧ (coreAt s s.w.core.toNat).tiles.toList.findIdx? (fun e => !tDef e) = some n) ∧
    (∀ empty : Bool, ∃ (s : State) (r : BitVec 1) (d a : BitVec 6) (x z : DWord) (t : Nat × DWord), Passes s .no (copFields 0x51#7 (r = 1#1) d a 0#6) ∧
      copOperands 0x51#7 (r = 1#1) d a 0#6 s.w = .ok (x, 0#64, z) ∧ x.extractLsb' 11 21 = 0#21 ∧ tileOf s x = some t ∧
      tState t.2 = if empty then 0 else 2) ∧
    (∃ (s : State) (d a : BitVec 6) (x z : DWord), Passes s .no (copFields 0x54#7 true d a 0#6) ∧
      copOperands 0x54#7 true d a 0#6 s.w = .ok (x, 0#64, z) ∧ x.extractLsb' 11 21 = 0#21) ∧
    (∀ (f : BitVec 7), f = 0x52#7 ∨ f = 0x53#7 → ∀ k : Fin 3, ∃ (s : State) (r : BitVec 1) (d a : BitVec 6) (x z : DWord) (t : Nat × DWord),
      Passes s .no (copFields f (r = 1#1) d a 0#6) ∧ copOperands f (r = 1#1) d a 0#6 s.w = .ok (x, 0#64, z) ∧ x.extractLsb' 11 21 = 0#21 ∧
      tileOf s x = some t ∧ (if k = 0 then active s.w = 0#64 else active s.w ≠ 0#64 ∧
        if k = 1 then ∃ c, ownTileFn s f = some c else ownTileFn s f = none ∧ boardFull s s.w.core = false)) ∧
    (∃ (s : State) (c : Cmd), boardHolds s c.core c.bid c.id c.reads c.writes = true) ∧
    (∀ k : Fin 3, ∃ (s : State) (c : Cmd) (x : DWord) (t : Nat × DWord), boardHolds s c.core c.bid c.id c.reads c.writes = false ∧
      tileOf s x = some t ∧ (if k = 0 then c.func = 0x53#7 ∧ tState t.2 = 2 else c.func = 0x52#7 ∧ tState t.2 = if k = 1 then 2 else 0)) ∧
    (∀ (f : BitVec 7), f = 0x52#7 ∨ f = 0x53#7 → ∃ (s : State) (id wid : Nat) (c : Cmd), hubSealed s.hub = false ∧
      s.cmds.find? (fun c => c.id = id && c.started) = some c ∧ c.issuer = .warp wid ∧ c.stopping = false ∧ c.func = f ∧
      ∀ w, warpOf s wid = some w → ∀ e ∈ w.stores, c.since < e.since ∨ ∀ l ∈ e.lanes, l.place.stash = false) := by
  refine ⟨⟨tileState none, 63, 62, 0x00000F8000000000, 0, 0, passes (by decide +kernel), okEq (by decide +kernel), by decide,
      by decide +kernel, List.isEmpty_iff.mp (by decide +kernel), by decide +kernel⟩, ?_,
    ⟨tileState none, 63, 62, 0x00000F8000000000, 0, passes (by decide +kernel), okEq (by decide +kernel), by decide⟩, ?_,
    ⟨{ tileState none with cmds := [{ tileCmd 0x52#7 with id := 5, writes := [(0, 1)] }] }, { tileCmd 0x53#7 with id := 9, writes := [(0, 1)] }, by decide +kernel⟩,
    ?_, ?_⟩
  · intro e
    exact ⟨tileState (some (if e then 0 else 2)), 1, 63, 62, 0x00000F8000000000, 0, lastTile (if e then 0 else 2), passes (by cases e <;> decide +kernel),
      okEq (by cases e <;> decide +kernel), by decide, by cases e <;> decide +kernel, by cases e <;> decide +kernel⟩
  · intro f hf k
    have p : ∀ f : BitVec 7, f = 0x52#7 ∨ f = 0x53#7 → ∀ k : Fin 3, let q := tileWaits f k
      fine (Form.check ⟨.no, copFields f (1#1 = 1#1) 63 62 0, 0⟩ q) = true ∧
      okAnd (copOperands f (1#1 = 1#1) 63 62 0 q.w) (fun q => q = (0x00000F8000000000, 0, 0)) = true ∧ tileOf q 0x00000F8000000000 = some (lastTile 2) ∧
      (if k = 0 then active q.w = 0#64 else active q.w ≠ 0#64 ∧
        if k = 1 then (ownTileFn q f).isSome = true else ownTileFn q f = none ∧ boardFull q q.w.core = false) := by decide +kernel
    obtain ⟨a, b, c, d⟩ := p f hf k
    generalize tileWaits f k = s at *
    refine ⟨s, 1, 63, 62, 0x00000F8000000000, 0, lastTile 2, passes a, okEq b, by decide, c, ?_⟩
    match k with
    | 0 => exact d
    | 1 => exact ⟨d.1, Option.isSome_iff_exists.mp d.2⟩
    | 2 => exact d
  · intro k
    match k with
    | 0 => exact ⟨tileState (some 2), newCmd base 0 0x53#7 true 63 0 0 0, 0x00000F8000000000, lastTile 2, by decide +kernel, by decide +kernel, by decide +kernel⟩
    | 1 => exact ⟨tileState (some 2), newCmd base 0 0x52#7 true 63 0 0 0, 0x00000F8000000000, lastTile 2, by decide +kernel, by decide +kernel, by decide +kernel⟩
    | 2 => exact ⟨tileState (some 0), newCmd base 0 0x52#7 true 63 0 0 0, 0x00000F8000000000, lastTile 0, by decide +kernel, by decide +kernel, by decide +kernel⟩
  · intro f hf
    have p : ∀ f : BitVec 7, f = 0x52#7 ∨ f = 0x53#7 → hubSealed (tiling f).hub = false ∧
      (tiling f).cmds.find? (fun c => c.id = 0 && c.started) = some (tileCmd f) ∧ (tileCmd f).issuer = .warp 0 ∧ (tileCmd f).stopping = false ∧
      (tileCmd f).func = f ∧ ∀ w ∈ warpOf (tiling f) 0, w.stores.isEmpty = true := by decide +kernel
    generalize hs : tiling f = s at *
    obtain ⟨h₁, h₂, h₃, h₄, h₅, h₆⟩ := p f hf
    rw [hs] at h₁ h₂ h₆
    refine ⟨s, 0, 0, tileCmd f, h₁, h₂, h₃, h₄, h₅, fun w h e he => ?_⟩
    simp [List.isEmpty_iff.mp (h₆ w h)] at he

/-- A pending load of two lanes, the second one parked on the place `p`; a stash store in the queue. -/
def stashOne : Place := stashPlace 0 0 0 0
def wosOne : Place := { stash := false, off := 0, pa := 0x10000, va := 0x10000, attr := aWos, key := 0 }
def loadOf (p : Place) : PendLoad :=
  { kind := .vec 231 4 false, jobs := [⟨0, .value 1⟩, ⟨63, .parked p⟩], regs := [231], flag := some 11, pc := 0, since := 0, acquire := false, rel := none, hreg := 15 }
def loaded (attr : BitVec 2) (p : Place) : State := { mapped attr with w := { (mapped attr).w with wid := 1, loads := [loadOf p] } }
def stored (p : Place) : StoreEntry :=
  { kind := .store, lanes := [⟨63, p, 4, 5⟩], flag := some 0, pc := 0, hreg := 15, sc := false, rel := none, since := 0, active := 0 }
def storer (attr : BitVec 2) (p : Place) : State := { mapped attr with w := { (mapped attr).w with wid := 1, stores := [stored p] } }

/-- A load with one lane in the stash and one on an unpublished line; a store held by an earlier atomic. -/
def loadTwo : PendLoad := { loadOf wosOne with jobs := [⟨0, .parked stashOne⟩, ⟨63, .parked wosOne⟩] }
def loadedTwo : State := { mapped aWos with w := { (mapped aWos).w with wid := 1, loads := [loadTwo] } }
def held : State := { storer aRc stashOne with w := { (storer aRc stashOne).w with
  loads := [{ loadOf stashOne with jobs := [⟨0, .atom ⟨stashOne, 0, 0, 4, 0, 0⟩⟩], since := 0 }], stores := [{ stored stashOne with since := 1 }] } }

theorem witness_AccessEventResult :
    (∀ n : Fin 3, ∃ (s a t : State) (k : Nat) (p q : PendLoad) (is js : List LaneJob), AtCore s s.w.wid ∧ s.w.loads[k]? = some p ∧
      (if atomReady s p then performStep p.jobs s else (s, p.jobs)) = (a, is) ∧
      readParked p.kind.size is a = (t, js) ∧ q = { p with jobs := js } ∧
      (if n = 0 then q.waits = false ∧ awayBlocks (refillBlocks (awayBlocks t.w q.regs) t).w q.regs = 0#29 else q.waits = true ∧ (n = 1 ↔ q ≠ p))) ∧
    (∀ n : Fin 3, ∃ (s t : State) (e : StoreEntry) (rest : List StoreEntry) (fs : List LaneFault), AtCore s s.w.wid ∧ s.w.stores = e :: rest ∧
      (if n = 0 then entryReady s e = false else entryReady s e = true ∧
        performLanes e.kind e.lanes { s with w := { s.w with stores := rest } } = (t, fs) ∧ (n = 1 ↔ fs = []))) ∧
    (∀ st : Bool, ∃ s : State, AtWarp s s.w.wid ∧ s.w.status = if st then .done else .halted) ∧
    (∀ n : Fin 4, ∃ s : State, AtWarp s s.w.wid ∧ s.w.status ≠ .done ∧ s.w.status ≠ .halted ∧ (if n = 0 then s.w.rap = true else s.w.rap = false ∧
      if n = 1 then s.w.late.length < 8 ∧ s.w.summary = false
      else ∃ (q : BitVec 512) (late : List (BitVec 512)), s.w.late = late ++ [q] ∧ late.length = 7 ∧ s.w.summary = decide (n = 3))) ∧
    (∃ (s : State) (k : Nat) (p : PendLoad), AtCore s s.w.wid ∧ s.w.loads[k]? = some p ∧ p.parked = true ∧ wosExpired s p.since = true) ∧
    (∃ (s : State) (wid : Nat), warpOf s wid = none) := by
  refine ⟨?_, ?_, fun st => ⟨at_ fun w => { w with status := if st then .done else .halted }, ⟨rfl, by cases st <;> decide +kernel⟩, rfl⟩, ?_,
    ⟨loaded aWos wosOne, 0, loadOf wosOne, ⟨⟨rfl, by decide +kernel⟩, rfl⟩, rfl, by decide +kernel, by decide +kernel⟩, ⟨base, 1, by decide +kernel⟩⟩
  · intro n
    match n with
    | 0 => exact ⟨loaded aRc stashOne, _, _, 0, loadOf stashOne, _, _, _, ⟨⟨rfl, by decide +kernel⟩, rfl⟩, rfl, rfl, rfl, rfl,
        by decide +kernel, by decide +kernel⟩
    | 1 => exact ⟨loadedTwo, _, _, 0, loadTwo, _, _, _, ⟨⟨rfl, by decide +kernel⟩, rfl⟩, rfl, rfl, rfl, rfl, by decide +kernel⟩
    | 2 => exact ⟨loaded aWos wosOne, _, _, 0, loadOf wosOne, _, _, _, ⟨⟨rfl, by decide +kernel⟩, rfl⟩, rfl, rfl, rfl, rfl, by decide +kernel⟩
  · intro n
    match n with
    | 0 => exact ⟨held, held, { stored stashOne with since := 1 }, [], [], ⟨⟨rfl, by decide +kernel⟩, rfl⟩, rfl, by decide +kernel⟩
    | 1 => exact ⟨storer aRc stashOne, _, stored stashOne, [], _, ⟨⟨rfl, by decide +kernel⟩, rfl⟩, rfl, by decide +kernel, rfl, by decide +kernel⟩
    | 2 => exact ⟨storer aRc wosOne, _, stored wosOne, [], _, ⟨⟨rfl, by decide +kernel⟩, rfl⟩, rfl, by decide +kernel, rfl, by decide +kernel⟩
  · intro n
    match n with
    | 0 => exact ⟨ahead, ⟨rfl, by decide +kernel⟩, by decide +kernel, by decide +kernel, rfl⟩
    | 1 => exact ⟨at_ fun w => { w with late := List.replicate 7 0 }, ⟨rfl, by decide +kernel⟩, by decide +kernel, by decide +kernel, rfl, by decide +kernel, rfl⟩
    | 2 => exact ⟨at_ fun w => { w with late := List.replicate 7 0 ++ [0] }, ⟨rfl, by decide +kernel⟩, by decide +kernel, by decide +kernel, rfl, 0,
        List.replicate 7 0, rfl, rfl, rfl⟩
    | 3 => exact ⟨at_ fun w => { w with late := List.replicate 7 0 ++ [0], summary := true }, ⟨rfl, by decide +kernel⟩, by decide +kernel, by decide +kernel, rfl, 0,
        List.replicate 7 0, rfl, rfl, rfl⟩

/-- A warp whose context has a handler, at a boundary, with 255 entries on its stack. -/
def boundary (f : Warp → Warp) : State :=
  let s := handled (deep base)
  { s with w := f { s.w with stack := below :: s.w.stack, wid := 1 }, clk := 16 }

theorem witness_BoundaryEventResult : (∃ s : State, AtWarp s s.w.wid ∧ inHandler s.w = true) ∧ ∀ k : Fin 3, ∃ s : State, AtWarp s s.w.wid ∧ atBoundary s.w = true ∧ inHandler s.w = false ∧ s.w.rap = false ∧
    s.x.trapva ≠ 0#80 ∧ s.w.stack.length < 256 ∧
    (match k with
      | 0 => ∃ r rest, s.w.late = r :: rest
      | 1 => s.w.late = [] ∧ s.w.cycdl ≠ 0#64 ∧ s.w.cycdl ≤ s.w.cyc
      | 2 => s.w.late = [] ∧ ¬(s.w.cycdl ≠ 0#64 ∧ s.w.cycdl ≤ s.w.cyc) ∧ s.w.walldl ≠ 0#64 ∧ s.w.walldl.toNat ≤ wall s) := by
  refine ⟨⟨pushed .trap, ⟨rfl, by decide +kernel⟩, by decide +kernel⟩, fun k => ?_⟩
  match k with
  | 0 => exact ⟨boundary fun w => { w with late := [1] }, ⟨rfl, by decide +kernel⟩, rfl, by decide +kernel, rfl, by decide +kernel, by decide +kernel, 1, [], rfl⟩
  | 1 => exact ⟨boundary fun w => { w with cycdl := 5, cyc := 5 }, ⟨rfl, by decide +kernel⟩, rfl, by decide +kernel, rfl, by decide +kernel, by decide +kernel, rfl,
      by decide +kernel, by decide +kernel⟩
  | 2 => exact ⟨boundary fun w => { w with walldl := 10, cycdl := 6, cyc := 5 }, ⟨rfl, by decide +kernel⟩, rfl, by decide +kernel, rfl, by decide +kernel, by decide +kernel, rfl,
      by decide +kernel, by decide +kernel, by decide +kernel⟩

/-- A block 1 of context 0 whose two warps wait in parks of R391 since clock 0. -/
def stuck (p q : Park) : State :=
  let b := { Block.empty with bid := 1, stuckSince := some 0 }
  { base with
    w := { base.w with wid := 1, bid := 1, status := .parked p }, b := b
    warps := [{ base.w with wid := 2, bid := 1, widx := 1, status := .parked q }], x := { Ctx.empty with rclk := 10 ^ 12 }, ctxs := [] }

/-- The last core in a state. -/
def coreClaims (c : CoreState) : State := { base with cores := base.cores.set 159 c }

theorem witness_WatchEventResult :
    (∃ s : State, s.w.status = .parked .sleep ∧ s.w.since ≤ s.w.cyc.toNat ∧ ∀ v ∈ s.warps, v.wid ≠ s.w.wid) ∧
    (∃ (s : State) (core : BitVec 8), (coreAt s core.toNat).claims = []) ∧
    (∃ (s : State) (core : BitVec 8) (q : Claim) (rest : List Claim), (coreAt s core.toNat).claims = q :: rest ∧
      poolFree (coreAt s core.toNat) < popNat 29 q.blocks.toNat) ∧
    (∃ (s : State) (core : BitVec 8) (q : Claim) (rest : List Claim), core.toNat < 160 ∧ (coreAt s core.toNat).claims = q :: rest ∧
      popNat 29 q.blocks.toNat ≤ poolFree (coreAt s core.toNat) ∧ q.wid = s.w.wid ∧ (∀ v ∈ s.warps, v.wid ≠ s.w.wid) ∧
      popNat 29 q.blocks.toNat ≤ (coreAt s core.toNat).free) ∧
    ((∃ (s : State) (bid : Nat) (b : Block), blockOf s bid = some b ∧ deadlockDue s b = true) ∧
      ∃ (s : State) (bid : Nat) (b : Block), blockOf s bid = some b ∧ deadlockDue s b = false) ∧
    (∃ (s : State) (bid : Nat), ∃ w ∈ blockWarps s bid, w.rap = false ∧ stuckOn w = some 0x02) ∧
    (∃ (s : State) (bid : Nat), (∀ w ∈ blockWarps s bid, w.rap = false → stuckOn w ≠ some 0x02) ∧ ∃ w ∈ blockWarps s bid, stuckOn w = some 0x03) ∧
    (∃ (s : State) (bid : Nat), blockWarps s bid ≠ [] ∧ ∀ w ∈ blockWarps s bid, (w.rap = false → stuckOn w ≠ some 0x02) ∧ stuckOn w ≠ some 0x03) := by
  have all : ∀ (s : State) (f : Warp → Bool), (blockWarps s 1).all f = true → ∀ w ∈ blockWarps s 1, f w = true := fun s f h w hw => List.all_eq_true.mp h w hw
  refine ⟨⟨at_ fun w => { w with status := .parked .sleep, since := 64, cyc := 64 }, rfl, by decide +kernel, by decide +kernel⟩,
    ⟨base, 0, by decide +kernel⟩,
    ⟨coreClaims { CoreState.reset with free := 28, claims := [{ wid := 0, blocks := 0x1FFFFFFF, age := 0 }] }, 159,
      { wid := 0, blocks := 0x1FFFFFFF, age := 0 }, [], by decide +kernel, by decide +kernel⟩,
    ⟨coreClaims { CoreState.reset with claims := [{ wid := 0, blocks := 0x1FFFFFFF, age := 0 }] }, 159,
      { wid := 0, blocks := 0x1FFFFFFF, age := 0 }, [], by decide, by decide +kernel, by decide +kernel, by decide +kernel, by decide +kernel, by decide +kernel⟩,
    ⟨⟨stuck (.barrier 0 false) .accg, 1, _, rfl, by decide +kernel⟩, ⟨{ stuck .accg .accg with b := { Block.empty with bid := 1 } }, 1, _, rfl, by decide +kernel⟩⟩,
    ⟨stuck (.claim 1) (.queue 0), 1, (stuck (.claim 1) (.queue 0)).w, .head _, rfl, rfl⟩,
    ⟨stuck .accg (.queue 7), 1, ?_, _, .tail _ (.head _), rfl⟩,
    ⟨stuck .accg .reord, 1, nofun, ?_⟩⟩
  · intro w hw
    have := all (stuck .accg (.queue 7)) (fun w => stuckOn w ≠ some 0x02) (by decide +kernel) w hw
    exact fun _ => of_decide_eq_true this
  · intro w hw
    have := all (stuck .accg .reord) (fun w => stuckOn w ≠ some 0x02 && stuckOn w ≠ some 0x03) (by decide +kernel) w hw
    rw [Bool.and_eq_true] at this
    exact ⟨fun _ => of_decide_eq_true this.1, of_decide_eq_true this.2⟩
/-- Tables that map the VAs from 0 on in one large page of 256 MiB at PA 0x10000000 and the VA 0x10000000 in a page of 64 KiB at PA 0x40000
(R47, R48). -/
def tables : List (Nat × Byte) :=
  let put := fun cs (pa : Nat) (e : Nat) => cellPut cs pa (bytesOfNat 16 e)
  put (put (put (put (put [] 0x100000 (2 ^ 92 + 0x200000)) 0x200000 (2 ^ 92 + 0x210000)) 0x210000 (2 ^ 92 + 0x220000))
    0x220000 (2 ^ 96 * 15 + 2 ^ 93 + 2 ^ 92 + 0x10000000)) 0x220010 (2 ^ 92 + 0x230000)
/-- The two leaves. -/
def largeLeaf : Leaf := { entry := BitVec.ofNat 128 (2 ^ 96 * 15 + 2 ^ 93 + 2 ^ 92 + 0x10000000), log := 28, pte := 0x220000 }
def smallLeaf : Leaf := { entry := BitVec.ofNat 128 (2 ^ 96 * 15 + 2 ^ 92 + 0x40000), log := 16, pte := 0x230000 }
/-- A request of the XLATE registers in context 0 (R57). -/
def asking (op va pages arg : Nat) : State :=
  { base with
    m := { base.m with
      cells := cellPut tables 0x230000 (bytesOfNat 16 (2 ^ 96 * 15 + 2 ^ 92 + 0x40000))
      tlb := [{ ctx := 0, base := 0x10000000, log := 16, pte := 0x230000, entry := smallLeaf.entry }] }
    x := { Ctx.empty with desc := BitVec.ofNat _ (2 ^ 44) }
    hub := { base.hub with
      xva0 := BitVec.ofNat 64 va, xcnt := BitVec.ofNat 64 pages, xarg := BitVec.ofNat 64 arg, xctl := BitVec.ofNat 32 (2 ^ 31 + 2 ^ 16 * op) } }
/-- The same once it has acted, with an outcome; in a context on its cores with a store in its range. -/
def answered (ec : BitVec 4) (busy : Bool) : State :=
  let s := asking 0 0x10000000 1 0
  { s with hub := { s.hub with xdone := some ec, xspans := [(0x10000000, 0x10000)] }
           x := { s.x with resident := true }
           w := if busy then { s.w with
               stores := [{ kind := .store, lanes := [⟨0, { stash := false, off := 0, pa := 0x40000, va := 0x10000000#80, attr := 0#2, key := 0#7 }, 4, 0⟩], flag := none, pc := 0,
                            hreg := 0, sc := false, rel := none, since := 0, active := 0 }] } else s.w }

theorem walk_leaf {m : Mem} {ctx : BitVec 16} {va level table : Nat} {rest : List Nat} {e : BitVec 128} {pte : Nat} (hw : m.walks = [])
    (hp : pteAt table va level = pte) (he : pteRead m pte = e) (hv : (pteV e && pteLeaf e level && !pteSPL e) = true)
    (hm : pteMalformed m.splinters e level pte = false) : walk m ctx va (level :: rest) table = .leaf ⟨e, levelShift level, pte⟩ := by
  simp only [Bool.and_eq_true, Bool.not_eq_true'] at hv
  simp [walk, walkFind, hw, hp, he, hv, hm]

theorem walk_table {m : Mem} {ctx : BitVec 16} {va level table : Nat} {rest : List Nat} {e : BitVec 128} {pte : Nat} (hw : m.walks = [])
    (hp : pteAt table va level = pte) (he : pteRead m pte = e) (hv : (pteV e && !pteLeaf e level) = true)
    (hm : pteMalformed m.splinters e level pte = false) : walk m ctx va (level :: rest) table = walk m ctx va rest (pteFrame e) := by
  simp only [Bool.and_eq_true, Bool.not_eq_true'] at hv
  simp [walk, walkFind, hw, hp, he, hv, hm]

/-- A device leaf below the greatest reservation (R51). -/
theorem leaf_good {sp : List Nat} {e : BitVec 128} {level pte : Nat} (h : pteFrame e + 2 ^ levelShift level ≤ 0x18000000000)
    (k : (pteLeaf e level && !(bitsNat e 110 18 ≠ 0 || bitsNat e 52 40 ≠ 0 || bitsNat e 0 16 ≠ 0) &&
      !(pteLG e && (level = 0 || level = 1 || level = 4)) && level ≠ 2 && !(level = 3 && bitsNat e 16 12 ≠ 0) && inDevice (pteFrame e) &&
      !pteSPL e) = true) : pteMalformed sp e level pte = false := by
  have := reservedFrom_ge
  have : coversReserved (pteFrame e) (2 ^ levelShift level) = false := by
    unfold coversReserved
    rw [Bool.and_eq_false_iff]
    exact .inr (decide_eq_false (by omega))
  simp only [Bool.and_eq_true, Bool.not_eq_true', decide_eq_true_eq] at k
  obtain ⟨⟨⟨⟨⟨⟨a, b⟩, c⟩, d⟩, f⟩, g⟩, i⟩ := k
  rw [Bool.or_eq_false_iff, Bool.or_eq_false_iff] at b
  simp_all [pteMalformed]

/-- The context of the requests and its memory. -/
def mine : Ctx := (asking 0 0 0 0).x
def mapMem : Mem := (asking 0 0 0 0).m

theorem root : ctxRoot mine = 0x100000 := by decide +kernel

theorem pteAt_first {table va level : Nat} (h : va / 2 ^ levelShift level % 2 ^ levelBits level = 0) : pteAt table va level = table := by
  simp [pteAt, h]

theorem index_zero {va s : Nat} (b : Nat) (h : va < 2 ^ s) : va / 2 ^ s % 2 ^ b = 0 := by rw [Nat.div_eq_of_lt h, Nat.zero_mod]

theorem leafAt_large (va : Nat) (h : va < 2 ^ 28) : leafAt mapMem mine va = some largeLeaf := by
  unfold leafAt walkAfresh
  rw [root, walk_table (e := BitVec.ofNat 128 (2 ^ 92 + 0x200000)) (pte := 0x100000) rfl
    (pteAt_first (index_zero _ (Nat.lt_of_lt_of_le h (by decide +kernel)))) (by decide +kernel) (by decide +kernel) (by decide +kernel),
    show pteFrame (BitVec.ofNat 128 (2 ^ 92 + 0x200000)) = 0x200000 by decide +kernel,
    walk_table (e := BitVec.ofNat 128 (2 ^ 92 + 0x210000)) (pte := 0x200000) rfl
    (pteAt_first (index_zero _ (Nat.lt_of_lt_of_le h (by decide +kernel)))) (by decide +kernel) (by decide +kernel) (by decide +kernel),
    show pteFrame (BitVec.ofNat 128 (2 ^ 92 + 0x210000)) = 0x210000 by decide +kernel,
    walk_table (e := BitVec.ofNat 128 (2 ^ 92 + 0x220000)) (pte := 0x210000) rfl
    (pteAt_first (index_zero _ (Nat.lt_of_lt_of_le h (by decide +kernel)))) (by decide +kernel) (by decide +kernel) (by decide +kernel),
    show pteFrame (BitVec.ofNat 128 (2 ^ 92 + 0x220000)) = 0x220000 by decide +kernel,
    walk_leaf (e := largeLeaf.entry) (pte := 0x220000) rfl
    (pteAt_first (index_zero _ (Nat.lt_of_lt_of_le h (by decide +kernel)))) (by decide +kernel) (by decide +kernel)
    (leaf_good (by decide +kernel) (by decide +kernel))]
  rfl

theorem leafAt_of (va : Nat) (h : va = 0x10000000) : leafAt mapMem mine va = some smallLeaf := by
  unfold leafAt walkAfresh
  rw [root, walk_table (e := BitVec.ofNat 128 (2 ^ 92 + 0x200000)) (pte := 0x100000) rfl (by rw [h]; decide +kernel) (by decide +kernel) (by decide +kernel)
    (by decide +kernel), show pteFrame (BitVec.ofNat 128 (2 ^ 92 + 0x200000)) = 0x200000 by decide +kernel,
    walk_table (e := BitVec.ofNat 128 (2 ^ 92 + 0x210000)) (pte := 0x200000) rfl (by rw [h]; decide +kernel) (by decide +kernel) (by decide +kernel)
    (by decide +kernel), show pteFrame (BitVec.ofNat 128 (2 ^ 92 + 0x210000)) = 0x210000 by decide +kernel,
    walk_table (e := BitVec.ofNat 128 (2 ^ 92 + 0x220000)) (pte := 0x210000) rfl (by rw [h]; decide +kernel) (by decide +kernel) (by decide +kernel)
    (by decide +kernel), show pteFrame (BitVec.ofNat 128 (2 ^ 92 + 0x220000)) = 0x220000 by decide +kernel,
    walk_table (e := BitVec.ofNat 128 (2 ^ 92 + 0x230000)) (pte := 0x220010) rfl (by rw [h]; decide +kernel) (by decide +kernel) (by decide +kernel)
    (by decide +kernel), show pteFrame (BitVec.ofNat 128 (2 ^ 92 + 0x230000)) = 0x230000 by decide +kernel,
    walk_leaf (e := smallLeaf.entry) (pte := 0x230000) rfl (by rw [h]; decide +kernel) (by decide +kernel) (by decide +kernel)
    (leaf_good (by decide +kernel) (by decide +kernel))]
  rfl

theorem leafAt_small : leafAt mapMem mine 0x10000000 = some smallLeaf := leafAt_of _ rfl

theorem leavesOf_one {m : Mem} {x : Ctx} {hi va n : Nat} {l : Leaf} (h : leafAt m x va = some l) (lo : ¬hi ≤ va)
    (up : hi ≤ pageBase va l.log + 2 ^ l.log) : leavesOf m x hi (n + 1) va = some [(va, l)] := by
  cases n <;> simp [leavesOf, h, lo, up]

theorem splintersOf_two {m : Mem} {x : Ctx} {lo hi : Nat} {k l : Leaf} {ps : List (Nat × Nat)} (h₁ : leafAt m x lo = some k)
    (h₂ : leafAt m x (hi - 65536) = some l) (p : (partsOf k.log lo lo hi ++ partsOf l.log (hi - 65536) lo hi).eraseDups = ps) :
    splintersOf m x lo hi = ps := by
  simp [splintersOf, h₁, h₂, p]

/-- One page of the large leaf; the small leaf. -/
theorem one_large (arg op : Nat) : leavesOf (asking op 0 1 arg).m mine 65536 1 0 = some [(0, largeLeaf)] ∧
    splintersOf (asking op 0 1 arg).m mine 0 65536 = [(0, 28)] :=
  ⟨leavesOf_one (n := 0) (leafAt_large 0 (by decide)) (by decide) (by decide +kernel),
   splintersOf_two (leafAt_large 0 (by decide)) (leafAt_large 0 (by decide)) (by decide +kernel)⟩

theorem one_small (arg op : Nat) : leavesOf (asking op 0x10000000 1 arg).m mine 0x10010000 1 0x10000000 = some [(0x10000000, smallLeaf)] ∧
    splintersOf (asking op 0x10000000 1 arg).m mine 0x10000000 0x10010000 = [] :=
  ⟨leavesOf_one (n := 0) leafAt_small (by decide) (by decide +kernel), splintersOf_two leafAt_small leafAt_small (by decide +kernel)⟩

/-- What a request of one page reads of the registers. -/
theorem asked : ∀ (op : Fin 5) (arg : Fin 3) (big : Bool),
    let s := asking op (if big then 0 else 0x10000000) 1 (if arg = 0 then 0 else if arg = 1 then 0x50000 else 0xFFFFFFFFF0000)
    xRuns s op = true ∧ xRangeBad s = false ∧ xPages s = 1 ∧ xVa s = (if big then 0 else 0x10000000) ∧ xEndVa s = (if big then 65536 else 0x10010000) ∧
      pagesStall s.m mine (xVa s) (xPages s) = false ∧ xFrame s = (if arg = 0 then 0 else if arg = 1 then 0x50000 else 0xFFFFFFFFF0000) ∧
      s.m = mapMem ∧ s.cmds = [] ∧ s.fab.parked = [] ∧ ctxOf s (xCtx s) = some mine := by
  intro op arg big
  have h : ∀ (op : Fin 5) (arg : Fin 3) (big : Bool),
    let s := asking op (if big then 0 else 0x10000000) 1 (if arg = 0 then 0 else if arg = 1 then 0x50000 else 0xFFFFFFFFF0000)
    xRuns s op = true ∧ xRangeBad s = false ∧ xPages s = 1 ∧ xVa s = (if big then 0 else 0x10000000) ∧ xEndVa s = (if big then 65536 else 0x10010000) ∧
      pagesStall s.m mine (xVa s) (xPages s) = false ∧ xFrame s = (if arg = 0 then 0 else if arg = 1 then 0x50000 else 0xFFFFFFFFF0000) ∧
      s.cmds = [] ∧ s.fab.parked = [] ∧ ctxOf s (xCtx s) = some mine := by decide +kernel
  obtain ⟨a, b, c, d, e, f, g, i, j, k⟩ := h op arg big
  exact ⟨a, b, c, d, e, f, g, rfl, i, j, k⟩

theorem witness_TranslationRequestResult :
    (∃ s : State, xRuns s 0 = true ∧ xRangeBad s = false ∧ s.w.ctx = xCtx s) ∧
    (∃ s : State, (∀ e ∈ s.m.tlb, e.base < 2 ^ 80) ∧ s.m.tlb ≠ [] ∧ xRuns s 1 = true) ∧
    (∀ op : Fin 5, op ≠ 1 → ∀ pages : Fin 2, ∃ s : State, xRangeBad s = true ∧ xPages s = pages ∧ xRuns s op = true) ∧
    (∃ (s : State) (x : Ctx), xRuns s 2 = true ∧ xRangeBad s = false ∧ ctxOf s (xCtx s) = some x ∧ pagesStall s.m x (xVa s) (xPages s) = false ∧
      leavesOf s.m x (xEndVa s) (xPages s) (xVa s) = none) ∧
    (∀ k : Fin 3, ∃ (s : State) (x : Ctx) (va : Nat) (l : Leaf) (ls : List (Nat × Leaf)), xRuns s 2 = true ∧ xRangeBad s = false ∧
      ctxOf s (xCtx s) = some x ∧ pagesStall s.m x (xVa s) (xPages s) = false ∧ leavesOf s.m x (xEndVa s) (xPages s) (xVa s) = some ((va, l) :: ls) ∧
      (if k = 0 then l.log = 16 else l.log ≠ 16 ∧ tableFrame (xFrame s) = decide (k = 2))) ∧
    (∀ perm : Bool, ∃ (s : State) (x : Ctx) (ls : List (Nat × Leaf)), xRangeBad s = false ∧ ctxOf s (xCtx s) = some x ∧
      pagesStall s.m x (xVa s) (xPages s) = false ∧ leavesOf s.m x (xEndVa s) (xPages s) (xVa s) = some ls ∧ splintersOf s.m x (xVa s) (xEndVa s) = [] ∧
      (if perm then xRuns s 4 = true
        else xRuns s 3 = true ∧ (∀ p ∈ ls, offDevice (pteFrame p.2.entry) = false) ∧ s.cmds = [] ∧ s.fab.parked = [])) ∧
    (∀ (perm : Bool) (k : Fin 3), ∃ (s : State) (x : Ctx) (ls : List (Nat × Leaf)) (va log : Nat) (l : Leaf) (more : List (Nat × Nat)),
      xRangeBad s = false ∧ ctxOf s (xCtx s) = some x ∧ pagesStall s.m x (xVa s) (xPages s) = false ∧
      leavesOf s.m x (xEndVa s) (xPages s) (xVa s) = some ls ∧ splintersOf s.m x (xVa s) (xEndVa s) = (va, log) :: more ∧
      (if perm then xRuns s 4 = true else xRuns s 3 = true ∧ ∀ p ∈ ls, offDevice (pteFrame p.2.entry) = false) ∧
      (if k = 0 then xFrame s = 0 else xFrame s ≠ 0 ∧
        if k = 2 then ∃ k, k < more.length + 1 ∧ tableFrame (xFrame s + 65536 * k) = false
        else (∀ k, k < more.length + 1 → tableFrame (xFrame s + 65536 * k) = true) ∧ leafAt s.m x va = some l ∧ l.log = log)) ∧
    (∀ same : Bool, ∃ (s : State) (k : Splinter), xGo s = true ∧ s.hub.xsplit = some k ∧ (same = true ↔ pteRead s.m k.pte = k.entry) ∧ xOp s = 2) ∧
    (∀ (ec : BitVec 4) (busy : Bool), ∃ s : State, xGo s = true ∧ s.hub.xsplit = none ∧ s.hub.xdone = some ec ∧
      anyInFlight s (xCtx s) s.hub.xspans = busy ∧ xOp s ≠ 3) := by
  have run : ∀ op : Fin 5, op ≠ 1 → ∀ pages : Fin 2,
      (xRangeBad (asking op 1 pages 0) && xPages (asking op 1 pages 0) = pages && xRuns (asking op 1 pages 0) op) = true := by
    decide +kernel
  have dev : ∀ l, l = largeLeaf ∨ l = smallLeaf → offDevice (pteFrame l.entry) = false := by
    rintro l (rfl | rfl) <;> decide +kernel
  refine ⟨⟨asking 0 0x10000000 1 0, by decide +kernel, by decide +kernel, by decide +kernel⟩,
    ⟨asking 1 0 0 0, by decide +kernel, by decide, by decide +kernel⟩,
    fun op h pages => ⟨asking op 1 pages 0, by have := run op h pages; simpa [and_assoc] using this⟩,
    ⟨asking 2 0x20000000 1 0, mine, by decide +kernel, by decide +kernel, by decide +kernel, by decide +kernel, by decide +kernel⟩,
    fun k => ?_, fun perm => ?_, fun perm k => ?_, fun same => ?_, fun ec busy => ?_⟩
  · match k with
    | 0 =>
      obtain ⟨a, b, c, d, e, f, g, _, _, _, j⟩ := asked 2 0 false
      exact ⟨_, mine, 0x10000000, smallLeaf, [], a, b, j, f, by rw [c, d, e]; exact (one_small 0 2).1, by decide⟩
    | 1 =>
      obtain ⟨a, b, c, d, e, f, g, _, _, _, j⟩ := asked 2 2 true
      exact ⟨_, mine, 0, largeLeaf, [], a, b, j, f, by rw [c, d, e]; exact (one_large 0xFFFFFFFFF0000 2).1, by decide, by rw [g]; decide +kernel⟩
    | 2 =>
      obtain ⟨a, b, c, d, e, f, g, _, _, _, j⟩ := asked 2 1 true
      exact ⟨_, mine, 0, largeLeaf, [], a, b, j, f, by rw [c, d, e]; exact (one_large 0x50000 2).1, by decide, by rw [g]; decide +kernel⟩
  · cases perm
    · obtain ⟨a, b, c, d, e, f, g, _, h, i, j⟩ := asked 3 0 false
      exact ⟨_, mine, [(0x10000000, smallLeaf)], b, j, f, by rw [c, d, e]; exact (one_small 0 3).1, by rw [d, e]; exact (one_small 0 3).2, a,
        fun p hp => by rw [List.mem_singleton.mp hp]; exact dev _ (.inr rfl), h, i⟩
    · obtain ⟨a, b, c, d, e, f, g, _, h, i, j⟩ := asked 4 0 false
      exact ⟨_, mine, [(0x10000000, smallLeaf)], b, j, f, by rw [c, d, e]; exact (one_small 0 4).1, by rw [d, e]; exact (one_small 0 4).2, a⟩
  · obtain ⟨a, b, c, d, e, f, g, m, h, i, j⟩ := asked (if perm then 4 else 3) k true
    refine ⟨_, mine, [(0, largeLeaf)], 0, 28, largeLeaf, [], b, j, f, by rw [c, d, e]; exact (one_large _ _).1,
      by rw [d, e]; exact (one_large _ _).2, ?_, ?_⟩
    · cases perm
      · exact ⟨a, fun p hp => by rw [List.mem_singleton.mp hp]; exact dev _ (.inl rfl)⟩
      · exact a
    · rw [g, m]
      generalize asking _ _ _ _ = s at *
      match k with
      | 0 => rfl
      | 1 =>
        refine ⟨by decide, fun k hk => ?_, leafAt_large 0 (by decide), rfl⟩
        obtain rfl : k = 0 := by simpa using hk
        decide +kernel
      | 2 => exact ⟨by decide, 0, by decide, by decide +kernel⟩
  · let k : Splinter := ⟨0x220000, if same then largeLeaf.entry else 0, 28, 0, 0x50000⟩
    exact ⟨{ asking 2 0 1 0x50000 with hub := { (asking 2 0 1 0x50000).hub with xsplit := some k } }, k, by cases same <;> decide +kernel,
      rfl, by cases same <;> decide +kernel, by cases same <;> decide +kernel⟩
  · have h : ∀ busy, xGo (answered 0 busy) = true ∧ anyInFlight (answered 0 busy) 0#16 [(0x10000000, 0x10000)] = busy ∧ xOp (answered 0 busy) ≠ 3 ∧
        xCtx (answered 0 busy) = 0#16 := by decide +kernel
    obtain ⟨a, b, c, d⟩ := h busy
    exact ⟨answered ec busy, a, rfl, rfl, (congrArg (anyInFlight (answered ec busy) · _) d).trans b, c⟩

/-- A queue entry of the smallest ring at VA 0x11000, with TAIL at 0x10008 and HEAD at 0x10000, no completion ring (R208). -/
def entryQ : BitVec 512 := BitVec.ofNat 512 (0x11000 + 2 ^ 128 * 0x10008 + 2 ^ 256 * 0x10000)
/-- The queue of that entry. -/
def queueOf (n : BitVec 10) : SubQueue := { num := n, desc := entryQ, head := 0, tail := 0 }
/-- A request of QCTL for queue 1 while queue 0 of the same context is enabled; queue 1's entry has a SIZE (R207). -/
def queueing (op size : Nat) : State :=
  { mapped aRc with
    m := { (mapped aRc).m with cells := cellPut [] 64 (bytesOfNat 64 (entryQ.toNat + 2 ^ 96 * size)) }
    hub := { base.hub with qctl := BitVec.ofNat _ (2 ^ 31 + 2 ^ 16 * op + 1), queues := [queueOf 0] } }
/-- The same with nothing mapped, and with an uncorrectable error in the line of HEAD and TAIL (R177). -/
def unmapped : State := { queueing 1 0 with m := { (queueing 1 0).m with tlb := [] } }
def struck : State := { queueing 1 0 with m := { (queueing 1 0).m with bad := [lineOf 0x10000] } }
/-- A request of CTXCTL for a context. -/
def controlling (op ctx : Nat) (stopped : List (BitVec 16)) : State :=
  { base with hub := { base.hub with ctxctl := BitVec.ofNat _ (2 ^ 31 + 2 ^ 16 * op + ctx), stopped := stopped } }

theorem witness_QueueRequestResult :
    (∃ s t : State, qctlRuns s 1 = true ∧ enableQueue s (qctlQueue s) = .ok t) ∧
    (∃ s : State, qctlRuns s 1 = true ∧ enableQueue s (qctlQueue s) = .error true ∧
      queueBad (BitVec.ofNat 512 (hubTable s (bitsNat s.hub.qtbase 16 36 * 2 ^ 16 + 64 * (qctlQueue s).toNat) 64).2) = true) ∧
    (∃ s : State, qctlRuns s 1 = true ∧ enableQueue s (qctlQueue s) = .error false) ∧
    (∃ s : State, qctlRuns s 0 = true ∧ ∃ q ∈ s.hub.queues, q.num = qctlQueue s) ∧
    (∀ held : Bool, ∃ s : State, ctxctlRuns s 0 = true ∧ (ctxctlCtx s ∈ s.hub.stopped ↔ held = true)) ∧
    (∃ s : State, ctxctlRuns s 1 = true ∧ ctxctlCtx s ∈ s.hub.stopped ∧ ctxctlCtx s = 0xFFFF#16) ∧
    (∃ s : State, ctxctlRuns s 2 = true ∧ ctxctlCtx s = 0xFFFF#16) ∧
    (∃ (s t : State) (n : BitVec 10) (q : SubQueue) (v : Nat), s.hub.queues.find? (fun q => q.num = n) = some q ∧
      hubFetch s (ctxFor s (qCtx q.desc)) (qTailVa q.desc) 8 = .ok (t, v)) ∧
    (∃ (s : State) (n : BitVec 10) (q : SubQueue) (f : TrapInfo), s.hub.queues.find? (fun q => q.num = n) = some q ∧
      hubFetch s (ctxFor s (qCtx q.desc)) (qTailVa q.desc) 8 = .error (some f)) ∧
    (∃ (s : State) (n : BitVec 10) (q : SubQueue), s.hub.queues.find? (fun q => q.num = n) = some q ∧
      hubFetch s (ctxFor s (qCtx q.desc)) (qTailVa q.desc) 8 = .error none) := by
  obtain ⟨t, g⟩ := okSome (r := enableQueue (queueing 1 0) 1#10) (by decide +kernel)
  have bad : enableQueue (queueing 1 13) 1#10 = .error true := errEq (by decide +kernel)
  have tail : ∀ s : State, s.hub.queues = [queueOf 0] → s.hub.queues.find? (fun q => q.num = 0#10) = some (queueOf 0) ∧
      qTailVa (queueOf 0).desc = 0x10008 ∧ qCtx (queueOf 0).desc = 0#16 := fun s h => by rw [h]; decide +kernel
  obtain ⟨f, e⟩ := errSome (r := hubFetch unmapped (ctxFor unmapped 0#16) 0x10008 8) (by decide +kernel)
  obtain ⟨⟨u, v⟩, r, _⟩ := okAnd_iff (r := hubFetch (queueing 0 0) (ctxFor (queueing 0 0) 0#16) 0x10008 8) (p := fun _ => true) (by decide +kernel)
  exact ⟨⟨queueing 1 0, t, by decide +kernel, g⟩, ⟨queueing 1 13, by decide +kernel, bad, by decide +kernel⟩,
    ⟨struck, by decide +kernel, errEq (by decide +kernel)⟩,
    ⟨{ queueing 0 0 with hub := { (queueing 0 0).hub with qctl := 0x800003FF, queues := [queueOf 0x3FF] } }, by decide +kernel, queueOf 0x3FF,
      .head _, by decide +kernel⟩,
    fun held => by
      cases held
      · exact ⟨controlling 0 0xFFFF [0], by decide +kernel, by decide +kernel⟩
      · exact ⟨controlling 0 0xFFFF [0, 0xFFFF], by decide +kernel, by decide +kernel⟩,
    ⟨controlling 1 0xFFFF [0xFFFF], by decide +kernel, by decide +kernel, by decide +kernel⟩,
    ⟨controlling 2 0xFFFF [], by decide +kernel, by decide +kernel⟩,
    ⟨queueing 0 0, u, 0, queueOf 0, v, by decide +kernel, by rw [show qCtx (queueOf 0).desc = 0#16 by decide +kernel,
      show qTailVa (queueOf 0).desc = 0x10008 by decide +kernel]; exact r⟩,
    ⟨unmapped, 0, queueOf 0, f, (tail unmapped rfl).1, by rw [(tail unmapped rfl).2.1, (tail unmapped rfl).2.2]; exact e⟩,
    ⟨struck, 0, queueOf 0, (tail struck rfl).1, by rw [(tail struck rfl).2.1, (tail struck rfl).2.2]; exact errEq (by decide +kernel)⟩⟩

theorem witness_RegisterEventResult :
    (∃ v : BitVec 64, v.extractLsb' 48 16 = 0#16 ∧ v.extractLsb' 14 18 = 0#18 ∧ (v.extractLsb' 32 16).toNat = 1000 ∧ (v.extractLsb' 0 14).toNat = 5) ∧
    (∃ v : BitVec 64, v.extractLsb' 21 42 = 0#42 ∧ v.extractLsb' 12 4 = 0#4 ∧ v.extractLsb' 5 3 = 0#3 ∧ (v.extractLsb' 16 5).toNat = 16 ∧
      v.getLsbD 63 = true) ∧
    (∃ v : BitVec 64, ¬(v.extractLsb' 21 42 = 0#42 ∧ v.extractLsb' 12 4 = 0#4 ∧ v.extractLsb' 5 3 = 0#3 ∧ (v.extractLsb' 16 5).toNat ≤ 16)) ∧
    (∃ v : BitVec 64, 1200 ≤ (v.extractLsb' 0 12).toNat ∧ (v.extractLsb' 0 12).toNat ≤ 2400) ∧
    (∀ go : Bool, ∃ s : State, xGo s = go) ∧ (∃ (s : State) (v : BitVec 64) (n : BitVec 10), n.toNat = 992 ∧ substitutes s (0x8000 + 8 * n.toNat) v = none) ∧
    (∃ s : State, s.fab.buddy ≠ 0x3FF#10) :=
  ⟨⟨1000 <<< 32 ||| 5, by decide⟩, ⟨1 <<< 63 ||| 16 <<< 16, by decide⟩, ⟨17 <<< 16, by decide⟩, ⟨1200, by decide⟩,
    fun go => by cases go; exact ⟨base, rfl⟩; exact ⟨asking 0 0 0 0, by decide +kernel⟩, ⟨base, 0, 992, by decide +kernel⟩,
    ⟨{ base with fab := { base.fab with buddy := 3 } }, by decide +kernel⟩⟩

/-- A card of a kind with one word of its field at bit 64 on and one used wait on semaphore 1 (R213). -/
def cardOf (kind : Nat) (rest : Nat) : BitVec 2048 := BitVec.ofNat _ (kind + rest)
/-- The node of a card in context 0 with number 1. -/
def nodeWith (c : BitVec 2048) (st : NodeState) : Node :=
  { newNode base (queueOf 0) 1 c false with state := st, latched0 := true, latched1 := true, wall := 0 }
/-- Queue 0 with one card. -/
def oneCard : SubQueue := { queueOf 0 with tail := 1 }
/-- A pool of nodes beside the mapped page; semaphores start at VA 0x10000, WDOG is 1 ms, WALL has counted a little more. -/
def pool (l : List Node) : State :=
  { mapped aRc with
    hub := { base.hub with nodes := l, queues := [oneCard] }
    x := { Ctx.empty with desc := BitVec.ofNat _ (2 ^ 112 + 2 ^ 128 * 0x10000), resident := true }, ctxs := [], clk := 1600017 }

theorem journalCap_pos : 0 < journalCap := Nat.two_pow_pos _

/-- A kernel card of one block of a number of warps, of one core (R213). -/
def kernelCard (warps rest : Nat) : BitVec 2048 :=
  cardOf 0 (2 ^ 10 + 2 ^ 12 + 2 ^ 192 + 2 ^ 212 + 2 ^ 232 + 2 ^ 256 * warps + rest)
/-- A gang of one member (R213). -/
def gangCard : BitVec 2048 := kernelCard 1 (2 ^ 40)
/-- The same pool with a card in the ring, and the gang map of the context at VA 0x10100; with an uncorrectable error in the map's line. -/
def ringed (c : BitVec 2048) (bad : Bool) : State :=
  let s := pool []
  { s with
    m := { s.m with cells := cellPut [] 0x11000 (bytesOfNat 256 c.toNat), bad := if bad then [lineOf 0x10100] else [] }
    x := { s.x with desc := s.x.desc ||| BitVec.ofNat _ (2 ^ 384 * 0x10100) } }
/-- Nodes of one kind, the greatest too large for any core and passed over long ago, beside one of another kind. -/
def large : Node := { nodeWith (kernelCard 255 (2 ^ 3 * 2)) .ready with seq := 3, passedSince := some 0 }
def small : Node := { nodeWith (kernelCard 1 (2 ^ 3)) .ready with seq := 2 }
def other : Node := nodeWith (cardOf 3 0) .ready
/-- A used signal on a semaphore (R213). -/
def signals (sem : Nat) : Node := nodeWith (cardOf 6 (2 ^ 1914 + 2 ^ 1896 * sem)) .ready

/-- A node that waits on its semaphore, whose word is 0, for 0 ≤ 0 or 0 < 0 (R217); one that has nothing left to do. -/
def waits (i : Fin 2) (holds : Bool) : Node :=
  { nodeWith (cardOf 6 (2 ^ (1875 + 20 * i.val) + 2 ^ (1872 + 20 * i.val) * (if holds then 2 else 3))) .accepted with latched0 := false, latched1 := false }
def ended (f : Bool) : Node := { nodeWith (cardOf 6 0) .ready with stopped := f, fcode := if f then 1 else 0 }

/-- Without a buddy and a completion ring, a node's completion waits for nothing (R212). -/
theorem hubLog_alone {s : State} (h : s.fab.buddy = 0x3FF#10) (pa : Nat) (data : List Byte) : hubLog s pa data = hubCells s pa data := by
  have : ∀ (l : List Nat) (t : State), t.fab.buddy = 0x3FF#10 → l.foldl mirrorLine t = t := by
    intro l
    induction l with
    | nil => exact fun _ _ => rfl
    | cons a l ih => intro t k; rw [List.foldl_cons, mirrorLine, if_pos k]; exact ih t k
  exact this _ _ h

theorem sealNode_alone {s : State} {n : Node} (h : s.fab.buddy = 0x3FF#10) (k : qCq n.qdesc = 0) (l : ∀ q ∈ s.hub.queues, qCq q.desc = 0) :
    ∃ u, sealNode s n = some u := by
  have : ∀ (t : State) (n : Node), t.hub.queues = s.hub.queues → qCq n.qdesc = 0 → ∃ u, nodeRecord t n = some u := by
    intro t n e k
    have z : qCq (((t.hub.queues.find? fun q => q.num = n.queue && qCtx q.desc = n.ctx).map (·.desc)).getD n.qdesc) = 0 := by
      rcases q : t.hub.queues.find? (fun q => q.num = n.queue && qCtx q.desc = n.ctx) with _ | q'
      · rw [q, Option.map_none, Option.getD_none]; exact k
      · rw [q, Option.map_some, Option.getD_some]; exact l _ (e ▸ List.mem_of_find?_eq_some q)
    by_cases i : n.leader.isSome = true
    · exact ⟨t, by simp [nodeRecord, i]⟩
    · exact ⟨t, by simp only [nodeRecord, i, writeRecord, z]; rfl⟩
  have e : ∀ n, (journalNode (takeSeq s).1 n).hub.queues = s.hub.queues := fun n => by
    rw [journalNode, writeJournal, hubLog_alone (by exact h)]
    rfl
  unfold sealNode sealAs
  obtain ⟨u, r⟩ := this (journalNode (takeSeq s).1 { n with state := if n.fcode = 0#8 then .finished else .faulted })
    { n with state := if n.fcode = 0#8 then .finished else .faulted } (e _) k
  exact ⟨_, by simp only [r]; rfl⟩

theorem witness_CardAndDispatchResult :
    (∃ (s t u w : State) (q : SubQueue) (c : Nat) (p : Place) (bad : Option TrapInfo), hubHeld s.hub = false ∧ acceptPauses s = false ∧
      nextQueue s = some q ∧
      hubFetch s (ctxFor s (qCtx q.desc)) (qRing q.desc + 256 * (q.head.toNat % qSlots q.desc)) 256 = .ok (t, c) ∧
      hubPlace t (ctxFor s (qCtx q.desc)) .store (qHeadVa q.desc) = .ok (u, p) ∧
      checkCard u (ctxFor s (qCtx q.desc)) (BitVec.ofNat 2048 c) = some (w, bad)) ∧
    (∃ (s t u : State) (q : SubQueue) (c : Nat) (p : Place), hubHeld s.hub = false ∧ acceptPauses s = false ∧ nextQueue s = some q ∧
      hubFetch s (ctxFor s (qCtx q.desc)) (qRing q.desc + 256 * (q.head.toNat % qSlots q.desc)) 256 = .ok (t, c) ∧
      hubPlace t (ctxFor s (qCtx q.desc)) .store (qHeadVa q.desc) = .ok (u, p) ∧
      checkCard u (ctxFor s (qCtx q.desc)) (BitVec.ofNat 2048 c) = none) ∧
    (∃ (s : State) (q : SubQueue) (f : TrapInfo), hubHeld s.hub = false ∧ acceptPauses s = false ∧ nextQueue s = some q ∧
      hubFetch s (ctxFor s (qCtx q.desc)) (qRing q.desc + 256 * (q.head.toNat % qSlots q.desc)) 256 = .error (some f)) ∧
    (∃ s : State, nextQueue s = none ∧ hubHeld s.hub = false) ∧ (∃ s : State, hubHeld s.hub = true) ∧
    (∀ (i : Fin 2) (holds : Bool), ∃ (s : State) (n : Node), nodeOf s n.seq = some n ∧ n.stopped = false ∧
      (if i = 0 then n.latched0 else n.latched1) = false ∧ (cardWait n.card i).1 = true ∧ evalWait s (ctxFor s n.ctx) n.card i = .ok holds) ∧
    (∃ (s : State) (n m : Node), hubHeld s.hub = false ∧ dispatchChoice s = some n ∧ m ∈ s.hub.nodes ∧ mayDispatch s m = true ∧
      nodeFits s m = true ∧ nodeRank s m < nodeRank s n) ∧
    (∃ n : Node, cardKind n.card ≠ 0) ∧
    (∃ (s : State) (n : Node) (core : Nat), cardKind n.card = 0 ∧ n.leader = none ∧ cardGcount n.card = 0 ∧
      placeOf s (cardShape n.card) = some core) ∧
    (∃ s : State, hubHeld s.hub = false ∧ dispatchChoice s = none) ∧
    (∀ faulted : Bool, ∃ (s u : State) (n : Node), nodeOf s n.seq = some n ∧ nodeOver s n = true ∧ hubSealed s.hub = false ∧
      (n.fcode ≠ 0#8 ↔ faulted = true) ∧ (cardSignal n.card 0).1 = false ∧ (cardSignal n.card 1).1 = false ∧ sealNode s n = some u) ∧
    (∃ (s u v : State) (n : Node), nodeOf s n.seq = some n ∧ nodeOver s n = true ∧ hubSealed s.hub = false ∧ n.fcode = 0#8 ∧ n.leader = none ∧
      (cardSignal n.card 0).1 = true ∧ applySignals s (ctxFor s n.ctx) n.card = .ok u ∧ sealNode u n = some v) ∧
    (∃ (s : State) (n : Node) (f : TrapInfo), nodeOf s n.seq = some n ∧ nodeOver s n = true ∧ hubSealed s.hub = false ∧ n.fcode = 0#8 ∧
      n.leader = none ∧ applySignals s (ctxFor s n.ctx) n.card = .error (some f)) ∧
    (∃ (s : State) (n : Node), nodeOf s n.seq = some n ∧ nodeOver s n = false) ∧
    (∃ (s : State) (n : Node), nodeOf s n.seq = some n ∧ hubSealed s.hub = true) ∧
    (∀ due : Bool, ∃ (s : State) (n : Node), nodeOf s n.seq = some n ∧ watchdogDue s n = due) ∧
    (∃ (s : State) (q : BitVec 64), nodeOf s q = none ∧ s.hub.nodes ≠ []) := by
  have pauses : ∀ s : State, s.hub.nodes = [] → s.hub.jtail = 1 → s.hub.jhead = 1 → acceptPauses s = false := fun s h j k => by
    have := journalCap_pos
    simp [acceptPauses, h, j, k]
    omega
  have e : qCtx oneCard.desc = 0#16 ∧ qRing oneCard.desc + 256 * (oneCard.head.toNat % qSlots oneCard.desc) = 0x11000 ∧
      qHeadVa oneCard.desc = 0x10000 := by decide +kernel
  have card : ∀ bad : Bool, ∃ t c u p, hubFetch (ringed gangCard bad) (ctxFor (ringed gangCard bad) 0#16) 0x11000 256 = .ok (t, c) ∧
      hubPlace t (ctxFor (ringed gangCard bad) 0#16) .store 0x10000 = .ok (u, p) ∧
      (checkCard u (ctxFor (ringed gangCard bad) 0#16) (BitVec.ofNat 2048 c)).isSome = !bad := fun bad => by
    have h : ∀ bad, okAnd (hubFetch (ringed gangCard bad) (ctxFor (ringed gangCard bad) 0#16) 0x11000 256) (fun r =>
        okAnd (hubPlace r.1 (ctxFor (ringed gangCard bad) 0#16) .store 0x10000) fun q =>
          (checkCard q.1 (ctxFor (ringed gangCard bad) 0#16) (BitVec.ofNat 2048 r.2)).isSome = !bad) = true := by decide +kernel
    obtain ⟨⟨t, c⟩, r, k⟩ := okAnd_iff (h bad)
    obtain ⟨⟨u, p⟩, l, m⟩ := okAnd_iff k
    exact ⟨t, c, u, p, r, l, of_decide_eq_true m⟩
  have next : ∀ bad : Bool, nextQueue (ringed gangCard bad) = some oneCard := fun bad => someOf (by cases bad <;> decide +kernel)
  refine ⟨?_, ?_, ?_, ⟨base, isNone (by decide +kernel), by decide +kernel⟩,
    ⟨{ base with hub := { base.hub with cutting := true } }, by decide +kernel⟩, ?_, ⟨pool [large, small, other], other, small, by decide +kernel,
      someOf (by decide +kernel), .tail _ (.head _), by decide +kernel, by decide +kernel, by decide +kernel⟩, ⟨other, by decide +kernel⟩,
    ⟨pool [small], small, 0, by decide +kernel, by decide +kernel, by decide +kernel, someOf (by decide +kernel)⟩,
    ⟨pool [], by decide +kernel, isNone (by decide +kernel)⟩, ?_, ?_, ?_,
    ⟨pool [nodeWith (cardOf 6 0) .accepted], nodeWith (cardOf 6 0) .accepted, someOf (by decide +kernel), by decide +kernel⟩,
    ⟨{ pool [other] with hub := { (pool [other]).hub with cutReported := true } }, other, someOf (by decide +kernel), by decide +kernel⟩, ?_,
    ⟨pool [other], 5, isNone (by decide +kernel), by decide +kernel⟩⟩
  · obtain ⟨t, c, u, p, r, h, k⟩ := card false
    obtain ⟨⟨w, b⟩, k⟩ := Option.isSome_iff_exists.mp k
    exact ⟨ringed gangCard false, t, u, w, oneCard, c, p, b, by decide +kernel, pauses _ (by decide +kernel) (by decide +kernel) (by decide +kernel),
      next false, by rw [e.1, e.2.1]; exact r, by rw [e.1, e.2.2]; exact h, by rw [e.1]; exact k⟩
  · obtain ⟨t, c, u, p, r, h, k⟩ := card true
    exact ⟨ringed gangCard true, t, u, oneCard, c, p, by decide +kernel, pauses _ (by decide +kernel) (by decide +kernel) (by decide +kernel),
      next true, by rw [e.1, e.2.1]; exact r, by rw [e.1, e.2.2]; exact h, by rw [e.1]; exact Option.not_isSome_iff_eq_none.mp (by simp [k])⟩
  · obtain ⟨f, h⟩ := errSome (r := hubFetch { pool [] with m := base.m } (ctxFor { pool [] with m := base.m } 0#16) 0x11000 256) (by decide +kernel)
    exact ⟨{ pool [] with m := base.m }, oneCard, f, by decide +kernel, pauses _ (by decide +kernel) (by decide +kernel) (by decide +kernel),
      someOf (by decide +kernel), by rw [e.1, e.2.1]; exact h⟩
  · intro i holds
    have a : ∀ (i : Fin 2) (holds : Bool), evalWait (pool [waits i holds]) (ctxFor (pool [waits i holds]) 0#16) (waits i holds).card i =
        .ok holds := fun i holds => okEq (by revert i holds; decide +kernel)
    have f : ∀ (i : Fin 2) (holds : Bool), (waits i holds).ctx = 0#16 := by decide +kernel
    have h : ∀ (i : Fin 2) (holds : Bool), (cardWait (waits i holds).card i).1 = true ∧ (waits i holds).stopped = false ∧
        (if i = 0 then (waits i holds).latched0 else (waits i holds).latched1) = false := by
      decide +kernel
    have e : ∀ (i : Fin 2) (holds : Bool), nodeOf (pool [waits i holds]) (waits i holds).seq = some (waits i holds) :=
      fun i holds => someOf (by revert i holds; decide +kernel)
    obtain ⟨b, c, d⟩ := h i holds
    have e := e i holds
    have a := a i holds
    rw [← f i holds] at a
    generalize pool [waits i holds] = s at *
    generalize waits i holds = n at *
    exact ⟨s, n, e, c, d, b, a⟩
  · intro faulted
    have h : ∀ f, nodeOver (pool [ended f]) (ended f) = true ∧
        hubSealed (pool [ended f]).hub = false ∧ ((ended f).fcode ≠ 0#8 ↔ f = true) ∧ (cardSignal (ended f).card 0).1 = false ∧
        (cardSignal (ended f).card 1).1 = false ∧
        (match nodeOf (pool [ended f]) (ended f).seq with | some b => decide (b = ended f) | none => false) = true := by decide +kernel
    obtain ⟨b, c, d, e, g, i⟩ := h faulted
    obtain ⟨u, a⟩ := sealNode_alone (s := pool [ended faulted]) (n := ended faulted) (by cases faulted <;> decide +kernel) (by cases faulted <;> decide +kernel)
      (by cases faulted <;> decide +kernel)
    exact ⟨pool [ended faulted], u, ended faulted, someOf i, b, c, d, e, g, a⟩
  · obtain ⟨u, e, h⟩ := okAnd_iff (r := applySignals (pool [signals 2]) (ctxFor (pool [signals 2]) (signals 2).ctx) (signals 2).card)
      (p := fun u => u.fab.buddy = 0x3FF#10 && u.hub.queues.all fun q => qCq q.desc = 0) (by decide +kernel)
    simp only [Bool.and_eq_true, decide_eq_true_eq, List.all_eq_true] at h
    obtain ⟨v, h⟩ := sealNode_alone (n := signals 2) h.1 (by decide +kernel) h.2
    exact ⟨pool [signals 2], u, v, signals 2, someOf (by decide +kernel), by decide +kernel, by decide +kernel, by decide +kernel, by decide +kernel,
      by decide +kernel, e, h⟩
  · obtain ⟨f, e⟩ := errSome (r := applySignals (pool [signals 0x4000]) (ctxFor (pool [signals 0x4000]) (signals 0x4000).ctx) (signals 0x4000).card)
      (by decide +kernel)
    exact ⟨pool [signals 0x4000], signals 0x4000, f, someOf (by decide +kernel), by decide +kernel, by decide +kernel, by decide +kernel,
      by decide +kernel, e⟩
  · intro due
    cases due
    · exact ⟨pool [nodeWith (cardOf 3 0) .ready], nodeWith (cardOf 3 0) .ready, someOf (by decide +kernel), by decide +kernel⟩
    · exact ⟨pool [{ nodeWith (cardOf 3 0) .running with firstDispatch := some 0 }], { nodeWith (cardOf 3 0) .running with firstDispatch := some 0 },
        someOf (by decide +kernel), by decide +kernel⟩

/-- A pool whose context's gang map lies at VA 0x10000 (R205): every member is device 0. -/
def gangPool (l : List Node) : State :=
  { pool l with x := { (pool []).x with desc := (pool []).x.desc ||| BitVec.ofNat _ (2 ^ 384 * 0x10000) } }
/-- A ready node of a gang of 256 members on its given attempt (R213, R223). -/
def ganged (attempt : Nat) (awaiting : List (BitVec 10)) (timer : Option Nat) : Node :=
  { nodeWith (cardOf 0 (2 ^ 40 * 256)) .ready with attempt := attempt, awaiting := awaiting, timer := timer }
def reserved : Reservation := { leader := 0x3FF, seq := 7, ctx := 0, card := 0, journal := 1, acked := true }

/-- The ready gang's map unmapped, or its line struck (R177). -/
def lostMap (unmapped : Bool) : State :=
  let s := gangPool [ganged 0 [] none]
  { s with m := if unmapped then base.m else { s.m with bad := [lineOf 0x10000] } }

theorem witness_GangEventResult :
    (∀ again : Bool, ∃ (s t : State) (n : Node) (ms : List (BitVec 16)), nodeOf s n.seq = some n ∧ gangWaits s n = true ∧
      gangMembers s (ctxFor s n.ctx) n.card = .ok (t, ms) ∧ t.fab.ident = s.fab.ident ∧
      hubHeld s.hub = false ∧ (if again then 0 < n.attempt ∧ n.awaiting = [] ∧ ∃ due, n.timer = some due ∧ due ≤ wall s
        else n.attempt = 0 ∧ ∃ m, dispatchChoice s = some m ∧ m.seq = n.seq)) ∧
    (∃ (s : State) (n : Node) (f : TrapInfo), nodeOf s n.seq = some n ∧ gangWaits s n = true ∧ hubHeld s.hub = false ∧ n.attempt = 0 ∧
      (∃ m, dispatchChoice s = some m ∧ m.seq = n.seq) ∧ gangMembers s (ctxFor s n.ctx) n.card = .error (some f)) ∧
    (∃ (s : State) (n : Node), nodeOf s n.seq = some n ∧ gangWaits s n = true ∧ hubHeld s.hub = false ∧ n.attempt = 0 ∧
      (∃ m, dispatchChoice s = some m ∧ m.seq = n.seq) ∧ gangMembers s (ctxFor s n.ctx) n.card = .error none) ∧
    (∀ last : Bool, ∃ (s : State) (n : Node) (d : BitVec 10) (due : Nat), nodeOf s n.seq = some n ∧ n.committed = false ∧ d ∈ n.awaiting ∧
      n.timer = some due ∧ wall s < due ∧ (if last then ∀ e ∈ n.awaiting, e = d else ∃ e ∈ n.awaiting, e ≠ d)) ∧
    (∀ k : Fin 2, ∃ (s : State) (n : Node) (due : Nat), nodeOf s n.seq = some n ∧ n.committed = false ∧ n.awaiting ≠ [] ∧ n.timer = some due ∧
      due ≤ wall s ∧ n.attempt = k + 3) ∧
    (∃ s : State, hubHeld s.hub = false ∧ s.hub.reservation = none ∧ s.hub.waiting = []) ∧
    (∃ (s : State) (r : Reservation), s.hub.reservation = some r ∧ (∃ n, nodeOf s r.journal = some n)) ∧
    (∃ (s : State) (l : BitVec 10) (seq : BitVec 64), s.hub.reservation.isSome = true ∧ reservationOf s l seq = none) := by
  obtain ⟨f, e⟩ := errSome (r := gangMembers (lostMap true) (ctxFor (lostMap true) 0#16) (cardOf 0 (2 ^ 40 * 256))) (by decide +kernel)
  have g : gangMembers (lostMap false) (ctxFor (lostMap false) 0#16) (cardOf 0 (2 ^ 40 * 256)) = .error none := errEq (by decide +kernel)
  have c : ∀ b, nodeOf (lostMap b) 1 = some (ganged 0 [] none) := fun b => someOf (by revert b; decide +kernel)
  have d : ∀ b, gangWaits (lostMap b) (ganged 0 [] none) = true ∧ hubHeld (lostMap b).hub = false := by decide +kernel
  have k : ∀ b, dispatchChoice (lostMap b) = some (ganged 0 [] none) := fun b => someOf (by revert b; decide +kernel)
  have l : (ganged 0 [] none).seq = 1 ∧ (ganged 0 [] none).attempt = 0 ∧ (ganged 0 [] none).ctx = 0#16 ∧
      (ganged 0 [] none).card = cardOf 0 (2 ^ 40 * 256) := by decide +kernel
  generalize ganged 0 [] none = n at c d k l
  refine ⟨?_, ⟨lostMap true, n, f, by rw [l.1]; exact c true, (d true).1, (d true).2, l.2.1, ⟨n, k true, rfl⟩, by rw [l.2.2.1, l.2.2.2]; exact e⟩,
    ⟨lostMap false, n, by rw [l.1]; exact c false, (d false).1, (d false).2, l.2.1, ⟨n, k false, rfl⟩, by rw [l.2.2.1, l.2.2.2]; exact g⟩,
    ?_, ?_, ⟨base, by decide +kernel, rfl, rfl⟩, ⟨{ base with hub := { base.hub with reservation := some reserved, nodes := [ganged 0 [] none] } }, reserved, rfl, ganged 0 [] none,
      someOf (by decide +kernel)⟩,
    ⟨{ base with hub := { base.hub with reservation := some reserved } }, 0, 7, rfl, isNone (by decide +kernel)⟩⟩
  · intro again
    cases again
    · obtain ⟨⟨t, ms⟩, e, h⟩ := okAnd_iff (r := gangMembers (gangPool [ganged 0 [] none]) (ctxFor (gangPool [ganged 0 [] none]) (ganged 0 [] none).ctx)
        (ganged 0 [] none).card) (p := fun r => r.1.fab.ident = 0x3FF#10) (by decide +kernel)
      exact ⟨gangPool [ganged 0 [] none], t, ganged 0 [] none, ms, someOf (by decide +kernel), by decide +kernel, e, of_decide_eq_true h, by decide +kernel,
        by decide +kernel, ganged 0 [] none, someOf (by decide +kernel), rfl⟩
    · obtain ⟨⟨t, ms⟩, e, h⟩ := okAnd_iff (r := gangMembers (gangPool [ganged 3 [] (some 1000010)]) (ctxFor (gangPool [ganged 3 [] (some 1000010)])
        (ganged 3 [] (some 1000010)).ctx) (ganged 3 [] (some 1000010)).card) (p := fun r => r.1.fab.ident = 0x3FF#10) (by decide +kernel)
      exact ⟨gangPool [ganged 3 [] (some 1000010)], t, ganged 3 [] (some 1000010), ms, someOf (by decide +kernel), by decide +kernel, e,
        of_decide_eq_true h, by decide +kernel, by decide, rfl, 1000010, rfl, by decide +kernel⟩
  · intro last
    cases last
    · exact ⟨gangPool [ganged 1 [0, 0x3FF] (some 1000011)], ganged 1 [0, 0x3FF] (some 1000011), 0x3FF, 1000011, someOf (by decide +kernel), rfl,
        .tail _ (.head _), rfl, by decide +kernel, 0, .head _, by decide⟩
    · exact ⟨gangPool [ganged 1 [0x3FF] (some 1000011)], ganged 1 [0x3FF] (some 1000011), 0x3FF, 1000011, someOf (by decide +kernel), rfl,
        .head _, rfl, by decide +kernel, fun e h => List.mem_singleton.mp h⟩
  · intro k
    match k with
    | 0 => exact ⟨gangPool [ganged 3 [0] (some 1000010)], ganged 3 [0] (some 1000010), 1000010, someOf (by decide +kernel), rfl, by decide +kernel, rfl,
        by decide +kernel, rfl⟩
    | 1 => exact ⟨gangPool [ganged 4 [0] (some 1000010)], ganged 4 [0] (some 1000010), 1000010, someOf (by decide +kernel), rfl, by decide +kernel, rfl,
        by decide +kernel, rfl⟩

/-- A block of context 0 with one warp, which holds a parked load; the context on its cores or away. -/
def resting (p : Place) (resident leaving : Bool) : State :=
  { loaded aRc p with
    b := { Block.empty with bid := 1, span := 1 }, x := { Ctx.empty with resident := resident, leaving := leaving }, ctxs := [] }
/-- A move of the ring that waits for drive 3 (R113). -/
def moving : Move :=
  { ctx := 0, eva := 0x10000, dtier := 0, cmd := none, old := BitVec.ofNat _ (2 ^ 78 * 3), loc := 0, phase := .nvmeRead, waited := false, image := [] }

/-- Its warp's blocks stand in a backing of an earlier place, which a write to the image that waits keeps from being read (R47, R93). -/
def scattered : State :=
  let s := resting wosOne true true
  { s with w := { s.w with away := 1 }, hub := { s.hub with writesDue := [(0, 0, [])] } }

theorem witness_ContextEventResult :
    (∀ rest : Bool, ∃ (s t : State) (c : BitVec 16), hubHeld s.hub = false ∧ ctxResident s c = true ∧ ctxBlocks s c ≠ [] ∧
      ((ctxFor s c).leaving = true ∨ switchDue s c = true) ∧ t = onCtx s c (fun x => { x with leaving := true }) ∧ ctxAtRest t c = rest) ∧
    (∀ gathered : Bool, ∃ (s t : State) (c : BitVec 16), hubHeld s.hub = false ∧ ctxResident s c = true ∧ ctxBlocks s c ≠ [] ∧
      ((ctxFor s c).leaving = true ∨ switchDue s c = true) ∧ t = onCtx s c (fun x => { x with leaving := true }) ∧ ctxAtRest t c = true ∧
      blocksGathered (gatherBlocks t c) c = gathered) ∧
    (∃ (s : State) (c : BitVec 16), ctxResident s c = false) ∧ (∃ s : State, hubHeld s.hub = true) ∧
    (∃ (s : State) (c : BitVec 16), ctxResident s c = true ∧ (ctxFor s c).leaving = false ∧ switchDue s c = false) ∧
    (∀ fits : Bool, ∃ (s : State) (c : BitVec 16), hubHeld s.hub = false ∧ restoreDue s c = true ∧ (restoreContext s c).isSome = fits) ∧
    (∃ (s : State) (c : BitVec 16), restoreDue s c = false) ∧
    (∀ r : Bool, ∃ (s : State) (x : Ctx), ctxOf s x.num = some x ∧ x.resident = r ∧ hubHeld s.hub = false) ∧
    (∃ (s : State) (d : BitVec 2), s.hub.moves ≠ [] ∧ ∀ m ∈ s.hub.moves, awaitsDrive s.m d m = false) ∧
    (∃ (s : State) (d : BitVec 2) (mv : Move), s.hub.moves.find? (awaitsDrive s.m d) = some mv ∧ mv.phase = .nvmeRead) ∧
    (∃ mv : Move, mv.phase = .nvmeWrite) := by
  have blocks : ∀ s : State, s.b.bid = 1 → s.b.ctx = 0 → ctxBlocks s 0#16 ≠ [] := fun s h k => by
    have : s.b ∈ ctxBlocks s 0#16 := List.mem_filter.mpr ⟨.head _, by simp [h, k]⟩
    exact List.ne_nil_of_mem this
  refine ⟨fun rest => ?_, fun gathered => ?_, ⟨resting wosOne false false, 0, by decide +kernel⟩,
    ⟨{ base with hub := { base.hub with cutting := true } }, by decide +kernel⟩,
    ⟨resting wosOne true false, 0, by decide +kernel, by decide +kernel, by decide +kernel⟩, fun fits => ?_,
    ⟨resting wosOne true false, 0, by decide +kernel⟩,
    fun r => ⟨resting wosOne r false, (resting wosOne r false).x, someOf (by cases r <;> decide +kernel), by cases r <;> decide +kernel,
      by cases r <;> decide +kernel⟩,
    ⟨{ base with hub := { base.hub with moves := [moving] } }, 2, List.cons_ne_nil _ _, ?_⟩,
    ⟨{ base with hub := { base.hub with moves := [moving] } }, 3, moving, someOf (by decide +kernel), by decide +kernel⟩,
    ⟨{ moving with phase := .nvmeWrite }, by decide +kernel⟩⟩
  · cases rest
    · exact ⟨{ resting wosOne true true with w := { (resting wosOne true true).w with stores := [stored stashOne] } }, _, 0, by decide +kernel,
        by decide +kernel, blocks _ (by decide +kernel) (by decide +kernel), .inl (by decide +kernel), rfl, by decide +kernel⟩
    · exact ⟨resting wosOne true true, _, 0, by decide +kernel, by decide +kernel, blocks _ (by decide +kernel) (by decide +kernel),
        .inl (by decide +kernel), rfl, by decide +kernel⟩
  · cases gathered
    · exact ⟨scattered, _, 0, by decide +kernel, by decide +kernel, blocks _ (by decide +kernel) (by decide +kernel),
        .inl (by decide +kernel), rfl, by decide +kernel, by decide +kernel⟩
    · exact ⟨resting wosOne true true, _, 0, by decide +kernel, by decide +kernel, blocks _ (by decide +kernel) (by decide +kernel),
        .inl (by decide +kernel), rfl, by decide +kernel, by decide +kernel⟩
  · cases fits
    · exact ⟨{ resting wosOne false false with cores := Vector.replicate 160 { CoreState.reset with granules := 241 } }, 0, by decide +kernel,
        by decide +kernel, by decide +kernel⟩
    · exact ⟨resting wosOne false false, 0, by decide +kernel, by decide +kernel, by decide +kernel⟩
  · intro m h
    rw [List.mem_singleton.mp h]; decide +kernel

/-- The fabric manager of a domain of two devices, 5 (this one) and 6 (R406). -/
def manager : State :=
  { base with
    clk := 160000017
    fab := { base.fab with ident := 5, fm := true, fmid := 5, domain := 9, loc := [(5, 2 ^ 26 + 9 <<< 27), (6, 2 ^ 26 + 9 <<< 27)] } }
/-- The same with its hub changed. -/
def managing (f : Hub → Hub) : State := { manager with hub := f manager.hub }

/-- The undo log is full (R170). -/
def brimming (s : State) : State :=
  { s with m := { s.m with undo := List.replicate Config.undoCapacity (.line 0 0 0 none 0 { frame := 0, attr := 0, key := 0, changing := none } none) } }

theorem witness_CheckpointEventResult :
    (∀ due : Bool, ∃ s : State, cutDue s = due) ∧
    ((∃ s : State, undoFull s = true ∧ s.fab.fm = true) ∧
      (∀ early : Bool, ∃ s : State, undoFull s = true ∧ s.fab.fm = false ∧ (if early then wall s < s.hub.lastCut + 1000000 else s.hub.lastCut + 1000000 ≤ wall s)) ∧
      ∃ s : State, undoFull s = false) ∧
    ((∃ (s : State) (n : Nat), n = s.m.interval ∧ s.hub.cutting = false ∧ s.fab.fm = false) ∧
      (∀ told : Bool, ∃ (s : State) (n : Nat), n = s.m.interval ∧ s.hub.cutting = false ∧ s.fab.fm = true ∧ (s.hub.cutNumber = n ↔ told = true)) ∧
      (∃ (s : State) (n : Nat), n = s.m.interval + 1) ∧ ∃ (s : State) (n : Nat), n = s.m.interval ∧ s.hub.cutting = true) ∧
    ((∃ s : State, s.fab.fm = false) ∧ (∃ s : State, s.hub.cutting = false) ∧
      ∀ last : Bool, ∃ (s : State) (d : BitVec 10), s.fab.fm = true ∧ s.hub.cutting = true ∧ d ∉ s.hub.cutsDone ∧
        (if last then ∀ e ∈ domainMembers s.fab, e = d ∨ e ∈ s.hub.cutsDone else ∃ e ∈ domainMembers s.fab, e ≠ d ∧ e ∉ s.hub.cutsDone)) ∧
    (∀ reported : Bool, ∃ s : State, s.hub.cutting = true ∧ s.hub.cutReported = reported) ∧
    (∀ k : Fin 4, ∃ (s : State) (n : Nat) (d : BitVec 10), s.fab.fm = true ∧ match k with
      | 0 => n = s.hub.lastCommit + 2
      | 1 => n = s.hub.lastCommit + 1 ∧ s.hub.rebuild = true
      | 2 => n = s.hub.lastCommit + 1 ∧ s.hub.rebuild = false ∧ ∃ e ∈ domainMembers s.fab, e ≠ d ∧ (n, e) ∉ s.hub.votes
      | 3 => n = s.hub.lastCommit + 1 ∧ s.hub.rebuild = false ∧ ∀ e ∈ domainMembers s.fab, e = d ∨ (n, e) ∈ s.hub.votes) ∧
    (∃ (s : State) (n : Nat), n = s.hub.lastCommit + 1 ∧ n < s.m.interval) ∧
    (∃ (s : State) (n : Nat), n ≠ s.hub.lastCommit + 1) ∧ ∃ (s : State) (n : Nat), n = s.hub.lastCommit + 1 ∧ s.m.interval ≤ n := by
  have full : ∀ s : State, s.hub.cutting = false → undoFull (brimming s) = true := by
    intro s k
    simp [undoFull, undoCount, brimming, k]
  have members : domainMembers manager.fab = [5, 6] := by decide +kernel
  refine ⟨fun due => ?_, ⟨⟨brimming manager, full _ (by decide +kernel), by decide +kernel⟩, fun early => ?_,
      ⟨managing fun h => { h with cutting := true }, by simp [undoFull, managing]⟩⟩,
    ⟨⟨base, 1, by decide +kernel⟩, fun told => ?_, ⟨base, 2, by decide +kernel⟩, ⟨managing fun h => { h with cutting := true }, 1, by decide +kernel⟩⟩,
    ⟨⟨base, by decide +kernel⟩, ⟨base, by decide +kernel⟩, fun last => ?_⟩,
    fun reported => ⟨managing fun h => { h with cutting := true, cutReported := reported }, rfl, rfl⟩, fun k => ?_,
    ⟨{ base with m := { base.m with interval := 2 } }, 1, rfl, by decide⟩, ⟨base, 2, by decide⟩, ⟨base, 1, rfl, by decide⟩⟩
  · cases due
    · exact ⟨base, by decide +kernel⟩
    · exact ⟨manager, by decide +kernel⟩
  · cases early
    · exact ⟨brimming { base with clk := 160000017 }, full _ (by decide +kernel), by decide +kernel, by decide +kernel⟩
    · exact ⟨brimming base, full _ (by decide +kernel), by decide +kernel, by decide +kernel⟩
  · cases told
    · exact ⟨manager, 1, by decide +kernel⟩
    · exact ⟨managing fun h => { h with cutNumber := 1 }, 1, by decide +kernel⟩
  · cases last
    · refine ⟨managing fun h => { h with cutting := true }, 6, rfl, rfl, by decide, 5, ?_, by decide, by decide⟩
      exact members ▸ .head _
    · refine ⟨managing fun h => { h with cutting := true, cutsDone := [5] }, 6, rfl, rfl, by decide, ?_⟩
      intro e h
      have h : e ∈ domainMembers manager.fab := h
      rw [members] at h
      rcases List.mem_cons.mp h with rfl | h
      · exact .inr (.head _)
      · exact .inl (List.mem_singleton.mp h)
  · match k with
    | 0 => exact ⟨manager, 2, 6, rfl, rfl⟩
    | 1 => exact ⟨managing fun h => { h with rebuild := true }, 1, 6, rfl, rfl, rfl⟩
    | 2 => exact ⟨manager, 1, 6, rfl, rfl, rfl, 5, members ▸ .head _, by decide, nofun⟩
    | 3 =>
      refine ⟨managing fun h => { h with votes := [(1, 5)] }, 1, 6, rfl, rfl, rfl, ?_⟩
      intro e h
      have h : e ∈ domainMembers manager.fab := h
      rw [members] at h
      rcases List.mem_cons.mp h with rfl | h
      · exact .inr (.head _)
      · exact .inl (List.mem_singleton.mp h)

theorem witness_RecoveryEventResult :
    (∃ (s : State) (n : Nat), n ≠ s.hub.lastCommit) ∧
    (∃ s : State, beatDue s = false) ∧
    (∃ s : State, beatDue s = true ∧ wall s - s.hub.lastBeat = 1000000 ∧ s.fab.fm = false ∧ s.fab.fmid ≠ s.fab.ident) ∧
    (∃ s : State, s.fab.fm = true) ∧ (∃ s : State, s.fab.fm = false) ∧
    (∀ fatal : Bool, ∃ (s : State) (d : BitVec 10), s.fab.fm = true ∧ present s.fab d = true ∧ d ≠ s.fab.ident ∧ (if fatal then d ∈ s.hub.fatals else
      bitsNat s.hub.ckptcfg 32 16 * 1000000 ≤ wall s - ((s.hub.beats.find? fun b => b.1 = d).map (·.2)).getD 0)) ∧
    (∃ (s : State) (d : BitVec 10), deathDue s d = true ∧ d.toNat ≤ 992) ∧
    (∃ (s : State) (d : BitVec 10), deathDue s d = false) ∧
    (∃ (s : State) (v : BitVec 10), s.fab.standby = true ∧ s.fab.vertex = v) ∧ (∃ s : State, s.fab.standby = false) ∧
    (∃ (s : State) (v : BitVec 10), s.fab.vertex ≠ v) ∧
    (∃ s : State, s.hub.mirrorPending = [] ∧ (∀ q ∈ s.hub.mirrorQueue, hasAux q.2.aux auxCopy = false) ∧ s.fab.ident ∉ s.hub.awaited) ∧
    (∃ (d : BitVec 10) (f : BitVec 36) (o st : BitVec 16), d ≠ 0x3FF#10 ∧ o.toNat / 128 = 511 ∧ st = 0x0FFE#16 ∧ hasAux st auxAgain = false ∧
      hasAux st auxLoad = false ∧ hasAux st auxOwner = false ∧ hasAux st auxCopy = false ∧ inReserved (128 * (512 * f.toNat + o.toNat / 128)) = false) :=
  ⟨⟨base, 1, by decide +kernel⟩, ⟨base, by decide +kernel⟩,
    ⟨{ manager with clk := 1600000, fab := { manager.fab with fm := false, fmid := 6 } }, by decide +kernel, by decide +kernel, by decide +kernel, by decide +kernel⟩,
    ⟨manager, by decide +kernel⟩, ⟨base, by decide +kernel⟩,
    fun fatal => by
      cases fatal
      · exact ⟨manager, 6, by decide +kernel⟩
      · exact ⟨managing fun h => { h with fatals := [6] }, 6, by decide +kernel⟩,
    ⟨manager, 6, by decide +kernel⟩,
    ⟨base, 0, by decide +kernel⟩, ⟨base, base.fab.vertex, by decide +kernel, rfl⟩, ⟨{ base with fab := { base.fab with standby := false } }, by decide +kernel⟩,
    ⟨{ base with fab := { base.fab with vertex := 3 } }, 4, by decide +kernel⟩, ⟨base, by decide +kernel⟩,
    ⟨6, 0x5FFFFF, 0xFF80, 0x0FFE, by decide, by decide, by decide, by decide, by decide, by decide, by decide, by decide +kernel⟩⟩
theorem witness_SecurityPowerResult :
    (∃ s : State, s.hub.stage = 0#4 ∧ s.hub.fail = false) ∧ (∃ s : State, s.hub.fail = true) ∧
    (∃ (s : State) (k : BitVec 7), s.hub.fail = false ∧ k = 127#7 ∧ s.m.keyFull.getLsbD k.toNat = false) ∧
    (∃ (s : State) (k : BitVec 7), s.hub.fail = false ∧ k = 127#7 ∧ s.m.keyFull.getLsbD k.toNat = true) ∧
    (∃ c : BitVec 8, c ≠ 0x84 ∧ c ≠ 0xE1 ∧ c ≠ 0xE0) ∧ (∃ k : BitVec 8, k ≠ 0x00 ∧ k ≠ 0x05 ∧ k ≠ 0x06 ∧ k ≠ 0x7E) ∧
    (∃ (s : State) (a : BitVec 12), s.hub.cap.toNat + 1 = a.toNat) ∧ (∃ t : BitVec 12, t.toNat = 840) ∧
    (∃ (s : State) (a t : BitVec 12), a.toNat = s.hub.cap.toNat ∧ t.toNat = 839) ∧ (∃ t : BitVec 12, t.toNat = 920) ∧ (∃ t : BitVec 12, t.toNat = 919) ∧
    (∃ s : State, s.hub.stage = 5#4 ∧ s.fab.ident ≠ 0x3FF#10 ∧ s.fab.fm = false ∧ s.fab.fmid ≠ 0x3FF#10) ∧ ∃ s : State, s.hub.stage = 3#4 :=
  ⟨⟨State.reset, rfl, rfl⟩, ⟨{ base with hub := { base.hub with fail := true } }, rfl⟩, ⟨State.reset, 127, rfl, rfl, by decide +kernel⟩,
    ⟨{ base with m := { base.m with keyFull := -1 } }, 127, rfl, rfl, by decide +kernel⟩, ⟨0x81, by decide⟩, ⟨0x7F, by decide⟩,
    ⟨State.reset, 0x961, by decide +kernel⟩, ⟨840, rfl⟩, ⟨State.reset, 0x960, 839, by decide +kernel⟩, ⟨920, rfl⟩, ⟨919, rfl⟩,
    ⟨{ base with hub := { base.hub with stage := 5 }, fab := { base.fab with ident := 5, fmid := 6 } }, by decide +kernel⟩,
    ⟨{ base with hub := { base.hub with stage := 3 } }, by decide +kernel⟩⟩

/-- Port 31 in a state, at boot step 4 and vertex 0. -/
def linked (p : Port) : State :=
  { base with hub := { base.hub with stage := 4 }, fab := { base.fab with vertex := 0, ports := base.fab.ports.set 31 p } }
/-- A port UP with one flit unacknowledged. -/
def upPort : Port := { Port.reset with state := 2, peer := 1, txBanks := 1, rxBanks := 1, txSeq := 1, replay := [⟨0, []⟩] }

/-- Every vertex of a plane has a first neighbour. -/
theorem first_neighbour : ∀ n : Fin 11, (neighbours (Config.planePrime n).toNat 0)[0]?.isSome = true := by decide +kernel

theorem assigned_vertex : ∃ v : BitVec 10, assignedPeer (linked Port.reset).fab 0 = some v.toNat := by
  obtain ⟨v, h⟩ := Option.isSome_iff_exists.mp (first_neighbour Config.planeIndex)
  have e : assignedPeer (linked Port.reset).fab 0 = some v := h
  have b : ∀ n : Fin 11, ((neighbours (Config.planePrime n).toNat 0)[0]?.all fun v => v < 1024) = true := by decide +kernel
  have := b Config.planeIndex
  rw [h] at this
  exact ⟨BitVec.ofNat 10 v, by rw [e]; simp at this; simp; omega⟩

theorem witness_LinkEventResult :
    (∃ (s : State) (p : BitVec 6), (portAt s.fab p.toNat).state ≠ 2#2) ∧
    (∀ k : Fin 3, ∃ (s : State) (p : BitVec 6) (h : BitVec 64) (ok : Bool), (portAt s.fab p.toNat).state = 2#2 ∧ match k with
      | 0 => linkAccepts (portAt s.fab p.toNat) h ok = false
      | 1 => linkAccepts (portAt s.fab p.toNat) h ok = true ∧ staleFlit s.fab h = true
      | 2 => linkAccepts (portAt s.fab p.toNat) h ok = true ∧ staleFlit s.fab h = false) ∧
    (∀ k : Fin 2, ∃ (s : State) (p : BitVec 6) (n : Fin 36) (l : BitVec 12), n.val = p.toNat ∧ (s.fab.ports[n]).state = 2#2 ∧
      (s.fab.ports[n]).rekey = false ∧ (s.fab.ports[n]).replay.length = 1 ∧
      (l - ((s.fab.ports[n]).txSeq - BitVec.ofNat 12 (s.fab.ports[n]).replay.length)).toNat = k) ∧
    (∃ (s : State) (p v : BitVec 10) (n : Fin 36), n.val = p.toNat ∧ n.val < 32 ∧ s.hub.fail = false ∧ 4 ≤ s.hub.stage.toNat ∧
      (s.fab.ports[n]).state = 0#2 ∧ assignedPeer s.fab n.val = some v.toNat) ∧
    (∃ (s : State) (v : BitVec 10) (n : Fin 36), n.val < 32 ∧ s.hub.fail = false ∧ 4 ≤ s.hub.stage.toNat ∧
      (s.fab.ports[n]).state = 0#2 ∧ assignedPeer s.fab n.val ≠ some v.toNat) ∧
    (∃ (s : State) (n : Fin 36), n.val = 32 ∧ s.hub.fail = false ∧ 4 ≤ s.hub.stage.toNat ∧ (s.fab.ports[n]).state = 0#2) ∧
    (∃ (s : State) (n : Fin 36), (s.fab.ports[n]).state = 2#2 ∧ (s.fab.ports[n]).rekey = true ∧ (s.fab.ports[n]).txBanks ≠ 3#2 ∧
      (s.fab.ports[n]).rekeyWaits = false ∧ ∀ q ∈ (s.fab.ports[n]).replay, flitKg q.header ≠ (s.fab.ports[n]).txkg) ∧
    (∃ (s : State) (n : Fin 36), (s.fab.ports[n]).state = 2#2 ∧ (s.fab.ports[n]).fails = 17 ∧ (s.fab.ports[n]).outbox = [] ∧
      (s.fab.ports[n]).replay = []) ∧
    (∃ (s : State) (p : BitVec 6), linkDownDue (portAt s.fab p.toNat) = false) ∧
    (∃ (s : State) (n : Fin 36), (s.fab.ports[n]).state = 2#2 ∧ (s.fab.ports[n]).rekey = true ∧ (s.fab.ports[n]).txBanks ≠ 3#2 ∧
      ∃ q ∈ (s.fab.ports[n]).replay, flitKg q.header = (s.fab.ports[n]).txkg) ∧
    (∀ due : Bool, ∃ (s : State) (n : Fin 36), (s.fab.ports[n]).state = 2#2 ∧ rekeyDue (s.fab.ports[n]) = due ∧ (s.fab.ports[n]).rekey = false) ∧
    (∃ (s : State) (n : Fin 36), (s.fab.ports[n]).state = 2#2 ∧ (s.fab.ports[n]).rxBanks = 3#2 ∧ (s.fab.ports[n]).rekeyWaits = false) ∧
    (∃ (s : State) (d : BitVec 10) (c : BitVec 2), ∃ q ∈ s.fab.flows, q.1 = d ∧ q.2.1 = c) := by
  obtain ⟨v, a⟩ := assigned_vertex
  have up : ∀ p : Port, (linked p).fab.ports[(31 : Fin 36)] = p := fun p => rfl
  have at31 : ∀ p : Port, portAt (linked p).fab (31 : BitVec 6).toNat = p := fun p => rfl
  refine ⟨⟨base, 0, by decide +kernel⟩, fun k => ?_, fun k => ?_, ⟨linked Port.reset, 0, v, 0, rfl, by decide, rfl, by decide +kernel, rfl, a⟩,
    ⟨linked Port.reset, 0x3FF, 0, by decide, rfl, by decide +kernel, rfl, ?_⟩,
    ⟨linked Port.reset, 32, rfl, by decide +kernel, by decide +kernel, by decide +kernel⟩,
    ⟨linked { upPort with rekey := true, replay := [] }, 31, rfl, rfl, by rw [up]; decide, rfl, by rw [up]; exact nofun⟩,
    ⟨linked { upPort with fails := 17, replay := [] }, 31, rfl, rfl, rfl, rfl⟩, ⟨linked { upPort with fails := 16 }, 31, by rw [at31]; decide⟩,
    ⟨linked { upPort with rekey := true }, 31, rfl, rfl, by rw [up]; decide, ⟨0, []⟩, by rw [up]; exact .head _, by rw [up]; decide⟩,
    fun due => ?_, ⟨linked { upPort with rxBanks := 3 }, 31, rfl, rfl, rfl⟩,
    ⟨{ base with fab := { base.fab with flows := [(992, 3, 1, none)] } }, 992, 3, _, .head _, rfl, rfl⟩⟩
  · match k with
    | 0 => exact ⟨linked upPort, 31, 1, true, rfl, by rw [at31]; decide⟩
    | 1 => exact ⟨linked upPort, 31, 0, true, rfl, by rw [at31]; decide, by decide +kernel⟩
    | 2 => exact ⟨linked upPort, 31, BitVec.ofNat 64 (3 * 2 ^ 61), true, rfl, by rw [at31]; decide, by decide +kernel⟩
  · match k with
    | 0 => exact ⟨linked upPort, 31, 31, 0, rfl, rfl, rfl, rfl, by rw [up]; decide⟩
    | 1 => exact ⟨linked upPort, 31, 31, 1, rfl, rfl, rfl, rfl, by rw [up]; decide⟩
  · have e : ∀ n : Fin 11, ((neighbours (Config.planePrime n).toNat 0)[0]?.all fun v => v ≠ 1023) = true := by decide +kernel
    have := e Config.planeIndex
    intro h
    have h : (neighbours (Config.planePrime Config.planeIndex).toNat 0)[0]? = some 1023 := h
    rw [h] at this
    simp at this
  · cases due
    · exact ⟨linked { upPort with count := BitVec.ofNat 64 (2 ^ 47 - 1) }, 31, rfl, by rw [up]; decide, rfl⟩
    · exact ⟨linked { upPort with count := BitVec.ofNat 64 (2 ^ 47) }, 31, rfl, by rw [up]; decide, rfl⟩

/-- A block of a gang of one member whose table's entry 0 is its tether window of 4,096 bytes (R40). -/
def target : State :=
  { filled aRc 0x10000 (entryOf 3 0 0x1000).toNat 64 with
    b := { (mapped aRc).b with bid := 1, gcount := 1, gang := 0xFFFF }, fab := { base.fab with domain := 9 } }
/-- A farRequest of lane 63 at the last doubleword of the window (R331). -/
def farRequest (op : BitVec 3) (data : List (BitVec 128)) (place : Option Nat) : RemoteReq :=
  { op := op, src := 0x3FF, tag := 0, ctx := 0, peer := 0, index := 0, mode := 0, space := 3, gang := 0xFFFF,
    lanes := requestLanes (BitVec.ofNat 64 (2 ^ 63)) [0xFF8] data, place := place }

/-- Every lane of an answer is done, and there is one. -/
def allDone (as : List (Nat × LaneAnswer)) : Bool := !as.isEmpty && as.all fun a => match a.2 with | .done _ => true | _ => false

theorem allDone_iff {as : List (Nat × LaneAnswer)} (h : allDone as = true) : (∀ a ∈ as, ∃ d, a.2 = .done d) ∧ as ≠ [] := by
  simp only [allDone, Bool.and_eq_true, List.all_eq_true, Bool.not_eq_true', List.isEmpty_eq_false_iff] at h
  refine ⟨fun a ha => ?_, h.1⟩
  have := h.2 a ha
  cases e : a.2 <;> simp [e] at this ⊢

/-- The same with entry 0 a peer-remote window of the page and its bounds at PA 0x20000 (R27, R38), its last line copied in another core or
unpublished (R161, R136). -/
def windowed (attr : BitVec 2) : State :=
  { target with
    m := { target.m with
      cells := cellPut (cellPut [] 0x10000 (bytesOfNat 64 (entryOf 4 0x10000 0x1000).toNat)) 0x20000 (bytesOfNat 32 (7 * 2 ^ 176 + 2 ^ 96 * 2 ^ 79))
      tlb := [{ ctx := 0, base := 0x10000, log := 16, pte := 0, entry := leafOne attr },
              { ctx := 0, base := 0x410000, log := 16, pte := 0, entry := leafOne aRc + 0x10000 }]
      frames := if attr = aRc then [] else [{ frame := 1, attr := attr, key := 0, changing := none }] } }
def watched : State := { windowed aRc with m := { (windowed aRc).m with copies := [{ core := 1, line := 0x21F, data := 0, late := [] }] } }
/-- A request through it. -/
def peerRequest (op : BitVec 3) (data : List (BitVec 128)) : RemoteReq := { farRequest op data none with space := 4 }
/-- The request of an operation, and one beyond the window's LENGTH. -/
def sentOp (op : BitVec 3) : RemoteReq := farRequest op (if op = 0 then [] else [7]) (if op = 4 then some 0 else none)
def beyond : RemoteReq := { farRequest 1 [7] none with lanes := requestLanes (BitVec.ofNat 64 (2 ^ 63)) [0x1000] [7] }

theorem witness_RemoteRequestResult :
    (∀ op : BitVec 3, op.toNat ≤ 4 → ∃ (s t : State) (q : RemoteReq) (mask : BitVec 64) (offs : List (BitVec 32)) (data : List (BitVec 128))
      (as : List (Nat × LaneAnswer)), q.op = op ∧ (op = 0#3 → data = []) ∧ (q.place.isSome ↔ op = 4#3) ∧ q.lanes = requestLanes mask offs data ∧
      performRequest q false s = (t, as) ∧ (∀ a ∈ as, ∃ d, a.2 = .done d) ∧ as ≠ [] ∧ forwarding t.m s.m.sid = false) ∧
    (∃ (s t : State) (q : RemoteReq) (as : List (Nat × LaneAnswer)), q = peerRequest 1 [7] ∧ performRequest q false s = (t, as) ∧
      (∀ a ∈ as, ∃ d, a.2 = .done d) ∧ as ≠ [] ∧ forwarding t.m s.m.sid = true) ∧
    (∀ k : Fin 3, ∃ (s t : State) (q : RemoteReq) (mask : BitVec 64) (offs : List (BitVec 32)) (data : List (BitVec 128)) (as : List (Nat × LaneAnswer)),
      (q.op = 1#3 ∨ (q.op = 0#3 ∧ data = [])) ∧ q.place = none ∧ q.lanes = requestLanes mask offs data ∧ performRequest q false s = (t, as) ∧
      as ≠ [] ∧ forwarding t.m s.m.sid = false ∧
      match k with
      | 0 => as = allLanes q (.rnr cHandleBounds)
      | 1 => as = allLanes q (.err cTetherGone 0x00)
      | 2 => as = allLanes q .parked) ∧
    (∃ (s : State) (q : RemoteReq), q.op = 4#3 ∧ q.place = none ∧ q.src ≠ s.fab.ident ∧ locDomain s.fab q.src ≠ s.fab.domain) ∧
    (∀ found : Bool, ∃ (s : State) (q : RemoteReq), q.op = 4#3 ∧ q.place = none ∧ (q.src = s.fab.ident ∨ locDomain s.fab q.src = s.fab.domain) ∧
      (targetBlock s q).isSome = found) := by
  refine ⟨fun op h => ?_, ?_, fun k => ?_, ⟨target, { farRequest 4 [] none with src := 0 }, by decide +kernel⟩, fun found => ?_⟩
  · have k : ∀ op : BitVec 3, op.toNat ≤ 4 → allDone (performRequest (sentOp op) false target).2 = true ∧
        forwarding (performRequest (sentOp op) false target).1.m target.m.sid = false := by
      decide +kernel
    have ⟨a, b⟩ := allDone_iff (k op h).1
    exact ⟨target, _, sentOp op, BitVec.ofNat 64 (2 ^ 63), [0xFF8], _, _, rfl,
      fun h => by simp [h], by by_cases e : op = 4#3 <;> simp [sentOp, farRequest, e], rfl, Prod.eta _ |>.symm, a, b, (k op h).2⟩
  · have k : allDone (performRequest (peerRequest 1 [7]) false watched).2 = true ∧
        forwarding (performRequest (peerRequest 1 [7]) false watched).1.m watched.m.sid = true := by decide +kernel
    have ⟨a, b⟩ := allDone_iff k.1
    exact ⟨watched, _, peerRequest 1 [7], _, rfl, Prod.eta _ |>.symm, a, b, k.2⟩
  · have h : ∀ (q : RemoteReq) (s : State) (a : LaneAnswer),
        ((performRequest q false s).2 = allLanes q a && (allLanes q a).length = 1 && !forwarding (performRequest q false s).1.m s.m.sid) = true →
        (performRequest q false s).2 = allLanes q a ∧ (performRequest q false s).2 ≠ [] ∧
          forwarding (performRequest q false s).1.m s.m.sid = false := by
      intro q s a h
      simp only [Bool.and_eq_true, decide_eq_true_eq, Bool.not_eq_true'] at h
      refine ⟨h.1.1, ?_, h.2⟩
      rw [h.1.1]
      intro e
      simp [e] at h
    match k with
    | 0 =>
      obtain ⟨a, b, c⟩ := h beyond target (.rnr cHandleBounds) (by decide +kernel)
      exact ⟨target, _, beyond, BitVec.ofNat 64 (2 ^ 63), [0x1000], [7], _, .inl rfl, rfl, rfl, Prod.eta _ |>.symm, b, c, a⟩
    | 1 =>
      obtain ⟨a, b, c⟩ := h (sentOp 1) base (.err cTetherGone 0x00) (by decide +kernel)
      exact ⟨base, _, sentOp 1, BitVec.ofNat 64 (2 ^ 63), [0xFF8], [7], _, .inl rfl, rfl, rfl, Prod.eta _ |>.symm, b, c, a⟩
    | 2 =>
      obtain ⟨a, b, c⟩ := h (peerRequest 0 []) (windowed aWos) .parked (by decide +kernel)
      exact ⟨windowed aWos, _, peerRequest 0 [], BitVec.ofNat 64 (2 ^ 63), [0xFF8], [], _, .inr ⟨rfl, rfl⟩, rfl, rfl, Prod.eta _ |>.symm, b, c, a⟩
  · cases found
    · exact ⟨base, farRequest 4 [] none, by decide +kernel, by decide +kernel, .inl (by decide +kernel), by decide +kernel⟩
    · exact ⟨target, farRequest 4 [] none, by decide +kernel, by decide +kernel, .inl (by decide +kernel), by decide +kernel⟩

/-- A warp with one remote access outstanding, or waiting to be sent again (R330, R332). -/
def farOne (op : BitVec 3) (retries : Nat) (ready : Option Nat) : Remote :=
  { tag := 0xFFFF, op := op, peer := 0, target := 0, index := 0, space := 3, lanes := [(63, 0, 0)], d := 231, size := 4, signed := false, type := 4,
    scope := 0, retries := retries, ready := ready, sent := ready.isNone, since := 0, flag := some 0, pc := 0, hreg := 15, rel := none }
def far (r : Remote) : State := { base with w := { base.w with wid := 1, remotes := [r] } }

theorem witness_RemoteAnswerResult :
    (∀ k : Fin 4, ∃ (s : State) (tag : BitVec 16) (r : Remote), AtWarp s s.w.wid ∧ remoteOwner s tag = some s.w.wid ∧ remoteOf s.w tag = some r ∧ match k with
      | 0 => remoteReturns r.op = true
      | 1 => r.retries + 1 = s.fab.rnrlimit.toNat
      | 2 => s.fab.rnrlimit.toNat = r.retries
      | 3 => ∃ due, r.ready = some due ∧ due = wall s) ∧
    (∀ b : Bool, ∃ (r : Remote) (ls : List Nat), ls ≠ [] ∧ remoteReturns r.op = b) ∧ (∃ (s : State) (tag : BitVec 16), remoteOwner s tag = none) := by
  refine ⟨fun k => ?_, fun b => ?_, ⟨base, 0, isNone (by decide +kernel)⟩⟩
  · match k with
    | 0 => exact ⟨far (farOne 0 0 none), 0xFFFF, farOne 0 0 none, ⟨rfl, by decide +kernel⟩, someOf (by decide +kernel), someOf (by decide +kernel), by decide +kernel⟩
    | 1 => exact ⟨far (farOne 1 7 none), 0xFFFF, farOne 1 7 none, ⟨rfl, by decide +kernel⟩, someOf (by decide +kernel), someOf (by decide +kernel), by decide +kernel⟩
    | 2 => exact ⟨far (farOne 1 8 none), 0xFFFF, farOne 1 8 none, ⟨rfl, by decide +kernel⟩, someOf (by decide +kernel), someOf (by decide +kernel), by decide +kernel⟩
    | 3 => exact ⟨far (farOne 1 8 (some 0)), 0xFFFF, farOne 1 8 (some 0), ⟨rfl, by decide +kernel⟩, someOf (by decide +kernel), someOf (by decide +kernel),
        0, rfl, by decide +kernel⟩
  · cases b
    · exact ⟨farOne 1 0 none, [63], by decide, by decide +kernel⟩
    · exact ⟨farOne 0 0 none, [63], by decide, by decide +kernel⟩

/-- Line 0 of die 3's directory entry in a state, and the attribute of its frame. -/
def tracked (d : Option LineState) : State :=
  { base with m := { base.m with dir := (d.toList.map fun q => { agent := 0xFFF, line := 0, state := q }) } }
def uOne : UCopy := { agent := 0xFFF, line := 0, op := 0, wide := false, type := 4, parts := [] }

/-- An address outside the device's memory and the journal. -/
theorem unreached : ∃ pa : BitVec 52, hostReaches pa.toNat = false ∧ inJournal pa.toNat = false := by
  have cap : journalCap ≤ 2 ^ 31 := by
    unfold journalCap
    exact Nat.pow_le_pow_right (by decide) (by have := Config.journalCapLog.isLt; omega)
  have far : hostReaches (0xFFFFFFFFFFFFF#52).toNat = false ∧ hostReaches (0x6000000000#52).toNat = false := by decide +kernel
  by_cases h : Config.journalBase.toNat ≤ 0x6000000000
  · refine ⟨0xFFFFFFFFFFFFF#52, far.1, ?_⟩
    unfold inJournal
    rw [Bool.and_eq_false_iff]
    refine .inr (decide_eq_false ?_)
    have : (0xFFFFFFFFFFFFF#52).toNat = 0xFFFFFFFFFFFFF := rfl
    rw [this]; omega
  · refine ⟨0x6000000000#52, far.2, ?_⟩
    unfold inJournal
    rw [Bool.and_eq_false_iff]
    refine .inl (decide_eq_false ?_)
    have : (0x6000000000#52).toNat = 0x6000000000 := rfl
    rw [this]; omega

theorem witness_CoherenceEventResult :
    (∃ (s : State) (a : BitVec 12) (l : BitVec 45), ownAgent s a = true ∧ hostLineAt s (linePa l) = false ∧ trackedLine s.m (linePa l) = true ∧ ownableLine s.m (linePa l) = true ∧
      (∀ e ∈ s.m.dir, e.line ≠ l.toNat) ∧ (∀ e ∈ s.m.hostDir, e.1 / 2 ≠ l.toNat) ∧ ∀ u ∈ s.m.ucopies, u.line ≠ l.toNat) ∧
    (∀ q : LineState, q = .m ∨ q = .e ∨ q = .s → ∃ c : BitVec 3, stateOfCode c = some q) ∧
    (∃ (s : State) (a : BitVec 12) (l : BitVec 45), ownAgent s a = true ∧ inDevice (linePa l) = true ∧ (frameRec s.m (linePa l)).attr = aRc ∧
      homeDie (linePa l) ≠ a.toNat % 4 ∧ ownsLine s.m a.toNat l.toNat = false ∧ ∀ u ∈ s.m.ucopies, u.line ≠ l.toNat) ∧
    (∀ d : Option LineState, ∃ (s : State) (a : BitVec 12) (l : BitVec 45), hostLineAt s (linePa l) = false ∧ ownAgent s a = true ∧
      dirGet s.m a.toNat l.toNat = d) ∧
    (∃ (s : State) (a : BitVec 12) (l : BitVec 45), ∃ u ∈ s.m.ucopies, u.line = l.toNat ∧ u.agent = a.toNat) ∧
    (∃ (s : State) (pa : BitVec 52), (∀ u ∈ s.m.ucopies, u.line ≠ pa.toNat / 128) ∧ hostReaches pa.toNat = true ∧ lineMarked s.m pa = false ∧
      publishedLine s.m pa.toNat = false ∧ s.fab.bridge = false) ∧
    (∃ (s : State) (pa : BitVec 52), (∀ u ∈ s.m.ucopies, u.line ≠ pa.toNat / 128) ∧ hostReaches pa.toNat = false ∧ inJournal pa.toNat = false) ∧
    (∃ (s : State) (pa : BitVec 52), (∀ u ∈ s.m.ucopies, u.line ≠ pa.toNat / 128) ∧ hostReaches pa.toNat = true ∧ lineMarked s.m pa = true ∧
      s.fab.bridge = false) ∧
    (∃ (s : State) (pa : BitVec 52), publishedLine s.m pa.toNat = true) ∧
    (∃ (s : State) (pa : BitVec 52), s.fab.bridge = true ∧ hostLineAt s pa.toNat = true ∧ (∀ e ∈ s.m.bridgeDir, e.line ≠ pa.toNat / 128) ∧
      lineMarked s.m pa = false ∧ ∀ u ∈ s.m.ucopies, u.line ≠ pa.toNat / 128) := by
  obtain ⟨pa, r, j⟩ := unreached
  refine ⟨⟨base, 0xFFF, 0x2FFFFFFF, by decide +kernel, by decide +kernel, by decide +kernel, by decide +kernel, nofun, nofun, nofun⟩, ?_,
    ⟨base, 0xFFF, 0, by decide +kernel, by decide +kernel, by decide +kernel, by decide +kernel, by decide +kernel, nofun⟩, ?_,
    ⟨{ base with m := { base.m with ucopies := [uOne] } }, 0xFFF, 0, uOne, .head _, rfl, rfl⟩,
    ⟨base, 0x5FFFFFFFFF, nofun, by decide +kernel, by decide +kernel, by decide +kernel, rfl⟩, ⟨base, pa, nofun, r, j⟩,
    ⟨{ base with m := { base.m with marks := [(0, 1)] } }, 0, nofun, by decide +kernel, by decide +kernel, by decide +kernel⟩,
    ⟨{ base with m := { base.m with frames := [{ frame := 0, attr := aWos, key := 0, changing := none }], wos := [(0, .published)] } }, 0, by decide +kernel⟩,
    ⟨{ base with fab := { base.fab with bridge := true } }, 0x8000000000000, rfl, by decide +kernel, nofun, by decide +kernel, nofun⟩⟩
  · intro q h
    rcases h with rfl | rfl | rfl
    exacts [⟨3, by decide⟩, ⟨2, by decide⟩, ⟨1, by decide⟩]
  · intro d
    have k : ∀ q : LineState, dirGet (tracked (some q)).m (0xFFF#12).toNat (0#45).toNat = some q := by intro q; cases q <;> decide +kernel
    cases d with
    | none => exact ⟨tracked none, 0xFFF, 0, by decide +kernel, by decide +kernel, isNone (by decide +kernel)⟩
    | some q => exact ⟨tracked (some q), 0xFFF, 0, by cases q <;> decide +kernel, by show decide _ = true; rfl, k q⟩

theorem witness_AcczResets : ∃ s : State, AtCore s s.w.wid ∧ Passes s .no [] ∧ s.w.mat = none ∧ active s.w ≠ 0#64 ∧ (active s.w).getLsbD 0 = false :=
  ⟨at_ fun w => { w with wid := 1, exec := BitVec.ofNat 64 (2 ^ 63) }, ⟨⟨rfl, by decide +kernel⟩, rfl⟩, passes (by decide +kernel), rfl, by decide +kernel,
    by decide +kernel⟩

/-- An instruction that completes in a state without an exception. -/
theorem completes {s : State} {i : Instr} (h : nextAnd (exec i s) (fun t => t.hub.jtail = s.hub.jtail) = true) : ∃ t, exec i s = .next t ∧ Quiet s t := by
  obtain ⟨t, e, k⟩ := nextAnd_iff h
  exact ⟨t, e, by unfold Quiet; exact of_decide_eq_true k⟩

theorem witness_ArithmeticFrame :
    (∃ f ∈ scalarTwoForms, ∃ (s t : State) (d a b : Byte), exec (f d a b) s = .next t ∧ Quiet s t) ∧
    (∃ f ∈ vectorForms, ∃ (s t : State) (d a b : Byte), exec (f d a b) s = .next t ∧ Quiet s t) ∧
    (∃ f : BitVec 4 → BitVec 4 → BitVec 4 → Instr, (f = .pand ∨ f = .por ∨ f = .pxor ∨ f = .pandn) ∧
      ∃ (s t : State) (d a b : BitVec 4), exec (f d a b) s = .next t ∧ Quiet s t) ∧
    (∃ f : BitVec 4 → Byte → Byte → Instr, (f = .vcmpEq ∨ f = .vcmpLt ∨ f = .vcmpLe ∨ f = .vcmpNe) ∧
      ∃ (s t : State) (d : BitVec 4) (a b : Byte), exec (f d a b) s = .next t ∧ Quiet s t) := by
  obtain ⟨t₁, e₁⟩ := completes (s := base) (i := .sadd 63 62 61) (by decide +kernel)
  obtain ⟨t₂, e₂⟩ := completes (s := typed 4) (i := .vadd 231 0 230) (by decide +kernel)
  obtain ⟨t₃, e₃⟩ := completes (s := base) (i := .pand 15 0 1) (by decide +kernel)
  obtain ⟨t₄, e₄⟩ := completes (s := typed 4) (i := .vcmpEq 15 231 230) (by decide +kernel)
  exact ⟨⟨.sadd, by simp [scalarTwoForms], _, t₁, 63, 62, 61, e₁⟩, ⟨.vadd, by simp [vectorForms], _, t₂, 231, 0, 230, e₂⟩,
    ⟨.pand, .inl rfl, _, t₃, 15, 0, 1, e₃⟩, ⟨.vcmpEq, .inl rfl, _, t₄, 15, 231, 230, e₄⟩⟩

/-- A device whose warp is about to enter a clause with a `nop` at word 1 (R228), or has the clause. -/
def entering (enter : Bool) : State :=
  let s := base.withFetchWord 32 0
  { s with w := { s.w with enter := enter, clause := if enter then 0 else 0x000FF00A } }
def issuing (enter : Bool) : State :=
  { tick (entering enter) with turn := (entering enter).turn - 1, b := { (tick (entering enter)).b with stuckSince := none } }

/-- A warp parked before a `nop`. -/
def waitingAt (p : Park) : State := { entering false with w := { (entering false).w with status := .parked p } }


theorem witness_StepRunsDecoded :
    (∀ enter : Bool, (entering enter).inbox = [] ∧ (entering enter).turn ≠ 0 ∧ mayIssue (issuing enter) = true ∧ (issuing enter).w.rap = false ∧
      (issuing enter).w.status = .running ∧ boundaryTrap (issuing enter) = none ∧ (issuing enter).w.enter = enter) ∧
    (decodeWord (currentWord (issuing false).w) = .ok .nop) ∧
    (∃ (t v : State) (c : BitVec 512), fetchClause (issuing true) (clauseVa (issuing true).w.pc).toNat = .ok (t, c) ∧ headerOk c = true ∧
      1 ≤ wordIndex (issuing true).w.pc ∧ wordIndex (issuing true).w.pc ≤ 15 - bitsNat c 9 3 ∧ v = { t with w := { t.w with clause := c, enter := false } } ∧
      flagsHold v.w = false ∧ decodeWord (currentWord v.w) = .ok .nop) ∧
    (∃ (s : State) (i : Instr), s.inbox = [i] ∧ encode i = none) ∧
    (∀ p : Park, p = .flags ∨ p = .storeQueue → ∃ s u : State, s.inbox = [] ∧ s.turn ≠ 0 ∧ u = { tick s with turn := s.turn - 1 } ∧ mayIssue u = true ∧
      u.w.rap = false ∧ u.w.status = .parked p ∧ boundaryTrap u = none ∧ u.w.enter = false ∧ flagsHold u.w = false ∧
      decodeWord (currentWord u.w) = .ok .nop) ∧
    (∃ s : State, s.inbox = [] ∧ s.turn = 0) := by
  refine ⟨fun enter => ?_, okEq (by decide +kernel), ?_, ⟨{ base with inbox := [.priorityAging] }, .priorityAging, rfl, by decide +kernel⟩, fun p h => ?_,
    ⟨{ base with turn := 0 }, by decide +kernel, by decide +kernel⟩⟩
  · have b : ∀ e, boundaryTrap (issuing e) = none := fun e => isNone (by cases e <;> decide +kernel)
    have m : ∀ e, (mayIssue (issuing e) && !(issuing e).w.rap && (issuing e).w.status = .running) = true := by decide +kernel
    have k := m enter
    simp only [Bool.and_eq_true, Bool.not_eq_true', decide_eq_true_eq] at k
    refine ⟨rfl, by cases enter <;> decide +kernel, k.1.1, k.1.2, k.2, b enter, by cases enter <;> rfl⟩
  · obtain ⟨⟨t, c⟩, e, h⟩ := okAnd_iff (r := fetchClause (issuing true) (clauseVa (issuing true).w.pc).toNat) (p := fun r =>
      headerOk r.2 && wordIndex (issuing true).w.pc ≤ 15 - bitsNat r.2 9 3 && !flagsHold { r.1.w with clause := r.2, enter := false } &&
        okAnd (decodeWord (currentWord { r.1.w with clause := r.2, enter := false })) fun i => i = .nop) (by decide +kernel)
    simp only [Bool.and_eq_true, Bool.not_eq_true', decide_eq_true_eq] at h
    exact ⟨t, _, c, e, h.1.1.1, by decide +kernel, h.1.1.2, rfl, h.1.2, okEq h.2⟩
  · rcases h with rfl | rfl
    · exact ⟨waitingAt .flags, _, by decide +kernel, by decide +kernel, rfl, by decide +kernel, by decide +kernel, by decide +kernel,
        isNone (by decide +kernel), by decide +kernel, by decide +kernel, okEq (by decide +kernel)⟩
    · exact ⟨waitingAt .storeQueue, _, by decide +kernel, by decide +kernel, rfl, by decide +kernel, by decide +kernel, by decide +kernel,
        isNone (by decide +kernel), by decide +kernel, by decide +kernel, okEq (by decide +kernel)⟩

theorem witness_EncodingRoundTrip : ∃ (i : Instr) (w : Word), i.wf = true ∧ encode i = some w ∧ i = .movi 231 0xFFFFF := by
  exact ⟨.movi 231 0xFFFFF, (encode (.movi 231 0xFFFFF)).getD 0, by decide +kernel, someOf (by decide +kernel), rfl⟩

theorem witness_DecodeExact : ∃ (w : Word) (i : Instr), decodeWord w = .ok i ∧ i = .movi 3 7 := ⟨0xF0300007#32, .movi 3 7, okEq (by decide +kernel), rfl⟩

theorem witness_StepKeepsMemory : ∃ s t : State, Memory.wf s.m = true ∧ step s = .next t ∧ s.m.cells ≠ [] := by
  obtain ⟨t, e, _⟩ := nextAnd_iff (o := step (entering true)) (p := fun _ => true) (by decide +kernel)
  exact ⟨entering true, t, by decide +kernel, e, by decide +kernel⟩

/-! ### Decoding: words put together from the fields of the opcode map (spec/10) -/

/-- Each word decodes to the instruction beside it. -/
def decodesTo (l : List (Word × Instr)) : Bool := l.all fun p => okAnd (decodeWord p.1) fun i => i = p.2

/-- R242, R243, R249, opcodes 0x00 to 0x02. -/
theorem test_decode_control : decodesTo (
    [(0x00000000, .nop), (0x00040000, .exit), (0x00080000, .yield), (0x000C02E9, .sleep 0x2e9), (0x00100000, .ret),
     (0x00169C00, .jmpi 0xa7), (0x001A9C00, .calli 0xa7), (0x001C02E9, .trap 0x2e9), (0x00200000, .tret), (0x00240000, .tattach),
     (0x00280000, .tdetach), (0x002E9C00, .ttrap 0xa7), (0x00329C00, .tdead 0xa7), (0x0670D6C0, .br 0x9c35 0xb),
     (0x0670D6C9, .brP 0x9c35 0xb 9), (0x0670D6D9, .brNp 0x9c35 0xb 9), (0x0670D6E6, .brZ 0x9c35 0xb 6),
     (0x0670D6F6, .brNz 0x9c35 0xb 6), (0x0A70D6C0, .call 0x9c35 0xb), (0x0A70D6C1, .rcv 0x9c35 0xb),
     (0x0A70D6C2, .rapent 0x9c35 0xb)]) = true := by decide +kernel

/-- R245, opcodes 0x03 to 0x04. -/
theorem test_decode_system_registers : decodesTo (
    [(0x0E9C0019, .rdsr 0xa7 0x19), (0x10029C11, .wrsr 0xa7 0x11)]) = true := by decide +kernel

/-- R244, R274 to R276, opcodes 0x05 to 0x0A. -/
theorem test_decode_scalar : decodesTo (
    [(0x169D6F98, .sadd 0xa7 0x5b 0xe6), (0x169D6F99, .ssub 0xa7 0x5b 0xe6), (0x169D6F9A, .smul 0xa7 0x5b 0xe6),
     (0x169D6F9B, .smulh 0xa7 0x5b 0xe6), (0x1A9D6F98, .sand 0xa7 0x5b 0xe6), (0x1A9D6F99, .sor 0xa7 0x5b 0xe6),
     (0x1A9D6F9A, .sxor 0xa7 0x5b 0xe6), (0x1A9D6F9B, .sandn 0xa7 0x5b 0xe6), (0x1E9D6F98, .sshl 0xa7 0x5b 0xe6),
     (0x1E9D6F99, .sshr 0xa7 0x5b 0xe6), (0x1E9D6F9A, .sasr 0xa7 0x5b 0xe6), (0x1E9D6F9B, .srot 0xa7 0x5b 0xe6),
     (0x229D6F98, .seq 0xa7 0x5b 0xe6), (0x229D6F99, .slt 0xa7 0x5b 0xe6), (0x229D6F9A, .sle 0xa7 0x5b 0xe6),
     (0x229D6F9B, .sne 0xa7 0x5b 0xe6), (0x269D6F98, .smin 0xa7 0x5b 0xe6), (0x269D6F99, .smax 0xa7 0x5b 0xe6),
     (0x269D6F9A, .sdiv 0xa7 0x5b 0xe6), (0x269D6F9B, .srem 0xa7 0x5b 0xe6), (0x2A9D6C00, .smov 0xa7 0x5b),
     (0x2A9D6C04, .snot 0xa7 0x5b), (0x2A9D6C08, .sneg 0xa7 0x5b), (0x2A9D6C10, .sclz 0xa7 0x5b)] ++
    [(0x2A9D6C14, .spopc 0xa7 0x5b), (0x2A9D6C18, .sbrev 0xa7 0x5b)]) = true := by decide +kernel

/-- R277, opcodes 0x0B to 0x0E. -/
theorem test_decode_vector_integer : decodesTo (
    [(0x2E9D6F98, .vadd 0xa7 0x5b 0xe6), (0x2E9D6F99, .vsub 0xa7 0x5b 0xe6), (0x2E9D6F9A, .vmul 0xa7 0x5b 0xe6),
     (0x2E9D6F9B, .vmulh 0xa7 0x5b 0xe6), (0x329D6F98, .vand 0xa7 0x5b 0xe6), (0x329D6F99, .vor 0xa7 0x5b 0xe6),
     (0x329D6F9A, .vxor 0xa7 0x5b 0xe6), (0x329D6F9B, .vandn 0xa7 0x5b 0xe6), (0x369D6F98, .vshl 0xa7 0x5b 0xe6),
     (0x369D6F99, .vshr 0xa7 0x5b 0xe6), (0x369D6F9A, .vasr 0xa7 0x5b 0xe6), (0x369D6F9B, .vrot 0xa7 0x5b 0xe6),
     (0x3A9D6F98, .vmin 0xa7 0x5b 0xe6), (0x3A9D6F99, .vmax 0xa7 0x5b 0xe6), (0x3A9D6F9A, .vabsd 0xa7 0x5b 0xe6),
     (0x3A9D6F9B, .vmadi 0xa7 0x5b 0xe6)]) = true := by decide +kernel

/-- R244, R273, opcodes 0x0F to 0x10. -/
theorem test_decode_compare_and_unary : decodesTo (
    [(0x3C1D6F98, .vcmpEq 7 0x5b 0xe6), (0x3C1D6F99, .vcmpLt 7 0x5b 0xe6), (0x3C1D6F9A, .vcmpLe 7 0x5b 0xe6),
     (0x3C1D6F9B, .vcmpNe 7 0x5b 0xe6), (0x429D6C00, .vmov 0xa7 0x5b), (0x429D6C04, .vnot 0xa7 0x5b), (0x429D6C08, .vneg 0xa7 0x5b),
     (0x429D6C0C, .vabs 0xa7 0x5b), (0x429D6C10, .vclz 0xa7 0x5b), (0x429D6C14, .vpopc 0xa7 0x5b), (0x429D6C18, .vbrev 0xa7 0x5b),
     (0x429D6C20, .vfneg 0xa7 0x5b), (0x429D6C24, .vfabs 0xa7 0x5b), (0x429D6C28, .vrcp 0xa7 0x5b), (0x429D6C2C, .vrsqrt 0xa7 0x5b),
     (0x429D6C30, .vsqrt 0xa7 0x5b), (0x429D6C34, .vexp2 0xa7 0x5b), (0x429D6C38, .vlog2 0xa7 0x5b), (0x429D6C3C, .vsin 0xa7 0x5b),
     (0x429D6C40, .vcos 0xa7 0x5b), (0x429D6C44, .vtanh 0xa7 0x5b)]) = true := by decide +kernel

/-- R279, R280, opcodes 0x11 to 0x12. -/
theorem test_decode_vector_float : decodesTo (
    [(0x469D6F98, .vfadd 0xa7 0x5b 0xe6), (0x469D6F99, .vfsub 0xa7 0x5b 0xe6), (0x469D6F9A, .vfmul 0xa7 0x5b 0xe6),
     (0x469D6F9B, .vfmin 0xa7 0x5b 0xe6), (0x4A9D6F98, .vfmad 0xa7 0x5b 0xe6), (0x4A9D6F99, .vfmac 0xa7 0x5b 0xe6),
     (0x4A9D6F9A, .vfnmac 0xa7 0x5b 0xe6), (0x4A9D6F9B, .vfmax 0xa7 0x5b 0xe6)]) = true := by decide +kernel

/-- R283 to R289, opcodes 0x13 to 0x15. -/
theorem test_decode_convert_and_exchange : decodesTo (
    [(0x4E9D6D88, .vcvt 0xa7 0x5b 6 2), (0x4E9D6C01, .vmxscale 0xa7 0x5b), (0x4E9D6F9A, .vmxq 0xa7 0x5b 0xe6),
     (0x4E9D6F9B, .vmxdq 0xa7 0x5b 0xe6), (0x529D6F98, .vshflIdx 0xa7 0x5b 0xe6), (0x529D6F99, .vshflUp 0xa7 0x5b 0xe6),
     (0x529D6F9A, .vshflDown 0xa7 0x5b 0xe6), (0x529D6F9B, .vshflXor 0xa7 0x5b 0xe6), (0x569D6C94, .vbcast 0xa7 0x5b 0x25),
     (0x569D6C01, .vs2v 0xa7 0x5b), (0x569D6CFE, .v2s 0xa7 0x5b 0x3f)]) = true := by decide +kernel

/-- R290 to R292, opcodes 0x16 to 0x18. -/
theorem test_decode_vote_scan_reduce : decodesTo (
    [(0x581C2C00, .voteAny 7 0xb), (0x581C2C01, .voteAll 7 0xb), (0x5A9C2C02, .voteBallot 0xa7 0xb), (0x581D6C03, .voteUni 7 0x5b),
     (0x5E9D6C00, .vscanAdd 0xa7 0x5b), (0x5E9D6C01, .vscanMin 0xa7 0x5b), (0x5E9D6C02, .vscanMax 0xa7 0x5b),
     (0x5E9D6C03, .vscanOr 0xa7 0x5b), (0x629D6C00, .vreduceAdd 0xa7 0x5b), (0x629D6C01, .vreduceMin 0xa7 0x5b),
     (0x629D6C02, .vreduceMax 0xa7 0x5b), (0x629D6C03, .vreduceOr 0xa7 0x5b)]) = true := by decide +kernel

/-- R271, R272, R293, opcodes 0x19 to 0x1B. -/
theorem test_decode_mask_and_predicate : decodesTo (
    [(0x641D6C00, .mset 7 0x5b), (0x669C2C01, .mget 0xa7 0xb), (0x64029C02, .msetx 0xa7), (0x669C0003, .mgetx 0xa7),
     (0x681C2C18, .pand 7 0xb 6), (0x681C2C19, .por 7 0xb 6), (0x681C2C1A, .pxor 7 0xb 6), (0x681C2C1B, .pandn 7 0xb 6),
     (0x6C029D6C, .reord 0xa7 0x5b)]) = true := by decide +kernel

/-- R234, R237, opcodes 0x1C to 0x24. -/
theorem test_decode_loads_and_stores : decodesTo (
    [(0x729D6DAD, .ldv 0xa7 0x5b 6 2 1 5), (0x769D6DAD, .gather 0xa7 0x5b 6 2 1 5), (0x7A9D6DAD, .stv 0xa7 0x5b 6 2 1 5),
     (0x7E9D6DAD, .scatter 0xa7 0x5b 6 2 1 5), (0x829D6C2D, .ldc 0xa7 0x5b 2 1 5), (0x869D6DAD, .sld 0xa7 0x5b 6 2 1 5),
     (0x8A9D6DAD, .sst 0xa7 0x5b 6 2 1 5), (0x8E9D6DAD, .lda 0xa7 0x5b 6 2 1 5), (0x929D6DAD, .stl 0xa7 0x5b 6 2 1 5)]) = true := by decide +kernel

/-- R304 to R309, opcodes 0x25 to 0x26. -/
theorem test_decode_tiles_and_handles : decodesTo (
    [(0x969D6D80, .tld 0xa7 0x5b 6), (0x969D6D90, .tst 0xa7 0x5b 6), (0x981D6C00, .hbind 7 0x5b), (0x981D6D00, .hset 7 0x5b),
     (0x9A9C02BA, .hqry 0xa7 0xb 0xa)]) = true := by decide +kernel

/-- R311 to R317, opcodes 0x27 to 0x28. -/
theorem test_decode_memory_control_and_fences : decodesTo (
    [(0x9E9D6C18, .pref 0xa7 0x5b 6), (0x9E9D6C58, .flush 0xa7 0x5b 6), (0x9E9D6C98, .inval 0xa7 0x5b 6),
     (0x9E9D6CD8, .pub 0xa7 0x5b 6), (0x9E9D6D18, .smap 0xa7 0x5b 6), (0x9C029D40, .sunmap 0xa7), (0xA0000000, .fenceWarp),
     (0xA0000001, .fenceBlk), (0xA0000002, .fenceDev), (0xA0000003, .fenceGang), (0xA0000004, .fenceSys), (0xA0000005, .fenceXp)]) = true := by decide +kernel

/-- R246, opcodes 0x29 to 0x2A. -/
theorem test_decode_atomics : decodesTo (
    [(0xA69D6D82, .atomAdd 0xa7 0x5b 6 0 2), (0xA69D6D8A, .atomMin 0xa7 0x5b 6 0 2), (0xA69D6D92, .atomMax 0xa7 0x5b 6 0 2),
     (0xA69D6D9A, .atomAnd 0xa7 0x5b 6 0 2), (0xA69D6DA2, .atomOr 0xa7 0x5b 6 0 2), (0xA69D6DAA, .atomXor 0xa7 0x5b 6 0 2),
     (0xA69D6DB2, .atomXchg 0xa7 0x5b 6 0 2), (0xA69D6DBA, .atomCas 0xa7 0x5b 6 0 2), (0xAA9D6D82, .redAdd 0xa7 0x5b 6 0 2),
     (0xAA9D6D8A, .redMin 0xa7 0x5b 6 0 2), (0xAA9D6D92, .redMax 0xa7 0x5b 6 0 2), (0xAA9D6D9A, .redAnd 0xa7 0x5b 6 0 2),
     (0xAA9D6DA2, .redOr 0xa7 0x5b 6 0 2), (0xAA9D6DAA, .redXor 0xa7 0x5b 6 0 2)]) = true := by decide +kernel

/-- R323 to R329, opcodes 0x2B to 0x2E. -/
theorem test_decode_barriers_and_claims : decodesTo (
    [(0xAE9D6C60, .barArrive 0xa7 0x5b 6), (0xAE9D6D60, .barWait 0xa7 0x5b 6), (0xAE9D6E60, .barArriveN 0xa7 0x5b 6),
     (0xB0029C00, .rclm 0xa7), (0xB0029D00, .rrel 0xa7), (0xB29C0200, .rqry 0xa7), (0xB29C0300, .rqpool 0xa7),
     (0xB41D6C00, .qpush 7 0x5b), (0xB69D6D60, .kvxs 0xa7 0x5b 6), (0xBA9D6D80, .kvx 0xa7 0x5b 6)]) = true := by decide +kernel

/-- R330, opcodes 0x2F to 0x33. -/
theorem test_decode_remote : decodesTo (
    [(0xBE9D6F9A, .rld 0xa7 0x5b 0xe6 2), (0xC29D6F9A, .rst 0xa7 0x5b 0xe6 2), (0xC69D6F9A, .ratom 0xa7 0x5b 0xe6 2),
     (0xCA9D6F9A, .rred 0xa7 0x5b 0xe6 2), (0xCE9D6F9A, .mcst 0xa7 0x5b 0xe6 2)]) = true := by decide +kernel

/-- R247, R346, opcodes 0x34 to 0x35. -/
theorem test_decode_matrix : decodesTo (
    [(0xD3B60802, .mma 3 0xb 6 2 0 1), (0xD3B60806, .mmat 3 0xb 6 2 0 1), (0xD3B6080A, .mmap 3 0xb 6 2 0 1), (0xD7000000, .accz 3),
     (0xD7B09801, .accld 3 0xb 0x26), (0xD7B09802, .accst 3 0xb 0x26), (0xD7006C03, .accg 3 0x1b), (0xD7006C04, .accmax 3 0x1b),
     (0xD7006C05, .accexp 3 0x1b), (0xD7039806, .accsum 3 3 0x26)]) = true := by decide +kernel

/-- R248, opcodes 0x36 to 0x37. -/
theorem test_decode_engines : decodesTo (
    [(0xD80676E6, .cpy 0x27 0x1b 0x26), (0xD80E76E6, .gath 0x27 0x1b 0x26), (0xD81676E6, .scat 0x27 0x1b 0x26),
     (0xD81DB982, .tcpy 1 0x1b 0x26 2), (0xD82676E6, .fill 0x27 0x1b 0x26), (0xD82E76E6, .tdec 0x27 0x1b 0x26),
     (0xD88676E6, .encv 0x27 0x1b 0x26), (0xD88E76E6, .encc 0x27 0x1b 0x26), (0xD89676E6, .encvp 0x27 0x1b 0x26),
     (0xD89E76E6, .enccp 0x27 0x1b 0x26), (0xD90676E6, .migp 0x27 0x1b 0x26), (0xD90DB982, .migb 1 0x1b 0x26 2),
     (0xD985B982, .avdec 1 0x1b 0x26 2), (0xDA0676E6, .cbcast 0x27 0x1b 0x26), (0xDA0E76E6, .creduce 0x27 0x1b 0x26),
     (0xDA1676E6, .callred 0x27 0x1b 0x26), (0xDA1E76E6, .cgath 0x27 0x1b 0x26), (0xDA8676C0, .tdef 0x27 0x1b),
     (0xDA8DB980, .trel 1 0x1b 0x26), (0xDA95B980, .trdy 1 0x1b 0x26), (0xDA9DB980, .tdrn 1 0x1b 0x26), (0xDAA676C0, .tqry 0x27 0x1b),
     (0xDC029C1B, .ctload 0xa7 0x1b), (0xDC029D1B, .ctsave 0xa7 0x1b)] ++
    [(0xDC000227, .ctinv 0x27)]) = true := by decide +kernel

/-- R238, opcodes 0x38 to 0x3F. -/
theorem test_decode_immediates : decodesTo (
    [(0xEA7B70C5, .smovi 0xa7 0xb70c5), (0xFA7B70C5, .movi 0xa7 0xb70c5)]) = true := by decide +kernel

/-- R239, order 1 and 2: a function that no row of the map has, and a field that must be zero. The word 0x00340000 and the clause header read as
a word are the clause example's (spec/10). -/
theorem test_decode_refuses :
    [0x00340000#32, 0x0800000F, 0x28000014 + 8, 0x4000001C, 0x54000003, 0xA0000006, 0xA8000030, 0xD4000007, 0xD8000000 + 2 ^ 21].all (fun w =>
      match decodeWord w with | .error _ => true | .ok _ => false) = true ∧
    decodeWord 0x00340000 = .error .reservedCode ∧ decodeWord 0x00010000 = .error .nonZeroField ∧ decodeWord 0x54000900 = .error .reservedCode := by
  refine ⟨by decide +kernel, ?_, ?_, ?_⟩ <;> decide +kernel
/-! ### WellFormed refuses an ill-formed term of each of its checks -/

/-- R243: the conditional form on p0. R245: special registers 0 to 25. R289: lanes 0 to 63. R309: queries 0 to 10. -/
theorem test_wf_codes :
    [Instr.brP 0 1 0, .rdsr 0 26, .wrsr 0 26, .vbcast 0 0 64, .v2s 0 0 64, .hqry 0 0 11].all (fun i => !i.wf) = true := by decide +kernel

/-- R237: an index of 64 bits is not sign-extended, in each form of the format. -/
theorem test_wf_index :
    [Instr.ldv 0 0 0 3 1 0, .gather 0 0 0 3 1 0, .stv 0 0 0 3 1 0, .scatter 0 0 0 3 1 0, .ldc 0 0 3 1 0, .sld 0 0 0 3 1 0, .sst 0 0 0 3 1 0,
      .lda 0 0 0 3 1 0, .stl 0 0 0 3 1 0].all (fun i => !i.wf) = true := by decide +kernel

/-- R246: a reduction is relaxed or a release. -/
theorem test_wf_order :
    [Instr.redAdd 0 0 0 0 1, .redMin 0 0 0 0 3, .redMax 0 0 0 0 1, .redAnd 0 0 0 0 3, .redOr 0 0 0 0 1, .redXor 0 0 0 0 3].all (fun i => !i.wf) = true := by
  decide +kernel

/-- R248: without a reply the destination is zero. -/
theorem test_wf_reply :
    [Instr.tcpy 0 1 0 0, .migb 0 1 0 0, .avdec 0 1 0 0, .trel 0 1 0, .trdy 0 1 0, .tdrn 0 1 0].all (fun i => !i.wf) = true := by decide +kernel

/-- R5: 160 cores, 640 engines, 36 ports. -/
theorem test_wf_units :
    [Instr.rclmGrant 160, .engineGate 640, .rekey 36, .keyrdy 36, .retire 36, .nak 36 0, .linkDown 36, .linkTrain 36 0].all (fun i => !i.wf) = true ∧
      ∀ a b c, (Instr.flit 36 a b c).wf = false := by
  exact ⟨by decide +kernel, fun _ _ _ => rfl⟩
/-! ### One instruction at a time, against the worked examples and tables of spec/ -/

/-- MODE from its element type, rounding and saturation (R190). -/
def modal (et : BitVec 4) (rm : Nat) (sat : Bool) : State :=
  at_ fun w => { w with mode := BitVec.ofNat 32 (2 ^ 5 * et.toNat + 2 ^ 9 * rm + 2 ^ 11 * sat.toNat) }
/-- Scalars s0 and s1. -/
def scalars (a b : DWord) (s : State) : State := { s with w := setS (setS s.w 0 ⟨a, false⟩) 1 ⟨b, false⟩ }
/-- A vector register from its first lanes; the other lanes are zero. -/
def vector (n : Fin 232) (l : List Word) (s : State) : State :=
  { s with w := setV s.w n (BitVec.allOnes 64) fun k => ⟨l[k.val]?.getD 0#32, false⟩ }
/-- The instruction completes and leaves a value in a scalar; in a vector lane. -/
def leavesS (i : Instr) (s : State) (n : Fin 64) (v : DWord) : Bool := nextAnd (exec i s) fun t => sReg t.w n = ⟨v, false⟩
def leavesV (i : Instr) (s : State) (n : Fin 232) (l : Fin 64) (v : Word) : Bool := nextAnd (exec i s) fun t => vLane t.w n l = ⟨v, false⟩
/-- A one-source vector form on one value, and a two-source form on two, in lane 0. -/
def oneV (f : Byte → Byte → Instr) (s : State) (a v : Word) : Bool := leavesV (f 2 0) (vector 0 [a] s) 2 0 v
def twoV (f : Byte → Byte → Byte → Instr) (s : State) (a b v : Word) : Bool := leavesV (f 2 0 1) (vector 1 [b] (vector 0 [a] s)) 2 0 v
/-- A two-source scalar form on two values. -/
def twoS (f : Byte → Byte → Byte → Instr) (s : State) (a b v : DWord) : Bool := leavesS (f 2 0 1) (scalars a b s) 2 v
def oneS (f : Byte → Byte → Instr) (s : State) (a v : DWord) : Bool := leavesS (f 2 0) (scalars a 0 s) 2 v

/-- R190: the MODE value of spec/01's example. -/
theorem test_mode_fields :
    let w := { Warp.empty with mode := 0x04029140#32 }
    modePw w = 4 ∧ modeCmp w = false ∧ modeCb w = 1 ∧ modeDs w = 2#3 ∧ modeSp w = false ∧ modeFtz w = true ∧ modeSat w = false ∧
      modeEt w = Elem.ofCode 10#4 := by decide +kernel

/-- R274: sums wrap under SAT 0 and saturate under SAT 1; the high half of a product. -/
theorem test_scalar_arithmetic :
    (twoS .sadd (modal 0 0 false) 0xFFFFFFFFFFFFFFFF 1 0 && twoS .sadd (modal 5 0 true) 0x7FFFFFFFFFFFFFFF 1 0x7FFFFFFFFFFFFFFF &&
      twoS .ssub (modal 0 0 false) 3 5 0xFFFFFFFFFFFFFFFE && twoS .ssub (modal 0 0 true) 3 5 0 &&
      twoS .smul (modal 0 0 false) 0x8000000000000000 2 0 && twoS .smulh (modal 0 0 false) 0xFFFFFFFFFFFFFFFF 0xFFFFFFFFFFFFFFFF 0xFFFFFFFFFFFFFFFE &&
      twoS .smulh (modal 5 0 false) 0xFFFFFFFFFFFFFFFF 0xFFFFFFFFFFFFFFFF 0) = true := by decide +kernel

/-- R274: the bit groups and the shifts by b[5:0]. -/
theorem test_scalar_bits :
    (twoS .sand base 0xF0 0x3C 0x30 && twoS .sor base 0xF0 0x3C 0xFC && twoS .sxor base 0xF0 0x3C 0xCC && twoS .sandn base 0xFF 0x0F 0xF0 &&
      twoS .sshl base 1 65 2 && twoS .sshr base 0x8000000000000000 63 1 && twoS .sasr base 0x8000000000000000 63 0xFFFFFFFFFFFFFFFF &&
      twoS .srot base 0x8000000000000001 1 3) = true := by decide +kernel

/-- R274: comparisons and extremes by the signedness of MODE.ET. -/
theorem test_scalar_compare :
    (twoS .seq base 7 7 1 && twoS .sne base 7 7 0 && twoS .sle base 7 7 1 && twoS .slt (modal 5 0 false) 0xFFFFFFFFFFFFFFFF 0 1 &&
      twoS .slt (modal 4 0 false) 0xFFFFFFFFFFFFFFFF 0 0 && twoS .smin (modal 5 0 false) 0xFFFFFFFFFFFFFFFF 0 0xFFFFFFFFFFFFFFFF &&
      twoS .smax (modal 5 0 false) 0xFFFFFFFFFFFFFFFF 0 0) = true := by decide +kernel

/-- R275: quotients toward zero, division by zero, and the one overflow. -/
theorem test_scalar_division :
    (twoS .sdiv base 5 0 0xFFFFFFFFFFFFFFFF && twoS .srem base 5 0 5 && twoS .sdiv (modal 5 0 false) 0xFFFFFFFFFFFFFFF9 2 0xFFFFFFFFFFFFFFFD &&
      twoS .srem (modal 5 0 false) 0xFFFFFFFFFFFFFFF9 2 0xFFFFFFFFFFFFFFFF &&
      twoS .sdiv (modal 5 0 false) 0x8000000000000000 0xFFFFFFFFFFFFFFFF 0x8000000000000000 &&
      twoS .sdiv (modal 5 0 true) 0x8000000000000000 0xFFFFFFFFFFFFFFFF 0x7FFFFFFFFFFFFFFF &&
      twoS .srem (modal 5 0 false) 0x8000000000000000 0xFFFFFFFFFFFFFFFF 0) = true := by decide +kernel

/-- R276. -/
theorem test_scalar_unary :
    (oneS .smov base 9 9 && oneS .snot base 0 0xFFFFFFFFFFFFFFFF && oneS .sneg base 1 0xFFFFFFFFFFFFFFFF && oneS .sclz base 0 64 && oneS .sclz base 1 63 &&
      oneS .spopc base 0xF0F0 8 && oneS .sbrev base 1 0x8000000000000000) = true := by decide +kernel

/-- R259, R263, R277, R278: the examples of spec/11 under S8 and S32, and the width in a shift. -/
theorem test_vector_integer :
    (twoV .vadd (modal 1 0 false) 100 80 0xFFFFFFB4 && twoV .vadd (modal 1 0 true) 100 80 0x7F && twoV .vabsd (modal 1 0 false) 0x80 0x7F 0xFF &&
      oneV .vabs (modal 5 0 false) 0x80000000 0x80000000 && oneV .vabs (modal 5 0 true) 0x80000000 0x7FFFFFFF &&
      twoV .vsub (modal 0 0 false) 0 1 0xFF && twoV .vmul (modal 3 0 false) 0xFFFF 2 0xFFFFFFFE && twoV .vmulh (modal 0 0 false) 0xFF 0xFF 0xFE &&
      twoV .vshl (modal 0 0 false) 0x81 9 2 && twoV .vasr (modal 1 0 false) 0x80 7 0xFFFFFFFF && twoV .vshr (modal 1 0 false) 0x80 7 1 &&
      twoV .vrot (modal 0 0 false) 0x81 1 3 && twoV .vmin (modal 1 0 false) 0x80 0 0xFFFFFF80 && twoV .vmax (modal 0 0 false) 0x80 0 0x80) = true := by
  decide +kernel

/-- R277, R278: the bit forms on the width of MODE.ET; vmadi reads its destination. -/
theorem test_vector_bits :
    (twoV .vandn (modal 4 0 false) 0xFF 0x0F 0xF0 && twoV .vxor (modal 4 0 false) 0xF0 0x3C 0xCC && oneV .vclz (modal 0 0 false) 1 7 &&
      oneV .vpopc (modal 2 0 false) 0xFFFFF 16 && oneV .vbrev (modal 0 0 false) 1 0x80 && oneV .vnot (modal 0 0 false) 0 0xFF &&
      oneV .vneg (modal 1 0 false) 1 0xFFFFFFFF &&
      leavesV (.vmadi 2 0 1) (vector 2 [10] (vector 1 [4] (vector 0 [3] (modal 4 0 false)))) 2 0 22) = true := by decide +kernel

/-- R279: the special cases. -/
theorem test_float_arithmetic :
    (twoV .vfadd (modal 10 0 false) 0x3F800000 0x40000000 0x40400000 && twoV .vfsub (modal 10 0 false) 0x7F800000 0x7F800000 0x7FC00000 &&
      twoV .vfmul (modal 10 0 false) 0 0x7F800000 0x7FC00000 && twoV .vfmin (modal 10 0 false) 0 0x80000000 0x80000000 &&
      twoV .vfmax (modal 10 0 false) 0x80000000 0 0 && twoV .vfmax (modal 10 0 false) 0x7FC00000 0x3F800000 0x3F800000) = true := by decide +kernel

/-- R280: one rounding or two (the example of spec/11), under RNE, RDN and RUP. -/
def fused (rm : Nat) : State := vector 4 [0xBF801000] (vector 3 [0x3F800800] (vector 2 [0x3F800800] (modal 10 rm false)))
theorem test_fused :
    (leavesV (.vfmad 4 2 3) (fused 0) 4 0 0 && leavesV (.vfmac 4 2 3) (fused 0) 4 0 0x33800000 && leavesV (.vfmad 4 2 3) (fused 2) 4 0 0x80000000 &&
      leavesV (.vfmac 4 2 3) (fused 2) 4 0 0x33800000 && leavesV (.vfmad 4 2 3) (fused 3) 4 0 0x34000000 &&
      leavesV (.vfmac 4 2 3) (fused 3) 4 0 0x33800000) = true := by decide +kernel

/-- R281, R282: exact results and special inputs. -/
theorem test_float_unary :
    (oneV .vsqrt (modal 10 0 false) 0x40800000 0x40000000 && oneV .vrsqrt (modal 10 0 false) 0x40800000 0x3F000000 &&
      oneV .vrcp (modal 10 0 false) 0x80000000 0xFF800000 && oneV .vexp2 (modal 10 0 false) 0x40400000 0x41000000 &&
      oneV .vlog2 (modal 10 0 false) 0x41000000 0x40400000 && oneV .vsin (modal 10 0 false) 0x80000000 0x80000000 &&
      oneV .vcos (modal 10 0 false) 0x3F000000 0 && oneV .vtanh (modal 10 0 false) 0xFF800000 0xBF800000 &&
      oneV .vfneg (modal 10 0 false) 0x7FC00001 0xFFC00001 && oneV .vfabs (modal 10 0 false) 0xBF800000 0x3F800000) = true := by decide +kernel

/-- R284's rows: 500.0, 65,520.0, -0.3, 3.7, 300.0, -200, 0.3 and NaN. -/
theorem test_convert :
    (oneV (.vcvt · · 12 10) (modal 0 0 false) 0x43FA0000 0x7F && oneV (.vcvt · · 12 10) (modal 0 0 true) 0x43FA0000 0x7E &&
      oneV (.vcvt · · 12 10) (modal 0 1 false) 0x43FA0000 0x7E && oneV (.vcvt · · 8 10) (modal 0 0 false) 0x477FF000 0x7C00 &&
      oneV (.vcvt · · 8 10) (modal 0 0 true) 0x477FF000 0x7BFF && oneV (.vcvt · · 14 10) (modal 0 0 false) 0xBE99999A 9 &&
      oneV (.vcvt · · 1 10) (modal 0 0 false) 0x406CCCCD 4 && oneV (.vcvt · · 1 10) (modal 0 2 false) 0x406CCCCD 3 &&
      oneV (.vcvt · · 1 10) (modal 0 0 false) 0x43960000 0x7F && oneV (.vcvt · · 1 5) (modal 0 0 false) 0xFFFFFF38 0x38 &&
      oneV (.vcvt · · 1 5) (modal 0 0 true) 0xFFFFFF38 0xFFFFFF80 && oneV (.vcvt · · 15 10) (modal 0 0 false) 0x3E99999A 0x13 &&
      oneV (.vcvt · · 5 10) (modal 0 0 false) 0x7FC00000 0) = true := by decide +kernel

/-- R83, R285, R286, R287: the value-mode example of spec/04. -/
theorem test_quantise :
    (leavesV (.vmxscale 2 0) (vector 0 [0x40400000, 0x40666666, 0xC039999A, 0x3C23D70A, 0x38D1B717, 0x33D6BF95] (modal 12 0 false)) 2 31 0x78 &&
      twoV .vmxq (modal 12 0 false) 0x40666666 0x78 0x7E && twoV .vmxq (modal 12 0 false) 0x40400000 0x78 0x7C &&
      twoV .vmxq (modal 12 0 false) 0xC039999A 0x78 0xFC && twoV .vmxq (modal 12 0 false) 0x3C23D70A 0x78 0x3A &&
      twoV .vmxq (modal 12 0 false) 0x38D1B717 0x78 7 && twoV .vmxq (modal 12 0 false) 0x33D6BF95 0x78 0 &&
      twoV .vmxdq (modal 12 0 false) 0x7E 0x78 0x40600000 && twoV .vmxdq (modal 12 0 false) 0x7E 0xFF 0x7FC00000) = true := by decide +kernel

/-- R291, R292: the scan and the reduction of spec/11's example, EXEC 0xF and 0xD. -/
def summed (exec : Mask) : State :=
  let s := vector 6 [0x4B800000, 0x3F800000, 0x3F800000, 0x3F800000] (modal 10 0 false)
  { s with w := { s.w with exec := exec } }
theorem test_scan_reduce :
    (leavesV (.vscanAdd 7 6) (summed 0xF) 7 3 0x4B800000 && leavesV (.vreduceAdd 8 6) (summed 0xF) 8 0 0x4B800001 &&
      leavesV (.vreduceAdd 8 6) (summed 0xD) 8 2 0x4B800001 && leavesV (.vreduceAdd 8 6) (summed 0xD) 8 1 0 &&
      leavesV (.vreduceAdd 8 6) (summed 0x7) 8 2 0x4B800000) = true := by decide +kernel

/-- R288, R289: lanes exchanged; a lane without a source keeps its own. -/
theorem test_exchange :
    let s := vector 1 (List.replicate 64 1) (vector 0 ((List.range 64).map (BitVec.ofNat 32)) (modal 4 0 false))
    (leavesV (.vshflUp 2 0 1) s 2 0 0 && leavesV (.vshflUp 2 0 1) s 2 63 62 && leavesV (.vshflDown 2 0 1) s 2 63 63 && leavesV (.vshflXor 2 0 1) s 2 62 63 &&
      leavesV (.vshflIdx 2 0 1) s 2 40 1 && leavesV (.vbcast 2 0 63) s 2 5 63 && leavesS (.v2s 2 0 63) s 2 63 &&
      leavesV (.vs2v 2 3) { s with w := setS s.w 3 ⟨0x1_00000007, false⟩ } 2 9 7) = true := by decide +kernel

/-- R238: the immediate of spec/10's example under F32 and S32; sign extension of 0xFFFFD (spec/11's example). -/
theorem test_immediates :
    (leavesV (.movi 3 0x3DCCC) (modal 10 0 false) 3 0 0x3DCCC000 && leavesV (.movi 3 0x3DCCC) (modal 5 0 false) 3 0 0x0003DCCC &&
      leavesV (.movi 3 0xFFFFD) (modal 0 0 false) 3 0 0xFFFFFFFD) = true := by decide +kernel

/-- A predicate of the 64 lanes. -/
def predicate (n : BitVec 4) (v : BitVec 64) (s : State) : State := { s with w := setP s.w n (BitVec.allOnes 64) fun l => ⟨v.getLsbD l, false, 0⟩ }

/-- The set lanes of a predicate. -/
def predMask (w : Warp) (n : BitVec 4) : Mask := laneMask fun l => (predLane w n l).bit

/-- R271, R272, R290: EXEC stays within M; masks and votes. -/
theorem test_masks :
    (nextAnd (exec (.msetx 0) (scalars 0xFF 0 (at_ fun w => { w with m := 0xF0 }))) (fun t => t.w.exec = 0xF0) &&
      leavesS (.mgetx 2) (at_ fun w => { w with exec := 0xAB }) 2 0xAB && leavesS (.mget 2 1) (predicate 1 0x8000000000000001 base) 2 0x8000000000000001 &&
      nextAnd (exec (.mset 1 0) (scalars 0x5555 0 base)) (fun t => predMask t.w 1 = 0x5555) &&
      nextAnd (exec (.pandn 3 1 2) (predicate 2 0x0F (predicate 1 0xFF base))) (fun t => predMask t.w 3 = 0xF0) &&
      leavesS (.voteBallot 2 1) (predicate 1 0xFFFF (at_ fun w => { w with exec := 0xFF00 })) 2 0xFF00 &&
      nextAnd (exec (.voteAll 3 1) (predicate 1 0xFFFF (at_ fun w => { w with exec := 0x1FF00 }))) (fun t => predMask t.w 3 = 0)) = true := by
  decide +kernel

/-- R264, R265: the two-way split of spec/11's example: p1 holds the even lanes, the branch stands at word 5 and RP at word 9. -/
def splitting (rp : Option VA) : State :=
  let s := handled (predicate 1 0x5555555555555555 base)
  { s with w := { s.w with pc := 0x10014, rp := rp, clause := 0x0F20A } }
theorem test_split :
    (nextAnd (exec (.rcv 0 9) (splitting none)) (fun t => t.w.rp = some 0x10024 && t.w.pc = 0x10018) &&
      nextAnd (exec (.brP 0 8 1) (splitting (some 0x10024))) (fun t => t.w.exec = 0xAAAAAAAAAAAAAAAA && t.w.stack.length = 2 && t.w.pc = 0x10018 && t.w.rp = none) &&
      nextAnd (exec (.brP 0 8 1) (splitting none)) (fun t => t.w.pc = 0x2004 && recCode t.w.faultSlot = cIllegalInstruction &&
        recDetail t.w.faultSlot = 0x20 && t.w.exec = BitVec.allOnes 64)) = true := by decide +kernel

/-- R190, R375: the MODE of spec/01's example is written whole; one with a reserved scope faults and leaves MODE. -/
theorem test_wrsr_mode :
    (nextAnd (exec (.wrsr 0 1) (scalars 0x04029140 0 (handled base))) (fun t => t.w.mode = 0x04029140) &&
      nextAnd (exec (.wrsr 0 1) (scalars 0x0403D140 0 (handled base))) (fun t => t.w.mode = 0 && recCode t.w.faultSlot = cIllegalInstruction)) = true := by
  decide +kernel

/-- One instruction, then an event of its warp. -/
def then_ (i e : Instr) (s : State) (p : State → Bool) : Bool := nextAnd (exec i s) fun t => nextAnd (exec e t) p

/-- R319: spec/12's example on an SC page, lanes 0 to 3 adding 1, 2, 3 and 4 to the word at offset 20, which holds 10: the lanes return 10, 11, 13
and 16, and the word holds 20. On an IP page every lane receives poison (R320, R321). -/
def counted (attr : BitVec 2) : State :=
  let s := vector 10 [5, 5, 5, 5] (vector 30 [1, 2, 3, 4] (filled attr 0x10014 10 4))
  { s with w := { s.w with wid := 1, exec := 0xF, mode := 0xA0 } }
theorem test_atomic :
    (then_ (.atomAdd 30 10 15 0 0) (.loadComplete 1 0) (counted aSc) (fun t => vLane t.w 30 0 = ⟨10, false⟩ && vLane t.w 30 1 = ⟨11, false⟩ &&
        vLane t.w 30 2 = ⟨13, false⟩ && vLane t.w 30 3 = ⟨16, false⟩ && cellGet t.m.cells 0x10014 = 20#8) &&
      then_ (.atomAdd 30 10 15 0 0) (.loadComplete 1 0) (counted aIp) (fun t => (vLane t.w 30 2).poison && cellGet t.m.cells 0x10014 = 10#8)) = true := by
  decide +kernel

/-- R299, R14: a 32-bit load of lanes 0 and 1 is little-endian; a store leaves memory alone until it is performed. -/
def accessing : State :=
  let s := vector 3 [0x11223344, 0x55667788] (filled aRc 0x10000 0xDDCCBBAA99887766 8)
  { s with w := { s.w with wid := 1, exec := 3, mode := 0x80 } }
theorem test_load_store :
    (then_ (.ldv 2 0 15 2 0 0) (.loadComplete 1 0) accessing (fun t => vLane t.w 2 0 = ⟨0x99887766, false⟩ && vLane t.w 2 1 = ⟨0xDDCCBBAA, false⟩) &&
      nextAnd (exec (.stv 3 0 15 2 0 0) accessing) (fun t => t.m.cells = accessing.m.cells && t.w.stores.length = 1) &&
      then_ (.stv 3 0 15 2 0 0) (.storePerformed 1) accessing (fun t => cellGet t.m.cells 0x10000 = 0x44 && cellGet t.m.cells 0x10007 = 0x55)) = true := by
  decide +kernel

/-- R373, R383, R386: a trap's handler is entered with SOFTWARE_TRAP; tret returns to the word that the entry holds. -/
theorem test_trap_return :
    (nextAnd (exec (.trap 5) (handled base)) (fun t => t.w.pc = 0x2004 && t.w.stack.length = 1 && recCode t.w.faultSlot = cSoftwareTrap &&
        recMask t.w.faultSlot = BitVec.allOnes 64) &&
      nextAnd (exec .tret (pushed .trap)) (fun t => t.w.pc = 0x1004 && t.w.exec = 1 && t.w.stack.isEmpty)) = true := by decide +kernel

/-- R266, R267: a call's entry and LR; the return takes its mask from the entry and its address from LR. -/
theorem test_call_return :
    (nextAnd (exec (.call 2 4) (splitting none)) (fun t => t.w.pc = 0x10090 && t.w.stack.length = 1 && t.w.lr = 0x10018 && t.w.lrhi = 0) &&
      nextAnd (exec .ret { pushed .call with w := { (pushed .call).w with lr := 0x1008 } }) (fun t => t.w.pc = 0x1008 && t.w.exec = 1 && t.w.stack.isEmpty)) = true := by decide +kernel

/-- The words that the host's decoder question asks with. -/
theorem test_table_word : decodeTableWord 32 0xF0300007 = some (.movi 3 7) ∧ decodeTableWord 32 0x00340000 = none := by
  constructor <;> decide +kernel

/-- The engine and the instructions of the examples of R358 and R449. -/
def runningEngine : Engine := { gated := false, requested := none, readyAt := 0, startedAt := none, idleSince := 0, banks := [] }
def recording (cfg : Bool) : State :=
  { engineAt runningEngine with clk := 1021, x := { base.x with cfg := cfg }, w := { base.w with mat := some { work 0 with acc := 1, since := 1000 } } }

/-- R355, R358, R449: micro-tiles that have begun count as complete, of 8 clocks, or 16 when co-issued. -/
theorem test_micro_tiles :
    microTiles runningEngine 1021 { work 0 with since := 1000 } = 3 ∧ microTiles runningEngine 1200 { work 2 with since := 1144, step := 16 } = 4 := by
  decide +kernel

/-- R358: ACCSTAT after a switch-out in micro-tile and in bank configuration. -/
theorem test_record_work :
    specialReg (recordWork (recording false)) 6 = 0x10407 ∧ specialReg (recordWork (recording true)) 6 = 0x20000 := by decide +kernel
/-- R340, R342: spec/13's example with F32 operands, K = 8: row 0 of A holds 4096, -4096 and 1, column 0 of B 4096, 4096 and 1, and acc[0][0]
holds 1; the exact sum is 2, where sums rounded in term order would give 1. -/
def multiplied : State :=
  let e := fun x y b => bound (tileEntry x y + b)
  { base with
    w := { base.w with wid := 1, exec := 1, h := (base.w.h.set 15 (e 8 64 0)).set 14 (e 64 8 0x1000),
                       acc := base.w.acc.set 0 { Acc.zero with rows := Acc.zero.rows.set 0 { AccRow.zero with elems := AccRow.zero.elems.set 0 0x3F800000 } } }
    b := { base.b with portion := 0x2000, stash := cellPut (cellPut (cellPut (cellPut [] 0 (bytesOfNat 12 0x3F800000C580000045800000)) 0x1002 [0x80, 0x45])
      0x1102 [0x80, 0x45]) 0x1202 [0x80, 0x3F] }
    engines := Vector.replicate 640 { gated := false, requested := none, readyAt := 0, startedAt := none, idleSince := 0, banks := [] } }
theorem test_mma :
    nextAnd (exec (.mma 0 15 14 62 0 0) multiplied) (then_ (.matrixAccept 1) (.matrixComplete 1) · fun t =>
      t.w.acc[0].rows[0].elems[0] = 0x40000000 && t.w.acc[0].rows[0].elems[1] = 0 && t.w.mat.isNone && t.w.matReq.isNone) = true := by decide +kernel

end Sys2Proof.Tests
end

/-! Decoding is exact (R16, R234, R239): a word that is read as an instruction is the word of that instruction. -/

namespace Sys2Proof.Laws

/-- What a decoder must say of the instruction it reads a word as: it is well formed, and its word is that very word. -/
def Exact (w : Word) (i : Instr) : Prop := i.wf = true ∧ encode i = some w

theorem exact_of {w : Word} {i : Instr} {n : Nat} (wf : i.wf = true) (e : encode i = some (BitVec.ofNat 32 n)) (h : n = w.toNat) :
    Exact w i :=
  ⟨wf, by rw [e, h, BitVec.ofNat_toNat, BitVec.setWidth_eq]⟩

/-- A decoder reads a word exactly: whatever instruction it answers has that word. -/
def Reads (w : Word) (r : Except DecodeError Instr) : Prop := ∀ i, r = .ok i → Exact w i

theorem Reads.ok {w : Word} {i : Instr} (h : Exact w i) : Reads w (.ok i) := fun _ e => by cases e; exact h
theorem Reads.error {w : Word} {e : DecodeError} : Reads w (.error e) := fun _ h => by cases h
theorem Reads.ite {w : Word} {c : Prop} [Decidable c] {a b : Except DecodeError Instr} (ha : c → Reads w a) (hb : ¬c → Reads w b) :
    Reads w (if c then a else b) := by
  split
  · exact ha ‹c›
  · exact hb ‹¬c›
theorem Reads.zeroed {w : Word} {z : Bool} {i : Instr} (h : z = true → Exact w i) : Reads w (zeroed z i) :=
  .ite (fun hz => .ok (h hz)) fun _ => .error
theorem Reads.unlessReserved {w : Word} {c : Prop} [Decidable c] {e : DecodeError} {r : Except DecodeError Instr} (h : ¬c → Reads w r) :
    Reads w (if c then .error e else r) := .ite (fun _ => .error) h
/-- An engine function that requires a reply is read only with one (R363). -/
theorem Reads.replied {w : Word} {c : Prop} [Decidable c] {z : Bool} {r : Except DecodeError Instr} (h : c → Reads w r) :
    Reads w (if c then r else withoutReply w z) := .ite h fun _ => .ite (fun _ => .error) fun _ => .error

/-- A field of a word holds a value as the numbers say. -/
theorem field_eq_iff {w : Word} {lo len : Nat} {v : BitVec len} : w.extractLsb' lo len = v ↔ w.toNat >>> lo % 2 ^ len = v.toNat := by
  rw [← BitVec.toNat_inj, BitVec.extractLsb'_toNat]

/-- An index field that is not a sign-extended 64-bit one is well formed (R237). -/
theorem indexWf_of {w : BitVec 2} {g : BitVec 1} (h : ¬(g = 1#1 ∧ w = 3#2)) : Instr.indexWf w g = true := by
  revert h; revert w g; decide

/-- Without a reply the destination is zero (R248). -/
theorem replyWf_of {r : BitVec 1} {d : BitVec 6} (h : ¬(r = 0#1 ∧ d ≠ 0#6)) : Instr.replyWf r d = true := by
  revert h; revert r d; decide

/-- A reduction's acquire bit is clear (R246). -/
theorem release_of {w : Word} (h : ¬w.extractLsb' 0 1 = 1#1) : (w.extractLsb' 0 2 == 0#2 || w.extractLsb' 0 2 == 2#2) = true := by
  rw [sub01 rfl] at h
  generalize w.extractLsb' 0 2 = r at h
  revert h; revert r; decide

/-- A lane number whose top bits are clear is one of the 64 (R289). -/
theorem laneNumber_of {w : Word} (h : ¬w.extractLsb' 8 2 ≠ 0#2) : decide ((w.extractLsb' 2 8).toNat < 64) = true := by
  simp [field_eq_iff] at *; omega

/-- A form of the MEM format is read exactly: its major opcode, two registers, a handle and the index fields fill the word (R237). -/
theorem Reads.memForm {w : Word} {m c : Nat} {form : Byte → Byte → BitVec 4 → BitVec 2 → BitVec 1 → BitVec 3 → Instr}
    (hm : (w.extractLsb' 26 6).toNat = m) (hc : c = m * 2 ^ 26) (wf : ∀ d i h x g k, (form d i h x g k).wf = Instr.indexWf x g)
    (e : ∀ d i h x g k, encode (form d i h x g k) =
      some (BitVec.ofNat 32 (c + place 18 d + place 10 i + place 6 h + place 4 x + place 3 g + place 0 k))) :
    Reads w (if w.extractLsb' 3 1 = 1#1 ∧ w.extractLsb' 4 2 = 3#2 then .error .reservedCode
      else .ok (form (w.extractLsb' 18 8) (w.extractLsb' 10 8) (w.extractLsb' 6 4) (w.extractLsb' 4 2) (w.extractLsb' 3 1) (w.extractLsb' 0 3))) := by
  have := w.isLt
  refine .unlessReserved fun h => .ok (exact_of ((wf ..).trans (indexWf_of h)) (e ..) ?_)
  simp [place] at *; omega

/-- A remote form is read exactly: its major opcode, three registers and a handle fill the word. -/
theorem Reads.remoteForm {w : Word} {m c : Nat} {form : Byte → Byte → Byte → BitVec 2 → Instr} (hm : (w.extractLsb' 26 6).toNat = m)
    (hc : c = m * 2 ^ 26) (wf : ∀ d o p h, (form d o p h).wf = true)
    (e : ∀ d o p h, encode (form d o p h) = some (BitVec.ofNat 32 (c + place 18 d + place 10 o + place 2 p + place 0 h))) :
    Reads w (.ok (form (w.extractLsb' 18 8) (w.extractLsb' 10 8) (w.extractLsb' 2 8) (w.extractLsb' 0 2))) := by
  have := w.isLt
  refine .ok (exact_of (wf ..) (e ..) ?_)
  simp [place] at *; omega

theorem decodeCtl_reads {w : Word} (hm : (w.extractLsb' 26 6).toNat = 0x00) : Reads w (decodeCtl w) := by
  have := w.isLt
  unfold decodeCtl
  split
  case h_14 => exact .error
  all_goals
    refine .zeroed fun z => exact_of rfl rfl ?_
    simp [place, field_eq_iff] at *; omega

theorem decodeBr_reads {w : Word} (hm : (w.extractLsb' 26 6).toNat = 0x01) : Reads w (decodeBr w) := by
  have := w.isLt
  unfold decodeBr
  split
  case h_1 =>
    refine .ite (fun h => .ok (exact_of rfl rfl ?_)) fun h => .ok (exact_of (bne_iff_ne.mpr h) rfl ?_) <;> simp [place, field_eq_iff] at * <;> omega
  all_goals
    refine .ok (exact_of rfl rfl ?_)
    simp [place] at *; omega

theorem decodeCallRcv_reads {w : Word} (hm : (w.extractLsb' 26 6).toNat = 0x02) : Reads w (decodeCallRcv w) := by
  have := w.isLt
  unfold decodeCallRcv
  split
  case h_4 => exact .error
  all_goals
    refine .ok (exact_of rfl rfl ?_)
    simp [place] at *; omega

theorem decodeRdsr_reads {w : Word} (hm : (w.extractLsb' 26 6).toNat = 0x03) : Reads w (decodeRdsr w) := by
  have := w.isLt
  unfold decodeRdsr
  refine .unlessReserved fun h => .zeroed fun z => exact_of (decide_eq_true (Nat.lt_succ_of_le (Nat.not_lt.mp h))) rfl ?_
  simp [place, field_eq_iff] at *; omega

theorem decodeWrsr_reads {w : Word} (hm : (w.extractLsb' 26 6).toNat = 0x04) : Reads w (decodeWrsr w) := by
  have := w.isLt
  unfold decodeWrsr
  refine .unlessReserved fun h => .zeroed fun z => exact_of (decide_eq_true (Nat.lt_succ_of_le (Nat.not_lt.mp h))) rfl ?_
  simp [place, field_eq_iff] at *; omega

theorem decodeSarith_reads {w : Word} (hm : (w.extractLsb' 26 6).toNat = 0x05) : Reads w (decodeSarith w) := by
  have := w.isLt
  unfold decodeSarith
  split <;> refine .ok (exact_of rfl rfl ?_) <;> simp [place] at * <;> omega

theorem decodeSlogic_reads {w : Word} (hm : (w.extractLsb' 26 6).toNat = 0x06) : Reads w (decodeSlogic w) := by
  have := w.isLt
  unfold decodeSlogic
  split <;> refine .ok (exact_of rfl rfl ?_) <;> simp [place] at * <;> omega

theorem decodeSshift_reads {w : Word} (hm : (w.extractLsb' 26 6).toNat = 0x07) : Reads w (decodeSshift w) := by
  have := w.isLt
  unfold decodeSshift
  split <;> refine .ok (exact_of rfl rfl ?_) <;> simp [place] at * <;> omega

theorem decodeScmp_reads {w : Word} (hm : (w.extractLsb' 26 6).toNat = 0x08) : Reads w (decodeScmp w) := by
  have := w.isLt
  unfold decodeScmp
  split <;> refine .ok (exact_of rfl rfl ?_) <;> simp [place] at * <;> omega

theorem decodeSdiv_reads {w : Word} (hm : (w.extractLsb' 26 6).toNat = 0x09) : Reads w (decodeSdiv w) := by
  have := w.isLt
  unfold decodeSdiv
  split <;> refine .ok (exact_of rfl rfl ?_) <;> simp [place] at * <;> omega

theorem decodeSunary_reads {w : Word} (hm : (w.extractLsb' 26 6).toNat = 0x0A) : Reads w (decodeSunary w) := by
  have := w.isLt
  unfold decodeSunary
  split
  case h_7 => exact .error
  all_goals
    refine .zeroed fun z => exact_of rfl rfl ?_
    simp [place, field_eq_iff] at *; omega

theorem decodeVarith_reads {w : Word} (hm : (w.extractLsb' 26 6).toNat = 0x0B) : Reads w (decodeVarith w) := by
  have := w.isLt
  unfold decodeVarith
  split <;> refine .ok (exact_of rfl rfl ?_) <;> simp [place] at * <;> omega

theorem decodeVlogic_reads {w : Word} (hm : (w.extractLsb' 26 6).toNat = 0x0C) : Reads w (decodeVlogic w) := by
  have := w.isLt
  unfold decodeVlogic
  split <;> refine .ok (exact_of rfl rfl ?_) <;> simp [place] at * <;> omega

theorem decodeVshift_reads {w : Word} (hm : (w.extractLsb' 26 6).toNat = 0x0D) : Reads w (decodeVshift w) := by
  have := w.isLt
  unfold decodeVshift
  split <;> refine .ok (exact_of rfl rfl ?_) <;> simp [place] at * <;> omega

theorem decodeVminmax_reads {w : Word} (hm : (w.extractLsb' 26 6).toNat = 0x0E) : Reads w (decodeVminmax w) := by
  have := w.isLt
  unfold decodeVminmax
  split <;> refine .ok (exact_of rfl rfl ?_) <;> simp [place] at * <;> omega

theorem decodeVcmp_reads {w : Word} (hm : (w.extractLsb' 26 6).toNat = 0x0F) : Reads w (decodeVcmp w) := by
  have := w.isLt
  unfold decodeVcmp
  split <;> refine .zeroed fun z => exact_of rfl rfl ?_ <;> simp [place, field_eq_iff] at * <;> omega

theorem decodeVunary_reads {w : Word} (hm : (w.extractLsb' 26 6).toNat = 0x10) : Reads w (decodeVunary w) := by
  have := w.isLt
  unfold decodeVunary
  split
  case h_18 => exact .error
  all_goals
    refine .zeroed fun z => exact_of rfl rfl ?_
    simp [place, field_eq_iff] at *; omega

theorem decodeVfarith_reads {w : Word} (hm : (w.extractLsb' 26 6).toNat = 0x11) : Reads w (decodeVfarith w) := by
  have := w.isLt
  unfold decodeVfarith
  split <;> refine .ok (exact_of rfl rfl ?_) <;> simp [place] at * <;> omega

theorem decodeVffma_reads {w : Word} (hm : (w.extractLsb' 26 6).toNat = 0x12) : Reads w (decodeVffma w) := by
  have := w.isLt
  unfold decodeVffma
  split <;> refine .ok (exact_of rfl rfl ?_) <;> simp [place] at * <;> omega

theorem decodeVcvt_reads {w : Word} (hm : (w.extractLsb' 26 6).toNat = 0x13) : Reads w (decodeVcvt w) := by
  have := w.isLt
  unfold decodeVcvt
  split
  case h_2 =>
    refine .zeroed fun z => exact_of rfl rfl ?_
    simp [place, field_eq_iff] at *; omega
  all_goals
    refine .ok (exact_of rfl rfl ?_)
    simp [place] at *; omega

theorem decodeVshfl_reads {w : Word} (hm : (w.extractLsb' 26 6).toNat = 0x14) : Reads w (decodeVshfl w) := by
  have := w.isLt
  unfold decodeVshfl
  split <;> refine .ok (exact_of rfl rfl ?_) <;> simp [place] at * <;> omega

theorem decodeVxfer_reads {w : Word} (hm : (w.extractLsb' 26 6).toNat = 0x15) : Reads w (decodeVxfer w) := by
  have := w.isLt
  unfold decodeVxfer
  split
  case h_2 =>
    refine .zeroed fun z => exact_of rfl rfl ?_
    simp [place, field_eq_iff] at *; omega
  case h_4 => exact .error
  all_goals
    refine .unlessReserved fun h => .ok (exact_of (laneNumber_of h) rfl ?_)
    simp [place, field_eq_iff] at *; omega

theorem decodeVote_reads {w : Word} (hm : (w.extractLsb' 26 6).toNat = 0x16) : Reads w (decodeVote w) := by
  have := w.isLt
  unfold decodeVote
  split <;> refine .zeroed fun z => exact_of rfl rfl ?_ <;> simp [place, field_eq_iff] at * <;> omega

theorem decodeVscan_reads {w : Word} (hm : (w.extractLsb' 26 6).toNat = 0x17) : Reads w (decodeVscan w) := by
  have := w.isLt
  unfold decodeVscan
  split <;> refine .zeroed fun z => exact_of rfl rfl ?_ <;> simp [place, field_eq_iff] at * <;> omega

theorem decodeVreduce_reads {w : Word} (hm : (w.extractLsb' 26 6).toNat = 0x18) : Reads w (decodeVreduce w) := by
  have := w.isLt
  unfold decodeVreduce
  split <;> refine .zeroed fun z => exact_of rfl rfl ?_ <;> simp [place, field_eq_iff] at * <;> omega

theorem decodeMaskOp_reads {w : Word} (hm : (w.extractLsb' 26 6).toNat = 0x19) : Reads w (decodeMaskOp w) := by
  have := w.isLt
  unfold decodeMaskOp
  split <;> refine .zeroed fun z => exact_of rfl rfl ?_ <;> simp [place, field_eq_iff] at * <;> omega

theorem decodePlogic_reads {w : Word} (hm : (w.extractLsb' 26 6).toNat = 0x1A) : Reads w (decodePlogic w) := by
  have := w.isLt
  unfold decodePlogic
  split <;> refine .zeroed fun z => exact_of rfl rfl ?_ <;> simp [place, field_eq_iff] at * <;> omega

theorem decodeReord_reads {w : Word} (hm : (w.extractLsb' 26 6).toNat = 0x1B) : Reads w (decodeReord w) := by
  have := w.isLt
  unfold decodeReord
  split
  case h_2 => exact .error
  all_goals
    refine .zeroed fun z => exact_of rfl rfl ?_
    simp [place, field_eq_iff] at *; omega

theorem decodeLdv_reads {w : Word} (hm : (w.extractLsb' 26 6).toNat = 0x1C) : Reads w (decodeLdv w) := Reads.memForm hm rfl (fun _ _ _ _ _ _ => rfl) fun _ _ _ _ _ _ => rfl

theorem decodeGather_reads {w : Word} (hm : (w.extractLsb' 26 6).toNat = 0x1D) : Reads w (decodeGather w) := Reads.memForm hm rfl (fun _ _ _ _ _ _ => rfl) fun _ _ _ _ _ _ => rfl

theorem decodeStv_reads {w : Word} (hm : (w.extractLsb' 26 6).toNat = 0x1E) : Reads w (decodeStv w) := Reads.memForm hm rfl (fun _ _ _ _ _ _ => rfl) fun _ _ _ _ _ _ => rfl

theorem decodeScatter_reads {w : Word} (hm : (w.extractLsb' 26 6).toNat = 0x1F) : Reads w (decodeScatter w) := Reads.memForm hm rfl (fun _ _ _ _ _ _ => rfl) fun _ _ _ _ _ _ => rfl

theorem decodeLdc_reads {w : Word} (hm : (w.extractLsb' 26 6).toNat = 0x20) : Reads w (decodeLdc w) := by
  have := w.isLt
  unfold decodeLdc
  refine .unlessReserved fun h => .zeroed fun z => exact_of (indexWf_of h) rfl ?_
  simp [place, field_eq_iff] at *; omega

theorem decodeSld_reads {w : Word} (hm : (w.extractLsb' 26 6).toNat = 0x21) : Reads w (decodeSld w) := Reads.memForm hm rfl (fun _ _ _ _ _ _ => rfl) fun _ _ _ _ _ _ => rfl

theorem decodeSst_reads {w : Word} (hm : (w.extractLsb' 26 6).toNat = 0x22) : Reads w (decodeSst w) := Reads.memForm hm rfl (fun _ _ _ _ _ _ => rfl) fun _ _ _ _ _ _ => rfl

theorem decodeLda_reads {w : Word} (hm : (w.extractLsb' 26 6).toNat = 0x23) : Reads w (decodeLda w) := Reads.memForm hm rfl (fun _ _ _ _ _ _ => rfl) fun _ _ _ _ _ _ => rfl

theorem decodeStl_reads {w : Word} (hm : (w.extractLsb' 26 6).toNat = 0x24) : Reads w (decodeStl w) := Reads.memForm hm rfl (fun _ _ _ _ _ _ => rfl) fun _ _ _ _ _ _ => rfl

theorem decodeTile_reads {w : Word} (hm : (w.extractLsb' 26 6).toNat = 0x25) : Reads w (decodeTile w) := by
  have := w.isLt
  unfold decodeTile
  split
  case h_3 => exact .error
  all_goals
    refine .zeroed fun z => exact_of rfl rfl ?_
    simp [place, field_eq_iff] at *; omega

theorem decodeHandle_reads {w : Word} (hm : (w.extractLsb' 26 6).toNat = 0x26) : Reads w (decodeHandle w) := by
  have := w.isLt
  unfold decodeHandle
  split
  case h_3 =>
    refine .unlessReserved fun h => .zeroed fun z => exact_of (decide_eq_true (Nat.not_le.mp h)) rfl ?_
    simp [place, field_eq_iff] at *; omega
  case h_4 => exact .error
  all_goals
    refine .zeroed fun z => exact_of rfl rfl ?_
    simp [place, field_eq_iff] at *; omega

theorem decodeMemCtl_reads {w : Word} (hm : (w.extractLsb' 26 6).toNat = 0x27) : Reads w (decodeMemCtl w) := by
  have := w.isLt
  unfold decodeMemCtl
  split
  case h_7 => exact .error
  all_goals
    refine .zeroed fun z => exact_of rfl rfl ?_
    simp [place, field_eq_iff] at *; omega

theorem decodeFence_reads {w : Word} (hm : (w.extractLsb' 26 6).toNat = 0x28) : Reads w (decodeFence w) := by
  have := w.isLt
  unfold decodeFence
  split
  case h_7 => exact .error
  all_goals
    refine .zeroed fun z => exact_of rfl rfl ?_
    simp [field_eq_iff] at *; omega

theorem decodeAtom_reads {w : Word} (hm : (w.extractLsb' 26 6).toNat = 0x29) : Reads w (decodeAtom w) := by
  have := w.isLt
  unfold decodeAtom
  split <;> refine .ok (exact_of rfl rfl ?_) <;> simp [place] at * <;> omega

theorem decodeRed_reads {w : Word} (hm : (w.extractLsb' 26 6).toNat = 0x2A) : Reads w (decodeRed w) := by
  have := w.isLt
  unfold decodeRed
  split
  case h_7 => exact .error
  all_goals
    refine .unlessReserved fun h => .ok (exact_of (release_of h) rfl ?_)
    simp [place, field_eq_iff] at *; omega

theorem decodeBar_reads {w : Word} (hm : (w.extractLsb' 26 6).toNat = 0x2B) : Reads w (decodeBar w) := by
  have := w.isLt
  unfold decodeBar
  split
  case h_4 => exact .error
  all_goals
    refine .zeroed fun z => exact_of rfl rfl ?_
    simp [place, field_eq_iff] at *; omega

theorem decodeRegClm_reads {w : Word} (hm : (w.extractLsb' 26 6).toNat = 0x2C) : Reads w (decodeRegClm w) := by
  have := w.isLt
  unfold decodeRegClm
  split <;> refine .zeroed fun z => exact_of rfl rfl ?_ <;> simp [place, field_eq_iff] at * <;> omega

theorem decodeQkvs_reads {w : Word} (hm : (w.extractLsb' 26 6).toNat = 0x2D) : Reads w (decodeQkvs w) := by
  have := w.isLt
  unfold decodeQkvs
  split
  case h_3 => exact .error
  all_goals
    refine .zeroed fun z => exact_of rfl rfl ?_
    simp [place, field_eq_iff] at *; omega

theorem decodeKvx_reads {w : Word} (hm : (w.extractLsb' 26 6).toNat = 0x2E) : Reads w (decodeKvx w) := by
  have := w.isLt
  unfold decodeKvx
  refine .zeroed fun z => exact_of rfl rfl ?_
  simp [place, field_eq_iff] at *; omega

theorem decodeRld_reads {w : Word} (hm : (w.extractLsb' 26 6).toNat = 0x2F) : Reads w (decodeRld w) := Reads.remoteForm hm rfl (fun _ _ _ _ => rfl) fun _ _ _ _ => rfl

theorem decodeRst_reads {w : Word} (hm : (w.extractLsb' 26 6).toNat = 0x30) : Reads w (decodeRst w) := Reads.remoteForm hm rfl (fun _ _ _ _ => rfl) fun _ _ _ _ => rfl

theorem decodeRatom_reads {w : Word} (hm : (w.extractLsb' 26 6).toNat = 0x31) : Reads w (decodeRatom w) := Reads.remoteForm hm rfl (fun _ _ _ _ => rfl) fun _ _ _ _ => rfl

theorem decodeRred_reads {w : Word} (hm : (w.extractLsb' 26 6).toNat = 0x32) : Reads w (decodeRred w) := Reads.remoteForm hm rfl (fun _ _ _ _ => rfl) fun _ _ _ _ => rfl

theorem decodeMcst_reads {w : Word} (hm : (w.extractLsb' 26 6).toNat = 0x33) : Reads w (decodeMcst w) := Reads.remoteForm hm rfl (fun _ _ _ _ => rfl) fun _ _ _ _ => rfl

theorem decodeMatrix_reads {w : Word} (hm : (w.extractLsb' 26 6).toNat = 0x34) : Reads w (decodeMatrix w) := by
  have := w.isLt
  unfold decodeMatrix
  split
  case h_4 => exact .error
  all_goals
    refine .zeroed fun z => exact_of rfl rfl ?_
    simp [place, field_eq_iff] at *; omega

theorem decodeAcc_reads {w : Word} (hm : (w.extractLsb' 26 6).toNat = 0x35) : Reads w (decodeAcc w) := by
  have := w.isLt
  unfold decodeAcc
  split
  case h_8 => exact .error
  all_goals
    refine .zeroed fun z => exact_of rfl rfl ?_
    simp [place, field_eq_iff] at *; omega

theorem decodeCop_reads {w : Word} (hm : (w.extractLsb' 26 6).toNat = 0x36) : Reads w (decodeCop w) := by
  have := w.isLt
  unfold decodeCop
  split
  case h_4 | h_12 | h_13 =>
    refine .unlessReserved fun h => .ok (exact_of (replyWf_of h) rfl ?_)
    simp [place, field_eq_iff] at *; omega
  case h_18 | h_22 =>
    refine .replied fun r => .zeroed fun z => exact_of rfl rfl ?_
    simp [place, field_eq_iff] at *; omega
  case h_19 | h_20 | h_21 =>
    refine .unlessReserved fun h => .zeroed fun z => exact_of (replyWf_of h) rfl ?_
    simp [place, field_eq_iff] at *; omega
  case h_23 => exact .error
  all_goals
    refine .replied fun r => .ok (exact_of rfl rfl ?_)
    simp [place, field_eq_iff] at *; omega

theorem decodeCodeTab_reads {w : Word} (hm : (w.extractLsb' 26 6).toNat = 0x37) : Reads w (decodeCodeTab w) := by
  have := w.isLt
  unfold decodeCodeTab
  split
  case h_4 => exact .error
  all_goals
    refine .zeroed fun z => exact_of rfl rfl ?_
    simp [place, field_eq_iff] at *; omega

/-- A word of SMOVI or MOVI is read exactly: the register's number runs into the opcode's low bits (R238). -/
theorem decodeImmediate_reads {w : Word} {m : Nat} {form : Byte → BitVec 20 → Instr} (hm : (w.extractLsb' 26 6).toNat / 4 = m / 4)
    (wf : ∀ d i, (form d i).wf = true) (e : ∀ d i, encode (form d i) = some (BitVec.ofNat 32 (m / 4 * 2 ^ 28 + place 20 d + place 0 i))) :
    Reads w (.ok (form (w.extractLsb' 20 8) (w.extractLsb' 0 20))) := by
  have := w.isLt
  refine .ok (exact_of (wf ..) (e ..) ?_)
  simp [place] at *; omega

/-- Every word is read exactly, major opcode by major opcode (R241). -/
theorem decodeWord_reads (w : Word) : Reads w (decodeWord w) := by
  have := (w.extractLsb' 26 6).isLt
  unfold decodeWord
  split
  case h_1 h => exact decodeCtl_reads h
  case h_2 h => exact decodeBr_reads h
  case h_3 h => exact decodeCallRcv_reads h
  case h_4 h => exact decodeRdsr_reads h
  case h_5 h => exact decodeWrsr_reads h
  case h_6 h => exact decodeSarith_reads h
  case h_7 h => exact decodeSlogic_reads h
  case h_8 h => exact decodeSshift_reads h
  case h_9 h => exact decodeScmp_reads h
  case h_10 h => exact decodeSdiv_reads h
  case h_11 h => exact decodeSunary_reads h
  case h_12 h => exact decodeVarith_reads h
  case h_13 h => exact decodeVlogic_reads h
  case h_14 h => exact decodeVshift_reads h
  case h_15 h => exact decodeVminmax_reads h
  case h_16 h => exact decodeVcmp_reads h
  case h_17 h => exact decodeVunary_reads h
  case h_18 h => exact decodeVfarith_reads h
  case h_19 h => exact decodeVffma_reads h
  case h_20 h => exact decodeVcvt_reads h
  case h_21 h => exact decodeVshfl_reads h
  case h_22 h => exact decodeVxfer_reads h
  case h_23 h => exact decodeVote_reads h
  case h_24 h => exact decodeVscan_reads h
  case h_25 h => exact decodeVreduce_reads h
  case h_26 h => exact decodeMaskOp_reads h
  case h_27 h => exact decodePlogic_reads h
  case h_28 h => exact decodeReord_reads h
  case h_29 h => exact decodeLdv_reads h
  case h_30 h => exact decodeGather_reads h
  case h_31 h => exact decodeStv_reads h
  case h_32 h => exact decodeScatter_reads h
  case h_33 h => exact decodeLdc_reads h
  case h_34 h => exact decodeSld_reads h
  case h_35 h => exact decodeSst_reads h
  case h_36 h => exact decodeLda_reads h
  case h_37 h => exact decodeStl_reads h
  case h_38 h => exact decodeTile_reads h
  case h_39 h => exact decodeHandle_reads h
  case h_40 h => exact decodeMemCtl_reads h
  case h_41 h => exact decodeFence_reads h
  case h_42 h => exact decodeAtom_reads h
  case h_43 h => exact decodeRed_reads h
  case h_44 h => exact decodeBar_reads h
  case h_45 h => exact decodeRegClm_reads h
  case h_46 h => exact decodeQkvs_reads h
  case h_47 h => exact decodeKvx_reads h
  case h_48 h => exact decodeRld_reads h
  case h_49 h => exact decodeRst_reads h
  case h_50 h => exact decodeRatom_reads h
  case h_51 h => exact decodeRred_reads h
  case h_52 h => exact decodeMcst_reads h
  case h_53 h => exact decodeMatrix_reads h
  case h_54 h => exact decodeAcc_reads h
  case h_55 h => exact decodeCop_reads h
  case h_56 h => exact decodeCodeTab_reads h
  case h_57 h | h_58 h | h_59 h | h_60 h => exact decodeImmediate_reads (m := 0x38) (by rw [h]) (fun _ _ => rfl) fun _ _ => rfl
  case h_61 => exact decodeImmediate_reads (m := 0x3C) (by simp only [imp_false] at *; omega) (fun _ _ => rfl) fun _ _ => rfl

/-- Settles O59: each decoder reads a word exactly, field by field. -/
theorem decodeExact : Obligations.DecodeExact := decodeWord_reads

end Sys2Proof.Laws

/-! How forms stop, and the branches (R239, R264). -/

namespace Sys2Proof.Machine

/-! ### How a passed form stops (R383, R239) -/

/-- A form that the front end passes and that traps enters the trap (R383); a consumer trap has detail 0xFF (R66), another is as its cause
says. -/
theorem issue_trap {s : State} {rap : RapUse} {l : List Opd} {h : BitVec 4} {k : State → Run State} {c d : Byte} (p : Passes s rap l h)
    (e : k s = trap c d) (hd : d ≠ 0xFF#8) : issue { rap := rap, opds := l, hreg := h } s k = .next (takeTrap s { code := c, detail := d }) := by
  rw [issue_passes p, e]
  simp only [trap, namesHandle, if_neg hd, finish]

/-- A form that the front end passes and that must wait parks its warp; a wait for no host line asks for none. -/
theorem issue_park {s : State} {rap : RapUse} {l : List Opd} {h : BitVec 4} {k : State → Run State} {q : Park} (p : Passes s rap l h)
    (e : k s = park q) (hq : wantFor s.m q = s.m) :
    issue { rap := rap, opds := l, hreg := h } s k = .next { s with w := waiting s.w q, turn := 0 } := by
  rw [issue_passes p, e]
  simp only [park, namesHandle, finish, hq]

section
variable {i : Instr} {s t : State} {rap : RapUse} {l : List Opd} {h : BitVec 4} {k : State → Run State}
  (form : exec i s = issue { rap := rap, opds := l, hreg := h } s k) (p : Passes s rap l h)
include form p

/-- An instruction whose form the front end passes and whose effect goes through completes, each queue that it names popped once. -/
theorem exec_next (e : k s = .ok t) : exec i s = .next (popQueues l t) := form.trans (issue_next p e)

/-- The same where it names no queue. -/
theorem exec_ok (q : l.filterMap Opd.queue = []) (e : k s = .ok t) : exec i s = .next t := form.trans (issue_ok p q e)

theorem exec_trap {c d : Byte} (e : k s = trap c d) (hd : d ≠ 0xFF#8) : exec i s = .next (takeTrap s { code := c, detail := d }) :=
  form.trans (issue_trap p e hd)

theorem exec_park {q : Park} (e : k s = park q) (hq : wantFor s.m q = s.m) : exec i s = .next { s with w := waiting s.w q, turn := 0 } :=
  form.trans (issue_park p e hq)

end

/-! ### Lanes -/

/-- No lane is the first of a condition that no lane of the mask meets. -/
theorem firstLane_none {m : Mask} {f : Fin 64 → Bool} (h : ∀ l : Fin 64, m.getLsbD l = true → f l = false) : firstLane m f = none := by
  unfold firstLane laneList
  rw [List.find?_eq_none]
  intro l hl
  rw [h l (by simpa using hl)]
  simp

/-! ### Branches (R264, R193) -/

section
variable {s : State} {neg : Bool} {p : BitVec 4} {target : VA} {taken others : Mask}
  (clean : ∀ l : Fin 64, (active s.w).getLsbD l = true → (predLane s.w p l).poison = false)
  (ht : taken = active s.w &&& laneMask fun l => (predLane s.w p l).bit ^^ neg) (ho : others = s.w.exec &&& ~~~taken)
include clean ht

theorem branchLanes_fallThrough (h : taken = 0#64) : branchLanes neg p target s = .ok (advance s) := by
  simp only [branchLanes, firstLane_none clean, ← ht, if_pos h]

include ho

theorem branchLanes_jump (h : taken ≠ 0#64) (h' : others = 0#64) : branchLanes neg p target s = .ok { s with w := jumpTo s.w target } := by
  simp only [branchLanes, firstLane_none clean, ← ht, ← ho, if_neg h, if_pos h']

theorem branchLanes_split {r : VA} (h : taken ≠ 0#64) (h' : others ≠ 0#64) (hr : s.w.rp = some r) (hl : s.w.stack.length ≤ 254) :
    branchLanes neg p target s = .ok (advance { s with w := split s.w taken others target r (poolHeld s s.w.core s.w.part < 64) }) := by
  simp only [branchLanes, firstLane_none clean, ← ht, ← ho, if_neg h, if_neg h', hr, if_neg (Nat.not_lt.mpr hl)]

theorem branchLanes_noReconvergence (h : taken ≠ 0#64) (h' : others ≠ 0#64) (hr : s.w.rp = none) :
    branchLanes neg p target s = trap cIllegalInstruction 0x20 := by
  simp only [branchLanes, firstLane_none clean, ← ht, ← ho, if_neg h, if_neg h', hr]

end

/-- A form that branches on the predicate `q` names, its own or p0, is the branch of R264. -/
theorem givesBranch_of {rap : RapUse} {form : BitVec 16 → BitVec 4 → BitVec 4 → Instr} {on : Warp → BitVec 4 → Fin 64 → Bool}
    {k : BitVec 16 → BitVec 4 → BitVec 4 → State → Run State} {neg : Bool} (q : BitVec 4 → BitVec 4)
    (e : ∀ o w p s, exec (form o w p) s = issue { rap := rap, opds := [] } s (k o w p))
    (hk : ∀ o w p s, s.w.rap = false → k o w p s = branchLanes neg (q p) (branchTarget s.w.pc o w) s)
    (hq : ∀ p, q p = p ∨ q p = 0#4) (hon : ∀ w p l, on w p l = ((predLane w (q p) l).bit ^^ neg)) : GivesBranch rap form on := by
  intro s o w p taken others target hp hrap clean ht ho htarget
  have hclean : ∀ l : Fin 64, (active s.w).getLsbD l = true → (predLane s.w (q p) l).poison = false := by
    intro l hl
    rcases hq p with h | h <;> rw [h]
    · exact clean l hl
    · rfl
  have hmask : taken = active s.w &&& laneMask fun l => (predLane s.w (q p) l).bit ^^ neg := by
    rw [ht]; congr 2; funext l; rw [hon]
  have run := hk o w p s hrap
  rw [← htarget] at run
  refine ⟨fun h => ?_, fun h h' => ?_, fun r h h' hr hl => ?_, fun h h' hr => ?_⟩
  · exact exec_ok (e ..) hp rfl (run.trans (branchLanes_fallThrough hclean hmask h))
  · exact exec_ok (e ..) hp rfl (run.trans (branchLanes_jump hclean hmask ho h h'))
  · refine exec_ok (e ..) hp rfl (run.trans ((branchLanes_split hclean hmask ho h h' hr hl).trans ?_))
    simp only [split, deferred, decide_eq_true_eq]
  · exact exec_trap (e ..) hp (run.trans (branchLanes_noReconvergence hclean hmask ho h h' hr)) (by decide)

/-- With no lane active a uniform branch falls through (R264). -/
theorem branchUniform_idle {s : State} {neg : Bool} {n : BitVec 4} {target : VA} (ha : active s.w = 0#64) :
    branchUniform neg n target s = .ok (advance s) := by
  simp only [branchUniform, warpOnce, if_pos ha]

/-- What a uniform branch does with an unpoisoned scalar and a lane active (R264). -/
theorem branchUniform_clean {s : State} {neg : Bool} {n : BitVec 4} {target : VA} (ha : active s.w ≠ 0#64)
    (clean : (s.w.s[Fin.ofNat 64 n.toNat]).poison = false) :
    branchUniform neg n target s =
      .ok (if ((s.w.s[Fin.ofNat 64 n.toNat]).val == 0#64) != neg then { s with w := jumpTo s.w target } else advance s) := by
  simp only [branchUniform, warpOnce, if_neg ha, consumeS, sReg, clean, Bool.false_eq_true, ↓reduceIte]
  exact (apply_ite Except.ok ..).symm

/-- Settles O7: each branch is one per-lane or uniform branch of R264. -/
theorem branchResult : Obligations.BranchResult := by
  refine ⟨?_, ?_, ?_, ?_, ?_, ?_⟩
  · exact givesBranch_of (neg := false) (fun _ => 0#4) (fun _ _ _ _ => rfl) (fun _ _ _ _ h => by simp only [h, Bool.false_eq_true, ↓reduceIte])
      (fun _ => .inr rfl) fun _ _ _ => rfl
  · exact givesBranch_of (neg := false) id (fun _ _ _ _ => rfl) (fun _ _ _ _ _ => rfl) (fun _ => .inl rfl) fun _ _ _ => (Bool.xor_false _).symm
  · exact givesBranch_of (neg := true) id (fun _ _ _ _ => rfl) (fun _ _ _ _ _ => rfl) (fun _ => .inl rfl) fun _ _ _ => (Bool.xor_true _).symm
  · intro s o w hp hr
    refine exec_ok (show execBr o w s = _ from rfl) hp rfl ?_
    exact if_pos hr
  · exact fun s o w n hp ha => ⟨exec_ok rfl hp rfl (branchUniform_idle ha), exec_ok rfl hp rfl (branchUniform_idle ha)⟩
  · intro s o w n hp ha clean
    refine ⟨exec_ok rfl hp rfl ((branchUniform_clean ha clean).trans ?_), exec_ok rfl hp rfl ((branchUniform_clean ha clean).trans ?_)⟩
    · simp only [Bool.bne_false, beq_iff_eq]
    · simp only [Bool.bne_true, Bool.not_eq_true', beq_eq_false_iff_ne, ne_eq, ite_not]

end Sys2Proof.Machine

/-! Special registers and deadlines (R375, R376). -/

namespace Sys2Proof.Machine

/-! ### Special registers written (R375, R189) -/

/-- A readable, unpoisoned scalar source is an operand (R66). -/
theorem scalarOperand_ok {s s₁ : State} {a : Byte} {x : DWord} (h : readS s a = .ok (s₁, ⟨x, false⟩)) : scalarOperand s a = .ok (s₁, x) := by
  simp only [scalarOperand, h, consumeS, Bool.false_eq_true, ↓reduceIte]

section
variable {s s₁ : State} {a : Byte} {x : DWord} {n : BitVec 10} (hr : readS s a = .ok (s₁, ⟨x, false⟩))
include hr

/-- A write that nothing refuses and no matrix operation holds writes the register and completes. -/
theorem wrsr_next {r : RapUse} (hp : Passes s r [.ssrc a]) (hn : r = if rapRegister n then .yes else .no) (hx : wrsrRefused n x = none)
    (hm : n ≠ 8#10 ∨ s.w.mat = none) : exec (.wrsr a n) s = .next (advance (writeSpecial s₁ n x)) := by
  subst hn
  refine exec_ok (show execWrsr a n s = _ from rfl) hp rfl ?_
  have free : (decide (n = 8#10) && s₁.w.mat.isSome) = false := by
    rw [readS_w hr]
    rcases hm with h | h <;> simp [h]
  simp only [scalarOperand_ok hr, hx, free, Bool.false_eq_true, ↓reduceIte]

/-- A refused write traps with its detail, and changes nothing. -/
theorem wrsr_trap {d : Byte} (hp : Passes s (if rapRegister n then .yes else .no) [.ssrc a]) (hx : wrsrRefused n x = some d) (hd : d ≠ 0xFF#8) :
    exec (.wrsr a n) s = .next (takeTrap s { code := cIllegalInstruction, detail := d }) := by
  refine exec_trap (i := .wrsr a n) (show execWrsr a n s = _ from rfl) hp ?_ hd
  simp only [scalarOperand_ok hr, hx]

theorem ttrap_next (hp : Passes s .no [.ssrc a]) : exec (.ttrap a) s = .next (advance { s₁ with w := { s₁.w with cycdl := x } }) := by
  refine exec_ok (show execTtrap a s = _ from rfl) hp rfl ?_
  simp only [scalarOperand_ok hr]

theorem tdead_next (hp : Passes s .no [.ssrc a]) : exec (.tdead a) s = .next (advance { s₁ with w := { s₁.w with walldl := x } }) := by
  refine exec_ok (show execTdead a s = _ from rfl) hp rfl ?_
  simp only [scalarOperand_ok hr]

end

/-- A write to a register that is read-only is neither refused nor has it an effect, and no matrix operation holds it. -/
theorem wrsr_readOnly {n : BitVec 10} (h : n ∈ [4#10, 6#10, 7#10, 9#10, 10#10, 11#10, 12#10, 13#10, 14#10, 15#10, 20#10, 21#10, 23#10, 24#10, 25#10])
    (s : State) (x : DWord) : wrsrRefused n x = none ∧ writeSpecial s n x = s ∧ n ≠ 8#10 := by
  simp only [List.mem_cons, List.not_mem_nil, or_false] at h
  rcases h with rfl | rfl | rfl | rfl | rfl | rfl | rfl | rfl | rfl | rfl | rfl | rfl | rfl | rfl | rfl <;> exact ⟨rfl, rfl, by decide⟩

/-- Entries retire from a queue; only the block's queues change (R203). -/
theorem retireQueues_frame (l : List (Fin 8)) (s : State) : (l.foldl retireQueue s).w = s.w ∧ (l.foldl retireQueue s).m = s.m :=
  foldl_keeps (f := retireQueue) (P := fun t : State => t.w = s.w ∧ t.m = s.m) (fun _ _ h => h) l ⟨rfl, rfl⟩

/-- What a write of QSUB leaves: the subscriptions, where each queue is read next, and everything else of the warp as it was (R203). -/
theorem writeQsub_w (s : State) (x : BitVec 8) : (writeQsub s x).w = { s.w with
    qsub := x
    qpos := vecOf 8 fun q => if x.getLsbD q && s.w.qsub.getLsbD q then s.w.qpos[q] else s.b.queues[q].retired + s.b.queues[q].entries.length } :=
  (retireQueues_frame _ _).1

theorem writeQsub_m (s : State) (x : BitVec 8) : (writeQsub s x).m = s.m := (retireQueues_frame _ _).2

theorem writeSpecial_qsub (s : State) (x : DWord) : writeSpecial s 22#10 x = writeQsub s (x.setWidth 8) := rfl

theorem vecOf_getElem {α : Type} {n : Nat} (f : Fin n → α) (i : Fin n) : (vecOf n f)[i] = f i := by
  simp [vecOf]

/-- A number below a power of two leaves the bits above it clear. -/
theorem noHighBits {x : DWord} {k : Nat} (h : x.toNat < 2 ^ k) : ¬x.toNat / 2 ^ k ≠ 0 := not_not.mpr (Nat.div_eq_of_lt h)
theorem highBits {x : DWord} {k : Nat} (h : 2 ^ k ≤ x.toNat) : x.toNat / 2 ^ k ≠ 0 := (Nat.div_pos h (Nat.two_pow_pos k)).ne'

/-- What is refused of MODE (R190): a bit above its width, then a reserved data scope. -/
theorem wrsrRefused_mode (x : DWord) : wrsrRefused 1#10 x =
    if x.toNat / 2 ^ 30 ≠ 0 then some 0x02 else if 4 < (x.extractLsb' 14 3).toNat then some 0x01 else none := rfl
theorem wrsrRefused_lrhi (x : DWord) : wrsrRefused 3#10 x = if x.toNat / 2 ^ 16 ≠ 0 then some 0x02 else none := rfl
theorem wrsrRefused_qsub (x : DWord) : wrsrRefused 22#10 x = if x.toNat / 2 ^ 8 ≠ 0 then some 0x02 else none := rfl
theorem wrsrRefused_porig3 (x : DWord) : wrsrRefused 19#10 x = if x ≠ 0#64 then some 0x24 else none := rfl

/-- A value with a bit above its register's width is refused (R16). -/
theorem wrsrRefused_wide {n : BitVec 10} {x : DWord}
    (h : (n = 1#10 ∧ 2 ^ 30 ≤ x.toNat) ∨ (n = 3#10 ∧ 2 ^ 16 ≤ x.toNat) ∨ (n = 22#10 ∧ 2 ^ 8 ≤ x.toNat)) : wrsrRefused n x = some 0x02 := by
  rcases h with ⟨rfl, h⟩ | ⟨rfl, h⟩ | ⟨rfl, h⟩
  · rw [wrsrRefused_mode, if_pos (highBits h)]
  · rw [wrsrRefused_lrhi, if_pos (highBits h)]
  · rw [wrsrRefused_qsub, if_pos (highBits h)]

/-- The origin record is only cleared (R67). -/
theorem wrsrRefused_origin {n : BitVec 10} {x : DWord} (h : n = 16#10 ∨ n = 17#10 ∨ n = 18#10 ∨ (n = 19#10 ∧ x ≠ 0#64)) :
    wrsrRefused n x = some 0x24 := by
  rcases h with rfl | rfl | rfl | ⟨rfl, h⟩
  · rfl
  · rfl
  · rfl
  · rw [wrsrRefused_porig3, if_pos h]

/-- Settles O14: a write that is not refused writes its register. -/
theorem wrsrResult : Obligations.WrsrResult := by
  refine ⟨fun s s₁ a x hr => ⟨fun hp => ⟨?_, ?_, fun hm => ?_⟩, fun hp => ⟨fun hw hc => ?_, ?_, fun hw => ?_, fun h0 => ?_⟩⟩, ?_, ?_, ?_, ?_⟩
  · rw [wrsr_next hr hp rfl rfl (.inl (by decide)), ← readS_w hr]; rfl
  · exact wrsr_next hr hp rfl rfl (.inl (by decide))
  · exact wrsr_next hr hp rfl rfl (.inr hm)
  · exact wrsr_next hr hp rfl (by rw [wrsrRefused_mode, if_neg (noHighBits hw), if_neg (Nat.not_lt.mpr hc)]) (.inl (by decide))
  · exact wrsr_next hr hp rfl rfl (.inl (by decide))
  · exact wrsr_next hr hp rfl (by rw [wrsrRefused_lrhi, if_neg (noHighBits hw)]) (.inl (by decide))
  · exact wrsr_next hr hp rfl (by rw [wrsrRefused_porig3, if_neg (not_not.mpr h0)]) (.inl (by decide))
  · intro s s₁ a x hp hr hw
    refine ⟨_, wrsr_next hr hp rfl (by rw [wrsrRefused_qsub, if_neg (noHighBits hw)]) (.inl (by decide)), ?_, ?_, ?_, ?_, fun q => ?_⟩
    · simp only [advance_w, stepOver_qsub, writeSpecial_qsub, writeQsub_w]
    · simp only [advance_w, stepOver_s, writeSpecial_qsub, writeQsub_w]
    · simp only [advance_w, stepOver_v, writeSpecial_qsub, writeQsub_w]
    · simp only [advance_m, writeSpecial_qsub, writeQsub_m]
    · have low : (x.setWidth 8).getLsbD q = x.getLsbD q := by simp
      simp only [advance_w, stepOver_qpos, writeSpecial_qsub, writeQsub_w, vecOf_getElem, low]
  · intro s s₁ a x n hp hr hn
    obtain ⟨hx, hw, h8⟩ := wrsr_readOnly hn s₁ x
    rw [wrsr_next hr hp rfl hx (.inl h8), hw]
  · intro s s₁ a x n hp hr
    refine ⟨fun h => ?_, fun ⟨hn, hw, hc⟩ => ?_, fun h => ?_⟩
    · exact wrsr_trap hr hp (wrsrRefused_wide h) (by decide)
    · exact wrsr_trap hr hp (by rw [hn, wrsrRefused_mode, if_neg (noHighBits hw), if_pos hc]; rfl) (by decide)
    · exact wrsr_trap hr hp (wrsrRefused_origin h) (by decide)
  · exact fun s s₁ a x hp hr => ⟨ttrap_next hr hp, tdead_next hr hp⟩

end Sys2Proof.Machine

/-! Fences (R317). -/

namespace Sys2Proof.Machine

/-! ### Fences (R123, R317) -/

section
variable {s : State} {scope : BitVec 3}

/-- What is drained at a scope (R123): the queue is empty, every load is performed, the bytes forwarded within the scope have arrived, and at gang
and system scope every remote access is acknowledged. -/
theorem drained_iff : drained s scope = true ↔ s.w.stores = [] ∧ (∀ l ∈ s.w.loads, l.waits = false) ∧ forwardsDone s scope = true ∧
    (scope.toNat < 3 ∨ s.w.remotes = []) := by
  simp [drained, and_assoc]

theorem forwardsDone_block : forwardsDone s 1#3 = !forwardingTo s.m (spanCore s.b) := rfl

/-- Beyond block scope the bytes on their way to every core count (R161). -/
theorem forwardsDone_device (h : 2 ≤ scope.toNat) : forwardsDone s scope = !forwardingTo s.m fun _ => true := by
  have h0 : scope ≠ 0#3 := by rintro rfl; exact absurd h (by decide)
  have h1 : scope ≠ 1#3 := by rintro rfl; exact absurd h (by decide)
  rw [forwardsDone, if_neg h0, if_neg h1]

/-- At device scope and beyond, with no bytes on their way to a core, and at gang and system scope every remote access acknowledged. -/
theorem drained_device (h : 2 ≤ scope.toNat) (hs : s.w.stores = []) (hl : ∀ l ∈ s.w.loads, l.waits = false)
    (hf : forwardingTo s.m (fun _ => true) = false) (hm : scope.toNat < 3 ∨ s.w.remotes = []) : drained s scope = true :=
  drained_iff.mpr ⟨hs, hl, by rw [forwardsDone_device h, hf]; rfl, hm⟩

/-- A load that is not performed keeps every scope from being drained. -/
theorem not_drained_of_waits (h : ∃ l ∈ s.w.loads, l.waits = true) : drained s scope = false := by
  obtain ⟨l, hl, hw⟩ := h
  refine Bool.eq_false_iff.mpr fun d => ?_
  rw [(drained_iff.mp d).2.1 l hl] at hw
  cases hw

/-- A fence completes once its scope is drained. -/
theorem fenceAt_next (h : drained s (scopeIn s.b scope) = true) : fenceAt scope s = .next (advance s) := by
  have hs := (drained_iff.mp h).1
  simp only [fenceAt, issueSilent, awaitDrained, hs, h, ne_eq, not_true_eq_false, ↓reduceIte, finish]

/-- A fence waits for the store queue first. -/
theorem fenceAt_queue (h : s.w.stores ≠ []) : fenceAt scope s = .next { s with w := waiting s.w .storeQueue, turn := 0 } := by
  simp only [fenceAt, issueSilent, awaitDrained, if_pos h, park, finish, wantFor]

/-- With its stores out of the queue a fence waits until its scope is drained. -/
theorem fenceAt_wait (h : s.w.stores = []) (h' : drained s (scopeIn s.b scope) = false) :
    fenceAt scope s = .next { s with w := waiting s.w .fence, turn := 0 } := by
  simp only [fenceAt, issueSilent, awaitDrained, h, h', ne_eq, not_true_eq_false, Bool.false_eq_true, ↓reduceIte, park, finish, wantFor]

/-- Every scope but gang stands for itself. -/
theorem scopeIn_of_ne_gang (b : Block) (h : scope ≠ 3#3) : scopeIn b scope = scope := by simp [scopeIn, h]

/-- A gang fence acts at gang scope, or, outside a gang, at device scope (R21). -/
theorem scopeIn_gang (b : Block) : scopeIn b 3#3 = if b.gcount = 0#9 then 2#3 else 3#3 := by simp [scopeIn]

theorem fenceWarp_next (h : s.w.stores = []) : execFenceWarp s = .next (advance s) := by
  simp only [execFenceWarp, issueSilent, h, ne_eq, not_true_eq_false, ↓reduceIte, finish]

theorem fenceWarp_queue (h : s.w.stores ≠ []) : execFenceWarp s = .next { s with w := waiting s.w .storeQueue, turn := 0 } := by
  simp only [execFenceWarp, issueSilent, if_pos h, park, finish, wantFor]

end

/-- Settles O23: each fence waits for its scope to be drained, and then only moves on. -/
theorem fenceResult : Obligations.FenceResult := by
  refine ⟨fun s hs => ⟨fenceWarp_next hs, fun hr => ?_⟩, fun s hs hl => ⟨fun hf => ?_, fun hf => ⟨?_, fun hm => ⟨?_, ?_⟩, fun hg => ?_⟩⟩,
    fun s hr hf => ?_, fun s hs => ?_, fun s hs hl => ?_⟩
  · exact (if_pos hr).trans (fenceWarp_next hs)
  · refine fenceAt_next (scope := 1#3) ?_
    rw [scopeIn_of_ne_gang _ (by decide)]
    exact drained_iff.mpr ⟨hs, hl, by rw [forwardsDone_block, hf]; rfl, .inl (by decide)⟩
  · refine fenceAt_next (scope := 2#3) ?_
    rw [scopeIn_of_ne_gang _ (by decide)]
    exact drained_device (by decide) hs hl hf (.inl (by decide))
  · refine fenceAt_next (scope := 3#3) ?_
    rw [scopeIn_gang]
    split <;> exact drained_device (by decide) hs hl hf (.inr hm)
  · refine fenceAt_next (scope := 4#3) ?_
    rw [scopeIn_of_ne_gang _ (by decide)]
    exact drained_device (by decide) hs hl hf (.inr hm)
  · refine fenceAt_next (scope := 3#3) ?_
    rw [scopeIn_gang, if_pos hg]
    exact drained_device (by decide) hs hl hf (.inl (by decide))
  · show execFenceXp s = _
    simp only [execFenceXp, issueSilent, hr, hf, Bool.false_eq_true, ↓reduceIte, finish]
  · simp only [List.forall_mem_cons]
    exact ⟨fenceWarp_queue hs, fenceAt_queue hs, fenceAt_queue hs, fenceAt_queue hs, fenceAt_queue hs, List.forall_mem_nil _⟩
  · simp only [List.forall_mem_cons]
    have hd := fun scope => not_drained_of_waits (scope := scope) hl
    exact ⟨fenceAt_wait hs (hd _), fenceAt_wait hs (hd _), fenceAt_wait hs (hd _), fenceAt_wait hs (hd _), List.forall_mem_nil _⟩

end Sys2Proof.Machine

/-! Writes of the hub's registers and by the fabric manager (R57, R168, R405, R453, R460). -/

namespace Sys2Proof.Machine

/-! ### Messages and tables -/

/-- Messages sent one after another stand in the outbox in their order. -/
theorem foldl_sendOut {α : Type} (f : α → Message) : ∀ (l : List α) (s : State),
    l.foldl (fun s d => sendOut s (f d)) s = { s with fab := { s.fab with outbox := s.fab.outbox ++ l.map f } }
  | [], s => by simp
  | a :: l, s => by rw [List.foldl_cons, foldl_sendOut f l]; simp [sendOut]

/-- A table with one entry replaced gives the other entries as before. -/
theorem find?_replaced_other {α : Type} (l : List (BitVec 10 × α)) {k j : BitVec 10} (v : α) (h : j ≠ k) :
    ((k, v) :: l.filter fun e => e.1 ≠ k).find? (fun e => e.1 = j) = l.find? (fun e => e.1 = j) := by
  rw [List.find?_cons_of_neg (by simpa using h.symm), List.find?_filter]
  congr 1
  funext e
  by_cases he : e.1 = j
  · simp [he, h]
  · simp [he]

theorem routeOf_put (f : Fabric) (k : BitVec 10) (v : DWord) : routeOf { f with route := entryPut f.route k v } k = v := by
  simp [routeOf, entryPut]

theorem routeOf_put_other (f : Fabric) {k j : BitVec 10} (v : DWord) (h : j ≠ k) :
    routeOf { f with route := entryPut f.route k v } j = routeOf f j := by
  simp only [routeOf, entryPut, find?_replaced_other _ _ h]

theorem putLocation_fab (s : State) (k : BitVec 10) (v : DWord) :
    (putLocation s k v).fab = { s.fab with loc := (k, v) :: s.fab.loc.filter fun e => e.1 ≠ k } := rfl

theorem locOf_putLocation (s : State) (k : BitVec 10) (v : DWord) : locOf (putLocation s k v).fab k = v := by
  simp [putLocation_fab, locOf]

theorem locOf_putLocation_other (s : State) {k j : BitVec 10} (v : DWord) (h : j ≠ k) :
    locOf (putLocation s k v).fab j = locOf s.fab j := by
  simp only [putLocation_fab, locOf, find?_replaced_other _ _ h]

/-! ### Writes of the hub's own registers (R57, R168, R405, R460) -/

/-- A field that must be zero is, as a number. -/
theorem bitsNat_eq_zero {k : Nat} (x : BitVec k) (lo n : Nat) : bitsNat x lo n = 0 ↔ x.extractLsb' lo n = 0#n := by
  rw [bitsNat, ← BitVec.toNat_inj]; simp

/-- CKPT_CFG is taken for the next interval, and on the fabric manager's device sent on, or it is refused (R168). -/
theorem writeCkptCfg_eq (s : State) (v : DWord) : writeCkptCfg s v =
    if v.extractLsb' 48 16 = 0#16 ∧ v.extractLsb' 14 18 = 0#18 ∧ 2 ≤ (v.extractLsb' 32 16).toNat ∧ (v.extractLsb' 32 16).toNat ≤ 1000 ∧
      5 ≤ (v.extractLsb' 0 14).toNat ∧ (v.extractLsb' 0 14).toNat ≤ 10000 then { s with
        hub := { s.hub with ckptNext := v }
        fab := { s.fab with outbox := s.fab.outbox ++ if s.fab.fm then (domainOthers s.fab).map (fun d => fmMessage d 0x3000 v) else [] } }
    else { s with hub := { s.hub with ckptErr := true } } := by
  simp only [writeCkptCfg, foldl_sendOut, Bool.and_eq_true, decide_eq_true_eq, bitsNat_eq_zero, and_assoc]
  simp only [bitsNat]
  split <;> rename_i c
  · refine (if_pos c).trans ?_
    split <;> simp only [List.append_nil]
  · exact if_neg c

/-- FAB_CFG with zero fields zero and a limit of at most 16 is taken; another value is refused (R405). -/
theorem writeFabCfg_taken {s : State} {v : DWord}
    (h : v.extractLsb' 21 42 = 0#42 ∧ v.extractLsb' 12 4 = 0#4 ∧ v.extractLsb' 5 3 = 0#3 ∧ (v.extractLsb' 16 5).toNat ≤ 16) :
    writeFabCfg s v = { s with fab := { s.fab with
      cfgErr := s.fab.cfgErr && !v.getLsbD 63, rnrlimit := v.extractLsb' 16 5, adth := v.extractLsb' 8 4 } } := by
  simp only [writeFabCfg, Bool.and_eq_true, decide_eq_true_eq, bitsNat_eq_zero, and_assoc]
  exact if_pos h

theorem writeFabCfg_refused {s : State} {v : DWord}
    (h : ¬(v.extractLsb' 21 42 = 0#42 ∧ v.extractLsb' 12 4 = 0#4 ∧ v.extractLsb' 5 3 = 0#3 ∧ (v.extractLsb' 16 5).toNat ≤ 16)) :
    writeFabCfg s v = { s with fab := { s.fab with cfgErr := true } } := by
  simp only [writeFabCfg, Bool.and_eq_true, decide_eq_true_eq, bitsNat_eq_zero, and_assoc]
  exact if_neg h

/-- A translation control register takes its value unless a request runs (R57). -/
theorem writeXlate_idle {s : State} {f : Hub → Hub} (h : xGo s = false) : writeXlate s f = { s with hub := f s.hub } := by
  simp only [writeXlate, h, Bool.false_eq_true, ↓reduceIte]

theorem writeXlate_running {s : State} {f : Hub → Hub} (h : xGo s = true) :
    writeXlate s f = { s with hub := { s.hub with xctl := setBits s.hub.xctl 28 1 1#1 } } := if_pos h

theorem registerWrite_xva0 (s : State) (v : DWord) :
    exec (.registerWrite 0x2000#16 v) s = .next (writeXlate s fun h => { h with xva0 := v }) := rfl
theorem registerWrite_xva1 (s : State) (v : DWord) :
    exec (.registerWrite 0x2008#16 v) s = .next (writeXlate s fun h => { h with xva1 := v }) := rfl
theorem registerWrite_xcnt (s : State) (v : DWord) :
    exec (.registerWrite 0x2010#16 v) s = .next (writeXlate s fun h => { h with xcnt := v }) := rfl
theorem registerWrite_xarg (s : State) (v : DWord) :
    exec (.registerWrite 0x2018#16 v) s = .next (writeXlate s fun h => { h with xarg := v }) := rfl

/-! ### Writes of the fabric manager (R405 to R408) -/

/-- A write of the fabric manager that gives no device an identity only writes its register. -/
theorem fmwrite_next {s : State} {off : BitVec 16} {v : DWord} {n : Nat} (hn : off.toNat = n) (h : substitutes s n v = none) :
    exec (.fmwrite off v) s = .next (fmWriteAt s n v) := by
  subst hn
  show execFmwrite off v s = _
  rw [execFmwrite, h]

/-- A write below the location table gives no device an identity. -/
theorem substitutes_below {s : State} {n : Nat} (v : DWord) (h : n < 0x8000) : substitutes s n v = none := by
  simp [substitutes, Nat.not_le.mpr h]

/-- The device's own registers and tables leave the warp as it is. -/
theorem fmWriteAt_fabId (s : State) (v : DWord) : (fmWriteAt s 0x4000 v).w = s.w ∧ (fmWriteAt s 0x4000 v).fab = putFabId s.fab v := by
  rw [fmWriteAt, if_neg (by decide), if_pos rfl]
  dsimp only
  split <;> exact ⟨rfl, rfl⟩

/-- FAB_DOM as the fabric manager sets it: the fields, and a full copy for a new buddy (R181, R405). -/
theorem putFabDom_eq (s : State) (v : DWord) :
    (putFabDom s v).w = s.w ∧ (putFabDom s v).m = s.m ∧
    (putFabDom s v).fab = { s.fab with
      buddy := v.extractLsb' 48 10, fmid := v.extractLsb' 32 10, brid := v.extractLsb' 16 10, domain := v.extractLsb' 0 10 } ∧
    (putFabDom s v).hub.rebuild = if v.extractLsb' 48 10 = s.fab.buddy ∨ v.extractLsb' 48 10 = 0x3FF#10 then s.hub.rebuild else true := by
  simp only [putFabDom, setBuddy, Bool.or_eq_true, decide_eq_true_eq]
  split
  · refine ⟨rfl, rfl, rfl, ?_⟩
    split <;> rfl
  · exact ⟨rfl, rfl, rfl, rfl⟩

/-- A write in the route table, and one in the location table, replaces one entry (R406, R408). -/
theorem fmWriteAt_route (s : State) (n : BitVec 10) (v : DWord) :
    fmWriteAt s (0x6000 + 8 * n.toNat) v = { s with fab := { s.fab with route := entryPut s.fab.route n v } } := by
  have := n.isLt
  have index : (0x6000 + 8 * n.toNat - 0x6000) / 8 = n.toNat := by omega
  rw [fmWriteAt, if_neg (by omega), if_neg (by omega), if_neg (by omega), if_neg (by omega), if_pos (by simp; omega), index, BitVec.ofNat_toNat,
    BitVec.setWidth_eq]

theorem fmWriteAt_location (s : State) {n : BitVec 10} (v : DWord) (h : n.toNat ≤ 992) :
    fmWriteAt s (0x8000 + 8 * n.toNat) v = putLocation s n v := by
  have index : (0x8000 + 8 * n.toNat - 0x8000) / 8 = n.toNat := by omega
  rw [fmWriteAt, if_neg (by omega), if_neg (by omega), if_neg (by omega), if_neg (by omega), if_neg (by simp), if_pos (by simp; omega), index,
    BitVec.ofNat_toNat, BitVec.setWidth_eq]

/-- Settles O42: each register by the equation of its write. -/
theorem registerEventResult : Obligations.RegisterEventResult := by
  refine ⟨fun s v => ⟨?_, ?_⟩, fun s v => ?_, fun s v => ?_, fun s v => rfl,
    fun s v => ⟨rfl, rfl, rfl, fun h => ?_, fun h off ho => ?_, fun off ho => ?_⟩, fun s v n => ⟨?_, ?_, ?_, fun hn hs => ?_⟩⟩
  · exact fmwrite_next (n := 0x3000) rfl (substitutes_below v (by decide))
  · exact congrArg Host.Outcome.next (writeCkptCfg_eq s v)
  · by_cases c : v.extractLsb' 21 42 = 0#42 ∧ v.extractLsb' 12 4 = 0#4 ∧ v.extractLsb' 5 3 = 0#3 ∧ (v.extractLsb' 16 5).toNat ≤ 16
    · refine ⟨_, congrArg Host.Outcome.next (writeFabCfg_taken c), fun _ _ _ _ => ⟨rfl, rfl, fun hb => ?_⟩, fun h => absurd c h, rfl, rfl, rfl⟩
      simp only [hb, Bool.not_true, Bool.and_false]
    · exact ⟨_, congrArg Host.Outcome.next (writeFabCfg_refused c), fun h1 h2 h3 h4 => absurd ⟨h1, h2, h3, h4⟩ c, fun _ => ⟨rfl, rfl, rfl⟩, rfl, rfl, rfl⟩
  · show Host.Outcome.next (writePwrCfg s v) = _
    simp only [writePwrCfg, Bool.and_eq_true, decide_eq_true_eq]
    split <;> rfl
  · simp only [registerWrite_xva0, registerWrite_xva1, registerWrite_xcnt, registerWrite_xarg, writeXlate_idle h, and_self]
  · rcases ho with rfl | rfl | rfl | rfl
    · rw [registerWrite_xva0, writeXlate_running h]
    · rw [registerWrite_xva1, writeXlate_running h]
    · rw [registerWrite_xcnt, writeXlate_running h]
    · rw [registerWrite_xarg, writeXlate_running h]
  · rcases ho with rfl | rfl | rfl | rfl | rfl <;> rfl
  · exact ⟨_, fmwrite_next (n := 0x4000) rfl (substitutes_below v (by decide)), fmWriteAt_fabId s v⟩
  · exact ⟨_, fmwrite_next (n := 0x4010) rfl (substitutes_below v (by decide)), putFabDom_eq s v⟩
  · have := n.isLt
    refine ⟨_, fmwrite_next (n := 0x6000 + 8 * n.toNat) ?_ (substitutes_below v (by omega)), ?_⟩
    · simp; omega
    · rw [fmWriteAt_route]
      exact ⟨routeOf_put _ _ _, fun k hk => routeOf_put_other _ _ hk⟩
  · refine ⟨_, fmwrite_next (n := 0x8000 + 8 * n.toNat) ?_ hs, ?_⟩
    · simp; omega
    · rw [fmWriteAt_location s v hn]
      exact ⟨locOf_putLocation s n v, fun k hk => locOf_putLocation_other s v hk⟩

end Sys2Proof.Machine

/-! Active lanes, and loads (R295 to R301). -/

namespace Sys2Proof.Machine

/-! ### Active lanes -/

theorem mem_laneList {m : Mask} {l : Fin 64} : l ∈ laneList m ↔ m.getLsbD l = true := by simp [laneList]

/-- A mask has no lanes when it is zero, and only then. -/
theorem laneList_eq_nil {m : Mask} : laneList m = [] ↔ m = 0#64 := by
  rw [List.eq_nil_iff_forall_not_mem]
  simp only [mem_laneList]
  refine ⟨fun h => ?_, fun h l => by simp [h]⟩
  ext i hi
  simpa [BitVec.getLsbD_eq_getElem, hi] using h ⟨i, hi⟩

/-- A consumer of a source that no lane of the mask reads poisoned goes through (R66). -/
theorem consumeV_clean {m : Mask} {x : Src} (h : Clean m x) : consumeV m x = .ok () := by
  simp only [consumeV, firstLane_none h]

theorem clean_zero (x : Src) : Clean 0#64 x := fun l h => by simp at h

theorem consumeS_clean {x : Scalar} (h : x.poison = false) : consumeS x = .ok () := by
  simp only [consumeS, h, Bool.false_eq_true, ↓reduceIte]

/-! ### Loads (R295 to R301) -/

/-- Lanes may be read where no earlier access holds them and the core has requests for them (R55). -/
theorem readReady_iff {s : State} {n : Nat} : readReady s n = .ok () ↔ loadReady s = .ok () ∧ requestsFree s n = .ok () := by
  unfold readReady
  cases loadReady s <;> simp

/-- A load with no lane only moves on. -/
theorem vectorLoad_idle {d : Byte} {plan : List LaneReq → State → Run (State × List LaneJob)} {acquire : Bool} {s : State} :
    vectorLoad d [] plan acquire s = .ok (advance s) := rfl

/-- A load whose lanes may be read, and are planned, waits for them to be written. -/
theorem vectorLoad_next {d : Byte} {reqs : List LaneReq} {plan : List LaneReq → State → Run (State × List LaneJob)} {acquire : Bool} {s t : State}
    {js : List LaneJob} (hn : reqs ≠ []) (hr : readReady s reqs.length = .ok ()) (hp : plan reqs s = .ok (t, js)) :
    vectorLoad d reqs plan acquire s = .ok (pendLoad t (.vec d.toNat (accessSize t.w) (loadSigned t.w)) (pairRegs d (wideEt t)) js acquire) := by
  rw [vectorLoad, if_neg (by simpa using hn)]
  simp only [hr, hp]

section
variable {s s₁ : State} {d i : Byte} {h : BitVec 4} {w : BitVec 2} {g : BitVec 1} {k : BitVec 3}

theorem ldv_idle {x : Scalar} (hp : Passes s .no [vdst d (wideEt s), .ssrc i] h) (hr : readS s i = .ok (s₁, x)) (ha : active s.w = 0#64) :
    exec (.ldv d i h w g k) s = .next (advance s₁) := by
  refine exec_ok (show execLdv d i h w g k s = _ from rfl) hp rfl ?_
  simp only [hr, scalarOffsets, readS_w hr, laneList_eq_nil.mpr ha, List.map_nil, vectorLoad_idle]

theorem ldv_next {x : Scalar} {t : State} {js : List LaneJob} (hp : Passes s .no [vdst d (wideEt s), .ssrc i] h) (hr : readS s i = .ok (s₁, x))
    (ha : active s.w ≠ 0#64) (hf : readReady s₁ (laneList (active s.w)).length = .ok ())
    (hl : planLoad h (accessSize s.w) ((laneList (active s.w)).map fun l =>
      (l.val, if x.poison then .inl x.code else .inr (indexOffset w g k (l.val * accessSize s.w) x.val))) s₁ = .ok (t, js)) :
    exec (.ldv d i h w g k) s = .next (pendLoad t (.vec d.toNat (accessSize t.w) (loadSigned t.w)) (pairRegs d (wideEt t)) js false) := by
  refine exec_ok (show execLdv d i h w g k s = _ from rfl) hp rfl ?_
  simp only [hr, scalarOffsets, readS_w hr]
  refine vectorLoad_next ?_ ?_ hl
  · simpa [laneList_eq_nil] using ha
  · rw [List.length_map]; exact hf

/-- The load of a vector index with no lane active (R299). -/
theorem indexedLoad_idle {x : Src} {f : DWord → Int} {plan : List LaneReq → State → Run (State × List LaneJob)} {acquire : Bool}
    (hw : s₁.w = s.w) (ha : active s.w = 0#64) : vectorLoad d (vectorOffsets s₁.w x f) plan acquire s₁ = .ok (advance s₁) := by
  rw [vectorOffsets, hw, laneList_eq_nil.mpr ha]
  exact vectorLoad_idle

/-- The load of a vector index with its lanes planned (R299). -/
theorem indexedLoad_next {x : Src} {f : DWord → Int} {plan : List LaneReq → State → Run (State × List LaneJob)} {acquire : Bool} {t : State}
    {js : List LaneJob} (hw : s₁.w = s.w) (ha : active s.w ≠ 0#64) (hf : readReady s₁ (laneList (active s.w)).length = .ok ())
    (hl : plan ((laneList (active s.w)).map fun l => (l.val, if (x l).poison then .inl (x l).code else .inr (f (x l).val))) s₁ = .ok (t, js)) :
    vectorLoad d (vectorOffsets s₁.w x f) plan acquire s₁ =
      .ok (pendLoad t (.vec d.toNat (accessSize t.w) (loadSigned t.w)) (pairRegs d (wideEt t)) js acquire) := by
  rw [vectorOffsets, hw]
  refine vectorLoad_next ?_ ?_ hl
  · simpa [laneList_eq_nil] using ha
  · rw [List.length_map]; exact hf

theorem gatherForm_idle {x : Src} (hp : Passes s .no [vdst d (wideEt s), .vsrc i (w = 3#2)] h) (hr : readV s (w = 3#2) i = .ok (s₁, x))
    (ha : active s.w = 0#64) (acquire : Bool) :
    gatherForm d i h w g k acquire s = .next (popQueues [vdst d (wideEt s), .vsrc i (w = 3#2)] (advance s₁)) := by
  refine issue_next hp ?_
  simp only [hr]
  exact indexedLoad_idle (readV_w hr) ha

theorem gatherForm_next {x : Src} {t : State} {js : List LaneJob} (hp : Passes s .no [vdst d (wideEt s), .vsrc i (w = 3#2)] h)
    (hr : readV s (w = 3#2) i = .ok (s₁, x)) (ha : active s.w ≠ 0#64) (hf : readReady s₁ (laneList (active s.w)).length = .ok ())
    (hl : planLoad h (accessSize s.w) ((laneList (active s.w)).map fun l =>
      (l.val, if (x l).poison then .inl (x l).code else .inr (indexOffset w g k 0 (x l).val))) s₁ = .ok (t, js)) (acquire : Bool) :
    gatherForm d i h w g k acquire s = .next (popQueues [vdst d (wideEt s), .vsrc i (w = 3#2)]
      (pendLoad t (.vec d.toNat (accessSize t.w) (loadSigned t.w)) (pairRegs d (wideEt t)) js acquire)) := by
  refine issue_next hp ?_
  simp only [hr]
  refine indexedLoad_next (readV_w hr) ha hf ?_
  rw [readV_w hr]; exact hl

theorem ldc_idle {x : Src} (hp : Passes s .no [vdst d (wideEt s), .vsrc i (w = 3#2)]) (hr : readV s (w = 3#2) i = .ok (s₁, x))
    (ha : active s.w = 0#64) : exec (.ldc d i w g k) s = .next (popQueues [vdst d (wideEt s), .vsrc i (w = 3#2)] (advance s₁)) := by
  refine exec_next (show execLdc d i w g k s = _ from rfl) hp ?_
  simp only [hr]
  exact indexedLoad_idle (readV_w hr) ha

theorem ldc_next {x : Src} {t : State} {js : List LaneJob} (hp : Passes s .no [vdst d (wideEt s), .vsrc i (w = 3#2)])
    (hr : readV s (w = 3#2) i = .ok (s₁, x)) (ha : active s.w ≠ 0#64) (hf : readReady s₁ (laneList (active s.w)).length = .ok ())
    (hl : planLanes (planConst (accessSize s.w)) ((laneList (active s.w)).map fun l =>
      (l.val, if (x l).poison then .inl (x l).code else .inr (indexOffset w g k 0 (x l).val))) s₁ = .ok (t, js)) :
    exec (.ldc d i w g k) s = .next (popQueues [vdst d (wideEt s), .vsrc i (w = 3#2)]
      (pendLoad t (.vec d.toNat (accessSize t.w) (loadSigned t.w)) (pairRegs d (wideEt t)) js false)) := by
  refine exec_next (show execLdc d i w g k s = _ from rfl) hp ?_
  simp only [hr]
  refine indexedLoad_next (readV_w hr) ha hf ?_
  rw [readV_w hr]; exact hl

theorem sld_idle (hp : Passes s .yes [.sdst d, .ssrc i] h) (ha : active s.w = 0#64) : exec (.sld d i h w g k) s = .next (advance s) := by
  refine exec_ok (show execSld d i h w g k s = _ from rfl) hp rfl ?_
  simp only [warpOnce, if_pos ha]

theorem sld_next {x : Scalar} {t : State} {js : List LaneJob} (hp : Passes s .yes [.sdst d, .ssrc i] h) (hr : readS s i = .ok (s₁, x))
    (ha : active s.w ≠ 0#64) (hf : readReady s₁ 1 = .ok ())
    (hl : planLoad h (accessSize s.w) [(0, if x.poison then .inl x.code else .inr (indexOffset w g k 0 x.val))] s₁ = .ok (t, js)) :
    exec (.sld d i h w g k) s = .next (pendLoad t (.scalar d.toNat (accessSize t.w) (loadSigned t.w)) [] js false) := by
  obtain ⟨hm, hq⟩ := readReady_iff.mp hf
  refine exec_ok (show execSld d i h w g k s = _ from rfl) hp rfl ?_
  simp only [warpOnce, if_neg ha, hr, hm, hq, readS_w hr, hl]

end

/-- Settles O16: each load by its form, with no lane active and with its lanes planned. -/
theorem loadResult : Obligations.LoadResult := by
  exact ⟨fun s s₁ d i h w g k x hp hr => ⟨ldv_idle hp hr, fun t js => ldv_next hp hr⟩,
    fun s s₁ d i h w g k x hp hr => ⟨fun ha => ⟨gatherForm_idle hp hr ha false, gatherForm_idle hp hr ha true⟩,
      fun t js ha hf hl => ⟨gatherForm_next hp hr ha hf hl false, gatherForm_next hp hr ha hf hl true⟩⟩,
    fun s s₁ d i w g k x hp hr => ⟨ldc_idle hp hr, fun t js => ldc_next hp hr⟩,
    fun s d i h w g k hp => ⟨sld_idle hp, fun s₁ t x js hr => sld_next hp hr⟩⟩

end Sys2Proof.Machine

/-! Stores, atomics and reductions (R298 to R300, R318 to R322). -/

namespace Sys2Proof.Machine

/-! ### The store queue -/

/-- An entry that finds room joins the store queue, behind the earlier ones (R120). -/
theorem pushStore_next {t : State} {kind : StoreKind} {ls : List LaneStore} {n : BitVec 4} {rel : Option (BitVec 3)} (h : QueueRoom t ls) :
    pushStore t kind ls n rel = .ok (queued t kind ls n rel) := by
  obtain ⟨hl, hq⟩ := h
  rw [pushStore, if_neg (by omega), hq]
  rfl

section
variable {s s₁ t : State} {d i : Byte} {h : BitVec 4} {w : BitVec 2} {g : BitVec 1} {k : BitVec 3}
variable {reqs : List StoreReq} {size : Nat} {rel : Option (BitVec 3)} {ls : List LaneStore}

/-- A store with no lane only moves on. -/
theorem storeLanes_idle (hh : handleFault (handleAt s.w h) true true = none) : storeLanes h size [] rel s = .ok (advance s) := by
  simp [storeLanes, hh]

/-- A store whose lanes are all resolved joins the queue (R298). -/
theorem storeLanes_next (hh : handleFault (handleAt s.w h) true true = none) (hn : reqs ≠ []) (hm : memReady s = .ok ())
    (hl : resolveStores h .store size reqs s = .ok (t, ls, [])) (hq : QueueRoom t ls) :
    storeLanes h size reqs rel s = .ok (queued t .store ls h rel) := by
  simp only [storeLanes, hh, if_neg (show ¬ reqs.isEmpty = true by simpa using hn), hm, hl, pushStore_next hq]

theorem storeReqs_nil {off : Fin 64 → Int} (ha : active s.w = 0#64) (wide : Bool) : storeReqs s.w wide d off = [] := by
  rw [storeReqs, laneList_eq_nil.mpr ha, List.map_nil]

theorem storeReqs_ne_nil {off : Fin 64 → Int} (ha : active s.w ≠ 0#64) (wide : Bool) : storeReqs s.w wide d off ≠ [] := by
  simpa [storeReqs, laneList_eq_nil] using ha

theorem stv_idle {x : Scalar} (hp : Passes s .no [vdst d (wideEt s), .ssrc i] h) (hr : readS s i = .ok (s₁, x))
    (hh : handleFault (handleAt s.w h) true true = none) (ha : active s.w = 0#64) : exec (.stv d i h w g k) s = .next (advance s₁) := by
  refine exec_ok (show execStv d i h w g k s = _ from rfl) hp rfl ?_
  rw [← readS_w hr] at hh
  simp only [hr, readS_w hr, ha, ↓reduceIte, consumeV_clean (clean_zero _), storeReqs_nil ha]
  exact storeLanes_idle hh

theorem stv_next {x : Scalar} (hp : Passes s .no [vdst d (wideEt s), .ssrc i] h) (hr : readS s i = .ok (s₁, x))
    (hh : handleFault (handleAt s.w h) true true = none) (ha : active s.w ≠ 0#64) (hx : x.poison = false)
    (hc : Clean (active s.w) (vecSrc s.w (wideEt s) d.toNat)) (hm : memReady s₁ = .ok ())
    (hl : resolveStores h .store (accessSize s.w) (storeReqs s.w (wideEt s) d fun l => indexOffset w g k (l.val * accessSize s.w) x.val) s₁ =
      .ok (t, ls, [])) (hq : QueueRoom t ls) : exec (.stv d i h w g k) s = .next (queued t .store ls h none) := by
  refine exec_ok (show execStv d i h w g k s = _ from rfl) hp rfl ?_
  rw [← readS_w hr] at hh
  have he : wideEt s₁ = wideEt s := by simp only [wideEt, readS_w hr]
  simp only [hr, readS_w hr, he, if_neg ha, consumeS_clean hx, consumeV_clean hc]
  exact storeLanes_next hh (storeReqs_ne_nil ha _) hm hl hq

theorem scatterForm_idle {x : Src} (hp : Passes s .no [vdst d (wideEt s), .vsrc i (w = 3#2)] h) (hr : readV s (w = 3#2) i = .ok (s₁, x))
    (hh : handleFault (handleAt s.w h) true true = none) (ha : active s.w = 0#64) (rel : Option (BitVec 3)) :
    scatterForm d i h w g k rel s = .next (popQueues [vdst d (wideEt s), .vsrc i (w = 3#2)] (advance s₁)) := by
  refine issue_next hp ?_
  rw [← readV_w hr] at hh
  simp only [hr, readV_w hr, ha, consumeV_clean (clean_zero _), storeReqs_nil ha]
  exact storeLanes_idle hh

theorem scatterForm_next {x : Src} (hp : Passes s .no [vdst d (wideEt s), .vsrc i (w = 3#2)] h) (hr : readV s (w = 3#2) i = .ok (s₁, x))
    (hh : handleFault (handleAt s.w h) true true = none) (ha : active s.w ≠ 0#64) (hx : Clean (active s.w) x)
    (hc : Clean (active s.w) (vecSrc s.w (wideEt s) d.toNat)) (hm : memReady s₁ = .ok ())
    (hl : resolveStores h .store (accessSize s.w) (storeReqs s.w (wideEt s) d fun l => indexOffset w g k 0 (x l).val) s₁ = .ok (t, ls, []))
    (hq : QueueRoom t ls) (rel : Option (BitVec 3)) :
    scatterForm d i h w g k rel s = .next (popQueues [vdst d (wideEt s), .vsrc i (w = 3#2)] (queued t .store ls h rel)) := by
  refine issue_next hp ?_
  rw [← readV_w hr] at hh
  have he : wideEt s₁ = wideEt s := by simp only [wideEt, readV_w hr]
  simp only [hr, readV_w hr, he, consumeV_clean hx, consumeV_clean hc]
  exact storeLanes_next hh (storeReqs_ne_nil ha _) hm hl hq

theorem sst_idle (hp : Passes s .yes [.ssrc d, .ssrc i] h) (hh : handleFault (handleAt s.w h) true true = none) (ha : active s.w = 0#64) :
    exec (.sst d i h w g k) s = .next (advance s) := by
  refine exec_ok (show execSst d i h w g k s = _ from rfl) hp rfl ?_
  simp only [if_pos ha, storeLanes_idle hh]

theorem sst_next {s₂ : State} {x y : DWord} (hp : Passes s .yes [.ssrc d, .ssrc i] h) (hh : handleFault (handleAt s.w h) true true = none)
    (ha : active s.w ≠ 0#64) (hr : readS s i = .ok (s₁, ⟨x, false⟩)) (hr₂ : readS s₁ d = .ok (s₂, ⟨y, false⟩)) (hm : memReady s₂ = .ok ())
    (hl : resolveStores h .store (accessSize s.w) [⟨0, indexOffset w g k 0 x, y⟩] s₂ = .ok (t, ls, [])) (hq : QueueRoom t ls) :
    exec (.sst d i h w g k) s = .next (queued t .store ls h none) := by
  have hw : s₂.w = s.w := (readS_w hr₂).trans (readS_w hr)
  refine exec_ok (show execSst d i h w g k s = _ from rfl) hp rfl ?_
  rw [← hw] at hh
  simp only [if_neg ha, hr, hr₂, consumeS, Bool.false_eq_true, ↓reduceIte, hw]
  exact storeLanes_next hh (by simp) hm hl hq

end

/-- Settles O18: each store form by its lanes, with none active and with all of them resolved. -/
theorem storeResult : Obligations.StoreResult := by
  exact ⟨fun s s₁ d i h w g k x hp hr hh => ⟨stv_idle hp hr hh, fun t ls => stv_next hp hr hh⟩,
    fun s s₁ d i h w g k x hp hr hh => ⟨fun ha => ⟨scatterForm_idle hp hr hh ha none, scatterForm_idle hp hr hh ha (some (modeDs s.w))⟩,
      fun t ls ha hx hc hm hl hq =>
        ⟨scatterForm_next hp hr hh ha hx hc hm hl hq none, scatterForm_next hp hr hh ha hx hc hm hl hq (some (modeDs s.w))⟩⟩,
    fun s d i h w g k hp hh => ⟨sst_idle hp hh, fun s₁ s₂ t x y ls => sst_next hp hh⟩⟩

/-! ### Atomics and reductions (R318 to R322) -/

/-- No lane is faulty where every place takes atomics. -/
theorem atomFaults_nil {ls : List LaneStore} (hb : ∀ q ∈ ls, atomPage q.place = none) :
    (ls.filterMap fun q => (atomPage q.place).map fun dt => (⟨q.lane, cIllegalAtomic, dt, q.place.va⟩ : LaneFault)) = [] := by
  rw [List.filterMap_eq_nil_iff]
  intro q hq
  rw [hb q hq, Option.map_none]

section
variable {s s₁ t : State} {op : BitVec 3} {d i : Byte} {h : BitVec 4} {w : BitVec 1} {r : BitVec 2} {ix y : Src}

theorem atomForm_idle (hp : Passes s .no [atomOpd op (w = 1#1) d, .vsrc i false] h) (ht : atomType op (w = 1#1) (modeEt s.w) = true)
    (hr : readV s false i = .ok (s₁, ix)) (ha : active s.w = 0#64) :
    atomForm op d i h w r s = .next (popQueues [atomOpd op (w = 1#1) d, .vsrc i false] (advance s₁)) := by
  rw [atomForm]
  refine issue_next hp ?_
  simp only [ht, Bool.not_true, Bool.false_eq_true, ↓reduceIte, hr, readV_w hr, ha, consumeV_clean (clean_zero _)]

theorem atomForm_next {js : List LaneJob} (hp : Passes s .no [atomOpd op (w = 1#1) d, .vsrc i false] h)
    (ht : atomType op (w = 1#1) (modeEt s.w) = true) (hr : readV s false i = .ok (s₁, ix)) (ha : active s.w ≠ 0#64)
    (hy : y = if op = 7#3 then vecSrc s.w (w = 1#1) (d.toNat + if w = 1#1 then 2 else 1) else fun _ => Scalar.zero)
    (hi : Clean (active s.w) ix) (hc : Clean (active s.w) (vecSrc s.w (w = 1#1) d.toNat)) (hcy : Clean (active s.w) y)
    (hl : loadReady s₁ = .ok ()) (hq : requestsFree s₁ (laneList (active s.w)).length = .ok ())
    (hj : atomPlan h op (if w = 1#1 then 8 else 4) ((laneList (active s.w)).map fun l =>
      (l.val, atomOffset (w = 1#1) (ix l).val, (vecSrc s.w (w = 1#1) d.toNat l).val, (y l).val)) s₁ = .ok (t, js)) :
    atomForm op d i h w r s = .next (popQueues [atomOpd op (w = 1#1) d, .vsrc i false]
      (issueAtomic t (.vec d.toNat (if w = 1#1 then 8 else 4) false) (pairRegs d (w = 1#1)) js (r.getLsbD 0)
        (if r.getLsbD 1 then some (scopeIn t.b (modeDs t.w)) else none) h)) := by
  subst hy
  rw [atomForm]
  refine issue_next hp ?_
  simp only [ht, Bool.not_true, Bool.false_eq_true, ↓reduceIte, hr, readV_w hr, consumeV_clean hi, consumeV_clean hc, if_neg ha,
    decide_eq_true_eq, consumeV_clean hcy, hl, List.length_map, hq, atomSize, hj]

theorem redForm_idle (hp : Passes s .no [vdst d (w = 1#1), .vsrc i false] h) (ht : atomType op (w = 1#1) (modeEt s.w) = true)
    (hr : readV s false i = .ok (s₁, ix)) (hh : handleFault (handleAt s.w h) true true = none) (ha : active s.w = 0#64) :
    redForm op d i h w r s = .next (popQueues [vdst d (w = 1#1), .vsrc i false] (advance s₁)) := by
  rw [redForm]
  refine issue_next hp ?_
  simp only [ht, Bool.not_true, Bool.false_eq_true, ↓reduceIte, hr, readV_w hr, ha, consumeV_clean (clean_zero _), hh]

theorem redForm_next {ls : List LaneStore} (hp : Passes s .no [vdst d (w = 1#1), .vsrc i false] h)
    (ht : atomType op (w = 1#1) (modeEt s.w) = true) (hr : readV s false i = .ok (s₁, ix))
    (hh : handleFault (handleAt s.w h) true true = none) (ha : active s.w ≠ 0#64) (hi : Clean (active s.w) ix)
    (hc : Clean (active s.w) (vecSrc s.w (w = 1#1) d.toNat)) (hm : memReady s₁ = .ok ())
    (hl : resolveStores h .reduce (if w = 1#1 then 8 else 4) (storeReqs s.w (w = 1#1) d fun l => atomOffset (w = 1#1) (ix l).val) s₁ =
      .ok (t, ls, []))
    (hb : ∀ q ∈ ls, atomPage q.place = none) (hq : QueueRoom t ls) :
    redForm op d i h w r s = .next (popQueues [vdst d (w = 1#1), .vsrc i false]
      (queued t (.red op (w = 1#1) (t.w.mode.extractLsb' 5 4)) ls h (if r.getLsbD 1 then some (scopeIn t.b (modeDs t.w)) else none))) := by
  rw [redForm]
  refine issue_next hp ?_
  simp only [ht, Bool.not_true, Bool.false_eq_true, ↓reduceIte, hr, readV_w hr, consumeV_clean hi, consumeV_clean hc, hh, if_neg ha, hm,
    atomSize, decide_eq_true_eq, hl, atomFaults_nil hb, List.append_nil, List.mergeSort_nil, pushStore_next hq]

/-- An instruction of the atomic form is an atomic of the form's operation. -/
theorem givesAtomic_of {form : Byte → Byte → BitVec 4 → BitVec 1 → BitVec 2 → Instr}
    (e : ∀ d i h w r s, exec (form d i h w r) s = atomForm op d i h w r s) : GivesAtomic op form := by
  intro s s₁ d i h w r ix hp ht hr
  rw [e]
  exact ⟨atomForm_idle hp ht hr, fun t y js => atomForm_next hp ht hr⟩

/-- An instruction of the reduction form is a reduction of the form's operation. -/
theorem givesReduction_of {form : Byte → Byte → BitVec 4 → BitVec 1 → BitVec 2 → Instr}
    (e : ∀ d i h w r s, exec (form d i h w r) s = redForm op d i h w r s) : GivesReduction op form := by
  intro s s₁ d i h w r ix hp ht hr hh
  rw [e]
  exact ⟨redForm_idle hp ht hr hh, fun t ls => redForm_next hp ht hr hh⟩

end

section
variable {s : State} {k : PendKind} {regs : List Nat} {js : List LaneJob} {acq : Bool} {rel : Option (BitVec 3)} {n : BitVec 4} {p : PendLoad}
  (hp : p = { kind := k, jobs := js, regs := regs, flag := none, pc := s.w.pc, since := s.w.cyc.toNat, acquire := acq, rel := rel, hreg := n })
include hp

/-- An atomic that nothing earlier holds is performed as it issues (R121, R124). -/
theorem issueAtomic_ready (hr : atomReady s p = true) : issueAtomic s k regs js acq rel n =
    pendAtomic { (performAtoms js s).1 with m := nextStore (performAtoms js s).1.m } k regs (performAtoms js s).2 acq rel n := by
  subst hp
  simp only [issueAtomic, hr, ↓reduceIte, performStep]

/-- An atomic that something earlier holds is kept with its lanes (R121, R124). -/
theorem issueAtomic_held (hr : atomReady s p = false) : issueAtomic s k regs js acq rel n = pendAtomic s k regs js acq rel n := by
  subst hp
  simp only [issueAtomic, hr, Bool.false_eq_true, ↓reduceIte]

end

/-- Settles O24: the two forms, instruction by instruction, and the atomic's issue. -/
theorem atomicResult : Obligations.AtomicResult := by
  have ready := fun s k regs js acq rel n p hp => And.intro (issueAtomic_ready (s := s) (k := k) (regs := regs) (js := js) (acq := acq)
    (rel := rel) (n := n) (p := p) hp) (issueAtomic_held hp)
  exact ⟨givesAtomic_of fun _ _ _ _ _ _ => rfl,
    givesAtomic_of fun _ _ _ _ _ _ => rfl,
    givesAtomic_of fun _ _ _ _ _ _ => rfl,
    givesAtomic_of fun _ _ _ _ _ _ => rfl,
    givesAtomic_of fun _ _ _ _ _ _ => rfl,
    givesAtomic_of fun _ _ _ _ _ _ => rfl,
    givesAtomic_of fun _ _ _ _ _ _ => rfl,
    givesAtomic_of fun _ _ _ _ _ _ => rfl,
    givesReduction_of fun _ _ _ _ _ _ => rfl,
    givesReduction_of fun _ _ _ _ _ _ => rfl,
    givesReduction_of fun _ _ _ _ _ _ => rfl,
    givesReduction_of fun _ _ _ _ _ _ => rfl,
    givesReduction_of fun _ _ _ _ _ _ => rfl,
    givesReduction_of fun _ _ _ _ _ _ => rfl, ready⟩

end Sys2Proof.Machine

/-! Tile loads and stores (R302 to R306). -/

namespace Sys2Proof.Machine

section
variable {s t : State} {d i : Byte} {h : BitVec 4} {sh : TileShape} {c : List Nat}

/-- What is done once for the warp only moves on where no lane is active (R18). -/
theorem warpOnce_skips {k : State → Run State} (ha : active s.w = 0#64) : warpOnce s k = .ok (advance s) := by
  rw [warpOnce, if_pos ha]

theorem warpOnce_runs {k : State → Run State} (ha : active s.w ≠ 0#64) : warpOnce s k = k s := by
  rw [warpOnce, if_neg ha]

theorem warpOnce_ok {u : State} : warpOnce s (fun _ => .ok u) = .ok (if active s.w = 0#64 then advance s else u) := by
  rw [warpOnce, apply_ite Except.ok]

section
variable (hp : Passes s .no [.vreg d 0 1, .sregs i 2] h)
include hp

/-- A poisoned coordinate poisons the range of a tile load (R65, R304). -/
theorem tld_poisonedCoord {code : Byte} (hs : tileChecks s d h false = .ok sh) (hc : coordPair s.w i = .inl code) :
    exec (.tld d i h) s = .next (if active s.w = 0#64 then advance s
      else pendLoad s (.tile d.toNat) ((List.range sh.regs).map (d.toNat + ·)) (poisonRange sh.regs code 0x00#8 0#80 false) false) := by
  refine exec_ok (show execTld d i h s = _ from rfl) hp rfl ?_
  simp only [hs, hc]
  exact warpOnce_ok

/-- A space that a tile load is not admitted to poisons the range (R24, R64). -/
theorem tld_refusedSpace {code detail : Byte} (hs : tileChecks s d h false = .ok sh) (hc : coordPair s.w i = .inr c)
    (hf : handleFault (handleAt s.w h) false false = some (code, detail)) :
    exec (.tld d i h) s = .next (if active s.w = 0#64 then advance s
      else pendLoad s (.tile d.toNat) ((List.range sh.regs).map (d.toNat + ·)) (poisonRange sh.regs code detail 0#80 true) false) := by
  refine exec_ok (show execTld d i h s = _ from rfl) hp rfl ?_
  simp only [hs, hc, hf]
  exact warpOnce_ok

theorem tld_idle (hs : tileChecks s d h false = .ok sh) (hc : coordPair s.w i = .inr c)
    (hf : handleFault (handleAt s.w h) false false = none) (hv : coordValid (handleAt s.w h).entry c = true) (ha : active s.w = 0#64) :
    exec (.tld d i h) s = .next (advance s) := by
  refine exec_ok (show execTld d i h s = _ from rfl) hp rfl ?_
  simp only [hs, hc, hf, hv, Bool.not_true, Bool.false_eq_true, ↓reduceIte, warpOnce_skips ha]

theorem tld_next {vals : List Nat} {scales : List Byte} (hs : tileChecks s d h false = .ok sh) (hc : coordPair s.w i = .inr c)
    (hf : handleFault (handleAt s.w h) false false = none) (hv : coordValid (handleAt s.w h).entry c = true) (ha : active s.w ≠ 0#64)
    (hl : loadReady s = .ok ()) (hq : requestsFree s (64 * sh.regs) = .ok ())
    (he : tileElems (warpReader s h (handleAt s.w h)) (handleAt s.w h) c s = .ok (t, vals, scales)) :
    exec (.tld d i h) s = .next (pendLoad t (.tile d.toNat) ((List.range sh.regs).map (d.toNat + ·))
      ((tileWords sh (handleAt s.w h).entry (tilePositions (handleAt s.w h).entry c) vals scales).zipIdx.map fun q =>
        ⟨q.2, .value (BitVec.ofNat 64 q.1)⟩) false) := by
  refine exec_ok (show execTld d i h s = _ from rfl) hp rfl ?_
  simp only [hs, hc, hf, hv, Bool.not_true, Bool.false_eq_true, ↓reduceIte, warpOnce_runs ha, hl, hq, he]

theorem tst_idle (hs : tileChecks s d h true = .ok sh) (hc : coordPair s.w i = .inr c) (hv : coordValid (handleAt s.w h).entry c = true)
    (ha : active s.w = 0#64) : exec (.tst d i h) s = .next (advance s) := by
  refine exec_ok (show execTst d i h s = _ from rfl) hp rfl ?_
  simp only [hs, hc, hv, Bool.not_true, Bool.false_eq_true, ↓reduceIte, warpOnce_skips ha]

theorem tst_next {ls : List LaneStore} (hs : tileChecks s d h true = .ok sh) (hc : coordPair s.w i = .inr c)
    (hv : coordValid (handleAt s.w h).entry c = true) (ha : active s.w ≠ 0#64) (hr : rangePoison s.w d.toNat sh.regs = none)
    (hm : memReady s = .ok ()) (hl : tileStores h (handleAt s.w h) sh c d.toNat s = .ok (t, ls)) (hq : QueueRoom t ls) :
    exec (.tst d i h) s = .next (queued t .store ls h none) := by
  refine exec_ok (show execTst d i h s = _ from rfl) hp rfl ?_
  simp only [hs, hc, hv, Bool.not_true, Bool.false_eq_true, ↓reduceIte, warpOnce_runs ha, hr, hm, hl, pushStore_next hq]

end

end

/-- Settles O20: a tile load by its coordinates and its space, a tile store by its lanes. -/
theorem tileAccessResult : Obligations.TileAccessResult := by
  exact ⟨fun s d i h sh hp hs => ⟨fun c => tld_poisonedCoord hp hs, fun c code detail => tld_refusedSpace hp hs,
      fun c hc hf hv => ⟨tld_idle hp hs hc hf hv, fun t vals scales => tld_next hp hs hc hf hv⟩⟩,
    fun s d i h sh c hp hs hc hv => ⟨tst_idle hp hs hc hv, fun t ls => tst_next hp hs hc hv⟩⟩

end Sys2Proof.Machine

/-! Queues and key-value translation (R326 to R328). -/

namespace Sys2Proof.Machine

section
variable {s s₁ t u : State} {q : BitVec 3} {a d i : Byte} {h : BitVec 4}

theorem qpush_full {x : Scalar} (hp : Passes s .only [.ssrc a]) (hr : readS s a = .ok (s₁, x)) (hf : 32 ≤ queueFill s₁ q) :
    exec (.qpush q a) s = .next { s with w := waiting s.w (.queue q), turn := 0 } := by
  refine exec_park (i := .qpush q a) (show execQpush q a s = _ from rfl) hp ?_ rfl
  simp only [hr, if_pos hf]

/-- An entry that nothing earlier holds joins its queue at once (R326). -/
theorem qpush_now {x : Scalar} (hp : Passes s .only [.ssrc a]) (hr : readS s a = .ok (s₁, x)) (hf : queueFill s₁ q < 32)
    (hn : s₁.w.pushes = []) (hd : drained s₁ 1#3 = true) : exec (.qpush q a) s = .next (pushEntry (advance s₁) q x) := by
  refine exec_ok (show execQpush q a s = _ from rfl) hp rfl ?_
  simp only [hr, if_neg (Nat.not_le.mpr hf), hn, hd, List.isEmpty_nil, Bool.and_self, ↓reduceIte]

/-- An entry that an earlier access or entry holds is kept behind it (R150, R326). -/
theorem qpush_later {x : Scalar} (hp : Passes s .only [.ssrc a]) (hr : readS s a = .ok (s₁, x)) (hf : queueFill s₁ q < 32)
    (hl : s₁.w.pushes ≠ [] ∨ drained s₁ 1#3 = false) :
    exec (.qpush q a) s = .next (advance { s₁ with w := { s₁.w with pushes := s₁.w.pushes ++ [(q, x, s₁.w.cyc.toNat)] } }) := by
  have hc : ¬ (s₁.w.pushes.isEmpty && drained s₁ 1#3) = true := by
    rcases hl with hl | hl <;> simp [hl]
  refine exec_ok (show execQpush q a s = _ from rfl) hp rfl ?_
  simp only [hr, if_neg (Nat.not_le.mpr hf), if_neg hc]

theorem kvxs_next {x : Scalar} {js : List LaneJob} {rep evas : List Nat} (hp : Passes s .only [.sdst d, .ssrc a] h)
    (hr : readS s a = .ok (s₁, x)) (hf : readReady s₁ 1 = .ok ()) (hk : kvPlan h [kvReq 0 x] s₁ = .ok (t, js, rep, evas))
    (hu : postRequests evas t = .ok u) : exec (.kvxs d a h) s = .next (pendLoad u (.scalar d.toNat 8 false) []
      (if rep.isEmpty then js else [⟨0, .value 0xFFFFFFFFFFFFFFFF#64⟩]) true) := by
  refine exec_ok (show execKvxs d a h s = _ from rfl) hp rfl ?_
  simp only [hr, hf, hk, hu]

theorem kvx_idle {x : Src} (hp : Passes s .no [.vreg d 2 2, .vsrc i true] h) (hr : readV s true i = .ok (s₁, x)) (ha : active s.w = 0#64) :
    exec (.kvx d i h) s = .next (popQueues [.vreg d 2 2, .vsrc i true] (advance { s₁ with w := { s₁.w with replay := 0#64 } })) := by
  refine exec_next (show execKvx d i h s = _ from rfl) hp ?_
  simp only [hr, readV_w hr, if_pos ha]

theorem kvx_next {x : Src} {js : List LaneJob} {rep evas : List Nat} (hp : Passes s .no [.vreg d 2 2, .vsrc i true] h)
    (hr : readV s true i = .ok (s₁, x)) (ha : active s.w ≠ 0#64) (hf : readReady s₁ (laneList (active s.w)).length = .ok ())
    (hk : kvPlan h ((laneList (active s.w)).map fun l => kvReq l.val (x l)) s₁ = .ok (t, js, rep, evas))
    (hu : postRequests evas.eraseDups { t with w := { t.w with replay := maskOf rep } } = .ok u) :
    exec (.kvx d i h) s = .next (popQueues [.vreg d 2 2, .vsrc i true] (pendLoad u (.vec d.toNat 8 false) [d.toNat, d.toNat + 1] js true)) := by
  refine exec_next (show execKvx d i h s = _ from rfl) hp ?_
  simp only [hr, readV_w hr, if_neg ha, hf, hk, hu]

end

/-- Settles O28: a push by the room and the order of its queue, a translation by its lanes. -/
theorem queueAndTranslationResult : Obligations.QueueAndTranslationResult := by
  refine ⟨fun s s₁ q a x hp hr => ⟨qpush_full hp hr, ?_, qpush_later hp hr⟩, fun s s₁ t u d a h x js rep evas => kvxs_next,
    fun s s₁ d i h x hp hr => ⟨kvx_idle hp hr, fun t u js rep evas => kvx_next hp hr⟩⟩
  rintro hf hn hd k rfl
  exact qpush_now hp hr hf hn hd

end Sys2Proof.Machine

/-! One lane of a load in global memory (R36, R120, R164, R297). -/

namespace Sys2Proof.Machine

/-- With no partial copy of the line outstanding a recall of it does nothing (R164). -/
theorem recallLine_without {m : Mem} {line : Nat} (h : ∀ c ∈ m.ucopies, c.line ≠ line) : recallLine m line = m := by
  have none : m.ucopies.filter (fun u => u.line = line) = [] := by simpa [List.filter_eq_nil_iff] using h
  simp [recallLine, none]

/-- Nothing is forwarded where no queued store covers a byte of the range (R120). -/
theorem forwarded_none {w : Warp} {p : Place} {n : Nat} (h : ∀ i, i < n → forwardByte p i w.stores.reverse = .none) :
    forwarded w p n = .ok none := by
  have all : ((List.range n).map fun i => forwardByte p i w.stores.reverse).all (· = .none) = true := by simpa using h
  simp only [forwarded, all, ↓reduceIte]

section
variable {s : State} {p : Place} (hs : p.stash = false) (ha : p.attr = aSc)
include ha

/-- Only a line of a WOS page can be unpublished (R136). -/
theorem unpublished_sc : unpublished s p = false := by
  have other : ¬aSc = aWos := by decide
  simp [unpublished, ha, other]

include hs

/-- A read of an SC page reads the home, once the partial copies of the line are recalled (R164). -/
theorem loadAt_sc (core : Nat) (cached : Bool) (n : Nat) : loadAt s core cached p n =
    ({ s with m := recallLine s.m (lineOf p.pa) }, homeRead (recallLine s.m (lineOf p.pa)) p.pa n) := by
  have other : ¬aSc = aIp := by decide
  simp only [loadAt, hs, ha, other, Bool.false_eq_true, ↓reduceIte]

/-- An admitted read of an SC page that nothing holds and no queued store covers (R120, R297). -/
theorem readPlace_sc (cached : Bool) {n : Nat} (hc : readCheck s.m p = none) (hh : homeStalls s.m p = false)
    (hf : ∀ i, i < n → forwardByte p i s.w.stores.reverse = .none) (hl : awaitLine s s.w.core.toNat p false = .ok ()) :
    readPlace s cached p n = .ok ({ s with m := recallLine s.m (lineOf p.pa) },
      .value (BitVec.ofNat 64 (natOfBytes (homeRead (recallLine s.m (lineOf p.pa)) p.pa n)))) := by
  simp only [readPlace, hc, hh, forwarded_none hf, unpublished_sc ha, hl, loadAt_sc hs ha, Bool.false_eq_true, ↓reduceIte]

end

/-- A lane that faults at its resolution is poisoned with the fault (R36, R64). -/
theorem planLane_fault {s : State} {n : BitVec 4} {size : Nat} {off : Int} {c d : Byte} {v : VA}
    (h : resolveLane s n .load off size = .fault c d v) : planLane n size s off = .ok (s, .poison c d v true) := by
  simp only [planLane, h]

/-- A lane of a handle that is no stash handle is read at its place. -/
theorem planLane_place {s t : State} {n : BitVec 4} {size : Nat} {off : Int} {p : Place} (h : resolveLane s n .load off size = .ok t p)
    (hn : hSpace (handleAt s.w n).entry ≠ 1) : planLane n size s off = readPlace t (handleAt s.w n).cached p size := by
  simp only [planLane, h, hn, decide_false, Bool.false_and, Bool.false_eq_true, ↓reduceIte]

/-- Settles O17: a resolved lane reads its place at the home, a faulting one is poisoned. -/
theorem loadLaneReadsMemory : Obligations.LoadLaneReadsMemory := by
  refine ⟨fun s t n size off p hr hn hs ha hc hh hf hl => ?_, fun s n size off c d v => planLane_fault⟩
  refine ⟨{ t with m := recallLine t.m (lineOf p.pa) }, ?_, rfl, recallLine_without⟩
  rw [planLane_place hr hn, readPlace_sc hs ha _ hc hh hf hl]
  rfl

end Sys2Proof.Machine

/-! Handles bound and read (R28, R31, R307 to R309). -/

namespace Sys2Proof.Machine

theorem readRegion_w {s t : State} {region : Nat} {r : BitVec 256} (h : readRegion s region = .ok (t, r)) : t.w = s.w := by
  unfold readRegion at h
  split at h
  · cases h
  · rename_i e
    cases h
    exact readVa_w e

/-- The fields of a pointer pair (R31): the address, the region and the bits above, which are zero. -/
theorem pointerPair_fields {p : BitVec 128} {va region : Nat} (h : p.toNat = va + 2 ^ 80 * region) (hv : va < 2 ^ 80) (hr : region < 2 ^ 12) :
    bitsNat p 0 80 = va ∧ bitsNat p 80 12 = region ∧ bitsNat p 92 36 = 0 := by
  simp only [bitsNat, BitVec.extractLsb'_toNat, Nat.shiftRight_eq_div_pow, h]
  omega

/-- The binding that HSET makes of an address in a region, its window still closed (R31). -/
def pointerBinding (t : Elem) (region va : Nat) (r : BitVec 256) : Handle :=
  { bound := true, tbl := false, index := 0#16, win := 0#41, frame := 0#52, leaf := 0#128, regionW := regW r
    entry := pointerEntry t region va (min (regHi r - va) (2 ^ 56 - 1)) (regW r) }

section
variable {s s₁ t : State} {n : BitVec 4} {a : Byte}

section
variable {x : DWord} (hp : Passes s .yes [.ssrc a]) (hr : readS s a = .ok (s₁, ⟨x, false⟩)) (hx : x.toNat < 65536)
include hp hr hx

theorem hbind_idle (ha : active s.w = 0#64) : exec (.hbind n a) s = .next (advance s₁) := by
  refine exec_ok (show execHbind n a s = _ from rfl) hp rfl ?_
  rw [← readS_w hr] at ha
  simp only [hr, consumeS_clean, if_neg (Nat.not_le.mpr hx), warpOnce_skips ha]

theorem hbind_binds {b : Handle} (ha : active s.w ≠ 0#64) (hb : bindEntry s₁ x.toNat = .ok (t, b)) :
    exec (.hbind n a) s = .next (advance (setHandle t n b)) := by
  refine exec_ok (show execHbind n a s = _ from rfl) hp rfl ?_
  rw [← readS_w hr] at ha
  simp only [hr, consumeS_clean, if_neg (Nat.not_le.mpr hx), warpOnce_runs ha, hb]

end

section
variable {va region : Nat} {r : BitVec 256} (hp : Passes s .yes [.sregs a 2])
  (hlo : (s.w.s[Fin.ofNat 64 a.toNat]).poison = false) (hhi : (s.w.s[Fin.ofNat 64 (a.toNat + 1)]).poison = false)
  (hpair : ((s.w.s[Fin.ofNat 64 (a.toNat + 1)]).val ++ (s.w.s[Fin.ofNat 64 a.toNat]).val).toNat = va + 2 ^ 80 * region)
  (hva : va < 2 ^ 80) (hreg : region < 2 ^ 12) (hr : readRegion s region = .ok (t, r))
  (hv : regV r = true) (hrd : regR r = true) (hl : regLo r ≤ va) (hh : va < regHi r)
include hp hlo hhi hpair hva hreg hr hv hrd hl hh

/-- With a lane active the rest of the region is bound (R31); with none the register is left as it is. -/
theorem hset_next : exec (.hset n a) s = .next (advance (if active s.w = 0#64 then t else
    setHandle (setWindow t (pointerBinding (modeEt s.w) region va r)).1 n (setWindow t (pointerBinding (modeEt s.w) region va r)).2)) := by
  obtain ⟨field_va, field_region, field_zero⟩ := pointerPair_fields hpair hva hreg
  have nonempty : ¬regHi r ≤ regLo r := by omega
  have within : ¬(va < regLo r ∨ regHi r ≤ va) := by omega
  refine exec_ok (show execHset n a s = _ from rfl) hp rfl ?_
  simp only [sReg, consumeS_clean hlo, consumeS_clean hhi, field_zero, field_region, field_va, hr]
  simp only [ne_eq, not_true_eq_false, decide_false, Bool.false_eq_true, ↓reduceIte, hv, hrd, nonempty, Bool.not_true, Bool.or_self,
    Bool.or_eq_true, decide_eq_true_eq, within, warpOnce, readRegion_w hr]
  split <;> rfl

end

section
variable {d : Byte} {q : BitVec 4} (hp : Passes s .yes [.sdst d]) (hb : (s.w.h[n.toNat]).bound = true)
include hp hb

theorem hqry_idle (ha : active s.w = 0#64) : exec (.hqry d n q) s = .next (advance s) := by
  refine exec_ok (show execHqry d n q s = _ from rfl) hp rfl ?_
  simp only [handleAt, hb, Bool.not_true, Bool.false_eq_true, ↓reduceIte, warpOnce_skips ha]

theorem hqry_next (ha : active s.w ≠ 0#64) : exec (.hqry d n q) s = .next (s.putScalar d ⟨handleQuery s.w.h[n.toNat] q, false⟩) := by
  refine exec_ok (show execHqry d n q s = _ from rfl) hp rfl ?_
  simp only [handleAt, hb, Bool.not_true, Bool.false_eq_true, ↓reduceIte, warpOnce_runs ha, State.putScalar]

end

/-- The number of tiles of a shaped handle (R309). -/
theorem handleQuery_tiles {h : Handle} (hs : hShapeless h.entry = false) : handleQuery h 8#4 =
    BitVec.ofNat 64 (orOne (hGrid h.entry 0) * orOne (hGrid h.entry 1) * orOne (hGrid h.entry 2) * orOne (hGrid h.entry 3)) := by
  rw [handleQuery, if_neg (by decide), if_pos rfl, hs]
  rfl

end

/-- Settles O21: each form by its operands and the active lanes, and the words of a query. -/
theorem handleResult : Obligations.HandleResult := by
  refine ⟨fun s s₁ n a x hp hr hx => ⟨hbind_idle hp hr hx, fun t b => hbind_binds hp hr hx⟩,
    fun s t n a va region r hp hlo hhi hpair hva hreg hr hv hrd hl hh => ?_,
    fun s d n q hp hb => ⟨hqry_idle hp hb, hqry_next hp hb⟩, fun h => ⟨fun q hq => if_pos hq, handleQuery_tiles, rfl, rfl⟩⟩
  have next := hset_next (n := n) hp hlo hhi hpair hva hreg hr hv hrd hl hh
  exact ⟨fun ha => by rw [next, if_pos ha], fun ha => by rw [next, if_neg ha]; rfl⟩

end Sys2Proof.Machine

/-! Remote requests at their target (R149, R176, R331, R333). -/

namespace Sys2Proof.Machine

/-! ### Answers to the lanes of a request (R331) -/

section
variable {q : RemoteReq} {as : List (Nat × LaneAnswer)}

/-- A lane performed is answered in no other way. -/
theorem answer_ne_of_done {x : LaneAnswer} (hd : ∀ a ∈ as, ∃ d, a.2 = .done d) (hx : ∀ d, x ≠ .done d) : ∀ a ∈ as, a.2 ≠ x := fun a ha e => by
  obtain ⟨d, h⟩ := hd a ha
  exact hx d (e ▸ h)

/-- With no lane refused there is no RNR. -/
theorem answerRnr_none (s : State) (h : ∀ a ∈ as, ∀ r, a.2 ≠ .rnr r) : answerRnr q as s = s := by
  unfold answerRnr
  dsimp only
  split
  · rfl
  · rename_i o _ e
    obtain ⟨a, ha, hm⟩ := List.mem_filterMap.mp (e ▸ List.mem_cons_self : o ∈ _)
    split at hm
    · exact absurd ‹_› (h a ha _)
    · cases hm

/-- With no lane failed there is no ERR. -/
theorem answerErr_none (s : State) (h : ∀ a ∈ as, ∀ c d, a.2 ≠ .err c d) : answerErr q as s = s := by
  unfold answerErr
  simp only
  rw [List.filterMap_eq_nil_iff.mpr]
  · rfl
  · intro a ha
    split
    · exact absurd ‹_› (h a ha _ _)
    · rfl

/-- With no lane performed there is no data. -/
theorem doneLanes_none (h : ∀ a ∈ as, ∀ d, a.2 ≠ .done d) : doneLanes as [] = [] := by
  unfold doneLanes
  dsimp only
  rw [List.filterMap_eq_nil_iff.mpr, List.append_nil, List.mergeSort_nil]
  intro a ha
  split
  · exact absurd ‹_› (h a ha _)
  · rfl

/-- With a lane performed there is data. -/
theorem doneLanes_ne_nil (hn : as ≠ []) (h : ∀ a ∈ as, ∃ d, a.2 = .done d) : doneLanes as [] ≠ [] := by
  obtain ⟨a, rest, rfl⟩ := List.exists_cons_of_ne_nil hn
  obtain ⟨d, hd⟩ := h a List.mem_cons_self
  rw [← List.length_pos_iff]
  simp [doneLanes, hd]

/-- With no lane parked none is held. -/
theorem heldLanes_none (h : ∀ a ∈ as, a.2 ≠ .parked) : (q.lanes.filter fun l => as.any fun a => a.1 = l.1 && a.2 = .parked) = [] := by
  rw [List.filter_eq_nil_iff]
  intro l _ hl
  obtain ⟨a, ha, hp⟩ := List.any_eq_true.mp hl
  simp only [Bool.and_eq_true, decide_eq_true_eq] at hp
  exact h a ha hp.2

theorem heldLanes_all : (q.lanes.filter fun l => (allLanes q .parked).any fun a => a.1 = l.1 && a.2 = .parked) = q.lanes := by
  rw [List.filter_eq_self]
  intro l hl
  exact List.any_eq_true.mpr ⟨(l.1, .parked), List.mem_map_of_mem hl, by simp⟩

theorem mem_allLanes {x : LaneAnswer} : ∀ a ∈ allLanes q x, a.2 = x := fun a ha => by
  obtain ⟨_, _, rfl⟩ := List.mem_map.mp ha
  rfl

theorem allLanes_ne_nil {x : LaneAnswer} (h : allLanes q x ≠ []) : q.lanes ≠ [] := by simpa [allLanes] using h

/-- Lanes all refused with one reason get one RNR. -/
theorem answerRnr_all (s : State) {r : Byte} (h : q.lanes ≠ []) :
    answerRnr q (allLanes q (.rnr r)) s = sendRnr s q (maskOf (q.lanes.map (·.1))) r := by
  obtain ⟨l, ls, e⟩ := List.exists_cons_of_ne_nil h
  simp [answerRnr, allLanes, e, List.filterMap_map, Function.comp_def]

/-- Lanes all failed with one code get one ERR. -/
theorem answerErr_all (s : State) {c d : Byte} (h : q.lanes ≠ []) :
    answerErr q (allLanes q (.err c d)) s = sendErr s q (maskOf (q.lanes.map (·.1))) c d := by
  obtain ⟨l, ls, e⟩ := List.exists_cons_of_ne_nil h
  simp [answerErr, allLanes, e, List.filterMap_map, Function.comp_def, List.eraseDups_cons, List.filter_map]

end

/-! ### A request served (R161, R331) -/

section
variable {q : RemoteReq} {as : List (Nat × LaneAnswer)} {s u : State} {since : Nat} (hp : performRequest q false s = (u, as))
include hp

section
variable (hd : ∀ a ∈ as, ∃ d, a.2 = .done d)
include hd

/-- Lanes all performed whose bytes are still on their way to a core copy are held with their data (R161). -/
theorem serve_forwarding (hf : forwarding u.m s.m.sid = true) : serve q [] since [] false s =
    { u with m := nextStore u.m, fab := { u.fab with
      parked := u.fab.parked ++ [⟨since, { q with lanes := [] }, doneLanes as [], [s.m.sid]⟩] } } := by
  have none_refused := fun t => answerRnr_none (q := q) t fun a ha r => answer_ne_of_done hd (by simp) a ha
  have none_failed := fun t => answerErr_none (q := q) t fun a ha c d => answer_ne_of_done hd (by simp) a ha
  have none_held := heldLanes_none (q := q) (answer_ne_of_done hd (by simp))
  simp only [serve, hp, none_refused, none_failed, none_held, List.filter_cons, List.filter_nil, hf, ↓reduceIte]
  rfl

/-- Lanes all performed whose bytes have reached every core copy are acknowledged; a multicast copy first raises the member's place
(R331, R333). -/
theorem serve_done (hn : as ≠ []) (hf : forwarding u.m s.m.sid = false) :
    (q.place = none → serve q [] since [] false s =
      sendAck { u with m := nextStore u.m } q (if remoteReturns q.op then (doneLanes as []).map (·.2) else [])) ∧
    (∀ n, q.place = some n → serve q [] since [] false s = sendAck (mapBlocks { u with m := nextStore u.m } fun b =>
      if b.ctx = q.ctx && b.gang = q.gang && b.member.toNat = (peerTarget q.peer).toNat then { b with mcast := n + 1 } else b) q
        (if remoteReturns q.op then (doneLanes as []).map (·.2) else [])) := by
  have none_refused := fun t => answerRnr_none (q := q) t fun a ha r => answer_ne_of_done hd (by simp) a ha
  have none_failed := fun t => answerErr_none (q := q) t fun a ha c d => answer_ne_of_done hd (by simp) a ha
  have none_held := heldLanes_none (q := q) (answer_ne_of_done hd (by simp))
  have data : (doneLanes as []).isEmpty = false := by simpa using doneLanes_ne_nil hn hd
  constructor
  · intro hq
    simp only [serve, hp, none_refused, none_failed, none_held, List.filter_cons, List.filter_nil, hf, hq, data, List.isEmpty_nil,
      Bool.not_true, Bool.or_self, Bool.false_eq_true, ↓reduceIte]
  · intro n hq
    simp only [serve, hp, none_refused, none_failed, none_held, List.filter_cons, List.filter_nil, hf, hq, data, List.isEmpty_nil,
      Bool.not_true, Bool.or_self, Bool.false_eq_true, ↓reduceIte]

end

section
variable (hf : forwarding u.m s.m.sid = false) (hd : ∀ a ∈ as, ∀ d, a.2 ≠ .done d)
include hf hd

/-- With no lane performed and none held a request ends with its refusals and failures. -/
theorem serve_refused (hk : ∀ a ∈ as, a.2 ≠ .parked) :
    serve q [] since [] false s = answerErr q as (answerRnr q as { u with m := nextStore u.m }) := by
  simp only [serve, hp, heldLanes_none (q := q) hk, doneLanes_none hd, List.filter_cons, List.filter_nil, hf, List.isEmpty_nil, Bool.not_true,
    Bool.or_self, Bool.false_eq_true, ↓reduceIte]
  cases q.place <;> rfl

end

section
variable (hn : as ≠ []) (hf : forwarding u.m s.m.sid = false)
include hn hf

/-- Lanes all refused with one reason get one RNR. -/
theorem serve_rnr {r : Byte} (ha : as = allLanes q (.rnr r)) :
    serve q [] since [] false s = sendRnr { u with m := nextStore u.m } q (maskOf (q.lanes.map (·.1))) r := by
  subst ha
  have only := mem_allLanes (q := q) (x := .rnr r)
  rw [serve_refused hp hf (fun a h d => by simp [only a h]) (fun a h => by simp [only a h]), answerRnr_all _ (allLanes_ne_nil hn),
    answerErr_none _ fun a h c d => by simp [only a h]]

/-- Lanes all failed with one code get one ERR. -/
theorem serve_err {c d : Byte} (ha : as = allLanes q (.err c d)) :
    serve q [] since [] false s = sendErr { u with m := nextStore u.m } q (maskOf (q.lanes.map (·.1))) c d := by
  subst ha
  have only := mem_allLanes (q := q) (x := .err c d)
  rw [serve_refused hp hf (fun a h d => by simp [only a h]) (fun a h => by simp [only a h]), answerRnr_none _ fun a h r => by simp [only a h],
    answerErr_all _ (allLanes_ne_nil hn)]

/-- Lanes that must all wait are held, to be served later. -/
theorem serve_parked (ha : as = allLanes q .parked) : serve q [] since [] false s =
    { u with m := nextStore u.m, fab := { u.fab with parked := u.fab.parked ++ [⟨since, q, [], []⟩] } } := by
  subst ha
  have only := mem_allLanes (q := q) (x := .parked)
  have none_refused := fun t => answerRnr_none (q := q) (as := allLanes q .parked) t fun a h r => by simp [only a h]
  have none_failed := fun t => answerErr_none (q := q) (as := allLanes q .parked) t fun a h c d => by simp [only a h]
  have none_done := doneLanes_none (as := allLanes q .parked) fun a h d => by simp [only a h]
  have some : q.lanes.isEmpty = false := by simpa using allLanes_ne_nil hn
  simp only [serve, hp, none_refused, none_failed, none_done, heldLanes_all, some, List.filter_cons, List.filter_nil, hf, Bool.not_false,
    Bool.true_or, Bool.false_eq_true, ↓reduceIte]

end

end

/-! ### Requests from outside the domain, and the multicast home (R149, R176, R333) -/

section
variable {s : State} {q : RemoteReq}

/-- A request from outside the recovery domain performs nothing (R176). -/
theorem performRequest_foreign {expired : Bool} (hi : q.src ≠ s.fab.ident) (hd : locDomain s.fab q.src ≠ s.fab.domain) :
    performRequest q expired s = (s, allLanes q (.err cProtection 0x07)) := by
  simp [performRequest, hi, hd]

theorem orderMulticast_foreign (hi : q.src ≠ s.fab.ident) (hd : locDomain s.fab q.src ≠ s.fab.domain) :
    orderMulticast q s = sendErr s q (maskOf (q.lanes.map (·.1))) cProtection 0x07 := by
  simp [orderMulticast, hi, hd]

section
variable (hd : q.src = s.fab.ident ∨ locDomain s.fab q.src = s.fab.domain)
include hd

theorem notForeign : (q.src ≠ s.fab.ident && locDomain s.fab q.src ≠ s.fab.domain) = false := by
  rcases hd with h | h <;> simp [h]

theorem orderMulticast_noGang (ht : targetBlock s q = none) :
    orderMulticast q s = sendErr s q (maskOf (q.lanes.map (·.1))) cTetherGone 0x00 := by
  simp only [orderMulticast, notForeign hd, ht, Bool.false_eq_true, ↓reduceIte]

/-- A multicast store takes the next place of its gang's order, with a copy for each member (R149). -/
theorem orderMulticast_takes {b : Block} {n : Nat} (ht : targetBlock s q = some b)
    (hn : n = ((s.fab.mcast.find? fun g => g.1 = q.gang).map (·.2)).getD 0) : orderMulticast q s = pumpMulticasts { s with fab := { s.fab with
      mcast := (q.gang, n + 1) :: s.fab.mcast.filter fun g => g.1 ≠ q.gang
      multicasts := s.fab.multicasts ++ [{ gang := q.gang, place := n, request := q, members := b.members, failed := none
                                           copies := (List.range b.gcount.toNat).map fun i =>
                                             { member := i, mask := maskOf (q.lanes.map (·.1)), tag := none, retries := 0, ready := none } }] } } := by
  simp only [orderMulticast, notForeign hd, ht, hn, Bool.false_eq_true, ↓reduceIte]

end

end

/-! ### The five request events -/

section
variable {q : RemoteReq} {mask : BitVec 64} {offs : List (BitVec 32)} {data : List (BitVec 128)} (hl : q.lanes = requestLanes mask offs data)
include hl

/-- A request event of a local operation, or a multicast copy, is served at the target. -/
theorem requestEvent_serves {i : Instr} (s : State) (hi :
    (q.op = 0#3 ∧ data = [] ∧ q.place = none ∧ i = .rldRequest q.src q.tag q.ctx mask q.peer q.index q.mode q.space q.gang offs) ∨
      (q.op = 1#3 ∧ q.place = none ∧ i = .rstRequest q.src q.tag q.ctx mask q.peer q.index q.mode q.space q.gang offs data) ∨
      (q.op = 2#3 ∧ q.place = none ∧ i = .ratomRequest q.src q.tag q.ctx mask q.peer q.index q.mode q.space q.gang offs data) ∨
      (q.op = 3#3 ∧ q.place = none ∧ i = .rredRequest q.src q.tag q.ctx mask q.peer q.index q.mode q.space q.gang offs data) ∨
      (q.op = 4#3 ∧ q.place ≠ none ∧ i = .mcstRequest q.src q.tag q.ctx mask q.peer q.index q.mode q.space q.gang offs data q.place)) :
    exec i s = .next (serve q [] (parkClock s q.ctx) [] false s) := by
  obtain ⟨op, src, tag, ctx, peer, index, mode, space, gang, lanes, place⟩ := q
  dsimp only at hl hi
  subst hl
  rcases hi with ⟨rfl, rfl, rfl, rfl⟩ | ⟨rfl, rfl, rfl⟩ | ⟨rfl, rfl, rfl⟩ | ⟨rfl, rfl, rfl⟩ | ⟨rfl, hp, rfl⟩
  · rfl
  · rfl
  · rfl
  · rfl
  · obtain ⟨n, rfl⟩ := Option.ne_none_iff_exists'.mp hp
    rfl

/-- A multicast store without a place is ordered at its home (R149). -/
theorem mcstRequest_orders (s : State) (ho : q.op = 4#3) (hp : q.place = none) :
    exec (.mcstRequest q.src q.tag q.ctx mask q.peer q.index q.mode q.space q.gang offs data none) s = .next (orderMulticast q s) := by
  obtain ⟨op, src, tag, ctx, peer, index, mode, space, gang, lanes, place⟩ := q
  dsimp only at hl ho hp
  subst hl ho hp
  rfl

end

/-- Settles O50: a request by the answers of its lanes, a multicast store by its home. -/
theorem remoteRequestResult : Obligations.RemoteRequestResult := by
  refine ⟨fun s t u q mask offs data as i hl hi hp ht hn => ?_, fun s q => performRequest_foreign, fun s q mask offs data hl ho hq o e => ?_⟩
  · subst ht
    have returns : (remoteReturns q.op = true) = (q.op = 0#3 ∨ q.op = 2#3) := by simp [remoteReturns]
    rw [requestEvent_serves hl s hi]
    simp only [Host.Outcome.next.injEq, ← returns]
    refine ⟨fun hd => ⟨fun hf => ⟨(serve_done hp hd hn hf).1, fun n hq => ?_⟩, serve_forwarding hp hd⟩,
      fun hf => ⟨fun r => serve_rnr hp hn hf, fun c d => serve_err hp hn hf, serve_parked hp hn hf⟩⟩
    have copy : q.op = 4#3 := by
      simp only [hq, reduceCtorEq, false_and, and_false, false_or] at hi
      exact hi.1
    rw [(serve_done hp hd hn hf).2 n hq, copy]
    rfl
  · rw [e, mcstRequest_orders hl s ho hq]
    exact ⟨fun hi hd => congrArg _ (orderMulticast_foreign hi hd), fun hd ht => congrArg _ (orderMulticast_noGang hd ht),
      fun b n hd ht hn => congrArg _ (orderMulticast_takes hd ht hn)⟩

end Sys2Proof.Machine

/-! Translation requests (R57 to R63). -/

namespace Sys2Proof.Machine

/-! ### Shootdowns (R38, R59) -/

section
variable {s : State} {c : BitVec 16} {va n : Nat}

theorem mem_shootdown_tlb {e : TlbEntry} :
    e ∈ (shootdown s c va n).m.tlb ↔ e ∈ s.m.tlb ∧ ¬(e.ctx = c ∧ rangesMeet e.base (2 ^ e.log) va n = true) := by
  simp [shootdown, imp_iff_not_or]

theorem mem_shootdown_walks {e : WalkEntry} :
    e ∈ (shootdown s c va n).m.walks ↔ e ∈ s.m.walks ∧ ¬(e.ctx = c ∧ e.meets va n = true) := by
  simp [shootdown, imp_iff_not_or]

/-- After a shootdown no warp of the context has a translation window, a stash handle's apart (R38). -/
theorem shootdown_windows {w : Warp} (hw : w ∈ allWarps (shootdown s c va n)) (hc : w.ctx = c) (i : Fin 16)
    (hs : hSpace (w.h[i]).entry ≠ 1) : (w.h[i]).win = 0#41 := by
  have image : ∃ v : Warp, w = if v.ctx = c
      then { v with h := vecOf 16 fun i => if hSpace v.h[i].entry = 1 then v.h[i] else { v.h[i] with win := 0#41 } } else v := by
    rcases List.mem_cons.mp hw with e | e
    · exact ⟨s.w, e⟩
    · obtain ⟨v, _, e⟩ := List.mem_map.mp e
      exact ⟨v, e.symm⟩
  obtain ⟨v, e⟩ := image
  split at e
  · subst e
    simp only [vecOf_getElem] at hs ⊢
    split at hs
    · exact absurd ‹_› hs
    · rw [if_neg ‹_›]
  · subst e
    exact absurd hc ‹_›

end

/-- Every page of the address space meets the whole of it. -/
theorem rangesMeet_all {a n : Nat} (ha : a < 2 ^ 80) (hn : 0 < n) : rangesMeet a n 0 (2 ^ 80) = true := by
  simp only [rangesMeet, Bool.and_eq_true, decide_eq_true_eq]
  omega

/-! ### Requests that act at once (R57, R58) -/

section
variable {s : State}

theorem xlateInval_runs (hg : xRuns s 0 = true) (hr : xRangeBad s = false) :
    exec .xlateInval s = .next (xEnd (xShoot s (xVa s) (65536 * xPages s)) 0#4) := by
  show execXlateInval s = _
  simp only [execXlateInval, hg, hr, Bool.not_true, Bool.false_eq_true, ↓reduceIte]

theorem xlateInval_badRange (hg : xRuns s 0 = true) (hr : xRangeBad s = true) : exec .xlateInval s = .next (xEnd s 2#4) := by
  show execXlateInval s = _
  simp only [execXlateInval, hg, hr, Bool.not_true, Bool.false_eq_true, ↓reduceIte]

theorem xlateInvalctx_runs (hg : xRuns s 1 = true) : exec .xlateInvalctx s = .next (xEnd (xShoot s 0 (2 ^ 80)) 0#4) := by
  show execXlateInvalctx s = _
  simp only [execXlateInvalctx, hg, ↓reduceIte]

theorem xlateSplinter_badRange (hg : xRuns s 2 = true) (hr : xRangeBad s = true) : exec .xlateSplinter s = .next (xEnd s 2#4) := by
  show execXlateSplinter s = _
  simp only [execXlateSplinter, hg, hr, Bool.not_true, Bool.false_eq_true, ↓reduceIte]

section
variable {x : Ctx} (hg : xRuns s 2 = true) (hr : xRangeBad s = false) (hx : ctxOf s (xCtx s) = some x)
  (hp : pagesStall s.m x (xVa s) (xPages s) = false)
include hg hr hx hp

/-- A page of the range without a leaf cannot be splintered. -/
theorem xlateSplinter_noLeaf (hl : leavesOf s.m x (xEndVa s) (xPages s) (xVa s) = none) : exec .xlateSplinter s = .next (xEnd s 2#4) := by
  show execXlateSplinter s = _
  simp only [execXlateSplinter, hg, hr, hx, hp, hl, Bool.not_true, Bool.false_eq_true, ↓reduceIte]

/-- The first leaf of the range is splintered unless it is a small one, or the frame can hold no table (R58, R60; log entry 44). -/
theorem xlateSplinter_leaf {p : Nat × Leaf} {ls : List (Nat × Leaf)}
    (hl : leavesOf s.m x (xEndVa s) (xPages s) (xVa s) = some (p :: ls)) : exec .xlateSplinter s = .next (
      if p.2.log = 16 then xEnd s 7#4 else if tableFrame (xFrame s) = false then xEnd s 4#4 else xSplit s p.2 (xVa s) (xFrame s)) := by
  show execXlateSplinter s = _
  simp only [execXlateSplinter, hg, hr, hx, hp, hl, Bool.not_true, Bool.false_eq_true, ↓reduceIte, Bool.not_eq_true']

end

/-! ### Requests over leaves (R58, R61) -/

theorem xlatePerm_runs (hg : xRuns s 4 = true) : exec .xlatePerm s = .next (overLeaves s fun _ => none) := by
  show execXlatePerm s = _
  simp only [execXlatePerm, hg, ↓reduceIte]

theorem xlateAttrchg_runs (hg : xRuns s 3 = true) :
    exec .xlateAttrchg s = .next (overLeaves s fun l => if offDevice (pteFrame l.entry) then some 5#4 else none) := by
  show execXlateAttrchg s = _
  simp only [execXlateAttrchg, hg, ↓reduceIte]

theorem overLeaves_badRange {f : Leaf → Option (BitVec 4)} (hr : xRangeBad s = true) : overLeaves s f = xEnd s 2#4 := by
  simp only [overLeaves, hr, ↓reduceIte]

/-- ATTRCHG admits leaves whose frames lie on the device (R63). -/
theorem admits_onDevice {ls : List (Nat × Leaf)} (h : ∀ p ∈ ls, offDevice (pteFrame p.2.entry) = false) :
    (ls.findSome? fun p => if offDevice (pteFrame p.2.entry) then some (5#4) else none) = none := by
  rw [List.findSome?_eq_none_iff]
  intro p hp
  simp only [h p hp, Bool.false_eq_true, ↓reduceIte]

theorem admits_any {ls : List (Nat × Leaf)} : (ls.findSome? fun _ => (none : Option (BitVec 4))) = none := by simp

section
variable {x : Ctx} {ls : List (Nat × Leaf)} {f : Leaf → Option (BitVec 4)} (hr : xRangeBad s = false) (hx : ctxOf s (xCtx s) = some x)
  (hp : pagesStall s.m x (xVa s) (xPages s) = false) (hl : leavesOf s.m x (xEndVa s) (xPages s) (xVa s) = some ls)
  (hf : (ls.findSome? fun p => f p.2) = none)
include hr hx hp hl hf

/-- A range that needs no splinter gets the effect of the request at once. -/
theorem overLeaves_whole (hn : splintersOf s.m x (xVa s) (xEndVa s) = []) :
    overLeaves s f = applyLeaves { s with hub := { s.hub with xtodo := [] } } x := by
  simp only [overLeaves, hr, hx, hp, hl, hf, hn, Bool.false_eq_true, ↓reduceIte, List.isEmpty_nil, Bool.not_true, Bool.false_and,
    List.length_nil, List.range_zero, List.all_nil, withFrames, List.zipIdx_nil, List.map_nil, nextSplinter]

section
variable {need : List (Nat × Nat)} (hn : splintersOf s.m x (xVa s) (xEndVa s) = need)
include hn

theorem overLeaves_noFrame (hne : need ≠ []) (hz : xFrame s = 0) : overLeaves s f = xEnd s 6#4 := by
  have some : need.isEmpty = false := by simpa using hne
  simp only [overLeaves, hr, hx, hp, hl, hf, hn, some, hz, Bool.false_eq_true, ↓reduceIte, Bool.not_false, decide_true, Bool.and_self]

theorem overLeaves_badFrame (hz : xFrame s ≠ 0) (hb : ∃ k, k < need.length ∧ tableFrame (xFrame s + 65536 * k) = false) :
    overLeaves s f = xEnd s 4#4 := by
  obtain ⟨k, hk, hb⟩ := hb
  have bad : ((List.range need.length).all fun k => tableFrame (xFrame s + 65536 * k)) = false := by
    rw [List.all_eq_false]
    exact ⟨k, List.mem_range.mpr hk, by simp [hb]⟩
  simp only [overLeaves, hr, hx, hp, hl, hf, hn, hz, bad, Bool.false_eq_true, ↓reduceIte, decide_false, Bool.and_false, Bool.not_false]

/-- With frames for its tables the first splinter that the range needs is begun. -/
theorem overLeaves_splinters (hz : xFrame s ≠ 0) (hg : ∀ k, k < need.length → tableFrame (xFrame s + 65536 * k) = true) :
    overLeaves s f = nextSplinter { s with hub := { s.hub with xtodo := withFrames (xFrame s) need } } x := by
  have good : ((List.range need.length).all fun k => tableFrame (xFrame s + 65536 * k)) = true := by
    simpa using hg
  simp only [overLeaves, hr, hx, hp, hl, hf, hn, hz, good, Bool.false_eq_true, ↓reduceIte, decide_false, Bool.and_false, Bool.not_true]

end

end

/-- The next splinter is begun in its leaf, which is still of the size found. -/
theorem nextSplinter_begins {x : Ctx} {va log frame : Nat} {rest : List (Nat × Nat × Nat)} {l : Leaf}
    (ht : s.hub.xtodo = (va, log, frame) :: rest) (hl : leafAt s.m x va = some l) (hg : l.log = log) :
    nextSplinter s x = xSplit { s with hub := { s.hub with xtodo := rest } } l va frame := by
  simp only [nextSplinter, ht, hl, Option.filter_some, hg, decide_true, ↓reduceIte]

theorem xVa_of_hub {t : State} (h : t.hub = s.hub) : xVa t = xVa s := by simp only [xVa, h]
theorem xPages_of_hub {t : State} (h : t.hub = s.hub) : xPages t = xPages s := by simp only [xPages, h]

@[simp] theorem rewriteLeaves_hub (g : BitVec 128 → BitVec 128) (ls : List (Nat × Leaf)) : ∀ s : State, (rewriteLeaves s g ls).hub = s.hub :=
  fun s => by
  refine foldl_keeps (P := fun t : State => t.hub = s.hub) ?_ ls rfl
  exact fun _ _ h => h

/-- PERM over whole leaves (R58). -/
theorem applyLeaves_perms {x : Ctx} {ls : List (Nat × Leaf)} (ho : xOp s ≠ 3) (hl : leavesOf s.m x (xEndVa s) (xPages s) (xVa s) = some ls) :
    applyLeaves s x = xEnd (xShoot (rewriteLeaves s (fun e => withPerms e (s.hub.xarg.extractLsb' 0 4)) ls) (xVa s) (65536 * xPages s)) 0#4 := by
  have hub := rewriteLeaves_hub (fun e => withPerms e (s.hub.xarg.extractLsb' 0 4)) ls s
  simp only [applyLeaves, hl, if_neg ho, xVa_of_hub hub, xPages_of_hub hub]

/-- ATTRCHG over whole leaves (R63). -/
theorem applyLeaves_attrs {x : Ctx} {ls : List (Nat × Leaf)} (ho : xOp s = 3) (hl : leavesOf s.m x (xEndVa s) (xPages s) (xVa s) = some ls) :
    applyLeaves s x = xEnd (xShoot (changeLeaves s ls) (xVa (changeLeaves s ls)) (65536 * xPages (changeLeaves s ls))) 0#4 := by
  simp only [applyLeaves, hl, if_pos ho]

/-- With no engine command and no remote read parked none is tried again. -/
theorem retryReads_none (hc : s.cmds = []) (hf : s.fab.parked = []) : retryReads s = s := by
  simp [retryReads, hc, hf]

/-- The leaves rewritten by an ATTRCHG with no read parked beyond the warps (R63). -/
theorem changeLeaves_quiet {ls : List (Nat × Leaf)} (hc : s.cmds = []) (hf : s.fab.parked = []) : changeLeaves s ls = rewriteLeaves
    (mapWarps { s with m := (ls.flatMap fun p => framesOf p.2).foldl (markFrame (xAttr s) (xKey s)) s.m }
      (releaseReads (ls.flatMap fun p => framesOf p.2))) (fun e => withAttr e (xAttr s) (xKey s)) ls := by
  unfold changeLeaves
  dsimp only
  rw [retryReads_none]
  · rfl
  · exact hc
  · exact hf

/-! ### The end of a request (R57, R59, R60) -/

theorem endSplinter_same {k : Splinter} {c : BitVec 16} (h : pteRead s.m k.pte = k.entry) : endSplinter s c k =
    (shootdown { s with m := ptePut (clearHeld s.m k.pte) k.pte (tablePointer k.frame) } c k.base (2 ^ k.log), some (k.base, 2 ^ k.log)) := by
  simp only [endSplinter, h, ↓reduceIte]

theorem endSplinter_changed {k : Splinter} {c : BitVec 16} (h : pteRead s.m k.pte ≠ k.entry) : endSplinter s c k =
    ({ s with m := ptePut (clearHeld s.m k.pte) k.pte (withoutSpl (pteRead s.m k.pte)) }, none) := by
  simp only [endSplinter, h, ↓reduceIte]

/-- XLATE_CTL as a request that ends leaves it (R57). -/
def endedControl (ctl : Word) (ec : BitVec 4) : Word :=
  setBits (setBits (setBits ctl 31 1 0#1) 24 4 ec) (if ec = 0#4 then 30 else 29) 1 1#1

/-- The state that a request leaves at its end: an ATTRCHG that acted has settled its frames (R57, R63). -/
def endedRequest (s : State) (ec : BitVec 4) : State :=
  { s with
    m := if xOp s = 3 ∧ ec = 0#4 then (settleFrames s).m else s.m
    hub := { s.hub with xctl := endedControl s.hub.xctl ec, xdone := none, xspans := [] } }

section
variable (hg : xGo s = true)
include hg

theorem requestEnd_splinter {k : Splinter} (hs : s.hub.xsplit = some k) : exec .xlateRequestEnd s = .next (finishSplinter s k) := by
  show execXlateRequestEnd s = _
  simp only [execXlateRequestEnd, hg, hs, Bool.not_true, Bool.false_eq_true, ↓reduceIte]

section
variable {ec : BitVec 4} (hs : s.hub.xsplit = none) (hd : s.hub.xdone = some ec)
include hs hd

/-- A request waits for the accesses in flight in the ranges shot down (R59). -/
theorem requestEnd_waits (hf : anyInFlight s (xCtx s) s.hub.xspans = true) : exec .xlateRequestEnd s = .next s := by
  show execXlateRequestEnd s = _
  simp only [execXlateRequestEnd, hg, hs, hd, hf, Bool.not_true, Bool.false_eq_true, ↓reduceIte, Bool.true_or]

/-- Otherwise GO clears, with DONE or with ERR and ECODE; an ATTRCHG that acted settles its frames first (R57, R63). -/
theorem requestEnd_ends (hf : anyInFlight s (xCtx s) s.hub.xspans = false) (hw : xOp s = 3 → readsWoken s = false) :
    exec .xlateRequestEnd s = .next (endedRequest s ec) := by
  have awake : (decide (xOp s = 3) && readsWoken s) = false := by simpa using hw
  show execXlateRequestEnd s = _
  simp only [execXlateRequestEnd, hg, hs, hd, hf, awake, Bool.not_true, Bool.false_eq_true, ↓reduceIte, Bool.or_self, Bool.and_eq_true,
    decide_eq_true_eq]
  unfold endedRequest endedControl
  split <;> rfl

end

end

end

/-- A bit of a value with a field replaced. -/
theorem getLsbD_setBits {k lo n i : Nat} (x : BitVec k) (v : BitVec n) (hi : i < k) :
    (setBits x lo n v).getLsbD i = if lo ≤ i ∧ i < lo + n then v.getLsbD (i - lo) else x.getLsbD i := by
  simp only [setBits, BitVec.getLsbD_or, BitVec.getLsbD_and, BitVec.getLsbD_not, BitVec.getLsbD_shiftLeft, BitVec.getLsbD_setWidth,
    BitVec.getLsbD_allOnes]
  by_cases h : lo ≤ i ∧ i < lo + n
  · simp [hi, h, show ¬i < lo by omega, show i - lo < n by omega, show i - lo < k by omega]
  · rw [if_neg h]
    by_cases below : i < lo
    · simp [hi, below]
    · have above : n ≤ i - lo := by omega
      simp [hi, below, show ¬i - lo < n by omega, BitVec.getLsbD_of_ge v _ above]

theorem endedControl_go (ctl : Word) (ec : BitVec 4) : (endedControl ctl ec).getLsbD 31 = false := by
  unfold endedControl
  split <;> simp only [getLsbD_setBits _ _ (show 31 < 32 by decide)] <;> simp

theorem endedControl_done (ctl : Word) {ec : BitVec 4} (h : ec = 0#4) : (endedControl ctl ec).getLsbD 30 = true := by
  simp only [endedControl, h, ↓reduceIte, getLsbD_setBits _ _ (show 30 < 32 by decide)]
  simp

theorem endedControl_err (ctl : Word) {ec : BitVec 4} (h : ec ≠ 0#4) : (endedControl ctl ec).getLsbD 29 = true := by
  simp only [endedControl, h, ↓reduceIte, getLsbD_setBits _ _ (show 29 < 32 by decide)]
  simp

theorem endedControl_ecode (ctl : Word) (ec : BitVec 4) : (endedControl ctl ec).extractLsb' 24 4 = ec := by
  refine BitVec.eq_of_getLsbD_eq fun i hi => ?_
  have outside : ¬(30 ≤ 24 + i ∧ 24 + i < 31) ∧ ¬(29 ≤ 24 + i ∧ 24 + i < 30) := by omega
  unfold endedControl
  simp only [getLsbD_setBits _ _ (show 24 + i < 32 by omega), BitVec.getLsbD_extractLsb', hi, decide_true, Bool.true_and, Nat.le_add_right,
    Nat.add_sub_cancel_left, show 24 + i < 24 + 4 by omega, and_self, ↓reduceIte]
  split
  · exact if_neg outside.1
  · exact if_neg outside.2

/-- The first splinter of a list takes the first of the frames (R61). -/
theorem withFrames_cons (frame va log : Nat) (l : List (Nat × Nat)) :
    withFrames frame ((va, log) :: l) = (va, log, frame) :: (withFrames frame ((va, log) :: l)).tail := by
  simp [withFrames]

section
variable {s : State}

theorem xRuns_op {op : Nat} (h : xRuns s op = true) : xOp s = op := by
  simp only [xRuns, Bool.and_eq_true, decide_eq_true_eq] at h
  exact h.2

/-- A request over leaves, PERM or ATTRCHG, goes over the leaves of its range and refuses none of them (R58, R63). -/
theorem leafRequest_runs {ls : List (Nat × Leaf)} {i : Instr}
    (hg : xRuns s 4 = true ∨ (xRuns s 3 = true ∧ ∀ p ∈ ls, offDevice (pteFrame p.2.entry) = false))
    (hi : i = if xRuns s 4 then Instr.xlatePerm else Instr.xlateAttrchg) :
    ∃ f : Leaf → Option (BitVec 4), exec i s = .next (overLeaves s f) ∧ (ls.findSome? fun p => f p.2) = none := by
  by_cases perm : xRuns s 4 = true
  · rw [if_pos perm] at hi
    exact ⟨_, hi ▸ xlatePerm_runs perm, admits_any⟩
  · rw [if_neg perm] at hi
    obtain ⟨attr, hd⟩ := hg.resolve_left perm
    exact ⟨_, hi ▸ xlateAttrchg_runs attr, admits_onDevice hd⟩

section
variable {k : Splinter} {r : State}

/-- The splinter of a SPLINTER in place: the request has acted, and awaits the accesses in the leaf's range (R60). -/
theorem finishSplinter_ends {span : Nat × Nat}
    (h : endSplinter { s with hub := { s.hub with xsplit := none } } (xCtx s) k = (r, some span)) (ho : xOp r = 2) :
    finishSplinter s k = xEnd { r with hub := { r.hub with xspans := span :: r.hub.xspans } } 0#4 := by
  have op : xOp { r with hub := { r.hub with xspans := span :: r.hub.xspans } } = 2 := ho
  simp only [finishSplinter, h, op, ↓reduceIte]

/-- An abandoned splinter ends its request with ECODE 3 (R60). -/
theorem finishSplinter_abandons (h : endSplinter { s with hub := { s.hub with xsplit := none } } (xCtx s) k = (r, none)) :
    finishSplinter s k = xEnd { r with hub := { r.hub with xtodo := [] } } 3#4 := by
  simp only [finishSplinter, h]

end

end

/-- Settles O40: each request by its range and its leaves, and its end by its splinter and its shootdowns. -/
theorem translationRequestResult : Obligations.TranslationRequestResult := by
  refine ⟨fun s hg hr => ⟨_, xlateInval_runs hg hr, rfl, fun e => mem_shootdown_tlb, fun e => mem_shootdown_walks,
      fun w hw hc i => shootdown_windows (va := xVa s) (n := 65536 * xPages s) hw hc i, rfl⟩,
    fun s hb hg => ⟨_, xlateInvalctx_runs hg, rfl, fun e => ?_, fun w hw hc i => shootdown_windows (va := 0) (n := 2 ^ 80) hw hc i, rfl⟩,
    fun s hr => ⟨fun hg => xlateInval_badRange hg hr, fun hg => xlateSplinter_badRange hg hr,
      fun hg => (xlateAttrchg_runs hg).trans (congrArg _ (overLeaves_badRange hr)),
      fun hg => (xlatePerm_runs hg).trans (congrArg _ (overLeaves_badRange hr))⟩,
    fun s x hg hr hx hp => ⟨xlateSplinter_noLeaf hg hr hx hp, fun va l ls hl => ?_⟩,
    fun s x ls hr hx hp hl => ⟨fun hn u hu => ⟨fun hg => ?_, fun hg hd t ht => ⟨?_, fun hc hf => ?_⟩⟩, fun va log l more hn hg i hi => ?_⟩,
    fun s k hg hs => ⟨fun hk ho => ?_, fun hk => ?_⟩,
    fun s ec hg hs hd => ⟨requestEnd_waits hg hs hd, fun hf hw => ⟨_, requestEnd_ends hg hs hd hf hw, rfl, rfl, endedControl_go _ _,
      endedControl_ecode _ _, endedControl_done _, endedControl_err _, rfl, rfl⟩⟩⟩
  · exact mem_shootdown_tlb.trans (and_congr_right fun he => not_congr (and_iff_left (rangesMeet_all (hb e he) (Nat.two_pow_pos _))))
  · rw [xlateSplinter_leaf hg hr hx hp hl]
    refine ⟨fun hs => by rw [if_pos hs], fun hs hf => by rw [if_neg hs, if_pos hf], fun hs hf => ?_⟩
    rw [if_neg hs, if_neg (by simp [hf])]
    simp only [xSplit, beginSplinter, withSpl]
  · subst hu
    rw [xlatePerm_runs hg, overLeaves_whole hr hx hp hl admits_any hn]
    have ho : xOp s ≠ 3 := by rw [xRuns_op hg]; decide
    exact congrArg _ (applyLeaves_perms ho hl)
  · subst hu ht
    rw [xlateAttrchg_runs hg, overLeaves_whole hr hx hp hl (admits_onDevice hd) hn]
    exact congrArg _ (applyLeaves_attrs (xRuns_op hg) hl)
  · subst hu ht
    exact changeLeaves_quiet hc hf
  · obtain ⟨f, runs, admits⟩ := leafRequest_runs hg hi
    rw [runs]
    refine ⟨fun hz => congrArg _ (overLeaves_noFrame hr hx hp hl admits hn (List.cons_ne_nil _ _) hz),
      fun hz hb => congrArg _ (overLeaves_badFrame hr hx hp hl admits hn hz hb), fun hz hb hf hlog => ?_⟩
    exact congrArg _ ((overLeaves_splinters hr hx hp hl admits hn hz hb).trans (nextSplinter_begins (withFrames_cons _ _ _ _) hf hlog))
  · rw [requestEnd_splinter hg hs, finishSplinter_ends (endSplinter_same hk) ho]
    exact ⟨_, rfl, rfl, rfl, rfl, List.mem_cons_self⟩
  · rw [requestEnd_splinter hg hs, finishSplinter_abandons (endSplinter_changed hk)]
    exact ⟨_, rfl, rfl, rfl, rfl⟩

end Sys2Proof.Machine

/-! The memories' canonical form, which a device that joins under an identity may lose (R181, R407). -/

namespace Sys2Proof.Machine

/-! ### A standby that joins (R181, R407) -/

/-- Memories in canonical form whose cells list a byte above the 52-bit address map, and whose host memory lists its first byte. -/
def beyondMap : Mem := { Mem.reset with cells := [(0x10000000000000, 1#8)], hostMem := [(0x8000000000000, 1#8)] }

theorem beyondMap_wf : Memory.wf beyondMap = true := by decide

/-- Where no byte of device memory is listed, the cells of a device that joins are those it keeps, then those of host memory: nothing puts the
two in order. -/
theorem blankMem_cells {m : Mem} (h : (m.cells.filter fun c => inDevice c.1) = []) :
    (blankMem m).cells = (m.cells.filter fun c => !offDevice c.1) ++ m.hostMem := by
  simp only [blankMem, h, List.map_nil, List.eraseDups_nil, List.foldl_nil, dropCaches]

theorem blankMem_beyondMap : (blankMem beyondMap).cells = [(0x10000000000000, 1#8), (0x8000000000000, 1#8)] :=
  (blankMem_cells (by decide)).trans (by decide)

theorem blankMem_beyondMap_not_wf : ¬ Memory.wf (blankMem beyondMap) = true := by
  rw [Memory.wf_iff, blankMem_beyondMap]
  exact fun h => absurd h.1 (by decide)

/-- The standby whose vertex a substitution names takes the identity, and its memories with it (R407). -/
theorem standbySubstitute_joins {s : State} {i v : BitVec 10} {n : BitVec 16} (hs : s.fab.standby = true) (hv : s.fab.vertex = v) :
    ∃ t, exec (.standbySubstitute i v n) s = .next t ∧ t.m = blankMem s.m := by
  refine ⟨_, congrArg Host.Outcome.next (if_pos ?_), rfl⟩
  simp only [hs, hv, decide_true, Bool.and_self]

/-- A step takes the event that stands first in the input list. -/
theorem step_event {s : State} {i : Instr} {rest : List Instr} (hi : s.inbox = i :: rest) (he : encode i = none) :
    step s = exec i { tick s with inbox := rest } := by
  have ht : (tick s).inbox = i :: rest := hi
  simp only [step, ht, he, Option.isNone_none, ↓reduceIte]

/-- A standby that holds these memories and is told to join under identity 0. -/
noncomputable def joiningStandby : State :=
  { State.reset with m := beyondMap, inbox := [.standbySubstitute 0#10 Config.vertex 0#16] }

/-- Refutes O60: the standby takes the identity, and the bytes of host memory then stand behind one above the address map. The statement asks
nothing of which addresses the lists name. -/
theorem not_stepKeepsMemory : ¬ Obligations.StepKeepsMemory := by
  intro h
  obtain ⟨t, run, mem⟩ := standbySubstitute_joins (s := { tick joiningStandby with inbox := [] }) (i := 0#10) (n := 0#16) rfl rfl
  have kept : Memory.wf t.m = true := h joiningStandby t beyondMap_wf ((step_event rfl rfl).trans run)
  rw [mem] at kept
  exact blankMem_beyondMap_not_wf kept

end Sys2Proof.Machine

/-! Scalar results (R274 to R276, R238). -/

namespace Sys2Proof.Machine

/-! ### Scalars as exact integers (R259, R263) -/

theorem shiftAmount_eq (b : DWord) : shiftAmount b = b.toNat % 64 := by simp [shiftAmount, bitsNat]

/-- A 64-bit value is what its exact integer is modulo 2^64. -/
theorem ofInt_scalarInt (w : Warp) (x : DWord) : BitVec.ofInt 64 (scalarInt w x) = x := by
  unfold scalarInt
  split
  · exact BitVec.ofInt_toInt
  · rw [BitVec.ofInt_natCast, BitVec.ofNat_toNat, BitVec.setWidth_eq]

theorem ofInt_min_scalarInt (w : Warp) (x y : DWord) :
    BitVec.ofInt 64 (min (scalarInt w x) (scalarInt w y)) = if scalarInt w y < scalarInt w x then y else x := by
  split
  · rw [min_eq_right (by omega), ofInt_scalarInt]
  · rw [min_eq_left (by omega), ofInt_scalarInt]

theorem ofInt_max_scalarInt (w : Warp) (x y : DWord) :
    BitVec.ofInt 64 (max (scalarInt w x) (scalarInt w y)) = if scalarInt w x < scalarInt w y then y else x := by
  split
  · rw [max_eq_right (by omega), ofInt_scalarInt]
  · rw [max_eq_left (by omega), ofInt_scalarInt]

/-- The exact integer of a 64-bit value lies within its width, and is not clamped (R263). -/
theorem clampInt_scalarInt (w : Warp) (x : DWord) : clampInt 64 (scalarSigned w) (scalarInt w x) = scalarInt w x := by
  have u := x.isLt
  have l := x.le_toInt
  have h := x.toInt_lt
  unfold clampInt scalarInt
  cases scalarSigned w <;> simp at * <;> omega

/-- An exact result within the width is the result, whatever MODE.SAT (R263). -/
theorem scalarResult_within (w : Warp) {x : DWord} {v : Int} (h : v = scalarInt w x) : scalarResult w v = BitVec.ofInt 64 v := by
  subst h
  unfold scalarResult
  rw [clampInt_scalarInt, ite_self]

/-- Where the quotient does not overflow it is the exact integer of a 64-bit value. -/
theorem tdiv_scalarInt {w : Warp} {x y : DWord} (h : ¬(scalarSigned w = true ∧ x = 0x8000000000000000#64 ∧ y = 0xFFFFFFFFFFFFFFFF#64)) :
    ∃ z, (scalarInt w x).tdiv (scalarInt w y) = scalarInt w z := by
  unfold scalarInt
  split
  · refine ⟨x.sdiv y, (BitVec.toInt_sdiv_of_ne_or_ne x y ?_).symm⟩
    rw [← not_and_or]
    exact fun e => h ⟨by assumption, e.1, e.2⟩
  · exact ⟨x / y, by rw [BitVec.toNat_udiv]; rfl⟩

/-- The quotient of R275: all ones by zero; the most negative value by −1 is clamped under MODE.SAT, else wraps; every other is exact. -/
theorem scalarDiv_eq (w : Warp) (x y : DWord) : scalarDiv w x y =
    if y = 0#64 then 0xFFFFFFFFFFFFFFFF#64
    else if scalarSigned w && x = 0x8000000000000000#64 && y = 0xFFFFFFFFFFFFFFFF#64 then
      (if modeSat w then 0x7FFFFFFFFFFFFFFF#64 else 0x8000000000000000#64)
    else BitVec.ofInt 64 ((scalarInt w x).tdiv (scalarInt w y)) := by
  unfold scalarDiv
  split
  · rfl
  · split
    · rename_i o
      simp only [Bool.and_eq_true, decide_eq_true_eq] at o
      obtain ⟨⟨hs, rfl⟩, rfl⟩ := o
      simp only [scalarResult, scalarInt, hs, ↓reduceIte]
      split <;> decide
    · rename_i o
      simp only [Bool.and_eq_true, decide_eq_true_eq, and_assoc] at o
      obtain ⟨z, hz⟩ := tdiv_scalarInt o
      exact scalarResult_within w hz

theorem scalarRem_eq (w : Warp) (x y : DWord) : scalarRem w x y =
    if y = 0#64 then x else BitVec.ofInt 64 (scalarInt w x - (scalarInt w x).tdiv (scalarInt w y) * scalarInt w y) := by
  unfold scalarRem
  rw [Int.tmod_def, Int.mul_comm]

/-! ### The forms -/

/-- A scalar form of two sources whose function is another way of writing the table's. -/
theorem givesScalarTwo_eq {form : Byte → Byte → Byte → Instr} {f g : Warp → DWord → DWord → DWord}
    (e : ∀ d a b s, exec (form d a b) s = scalarBin d a b f s) (h : ∀ w x y, f w x y = g w x y) : GivesScalarTwo form g := by
  obtain rfl : f = g := by funext w x y; exact h w x y
  exact givesScalarTwo_of e

theorem smovi_next {s : State} {d : Byte} {i : BitVec 20} (hp : Passes s .yes [.sdst d]) :
    exec (.smovi d i) s = .next (if active s.w = 0#64 then advance s else s.putScalar d ⟨immediateValue (modeEt s.w) i, false⟩) := by
  refine exec_ok (show execSmovi d i s = _ from rfl) hp rfl ?_
  unfold warpOnce
  split <;> rfl

end Sys2Proof.Machine

namespace Sys2Proof.Laws
open Sys2Proof.Machine

/-- Settles O1: each form by its function of one or two sources, the shifts, comparisons and quotients as the table writes them. -/
theorem scalarResult : Obligations.ScalarResult := by
  refine ⟨?_, ?_, ?_, ?_, ?_, ?_, ?_, ?_, ?_, ?_, ?_, ?_, ?_, ?_, ?_, ?_, ?_, ?_, ?_, ?_, ?_, ?_, ?_, ?_, ?_, ?_, fun _ _ _ => smovi_next⟩
  iterate 8 · exact givesScalarTwo_of fun _ _ _ _ => rfl
  · exact givesScalarTwo_eq (f := fun _ x y => x <<< shiftAmount y) (fun _ _ _ _ => rfl) fun _ _ _ => by rw [shiftAmount_eq]
  · exact givesScalarTwo_eq (f := fun _ x y => x >>> shiftAmount y) (fun _ _ _ _ => rfl) fun _ _ _ => by rw [shiftAmount_eq]
  · exact givesScalarTwo_eq (f := fun _ x y => x.sshiftRight (shiftAmount y)) (fun _ _ _ _ => rfl) fun _ _ _ => by rw [shiftAmount_eq]
  · exact givesScalarTwo_eq (f := fun _ x y => x.rotateLeft (shiftAmount y)) (fun _ _ _ _ => rfl) fun _ _ _ => by rw [shiftAmount_eq]
  · exact givesScalarTwo_eq (f := fun _ x y => truth (x == y)) (fun _ _ _ _ => rfl) fun _ _ _ => by simp only [truth, beq_iff_eq]
  · exact givesScalarTwo_eq (f := fun w x y => truth (scalarInt w x < scalarInt w y)) (fun _ _ _ _ => rfl) fun _ _ _ => by
      simp only [truth, decide_eq_true_eq]
  · exact givesScalarTwo_eq (f := fun w x y => truth (scalarInt w x ≤ scalarInt w y)) (fun _ _ _ _ => rfl) fun _ _ _ => by
      simp only [truth, decide_eq_true_eq]
  · exact givesScalarTwo_eq (f := fun _ x y => truth (x != y)) (fun _ _ _ _ => rfl) fun _ _ _ => by simp only [truth, bne_iff_ne, ne_eq, ite_not]
  · exact givesScalarTwo_eq (f := fun w x y => if scalarInt w y < scalarInt w x then y else x) (fun _ _ _ _ => rfl) fun w x y =>
      (ofInt_min_scalarInt w x y).symm
  · exact givesScalarTwo_eq (f := fun w x y => if scalarInt w x < scalarInt w y then y else x) (fun _ _ _ _ => rfl) fun w x y =>
      (ofInt_max_scalarInt w x y).symm
  · exact givesScalarTwo_eq (f := scalarDiv) (fun _ _ _ _ => rfl) scalarDiv_eq
  · exact givesScalarTwo_eq (f := scalarRem) (fun _ _ _ _ => rfl) scalarRem_eq
  iterate 2 · exact givesScalarOne_of fun _ _ _ => rfl
  · simp only [Int.zero_sub]
    exact givesScalarOne_of fun _ _ _ => rfl
  iterate 3 · exact givesScalarOne_of fun _ _ _ => rfl

end Sys2Proof.Laws

/-! Vector results (R277, R279, R280). -/

namespace Sys2Proof.Machine

/-- An element type that a form accepts passes its check (R259, R260). -/
theorem intType_ok (w : Warp) (h : (modeEt w).isInt = true) : intType w = .ok () := require_true h
theorem floatType_ok (w : Warp) (h : (modeEt w).isFloat = true) : floatType w = .ok () := require_true h
theorem anyType_ok (w : Warp) (_ : anyElem (modeEt w) = true) : anyType w = .ok () := rfl

/-- Settles O2: each form by its check and its function of two or three sources. -/
theorem vectorResult : Obligations.VectorResult := by
  refine ⟨?_, ?_, ?_, ?_, ?_, ?_, ?_, ?_, ?_, ?_, ?_, ?_, ?_, ?_, ?_, ?_, ?_, ?_, ?_, ?_, ?_, ?_, ?_, ?_⟩
  iterate 4 · exact givesVectorTwo_of intType (fun _ _ _ _ => rfl) intType_ok
  iterate 8 · exact givesVectorTwo_of anyType (fun _ _ _ _ => rfl) anyType_ok
  iterate 3 · exact givesVectorTwo_of intType (fun _ _ _ _ => rfl) intType_ok
  iterate 5 · exact givesVectorTwo_of floatType (fun _ _ _ _ => rfl) floatType_ok
  · exact givesVectorThree_of intType (fun _ _ _ _ => rfl) intType_ok
  iterate 3 · exact givesVectorThree_of floatType (fun _ _ _ _ => rfl) floatType_ok

end Sys2Proof.Machine

/-! Vector results of one source (R278, R281 to R287, R238). -/

namespace Sys2Proof.Machine

/-! ### Checks of the element type (R260, R284) -/

theorem floatNot64_ok (w : Warp) (h : notF64 (modeEt w) = true) : floatNot64 w = .ok () := by
  simp only [notF64, Bool.and_eq_true] at h
  simp only [floatNot64, h.1, Bool.not_true, Bool.false_eq_true, ↓reduceIte, require_true h.2]

theorem codedType_ok (w : Warp) (h : isCoded (modeEt w) = true) : codedType w = .ok () := require_true h

/-! ### Forms with an equation of their own -/

/-- The low half of an immediate's value is its value in 32 bits: no 64-bit type, so no value is widened (R238). -/
theorem immediate32_eq {t : Elem} (i : BitVec 20) (h : t.isPair = false) : immediate32 t i = (immediateValue t i).setWidth 32 := by
  unfold immediate32 immediateValue
  split
  · apply BitVec.eq_of_getLsbD_eq
    intro k hk
    simp only [BitVec.getLsbD_setWidth, BitVec.getLsbD_signExtend, hk, show k < 64 by omega, decide_true, Bool.true_and]
  · have n : t ≠ .f64 := by rintro rfl; exact absurd h (by decide)
    rw [if_neg n]; simp

theorem movi_next {s : State} {d : Byte} {i : BitVec 20} (hp : Passes s .no [vdst d (wideEt s)]) :
    exec (.movi d i) s = .next (s.putVector [vdst d (wideEt s)] (wideEt s) d fun _ =>
      ⟨if wideEt s then immediateValue (modeEt s.w) i else ((immediateValue (modeEt s.w) i).setWidth 32).setWidth 64, false⟩) := by
  refine exec_next (show execMovi d i s = _ from rfl) hp ?_
  by_cases h : wideEt s = true
  · simp only [h, ↓reduceIte]
    rfl
  · rw [Bool.not_eq_true] at h
    simp only [h, immediate32_eq i (show (modeEt s.w).isPair = false from h), Bool.false_eq_true, ↓reduceIte]

theorem vmxscale_next {s s₁ : State} {d a : Byte} {x : Src} (hk : isCoded (modeEt s.w) = true) (hp : Passes s .no [vdst d false, .vsrc a false])
    (hr : readV s false a = .ok (s₁, x)) :
    exec (.vmxscale d a) s = .next (s₁.putVector [vdst d false, .vsrc a false] false d fun l =>
      spread ((activeHalf s.w l).map x)
        ((scaleOf (modeEt s.w) ((activeHalf s.w l).map fun k => Elem.f32.value (x k).val.toNat)).setWidth 64)) := by
  refine exec_next (show execVmxscale d a s = _ from rfl) hp ?_
  simp only [codedType_ok _ hk, hr, scalarOut_spread, readV_w hr]
  rfl

theorem vcvt_next {s s₁ : State} {d a : Byte} {t u : BitVec 4} {x : Src}
    (hp : Passes s .no [vdst d (Elem.ofCode t).isPair, .vsrc a (Elem.ofCode u).isPair]) (hr : readV s (Elem.ofCode u).isPair a = .ok (s₁, x)) :
    exec (.vcvt d a t u) s = .next (s₁.putVector [vdst d (Elem.ofCode t).isPair, .vsrc a (Elem.ofCode u).isPair] (Elem.ofCode t).isPair d
      fun l => spread [x l] (convert (Elem.ofCode t) (Elem.ofCode u) (modeRm s.w) (modeSat s.w) (modeFtz s.w) (x l).val.toNat)) :=
  perLane1_next (check := anyType) (f := fun w x => convert (Elem.ofCode t) (Elem.ofCode u) (modeRm w) (modeSat w) (modeFtz w) x.toNat) rfl hp hr

section
variable {s s₁ s₂ : State} {d a b : Byte} {x y : Src} (hk : isCoded (modeEt s.w) = true)
  (hp : Passes s .no [vdst d false, .vsrc a false, .vsrc b false]) (h₁ : readV s false a = .ok (s₁, x)) (h₂ : readV s₁ false b = .ok (s₂, y))
include hk hp h₁ h₂

theorem vmxq_next : exec (.vmxq d a b) s = .next (s₂.putVector [vdst d false, .vsrc a false, .vsrc b false] false d fun l =>
    spread [x l, y l] (BitVec.ofNat 64 (codeOf (modeEt s.w) ((y l).val.setWidth 8) (Elem.f32.value (x l).val.toNat)))) :=
  perLane2_next (f := fun w x y => BitVec.ofNat 64 (codeOf (modeEt w) (y.setWidth 8) (Elem.f32.value x.toNat))) (codedType_ok _ hk) hp h₁ h₂

theorem vmxdq_next : exec (.vmxdq d a b) s = .next (s₂.putVector [vdst d false, .vsrc a false, .vsrc b false] false d fun l =>
    spread [x l, y l] (BitVec.ofNat 64 (Elem.f32.pattern
      ((codeValue (modeEt s.w) ((y l).val.setWidth 8) (x l).val.toNat).round .f32 .rne false)))) :=
  perLane2_next (f := fun w x y => BitVec.ofNat 64 (Elem.f32.pattern ((codeValue (modeEt w) (y.setWidth 8) x.toNat).round .f32 .rne false)))
    (codedType_ok _ hk) hp h₁ h₂

end

/-- Settles O3: each form by its check and its function of one source, movi, vcvt and the scaled forms by their own equations. -/
theorem vectorOneSourceResult : Obligations.VectorOneSourceResult := by
  refine ⟨?_, ?_, ?_, ?_, ?_, ?_, ?_, ?_, ?_, ?_, ?_, ?_, ?_, ?_, ?_, ?_, ?_, fun _ _ _ => movi_next, fun _ _ _ _ _ _ _ => vcvt_next,
    fun _ _ _ _ _ => vmxscale_next, fun _ _ _ _ _ _ _ _ hk hp h₁ h₂ => ⟨vmxq_next hk hp h₁ h₂, vmxdq_next hk hp h₁ h₂⟩⟩
  iterate 2 · exact givesVectorOne_of anyType (fun _ _ _ => rfl) anyType_ok
  · simp only [Int.zero_sub]
    exact givesVectorOne_of intType (fun _ _ _ => rfl) intType_ok
  · exact givesVectorOne_of intType (fun _ _ _ => rfl) intType_ok
  iterate 3 · exact givesVectorOne_of anyType (fun _ _ _ => rfl) anyType_ok
  iterate 5 · exact givesVectorOne_of floatType (fun _ _ _ => rfl) floatType_ok
  iterate 5 · exact givesVectorOne_of floatNot64 (fun _ _ _ => rfl) floatNot64_ok

end Sys2Proof.Machine

/-! Lanes that exchange values, and votes (R288 to R290). -/

namespace Sys2Proof.Machine

/-! ### Masks of lanes -/

theorem laneMask_getLsbD (f : Fin 64 → Bool) (l : Fin 64) : (laneMask f).getLsbD l = f l := by
  unfold laneMask
  rw [BitVec.getLsbD_ofFnLE, dif_pos l.isLt]

/-- A mask has a lane unless it is zero. -/
theorem mask_ne_zero {m : Mask} : m ≠ 0#64 ↔ ∃ l : Fin 64, m.getLsbD l = true := by
  rw [← not_iff_not, not_not, ← laneList_eq_nil, List.eq_nil_iff_forall_not_mem, not_exists]
  simp only [mem_laneList]

theorem any_lane (m : Mask) (f : Fin 64 → Bool) : (m &&& laneMask f) ≠ 0#64 ↔ ∃ l : Fin 64, m.getLsbD l = true ∧ f l = true := by
  simp only [mask_ne_zero, BitVec.getLsbD_and, laneMask_getLsbD, Bool.and_eq_true]

theorem all_lanes (m : Mask) (f : Fin 64 → Bool) : (m &&& ~~~laneMask f) = 0#64 ↔ ∀ l : Fin 64, m.getLsbD l = true → f l = true := by
  rw [← not_iff_not, ← ne_eq, mask_ne_zero]
  simp only [BitVec.getLsbD_and, BitVec.getLsbD_not, laneMask_getLsbD, Fin.is_lt, decide_true, Bool.true_and, Bool.and_eq_true,
    Bool.not_eq_true', not_forall, Bool.not_eq_true, exists_prop]

/-! ### Values that move between lanes (R288, R289) -/

section
variable {s s₁ : State} {d a k : Byte} {x : Src}

theorem wideEt_readV {w : Bool} (hr : readV s w a = .ok (s₁, x)) : wideEt s₁ = wideEt s := by unfold wideEt; rw [readV_w hr]

theorem vbcast_next (hp : Passes s .no [vdst d (wideEt s), .vsrc a (wideEt s)]) (hr : readV s (wideEt s) a = .ok (s₁, x)) :
    exec (.vbcast d a k) s = .next (s₁.putVector [vdst d (wideEt s), .vsrc a (wideEt s)] (wideEt s) d fun _ =>
      moved s.w (x (Fin.ofNat 64 k.toNat))) := by
  refine exec_next (show execVbcast d a k s = _ from rfl) hp ?_
  simp only [hr, wideEt_readV hr, readV_w hr]

theorem vs2v_next {y : Scalar} (hp : Passes s .no [vdst d (wideEt s), .ssrc a]) (hr : readS s a = .ok (s₁, y)) :
    exec (.vs2v d a) s = .next (s₁.putVector [vdst d (wideEt s), .ssrc a] (wideEt s) d fun _ => y) := by
  refine exec_next (show execVs2v d a s = _ from rfl) hp ?_
  have h : wideEt s₁ = wideEt s := by unfold wideEt; rw [readS_w hr]
  simp only [hr, h]

theorem v2s_next (ha : active s.w ≠ 0#64) (hp : Passes s .no [.sdst d, .vsrc a (wideEt s)]) (hr : readV s (wideEt s) a = .ok (s₁, x)) :
    exec (.v2s d a k) s = .next (popQueues [.sdst d, .vsrc a (wideEt s)] (s₁.putScalar d (moved s.w (x (Fin.ofNat 64 k.toNat))))) := by
  refine exec_next (show execV2s d a k s = _ from rfl) hp ?_
  simp only [hr, warpOnce, readV_w hr, if_neg ha, State.putScalar]

theorem v2s_idle (ha : active s.w = 0#64) (hp : Passes s .no [.sdst d, .vsrc a (wideEt s)]) (hr : readV s (wideEt s) a = .ok (s₁, x)) :
    exec (.v2s d a k) s = .next (popQueues [.sdst d, .vsrc a (wideEt s)] (advance s₁)) := by
  refine exec_next (show execV2s d a k s = _ from rfl) hp ?_
  simp only [hr, warpOnce, readV_w hr, if_pos ha]

end

/-! ### Votes (R290) -/

section
variable {s : State} {d a : BitVec 4}

/-- A vote on a predicate of which no active lane is poisoned. -/
theorem voteForm_clean {f : Warp → Bool} {v : Bool} (hp : Passes s .no [.pdst d]) (hn : predPoison s.w (active s.w) a = none) (hv : f s.w = v) :
    voteForm d a f s = .next (s.putPred [.pdst d] d (active s.w) fun _ => ⟨v, false, 0#8⟩) := by
  refine issue_next hp ?_
  simp only [hn, hv]

/-- A poisoned active lane poisons the vote with the lowest such lane's code. -/
theorem voteForm_poisoned {f : Warp → Bool} {c : Byte} (hp : Passes s .no [.pdst d]) (hc : predPoison s.w (active s.w) a = some c) :
    voteForm d a f s = .next (s.putPred [.pdst d] d (active s.w) fun _ => ⟨false, true, c⟩) := by
  refine issue_next hp ?_
  simp only [hc]

theorem voteBallot_idle {d : Byte} (ha : active s.w = 0#64) (hp : Passes s .no [.sdst d]) :
    exec (.voteBallot d a) s = .next (advance s) := by
  refine exec_ok (show execVoteBallot d a s = _ from rfl) hp rfl ?_
  simp only [warpOnce, if_pos ha]

theorem voteBallot_next {d : Byte} (ha : active s.w ≠ 0#64) (hp : Passes s .no [.sdst d]) :
    exec (.voteBallot d a) s = .next (s.putScalar d (match predPoison s.w (active s.w) a with
      | some c => poisonScalar c
      | none => ⟨active s.w &&& laneMask fun l => (predLane s.w a l).bit, false⟩)) := by
  refine exec_ok (show execVoteBallot d a s = _ from rfl) hp rfl ?_
  simp only [warpOnce, if_neg ha] <;> rfl

end

/-- A relation of all active lanes, over the list of them. -/
theorem forall_lanes {m : Mask} {P : Fin 64 → Fin 64 → Prop} :
    (∀ k l : Fin 64, m.getLsbD k = true → m.getLsbD l = true → P k l) ↔ ∀ k ∈ laneList m, ∀ l ∈ laneList m, P k l := by
  simp only [mem_laneList]
  exact ⟨fun h k hk l hl => h k l hk hl, fun h k l hk hl => h k hk l hl⟩

/-- All values of a list are one when each is the first. -/
theorem uniform_cons {α β : Type} [DecidableEq β] (f : α → β) (x : α) (r : List α) :
    (r.all fun y => decide (f y = f x)) = true ↔ ∀ y ∈ x :: r, ∀ z ∈ x :: r, f y = f z := by
  simp only [List.all_eq_true, decide_eq_true_eq]
  constructor
  · intro h
    have first : ∀ y ∈ x :: r, f y = f x := List.forall_mem_cons.mpr ⟨rfl, h⟩
    exact fun y hy z hz => (first y hy).trans (first z hz).symm
  · exact fun h y hy => h y (List.mem_cons_of_mem x hy) x List.mem_cons_self

theorem voteUni_next {s s₁ : State} {d : BitVec 4} {a : Byte} {x : Src} (hp : Passes s .no [.pdst d, .vsrc a (wideEt s)])
    (hr : readV s (wideEt s) a = .ok (s₁, x)) :
    exec (.voteUni d a) s = .next (s₁.putPred [.pdst d, .vsrc a (wideEt s)] d (active s.w) fun _ =>
      match firstPoison ((laneList (active s.w)).map x) with
      | some c => ⟨false, true, c⟩
      | none => ⟨decide (∀ k l : Fin 64, (active s.w).getLsbD k = true → (active s.w).getLsbD l = true →
          lanePattern (modeEt s.w) (x k).val = lanePattern (modeEt s.w) (x l).val), false, 0#8⟩) := by
  refine exec_next (show execVoteUni d a s = _ from rfl) hp ?_
  simp only [hr, readV_w hr, forall_lanes]
  cases hl : laneList (active s.w) with
  | nil => simp only [List.not_mem_nil, false_implies, implies_true, decide_true] <;> rfl
  | cons k r => simp only [← uniform_cons (fun l => lanePattern (modeEt s.w) (x l).val) k r, Bool.decide_eq_true] <;> rfl


theorem voteAny_eq (d a : BitVec 4) (s : State) :
    exec (.voteAny d a) s = voteForm d a (fun w => decide (∃ l : Fin 64, (active w).getLsbD l = true ∧ (predLane w a l).bit = true)) s := by
  refine (show exec (.voteAny d a) s = voteForm d a (fun w => decide ((active w &&& predMask w a) ≠ 0#64)) s from rfl).trans ?_
  simp only [predMask, any_lane]

theorem voteAll_eq (d a : BitVec 4) (s : State) :
    exec (.voteAll d a) s = voteForm d a (fun w => decide (∀ l : Fin 64, (active w).getLsbD l = true → (predLane w a l).bit = true)) s := by
  refine (show exec (.voteAll d a) s = voteForm d a (fun w => decide ((active w &&& ~~~predMask w a) = 0#64)) s from rfl).trans ?_
  simp only [predMask, all_lanes]

/-- Settles O4: the shuffles by their source lanes, the copies and the votes by their own equations. -/
theorem laneExchangeResult : Obligations.LaneExchangeResult := by
  refine ⟨givesShuffle_of fun _ _ _ _ => rfl, givesShuffle_of fun _ _ _ _ => rfl, givesShuffle_of fun _ _ _ _ => rfl,
    givesShuffle_of fun _ _ _ _ => rfl, fun _ _ _ _ _ _ => vbcast_next, fun _ _ _ _ _ => vs2v_next, fun _ _ _ _ _ _ => v2s_next,
    fun _ _ _ hp hn => ?_, fun _ _ _ _ hp hc => ?_, fun _ _ _ => voteBallot_next,
    fun _ _ _ _ _ => voteUni_next, fun _ _ _ _ _ _ => v2s_idle, fun _ _ _ => voteBallot_idle⟩
  · rw [voteAny_eq, voteAll_eq]
    exact ⟨voteForm_clean hp hn rfl, voteForm_clean hp hn rfl⟩
  · rw [voteAny_eq, voteAll_eq]
    exact ⟨voteForm_poisoned hp hc, voteForm_poisoned hp hc⟩

end Sys2Proof.Machine

/-! Frames of instructions that read a constant: a table that no walk finds (R54, R56, R231). -/

namespace Sys2Proof.Machine

/-! ### What a write at a home keeps -/

/-- Beside the marks and the undo records, logging a range keeps the memories (R170). -/
theorem logRange_keeps (m : Mem) (a n : Nat) (p : BitVec 2) : { logRange m a n p with marks := m.marks, undo := m.undo } = m := by
  refine foldl_keeps (P := fun q : Mem => { q with marks := m.marks, undo := m.undo } = m) (fun q l h => ?_) _ rfl
  rw [← h]
  unfold logLine
  split <;> rfl

/-- A write at a home keeps the frame records, the struck lines and the U copies. -/
theorem homeWrite_keeps (m : Mem) (a : Nat) (d : List Byte) (p : BitVec 2) :
    (homeWrite m a d p).frames = m.frames ∧ (homeWrite m a d p).bad = m.bad ∧ (homeWrite m a d p).ucopies = m.ucopies := by
  have h := logRange_keeps (dropCopies m a d.length) a d.length p
  have hf := congrArg Mem.frames h
  have hb := congrArg Mem.bad h
  have hu := congrArg Mem.ucopies h
  unfold homeWrite cellWrite
  (repeat' split)
  · exact ⟨rfl, rfl, rfl⟩
  · exact ⟨rfl, rfl, rfl⟩
  · exact ⟨hf, hb, hu⟩

/-! ### Entries that are cached, and entries that are rewritten (R46, R54) -/

/-- A walk passes by the entries that the walk caches hold (R54). -/
theorem walk_cached {m : Mem} {ctx : BitVec 16} {va level table next : Nat} {rest : List Nat} (h : walkFind m ctx va level = some next) :
    walk m ctx va (level :: rest) table = walk m ctx va rest next := by rw [walk, h]

section
variable {m : Mem} {pte : Nat} {e : BitVec 128} (hu : m.ucopies = []) (ho : m.origins = []) (hk : (frameRec m pte).key = 0#7)
include hu ho hk

/-- With no partial of a U copy outstanding and no line under another key than its frame's, an entry is rewritten where it stands (R46). -/
theorem ptePut_plain : ptePut m pte e = homeWrite (takeLine m pte) pte (bytesOfNat 16 e.toNat) 0#2 := by
  refine if_pos (Bool.and_eq_true_iff.mpr ⟨List.isEmpty_iff.mpr ?_, decide_eq_true ?_⟩)
  · rw [takeLine, recallLine_none hu]; exact ho
  · rw [takeLine, recallLine_none hu]; exact hk

theorem ptePut_cells : (ptePut m pte e).cells = cellPut m.cells pte (bytesOfNat 16 e.toNat) := by
  rw [ptePut_plain hu ho hk, (homeWrite_cells _ _ _ _).1, takeLine, recallLine_none hu]

theorem ptePut_keeps : (ptePut m pte e).frames = m.frames ∧ (ptePut m pte e).bad = m.bad ∧ (ptePut m pte e).ucopies = m.ucopies := by
  have h := homeWrite_keeps (takeLine m pte) pte (bytesOfNat 16 e.toNat) 0#2
  rw [← ptePut_plain hu ho hk] at h
  rw [h.1, h.2.1, h.2.2, takeLine, recallLine_none hu]
  exact ⟨rfl, rfl, rfl⟩

end

/-- What a walk has done that set AC in the entry of its leaf (R56). -/
structure Touched (m u : Mem) (pte : Nat) (e : BitVec 128) : Prop where
  cells : u.cells = cellPut m.cells pte (bytesOfNat 16 e.toNat)
  frames : u.frames = m.frames
  bad : u.bad = m.bad
  ucopies : u.ucopies = m.ucopies

/-- The memories once the walk caches hold the tables that a walk has passed (R54). -/
def walked (m : Mem) (ctx : BitVec 16) (root va : Nat) : Mem := { m with walks := walkPath m ctx va [0, 1, 2, 3, 4] root ++ m.walks }

theorem walkFill_touches {m : Mem} {ctx : BitVec 16} {root va : Nat} {dirty : Bool} {l : Leaf} {e : BitVec 128}
    (hw : walk m ctx va [0, 1, 2, 3, 4] root = .leaf l) (he : pteTouch l.entry dirty = e) (ht : e ≠ l.entry) (hu : m.ucopies = [])
    (ho : m.origins = []) (hk : (frameRec m l.pte).key = 0#7) :
    ∃ u, walkFill m ctx root va dirty = (u, .leaf { l with entry := e }) ∧ Touched m u l.pte e := by
  obtain ⟨hf, hb, hc⟩ := ptePut_keeps (m := walked m ctx root va) (e := e) hu ho hk
  have put := ptePut_cells (m := walked m ctx root va) (e := e) hu ho hk
  unfold walkFill
  rw [hw]
  simp only [he, if_neg ht]
  exact ⟨_, rfl, put, hf, hb, hc⟩

/-! ### A read of an RC page (R120, R161, R231) -/

theorem shareLine_hub (s : State) (core pa : Nat) : (shareLine s core pa).hub = s.hub := by
  unfold shareLine; split <;> rfl

theorem dirShare_cells (m : Mem) (a l : Nat) : (dirShare m a l).cells = m.cells := by
  unfold dirShare; (repeat' split) <;> rfl

theorem copyFill_cells (m : Mem) (c l : Nat) : (copyFill m c l).cells = m.cells := by
  unfold copyFill; split <;> rfl

theorem shareLine_cells {s : State} {core pa : Nat} (hu : s.m.ucopies = []) : (shareLine s core pa).m.cells = s.m.cells := by
  unfold shareLine
  split
  · rfl
  · simp only [dirShare_cells, recallLine_none hu]

theorem loadAt_hub (s : State) (core : Nat) (c : Bool) (p : Place) (n : Nat) : (loadAt s core c p n).1.hub = s.hub := by
  unfold loadAt
  simp only []
  (repeat' split) <;> simp [shareLine_hub]

/-- With no partial outstanding, a read of an RC page leaves every byte as it is. -/
theorem loadAt_rc_cells {s : State} {core : Nat} {c : Bool} {p : Place} {n : Nat} (hp : p.stash = false) (ha : p.attr = aRc)
    (hu : s.m.ucopies = []) : (loadAt s core c p n).1.m.cells = s.m.cells := by
  unfold loadAt
  simp only [hp, ha, aRc, aIp, aSc, aWos]
  simp only [BitVec.reduceEq, Bool.false_eq_true, ↓reduceIte, Bool.false_and, decide_false]
  split
  · rfl
  · split
    · exact (copyFill_cells _ _ _).trans (shareLine_cells hu)
    · exact shareLine_cells hu

theorem readCheck_rc {m : Mem} {p : Place} (ha : p.attr = aRc) : readCheck m p = homeCheck m p := by
  unfold readCheck
  split
  · rename_i h; exact h.symm
  · rename_i h; simp [h, ha, aRc, aWos]

/-- A warp with no access in flight reads an RC page of device memory that nothing holds (R231). -/
theorem readVa_rc {s t : State} {va n : Nat} {p : Place} (hs : s.w.stores = []) (hl : s.w.loads = []) (hr : s.w.remotes = [])
    (hv : resolveVa s .load va = .ok t p) (ha : p.attr = aRc) (hd : offDevice p.pa = false)
    (hc : homeCheck t.m p = none) (hh : homeStalls t.m p = false) :
    readVa s va n = .ok ((loadAt t t.w.core.toNat true p n).1, (loadAt t t.w.core.toNat true p n).2) := by
  have ready : loadReady s = .ok () := by simp [loadReady, memReady, hs, hl, hr]
  have q : queueCovers t.w p n = false := by simp [queueCovers, forwardByte, resolveVa_w hv, hs]
  have m : throughMap t .load p = .ok t p := if_pos (by simp [ha, aRc, aIp])
  have u : unpublished t p = false := by simp [unpublished, ha, aRc, aWos]
  have a : awaitLine t t.w.core.toNat p false = .ok () := if_pos (by simp [lineHeld, hostLineAt, hd])
  simp only [readVa, ready, hv, m, readCheck_rc ha, hc, hh, q, u, a, Bool.false_eq_true, ↓reduceIte]

/-! ### Walk caches that name an odd table -/

/-- Memories whose walk caches lead to a table at address 1, where one valid leaf stands, with R set and AC clear. -/
def oddTable : Mem :=
  { Mem.reset with
    cells := [(12, 0x10#8), (13, 0x01#8)]
    walks := [⟨0#16, 0, 0, 0⟩, ⟨0#16, 1, 0, 0⟩, ⟨0#16, 2, 0, 0⟩, ⟨0#16, 3, 0, 1⟩] }

/-- That leaf, and its entry with AC set (R56). -/
def oddLeaf : Leaf := { entry := 0x1100000000000000000000000#128, log := 16, pte := 1 }
def oddEntryUsed : BitVec 128 := 0x1500000000000000000000000#128

/-- The place of VA 0 under the leaf. -/
def oddPlace : Place := leafPlace { oddLeaf with entry := oddEntryUsed } 0

/-- The first page of HBM has no reserved byte (R51). -/
theorem coversReserved_first : coversReserved 0 65536 = false := by
  have h := reservedFrom_ge
  simp only [coversReserved, Bool.and_eq_false_iff, decide_eq_false_iff_not]
  exact .inr (by omega)

theorem pteMalformed_oddLeaf : pteMalformed [] oddLeaf.entry 4 1 = false := by
  have h : pteFrame oddLeaf.entry = 0 := by decide
  simp only [pteMalformed, h, levelShift]
  rw [show (2 : Nat) ^ 16 = 65536 from rfl, coversReserved_first]
  decide

theorem walkFind_oddTable : walkFind oddTable 0#16 0 0 = some 0 ∧ walkFind oddTable 0#16 0 1 = some 0 ∧ walkFind oddTable 0#16 0 2 = some 0 ∧
    walkFind oddTable 0#16 0 3 = some 1 ∧ walkFind oddTable 0#16 0 4 = none := by decide

theorem pteRead_oddTable : pteRead oddTable 1 = oddLeaf.entry := by decide

theorem walk_oddTable : walk oddTable 0#16 0 [0, 1, 2, 3, 4] 0 = .leaf oddLeaf := by
  obtain ⟨h0, h1, h2, h3, h4⟩ := walkFind_oddTable
  rw [walk_cached h0, walk_cached h1, walk_cached h2, walk_cached h3, walk, h4]
  simp only [show pteAt 1 0 4 = 1 by decide, pteRead_oddTable, show oddTable.splinters = [] from rfl, pteMalformed_oddLeaf]
  decide

section
variable {s : State} (hm : s.m = oddTable) (hx : s.x = Ctx.empty)
include hm hx

theorem resolveVa_oddTable :
    ∃ u, resolveVa s .load 0 = .ok { s with m := u } oddPlace ∧ Touched oddTable u 1 oddEntryUsed := by
  obtain ⟨u, fill, put⟩ := walkFill_touches (dirty := false) walk_oddTable (e := oddEntryUsed) (by decide) (by decide) rfl rfl rfl
  have r : ctxRoot Ctx.empty = 0 := by simp [ctxRoot, bitsNat, Ctx.empty]
  have x : xlate s.m s.x.num (ctxRoot s.x) 0 Access.load.writes = (u, .leaf { oddLeaf with entry := oddEntryUsed }) := by
    rw [hm, hx, r, xlate, show tlbFind oddTable Ctx.empty.num 0 = none from rfl]
    exact fill
  have c : leafCheck s .load oddEntryUsed (leafPa { oddLeaf with entry := oddEntryUsed } 0) = none := by
    simp only [leafCheck, hm, show permDetail .load oddEntryUsed = none by decide,
      show offDevice (leafPa { oddLeaf with entry := oddEntryUsed } 0) = false by decide, Bool.false_eq_true, ↓reduceIte]
    decide
  refine ⟨u, ?_, put⟩
  simp only [resolveVa, resolveVaOf, x, c, oddPlace]

/-- A warp with no access in flight reads VA 0, and AC then stands in the leaf. -/
theorem readVa_oddTable (hs : s.w.stores = []) (hl : s.w.loads = []) (hr : s.w.remotes = []) :
    ∃ t bs, readVa s 0 4 = .ok (t, bs) ∧ t.w = s.w ∧ t.hub = s.hub ∧ t.byteAt 12 = 0x50#8 := by
  obtain ⟨u, hv, put⟩ := resolveVa_oddTable hm hx
  have hc : homeCheck u oddPlace = none := by
    simp only [homeCheck, frameRec, put.frames]
    decide
  have hh : homeStalls u oddPlace = false := by
    simp only [homeStalls, frameRec, put.frames, put.bad]
    decide
  have read := readVa_rc (n := 4) hs hl hr hv (by decide) (by decide) hc hh
  have cells := loadAt_rc_cells (s := { s with m := u }) (core := s.w.core.toNat) (c := true) (p := oddPlace) (n := 4) rfl (by decide) put.ucopies
  refine ⟨_, _, read, loadAt_w _ _ _ _ _, loadAt_hub _ _ _ _ _, ?_⟩
  rw [State.byteAt, cells, put.cells]
  decide

end

/-- The first constant of a bank at VA 0 is read through the odd table, and the byte at 12 changes, the byte of no aligned entry. -/
theorem readS_oddTable {s : State} (hm : s.m = oddTable) (hx : s.x = Ctx.empty) (hb : s.b.cbank = 0#80) (hmode : s.w.mode = 0#32)
    (hs : s.w.stores = []) (hl : s.w.loads = []) (hr : s.w.remotes = []) :
    ∃ t x, readS s 248#8 = .ok (t, x) ∧ t.hub = s.hub ∧ t.byteAt 12 = 0x50#8 := by
  obtain ⟨t, bs, read, -, hub, byte⟩ := readVa_oddTable hm hx hs hl hr
  have va : constVa s 0 = 0 := by simp [constVa, hb, modeCb, hmode, bitsNat]
  refine ⟨t, ⟨extendWord t.w (BitVec.ofNat 32 (natOfBytes bs)), false⟩, ?_, hub, byte⟩
  simp only [readS, BitVec.toNat_ofNat, Nat.reducePow, Nat.reduceMod, Nat.reduceLT, ↓reduceIte, Nat.sub_self, va, read]

/-- A state that changes the byte at 12 of these memories, whose TLB is empty, keeps not the bytes that the frames speak of. -/
theorem not_sameBytes_oddTable {s t : State} (hm : s.m = oddTable) (byte : t.byteAt 12 = 0x50#8) : ¬ SameBytes s t := by
  intro h
  obtain ⟨-, aligned⟩ := h (by rw [hm]; decide) 12 (by rw [hm]; rintro ⟨u, hu, -⟩; cases hu)
  obtain ⟨-, same⟩ := aligned (by rw [hm]; rfl) (by rw [hm]; decide)
  have kept : t.byteAt 12 = s.byteAt 12 := same (by decide) (by rw [hm]; intro e he; cases he)
  rw [byte, State.byteAt, hm] at kept
  exact absurd kept (by decide)

/-- What the front end asks of a form, one check at a time (R239, R188, R66). -/
theorem Passes.of {s : State} {rap : RapUse} {l : List Opd} (hf : Form.refused { rap := rap, opds := l } s.w = none)
    (hb : l.findSome? (Opd.bad s.w) = none) (hp : l.any (Opd.pending s) = false) (ha : s.w.away = 0#29) (hg : consumeGuard s.w = .ok ()) :
    Passes s rap l := by
  simp only [Passes, Form.check, hf, hb, hp, registersHere, ha, hg, decide_true, Bool.true_or, Bool.false_eq_true, ↓reduceIte]

/-- A run-ahead processor, and a warp with no lane active and handle h0 bound, over these memories. -/
def oddScalar : State := { State.reset with m := oddTable, w := { Warp.empty with rap := true } }
def oddStore : State :=
  { State.reset with
    m := oddTable, w := { Warp.empty with exec := 0#64, claimed := 1#29, h := Warp.empty.h.set 0 { Handle.unbound with bound := true } } }

theorem oddScalar_passes : Passes oddScalar .yes [.sdst 0#8, .ssrc 248#8, .ssrc 0#8] := .of rfl (by decide) rfl rfl rfl

theorem oddScalar_active : active oddScalar.w ≠ 0#64 := by simp [active, show oddScalar.w.rap = true from rfl]

theorem oddStore_active : active oddStore.w = 0#64 := by
  simp [active, show oddStore.w.rap = false from rfl, show oddStore.w.exec = 0#64 from rfl]

theorem oddStore_passes : Passes oddStore .no [vdst 0#8 (wideEt oddStore), .ssrc 248#8] :=
  .of rfl (by decide) rfl rfl (by simp only [consumeGuard, show oddStore.w.rap = false from rfl, show oddStore.w.exec = 0#64 from rfl]; rfl)

theorem oddStore_handle : handleFault (handleAt oddStore.w 0#4) true true = none := by
  have h : handleAt oddStore.w 0#4 = { Handle.unbound with bound := true } := rfl
  rw [h]
  simp [handleFault, hSpace, hAttar, bitsNat, Handle.unbound]

/-- Refutes O54: sadd reads a constant through walk caches that name a table at an odd address, and AC stands where no aligned entry has it. The
statement asks nothing of the walk caches, where every table that a walk finds is aligned. -/
theorem not_arithmeticFrame : ¬ Obligations.ArithmeticFrame := by
  rintro ⟨scalar, -⟩
  obtain ⟨t, x, read, hub, byte⟩ := readS_oddTable (s := oddScalar) rfl rfl rfl rfl rfl rfl rfl
  obtain ⟨sadd, -⟩ := Laws.scalarResult
  have run := (sadd oddScalar 0#8 248#8 0#8 oddScalar_passes).2 _ _ _ _ oddScalar_active read (readS_reg (by decide))
  obtain ⟨-, -, -, bytes⟩ := scalar .sadd List.mem_cons_self _ _ _ _ _ run (congrArg Hub.jtail hub)
  exact not_sameBytes_oddTable rfl byte bytes

/-- Refutes O19: stv with no lane active reads its index, a constant, through walk caches that name a table at an odd address, and AC stands
where no aligned entry has it. -/
theorem not_storeTouchesNoMemory : ¬ Obligations.StoreTouchesNoMemory := by
  intro h
  obtain ⟨t, x, read, hub, byte⟩ := readS_oddTable (s := oddStore) rfl rfl rfl rfl rfl rfl rfl
  have run : exec (.stv 0#8 248#8 0#4 0#2 0#1 0#3) oddStore = _ := stv_idle oddStore_passes read oddStore_handle oddStore_active
  obtain ⟨-, -, bytes⟩ := h _ _ _ _ _ _ _ _ _ (.inl rfl) run (congrArg Hub.jtail hub)
  exact not_sameBytes_oddTable rfl byte bytes

end Sys2Proof.Machine

/-! The state after reset (R57, R168, R189, R207, R405, R460). -/

namespace Sys2Proof.Machine

/-- FAB_ID after reset shows what the strap does not fix: a standby without identity or role (R405). -/
theorem fabId_reset : (fabId Fabric.reset).extractLsb' 10 54 = 0x200FFC0#54 := by
  have h := Config.vertex.isLt
  apply BitVec.eq_of_toNat_eq
  simp [fabId, Fabric.reset, atBit, Nat.shiftRight_eq_div_pow]
  omega

/-- No flag is set after reset (R192). -/
theorem flagBits_reset : flagBits Warp.empty = 0#12 := by
  have h : flagSet Warp.empty = fun _ => false := by
    funext i
    simp [flagSet, Warp.empty]
  unfold flagBits
  rw [h]
  decide

/-- The registers that read zero after reset (R57, R207, R405, R460). -/
theorem zeroRegisters_reset :
    ([0x1000#16, 0x1008#16, 0x1010#16, 0x1018#16, 0x2000#16, 0x2008#16, 0x2010#16, 0x2018#16, 0x2020#16, 0x4018#16, 0xD008#16].all
      fun o => readRegister State.reset o = 0#64) = true := by decide

theorem ports_reset (n : Fin 36) : State.reset.fab.ports[n] = Port.reset := Vector.getElem_replicate n.isLt

/-- Settles O55: the registers of each table, the launch values and the empty memory, each as the state after reset gives it. -/
theorem resetState : Obligations.ResetState := by
  refine ⟨zeroRegisters_reset, rfl, rfl, rfl, rfl, ?ckptStat, fabId_reset, ?fabDom, rfl, ports_reset, ?portStat, rfl, rfl, rfl, rfl, rfl, rfl, rfl,
    rfl, rfl, rfl, rfl, rfl, rfl, rfl, rfl, flagBits_reset, rfl, rfl, Mem.reset_wf⟩
  all_goals decide

end Sys2Proof.Machine

/-! Accumulator stores, guidance and code tables (R349, R351, R359). -/

namespace Sys2Proof.Machine

section
variable {s t : State} {c : BitVec 2} {h : BitVec 4}

/-- An accumulator form that the front end passes, with no earlier work of the warp in flight, completes where its effect goes through (R337). -/
theorem exec_accOk {i : Instr} {l : List Opd} {k : State → Run State} (form : exec i s = accIssue l s k h) (p : Passes s .no l h)
    (q : l.filterMap Opd.queue = []) (hm : s.w.mat = none) (e : k s = .ok t) : exec i s = .next t := by
  refine form.trans (issue_ok p q ?_)
  simpa only [hm, Option.isSome_none, Bool.false_eq_true, ↓reduceIte] using e

/-! ### ACCST (R349, R350) -/

/-- Rows of which none is poisoned stop no store (R66). -/
theorem storedPoison_clean {rows : List (Fin 64)} {f : Fin 64 → Bool × Byte} (h : ∀ r ∈ rows, (f r).1 = false) : storedPoison rows f = none := by
  have none : rows.filter (fun r => (f r).1) = [] := List.filter_eq_nil_iff.mpr fun r hr => by simp [h r hr]
  simp only [storedPoison, none, List.head?_nil, Option.map_none]

section
variable {i : BitVec 6} {k : AccCase} {f64 : Bool} {co : List Nat} (hp : Passes s .no [.sregs (i.setWidth 8) 2] h) (hm : s.w.mat = none)
  (hk : accChecks s c.toFin h i true = .ok (k, f64, co)) (hv : coordValid (handleAt s.w h).entry co = true)
include hp hm hk hv

theorem accst_idle (ha : active s.w = 0#64) : exec (.accst c h i) s = .next (advance s) := by
  refine exec_accOk (show execAccst c h i s = _ from rfl) hp rfl hm ?_
  have clean {f : Fin 64 → Bool × Byte} : storedPoison [] f = none := storedPoison_clean (by simp)
  simp only [hk, if_pos ha, clean, hv, Bool.not_true, Bool.false_eq_true, ↓reduceIte]

/-- A store writes every row of an Attar tile, which is encoded at issue (log entry 41), and the active rows of any other (R349). -/
theorem accst_next {ws : List LaneStore} (ha : active s.w ≠ 0#64)
    (clean : ∀ r : Fin 64, (k = .attar ∨ (active s.w).getLsbD r = true) →
      (if k = .state then (s.w.rowState[r]).poison else ((s.w.acc[c.toFin]).rows[r]).poison) = false) (hr : memReady s = .ok ())
    (hs : (if k = .attar then storeAttar h (handleAt s.w h) co (accQuant s.w.acc[c.toFin] (handleAt s.w h).entry co).1
        (accQuant s.w.acc[c.toFin] (handleAt s.w h).entry co).2 s
      else storeDense h (handleAt s.w h) (accWrites s.w k s.w.acc[c.toFin] (handleAt s.w h).entry co) s) = .ok (t, ws))
    (hq : QueueRoom t ws) : exec (.accst c h i) s = .next (queued t .store ws h none) := by
  refine exec_accOk (show execAccst c h i s = _ from rfl) hp rfl hm ?_
  have unpoisoned : storedPoison (if k = .attar then List.finRange 64 else laneList (active s.w)) (fun r =>
      if k = .state then (s.w.rowState[r].poison, s.w.rowState[r].code)
      else ((s.w.acc[c.toFin]).rows[r].poison, (s.w.acc[c.toFin]).rows[r].code)) = none := by
    refine storedPoison_clean fun r hr => ?_
    have written : k = .attar ∨ (active s.w).getLsbD r = true := by
      by_cases hk : k = .attar
      · exact .inl hk
      · rw [if_neg hk, mem_laneList] at hr
        exact .inr hr
    rw [apply_ite Prod.fst]
    exact clean r written
  simp only [hk, if_neg ha, unpoisoned, hv, hr, hs, Bool.not_true, Bool.false_eq_true, ↓reduceIte, pushStore_next hq]

end

/-! ### ACCG (R351, R197) -/

section
variable {q q2 : MatReq} {p : Warp}

/-- A warp that is not parked at an ACCG does not wait at one. -/
theorem atAccg_none {w : Warp} (h : w.status ≠ .parked .accg) : atAccg w = none := if_neg h

/-- A twin whose running partner has not reached its ACCG waits (R197). -/
theorem accgDecide_waits (hp : partnerOf s = some p) (hd : p.status ≠ .done) (h2 : atAccg p = none) : accgDecide s q = { s with turn := 0 } := by
  simp only [accgDecide, hp, if_neg hd, h2]

/-- Twins that both wait at an ACCG go on as a pair (R351). -/
theorem accgDecide_pair (hp : partnerOf s = some p) (hd : p.status ≠ .done) (h2 : atAccg p = some q2) : accgDecide s q = accgPair s q p q2 := by
  simp only [accgDecide, hp, if_neg hd, h2]

/-- A pair under one tag moves on, the tile of the conditional twin replaced (R351). -/
theorem accgPair_sameTag (h : (s.w.acc[q.acc]).f64 = (p.acc[q2.acc]).f64) : accgPair s q p q2 =
    if s.w.twin then focusOn (accgDone (focusOn (accgApply s q (accgTile p.acc[q2.acc] s.w.acc[q.acc] q)) p.wid) q2) s.w.wid
    else focusOn (accgApply (focusOn (accgDone s q) p.wid) q2 (accgTile s.w.acc[q.acc] p.acc[q2.acc] q2)) s.w.wid :=
  if_neg (not_not.mpr h)

section
variable {g : BitVec 6} (hp : Passes s .no [.ssrc (g.setWidth 8)]) (hm : s.w.mat = none)
include hp hm

/-- An ACCG that is tried again decides with the request that it keeps. -/
theorem accg_again (hq : atAccg s.w = some q) : exec (.accg c g) s = .next (accgDecide s q) := by
  refine exec_accOk (show execAccg c g s = _ from rfl) hp rfl hm ?_
  simp only [hq]

/-- An ACCG that issues in an accord block waits with its request tracked, and decides. -/
theorem accg_issues {x : DWord} (hb : s.b.accord = true) (hs : s.w.status ≠ .parked .accg) (hx : s.w.s[Fin.ofNat 64 g.toNat] = ⟨x, false⟩)
    (ht : t = { s with w := flagInc { waiting s.w .accg with matReq := some (accgRequest s.w c.toFin x) } (stFlag s.w) }) :
    exec (.accg c g) s = .next (accgDecide t (accgRequest s.w c.toFin x)) := by
  subst ht
  refine exec_accOk (show execAccg c g s = _ from rfl) hp rfl hm ?_
  have operand : sReg s.w (Fin.ofNat 64 g.toNat) = ⟨x, false⟩ := hx
  have accepted : consumeS (⟨x, false⟩ : Scalar) = .ok () := consumeS_clean rfl
  have tracked : (accgRequest s.w c.toFin x).flag = stFlag s.w := rfl
  simp only [atAccg_none hs, hb, operand, accepted, tracked, Bool.not_true, Bool.false_eq_true, ↓reduceIte]

end

/-- A twin finds its partner by its block and its place in it (R197). -/
theorem partnerOf_congr (hw : t.warps = s.warps) (hb : t.w.bid = s.w.bid) (hx : t.w.widx = s.w.widx) : partnerOf t = partnerOf s := by
  simp only [partnerOf, hw, hb, hx]

/-- An active row of a guided tile holds the guided elements, under F64 in its first 32 columns (R351). -/
theorem accgTile_elem {u a : Acc} {r k : Fin 64} (hr : q.active.getLsbD r = true) (hk : a.f64 = true → k.val < 32) :
    ((accgTile u a q).rows[r]).elems[k] = guided (tagElem a.f64)
      ((tagElem a.f64).value ((u.rows[r]).elems[k].toNat % 2 ^ (tagElem a.f64).width))
      ((tagElem a.f64).value ((a.rows[r]).elems[k].toNat % 2 ^ (tagElem a.f64).width))
      ((tagElem a.f64).value (q.diag.toNat % 2 ^ (tagElem a.f64).width)) := by
  have inside : ¬ (a.f64 && decide (32 ≤ k.val)) = true := by simpa using hk
  simp only [accgTile, accRows, lanesOf, vecOf_getElem, hr, if_neg inside, ↓reduceIte]

end

/-! ### Code tables (R359, R75) -/

section
variable {a : Byte} {k : BitVec 6} {va : Nat} (hp : Passes s .no [.sregs a 2]) (hi : imageVa s a = .ok va)
include hp hi

theorem ctload_idle (ha : active s.w = 0#64) : exec (.ctload a k) s = .next (advance s) := by
  refine exec_ok (show execCtload a k s = _ from rfl) hp rfl ?_
  simp only [hi, warpOnce_skips ha]

theorem ctsave_idle (ha : active s.w = 0#64) : exec (.ctsave a k) s = .next (advance s) := by
  refine exec_ok (show execCtsave a k s = _ from rfl) hp rfl ?_
  simp only [hi, warpOnce_skips ha]

/-- A valid image that is read enters its slot. -/
theorem ctload_next {bs : List Byte} (ha : active s.w ≠ 0#64) (hl : loadReady s = .ok ())
    (hb : readBytesVa { warpReader s 0#4 Handle.unbound with hreg := none } va 256 s = .ok (t, bs))
    (hv : imageValid (BitVec.ofNat 2048 (natOfBytes bs)) = true) :
    exec (.ctload a k) s = .next (advance (setSlot t k (some (BitVec.ofNat 2048 (natOfBytes bs))))) := by
  refine exec_ok (show execCtload a k s = _ from rfl) hp rfl ?_
  simp only [hi, warpOnce_runs ha, hl, hb, hv, Bool.not_true, Bool.false_eq_true, ↓reduceIte]

/-- The image of a slot that is saved joins the store queue. -/
theorem ctsave_next {ls : List LaneStore} (ha : active s.w ≠ 0#64) (hm : memReady s = .ok ())
    (hs : storeVa 0#4 va (bytesOfNat 256 ((s.x.tables[k.toNat]).getD 0#2048).toNat) s = .ok (t, ls)) (hq : QueueRoom t ls) :
    exec (.ctsave a k) s = .next (queued t .store ls 0#4 none) := by
  refine exec_ok (show execCtsave a k s = _ from rfl) hp rfl ?_
  simp only [hi, warpOnce_runs ha, hm, hs, pushStore_next hq]

end

theorem ctinv_next {k : BitVec 6} (hp : Passes s .no []) :
    exec (.ctinv k) s = .next (if active s.w = 0#64 then advance s else advance (setSlot s k none)) :=
  exec_ok (show execCtinv k s = _ from rfl) hp rfl warpOnce_ok

end

/-- Settles O33: a store by its rows, a guidance by what its partner does, and each code-table instruction by its slot. -/
theorem accumulatorStoreResult : Obligations.AccumulatorStoreResult := by
  refine ⟨fun s c h i k f64 co hp hm hk hv => ⟨accst_idle hp hm hk hv, fun t ws => accst_next hp hm hk hv⟩, ?issue, ?again,
    fun s q q2 p => accgPair_sameTag, ?guided,
    fun s a k va hp hi => ⟨fun ha => ⟨ctload_idle hp hi ha, ctsave_idle hp hi ha⟩, fun t bs => ctload_next hp hi, fun t ls => ctsave_next hp hi⟩,
    fun s k => ctinv_next⟩
  case issue =>
    intro s t c g x p hp hm hb hs hx partner running ht
    rw [accg_issues hp hm hb hs hx ht]
    have found : partnerOf t = some p := by
      rw [partnerOf_congr (s := s) (by rw [ht]) (by simp [ht]) (by simp [ht]), partner]
    exact ⟨fun h2 => congrArg _ (accgDecide_waits found running h2), fun q2 h2 => congrArg _ (accgDecide_pair found running h2)⟩
  case again =>
    intro s c g q q2 p hp hm hq partner running h2
    rw [accg_again hp hm hq, accgDecide_pair partner running h2]
  case guided =>
    rintro u c q r k _ _ rfl rfl hr hk
    rw [accgTile_elem hr hk, guided]

end Sys2Proof.Machine

/-! Engine functions as they issue (R360 to R364). -/

namespace Sys2Proof.Machine

/-- The fields of an engine function name no queue. -/
theorem copFields_queues (f : BitVec 7) (reply : Bool) (d a b : BitVec 6) : (copFields f reply d a b).filterMap Opd.queue = [] := by
  unfold copFields
  cases reply <;> cases usesB f <;> rfl

section
variable {s t : State} {f : BitVec 7} {reply : Bool} {d a b : BitVec 6} {x y z : DWord} (hp : Passes s .no (copFields f reply d a b))
  (ho : copOperands f reply d a b s.w = .ok (x, y, z)) (hr : copRefs s.w (refWords f x y z) = .ok ())
include hp ho hr

/-- An engine function with no lane active only moves on. -/
theorem copForm_idle (ha : active s.w = 0#64) : copForm f reply d a b s = .next (advance s) := by
  refine issue_ok hp (copFields_queues f reply d a b) ?_
  simp only [ho, hr, if_pos ha]

/-- An engine function with a lane active and room in the scoreboard puts its command last, and what may start does. -/
theorem copForm_next {c : Cmd} (ha : active s.w ≠ 0#64) (hb : boardFull s s.w.core = false) (ht : t = (takeIssue s).1)
    (hc : c = newCmd t s.hub.nextCmd f reply d x y z) :
    copForm f reply d a b s = .next (startCmds (advance { t with cmds := s.cmds ++ [c], w := flagInc s.w c.flag })) := by
  subst ht hc
  refine issue_ok hp (copFields_queues f reply d a b) ?_
  simp only [ho, hr, if_neg ha, hb, Bool.false_eq_true, ↓reduceIte, takeIssue]

end

/-- An instruction of the engine form issues the command of its function. -/
theorem issuesCommand_of {f : BitVec 7} {reply : BitVec 1 → Bool} {form : BitVec 1 → BitVec 6 → BitVec 6 → BitVec 6 → Instr}
    (e : ∀ r d a b s, exec (form r d a b) s = copForm f (reply r) d a b s) : IssuesCommand f reply form := by
  intro s r d a b x y z hp ho hr
  rw [e]
  exact ⟨copForm_idle hp ho hr, fun ha hb t c ht hc => copForm_next hp ho hr ha hb ht hc⟩

/-- Settles O34: each function is the engine form of its number. -/
theorem engineIssueResult : Obligations.EngineIssueResult := by
  refine ⟨?_, ?_, ?_, ?_, ?_, ?_, ?_, ?_, ?_, ?_, ?_, ?_, ?_, ?_, ?_, ?_, ?_⟩ <;> exact issuesCommand_of fun _ _ _ _ _ => rfl

end Sys2Proof.Machine

/-! Waits that end (R92, R270, R391, R392). -/

namespace Sys2Proof.Machine

/-! ### What writes of hub units leave alone -/

/-- The state with the memories and the hub set aside, all that an access of a hub unit changes. -/
def State.offHub (s : State) : State := { s with m := Mem.reset, hub := Hub.reset }

theorem resolveVaOf_offHub {s t : State} {x : Ctx} {a : Access} {va : Nat} {p : Place} (h : resolveVaOf s x a va = .ok t p) :
    t.offHub = s.offHub := by
  unfold resolveVaOf at h
  split at h
  · cases h
  · cases h
  · split at h <;> cases h; rfl

theorem hubPlace_offHub {s t : State} {x : Ctx} {a : Access} {va : Nat} {p : Place} (h : hubPlace s x a va = .ok (t, p)) :
    t.offHub = s.offHub := by
  unfold hubPlace at h
  split at h
  · cases h
  · cases h
  next e =>
  split at h
  · cases h
  split at h <;> cases h
  exact resolveVaOf_offHub e

theorem hubPut_offHub {s t : State} {x : Ctx} {va : Nat} {data : List Byte} (h : hubPut s x va data = .ok t) : t.offHub = s.offHub := by
  unfold hubPut at h
  split at h
  · cases h
  next e =>
  split at h <;> cases h
  have placed {u : State} {p : Place} : (placePut u p data).offHub = u.offHub := rfl
  exact placed.trans (hubPlace_offHub e)

theorem hubPost_offHub (s : State) (x : Ctx) (va : Nat) (data : List Byte) : (hubPost s x va data).offHub = s.offHub := by
  unfold hubPost
  split
  · rfl
  split
  · next e => exact hubPut_offHub e
  · rfl
  · rfl

/-! ### Slots taken from the EVICTABLE ones (R91, R92) -/

/-- Two states agree on the cores, and on the warp in focus but for the place of its register blocks. -/
def SameClaims (s t : State) : Prop := t.cores = s.cores ∧ t.w.wid = s.w.wid ∧ t.w.claimed = s.w.claimed

theorem SameClaims.trans {s t u : State} (h : SameClaims s t) (k : SameClaims t u) : SameClaims s u :=
  ⟨k.1.trans h.1, k.2.1.trans h.2.1, k.2.2.trans h.2.2⟩

theorem SameClaims.of_offHub {s t : State} (h : t.offHub = s.offHub) : SameClaims s t := by
  have hw : t.w = s.w := (congrArg State.w h :)
  exact ⟨(congrArg State.cores h :), by rw [hw], by rw [hw]⟩

/-- A block written to its backing is only marked as standing there (R91). -/
theorem spillBlock_sameClaims (s : State) (q : Nat × Nat) : SameClaims s (spillBlock s q) := by
  unfold spillBlock
  split
  · exact ⟨rfl, rfl, rfl⟩
  next w _ =>
  refine (SameClaims.of_offHub ((hubPost_offHub _ _ _ _).trans (hubPost_offHub s _ _ _))).trans ⟨rfl, ?_, ?_⟩ <;>
    · rw [onWarp, mapWarps_w]; split <;> rfl

/-- Blocks written to their backings before their slots go (R92). -/
theorem spillBlocks_sameClaims (s : State) (core : Nat) (l : List (BitVec 16 × Nat)) :
    SameClaims s (l.foldl (fun s t => ((slotBlocks s core t.1).take t.2).foldl spillBlock s) s) :=
  foldl_keeps (P := SameClaims s) (fun _ _ ht => foldl_keeps (P := SameClaims s) (fun u q hu => hu.trans (spillBlock_sameClaims u q)) _ ht) l ⟨rfl, rfl, rfl⟩

/-- No slot taken takes none of any context. -/
theorem takenFrom_zero : ∀ l : List (BitVec 16 × Nat), ∀ t ∈ takenFrom 0 l, t.2 = 0
  | [], t, h => by cases h
  | (c, n) :: l, t, h => by
    rw [takenFrom, Nat.zero_min, Nat.zero_sub] at h
    rcases List.mem_cons.mp h with rfl | h
    · rfl
    · exact takenFrom_zero l t h

section
variable {s : State} {core k : Nat}

theorem onCore_w {f : CoreState → CoreState} : (onCore s core f).w = s.w := rfl

/-- With FREE slots for all, no block is written anywhere (R92). -/
theorem takeOn_free (h : k ≤ (coreAt s core).free) : takeOn s core k = onCore s core fun c => takeSlots c k := by
  have unspilled : (takenFrom (k - (coreAt s core).free) (coreAt s core).evictable).foldl
      (fun s t => ((slotBlocks s core t.1).take t.2).foldl spillBlock s) s = s := by
    rw [Nat.sub_eq_zero_of_le h]
    refine List.foldlRecOn (motive := (· = s)) _ _ rfl ?_
    rintro _ rfl t ht
    rw [takenFrom_zero _ t ht, List.take_zero, List.foldl_nil]
  rw [takeOn, unspilled]

theorem takeOn_w : (takeOn s core k).w.wid = s.w.wid ∧ (takeOn s core k).w.claimed = s.w.claimed :=
  (spillBlocks_sameClaims s core _).2

theorem coreAt_onCore {f : CoreState → CoreState} (h : core < 160) : coreAt (onCore s core f) core = f (coreAt s core) := by
  rw [coreAt, coreAt, dif_pos h, dif_pos h]
  exact (vecOf_getElem _ ⟨core, h⟩).trans (if_pos rfl)

theorem coreAt_onCore_other {f : CoreState → CoreState} {n : Nat} (h : n ≠ core) : coreAt (onCore s core f) n = coreAt s n := by
  unfold coreAt
  split
  · next hn => exact (vecOf_getElem _ ⟨n, hn⟩).trans (if_neg h)
  · rfl

theorem coreAt_congr {t : State} (h : t.cores = s.cores) (n : Nat) : coreAt t n = coreAt s n := by simp only [coreAt, h]

theorem coreAt_takeOn (h : core < 160) : coreAt (takeOn s core k) core = takeSlots (coreAt s core) k := by
  rw [takeOn, coreAt_onCore h, coreAt_congr (spillBlocks_sameClaims s core _).1]

theorem coreAt_takeOn_other {n : Nat} (h : n ≠ core) : coreAt (takeOn s core k) n = coreAt s n := by
  rw [takeOn, coreAt_onCore_other h, coreAt_congr (spillBlocks_sameClaims s core _).1]

end

/-! ### The events -/

theorem onWarp_w {s : State} {f : Warp → Warp} {wid : Nat} (h : s.w.wid = wid) : (onWarp s wid f).w = f s.w := if_pos h

/-- Where no other warp has the name of the one in focus, only that one changes. -/
theorem onWarp_focus {s : State} (f : Warp → Warp) (h : ∀ v ∈ s.warps, v.wid ≠ s.w.wid) : onWarp s s.w.wid f = { s with w := f s.w } := by
  have others : s.warps.map (fun w => if w.wid = s.w.wid then f w else w) = s.warps :=
    (List.map_congr_left fun v hv => if_neg (h v hv)).trans (List.map_id s.warps)
  simp only [onWarp, mapWarps, others, ↓reduceIte]

theorem sleepEnd_next {s : State} (hs : s.w.status = .parked .sleep) (ht : s.w.since ≤ s.w.cyc.toNat) (h : ∀ v ∈ s.warps, v.wid ≠ s.w.wid) :
    exec (.sleepEnd s.w.wid) s = .next { s with w := { s.w with status := .running } } := by
  refine congrArg Host.Outcome.next ((onWarp_focus _ h).trans ?_)
  simp [hs, ht]

/-- A grant adds the blocks of the claim to those held (R92). -/
theorem claimBlocks_claimed (w : Warp) (q : BitVec 29) : (claimBlocks w q).claimed = w.claimed ||| q := by
  ext i hi
  simp only [claimBlocks, BitVec.getElem_or, BitVec.getElem_and, BitVec.getElem_not]
  cases w.claimed[i] <;> simp

/-- The warp of a claim that is granted (R92). -/
def granted (q : Claim) (w : Warp) : Warp := { claimBlocks w q.blocks with woken := true }

theorem granted_claimed (q : Claim) (w : Warp) : (granted q w).claimed = w.claimed ||| q.blocks := claimBlocks_claimed w q.blocks
theorem granted_woken (q : Claim) (w : Warp) : (granted q w).woken = true := rfl

/-- The oldest claim of a core granted, the others waiting on (R92). -/
def grantClaim (s : State) (core : Nat) (q : Claim) (rest : List Claim) : State :=
  onWarp (onCore (takeOn s core (popNat 29 q.blocks.toNat)) core fun c => { c with claims := rest }) q.wid (granted q)

section
variable {s : State} {core : BitVec 8}

theorem rclmGrant_none (h : (coreAt s core.toNat).claims = []) : exec (.rclmGrant core) s = .next s := by
  show execRclmGrant core s = _
  simp only [execRclmGrant, h]

variable {q : Claim} {rest : List Claim} (h : (coreAt s core.toNat).claims = q :: rest)
include h

theorem rclmGrant_short (hk : poolFree (coreAt s core.toNat) < popNat 29 q.blocks.toNat) : exec (.rclmGrant core) s = .next s := by
  show execRclmGrant core s = _
  simp only [execRclmGrant, h, if_pos hk]

theorem rclmGrant_next (hk : popNat 29 q.blocks.toNat ≤ poolFree (coreAt s core.toNat)) :
    exec (.rclmGrant core) s = .next (grantClaim s core.toNat q rest) := by
  show execRclmGrant core s = _
  simp only [execRclmGrant, h, if_neg (Nat.not_lt.mpr hk)]
  rfl

end

section
variable {s : State} {core : Nat} {q : Claim} {rest : List Claim}

theorem coreAt_grantClaim (h : core < 160) : coreAt (grantClaim s core q rest) core =
    { takeSlots (coreAt s core) (popNat 29 q.blocks.toNat) with claims := rest } :=
  (coreAt_onCore (s := takeOn s core _) (f := fun c => { c with claims := rest }) h).trans
    (congrArg (fun c : CoreState => { c with claims := rest }) (coreAt_takeOn h))

theorem coreAt_grantClaim_other {n : Nat} (h : n ≠ core) : coreAt (grantClaim s core q rest) n = coreAt s n :=
  (coreAt_onCore_other (s := takeOn s core _) (f := fun c => { c with claims := rest }) h).trans (coreAt_takeOn_other h)

variable (hq : q.wid = s.w.wid)
include hq

theorem grantClaim_w : (grantClaim s core q rest).w = granted q (takeOn s core (popNat 29 q.blocks.toNat)).w := by
  obtain ⟨name, -⟩ := takeOn_w (s := s) (core := core) (k := popNat 29 q.blocks.toNat)
  rw [grantClaim, onWarp_w (by rw [onCore_w, name, hq]), onCore_w]

/-- FREE slots cost nothing else: the claim leaves the queue of its core, and its warp goes on. -/
theorem grantClaim_free (hv : ∀ v ∈ s.warps, v.wid ≠ s.w.wid) (hk : popNat 29 q.blocks.toNat ≤ (coreAt s core).free) :
    grantClaim s core q rest = { onCore (onCore s core fun c => takeSlots c (popNat 29 q.blocks.toNat)) core
      (fun c => { c with claims := rest }) with w := granted q s.w } := by
  rw [grantClaim, takeOn_free hk, hq]
  exact onWarp_focus (s := onCore (onCore s core _) core _) _ hv

end

/-- A block that is not deadlocked is left alone; in one that is, each parked warp traps and the clock stops (R391, R392). -/
theorem deadlockDetect_next {s : State} {bid : Nat} {b : Block} (hb : blockOf s bid = some b) :
    exec (.deadlockDetect bid) s = .next (if deadlockDue s b then onBlock
      (((blockWarps s bid).filter fun w => !w.rap).foldl (fun u w => withWarp u w.wid (unstick (stuckCode s bid) (stuckOn w))) s)
      bid fun c => { c with stuckSince := none } else s) := by
  show execDeadlockDetect bid s = _
  simp only [execDeadlockDetect, hb]
  cases deadlockDue s b <;> rfl

section
variable {s : State} {bid : Nat}

theorem stuckCode_regs (h : ∃ w ∈ blockWarps s bid, w.rap = false ∧ stuckOn w = some 0x02) : stuckCode s bid = cDeadlockRegs := by
  rw [stuckCode, if_pos (by simpa using h)]

variable (hr : ∀ w ∈ blockWarps s bid, w.rap = false → stuckOn w ≠ some 0x02)
include hr

theorem stuckCode_queue (h : ∃ w ∈ blockWarps s bid, stuckOn w = some 0x03) : stuckCode s bid = cDeadlockQueue := by
  rw [stuckCode, if_neg (by simpa using hr), if_pos (by simpa using h)]

theorem stuckCode_barrier (h : ∀ w ∈ blockWarps s bid, stuckOn w ≠ some 0x03) : stuckCode s bid = cDeadlockBarrier := by
  rw [stuckCode, if_neg (by simpa using hr), if_neg (by simpa using h)]

end

/-- Settles O39: a sleep by its warp, a grant by the slots of its core, a deadlock by the waits of its block. -/
theorem watchEventResult : Obligations.WatchEventResult := by
  refine ⟨fun s => sleepEnd_next, fun s core => ⟨rclmGrant_none, fun q rest h => ⟨rclmGrant_short h, fun hc hk hq hv => ?grant⟩⟩,
    fun s bid b hb => ⟨fun due => ?due, fun idle => ?idle⟩,
    fun s bid => ⟨stuckCode_regs, stuckCode_queue, fun h => stuckCode_barrier (fun w hw => (h w hw).1) fun w hw => (h w hw).2⟩⟩
  case grant =>
    refine ⟨_, rclmGrant_next h hk, ?_, ?_, coreAt_grantClaim hc, fun n => coreAt_grantClaim_other, fun free => ?_⟩
    · rw [grantClaim_w hq, granted_claimed, takeOn_w.2]
    · rw [grantClaim_w hq, granted_woken]
    · rw [grantClaim_free hq hv free]
      exact ⟨rfl, rfl, rfl, rfl⟩
  case due => rw [deadlockDetect_next hb, if_pos due]
  case idle => rw [deadlockDetect_next hb, if_neg (by simp [idle])]

end Sys2Proof.Machine

/-! Register claims (R89 to R92, R325). -/

namespace Sys2Proof.Machine

/-! ### Bits of an operand -/

/-- A number below a power of two has the field above it clear. -/
theorem bitsNat_high {k : Nat} {x : BitVec k} {n m : Nat} (h : x.toNat < 2 ^ n) : bitsNat x n m = 0 := by
  rw [bitsNat, BitVec.extractLsb'_toNat, Nat.shiftRight_eq_div_pow, Nat.div_eq_of_lt h, Nat.zero_mod]

/-- No bit of a word is set when the word is zero, and only then. -/
theorem popNat_eq_zero {n : Nat} {x : BitVec n} : popNat n x.toNat = 0 ↔ x = 0#n := by
  rw [popNat, List.length_eq_zero_iff, List.filter_eq_nil_iff]
  refine ⟨fun h => BitVec.eq_of_getLsbD_eq fun i hi => ?_, fun h i _ => by simp [h]⟩
  simpa [← BitVec.testBit_toNat] using h i (List.mem_range.mpr hi)

/-! ### The forms -/

section
variable {s s₁ : State} {a : Byte} {x : DWord} {want : BitVec 29} (hp : Passes s .no [.ssrc a]) (hr : readS s a = .ok (s₁, ⟨x, false⟩))
  (hx : x.toNat < 2 ^ 29)

include hr hx in
/-- A readable operand below 2^29 is a mask of register blocks (R325). -/
theorem blockMask_ok : blockMask s a = .ok (s₁, x.setWidth 29) := by
  simp only [blockMask, hr, consumeS_clean, bitsNat_high hx, ne_eq, not_true_eq_false, ↓reduceIte, BitVec.setWidth_eq_extractLsb' (show 29 ≤ 64 by decide)]

section
variable (hw : want = x.setWidth 29 &&& ~~~s.w.claimed)
include hp hr hx hw

/-- A claim that names no block but held ones only moves on. -/
theorem rclm_held (h : want = 0#29) : exec (.rclm a) s = .next (advance s₁) := by
  refine exec_ok (show execRclm a s = _ from rfl) hp rfl ?_
  simp only [blockMask_ok hr hx, readS_w hr, ← hw, popNat_eq_zero.mpr h, ↓reduceIte]

/-- A claim that the warp has queued already waits on (R92). -/
theorem rclm_again (h : want ≠ 0#29) (hq : ∃ q ∈ (coreAt s₁ s₁.w.core.toNat).claims, q.wid = s₁.w.wid) :
    exec (.rclm a) s = .next { s with w := waiting s.w (.claim want), turn := 0 } := by
  refine exec_park (i := .rclm a) (show execRclm a s = _ from rfl) hp ?_ rfl
  rw [← readS_w hr] at hw
  have queued : ((coreAt s₁ s₁.w.core.toNat).claims.any fun q => q.wid = s₁.w.wid) = true := by simpa using hq
  simp only [blockMask_ok hr hx, ← hw, if_neg (popNat_eq_zero.not.mpr h), queued, ↓reduceIte]

/-- A first claim is granted where no older one waits and the pool can serve it, and joins the queue otherwise (R92). -/
theorem rclm_first (h : want ≠ 0#29) (hq : ∀ q ∈ (coreAt s₁ s₁.w.core.toNat).claims, q.wid ≠ s₁.w.wid) :
    exec (.rclm a) s = .next (if (∀ q ∈ (coreAt s₁ s₁.w.core.toNat).claims, s₁.w.wid < q.age) ∧
        popNat 29 want.toNat ≤ poolFree (coreAt s₁ s₁.w.core.toNat) then
      advance (takeOn { s₁ with w := claimBlocks s₁.w want } s₁.w.core.toNat (popNat 29 want.toNat))
    else { onCore s₁ s₁.w.core.toNat (fun c => { c with claims := insertClaim ⟨s₁.w.wid, s₁.w.wid, want⟩ c.claims }) with
      w := waiting s₁.w (.claim want), turn := 0 }) := by
  refine exec_ok (show execRclm a s = _ from rfl) hp rfl ?_
  rw [← readS_w hr] at hw
  have first : ((coreAt s₁ s₁.w.core.toNat).claims.any fun q => q.wid = s₁.w.wid) = false := by simpa using hq
  simp only [blockMask_ok hr hx, ← hw, if_neg (popNat_eq_zero.not.mpr h), first, Bool.false_eq_true, ↓reduceIte, apply_ite Except.ok,
    Bool.and_eq_true, List.all_eq_true, decide_eq_true_eq]

end

include hp hr hx in
/-- Blocks that no pending write targets are released (R90). -/
theorem rrel_next {held : BitVec 29} (hh : held = x.setWidth 29 &&& s.w.claimed)
    (hv : ∀ r, r < 232 → held.getLsbD (r / 8) = true → vPending s.w r = false) :
    exec (.rrel a) s = .next (advance (freeSlots { s₁ with w := dropBlocks s₁.w held } s₁.w.core.toNat (popNat 29 held.toNat))) := by
  refine exec_ok (show execRrel a s = _ from rfl) hp rfl ?_
  have unpending : ((List.range 232).any fun r => held.getLsbD (r / 8) && vPending s.w r) = false := by simpa using hv
  simp only [blockMask_ok hr hx, readS_w hr, ← hh, unpending, Bool.false_eq_true, ↓reduceIte]

end

section
variable {s : State} {d : Byte} (hp : Passes s .no [.sdst d])
include hp

theorem rqry_next : exec (.rqry d) s = .next (s.putScalar d ⟨s.w.claimed.setWidth 64, false⟩) :=
  exec_ok (show execRqry d s = _ from rfl) hp rfl rfl

theorem rqpool_next : exec (.rqpool d) s = .next (s.putScalar d ⟨poolWord (coreAt s s.w.core.toNat), false⟩) :=
  exec_ok (show execRqpool d s = _ from rfl) hp rfl rfl

end

/-- Settles O27: a claim by the blocks that the warp lacks and the queue of its core, the others by their operand. -/
theorem claimResult : Obligations.ClaimResult := by
  refine ⟨fun s s₁ a x want hp hr hx hw => ⟨rclm_held hp hr hx hw, fun h hq => ?first, rclm_again hp hr hx hw⟩,
    fun s s₁ a x held hp hr hx => rrel_next hp hr hx, fun s d hp => ⟨rqry_next hp, rqpool_next hp⟩⟩
  case first =>
    rw [rclm_first hp hr hx hw h hq]
    exact ⟨fun free => congrArg _ (if_pos free), fun short => congrArg _ (if_neg short)⟩

end Sys2Proof.Machine

/-! Memory control (R97 to R99, R310 to R316). -/

namespace Sys2Proof.Machine

/-! ### What a read leaves of the block -/

/-- The block with what a read may fill or bring back set aside: its stash, its mapped lines, its lines in the image (R98, R101). -/
def Block.unfilled (b : Block) : Block := { b with stash := [], mapped := [], awayLines := [] }

theorem smapFault_unfilled (b : Block) : smapFault b.unfilled = smapFault b := rfl
theorem stashRange_unfilled (b : Block) : stashRange b.unfilled = stashRange b := rfl

theorem shareLine_b (s : State) (core pa : Nat) : (shareLine s core pa).b = s.b := by
  unfold shareLine; split <;> rfl

theorem loadAt_b (s : State) (core : Nat) (c : Bool) (p : Place) (n : Nat) : (loadAt s core c p n).1.b = s.b := by
  unfold loadAt
  simp only []
  (repeat' split) <;> simp [shareLine_b]

theorem resolveVa_b {s t : State} {a : Access} {va : Nat} {p : Place} (h : resolveVa s a va = .ok t p) : t.b = s.b :=
  (congrArg State.b (resolveVaOf_offHub h) :)

theorem fillMapped_unfilled (s : State) (line : Nat) (p : Place) : (fillMapped s line p).b.unfilled = s.b.unfilled := by
  unfold fillMapped
  split <;> simp [Block.unfilled, shareLine_b]

theorem stashReturn_unfilled {s t : State} {line : Nat} (h : stashReturn s line = some t) : t.b.unfilled = s.b.unfilled := by
  unfold stashReturn at h; simp only [] at h
  split at h
  · cases h; rfl
  · split at h
    · cases h
    · split at h
      · cases h
      · cases h; rfl
      · next e => rw [← Option.some.inj h]; simp only [Block.unfilled, resolveVa_b e]

theorem resolveStash_unfilled {s t : State} {a : Access} {off : Nat} {p : Place} (h : resolveStash s a off = .ok t p) :
    t.b.unfilled = s.b.unfilled := by
  have direct {u v : State} {a : Access} {va : Nat} {q : Place} (e : resolveVa u a va = .ok v q) : v.b.unfilled = u.b.unfilled :=
    congrArg _ (resolveVa_b e)
  unfold resolveStash at h; simp only [] at h
  split at h
  case h_1 =>
    split at h
    · next e => cases h; exact stashReturn_unfilled e
    · cases h
  case h_2 =>
    split at h
    · cases h; rfl
    split at h
    · cases h
    · cases h
    split at h
    · exact direct h
    split at h
    · next e =>
      have filled {q : Place} := (fillMapped_unfilled _ (off / 128) q).trans (direct e)
      split at h
      · cases h
      split at h
      · cases h
      split at h
      · cases h; exact filled
      split at h
      · split at h
        · cases h; exact direct e
        · exact (direct h).trans (direct e)
      split at h
      · split at h
        · cases h; exact direct e
        · split at h <;> cases h
      split at h
      · cases h; exact filled
      · exact (direct h).trans filled
    · exact direct h

theorem throughMap_unfilled {s t : State} {a : Access} {p q : Place} (h : throughMap s a p = .ok t q) : t.b.unfilled = s.b.unfilled := by
  unfold throughMap at h
  split at h
  · cases h; rfl
  · split at h
    · exact resolveStash_unfilled h
    · cases h; rfl

theorem readVa_unfilled {s t : State} {va n : Nat} {bs : List Byte} (h : readVa s va n = .ok (t, bs)) : t.b.unfilled = s.b.unfilled := by
  unfold readVa at h
  split at h
  · cases h
  split at h
  · cases h
  · cases h
  next resolved =>
  split at h
  · cases h
  · cases h
  next through =>
  have read := (throughMap_unfilled through).trans (congrArg _ (resolveVa_b resolved))
  split at h
  · cases h
  split at h
  · cases h
  split at h
  · cases h
  split at h
  · unfold wosPark at h; split at h <;> cases h
  split at h
  · cases h
  · rw [show t = _ from (congrArg Prod.fst (Except.ok.inj h)).symm, loadAt_b, read]

/-- A scalar source read leaves the block's maps and shape as they are. -/
theorem readS_unfilled {s t : State} {f : Byte} {x : Scalar} (h : readS s f = .ok (t, x)) : t.b.unfilled = s.b.unfilled := by
  unfold readS at h; simp only [] at h
  split at h
  · cases h; rfl
  · split at h
    · cases h; rfl
    · split at h
      · next e => cases h; exact readVa_unfilled e
      · cases h

/-- The operands of a memory-control form are its two sources, the offset first, neither poisoned (R310). -/
theorem memctlOperands_ok {s t : State} {d a : Byte} {o n : Nat} (h : memctlOperands s d a = .ok (t, o, n)) :
    ∃ (s₁ : State) (x y : Scalar), readS s d = .ok (s₁, x) ∧ readS s₁ a = .ok (t, y) := by
  unfold memctlOperands at h
  split at h
  · cases h
  next s₁ x hx =>
  split at h
  · cases h
  split at h
  · cases h
  next s₂ y hy =>
  split at h <;> cases h
  exact ⟨s₁, x, y, hx, hy⟩

section
variable {s s₁ : State} {d a : Byte} {h : BitVec 4} {o n : Nat} (hm : memctlOperands s d a = .ok (s₁, o, n))
include hm

theorem memctlOperands_w : s₁.w = s.w := by
  obtain ⟨s₂, x, y, hx, hy⟩ := memctlOperands_ok hm
  exact (readS_w hy).trans (readS_w hx)

theorem memctlOperands_unfilled : s₁.b.unfilled = s.b.unfilled := by
  obtain ⟨s₂, x, y, hx, hy⟩ := memctlOperands_ok hm
  exact (readS_unfilled hy).trans (readS_unfilled hx)

/-- What a read fills has no part in the checks of a map descriptor (R314). -/
theorem smapFault_read {b : Handle} {k : Nat} {m : DWord} (hf : smapFault s.b b k m = none) : smapFault s₁.b b k m = none := by
  rw [← smapFault_unfilled, memctlOperands_unfilled hm, smapFault_unfilled, hf]

end

/-! ### PREF (R311) -/

theorem pref_idle {s : State} {d a : Byte} {h : BitVec 4} (hp : Passes s .yes [.ssrc d, .ssrc a] h) (ha : active s.w = 0#64) :
    exec (.pref d a h) s = .next (advance s) :=
  exec_ok (show execPref d a h s = _ from rfl) hp rfl (warpOnce_skips ha)

section
variable {s s₁ : State} {d a : Byte} {h : BitVec 4} {o n : Nat} (hp : Passes s .yes [.ssrc d, .ssrc a] h) (ha : active s.w ≠ 0#64)
  (hm : memctlOperands s d a = .ok (s₁, o, n))
include hp ha hm

theorem pref_unbound (hb : (handleAt s.w h).bound = false) : exec (.pref d a h) s = .next (advance s₁) := by
  refine exec_ok (show execPref d a h s = _ from rfl) hp rfl ?_
  simp only [warpOnce_runs ha, hm, memctlOperands_w hm, hb, Bool.not_false, ↓reduceIte]

/-- On a global or constant handle the lines of the range are brought near. -/
theorem pref_global (hb : (handleAt s.w h).bound = true) (hs : hSpace (handleAt s.w h).entry = 0 ∨ hSpace (handleAt s.w h).entry = 2) :
    exec (.pref d a h) s =
      .next (advance ((lineVas (hBase (handleAt s.w h).entry + o) n).foldl (prefLine (handleAt s.w h).cached) s₁)) := by
  refine exec_ok (show execPref d a h s = _ from rfl) hp rfl ?_
  have global : (hSpace (handleAt s.w h).entry = 0 || hSpace (handleAt s.w h).entry = 2) = true := by simpa using hs
  simp only [warpOnce_runs ha, hm, memctlOperands_w hm, hb, Bool.not_true, Bool.false_eq_true, global, ↓reduceIte]

/-- On a stash handle the mapped lines of the range are filled. -/
theorem pref_stash (hb : (handleAt s.w h).bound = true) (hs : hSpace (handleAt s.w h).entry = 1) :
    exec (.pref d a h) s = .next (advance (((List.range (stashRange s.b / 128)).filter fun l =>
      rangesMeet (128 * l) 128 (hBase (handleAt s.w h).entry + o) n).foldl prefStash s₁)) := by
  refine exec_ok (show execPref d a h s = _ from rfl) hp rfl ?_
  have range : stashRange s₁.b = stashRange s.b := by rw [← stashRange_unfilled, memctlOperands_unfilled hm, stashRange_unfilled]
  simp [warpOnce_runs ha, hm, memctlOperands_w hm, hb, hs, range]

end

/-! ### FLUSH, INVAL, PUB (R312, R313) -/

section
variable {s s₁ t : State} {d a : Byte} {h : BitVec 4} {o n va : Nat} {ls : List LaneStore} {kind : StoreKind}
  (hp : Passes s .no [.ssrc d, .ssrc a] h) (hm : memctlOperands s d a = .ok (s₁, o, n)) (hc : rangeCheck s₁ h o n = .ok va)
include hp hm hc

/-- An empty range, or no lane active: the form only moves on. -/
theorem rangeForm_idle (hn : n = 0 ∨ active s.w = 0#64) : rangeForm kind d a h s = .next (advance s₁) := by
  refine issue_ok hp rfl ?_
  rw [← memctlOperands_w hm] at hn
  simp only [hm, hc]
  split
  · rfl
  · exact warpOnce_skips (hn.resolve_left ‹_›)

theorem pub_idle (hn : n = 0 ∨ active s.w = 0#64) : exec (.pub d a h) s = .next (advance s₁) := by
  refine exec_ok (show execPub d a h s = _ from rfl) hp rfl ?_
  rw [← memctlOperands_w hm] at hn
  simp only [hm, hc]
  split
  · rfl
  · exact warpOnce_skips (hn.resolve_left ‹_›)

section
variable (hn : n ≠ 0) (ha : active s.w ≠ 0#64) (hr : memReady s₁ = .ok ())
include hn ha hr

/-- The lines of the range on IP pages join the store queue (R312, R141). -/
theorem rangeForm_next (hl : mappedLines (lineVas va n) s₁ = .ok (t, ls)) (hq : QueueRoom t (ls.filter fun l => l.place.attr = aIp)) :
    rangeForm kind d a h s = .next (queued t kind (ls.filter fun l => l.place.attr = aIp) h none) := by
  refine issue_ok hp rfl ?_
  rw [← memctlOperands_w hm] at ha
  simp only [hm, hc, if_neg hn, warpOnce_runs ha, hr, hl, pushStore_next hq]

/-- The WOS lines of the range join the store queue as a release at system scope (R313, R137). -/
theorem pub_next (hl : publishLines h (lineVas va n) s₁ = .ok (t, ls)) (hq : QueueRoom t ls) :
    exec (.pub d a h) s = .next (queued t .pub ls h (some 4#3)) := by
  refine exec_ok (show execPub d a h s = _ from rfl) hp rfl ?_
  rw [← memctlOperands_w hm] at ha
  simp only [hm, hc, if_neg hn, warpOnce_runs ha, hr, hl, pushStore_next hq]

end
end

/-! ### Stash maps (R314 to R316) -/

/-- A map number is the low four bits of its word (R314). -/
theorem mapNumber_eq (m : Nat) : ((BitVec.ofNat 64 m).extractLsb' 0 4).toFin = Fin.ofNat 16 m := by
  apply Fin.ext
  simp [Fin.ofNat]

/-- The block with an entry of its stash map set, the lines that the entry covers cleared (R97, R314). -/
def mapInto (b : Block) (k : Fin 16) (e : BitVec 128) : Block := { clearStash b (smapLines e) with smap := b.smap.set k e }

section
variable {s s₁ : State} {d a : Byte} {h : BitVec 4} {o m : Nat} (hp : Passes s .no [.ssrc d, .ssrc a] h)
  (hm : memctlOperands s d a = .ok (s₁, o, m)) (hb : (handleAt s.w h).bound = true) (hs : hSpace (handleAt s.w h).entry = 0)
  (ht : hAttar (handleAt s.w h).entry = false) (hf : smapFault s.b (handleAt s.w h) o (BitVec.ofNat 64 m) = none)
include hp hm hb hs ht hf

/-- A valid descriptor with no lane active: smap only moves on (R314). -/
theorem smap_idle (ha : active s.w = 0#64) : exec (.smap d a h) s = .next (advance s₁) := by
  refine exec_ok (show execSmap d a h s = _ from rfl) hp rfl ?_
  have valid : smapFault s₁.b (handleAt s.w h) o (BitVec.ofNat 64 m) = none := smapFault_read hm hf
  rw [← memctlOperands_w hm] at ha
  simp only [hm, memctlOperands_w hm, hb, hs, ht, valid, Bool.not_true, Bool.false_eq_true, ne_eq, not_true_eq_false, decide_false,
    Bool.or_self, ↓reduceIte, warpOnce_skips ha]

/-- A valid descriptor with a lane active: once earlier accesses are performed the map is replaced (R314). -/
theorem smap_next (ha : active s.w ≠ 0#64) (hd : awaitDrained s₁ 1#3 = .ok ()) (hr : removalReady s₁ (Fin.ofNat 16 m) = .ok ()) :
    exec (.smap d a h) s = .next (advance { removeMap s₁ (Fin.ofNat 16 m) with
      b := mapInto (removeMap s₁ (Fin.ofNat 16 m)).b (Fin.ofNat 16 m) (smapEntry (hBase (handleAt s.w h).entry + o) (BitVec.ofNat 64 m)) }) := by
  refine exec_ok (show execSmap d a h s = _ from rfl) hp rfl ?_
  have valid : smapFault s₁.b (handleAt s.w h) o (BitVec.ofNat 64 m) = none := smapFault_read hm hf
  rw [← memctlOperands_w hm] at ha
  simp only [hm, memctlOperands_w hm, hb, hs, ht, valid, Bool.not_true, Bool.false_eq_true, ne_eq, not_true_eq_false, decide_false,
    Bool.or_self, ↓reduceIte, warpOnce_runs ha, hd, mapNumber_eq, hr,
    show ((BitVec.ofNat 64 m).extractLsb' 0 4).toNat = (Fin.ofNat 16 m).val from congrArg Fin.val (mapNumber_eq m)]
  rfl

end

section
variable {s s₁ : State} {a : Byte} {x : DWord} (hp : Passes s .no [.ssrc a]) (hr : readS s a = .ok (s₁, ⟨x, false⟩)) (hx : x.toNat < 16)
include hp hr hx

theorem sunmap_idle (ha : active s.w = 0#64) : exec (.sunmap a) s = .next (advance s₁) := by
  refine exec_ok (show execSunmap a s = _ from rfl) hp rfl ?_
  rw [← readS_w hr] at ha
  simp only [hr, consumeS_clean, bitsNat_high (n := 4) hx, ne_eq, not_true_eq_false, ↓reduceIte, warpOnce_skips ha]

theorem sunmap_next (ha : active s.w ≠ 0#64) (hd : awaitDrained s₁ 1#3 = .ok ()) (hm : removalReady s₁ (Fin.ofNat 16 x.toNat) = .ok ()) :
    exec (.sunmap a) s = .next (advance (removeMap s₁ (Fin.ofNat 16 x.toNat))) := by
  refine exec_ok (show execSunmap a s = _ from rfl) hp rfl ?_
  have number : (x.extractLsb' 0 4).toFin = Fin.ofNat 16 x.toNat := by rw [← mapNumber_eq, BitVec.ofNat_toNat, BitVec.setWidth_eq]
  rw [← readS_w hr] at ha
  simp only [hr, consumeS_clean, bitsNat_high (n := 4) hx, ne_eq, not_true_eq_false, ↓reduceIte, warpOnce_runs ha, hd, number, hm]

end

/-- Settles O22: each form by its range, its handle and the active lanes. -/
theorem memoryControlResult : Obligations.MemoryControlResult := by
  refine ⟨fun s d a h => pref_idle,
    fun s s₁ d a h o n hp ha hm => ⟨pref_unbound hp ha hm, pref_global hp ha hm, pref_stash hp ha hm⟩,
    fun s s₁ d a h o n va hp hm hc => ⟨fun hn => ?idle, fun t ls hn ha hr => ⟨fun hl hq => ?lines, pub_next hp hm hc hn ha hr⟩⟩,
    fun s s₁ d a h o m hp hm hb hs ht hf => ⟨smap_idle hp hm hb hs ht hf, fun ha hd hr => ⟨_, _, rfl, smap_next hp hm hb hs ht hf ha hd hr, rfl⟩⟩,
    fun s s₁ a x hp hr hx => ⟨sunmap_idle hp hr hx, sunmap_next hp hr hx⟩⟩
  case idle =>
    simp only [List.forall_mem_cons]
    exact ⟨rangeForm_idle hp hm hc hn, rangeForm_idle hp hm hc hn, pub_idle hp hm hc hn, List.forall_mem_nil _⟩
  case lines => exact ⟨rangeForm_next hp hm hc hn ha hr hl hq, rangeForm_next hp hm hc hn ha hr hl hq⟩

end Sys2Proof.Machine

/-! Engine commands as they end (R103, R106, R362). -/

namespace Sys2Proof.Machine

/-! ### An operation of the warp in focus -/

section
variable {s : State} {wid : Nat} (hw : s.w.wid = wid)
include hw

theorem warpOf_focus (h : s.w.status ≠ .vacant) : warpOf s wid = some s.w := by
  simp [warpOf, allWarps, hw, h]

theorem focusOn_self : focusOn s wid = s := if_pos hw

/-- An operation of the warp in focus that keeps its name acts on the state as it stands. -/
theorem withWarp_focus {f : State → State} (h : s.w.status ≠ .vacant) (hf : (f s).w.wid = wid) : withWarp s wid f = f s := by
  rw [withWarp, warpOf_focus hw h, focusOn_self hw, hw, Option.isSome_some, if_pos rfl, focusOn_self hf]

end

/-! ### The end of a command (R362) -/

section
variable {s : State} {id wid : Nat} {c : Cmd}

/-- Nothing ends once a cut has been reported, or where no started command has the number (R169). -/
theorem engineCompletion_none (h : hubSealed s.hub = true ∨ ∀ c ∈ s.cmds, ¬(c.id = id ∧ c.started = true)) :
    exec (.engineCompletion id) s = .next s := by
  have absent : (s.cmds.find? fun c => c.id = id && c.started && !hubSealed s.hub) = none := by
    rw [List.find?_eq_none]
    intro c hc
    rcases h with h | h
    · simp [h]
    · simpa using fun hi hs => absurd ⟨hi, hs⟩ (h c hc)
  show execEngineCompletion id s = _
  simp only [execEngineCompletion, absent]

variable (hs : hubSealed s.hub = false) (hc : s.cmds.find? (fun c => c.id = id && c.started) = some c) (hi : c.issuer = .warp wid)
include hs hc hi

/-- A warp's started command of a number runs to its end, if it can, and what may start does. -/
theorem engineCompletion_warp : exec (.engineCompletion id) s =
    .next (startCmds (if 0x50 ≤ c.func.toNat then completeTileFn s c wid else completeCmd s c)) := by
  show execEngineCompletion id s = _
  simp only [execEngineCompletion, hs, Bool.not_false, Bool.and_true, hc, hi]

end

theorem tilesOver_nil (s : State) (b : Block) : tilesOver s b [] = [] := rfl

/-- A command that its unit performs to the end, no tile spoiled: its tiles are READY, and it ends with its status. -/
theorem completeCmd_ok {s r : State} {c : Cmd} {p : CmdPlan} (ht : c.stopping = false) (hp : p.spoiled = [])
    (hr : asUnit (c.fills.foldl (fun s t => setTile s c.ctx t.1 t.2) s) c (runCmd c) = (r, .ok p)) {ts : List (Nat × DWord)}
    (hts : ts = tilesOver r (cmdBlock s c) (p.regions.map fun q => (q.1, q.2.1))) :
    completeCmd s c = endCmd (readyTiles r (cmdBlock s c) p.regions (ts ++ c.fills.filter fun t => !(ts.any fun q => q.1 = t.1))) c
      (statusWord p.code p.detail p.info) := by
  subst hts
  simp only [completeCmd, hr, ht, hp, tilesOver_nil, List.filter_nil, List.any_nil, Bool.not_false, Bool.and_true, Bool.false_eq_true,
    ↓reduceIte]
  rfl

/-- A reply of a resident context goes to no image (R395). -/
theorem imageReply_resident {s : State} {d : BitVec 6} {st : DWord} (h : s.x.resident = true) : imageReply d st s = s := if_pos h

/-- A reply to the warp in focus, resident: the command goes, its flag falls, and the status stands in the reply register (R362). -/
theorem endCmd_reply {s : State} {c : Cmd} {st : DWord} (ha : AtWarp s s.w.wid) (hi : c.issuer = .warp s.w.wid) (hr : c.reply = true)
    (hx : s.x.resident = true) : endCmd s c st = { s with
      cmds := s.cmds.filter fun q => q.id ≠ c.id, w := setS (flagDec s.w c.flag) (Fin.ofNat 64 c.d.toNat) ⟨st, false⟩ } := by
  obtain ⟨-, present⟩ := ha
  simp only [endCmd, hi, hr, ↓reduceIte]
  refine (withWarp_focus (s := { s with cmds := s.cmds.filter fun q => q.id ≠ c.id }) rfl present ?_).trans (imageReply_resident hx)
  simp only [imageReply_resident, hx, setS_wid, flagDec_wid]

/-- Settles O35: a performed command by its plan, a reply by its warp, and the cases in which nothing ends. -/
theorem engineCompletionResult : Obligations.EngineCompletionResult := by
  refine ⟨?performed, fun s c st => endCmd_reply, fun s id => engineCompletion_none⟩
  case performed =>
    intro s id c wid p before r hs hc hi hf ht hp hb hr
    subst hb
    refine ⟨_, rfl, ?_⟩
    rw [engineCompletion_warp hs hc hi, if_neg (Nat.not_le.mpr hf), completeCmd_ok ht hp hr rfl]

end Sys2Proof.Machine

/-! Tile functions (R102, R103, R106, R372). -/

namespace Sys2Proof.Machine

/-! ### Tile functions at issue (R372) -/

section
variable {o : Host.Outcome State Fault Refusal} {s : State} {f : BitVec 7} {reply : Bool} {d a : BitVec 6} {x z : DWord}
  {k : DWord → State → Run State} (form : o = tileFn f reply d a s k)
  (hp : Passes s .no (copFields f reply d a 0#6)) (ho : copOperands f reply d a 0#6 s.w = .ok (x, 0#64, z)) (hx : x.extractLsb' 11 21 = 0#21)
include form hp ho hx

/-- A tile function whose operand is a range word does what its own part says. -/
theorem tileFn_next {t : State} (e : k x s = .ok t) : o = .next t := by
  refine form.trans (issue_ok hp (copFields_queues f reply d a 0#6) ?_)
  simp only [ho, (bitsNat_eq_zero x 11 21).mpr hx, ne_eq, not_true_eq_false, ↓reduceIte, e]

end

section
variable {s : State} {r : BitVec 1} {d a : BitVec 6} {x z : DWord} {t : Nat × DWord}

/-- A tile is defined at an aligned range of the core's portion that meets none, where the table has an entry free (R102). -/
theorem tdef_next {n : Nat} (hp : Passes s .no (copFields 0x50#7 true d a 0#6)) (ho : copOperands 0x50#7 true d a 0#6 s.w = .ok (x, 0#64, z))
    (hx : x.extractLsb' 11 21 = 0#21) (hi : rangeInside s x = true) (ht : tilesAt s s.b (rangeOff x) (rangeBytes x) = [])
    (hn : (coreAt s s.w.core.toNat).tiles.toList.findIdx? (fun e => !tDef e) = some n) :
    exec (.tdef d a) s = .next (if active s.w = 0#64 then advance s
      else tileReply true d n (setTile s s.w.ctx (256 * s.w.core.toNat + n) (newTile s x))) := by
  refine tileFn_next (show execTdef d a s = _ from rfl) hp ho hx ?_
  simp only [hi, ht, hn, List.isEmpty_nil, Bool.not_true, Bool.or_self, Bool.false_eq_true, ↓reduceIte, apply_ite Except.ok]

theorem trel_next (hp : Passes s .no (copFields 0x51#7 (r = 1#1) d a 0#6)) (ho : copOperands 0x51#7 (r = 1#1) d a 0#6 s.w = .ok (x, 0#64, z))
    (hx : x.extractLsb' 11 21 = 0#21) (ht : tileOf s x = some t) (hs : tState t.2 = 0 ∨ tState t.2 = 2) :
    exec (.trel r d a) s = .next (if active s.w = 0#64 then advance s else tileReply (r = 1#1) d 0 (setTile s s.w.ctx t.1 0xFF00#64)) := by
  refine tileFn_next (show execTrel r d a s = _ from rfl) hp ho hx ?_
  have free : (some t).filter (fun t => tState t.2 = 0 || tState t.2 = 2) = some t := by rcases hs with hs | hs <;> simp [hs]
  simp only [ht, free, apply_ite Except.ok]

/-- The reply of a tile function is a scalar result. -/
theorem tileReply_putScalar (n : Nat) : tileReply true d n s = s.putScalar (d.setWidth 8) ⟨BitVec.ofNat 64 n, false⟩ := by
  have field : (d.setWidth 8).toNat = d.toNat := BitVec.toNat_setWidth_of_le (by decide)
  simp only [tileReply, State.putScalar, field, ↓reduceIte]

theorem tqry_next (hp : Passes s .no (copFields 0x54#7 true d a 0#6)) (ho : copOperands 0x54#7 true d a 0#6 s.w = .ok (x, 0#64, z))
    (hx : x.extractLsb' 11 21 = 0#21) : exec (.tqry d a) s = .next (if active s.w = 0#64 then advance s
      else s.putScalar (d.setWidth 8) ⟨BitVec.ofNat 64 (((tileOf s x).map fun t => t.2.toNat).getD 0), false⟩) := by
  refine tileFn_next (show execTqry d a s = _ from rfl) hp ho hx ?_
  simp only [tileReply_putScalar, apply_ite Except.ok]

end

/-! ### trdy and tdrn (R106, R372) -/

section
variable {s : State} {f : BitVec 7} {reply : Bool} {d a : BitVec 6} {x z : DWord} {t : Nat × DWord} {c : Cmd}
  (hp : Passes s .no (copFields f reply d a 0#6)) (ho : copOperands f reply d a 0#6 s.w = .ok (x, 0#64, z)) (hx : x.extractLsb' 11 21 = 0#21)
  (ht : tileOf s x = some t)
include hp ho hx ht

theorem tileWait_idle (ha : active s.w = 0#64) : tileWait f reply d a s = .next (advance s) := by
  refine tileFn_next (show tileWait f reply d a s = _ from rfl) hp ho hx ?_
  simp only [ht, Option.isNone_some, Bool.false_eq_true, ↓reduceIte, ha]

/-- A function that its warp has in the scoreboard already is tried again. -/
theorem tileWait_again (ha : active s.w ≠ 0#64) (hc : ownTileFn s f = some c) : tileWait f reply d a s = .next (tryTileFn c x s) := by
  refine tileFn_next (show tileWait f reply d a s = _ from rfl) hp ho hx ?_
  simp only [ht, Option.isNone_some, Bool.false_eq_true, ↓reduceIte, ha, hc]

/-- A function that finds room takes a scoreboard entry and is tried. -/
theorem tileWait_issues (ha : active s.w ≠ 0#64) (hn : ownTileFn s f = none) (hb : boardFull s s.w.core = false)
    (hc : c = { newCmd (takeIssue s).1 s.hub.nextCmd f reply d x 0#64 0#64 with reads := [], writes := linesAt (rangeOff x) (rangeBytes x) }) :
    tileWait f reply d a s = .next (tryTileFn c x { (takeIssue s).1 with cmds := s.cmds ++ [c] }) := by
  subst hc
  refine tileFn_next (show tileWait f reply d a s = _ from rfl) hp ho hx ?_
  simp only [ht, Option.isNone_some, Bool.false_eq_true, ↓reduceIte, ha, hn, hb, takeIssue]

end

/-- The instruction of a waiting tile function is its form. -/
theorem exec_tileWait {r : BitVec 1} {d a : BitVec 6} {f : BitVec 7} {i : Instr} (h : (f = 0x52#7 ∧ i = .trdy r d a) ∨ (f = 0x53#7 ∧ i = .tdrn r d a))
    (s : State) : exec i s = tileWait f (r = 1#1) d a s := by
  rcases h with ⟨rfl, rfl⟩ | ⟨rfl, rfl⟩ <;> rfl

theorem setTile_w (s : State) (ctx : BitVec 16) (key : Nat) (e : DWord) : (setTile s ctx key e).w = s.w := by
  unfold setTile
  split
  · exact (congrArg State.w (hubPost_offHub _ _ _ _) :)
  · rfl

section
variable {s : State} {c : Cmd} {x : DWord}

/-- A function that the scoreboard holds waits (R106). -/
theorem tryTileFn_held (h : boardHolds s c.core c.bid c.id c.reads c.writes = true) :
    tryTileFn c x s = { s with w := waiting s.w .scoreboard, turn := 0 } := by
  simp only [tryTileFn, h, ↓reduceIte]

/-- A function that nothing holds, its tile in a state in which it may start, starts and the warp moves on (R103, R372). -/
theorem tryTileFn_starts {u : State} {t : Nat × DWord} {e : DWord} (h : boardHolds s c.core c.bid c.id c.reads c.writes = false)
    (ht : tileOf s x = some t) (hs : tileStarts c.func t.2 = true)
    (he : e = if c.func = 0x52#7 then tileWith t.2 1 none (0x40 + s.w.part.toNat)
      else tileWith t.2 3 (if tPoison t.2 then some (BitVec.ofNat 8 (tCode t.2)) else none) (0x40 + s.w.part.toNat))
    (hu : u = putCmd (setTile s s.w.ctx t.1 e) { c with started := true, fills := [t], since := s.w.cyc.toNat }) :
    tryTileFn c x s = advance { u with w := flagInc u.w c.flag } := by
  subst he hu
  have starts : (some t).filter (fun t => tileStarts c.func t.2) = some t := by simp [hs]
  simp only [tryTileFn, h, Bool.false_eq_true, ↓reduceIte, ht, starts, setTile_w]

end

/-! ### Their end -/

section
variable {s : State} {id wid : Nat} {c : Cmd} (hs : hubSealed s.hub = false) (hc : s.cmds.find? (fun c => c.id = id && c.started) = some c)
  (hi : c.issuer = .warp wid) (hp : c.stopping = false)
include hs hc hi hp

/-- trdy ends once the warp's earlier stash stores have left its queue, its tile READY (R372). -/
theorem trdy_completes (hf : c.func = 0x52#7)
    (hw : ∀ w, warpOf s wid = some w → ∀ e ∈ w.stores, c.since < e.since ∨ ∀ l ∈ e.lanes, l.place.stash = false) :
    exec (.engineCompletion id) s =
      .next (startCmds (endCmd (c.fills.foldl (fun s t => setTile s c.ctx t.1 (tileWith t.2 2 none 0xFF)) s) c 0#64)) := by
  have late : ((warpOf s wid).any fun w => w.stores.any fun e => e.since ≤ c.since && e.lanes.any fun l => l.place.stash) = false := by
    cases h : warpOf s wid with
    | none => rfl
    | some w =>
      simp only [Option.any_some, List.any_eq_false]
      intro e he
      rcases hw w h e he with hl | hl
      · simp [Nat.not_le.mpr hl]
      · simpa using fun _ => hl
  rw [engineCompletion_warp hs hc hi, if_pos (by rw [hf]; decide)]
  simp only [completeTileFn, hf, late, hp, Bool.false_eq_true, ↓reduceIte]

/-- tdrn ends with its tile EMPTY (R103, R372). -/
theorem tdrn_completes (hf : c.func = 0x53#7) : exec (.engineCompletion id) s =
    .next (startCmds (endCmd (c.fills.foldl (fun s t => setTile s c.ctx t.1 (tileWith t.2 0 none 0xFF)) s) c 0#64)) := by
  have drains : ¬ c.func = 0x52#7 := by rw [hf]; decide
  rw [engineCompletion_warp hs hc hi, if_pos (by rw [hf]; decide)]
  simp only [completeTileFn, drains, hp, Bool.false_eq_true, ↓reduceIte]

end

/-- Settles O36: each tile function by its range and its tile, trdy and tdrn at issue, as they are tried and as they end. -/
theorem tileFunctionResult : Obligations.TileFunctionResult := by
  refine ⟨fun s d a x z n => tdef_next, fun s r d a x z t => trel_next, fun s d a x z => tqry_next, ?issue, fun s c x => tryTileFn_held, ?starts,
    fun s id wid c hs hc hi hp => ⟨trdy_completes hs hc hi hp, tdrn_completes hs hc hi hp⟩⟩
  case issue =>
    intro s r d a x z t f i hf hp ho hx ht
    rw [exec_tileWait hf]
    exact ⟨tileWait_idle hp ho hx ht, fun c => tileWait_again hp ho hx ht, fun c => tileWait_issues hp ho hx ht⟩
  case starts =>
    refine fun s u c x t hb ht => ⟨fun hf hs hu => tryTileFn_starts hb ht ?_ (if_pos hf).symm hu,
      fun hf hs hu => tryTileFn_starts hb ht ?_ (if_neg (by rw [hf]; decide)).symm hu⟩
    · simpa [tileStarts, hf] using hs
    · simp [tileStarts, hs]

end Sys2Proof.Machine

/-! Contexts leaving and returning, and the migration engine (R112, R113, R394 to R396, R428). -/

namespace Sys2Proof.Machine

/-! ### Switch-out (R394, R395) -/

theorem mem_allCtxs_mapCtxs {s : State} {f : Ctx → Ctx} {x : Ctx} : x ∈ allCtxs (mapCtxs s f) ↔ ∃ y ∈ allCtxs s, f y = x := by
  rw [← List.mem_map]
  rfl

/-- Every record of a context is as the change left it, where the change keeps the number. -/
theorem mem_allCtxs_onCtx {s : State} {c : BitVec 16} {f : Ctx → Ctx} {x : Ctx} (h : x ∈ allCtxs (onCtx s c f)) (hx : x.num = c) :
    ∃ y ∈ allCtxs s, x = f y := by
  obtain ⟨y, hy, rfl⟩ := mem_allCtxs_mapCtxs.mp h
  by_cases hn : y.num = c
  · exact ⟨y, hy, if_pos hn⟩
  · rw [if_neg hn] at hx
    exact absurd hx hn

/-- A context that has left its cores is resident no longer, nor leaving (R395). -/
theorem leaveCores_away {s : State} {c : BitVec 16} : ∀ x ∈ allCtxs (leaveCores s c), x.num = c → x.resident = false ∧ x.leaving = false := by
  intro x hx hc
  obtain ⟨y, -, rfl⟩ := mem_allCtxs_onCtx hx hc
  exact ⟨rfl, rfl⟩

section
variable {s : State} {c : BitVec 16}

/-- With no reason, or while the hub is held, no context leaves (R169, R394). -/
theorem contextSwitchOut_none (h : hubHeld s.hub = true ∨ ctxResident s c = false ∨ ((ctxFor s c).leaving = false ∧ switchDue s c = false)) :
    exec (.contextSwitchOut c) s = .next s := by
  refine congrArg Host.Outcome.next (if_pos ?_)
  rcases h with h | h | ⟨h, h'⟩
  · simp [h]
  · simp [h]
  · simp [h, h']

/-- A resident context that must make room stops, and leaves once it is at rest and its register blocks stand in one place (R394, R395). -/
theorem contextSwitchOut_due {t u : State} (hh : hubHeld s.hub = false) (hr : ctxResident s c = true) (hb : ctxBlocks s c ≠ [])
    (hd : (ctxFor s c).leaving = true ∨ switchDue s c = true) (ht : t = onCtx s c fun x => { x with leaving := true }) (hu : u = gatherBlocks t c) :
    exec (.contextSwitchOut c) s =
      .next (if ctxAtRest t c = false then t else if blocksGathered u c = true then leaveCores u c else u) := by
  subst ht hu
  have due : ((ctxFor s c).leaving || switchDue s c) = true := by simpa using hd
  have blocks : (ctxBlocks s c).isEmpty = false := by simpa using hb
  show execContextSwitchOut c s = _
  simp only [execContextSwitchOut, hh, hr, blocks, due, Bool.not_true, Bool.or_self, Bool.false_eq_true, ↓reduceIte, Bool.not_eq_true']

/-! ### Restore (R396) -/

theorem contextRestore_due (hh : hubHeld s.hub = false) (hd : restoreDue s c = true) :
    exec (.contextRestore c) s = .next ((restoreContext s c).getD s) := by
  refine congrArg Host.Outcome.next (if_pos ?_)
  simp [hh, hd]

theorem contextRestore_none (h : hubHeld s.hub = true ∨ restoreDue s c = false) : exec (.contextRestore c) s = .next s := by
  refine congrArg Host.Outcome.next (if_neg ?_)
  rcases h with h | h <;> simp [h]

/-! ### The migration engine (R112, R113, R428) -/

theorem migrationRequest_eq {x : Ctx} (hx : ctxOf s x.num = some x) : exec (.migrationRequest x.num) s =
    .next (if x.resident = true ∧ hubHeld s.hub = false then (asHub s x.num fun u => (serveRing x.num u, ())).1 else s) := by
  show execMigrationRequest x.num s = _
  simp only [execMigrationRequest, ctxFor, hx, Option.getD_some, Option.isSome_some, Bool.and_true, Bool.and_eq_true, Bool.not_eq_true']

theorem nvmeCompletion_none {d : BitVec 2} {st : BitVec 16} (h : ∀ m ∈ s.hub.moves, awaitsDrive s.m d m = false) :
    exec (.nvmeCompletion d st) s = .next s := by
  have absent : s.hub.moves.find? (awaitsDrive s.m d) = none := List.find?_eq_none.mpr fun m hm => by simp [h m hm]
  show execNvmeCompletion d st s = _
  simp only [execNvmeCompletion, absent]

/-- The oldest move that waits for the drive takes its answer and goes on (R428). -/
theorem nvmeCompletion_next {d : BitVec 2} {st : BitVec 16} {mv : Move} (h : s.hub.moves.find? (awaitsDrive s.m d) = some mv) :
    exec (.nvmeCompletion d st) s = .next (asHub s mv.ctx fun u =>
      let a := answerMove mv (st = 0#16) u
      let q := continueMove u mv (if a.2.2 = .pending then runMove 8 a.2.1 a.1 else a)
      (if q.2 = .pending then q.1 else if mv.cmd.isNone then ringPop q.1 q.1.x 0 else putMove q.1 mv (some { mv with phase := q.2.kept }), ())).1 := by
  show execNvmeCompletion d st s = _
  simp only [execNvmeCompletion, h, apply_ite (Prod.mk · ())]

end

section
variable {s : State} {mv : Move}

theorem answerMove_read (h : mv.phase = .nvmeRead) : answerMove mv true s = (s, { mv with
    image := cellBytes (driveCells s.m) (driveKey (locDrive (kvLoc mv.old)) (locByte (kvLoc mv.old))) (32 * kvLen mv.old), phase := .write }, .pending) := by
  rw [answerMove, if_pos h, if_pos rfl]

theorem answerMove_readFailed (h : mv.phase = .nvmeRead) : answerMove mv false s = (s, { mv with phase := .spoil }, .pending) := by
  rw [answerMove, if_pos h, if_neg Bool.false_ne_true]

theorem answerMove_written (h : mv.phase = .nvmeWrite) : answerMove mv true s = (s, { mv with phase := .publish }, .pending) := by
  rw [answerMove, if_neg (by rw [h]; decide), if_pos rfl]

end

/-- Settles O45: each event by its reason and the hub, an answer by the phase of its move. -/
theorem contextEventResult : Obligations.ContextEventResult := by
  refine ⟨?leaves, fun s c => contextSwitchOut_none, fun s c => ⟨fun hh hd => ?returns, contextRestore_none⟩, fun s x hx => ?serves,
    fun s d st => nvmeCompletion_none, fun s d st mv => nvmeCompletion_next,
    fun s mv => ⟨answerMove_read, answerMove_readFailed, answerMove_written⟩⟩
  case leaves =>
    intro s t u c hh hr hb hd ht hu
    rw [contextSwitchOut_due hh hr hb hd ht hu]
    exact ⟨fun busy => by rw [if_pos busy], fun rest apart => by rw [if_neg (by simp [rest]), if_neg (by simp [apart])],
      fun rest gathered => ⟨by rw [if_neg (by simp [rest]), if_pos gathered], leaveCores_away⟩⟩
  case returns =>
    rw [contextRestore_due hh hd]
    exact ⟨fun t ht => by rw [ht, Option.getD_some], fun no => by rw [no, Option.getD_none]⟩
  case serves =>
    rw [migrationRequest_eq hx]
    exact ⟨fun hh hr => by rw [if_pos ⟨hr, hh⟩], fun h => by rw [if_neg (by rcases h with h | h <;> simp [h])]⟩

end Sys2Proof.Machine

/-! Barriers (R151 to R154, R323, R324). -/

namespace Sys2Proof.Machine

/-! ### Barrier words (R151, R152) -/

/-- One bit of a word, as a field. -/
theorem extractLsb'_ofBool (w : DWord) (n : Nat) : w.extractLsb' n 1 = BitVec.ofBool (w.getLsbD n) := by
  ext i hi
  obtain rfl : i = 0 := by omega
  simp

theorem barPhase_ofNat (w : DWord) : BitVec.ofNat 64 (barPhase w).toNat = (w.extractLsb' 32 1).setWidth 64 := by
  rw [extractLsb'_ofBool, barPhase]
  cases w.getLsbD 32 <;> rfl

/-- REMAINING back at COUNT, and PHASE flipped (R152). -/
def nextPhase (w : DWord) : DWord := (w.extractLsb' 33 31 ++ ~~~w.extractLsb' 32 1) ++ (w.extractLsb' 33 31).setWidth 32

theorem nextPhase_eq (w : DWord) : BitVec.ofNat 64 (atBit 33 (barCount w) + atBit 32 (!barPhase w).toNat + barCount w) = nextPhase w := by
  have flipped : (!barPhase w).toNat = (~~~w.extractLsb' 32 1).toNat := by
    rw [extractLsb'_ofBool, barPhase]
    cases w.getLsbD 32 <;> rfl
  have count := (w.extractLsb' 33 31).isLt
  have phase := (~~~w.extractLsb' 32 1).isLt
  have low : ((w.extractLsb' 33 31).setWidth 32).toNat = (w.extractLsb' 33 31).toNat := by simp; omega
  apply BitVec.eq_of_toNat_eq
  rw [flipped, nextPhase, BitVec.toNat_append, BitVec.toNat_append, ← Nat.shiftLeft_add_eq_or_of_lt phase,
    ← Nat.shiftLeft_add_eq_or_of_lt (BitVec.isLt _), low]
  simp only [BitVec.toNat_ofNat, atBit, barCount, bitsNat, Nat.shiftLeft_eq]
  omega

/-- An arrival of `n` at a well-formed word with at least `n` left (R152). -/
theorem barArrive_ok {w : DWord} {n : Nat} (wf : barLeft w ≤ barCount w) (hn : 0 < n) (hl : n ≤ barLeft w) :
    barArrive w n = .ok (if n = barLeft w then nextPhase w else w - BitVec.ofNat 64 n) := by
  have formed : (barCount w = 0 || barLeft w = 0 || barCount w < barLeft w) = false := by simp; omega
  have fits : (n = 0 || barLeft w < n) = false := by simp; omega
  simp only [barArrive, formed, fits, Bool.false_eq_true, ↓reduceIte, nextPhase_eq, eq_comm (b := n)]
  exact (apply_ite Except.ok ..).symm

/-! ### Arrivals (R152, R154, R324) -/

theorem stashHere_w {s t : State} {off : Nat} (h : stashHere s off = .ok t) : t.w = s.w := by
  unfold stashHere at h
  split at h
  · cases h
    exact stashReturn_w (by assumption)
  · cases h

section
variable {s s₁ s₂ : State} {d a : Byte} {h : BitVec 4} {x : DWord} {off : Nat} {many : Bool} (hp : Passes s .no [.sdst d, .ssrc a] h)
  (hr : readS s a = .ok (s₁, ⟨x, false⟩)) (hw : barWord s₁ h x = .ok off) (hl : loadReady s₁ = .ok ()) (hd : awaitDrained s₁ 1#3 = .ok ())
  (hs : stashHere s₁ off = .ok s₂)
include hp hr hw hl hd hs

/-- With no lane active an arrival only returns the PHASE. -/
theorem arriveForm_idle (ha : active s.w = 0#64) : arriveForm d a h many s = .next
    (pendLoad s₂ (.scalar d.toNat 8 false) [] [⟨0, .value (((stashWord s₂.b off).extractLsb' 32 1).setWidth 64)⟩] false) := by
  refine issue_ok hp rfl ?_
  simp only [hr, consumeS_clean, hw, hl, hd, hs, stashHere_w hs, readS_w hr, ha, ↓reduceIte, barPhase_ofNat]

/-- With a lane active it writes the word that it leaves, which may wake waiting warps, and returns the PHASE that it found. -/
theorem arriveForm_next {new : DWord} (ha : active s.w ≠ 0#64)
    (hn : barArrive (stashWord s₂.b off) (if many then (x.extractLsb' 32 32).toNat else 1) = .ok new) :
    arriveForm d a h many s = .next
      (pendLoad (wakeBarriers s₂.b (storeAt s₂ s₂.w.core.toNat (stashAt off) (bytesOfNat 8 new.toNat))) (.scalar d.toNat 8 false) []
        [⟨0, .value (((stashWord s₂.b off).extractLsb' 32 1).setWidth 64)⟩] false) := by
  refine issue_ok hp rfl ?_
  simp only [hr, consumeS_clean, hw, hl, hd, hs, stashHere_w hs, readS_w hr, ha, ↓reduceIte, bitsNat, hn, barPhase_ofNat]

end

/-- The two arrivals are one form. -/
theorem exec_arrive (s : State) (d a : Byte) (h : BitVec 4) (many : Bool) :
    exec (if many then .barArriveN d a h else .barArrive d a h) s = arriveForm d a h many s := by
  cases many <;> rfl

/-! ### Waits (R153, R324) -/

section
variable {s s₁ s₂ : State} {d a : Byte} {h : BitVec 4} {x y : DWord} {off : Nat} (hp : Passes s .no [.ssrc d, .ssrc a] h)
  (hr : readS s a = .ok (s₁, ⟨x, false⟩)) (hr₂ : readS s₁ d = .ok (s₂, ⟨y, false⟩)) (hw : barWord s₂ h x = .ok off)
include hp hr hr₂ hw

/-- With no lane active, or once woken, the wait is over. -/
theorem barWait_past (ha : active s.w = 0#64 ∨ s.w.woken = true) : exec (.barWait d a h) s = .next (advance s₂) := by
  refine exec_ok (show execBarWait d a h s = _ from rfl) hp rfl ?_
  have past : (active s₂.w = 0#64 || s₂.w.woken) = true := by simpa [readS_w hr₂, readS_w hr] using ha
  simp only [hr, hr₂, consumeS_clean, hw, past, ↓reduceIte]

variable (ha : active s.w ≠ 0#64) (hk : s.w.woken = false) (hl : loadReady s₂ = .ok ())
  (hf : ∀ i, i < 8 → forwardByte (stashAt off) i s.w.stores.reverse = .none)
include ha hk hl hf

/-- The wait looks at the word's PHASE. -/
theorem barWait_looks : exec (.barWait d a h) s = finish s
    (if barPhase (stashWord s₂.b off) ≠ y.getLsbD 0 then .ok (advance s₂) else park (.barrier off (y.getLsbD 0))) := by
  have stays : (active s₂.w = 0#64 || s₂.w.woken) = false := by simp [readS_w hr₂, readS_w hr, ha, hk]
  have clear : ((List.range 8).any fun i => forwardByte (stashAt off) i s₂.w.stores.reverse ≠ .none) = false := by
    simpa [readS_w hr₂, readS_w hr] using hf
  rw [show exec (.barWait d a h) s = execBarWait d a h s from rfl, execBarWait, issue_passes hp]
  simp only [hr, hr₂, consumeS_clean, hw, stays, hl, clear, Bool.false_eq_true, ↓reduceIte]
  by_cases flipped : barPhase (stashWord s₂.b off) ≠ y.getLsbD 0
  · simp only [if_pos flipped]; rfl
  · simp only [if_neg flipped]; rfl

theorem barWait_flipped (hx : barPhase (stashWord s₂.b off) ≠ y.getLsbD 0) : exec (.barWait d a h) s = .next (advance s₂) := by
  rw [barWait_looks hp hr hr₂ hw ha hk hl hf, if_pos hx, finish]

theorem barWait_waits (hx : barPhase (stashWord s₂.b off) = y.getLsbD 0) :
    exec (.barWait d a h) s = .next { s with w := waiting s.w (.barrier off (y.getLsbD 0)), turn := 0 } := by
  rw [barWait_looks hp hr hr₂ hw ha hk hl hf, if_neg (not_not.mpr hx)]
  rfl

end

/-- Settles O26: an arrival by its form, with no lane active and with the word that it leaves; a wait by the PHASE that it finds. -/
theorem barrierResult : Obligations.BarrierResult := by
  refine ⟨fun s s₁ s₂ d a h x word off many hp hr hw hl hd hs hword => ?_,
    fun s s₁ s₂ d a h x y off hp hr hr₂ hw => ⟨barWait_past hp hr hr₂ hw, fun ha hk hl hf =>
      ⟨barWait_flipped hp hr hr₂ hw ha hk hl hf, barWait_waits hp hr hr₂ hw ha hk hl hf⟩⟩⟩
  subst hword
  rw [exec_arrive]
  refine ⟨arriveForm_idle hp hr hw hl hd hs, fun new n ha wf h0 hle hn hnew => ?_⟩
  subst hn hnew
  exact arriveForm_next hp hr hw hl hd hs ha (barArrive_ok wf h0 hle)

end Sys2Proof.Machine

/-! Remote accesses as they issue, and tether attachment (R329 to R335). -/

namespace Sys2Proof.Machine

/-! ### Remote accesses (R329, R330) -/

/-- No lane poisoned at issue is no change. -/
theorem poisonNow_nil (s : State) (op : BitVec 3) (d code detail : Byte) : poisonNow s op d [] code detail = s := by
  simp [poisonNow, poisonWide]

/-- What holds of every lane's peer word holds of the distinct ones. -/
theorem forall_peers {ls : List RLane} {P : Word → Prop} (h : ∀ x ∈ ls, P x.peer) : ∀ p ∈ (ls.map (·.peer)).eraseDups, P p := by
  intro p hp
  obtain ⟨x, hx, rfl⟩ := List.mem_map.mp (List.mem_eraseDups.mp hp)
  exact h x hx

theorem any_peers {ls : List RLane} {f : Word → Bool} (h : ∀ x ∈ ls, f x.peer = false) : (ls.map (·.peer)).eraseDups.any f = false :=
  List.any_eq_false.mpr fun p hp => by simp [forall_peers (P := (f · = false)) h p hp]

/-- A lane that R330 finds no fault with: its peer word, its type, its registers, which nothing is to write, and its range. -/
structure Faultless (s : State) (op : BitVec 3) (h : BitVec 4) (d : Byte) (x : RLane) : Prop where
  word : peerBad s.b op (hSpace (handleAt s.w h).entry = 3) x.peer = false
  type : remoteAtomic op = true → atomType (peerAop x.peer) (peerW64 x.peer) (modeEt s.w) = true
  registers : (remoteOpd s.w op d x.peer).bad s.w = none
  free : (remoteOpd s.w op d x.peer).pending s = false
  inside : x.off.toNat + remoteSize s.w op x.peer ≤ 2 ^ 32

section
variable {s : State} {op : BitVec 3} {d : Byte} {ls : List RLane}

/-- The groups of faultless lanes are sent. -/
theorem remoteLanes_sends {h : BitVec 4} (hj : ∀ x ∈ ls, Faultless s op h d x) (hm : memReady s = .ok ())
    (hq : requestsFree s ls.length = .ok ()) (hl : s.w.remotes.length < 256) :
    remoteLanes s op d h ls = .ok (advance (sendGroups s op h d ls)) := by
  have words : ((ls.map (·.peer)).eraseDups.any (peerBad s.b op (hSpace (handleAt s.w h).entry = 3))) = false := 
    any_peers fun x hx => (hj x hx).word
  have types : (remoteAtomic op && (ls.map (·.peer)).eraseDups.any fun p => !atomType (peerAop p) (peerW64 p) (modeEt s.w)) = false := by
    cases ha : remoteAtomic op
    · rfl
    · exact any_peers fun x hx => by simp [(hj x hx).type ha]
  have registers : ((ls.map (·.peer)).eraseDups.findSome? fun p => (remoteOpd s.w op d p).bad s.w) = none :=
    List.findSome?_eq_none_iff.mpr (forall_peers (P := fun p => (remoteOpd s.w op d p).bad s.w = none) fun x hx => (hj x hx).registers)
  have free : ((ls.map (·.peer)).eraseDups.any fun p => (remoteOpd s.w op d p).pending s) = false :=
    any_peers fun x hx => (hj x hx).free
  have inside : ∀ x ∈ ls, x.beyond s.w op = false := fun x hx => decide_eq_false (Nat.not_lt.mpr (hj x hx).inside)
  have out : ls.filter (RLane.beyond s.w op) = [] := by simpa using inside
  have all : ls.filter (fun x => !x.beyond s.w op) = ls := by simpa using inside
  simp only [remoteLanes, words, types, registers, free, hm, hq, out, all, poisonNow_nil, Nat.not_le.mpr hl, List.isEmpty_nil,
    Bool.false_eq_true, ↓reduceIte, ite_self]

section
variable {s₁ s₂ t : State} {o p : Byte} {h : BitVec 2} {off peer : Src}
  (hp : Passes s .no [if remoteAtomic op then .vreg d 1 1 else vdst d (wideEt s), .vsrc o false, .vsrc p false] (h.setWidth 4))
  (ho : readV s false o = .ok (s₁, off)) (hq : readV s₁ false p = .ok (s₂, peer)) (co : Clean (active s.w) off) (cp : Clean (active s.w) peer)
  (hls : ls = (laneList (active s.w)).map fun l =>
    ⟨l, (peer l).val.setWidth 32, (off l).val.setWidth 32, remoteData s.w op d.toNat ((peer l).val.setWidth 32) l⟩)
  (hd : ∀ x ∈ ls, ∀ y ∈ x.data, y.poison = false) (hr : remoteRefused s₂ op (handleAt s.w (h.setWidth 4)) = none)
include hp ho hq co cp hls hd hr

/-- An unpoisoned remote form that is not refused is judged lane by lane, unless no lane is active. -/
theorem remoteForm_next (e : (if ls.isEmpty then .ok (advance s₂) else remoteLanes s₂ op d (h.setWidth 4) ls) = (.ok t : Run State)) :
    remoteForm op d o p h s =
      .next (popQueues [if remoteAtomic op then .vreg d 1 1 else vdst d (wideEt s), .vsrc o false, .vsrc p false] t) := by
  have hw : s₂.w = s.w := (readV_w hq).trans (readV_w ho)
  have clean : (ls.find? fun x => x.data.any (·.poison)) = none := by simpa using hd
  rw [remoteForm]
  refine issue_next hp ?_
  simp only [ho, hq, hw, consumeV_clean cp, consumeV_clean co, ← hls, clean, hr, e]

theorem remoteForm_idle (ha : active s.w = 0#64) : remoteForm op d o p h s =
    .next (popQueues [if remoteAtomic op then .vreg d 1 1 else vdst d (wideEt s), .vsrc o false, .vsrc p false] (advance s₂)) := by
  have empty : ls = [] := by rw [hls, laneList_eq_nil.mpr ha, List.map_nil]
  exact remoteForm_next hp ho hq co cp hls hd hr (if_pos (by rw [empty]; rfl))

theorem remoteForm_sends (ha : active s.w ≠ 0#64)
    (hj : ∀ x ∈ ls, peerBad s₂.b op (hSpace (handleAt s.w (h.setWidth 4)).entry = 3) x.peer = false ∧
      (remoteAtomic op = true → atomType (peerAop x.peer) (peerW64 x.peer) (modeEt s.w) = true) ∧
      (remoteOpd s.w op d x.peer).bad s.w = none ∧ (remoteOpd s.w op d x.peer).pending s₂ = false ∧
      x.off.toNat + remoteSize s.w op x.peer ≤ 2 ^ 32)
    (hm : memReady s₂ = .ok ()) (hf : requestsFree s₂ ls.length = .ok ()) (hl : s.w.remotes.length < 256) : remoteForm op d o p h s =
    .next (popQueues [if remoteAtomic op then .vreg d 1 1 else vdst d (wideEt s), .vsrc o false, .vsrc p false]
      (advance (sendGroups s₂ op (h.setWidth 4) d ls))) := by
  have hw : s₂.w = s.w := (readV_w hq).trans (readV_w ho)
  have some_lane : ¬ ls.isEmpty = true := by simpa [hls, laneList_eq_nil] using ha
  refine remoteForm_next hp ho hq co cp hls hd hr ((if_neg some_lane).trans ?_)
  rw [← hw] at hl
  refine remoteLanes_sends (fun x hx => ?_) hm hf hl
  obtain ⟨word, type, registers, free, inside⟩ := hj x hx
  exact ⟨by rw [hw]; exact word, by rw [hw]; exact type, by rw [hw]; exact registers, by rw [hw]; exact free, by rw [hw]; exact inside⟩

end

/-- An instruction of the remote form is a remote access of the form's operation. -/
theorem givesRemote_of {form : Byte → Byte → Byte → BitVec 2 → Instr} (e : ∀ d o p h s, exec (form d o p h) s = remoteForm op d o p h s) :
    GivesRemote op form := by
  intro s s₁ s₂ d o p h off peer ls hp ho hq co cp hls hd hr
  rw [e]
  exact ⟨remoteForm_idle hp ho hq co cp hls hd hr, remoteForm_sends hp ho hq co cp hls hd hr⟩

end

/-! ### Tether attachment (R334, R335) -/

section
variable {s : State} (hp : Passes s .no [])
include hp

/-- Outside a gang there is no round to join. -/
theorem tattach_outside (hg : s.b.gcount = 0#9) : exec .tattach s = .next (advance s) :=
  exec_ok (show execTattach s = _ from rfl) hp rfl (if_pos hg)

/-- TDETACH with no remote access outstanding. -/
theorem tdetach_next (hr : s.w.remotes = []) :
    exec .tdetach s = .next (advance { s with w := { s.w with detached := s.b.gcount ≠ 0#9 } }) :=
  exec_ok (show execTdetach s = _ from rfl) hp rfl (if_neg (not_not.mpr hr))

variable (hg : s.b.gcount ≠ 0#9) (hd : s.w.detached = false)
include hg hd

/-- The next round, once every earlier access is performed at gang scope. -/
theorem tattach_enters {t : State} (hs : s.w.status ≠ .parked .tattach) (ha : awaitDrained s 3#3 = .ok ())
    (ht : t = { s with w := { s.w with attached := s.w.attached + 1 } }) :
    exec .tattach s = .next (if gangReached t t.w.attached then advance t else { t with w := waiting t.w .tattach, turn := 0 }) := by
  subst ht
  refine exec_ok (show execTattach s = _ from rfl) hp rfl ?_
  simp only [hg, hd, hs, ha, Bool.false_eq_true, ↓reduceIte]
  exact (apply_ite Except.ok ..).symm

theorem tattach_leaves (hs : s.w.status = .parked .tattach) (hr : gangReached s s.w.attached = true) : exec .tattach s = .next (advance s) := by
  refine exec_ok (show execTattach s = _ from rfl) hp rfl ?_
  simp only [hg, hd, hs, hr, Bool.false_eq_true, ↓reduceIte]

theorem tattach_waits (hs : s.w.status = .parked .tattach) (hr : gangReached s s.w.attached = false) :
    exec .tattach s = .next { s with w := waiting s.w .tattach, turn := 0 } := by
  refine exec_park (i := .tattach) (show execTattach s = _ from rfl) hp ?_ rfl
  simp only [hg, hd, hs, hr, Bool.false_eq_true, ↓reduceIte]

end

/-- Settles O29: the five remote forms by their operation, and each case of tattach and tdetach. -/
theorem remoteResult : Obligations.RemoteResult := by
  exact ⟨givesRemote_of fun _ _ _ _ _ => rfl, givesRemote_of fun _ _ _ _ _ => rfl, givesRemote_of fun _ _ _ _ _ => rfl,
    givesRemote_of fun _ _ _ _ _ => rfl, givesRemote_of fun _ _ _ _ _ => rfl, fun s => tattach_outside,
    fun s t hp hg hd => tattach_enters hp hg hd, fun s => tattach_leaves, fun s => tattach_waits, fun s => tdetach_next⟩

end Sys2Proof.Machine

/-! Matrix instructions as they issue (R338 to R345). -/

namespace Sys2Proof.Machine

section
variable {s : State} {form c : BitVec 2} {a b : BitVec 4} {sa sb : BitVec 6} {z : BitVec 1}

/-- A request that waits for its operands has no pair outcome to await (R196). -/
theorem decidePair_issued (s : State) (q : MatReq) : decidePair (matrixIssued s .matrix q) = matrixIssued s .matrix q := by
  have alone : atMmap (matrixIssued s .matrix q).w = none := by simp [atMmap, matrixIssued, waiting]
  rw [decidePair, alone]

/-- With room in the scoreboard a checked request is tracked, and waits (R105, R338). -/
theorem issueMatrix_ok (hb : boardFull s s.w.core = false) (form : BitVec 2) (c : Fin 4) (a b : BitVec 4) (sa sb : Nat) (z : Bool) :
    issueMatrix s form c a b sa sb z = .ok (decidePair (matrixIssued s (if form = 2#2 then .accord else .matrix)
      (matRequest s.w s.hub.nextCmd form c a b sa sb z))) := by
  have room : boardFull (takeIssue s).1 (takeIssue s).1.w.core = false := hb
  rw [takeIssue] at room
  simp only [issueMatrix, takeIssue, room, Bool.and_false, Bool.false_eq_true, ↓reduceIte]
  rfl

variable (hp : Passes s .no [.sregs (sa.setWidth 8) (if form = 1#2 then 4 else 2), .sregs (sb.setWidth 8) 2])
  (hr : MatrixReady s form c a b sa sb z)
include hp hr

/-- The checks of R341 passed, with no lane active: mma and mmat only move on. -/
theorem matrixForm_idle (hf : form ≠ 2#2) (ha : active s.w = 0#64) : matrixForm form c a b sa sb z s = .next (advance s) := by
  obtain ⟨request, work, clean, fault, -, -⟩ := hr
  refine issue_ok hp rfl ?_
  simp only [request, work, clean, fault, hf, ha, sReg, Option.isSome_none, decide_false, Bool.false_and, Bool.false_eq_true, ↓reduceIte,
    ne_eq, not_false_eq_true, decide_true, Bool.and_self]

/-- The checks passed otherwise, mmap's in an accord block: the request is issued. -/
theorem matrixForm_issues (hx : form = 2#2 → s.b.accord = true) (ha : form ≠ 2#2 → active s.w ≠ 0#64) :
    matrixForm form c a b sa sb z s = .next (decidePair (matrixIssued s (if form = 2#2 then .accord else .matrix)
      (matRequest s.w s.hub.nextCmd form c.toFin a b sa.toNat sb.toNat (z = 1#1)))) := by
  obtain ⟨request, work, clean, fault, board, fence⟩ := hr
  have inAccord : (form = 2#2 && !s.b.accord) = false := by simpa using hx
  have acts : (active s.w = 0#64 && form ≠ 2#2) = false := by simpa [not_imp_not] using ha
  refine issue_ok hp rfl ?_
  simp only [request, work, clean, fault, inAccord, acts, fence, sReg, Option.isSome_none, Bool.false_eq_true, ↓reduceIte]
  exact issueMatrix_ok board ..

end

/-- Settles O30: the three forms are one, issued as mma, as mmat, and in an accord block as mmap. -/
theorem matrixIssueResult : Obligations.MatrixIssueResult := by
  refine ⟨fun s c a b sa sb z hp hr ha => ?mma, fun s c a b sa sb z hp hr ha => ?mmat,
    fun s c a b sa sb z hp hr hx => matrixForm_issues hp hr (fun _ => hx) fun h => absurd rfl h,
    fun s c a b sa sb z hp hr ha => matrixForm_idle hp hr (by decide) ha, fun s c a b sa sb z hp hr ha => matrixForm_idle hp hr (by decide) ha⟩
  case mma => exact (matrixForm_issues (form := 0#2) hp hr (fun h => absurd h (by decide)) fun _ => ha).trans (congrArg _ (decidePair_issued ..))
  case mmat => exact (matrixForm_issues (form := 1#2) hp hr (fun h => absurd h (by decide)) fun _ => ha).trans (congrArg _ (decidePair_issued ..))

end Sys2Proof.Machine

/-! Which warps there are, and which is in focus: what accesses in flight leave of it (R127, R388, log entry 10). -/

namespace Sys2Proof.Machine

/-! ### Names of warps -/

/-- The names of the warps, that of the one in focus first. -/
def names (s : State) : List Nat := (allWarps s).map (·.wid)

/-- Bringing the warp of a name into focus changes nothing: it is there already, or no warp has the name. -/
def AtHome (n : Nat) (s : State) : Prop := s.w.wid = n ∨ n ∉ names s

theorem names_mapWarps (s : State) {f : Warp → Warp} (hf : ∀ w, (f w).wid = w.wid) : names (mapWarps s f) = names s := by
  simp [names, allWarps, hf]

theorem names_withW {s : State} {w : Warp} (h : w.wid = s.w.wid) : names { s with w := w } = names s := by
  simp only [names, allWarps, List.map_cons, h]

theorem names_of_offHub {s t : State} (h : t.offHub = s.offHub) : names t = names s := (congrArg names h :)

theorem AtHome.focus (s : State) : AtHome s.w.wid s := .inl rfl

section
variable {s t : State} {n k : Nat}

theorem AtHome.congr (h : AtHome n s) (e : names t = names s) : AtHome n t := by
  rcases h with h | h
  · exact .inl ((List.cons.inj e).1.trans h)
  · exact .inr (by rwa [e])

theorem not_mem_names : n ∉ names s ↔ s.w.wid ≠ n ∧ ∀ v ∈ s.warps, v.wid ≠ n := by
  simp [names, allWarps, eq_comm]

theorem focusOn_atHome (h : AtHome n s) : focusOn s n = s := by
  rcases h with h | h
  · exact if_pos h
  · obtain ⟨away, others⟩ := not_mem_names.mp h
    have absent : (s.warps.find? fun w => w.wid = n) = none := List.find?_eq_none.mpr fun v hv => by simpa using others v hv
    rw [focusOn, if_neg away, absent]

theorem names_refocus (s : State) : names (refocus s) = names s := by
  unfold refocus
  dsimp only
  (repeat' split) <;> rfl

/-- Bringing a warp into focus brings in no name. -/
theorem not_mem_names_focusOn (h : n ∉ names s) : n ∉ names (focusOn s k) := by
  obtain ⟨away, others⟩ := not_mem_names.mp h
  unfold focusOn
  split
  · exact h
  split
  · next w found =>
    rw [names_refocus, not_mem_names]
    refine ⟨others w (List.mem_of_find?_eq_some found), fun v hv => ?_⟩
    rcases List.mem_append.mp hv with hv | hv
    · exact others v (List.mem_filter.mp hv).1
    · split at hv
      · cases hv
      · rw [List.mem_singleton.mp hv]; exact away
  · exact h

/-- A warp brought into focus by its name is there, or no warp has the name. -/
theorem atHome_focusOn (s : State) (n : Nat) : AtHome n (focusOn s n) := by
  unfold focusOn
  split
  · exact .inl ‹_›
  next away =>
  split
  · next found =>
    refine .inl ((List.cons.inj (names_refocus _)).1.trans ?_)
    simpa using List.find?_some found
  · next absent => exact .inr (not_mem_names.mpr ⟨away, fun v hv => by simpa using List.find?_eq_none.mp absent v hv⟩)

/-- An operation made at another warp, and back: a name that was at home is so again. -/
theorem AtHome.visit {f : State → State} (h : AtHome n s) (hf : ∀ u, names (f u) = names u) : AtHome n (focusOn (f (focusOn s k)) s.w.wid) := by
  rcases h with h | h
  · rw [← h]; exact atHome_focusOn _ _
  · exact .inr (not_mem_names_focusOn (by rw [hf]; exact not_mem_names_focusOn h))

/-- An operation of the warp in focus, which may lose the focus but never gives its name to another warp. -/
theorem withWarp_atHome {f : State → State} (ha : AtWarp s s.w.wid) (hf : AtHome s.w.wid (f s)) : withWarp s s.w.wid f = f s := by
  obtain ⟨-, present⟩ := ha
  rw [withWarp, warpOf_focus rfl present, focusOn_self rfl, Option.isSome_some, if_pos rfl, focusOn_atHome hf]

/-- The same of one on its core. -/
theorem onCoreWarp_atHome {f : State → State} (ha : AtCore s s.w.wid) (hf : AtHome s.w.wid (f s)) : onCoreWarp s s.w.wid f = f s := by
  obtain ⟨here, resident⟩ := ha
  have effect : (if s.x.resident = true then f s else s) = f s := if_pos resident
  refine (withWarp_atHome here ?_).trans effect
  simpa only [effect] using hf

/-- What an event of the warp in focus answers: the state that its operation leaves. -/
theorem withWarp_next {f : State → State} (ha : AtWarp s s.w.wid) (e : f s = t) (ht : AtHome s.w.wid t) :
    (.next (withWarp s s.w.wid f) : Host.Outcome State Fault Refusal) = .next t := by
  subst e
  rw [withWarp_atHome ha ht]

theorem onCoreWarp_next {f : State → State} (ha : AtCore s s.w.wid) (e : f s = t) (ht : AtHome s.w.wid t) :
    (.next (onCoreWarp s s.w.wid f) : Host.Outcome State Fault Refusal) = .next t := by
  subst e
  rw [onCoreWarp_atHome ha ht]

theorem withWarp_none {f : State → State} {wid : Nat} (h : warpOf s wid = none) : withWarp s wid f = s := by
  rw [withWarp, h]; rfl

end

/-! ### Accesses at their place -/

section
variable (s : State) (core : Nat)

theorem names_shareLine (pa : Nat) : names (shareLine s core pa) = names s := by
  unfold shareLine; split <;> rfl

theorem names_ownLine (pa : Nat) : names (ownLine s core pa) = names s := by
  unfold ownLine
  simp only []
  (repeat' split) <;> rfl

theorem names_loadAt (c : Bool) (p : Place) (n : Nat) : names (loadAt s core c p n).1 = names s := by
  unfold loadAt
  simp only []
  split
  · rfl
  split
  · rfl
  split
  · rfl
  split
  · rfl
  split <;> split
  · rfl
  · rfl
  · exact names_shareLine s core p.pa
  · exact names_shareLine s core p.pa

theorem names_storeAt (p : Place) (data : List Byte) : names (storeAt s core p data) = names s := by
  unfold storeAt
  split
  · rfl
  split
  · rfl
  split
  · rfl
  · exact names_ownLine s core p.pa

theorem wakeOne_wid (b c : Block) (w : Warp) : (wakeOne b c w).wid = w.wid := by
  unfold wakeOne
  simp only []
  split <;> rfl

theorem names_wakeBarriers (b : Block) : names (wakeBarriers b s) = names s := by
  unfold wakeBarriers
  split
  · rfl
  · exact names_mapWarps s (wakeOne_wid b s.b)

theorem names_readWrite (p : Place) (size : Nat) (f : Nat → Option Nat) : names (readWrite s core p size f).1 = names s := by
  have owned : names (if (p.stash || p.attr = aSc) = true then s else ownLine s core p.pa) = names s := by
    split
    · rfl
    · exact names_ownLine s core p.pa
  have loaded := (names_loadAt (if (p.stash || p.attr = aSc) = true then s else ownLine s core p.pa) core true p size).trans owned
  unfold readWrite
  simp only []
  split
  · exact (names_wakeBarriers _ _).trans ((names_storeAt _ core p _).trans loaded)
  · exact loaded

end

/-! ### Loads in flight (R188) -/

theorem names_performAtom (s : State) (a : AtomJob) : names (performAtom s a).1 = names s := by
  unfold performAtom
  split
  · rfl
  split
  · rfl
  split
  · rfl
  · exact names_readWrite ..

theorem names_performAtoms : ∀ (js : List LaneJob) (s : State), names (performAtoms js s).1 = names s
  | [], _ => rfl
  | j :: js, s => by
    rw [performAtoms]
    refine (names_performAtoms js _).trans ?_
    split
    · exact names_performAtom ..
    · rfl

theorem names_performStep (js : List LaneJob) (s : State) : names (performStep js s).1 = names s := names_performAtoms js s

theorem names_readParked (size : Nat) : ∀ (js : List LaneJob) (s : State), names (readParked size js s).1 = names s
  | [], _ => rfl
  | j :: js, s => by
    rw [readParked]
    refine (names_readParked size js _).trans ?_
    split
    · split
      · rfl
      split
      · rfl
      split
      · rfl
      · exact names_loadAt ..
    · rfl

theorem hubFetch_offHub {s t : State} {x : Ctx} {va n k : Nat} (h : hubFetch s x va n = .ok (t, k)) : t.offHub = s.offHub := by
  unfold hubFetch at h
  split at h
  · cases h
  next placed =>
  split at h
  · cases h
  · have recalled : t = _ := (congrArg Prod.fst (Except.ok.inj h)).symm
    rw [recalled]
    exact (hubPlace_offHub placed :)

theorem names_refillBlock {s t : State} {k : Nat} (h : refillBlock s k = .ok t) : names t = names s := by
  unfold refillBlock at h
  simp only [] at h
  split at h
  · cases h
  split at h
  · cases h
  · cases h; rfl
  next words =>
  have read := names_of_offHub (hubFetch_offHub words)
  split at h
  · cases h
  · cases h; exact read
  next poison =>
  cases h
  exact (names_of_offHub (hubFetch_offHub poison)).trans read

theorem names_refillBlocks (blocks : BitVec 29) (s : State) : names (refillBlocks blocks s) = names s := by
  unfold refillBlocks
  refine foldl_keeps (P := fun t => names t = names s) (fun t k h => ?_) _ rfl
  split
  · next e => exact (names_refillBlock e).trans h
  · exact h

theorem writeV_wid (w : Warp) (wide : Bool) (d : Byte) (m : Mask) (f : Src) : (writeV w wide d m f).wid = w.wid := by
  unfold writeV
  simp only []
  split <;> rfl

theorem writeLoad_wid (w : Warp) (p : PendLoad) : (writeLoad w p).wid = w.wid := by
  unfold writeLoad
  simp only []
  split
  · exact writeV_wid ..
  · split <;> rfl
  · refine foldl_keeps (P := fun u : Warp => u.wid = w.wid) (fun u r h => ?_) _ rfl
    exact h

/-! ### Late faults (R381, R388 to R390) -/

theorem countLost_offHub {s t : State} {x : Ctx} (h : countLost s x = .ok t) : t.offHub = s.offHub := by
  unfold countLost at h
  split at h
  · next fetched => exact (hubPut_offHub h).trans (hubFetch_offHub fetched)
  · cases h

theorem ringWrite_offHub {s t : State} {x : Ctx} {r : BitVec 512} (h : ringWrite s x r = .ok t) : t.offHub = s.offHub := by
  unfold ringWrite at h
  simp only [] at h
  split at h
  · cases h
  next tail =>
  split at h
  · cases h
  next head =>
  have read := (hubFetch_offHub head).trans (hubFetch_offHub tail)
  split at h
  · exact (countLost_offHub h).trans read
  split at h
  · cases h
  next record => exact (hubPut_offHub h).trans ((hubPut_offHub record).trans read)

theorem appendRing_offHub (s : State) (x : Ctx) (r : BitVec 512) : (appendRing s x r).offHub = s.offHub := by
  unfold appendRing
  simp only []
  split
  · rfl
  split
  · next written => exact ringWrite_offHub written
  · rfl
  · have counted (u : State) : (count u 0x0015#16 (x.num.setWidth 32) 1).offHub = u.offHub := rfl
    rw [counted]
    split
    · next lost => exact countLost_offHub lost
    · rfl

theorem names_appendRing (s : State) (x : Ctx) (r : BitVec 512) : names (appendRing s x r) = names s := names_of_offHub (appendRing_offHub s x r)

theorem haltWarp_wid (c : BitVec 16) (k : BitVec 64) (w : Warp) : (haltWarp c k w).wid = w.wid := by
  unfold haltWarp; split <;> rfl

theorem names_haltNode (s : State) (c d : Byte) : names (haltNode s c d) = names s := by
  simp [names, allWarps, haltNode, haltWarp_wid]

theorem names_lateArrives (s : State) (r : BitVec 512) : names (lateArrives s r) = names s := by
  unfold lateArrives
  simp only []
  split
  · exact names_appendRing ..
  · exact names_appendRing ..
  · rfl
  · split
    · exact (names_haltNode ..).trans (names_appendRing ..)
    · exact foldl_keeps (P := fun t => names t = names s) (fun t r h => (names_appendRing t t.x r).trans h) _ rfl

theorem names_raiseAfter (s : State) (pc : VA) (h : BitVec 4) (c d : Byte) (va : VA) (m : Mask) (imp : Bool) :
    names (raiseAfter s pc h c d va m imp) = names s := names_lateArrives ..

theorem names_raiseLate (s : State) (pc : VA) (h : BitVec 4) (c d : Byte) (va : VA) (m : Mask) : names (raiseLate s pc h c d va m) = names s :=
  names_raiseAfter ..

/-- A fault at the block is raised at one of its warps, the focus coming back (R389). -/
theorem AtHome.raiseBlock {s : State} {n : Nat} (h : AtHome n s) (c d : Byte) (va : VA) : AtHome n (raiseBlock s c d va) := by
  unfold Machine.raiseBlock
  simp only []
  split
  · exact h.visit (f := fun t => raiseLate t 0#80 0#4 c d va 0#64) fun t => names_raiseLate ..
  · exact h.congr (names_appendRing (takeSeq s).1 _ _)

end Sys2Proof.Machine

/-! Accesses in flight as they are performed (R120, R138, R188, R388, R389). -/

namespace Sys2Proof.Machine

/-! ### A pending load (R136, R138, R188) -/

/-- A lane still parked on an unpublished line is poisoned (R138). -/
def expireJob (s : State) (j : LaneJob) : LaneJob :=
  match j.plan with
  | .parked x => if unpublished s x then { j with plan := .poison cWosTimeout 0x00 x.va true } else j
  | _ => j

section
variable {s : State} {k : Nat} {p q : PendLoad} (ha : AtCore s s.w.wid) (hk : s.w.loads[k]? = some p)
include ha hk

section
variable {a t u : State} {is js : List LaneJob} (hs : (if atomReady s p then performStep p.jobs s else (s, p.jobs)) = (a, is))
  (hr : readParked p.kind.size is a = (t, js)) (hq : q = { p with jobs := js })
include hs hr

omit ha hk in
/-- The atomics performed and the parked lanes read leave the names as they are. -/
theorem names_lanesRead : names t = names s := by
  have performed : names a = names s := by
    split at hs
    · have performed := names_performStep p.jobs s
      rwa [hs] at performed
    · cases hs; rfl
  have read := names_readParked p.kind.size is a
  rw [hr] at read
  exact read.trans performed

include hq

/-- With no lane left that waits and its registers read back, a load is written to its destination and leaves the list. -/
theorem loadComplete_done (hu : u = refillBlocks (awayBlocks t.w q.regs) t) (hw : q.waits = false) (hb : awayBlocks u.w q.regs = 0#29) :
    exec (.loadComplete s.w.wid k) s = .next { u with
      w := flagDec (recordOrigins (writeLoad { u.w with loads := u.w.loads.eraseIdx k } q) q) p.flag } := by
  subst hq hu
  refine onCoreWarp_next ha ?_ ?_
  · simp only [completeLoad, hk, hs, hr, hw, hb, Bool.false_eq_true, ↓reduceIte, ne_eq, not_true_eq_false, decide_false, Bool.or_self]
  · refine (AtHome.focus s).congr ((names_withW ?_).trans ((names_refillBlocks _ t).trans (names_lanesRead hs hr)))
    rw [flagDec_wid]
    exact writeLoad_wid ..

/-- With a lane that waits it stays, with what was read. -/
theorem loadComplete_stays (hw : q.waits = true) (hn : q ≠ p) :
    exec (.loadComplete s.w.wid k) s = .next { t with w := { t.w with loads := t.w.loads.set k q } } := by
  subst hq
  refine onCoreWarp_next ha ?_ ((AtHome.focus s).congr ((names_withW rfl).trans (names_lanesRead hs hr)))
  simp only [completeLoad, hk, hs, hr, hw, hn, ↓reduceIte, Bool.true_or, setJobs]

/-- With nothing read it only asks for the lines that it needs. -/
theorem loadComplete_asks (hw : q.waits = true) (hn : q = p) :
    exec (.loadComplete s.w.wid k) s = .next { s with m := { s.m with wants := t.m.wants } } := by
  subst hq
  refine onCoreWarp_next ha ?_ (AtHome.focus s)
  simp only [completeLoad, hk, hs, hr, hw, ↓reduceIte, Bool.true_or]
  rw [if_pos hn]

end

omit ha in
/-- Past the limit every lane of the load is so expired. -/
theorem expireLoad_due (hp : p.parked = true) (he : wosExpired s p.since = true) :
    expireLoad k s = setJobs k p (p.jobs.map (expireJob s)) s := by
  simp only [expireLoad, hk, hp, he, Bool.not_true, Bool.or_self, Bool.false_eq_true, ↓reduceIte]
  rfl

theorem wosTimeout_expires (hp : p.parked = true) (he : wosExpired s p.since = true) :
    exec (.wosTimeout s.w.wid k) s = .next (setJobs k p (p.jobs.map (expireJob s)) s) :=
  onCoreWarp_next ha (expireLoad_due hk hp he) (AtHome.focus s)

end

/-! ### The store queue (R120, R127, R141) -/

theorem names_reduceLane (op : BitVec 3) (wide : Bool) (t : BitVec 4) (x : LaneStore) (s : State) : names (reduceLane op wide t x s) = names s := by
  unfold reduceLane
  simp only []
  split
  · exact names_readWrite ..
  · rfl

theorem resolveVa_names {s t : State} {a : Access} {va : Nat} {p : Place} (h : resolveVa s a va = .ok t p) : names t = names s :=
  names_of_offHub (resolveVaOf_offHub h)

section
variable {s : State} {n : Nat} (h : AtHome n s)
include h

theorem AtHome.writeBackMapped (q : MappedLine) : AtHome n (writeBackMapped s q) := by
  unfold Machine.writeBackMapped
  split
  · exact h
  split
  · exact h
  simp only []
  split
  · exact h.raiseBlock ..
  · exact h
  next resolved =>
  have there := h.congr (resolveVa_names resolved)
  split
  · exact there.raiseBlock ..
  · exact there

theorem AtHome.flushLine (x : LaneStore) : AtHome n (flushLine x s).1 := by
  unfold Machine.flushLine
  simp only []
  split
  · exact h
  have written : AtHome n (((mappedAt s x.place.va).filter fun q => q.dirty ≠ 0#128).foldl Machine.writeBackMapped s) :=
    foldl_keeps (P := AtHome n) (fun _ q hs => hs.writeBackMapped q) _ h
  split
  · exact written
  split
  · exact written
  · exact written
  next resolved =>
  have there := written.congr ((resolveVa_names resolved).trans rfl)
  split <;> exact there

/-- One lane performed at its home: the focus may only be lost to a fault at the block. -/
theorem AtHome.performLane (kind : StoreKind) (x : LaneStore) : AtHome n (performLane kind x s).1 := by
  cases kind with
  | store =>
    unfold Machine.performLane
    simp only []
    split
    · exact h
    · exact h.congr ((names_wakeBarriers _ _).trans (names_storeAt ..))
  | red op wide t =>
    unfold Machine.performLane
    simp only []
    split
    · exact h
    · exact h.congr (names_reduceLane ..)
  | flush => exact h.flushLine x
  | inval => exact h
  | pub =>
    unfold Machine.performLane
    simp only []
    split <;> exact h

end

theorem AtHome.performLanes (kind : StoreKind) {n : Nat} :
    ∀ (ls : List LaneStore) {s : State}, AtHome n s → AtHome n (performLanes kind ls s).1
  | [], _, h => h
  | x :: ls, _, h => AtHome.performLanes kind ls (h.performLane kind x)

theorem names_acknowledge (s : State) (sid : Nat) (f : Option (Fin 12)) : names (acknowledge s sid f) = names s := by
  unfold acknowledge
  split
  · rfl
  · exact names_withW (flagDec_wid ..)

section
variable {s : State} {e : StoreEntry} {rest : List StoreEntry} (ha : AtCore s s.w.wid) (hs : s.w.stores = e :: rest)
include ha hs

section
variable {t u : State} {fs : List LaneFault} (hr : entryReady s e = true)
  (hp : performLanes e.kind e.lanes { s with w := { s.w with stores := rest } } = (t, fs))
  (hu : u = acknowledge { t with m := { t.m with sid := s.m.sid + 1 } } s.m.sid e.flag)
include hr hp hu

omit ha hs hr in
theorem atHome_performed : AtHome s.w.wid u := by
  have performed := AtHome.performLanes e.kind e.lanes (s := { s with w := { s.w with stores := rest } }) (.inl rfl)
  rw [hp] at performed
  rw [hu]
  exact performed.congr (names_acknowledge { t with m := { t.m with sid := s.m.sid + 1 } } s.m.sid e.flag)

/-- A ready entry leaves the queue, its lanes performed in order and the store acknowledged. -/
theorem storePerformed_clean (hf : fs = []) : exec (.storePerformed s.w.wid) s = .next u := by
  refine onCoreWarp_next ha ?_ (atHome_performed hp hu)
  simp only [performStore, hs, hr, hp, hf, hu, Bool.not_true, Bool.false_eq_true, ↓reduceIte]

/-- A lane that fails raises one imprecise fault for the entry. -/
theorem storePerformed_fails {f : LaneFault} {gs : List LaneFault} (hf : fs = f :: gs) :
    exec (.storePerformed s.w.wid) s = .next (raiseLate u e.pc e.hreg f.code f.detail f.va (failedMask e fs)) := by
  refine onCoreWarp_next ha ?_ ((atHome_performed hp hu).congr (names_raiseLate ..))
  simp only [performStore, hs, hr, hp, hf, hu, Bool.not_true, Bool.false_eq_true, ↓reduceIte]

end

/-- An entry that is not ready stays, and asks for the lines that it needs. -/
theorem storePerformed_waits (hr : entryReady s e = false) :
    exec (.storePerformed s.w.wid) s = .next (if entryHeld s e then s else wantLanes s e) := by
  refine onCoreWarp_next ha ?_ ?_
  · simp only [performStore, hs, hr, Bool.not_false, ↓reduceIte]
  · split <;> exact AtHome.focus s

end

/-! ### A late fault (R388 to R390) -/

theorem joinLate_room {late : List (BitVec 512)} (h : late.length < 8) (r : BitVec 512) : joinLate late false r = (late ++ [r], false, []) := by
  unfold joinLate
  split
  · next e => rw [List.getLast?_eq_none_iff.mp e]; rfl
  · simp [h]

/-- A ninth record and the newest of eight merge into a summary; both go to the ring. -/
theorem joinLate_full {late : List (BitVec 512)} (h : late.length = 7) (q r : BitVec 512) :
    joinLate (late ++ [q]) false r = (late ++ [summaryOf q 2], true, [q, r]) := by
  simp [joinLate, h]

theorem joinLate_summary (late : List (BitVec 512)) (q r : BitVec 512) :
    joinLate (late ++ [q]) true r = (late ++ [summaryOf q (min 255 ((recDetail q).toNat + 1))], true, [r]) := by
  simp [joinLate]

theorem appendRing_x (s : State) (x : Ctx) (r : BitVec 512) : (appendRing s x r).x = s.x := (congrArg State.x (appendRing_offHub s x r) :)

section
variable {s : State} {r : BitVec 512} (ha : AtWarp s s.w.wid)
include ha

theorem lateFault_eq : exec (.lateFault s.w.wid r) s = .next (lateArrives s r) :=
  withWarp_next ha rfl ((AtHome.focus s).congr (names_lateArrives s r))

theorem lateFault_ended (hd : s.w.status = .done) :
    exec (.lateFault s.w.wid r) s = .next (failNode (appendRing s s.x (withExited r)) s.w.node (recCode r) (recDetail r)) := by
  rw [lateFault_eq ha, lateArrives, hd]

theorem lateFault_halted (hh : s.w.status = .halted) : exec (.lateFault s.w.wid r) s = .next (appendRing s s.x r) := by
  rw [lateFault_eq ha, lateArrives, hh]

variable (hd : s.w.status ≠ .done) (hh : s.w.status ≠ .halted)
include hd hh

omit ha in
theorem lateArrives_live (hv : s.w.status ≠ .vacant) : lateArrives s r = if s.w.rap then haltNode (appendRing s s.x r) (recCode r) (recDetail r)
    else (joinLate s.w.late s.w.summary r).2.2.foldl (fun s r => appendRing s s.x r)
      { s with w := { s.w with late := (joinLate s.w.late s.w.summary r).1, summary := (joinLate s.w.late s.w.summary r).2.1 } } := by
  unfold lateArrives
  split
  · exact absurd ‹_› hd
  · exact absurd ‹_› hh
  · exact absurd ‹_› hv
  · rfl

theorem lateFault_runAhead (hr : s.w.rap = true) :
    exec (.lateFault s.w.wid r) s = .next (haltNode (appendRing s s.x r) (recCode r) (recDetail r)) := by
  rw [lateFault_eq ha, lateArrives_live hd hh ha.2, if_pos hr]

variable (hr : s.w.rap = false)
include hr

/-- A record that joins the queue of a running warp, those merged into its summary going to the ring. -/
theorem lateFault_joins {late merged : List (BitVec 512)} {summary : Bool} (hj : joinLate s.w.late s.w.summary r = (late, summary, merged)) :
    exec (.lateFault s.w.wid r) s =
      .next (merged.foldl (fun t r => appendRing t t.x r) { s with w := { s.w with late := late, summary := summary } }) := by
  rw [lateFault_eq ha, lateArrives_live hd hh ha.2, if_neg (by rw [hr]; decide), hj]

theorem lateFault_room (hl : s.w.late.length < 8) (hs : s.w.summary = false) :
    exec (.lateFault s.w.wid r) s = .next { s with w := { s.w with late := s.w.late ++ [r] } } := by
  refine (lateFault_joins ha hd hh hr ((congrArg (joinLate _ · r) hs).trans (joinLate_room hl r))).trans ?_
  rw [List.foldl_nil, ← hs]

variable {q : BitVec 512} {late : List (BitVec 512)} (hq : s.w.late = late ++ [q])
include hq

theorem lateFault_full (hs : s.w.summary = false) (hl : late.length = 7) : exec (.lateFault s.w.wid r) s = .next (appendRing (appendRing
    { s with w := { s.w with late := late ++ [summaryOf q 2], summary := true } } s.x q) s.x r) := by
  have joined : joinLate s.w.late s.w.summary r = (late ++ [summaryOf q 2], true, [q, r]) := by rw [hq, hs, joinLate_full hl]
  rw [lateFault_joins ha hd hh hr joined]
  simp only [List.foldl_cons, List.foldl_nil, appendRing_x]

theorem lateFault_summary (hs : s.w.summary = true) : exec (.lateFault s.w.wid r) s = .next (appendRing
    { s with w := { s.w with late := late ++ [summaryOf q (min 255 ((recDetail q).toNat + 1))] } } s.x r) := by
  have joined : joinLate s.w.late s.w.summary r = (late ++ [summaryOf q (min 255 ((recDetail q).toNat + 1))], true, [r]) := by
    rw [hq, hs, joinLate_summary]
  rw [lateFault_joins ha hd hh hr joined, List.foldl_cons, List.foldl_nil, ← hs]

end

/-! ### A name that no warp bears -/

theorem accessEvents_none {s : State} {wid : Nat} (h : warpOf s wid = none) (k : Nat) (r : BitVec 512) :
    exec (.loadComplete wid k) s = .next s ∧ exec (.storePerformed wid) s = .next s ∧ exec (.lateFault wid r) s = .next s ∧
      exec (.wosTimeout wid k) s = .next s := by
  have none_there {f : State → State} : Host.Outcome.next (withWarp s wid f) = (.next s : Host.Outcome State Fault Refusal) :=
    congrArg _ (withWarp_none h)
  exact ⟨none_there, none_there, none_there, none_there⟩

/-- Settles O37: each event by the case of its access, its record or its warp. -/
theorem accessEventResult : Obligations.AccessEventResult := by
  refine ⟨fun s a t u k p q is js ha hk hs hr hq hu => ⟨loadComplete_done ha hk hs hr hq hu, loadComplete_stays ha hk hs hr hq,
      loadComplete_asks ha hk hs hr hq⟩,
    fun s t u e rest fs ha hs => ⟨fun hr hp hu => ⟨storePerformed_clean ha hs hr hp hu, fun f gs => storePerformed_fails ha hs hr hp hu⟩,
      storePerformed_waits ha hs⟩,
    fun s r ha => ⟨lateFault_ended ha, lateFault_halted ha, fun hd hh => ⟨lateFault_runAhead ha hd hh, fun hr hl hs => lateFault_room ha hd hh hr hl hs,
      fun q late hr hq => ⟨lateFault_full ha hd hh hr hq, lateFault_summary ha hd hh hr hq⟩⟩⟩,
    fun s k p q ha hk hp he hq => by subst hq; exact wosTimeout_expires ha hk hp he,
    fun s wid k r h => accessEvents_none h k r⟩

end Sys2Proof.Machine

/-! Answers to remote accesses at their source (R331 to R333). -/

namespace Sys2Proof.Machine

/-! ### What sending leaves alone -/

theorem names_sendRequest (s : State) (dst : BitVec 10) (q : RemoteReq) (size retries : Nat) : names (sendRequest s dst q size retries) = names s := by
  unfold sendRequest deliverTo
  split
  · rfl
  · split <;> rfl

theorem names_sendRemote (s : State) (r : Remote) : names (sendRemote s r).1 = names s :=
  (names_sendRequest (takeTag s).1 ..).trans rfl

theorem names_pumpFrom : ∀ (rs done : List Remote) (s : State), names (pumpFrom done rs s).1 = names s
  | [], _, _ => rfl
  | r :: rs, done, s => by
    rw [pumpFrom]
    split
    · exact names_pumpFrom rs ..
    · exact (names_pumpFrom rs ..).trans (names_sendRemote s r)

theorem names_pumpRemotes (s : State) : names (pumpRemotes s) = names s := (names_withW rfl).trans (names_pumpFrom s.w.remotes [] s)

theorem names_replaceRemote (s : State) (r : Remote) (l : List Remote) : names (replaceRemote s r l) = names s := by
  refine (names_pumpRemotes _).trans (names_withW ?_)
  split
  · exact flagDec_wid ..
  split
  · exact flagInc_wid ..
  · rfl

theorem remoteWrite_wid (w : Warp) (r : Remote) (js : List LaneJob) : (remoteWrite w r js).wid = w.wid := writeLoad_wid ..

/-! ### Lanes that fail (R331, R332) -/

section
variable {s : State} {r : Remote} {ls : List Nat} {c d : Byte}

theorem remoteFail_returning (hl : ls ≠ []) (hr : remoteReturns r.op = true) :
    remoteFail s r ls c d = { s with w := remoteWrite s.w r (ls.map fun l => ⟨l, .poison c d 0#80 true⟩) } := by
  rw [remoteFail, if_neg (by simpa using hl), if_pos hr]

theorem remoteFail_other (hl : ls ≠ []) (hr : remoteReturns r.op = false) :
    remoteFail s r ls c d = raiseAfter s r.pc r.hreg c d 0#80 (maskOf ls) (decide (c ≠ cTetherGone)) := by
  rw [remoteFail, if_neg (by simpa using hl), if_neg (by rw [hr]; decide)]

theorem names_remoteFail : names (remoteFail s r ls c d) = names s := by
  unfold remoteFail
  split
  · rfl
  split
  · exact names_withW (remoteWrite_wid ..)
  · exact names_raiseAfter ..

end

/-! ### Answers to an access of the warp in focus -/

section
variable {s : State} {tag : BitVec 16} {r : Remote} (ha : AtWarp s s.w.wid) (ho : remoteOwner s tag = some s.w.wid) (hr : remoteOf s.w tag = some r)
include ha ho hr

/-- ACK: what a returning form asked for is written, and the access ends. -/
theorem ack_next (src : BitVec 10) (data : List DWord) : exec (.ack src tag data) s = .next (replaceRemote { s with w :=
    (if remoteReturns r.op then remoteWrite s.w r (r.lanes.zipIdx.map fun l => ⟨l.1.1, .value (data.getD l.2 0#64)⟩) else s.w) } r []) := by
  show execAck src tag data s = _
  rw [execAck, ho]
  refine withWarp_next ha ?_ ?_
  · simp only [remoteAcked, hr]
  · refine (AtHome.focus s).congr ((names_replaceRemote ..).trans (names_withW ?_))
    split
    · exact remoteWrite_wid ..
    · rfl

/-- RNR with a retry left: the refused lanes wait under a new tag. -/
theorem rnr_retries (src : BitVec 10) (mask : Mask) (why : Byte) (hl : r.retries < s.fab.rnrlimit.toNat) : exec (.rnr src tag mask why) s =
    .next (replaceRemote (takeTag s).1 r [{ r with lanes := r.lanes.filter fun l => !mask.getLsbD l.1 },
      { r with lanes := r.lanes.filter (fun l => mask.getLsbD l.1), tag := (takeTag s).2, sent := false, retries := r.retries + 1
               ready := some (wall s + 1000 * 2 ^ r.retries) }]) := by
  have later : retryTime (takeTag s).1 (r.retries + 1) = wall s + 1000 * 2 ^ r.retries := rfl
  show execRnr src tag mask why s = _
  rw [execRnr, ho]
  refine withWarp_next ha ?_ ((AtHome.focus s).congr ((names_replaceRemote ..).trans rfl))
  simp only [remoteRefusedBy, hr, if_neg (Nat.not_le.mpr hl), later]

/-- RNR at the limit: the refused lanes fail. -/
theorem rnr_exhausts (src : BitVec 10) (mask : Mask) (why : Byte) (hl : s.fab.rnrlimit.toNat ≤ r.retries) : exec (.rnr src tag mask why) s =
    .next (replaceRemote (remoteFail s r (r.lanesIn mask) cRnrExhausted 0x00) r [{ r with lanes := r.lanes.filter fun l => !mask.getLsbD l.1 }]) := by
  show execRnr src tag mask why s = _
  rw [execRnr, ho]
  refine withWarp_next ha ?_ ((AtHome.focus s).congr ((names_replaceRemote ..).trans names_remoteFail))
  simp only [remoteRefusedBy, hr, if_pos hl]

/-- ERR: the named lanes fail. -/
theorem err_next (src : BitVec 10) (mask : Mask) (c d : Byte) : exec (.err src tag mask c d) s =
    .next (replaceRemote (remoteFail s r (r.lanesIn mask) c d) r [{ r with lanes := r.lanes.filter fun l => !mask.getLsbD l.1 }]) := by
  show execErr src tag mask c d s = _
  rw [execErr, ho]
  refine withWarp_next ha ?_ ((AtHome.focus s).congr ((names_replaceRemote ..).trans names_remoteFail))
  simp only [remoteErred, hr]

/-- RNR_RETRY: the lanes are sent again once their time has come. -/
theorem rnrRetry_sends {due : Nat} (hd : r.ready = some due) (hw : due ≤ wall s) : exec (.rnrRetry tag) s = .next { (sendRemote s r).1 with
    w := { (sendRemote s r).1.w with remotes := (sendRemote s r).1.w.remotes.map fun x => if x.tag = tag then (sendRemote s r).2 else x } } := by
  have ready : retryDue s r.ready = true := by rw [hd]; exact decide_eq_true hw
  show execRnrRetry tag s = _
  rw [execRnrRetry, ho]
  refine withWarp_next ha ?_ ((AtHome.focus s).congr ((names_withW rfl).trans (names_sendRemote s r)))
  simp only [remoteRetry, hr, ready, ↓reduceIte]

end

/-! ### Answers to a multicast copy (R333) -/

section
variable {s : State} {tag : BitVec 16} (ho : remoteOwner s tag = none)
include ho

theorem ack_copy (src : BitVec 10) (data : List DWord) :
    exec (.ack src tag data) s = .next (onCopy s tag (fun c => if c.ready.isNone then none else some c) none) := by
  show execAck src tag data s = _
  rw [execAck, ho]

theorem err_copy (src : BitVec 10) (mask : Mask) (c d : Byte) : exec (.err src tag mask c d) s = .next (onCopy s tag
    (fun x => if x.mask &&& ~~~mask = 0#64 then none else some { x with mask := x.mask &&& ~~~mask }) (some (c, d))) := by
  show execErr src tag mask c d s = _
  rw [execErr, ho]

theorem rnrRetry_copy : exec (.rnrRetry tag) s = .next (retryCopy s tag) := by
  show execRnrRetry tag s = _
  rw [execRnrRetry, ho]

end

/-- Settles O51: each answer at the access, or the multicast copy, whose tag it has. -/
theorem remoteAnswerResult : Obligations.RemoteAnswerResult := by
  exact ⟨fun s tag r ha ho hr => ⟨ack_next ha ho hr, rnr_retries ha ho hr, rnr_exhausts ha ho hr, err_next ha ho hr,
      fun due => rnrRetry_sends ha ho hr⟩,
    fun s r ls c d hl => ⟨remoteFail_returning hl, remoteFail_other hl⟩,
    fun s src tag data ho => ⟨ack_copy ho src data, err_copy ho src, rnrRetry_copy ho⟩⟩

end Sys2Proof.Machine

/-! What sending leaves alone (R171, R173, R415). -/

namespace Sys2Proof.Machine

/-- A state differs from another in what is to be sent and in the events to come alone. -/
def OnlySends (s t : State) : Prop := t = { s with inbox := t.inbox, fab := { s.fab with outbox := t.fab.outbox } }

theorem OnlySends.refl (s : State) : OnlySends s s := rfl

section
variable {s t u : State} (h : OnlySends s t)
include h

theorem OnlySends.hub : t.hub = s.hub := (congrArg State.hub h :)
theorem OnlySends.m : t.m = s.m := (congrArg State.m h :)
theorem OnlySends.w : t.w = s.w := (congrArg State.w h :)
theorem OnlySends.fab : t.fab = { s.fab with outbox := t.fab.outbox } := (congrArg State.fab h :)

theorem OnlySends.trans (k : OnlySends t u) : OnlySends s u := by
  unfold OnlySends at h k ⊢
  rw [k, h]

theorem OnlySends.post (i : Instr) : OnlySends s (post t i) := by
  unfold OnlySends at h ⊢
  rw [h]
  rfl

theorem OnlySends.sendOut (k : Message) : OnlySends s (sendOut t k) := by
  unfold OnlySends at h ⊢
  rw [h]
  rfl

theorem OnlySends.deliverTo (d : BitVec 10) (i : Instr) (k : Message) : OnlySends s (deliverTo t d i k) := by
  unfold Machine.deliverTo
  split
  · exact h.post i
  · exact h.sendOut k

theorem OnlySends.foldl {α : Type} {f : State → α → State} (hf : ∀ v a, OnlySends v (f v a)) (l : List α) : OnlySends s (l.foldl f t) :=
  foldl_keeps (P := OnlySends s) (fun v a hv => hv.trans (hf v a)) l h

end

theorem onlySends_tellDomain (s : State) (mop : Byte) (n : Nat) (i : Instr) : OnlySends s (tellDomain s mop n i) :=
  (OnlySends.refl s).foldl (fun v d => (OnlySends.refl v).deliverTo d i _) _

theorem onlySends_tellAbort (s : State) (lost : Bool) : OnlySends s (tellAbort s lost) := by
  unfold tellAbort
  split
  · exact (OnlySends.refl s).foldl (fun v d => (OnlySends.refl v).deliverTo d _ _) _
  · exact onlySends_tellDomain ..

theorem onlySends_escrowNotice (s : State) (d : BitVec 10) (k : Nat) (q : BitVec 7) : OnlySends s (escrowNotice s d k q) := by
  unfold escrowNotice
  split
  · exact .refl s
  · exact (OnlySends.refl s).sendOut _

theorem onlySends_mirrorLine (s : State) (l : Nat) : OnlySends s (mirrorLine s l) := by
  unfold mirrorLine
  split
  · exact .refl s
  · exact (OnlySends.refl s).sendOut _

/-- Bytes of the firmware reservation are written here, and their lines sent (R171, R174). -/
theorem onlySends_hubLog (s : State) (pa : Nat) (data : List Byte) : OnlySends (hubCells s pa data) (hubLog s pa data) :=
  (OnlySends.refl _).foldl onlySends_mirrorLine _

theorem hubLog_hub (s : State) (pa : Nat) (data : List Byte) : (hubLog s pa data).hub = s.hub := (onlySends_hubLog s pa data).hub

end Sys2Proof.Machine

/-! Steps (R224, R228, R239, log entries 7 and 10). -/

namespace Sys2Proof.Machine

section
variable {s : State} (hi : s.inbox = [])
include hi

theorem step_turn (ht : s.turn ≠ 0) : step s = stepWarp { tick s with turn := s.turn - 1 } := by
  have inbox : (tick s).inbox = [] := hi
  have turn : (tick s).turn = s.turn := rfl
  simp only [step, inbox, turn, if_neg ht]

theorem step_others (ht : s.turn = 0) : step s = stepOthers (tick s) := by
  have inbox : (tick s).inbox = [] := hi
  have turn : (tick s).turn = s.turn := rfl
  simp only [step, inbox, turn, if_pos ht]

end

/-- The clock leaves what the warp in focus does or waits for. -/
theorem tick_status (s : State) : (tick s).w.status = s.w.status := by
  show Warp.status (if _ then _ else _) = _
  split <;> rfl

/-- The turn of a warp begun: a block of which a warp runs is not stuck (R391). -/
def noteRunning (s : State) : State := { s with b := if s.w.status = .running then { s.b with stuckSince := none } else s.b }

theorem mayIssue_noteRunning (s : State) : mayIssue (noteRunning s) = mayIssue s := by
  unfold noteRunning
  split <;> rfl

section
variable {s : State} (hm : mayIssue (noteRunning s) = true) (hr : s.w.rap = false)
  (hw : s.w.status = .running ∨ ∃ p, s.w.status = .parked p ∧ p ≠ .sleep)
include hm hr hw

/-- A warp that may issue, and runs or waits for anything but a sleep, takes its turn at the boundary (R387). -/
theorem stepWarp_issues : stepWarp s = stepIssue (noteRunning s) := by
  have may : mayIssue s = true := mayIssue_noteRunning s ▸ hm
  rcases hw with run | ⟨p, wait, awake⟩
  · simp only [stepWarp, noteRunning, may, hr, run, Bool.not_true, Bool.false_and, Bool.false_eq_true, ↓reduceIte]
  · simp only [stepWarp, noteRunning, may, hr, wait, if_neg awake, Bool.not_true, Bool.false_and, Bool.false_eq_true, reduceCtorEq, ↓reduceIte]

/-- With nothing due at the boundary it goes on with its next word. -/
theorem stepWarp_issueWord (hb : boundaryTrap (noteRunning s) = none) : stepWarp s = issueWord (noteRunning s) := by
  rw [stepWarp_issues hm hr hw, stepIssue, hb]

end

section
variable {s t v : State} {i : Instr} {c : BitVec 512}

/-- Within the clause in the instruction buffer the decoded word is performed, unless it still waits for flags (R228). -/
theorem issueWord_within (he : s.w.enter = false) (hf : s.w.status = .parked .flags → flagsHold s.w = false)
    (hd : decodeWord (currentWord s.w) = .ok i) : issueWord s = exec i s := by
  have entered : enterClause s = .ok s := by simp only [enterClause, he, Bool.not_false, ↓reduceIte]
  have free : heldByFlags s.w s.w = false := by simpa [heldByFlags, he] using hf
  simp only [issueWord, entered, free, hd, Bool.false_eq_true, ↓reduceIte]

/-- An entry whose checks pass puts the clause in the instruction buffer (R228). -/
theorem enterClause_ok (he : s.w.enter = true) (hc : fetchClause s (clauseVa s.w.pc).toNat = .ok (t, c)) (hh : headerOk c = true)
    (hl : 1 ≤ wordIndex s.w.pc) (hu : wordIndex s.w.pc ≤ 15 - bitsNat c 9 3) :
    enterClause s = .ok { t with w := { t.w with clause := c, enter := false } } := by
  have named : ¬(wordIndex s.w.pc = 0 ∨ 15 - bitsNat c 9 3 < wordIndex s.w.pc) := by omega
  simp only [enterClause, he, hc, hh, named, Bool.not_true, Bool.or_eq_true, decide_eq_true_eq, Bool.false_eq_true, ↓reduceIte]

/-- After an entry that the WAIT mask does not hold back the decoded word is performed (R228). -/
theorem issueWord_entered (he : enterClause s = .ok v) (hf : flagsHold v.w = false) (hd : decodeWord (currentWord v.w) = .ok i) :
    issueWord s = exec i v := by
  simp only [issueWord, he, heldByFlags, hf, hd, Bool.and_false, Bool.false_eq_true, ↓reduceIte]

end

/-- Settles O56: an event first, else the word of the warp in focus, else the turn of the agents beside the warps. That the inbox comes first,
how turns are counted and that a step is one clock are the model's choices (log entries 7 and 10). -/
theorem stepRunsDecoded : Obligations.StepRunsDecoded := by
  refine ⟨fun s i rest => step_event, fun s u i hi ht hu hm hr hw hb => ?_, fun s u hi ht hu => ?_⟩
  · obtain rfl : u = noteRunning { tick s with turn := s.turn - 1 } := by
      rw [hu, noteRunning, tick_status]
    rw [step_turn hi ht, stepWarp_issueWord hm hr hw hb]
    refine ⟨issueWord_within, fun t v c he hc hh hl hu hv hf hd => ?_⟩
    subst hv
    exact issueWord_entered (enterClause_ok he hc hh hl hu) hf hd
  · rw [step_others hi ht, hu]
    unfold stepOthers
    generalize background (tick s) = v
    dsimp only <;> rfl

end Sys2Proof.Machine

/-! The pool of nodes, from a card to its completion (R210 to R222, R466). -/

namespace Sys2Proof.Machine

/-! ### Acceptance (R210, log entry 24) -/

/-- The card at the head of a queue. -/
def fetchCard (s : State) (q : SubQueue) : HubRun (State × Nat) :=
  hubFetch s (ctxFor s (qCtx q.desc)) (qRing q.desc + 256 * (q.head.toNat % qSlots q.desc)) 256

section
variable {s t u w v : State} {q : SubQueue} {c : Nat} {p : Place}

/-- The state after a card has entered the pool: its queue's turn is over and HEAD is one higher, here and in memory. -/
def countCard (v : State) (q : SubQueue) (p : Place) : State :=
  placePut { v with hub := { v.hub with turn := q.num + 1#10, queues :=
    (v.hub.queues.map fun r => if r.num = q.num then { r with head := q.head + 1#64 } else r) } } p (bytesOfNat 8 (q.head + 1#64).toNat)

theorem cardAccept_none (h : hubHeld s.hub = true ∨ acceptPauses s = true ∨ nextQueue s = none) : exec .cardAccept s = .next s := by
  refine congrArg Host.Outcome.next ?_
  rcases h with h | h | h
  · exact if_pos (by rw [h, Bool.true_or])
  · exact if_pos (by rw [h, Bool.or_true])
  · rw [h, ite_self]

section
variable (hh : hubHeld s.hub = false) (hp : acceptPauses s = false) (hq : nextQueue s = some q)
include hh hp hq

theorem cardAccept_from : exec .cardAccept s = .next (acceptFrom s q) := by
  refine congrArg Host.Outcome.next ?_
  rw [hh, hp, hq]
  rfl

/-- A card that cannot be read faults its queue (R209). -/
theorem cardAccept_unreadable {f : TrapInfo} (hc : fetchCard s q = .error (some f)) : exec .cardAccept s = .next ((faultQueue s q f).getD s) := by
  rw [cardAccept_from hh hp hq, acceptFrom, ← fetchCard, hc]

variable (hc : fetchCard s q = .ok (t, c)) (hv : hubPlace t (ctxFor s (qCtx q.desc)) .store (qHeadVa q.desc) = .ok (u, p))
include hc hv

theorem cardAccept_enters {bad : Option TrapInfo} (hb : checkCard u (ctxFor s (qCtx q.desc)) (BitVec.ofNat 2048 c) = some (w, bad)) :
    exec .cardAccept s = .next (countCard (enterCard (nextSeq w).1 q (nextSeq w).2 (BitVec.ofNat 2048 c) bad) q p) := by
  rw [cardAccept_from hh hp hq, acceptFrom, ← fetchCard, hc]
  simp only [hv, hb]
  rfl

/-- A card whose checks must wait stays in its ring (R47, R63). -/
theorem cardAccept_waits (hb : checkCard u (ctxFor s (qCtx q.desc)) (BitVec.ofNat 2048 c) = none) : exec .cardAccept s = .next u := by
  rw [cardAccept_from hh hp hq, acceptFrom, ← fetchCard, hc]
  simp only [hv, hb]

end

end

/-! ### Waits (R217) -/

section
variable {s : State} {n : Node} (hn : nodeOf s n.seq = some n) (hs : n.stopped = false)
include hn hs

/-- A wait that has not latched is noted once it holds. -/
theorem tryWait_next {i : Nat} (hl : (if i = 0 then n.latched0 else n.latched1) = false) {holds : Bool}
    (he : evalWait s (ctxFor s n.ctx) n.card i = .ok holds) : tryWait s n.seq i =
      if holds then putNode s (if i = 0 then { n with latched0 := true } else { n with latched1 := true }) else s := by
  simp only [tryWait, hn, hl, hs, he, Bool.or_self, Bool.false_eq_true, ↓reduceIte]
  cases holds <;> rfl

end

/-! ### The order of dispatch (R220) -/

section
variable {s : State}

theorem mem_insertNode {n k : Node} : ∀ {l : List Node}, k ∈ insertNode s n l ↔ k = n ∨ k ∈ l
  | [] => by simp [insertNode]
  | m :: t => by
    rw [insertNode]
    split
    · exact List.mem_cons
    · rw [List.mem_cons, mem_insertNode, List.mem_cons]
      exact or_left_comm

/-- The nodes of a list stand in the order of their ranks. -/
def Ranked (s : State) (l : List Node) : Prop := l.Pairwise fun n m => nodeRank s n ≤ nodeRank s m

theorem Ranked.insertNode {n : Node} : ∀ {l : List Node}, Ranked s l → Ranked s (insertNode s n l)
  | [], _ => List.pairwise_singleton ..
  | m :: t, h => by
    obtain ⟨first, rest⟩ := List.pairwise_cons.mp h
    rw [Machine.insertNode]
    split
    next le => exact List.pairwise_cons.mpr ⟨List.forall_mem_cons.mpr ⟨le, fun k hk => le.trans (first k hk)⟩, h⟩
    next gt =>
      refine List.pairwise_cons.mpr ⟨fun k hk => ?_, Ranked.insertNode rest⟩
      rcases mem_insertNode.mp hk with rfl | hk
      · exact (Nat.lt_of_not_le gt).le
      · exact first k hk

theorem ranked_foldr_insertNode (l : List Node) : Ranked s (l.foldr (insertNode s) []) := by
  induction l with
  | nil => exact List.Pairwise.nil
  | cons n l ih => exact ih.insertNode

theorem mem_foldr_insertNode {k : Node} (l : List Node) : k ∈ l.foldr (insertNode s) [] ↔ k ∈ l := by
  induction l with
  | nil => rfl
  | cons n l ih => rw [List.foldr_cons, mem_insertNode, ih, List.mem_cons]

theorem ranked_dispatchOrder : Ranked s (dispatchOrder s) := ranked_foldr_insertNode _

theorem mem_dispatchOrder {n : Node} : n ∈ dispatchOrder s ↔ n ∈ s.hub.nodes ∧ mayDispatch s n = true := by
  rw [dispatchOrder, mem_foldr_insertNode, List.mem_filter]

/-- The node chosen may be dispatched and fits; one before it that does too is held back by a node that has been passed over (R220). -/
theorem dispatchChoice_spec {n : Node} (h : dispatchChoice s = some n) : n ∈ s.hub.nodes ∧ mayDispatch s n = true ∧ nodeFits s n = true ∧
    ∀ m ∈ s.hub.nodes, mayDispatch s m = true → nodeFits s m = true → nodeRank s m < nodeRank s n →
      ∃ k ∈ s.hub.nodes, mayDispatch s k = true ∧ holdsBack s k m = true := by
  obtain ⟨chosen, before, after, split, refused⟩ := List.find?_eq_some_iff_append.mp h
  have ranked : Ranked s (before ++ n :: after) := split ▸ ranked_dispatchOrder
  have member : n ∈ dispatchOrder s := split ▸ List.mem_append_right _ List.mem_cons_self
  obtain ⟨hn, may⟩ := mem_dispatchOrder.mp member
  refine ⟨hn, may, (Bool.and_eq_true_iff.mp chosen).1, fun m hm mayM fitsM less => ?_⟩
  have earlier : m ∈ before := by
    have there : m ∈ before ++ n :: after := split ▸ mem_dispatchOrder.mpr ⟨hm, mayM⟩
    obtain ⟨-, tail, -⟩ := List.pairwise_append.mp ranked
    rcases List.mem_append.mp there with hb | ha
    · exact hb
    rcases List.mem_cons.mp ha with rfl | ha
    · exact absurd less (Nat.lt_irrefl _)
    · exact absurd ((List.pairwise_cons.mp tail).1 m ha) (Nat.not_le.mpr less)
  have held : ((dispatchOrder s).any fun k => holdsBack s k m) = true := by
    have no := refused m earlier
    rw [fitsM, Bool.true_and, Bool.not_not] at no
    exact no
  obtain ⟨k, hk, holds⟩ := List.any_eq_true.mp held
  obtain ⟨hk, mayK⟩ := mem_dispatchOrder.mp hk
  exact ⟨k, hk, mayK, holds⟩

end

/-! ### Dispatch (R221) -/

section
variable {s : State} {n : Node}

theorem nodeDispatch_next (hh : hubHeld s.hub = false) (hc : dispatchChoice s = some n) : exec .nodeDispatch s = .next (dispatchNode s n) := by
  refine congrArg Host.Outcome.next ?_
  rw [hh, hc]
  rfl

theorem nodeDispatch_none (h : hubHeld s.hub = true ∨ dispatchChoice s = none) : exec .nodeDispatch s = .next s := by
  refine congrArg Host.Outcome.next ?_
  rcases h with h | h
  · exact if_pos h
  · rw [h, ite_self]

theorem dispatchNode_cmd (hk : cardKind n.card ≠ 0) : dispatchNode s n =
    startCmds { countDispatch (beginNode s n) n with
      cmds := (countDispatch (beginNode s n) n).cmds ++ [nodeCmd s n]
      hub := { (countDispatch (beginNode s n) n).hub with nextCmd := (countDispatch (beginNode s n) n).hub.nextCmd + 1 } } :=
  if_neg hk

theorem dispatchNode_block {core : Nat} (hk : cardKind n.card = 0) (hl : n.leader = none) (hg : cardGcount n.card = 0)
    (hp : placeOf s (cardShape n.card) = some core) :
    dispatchNode s n = (launchBlock (countDispatch (beginNode s n) n) n n.seq n.dispatched core []).getD s := by
  rw [dispatchNode, if_pos hk, hl, hg, hp]
  rfl

end

/-! ### What the journal leaves alone (R212) -/

theorem journalNode_hub (s : State) (n : Node) : (journalNode s n).hub = s.hub := hubLog_hub ..

/-- The numbers of the nodes in the pool. -/
def poolSeqs (s : State) : List DWord := s.hub.nodes.map (·.seq)

theorem nodeOf_eq_none {s : State} {q : DWord} : nodeOf s q = none ↔ q ∉ poolSeqs s := by
  simp [nodeOf, poolSeqs]

theorem poolSeqs_putNode (s : State) (n : Node) : poolSeqs (putNode s n) = poolSeqs s := by
  rw [poolSeqs, poolSeqs, putNode, List.map_map]
  refine List.map_congr_left fun m _ => ?_
  rw [Function.comp_apply]
  split
  · next h => exact h.symm
  · rfl

/-- What becomes ready neither enters nor leaves the pool, and stops no context (R219). -/
def SamePool (s t : State) : Prop := poolSeqs t = poolSeqs s ∧ t.hub.stopped = s.hub.stopped

theorem SamePool.trans {s t u : State} (h : SamePool s t) (k : SamePool t u) : SamePool s u := ⟨k.1.trans h.1, k.2.trans h.2⟩

theorem samePool_putNode (s : State) (n : Node) : SamePool s (putNode s n) := ⟨poolSeqs_putNode s n, rfl⟩

theorem samePool_journalNode (s : State) (n : Node) : SamePool s (journalNode s n) := by
  unfold SamePool poolSeqs
  rw [journalNode_hub]
  exact ⟨rfl, rfl⟩

theorem makeReady_samePool (s : State) (n : Node) : SamePool s (makeReady s n) := by
  unfold makeReady
  dsimp only
  split
  · exact (samePool_putNode s _).trans (samePool_journalNode _ _)
  · exact ⟨rfl, rfl⟩

theorem refreshReady_samePool (s : State) : SamePool s (refreshReady s) :=
  foldl_keeps (P := SamePool s) (fun t n ht => ht.trans (makeReady_samePool t n)) s.hub.nodes ⟨rfl, rfl⟩

/-! ### Completion (R222) -/

section
variable {s u : State} {n : Node}

theorem settleJhead_nodes (s : State) : (settleJhead s).hub.nodes = s.hub.nodes := by
  unfold settleJhead
  dsimp only

theorem retireNode_nodes (s : State) (n : Node) : (retireNode s n).hub.nodes = s.hub.nodes.filter fun m => m.seq ≠ n.seq := by
  unfold retireNode
  dsimp only
  rw [settleJhead_nodes]

theorem retireNode_gone (s : State) (n : Node) : nodeOf (retireNode s n) n.seq = none := by
  rw [nodeOf_eq_none, poolSeqs, retireNode_nodes]
  simp

theorem mem_stopCtx (s : State) (c : BitVec 16) : c ∈ (stopCtx s c).hub.stopped := by
  unfold stopCtx
  dsimp only
  split
  · next h => exact List.contains_iff_mem.mp h
  · exact List.mem_cons_self

/-- A node that has been sealed is in the pool no longer, and its context is stopped where it ended FAULTED. -/
theorem sealAs_spec {st : NodeState} (h : sealAs s n st = some u) : nodeOf u n.seq = none ∧ (st = .faulted → n.ctx ∈ u.hub.stopped) := by
  obtain ⟨v, -, rfl⟩ := Option.map_eq_some_iff.mp h
  have gone := retireNode_gone v { n with state := st }
  split
  · exact ⟨gone, fun _ => mem_stopCtx _ _⟩
  · next h => exact ⟨gone, fun hf => absurd hf h⟩

theorem sealNode_spec (h : sealNode s n = some u) : nodeOf u n.seq = none ∧ (n.fcode ≠ 0#8 → n.ctx ∈ u.hub.stopped) := by
  obtain ⟨gone, stops⟩ := sealAs_spec h
  exact ⟨gone, fun hf => stops (if_neg hf)⟩

/-- A card without signals performs none. -/
theorem applySignals_none {x : Ctx} {c : BitVec 2048} (h : (cardSignal c 0).1 = false ∧ (cardSignal c 1).1 = false) : applySignals s x c = .ok s := by
  simp only [applySignals, List.foldl_cons, List.foldl_nil, h.1, h.2, Bool.not_false, ↓reduceIte]

theorem completeNode_unsignalled (h : n.fcode ≠ 0#8 ∨ n.leader.isSome = true ∨ ((cardSignal n.card 0).1 = false ∧ (cardSignal n.card 1).1 = false))
    (hu : sealNode s n = some u) : completeNode s n = u := by
  unfold completeNode
  split
  · rw [hu, Option.getD_some]
  next no =>
  rcases h with h | h | h
  · exact absurd (by simp [h]) no
  · exact absurd (by simp [h]) no
  · simp only [applySignals_none h, hu, Option.getD_some]

section
variable (hf : n.fcode = 0#8) (hl : n.leader = none)
include hf hl

theorem completeNode_signalled : completeNode s n = match applySignals s (ctxFor s n.ctx) n.card with
    | .ok t => (sealNode t n).getD s
    | .error none => s
    | .error (some t) => endFaulted s n t :=
  if_neg (by rw [hf, hl]; decide)

end

section
variable (hn : nodeOf s n.seq = some n)
include hn

theorem nodeComplete_over (ho : nodeOver s n = true) (hs : hubSealed s.hub = false) :
    exec (.nodeComplete n.seq) s = .next (refreshReady (completeNode s n)) := by
  show execNodeComplete n.seq s = _
  simp only [execNodeComplete, hn, ho, hs, Bool.not_false, Bool.and_self, ↓reduceIte]

theorem nodeComplete_waits (h : nodeOver s n = false ∨ hubSealed s.hub = true) : exec (.nodeComplete n.seq) s = .next s := by
  show execNodeComplete n.seq s = _
  simp only [execNodeComplete, hn]
  exact congrArg _ (if_neg (by rcases h with h | h <;> simp [h]))

theorem nodeWatchdog_next : exec (.nodeWatchdog n.seq) s = .next (if watchdogDue s n = true then
    stopRunning (faultNode s (ctxFor s n.ctx) n.seq { code := cTimer, detail := 0x01 }) n else s) := by
  show execNodeWatchdog n.seq s = _
  simp only [execNodeWatchdog, hn]

end

end

theorem nodeEvents_none {s : State} {q : DWord} (h : nodeOf s q = none) : exec (.nodeComplete q) s = .next s ∧ exec (.nodeWatchdog q) s = .next s := by
  constructor
  · show execNodeComplete q s = _
    simp only [execNodeComplete, h]
  · show execNodeWatchdog q s = _
    simp only [execNodeWatchdog, h]

/-- Settles O43: each event by the equation of its case, a completion by what its record and its signals do. HEADVA is found writable before the
card takes its number, and faults follow their records, as log entry 24 reads the rules; what a cut holds is log entry 27's. -/
theorem cardAndDispatchResult : Obligations.CardAndDispatchResult := by
  refine ⟨fun s t u w q c p bad hh hp hq hc hv hb => ⟨_, rfl, cardAccept_enters hh hp hq hc hv hb⟩,
    fun s t u q c p hh hp hq hc => cardAccept_waits hh hp hq hc, fun s q f hh hp hq hc => cardAccept_unreadable hh hp hq hc, fun s => cardAccept_none, fun s c => rfl,
    fun s n hn hs => ⟨fun hl => tryWait_next (i := 0) hn hs hl, fun hl => tryWait_next (i := 1) hn hs hl, fun hl => tryWait_next (i := 0) hn hs hl⟩,
    fun s n hh hc => ⟨nodeDispatch_next hh hc, dispatchChoice_spec hc⟩,
    fun s t n ht => ⟨fun hk => ?command, fun core hk hl hg hp => ?block⟩, fun s => nodeDispatch_none, fun s => rfl,
    fun s n hn ho hs => ⟨fun u h hu => ?retires, fun u v hf hl hu hv => ?signals, fun f hf hl hu => ?faults⟩,
    fun s n => nodeComplete_waits, fun s n hn => ⟨fun due => ?due, fun idle => ?idle⟩, fun s q => nodeEvents_none⟩
  case command => rw [ht, dispatchNode_cmd hk]
  case block => rw [ht, dispatchNode_block hk hl hg hp]
  case retires =>
    obtain ⟨gone, stops⟩ := sealNode_spec hu
    obtain ⟨seqs, stopped⟩ := refreshReady_samePool u
    refine ⟨_, rfl, by rw [nodeComplete_over hn ho hs, completeNode_unsignalled h hu], ?_, fun hf => stopped ▸ stops hf⟩
    rw [nodeOf_eq_none, seqs]
    exact nodeOf_eq_none.mp gone
  case signals => simp only [nodeComplete_over hn ho hs, completeNode_signalled hf hl, hu, hv, Option.getD_some]
  case faults => simp only [nodeComplete_over hn ho hs, completeNode_signalled hf hl, hu]
  case due => rw [nodeWatchdog_next hn, if_pos due]
  case idle => rw [nodeWatchdog_next hn, if_neg (by simp [idle])]

end Sys2Proof.Machine

/-! Intervals: cuts, votes and commits (R168 to R175; log entries 28 and 49). -/

namespace Sys2Proof.Machine

/-! ### Cuts (R169, R170) -/

section
variable {s : State}

theorem intervalCut_next : exec .intervalCut s = .next (if cutDue s = true then issueCut s else s) := rfl

theorem undoLogFull_none (h : undoFull s = false) : exec .undoLogFull s = .next s := congrArg Host.Outcome.next (if_pos (by rw [h]; rfl))

section
variable (h : undoFull s = true)
include h

theorem undoLogFull_manager (hm : s.fab.fm = true) : exec .undoLogFull s = .next (issueCut s) :=
  congrArg Host.Outcome.next ((if_neg (by rw [h]; decide)).trans (if_pos hm))

/-- Elsewhere the manager is asked for the cut (log entry 28). -/
theorem undoLogFull_other (hm : s.fab.fm = false) : exec .undoLogFull s = .next (requestCut s) :=
  congrArg Host.Outcome.next ((if_neg (by rw [h]; decide)).trans (if_neg (by rw [hm]; decide)))

end

section
variable {n : Nat}

theorem cut_none (h : n ≠ s.m.interval ∨ s.hub.cutting = true) : exec (.cut n) s = .next s :=
  congrArg Host.Outcome.next (if_pos (by rcases h with h | h <;> simp [h]))

section
variable (hn : n = s.m.interval) (hc : s.hub.cutting = false)
include hn hc

theorem cut_open : exec (.cut n) s = .next (if (s.fab.fm && decide (s.hub.cutNumber ≠ n)) = true then issueCut s
    else { s with hub := { s.hub with cutting := true, cutReported := false } }) :=
  congrArg Host.Outcome.next (if_neg (by simp [hn, hc]))

theorem cut_stops (h : s.fab.fm = false ∨ s.hub.cutNumber = n) :
    exec (.cut n) s = .next { s with hub := { s.hub with cutting := true, cutReported := false } } := by
  rw [cut_open hn hc, if_neg (by rcases h with h | h <;> simp [h])]

/-- The manager passes on a cut that another device asks for. -/
theorem cut_passedOn (hm : s.fab.fm = true) (h : s.hub.cutNumber ≠ n) : exec (.cut n) s = .next (issueCut s) := by
  rw [cut_open hn hc, if_pos (by simp [hm, h])]

end

end

section
variable {n : Nat} {d : BitVec 10}

theorem cutdone_none (h : s.fab.fm = false ∨ s.hub.cutting = false ∨ n ≠ s.m.interval) : exec (.cutdone n d) s = .next s :=
  congrArg Host.Outcome.next (if_pos (by rcases h with h | h | h <;> simp [h]))

/-- A report of a cut noted. -/
def noteCutDone (s : State) (d : BitVec 10) : State := { s with hub := { s.hub with cutsDone := d :: s.hub.cutsDone } }

theorem cutdone_noted (hm : s.fab.fm = true) (hc : s.hub.cutting = true) (hd : d ∉ s.hub.cutsDone) : exec (.cutdone s.m.interval d) s =
    .next (if (domainMembers s.fab).all (d :: s.hub.cutsDone).contains = true
      then tellDomain (noteCutDone s d) 0x22 s.m.interval (.resume s.m.interval) else noteCutDone s d) := by
  have noted : (if s.hub.cutsDone.contains d = true then s.hub.cutsDone else d :: s.hub.cutsDone) = d :: s.hub.cutsDone := if_neg (by simpa using hd)
  refine congrArg Host.Outcome.next ((if_neg (by simp [hm, hc])).trans ?_)
  simp only [noted]
  rfl

end

/-! ### The next interval (R168, R171) -/

theorem resume_none {n : Nat} (h : s.hub.cutting = false ∨ s.hub.cutReported = false ∨ n ≠ s.m.interval) : exec (.resume n) s = .next s :=
  congrArg Host.Outcome.next (if_pos (by rcases h with h | h | h <;> simp [h]))

/-- What a stream of mirror pages leaves alone: the memories, the warp, and the hub but for its three lists. -/
theorem streamMirror_eq (s : State) : ∃ q r p o, streamMirror s = { s with
    fab := { s.fab with outbox := o }, hub := { s.hub with mirrorQueue := q, mirrorSent := r, mirrorPending := p } } := by
  unfold streamMirror
  dsimp only
  split
  · exact ⟨_, _, _, _, rfl⟩
  · exact ⟨_, _, _, _, rfl⟩

theorem queueMirror_eq (s : State) (n : Nat) (fs : List Nat) : ∃ q, queueMirror s n fs = { s with hub := { s.hub with mirrorQueue := q } } := by
  unfold queueMirror
  split
  · exact ⟨_, rfl⟩
  · exact ⟨_, rfl⟩

/-- The interval after `n` opened, with the checkpoint configuration last written; the vote on `n` is due. -/
def openNext (s : State) (n : Nat) : State :=
  { s with
    m := { s.m with interval := n + 1 }
    hub := { s.hub with cutting := false, cutReported := false, ckptcfg := s.hub.ckptNext, votesDue := s.hub.votesDue ++ [n] } }

theorem resume_next (hc : s.hub.cutting = true) (hr : s.hub.cutReported = true) : exec (.resume s.m.interval) s = .next (streamMirror (openNext
    (queueMirror (keepSnapshot s) s.m.interval (writtenFrames s.m s.m.interval)) s.m.interval)) :=
  congrArg Host.Outcome.next (if_neg (by simp [hc, hr]))

theorem resume_opens (hc : s.hub.cutting = true) (hr : s.hub.cutReported = true) : ∃ t, exec (.resume s.m.interval) s = .next t ∧
    t.m.interval = s.m.interval + 1 ∧ t.hub.cutting = false ∧ t.hub.ckptcfg = s.hub.ckptNext ∧ t.hub.votesDue = s.hub.votesDue ++ [s.m.interval] ∧
    t.m.cells = s.m.cells ∧ t.w = s.w := by
  refine ⟨_, resume_next hc hr, ?_⟩
  obtain ⟨q, hq⟩ := queueMirror_eq (keepSnapshot s) s.m.interval (writtenFrames s.m s.m.interval)
  rw [hq]
  obtain ⟨_, _, _, _, hs⟩ := streamMirror_eq (openNext { keepSnapshot s with hub := { (keepSnapshot s).hub with mirrorQueue := q } } s.m.interval)
  rw [hs]
  exact ⟨rfl, rfl, rfl, rfl, rfl, rfl⟩

end

/-! ### Votes (R173) -/

section
variable {s : State} {n : Nat} {d : BitVec 10}

theorem vote_elsewhere (hm : s.fab.fm = false) (b : Bool) : exec (.vote n d b) s = .next s := congrArg Host.Outcome.next (if_pos (by rw [hm]; rfl))

/-- A sound vote noted: its device counts as dead no more (R182). -/
def noteVote (s : State) (n : Nat) (d : BitVec 10) : State :=
  { s with hub := { s.hub with votes := (n, d) :: s.hub.votes.filter (· ≠ (n, d)), frail := s.hub.frail.filter (· ≠ d) } }

/-- The votes for the next interval in order are complete, and no rebuild holds the commit back. -/
def votesComplete (s : State) (n : Nat) : Bool :=
  n = s.hub.lastCommit + 1 && !s.hub.rebuild && (domainMembers s.fab).all fun e => s.hub.votes.contains (s.hub.lastCommit + 1, e)

theorem mem_noteVote {e : BitVec 10} : (n, e) ∈ (noteVote s n d).hub.votes ↔ e = d ∨ (n, e) ∈ s.hub.votes := by
  simp [noteVote, List.mem_filter]
  tauto

theorem votesComplete_iff : votesComplete (noteVote s n d) n = true ↔
    n = s.hub.lastCommit + 1 ∧ s.hub.rebuild = false ∧ ∀ e ∈ domainMembers s.fab, e = d ∨ (n, e) ∈ s.hub.votes := by
  have counted : ((domainMembers s.fab).all fun e => (noteVote s n d).hub.votes.contains (n, e)) = true ↔
      ∀ e ∈ domainMembers s.fab, e = d ∨ (n, e) ∈ s.hub.votes := by
    simp only [List.all_eq_true, List.contains_iff_mem, mem_noteVote]
  rw [votesComplete, Bool.and_eq_true, Bool.and_eq_true, decide_eq_true_eq, Bool.not_eq_true', and_assoc]
  refine and_congr_right fun next => and_congr_right fun _ => ?_
  rw [← counted, next]
  rfl

section
variable (hm : s.fab.fm = true)
include hm

theorem vote_unsound : exec (.vote n d false) s = .next (tellDomain s 0x25 s.hub.lastCommit (.abort ⟨s.hub.lastCommit, false⟩)) :=
  congrArg Host.Outcome.next (if_neg (by rw [hm]; decide))

theorem vote_sound : exec (.vote n d true) s = .next (if votesComplete (noteVote s n d) n = true
    then tellDomain (noteVote s n d) 0x24 (s.hub.lastCommit + 1) (.commit (s.hub.lastCommit + 1)) else noteVote s n d) :=
  congrArg Host.Outcome.next (if_neg (by rw [hm]; decide))

end

end

/-! ### Commits (R173, R174) -/

/-- Nothing that a device keeps of intervals that have not committed belongs to one up to `n`: no mark, no logged input, no held output. -/
def KeepsAfter (n : Nat) (m : Mem) : Prop :=
  n < m.interval ∧ (∀ k ∈ m.marks, n < k.2) ∧ (∀ r ∈ m.inputs, n < r.interval) ∧ ∀ o ∈ m.outputs, n < o.1

section
variable {n : Nat} {m : Mem}

theorem KeepsAfter.of_eq {q : Mem} (h : KeepsAfter n m) (hi : q.interval = m.interval) (hm : q.marks = m.marks) (hn : q.inputs = m.inputs)
    (ho : q.outputs = m.outputs) : KeepsAfter n q := by
  rw [KeepsAfter, hi, hm, hn, ho]
  exact h

/-- A line logged now is marked for the open interval. -/
theorem KeepsAfter.logLine (h : KeepsAfter n m) (l : Nat) (p : BitVec 2) : KeepsAfter n (logLine m l p) := by
  unfold Machine.logLine
  split
  · exact h
  · obtain ⟨hi, hk, hr, ho⟩ := h
    exact ⟨hi, List.forall_mem_cons.mpr ⟨hi, hk⟩, hr, ho⟩

theorem KeepsAfter.recallLine (h : KeepsAfter n m) (l : Nat) : KeepsAfter n (recallLine m l) := by
  unfold Machine.recallLine
  dsimp only
  split
  · exact h
  · exact (h.logLine l 0#2).of_eq rfl rfl rfl rfl

theorem KeepsAfter.scramble (h : KeepsAfter n m) (a k : Nat) : KeepsAfter n (scramble m a k) := h.of_eq rfl rfl rfl rfl

theorem KeepsAfter.emptySlot (h : KeepsAfter n m) (k : BitVec 7) : KeepsAfter n (emptySlot m k) := by
  unfold Machine.emptySlot
  refine KeepsAfter.of_eq (foldl_keeps (P := KeepsAfter n) (fun q f hq => KeepsAfter.scramble ?_ _ _) _ h) rfl rfl rfl rfl
  exact hq.of_eq rfl rfl rfl rfl

end

/-- Interval `n` is the last that has committed, and nothing of it or an earlier one is kept: no mark, input or output, and no accepted command. -/
def CommittedTo (n : Nat) (s : State) : Prop := s.hub.lastCommit = n ∧ (∀ a ∈ s.hub.accepted, n < a.interval) ∧ KeepsAfter n s.m

section
variable {n : Nat} {s : State}

theorem CommittedTo.withMem {m : Mem} (h : CommittedTo n s) (hm : KeepsAfter n m) : CommittedTo n { s with m := m } := ⟨h.1, h.2.1, hm⟩

theorem CommittedTo.of_eq {t : State} (h : CommittedTo n s) (hl : t.hub.lastCommit = s.hub.lastCommit) (ha : t.hub.accepted = s.hub.accepted)
    (hm : t.m = s.m) : CommittedTo n t := by
  rw [CommittedTo, hl, ha, hm]
  exact h

theorem OnlySends.committedTo {t : State} (k : OnlySends s t) (h : CommittedTo n s) : CommittedTo n t :=
  h.of_eq (by rw [k.hub]) (by rw [k.hub]) k.m

/-- An output released belongs to no log any more (R174). -/
theorem CommittedTo.releaseOutput (h : CommittedTo n s) (o : Output) : CommittedTo n (releaseOutput s o) := by
  obtain ⟨hl, ha, hm⟩ := h
  cases o with
  | write pa bs => exact ⟨hl, ha, hm.of_eq rfl rfl rfl rfl⟩
  | msix v => exact ⟨hl, ha, hm⟩
  | nvme d a bs => exact ⟨hl, ha, hm.of_eq rfl rfl rfl rfl⟩
  | keyEraseReply k => exact (onlySends_escrowNotice ..).committedTo ⟨hl, ha, hm.emptySlot k⟩

theorem CommittedTo.answerHost (h : CommittedTo n s) (q : HostReq) : CommittedTo n (answerHost s q) := by
  have recalled := h.2.2.recallLine (q.pa.toNat / 128)
  rcases q with ⟨_ | st, copy, pa, interval⟩
  · unfold Machine.answerHost
    dsimp only
    split <;> exact h.withMem (recalled.of_eq rfl rfl rfl rfl)
  · exact h.withMem (recalled.of_eq rfl rfl rfl rfl)

theorem CommittedTo.answerHeld (h : CommittedTo n s) : CommittedTo n (answerHeld s) :=
  foldl_keeps (P := CommittedTo n) (fun _ q ht => ht.answerHost q) _ (h.withMem (h.2.2.of_eq rfl rfl rfl rfl))

theorem CommittedTo.settleJhead (h : CommittedTo n s) : CommittedTo n (settleJhead s) := h

theorem CommittedTo.streamMirror (h : CommittedTo n s) : CommittedTo n (streamMirror s) := by
  obtain ⟨q, r, p, o, hs⟩ := streamMirror_eq s
  rw [hs]
  exact h

theorem CommittedTo.voteFrom (h : CommittedTo n s) (k : Nat) (d : BitVec 10) : CommittedTo n (voteFrom k d true s) := by
  unfold Machine.voteFrom
  dsimp only
  split
  · exact h
  split
  · next no => exact absurd no (by decide)
  split
  · exact (onlySends_tellDomain ..).committedTo h
  · exact h

theorem CommittedTo.castVote (h : CommittedTo n s) : CommittedTo n (castVote s) := by
  unfold Machine.castVote
  dsimp only
  split
  · exact h
  unfold tellManager
  split
  · exact CommittedTo.voteFrom (by exact h) _ _
  · exact ((OnlySends.refl _).sendOut _).committedTo h

/-- The logs as a commit of interval `n` leaves them, before what it releases. -/
def dropCommitted (s : State) (n : Nat) : State :=
  { s with
    m := dropUndo { s.m with outputs := s.m.outputs.filter fun o => n < o.1 } n
    hub := promoteMirror { s.hub with
      lastCommit := n, votes := s.hub.votes.filter (fun v => n < v.1), saved := s.hub.saved.filter (fun v => n ≤ v.interval)
      accepted := s.hub.accepted.filter (fun a => n < a.interval)
      retained := s.hub.retained.filter fun r => r.faulted || n < r.interval }
    fab := { s.fab with copied := s.fab.copied.filter fun c => n < c.1 } }

theorem dropCommitted_committedTo (h : n < s.m.interval) : CommittedTo n (dropCommitted s n) := by
  refine ⟨rfl, fun a ha => ?_, h, fun k hk => ?_, fun r hr => ?_, fun o ho => ?_⟩
  · simpa using (List.mem_filter.mp ha).2
  · simpa using (List.mem_filter.mp hk).2
  · simpa using (List.mem_filter.mp hr).2
  · simpa using (List.mem_filter.mp ho).2

theorem commit_none (h : n ≠ s.hub.lastCommit + 1 ∨ s.m.interval ≤ n) : exec (.commit n) s = .next s :=
  congrArg Host.Outcome.next (if_pos (by rcases h with h | h <;> simp [h]))

theorem commit_next (hn : n = s.hub.lastCommit + 1) (hc : n < s.m.interval) : exec (.commit n) s = .next (castVote (streamMirror (settleJhead
    (answerHeld ((s.m.outputs.filter fun o => o.1 ≤ n).foldl (fun s o => releaseOutput s o.2) (dropCommitted s n)))))) :=
  congrArg Host.Outcome.next (if_neg (by simp [← hn, hc]))

theorem commit_committedTo (hn : n = s.hub.lastCommit + 1) (hc : n < s.m.interval) : ∃ t, exec (.commit n) s = .next t ∧ CommittedTo n t := by
  refine ⟨_, commit_next hn hc, ?_⟩
  have released := foldl_keeps (P := CommittedTo n) (f := fun s (o : Nat × Output) => releaseOutput s o.2) (fun _ o ht => ht.releaseOutput o.2)
    (s.m.outputs.filter fun o => o.1 ≤ n) (dropCommitted_committedTo hc)
  exact released.answerHeld.settleJhead.streamMirror.castVote

end

/-- Settles O46: each message by the interval that it names and the device that it reaches. That a device other than the manager asks with a CUT
of its own is log entry 28's reading, that it does so at most once a millisecond log entry 49's. -/
theorem checkpointEventResult : Obligations.CheckpointEventResult := by
  refine ⟨fun s => ⟨fun h => ?due, fun h => ?notDue, rfl⟩,
    fun s => ⟨undoLogFull_manager, fun h hm ht => ?asks, fun h hm ht => ?tooSoon, undoLogFull_none⟩,
    fun s n => ⟨cut_stops, cut_passedOn, cut_none⟩, fun s n d => ⟨cutdone_none, fun hm hc hd => ⟨fun h => ?early, fun h => ?last⟩⟩,
    fun s n => ⟨resume_none, resume_opens⟩,
    fun s t n d => ⟨vote_elsewhere, fun hm ht => ⟨vote_unsound hm, fun h => ?incomplete, fun hn hr h => ?complete⟩⟩,
    fun s n hn hc => ?commits, fun s n => commit_none⟩
  case due => rw [intervalCut_next, if_pos h]
  case notDue => rw [intervalCut_next, if_neg (by simp [h])]
  case asks => exact (undoLogFull_other h hm).trans (congrArg _ (if_neg (Nat.not_lt.mpr ht)))
  case tooSoon => exact (undoLogFull_other h hm).trans (congrArg _ (if_pos ht))
  case early =>
    obtain ⟨e, he, other, missing⟩ := h
    rw [cutdone_noted hm hc hd, if_neg]
    · rfl
    · simpa using ⟨e, he, other, missing⟩
  case last =>
    rw [cutdone_noted hm hc hd, if_pos]
    · rfl
    · simpa using h
  case incomplete =>
    rw [vote_sound hm, if_neg, ht]
    · rfl
    rw [votesComplete_iff]
    rintro ⟨hn, hr, all⟩
    rcases h with h | h | ⟨e, he, other, missing⟩
    · exact h hn
    · exact absurd h (by simp [hr])
    · exact (all e he).elim other missing
  case complete =>
    rw [vote_sound hm, if_pos (votesComplete_iff.mpr ⟨hn, hr, h⟩), ht, ← hn]
    rfl
  case commits =>
    obtain ⟨t, commits, last, accepted, -, marks, inputs, outputs⟩ := commit_committedTo hn hc
    exact ⟨t, commits, last, marks, inputs, outputs, accepted⟩

end Sys2Proof.Machine

/-! Recovery: aborts, errors, heartbeats, substitution and the mirror (R171, R173, R177 to R182, R407; log entries 28, 48 and 49). -/

namespace Sys2Proof.Machine

/-! ### The memories of a rollback (R179, R180) -/

/-- No IP copy and no translation is cached. -/
def Uncached (m : Mem) : Prop := m.ip = [] ∧ m.tlb = []

section
variable {m : Mem} (h : Uncached m)
include h

theorem Uncached.of_eq {q : Mem} (hi : q.ip = m.ip) (ht : q.tlb = m.tlb) : Uncached q := ⟨hi.trans h.1, ht.trans h.2⟩

theorem Uncached.scramble (a n : Nat) : Uncached (scramble m a n) := h.of_eq rfl rfl

theorem Uncached.rekeyLine (k : BitVec 7) (l : Nat) : Uncached (rekeyLine m k l) := by
  unfold Machine.rekeyLine
  exact h.of_eq rfl rfl

theorem Uncached.lineBack (c : List Host.Cell) (l : Nat) (w : Wos) (o : List LineOrigin) (b : List Nat) :
    Uncached { setWos { m with cells := c } l w with origins := o, bad := b } := h

theorem Uncached.setFrameRec (r : FrameRec) : Uncached (setFrameRec m r) := h.of_eq rfl rfl

theorem Uncached.restoreFrame (r : FrameRec) : Uncached (restoreFrame m r) := by
  unfold Machine.restoreFrame
  dsimp only
  split
  · exact h.setFrameRec r
  · refine Uncached.setFrameRec ?_ r
    exact foldl_keeps (P := Uncached) (fun q l hq => hq.rekeyLine r.key l) _ h

theorem Uncached.applyUndo (u : UndoRec) : Uncached (applyUndo m u) := by
  cases u with
  | line i l d w p f o =>
    rw [Machine.applyUndo]
    exact h.lineBack ..
  | frame i r => exact h.restoreFrame r
  | loose i l k =>
    rw [Machine.applyUndo]
    refine foldl_keeps (P := Uncached) (fun q b hq => ?_) _ h
    split
    · exact hq.scramble _ _
    · exact hq
  | states i f old => exact h

end

theorem undoMem_uncached (m : Mem) (n : Nat) : Uncached (undoMem m n) :=
  foldl_keeps (P := Uncached) (fun _ u hq => hq.applyUndo u) m.undo (b := dropCaches m) ⟨rfl, rfl⟩

theorem undoMem_outputs (m : Mem) (n : Nat) : ∀ o ∈ (undoMem m n).outputs, o.1 ≤ n := by
  intro o ho
  simpa using (List.mem_filter.mp ho).2

/-! ### The end of a domain (R182) -/

section
variable {s : State}

theorem stopCtx_keeps (s : State) (c : BitVec 16) : ∀ d ∈ s.hub.stopped, d ∈ (stopCtx s c).hub.stopped := by
  intro d hd
  unfold stopCtx
  dsimp only
  split
  · exact hd
  · exact List.mem_cons_of_mem _ hd

/-- Every context of a list ends stopped, and none is resumed. -/
theorem foldl_stopCtx : ∀ (l : List Ctx) (s : State), (∀ c ∈ s.hub.stopped, c ∈ (l.foldl (fun s x => stopCtx s x.num) s).hub.stopped) ∧
    ∀ x ∈ l, x.num ∈ (l.foldl (fun s x => stopCtx s x.num) s).hub.stopped
  | [], _ => ⟨fun _ hc => hc, fun _ hx => absurd hx List.not_mem_nil⟩
  | y :: l, s => by
    obtain ⟨keeps, stops⟩ := foldl_stopCtx l (stopCtx s y.num)
    exact ⟨fun c hc => keeps c (stopCtx_keeps s y.num c hc), List.forall_mem_cons.mpr ⟨keeps _ (mem_stopCtx s y.num), stops⟩⟩

theorem freeFault_ne_zero (m : Mem) : freeFault m ≠ 0#8 := by
  unfold freeFault
  split
  · decide
  · assumption

/-- One node of the domain ended FAULTED, with a code that is a free value (log entry 49). -/
def endNode (s : State) (n : Node) : State :=
  stopRunning (failNode { s with m := { s.m with free := s.m.free + 1 } } n.seq (freeFault s.m) 0x00) n

theorem endDomain_eq (s : State) : endDomain s =
    { (((allCtxs s).foldl (fun s x => stopCtx s x.num) s).hub.nodes.foldl endNode ((allCtxs s).foldl (fun s x => stopCtx s x.num) s)) with hub :=
      { (((allCtxs s).foldl (fun s x => stopCtx s x.num) s).hub.nodes.foldl endNode ((allCtxs s).foldl (fun s x => stopCtx s x.num) s)).hub with
        awaited := [], frail := [] } } := rfl

theorem stopCmd_hub (s : State) (c : Cmd) : (stopCmd s c).hub = s.hub := by
  unfold stopCmd
  split <;> rfl

theorem stopRunning_hub (s : State) (n : Node) : (stopRunning s n).hub = (stopNode s n.ctx n.seq).hub := by
  have kept : ((s.cmds.filter (cmdOfNode s n)).foldl stopCmd s).hub = s.hub :=
    foldl_keeps (P := fun t : State => t.hub = s.hub) (fun t c ht => (stopCmd_hub t c).trans ht) _ rfl
  unfold stopRunning
  rw [mapWarps_hub, stopNode, stopNode, kept]

theorem endNode_stopped (s : State) (n : Node) : (endNode s n).hub.stopped = s.hub.stopped := by
  rw [endNode, stopRunning_hub]
  rfl

/-- A node that is given a code has one then. -/
theorem failed_node {c : Byte} (hc : c ≠ 0#8) (detail : Byte) (n j : Node) :
    (if j.seq = n.seq && j.fcode = 0#8 then { j with fcode := c, detail := detail } else j).seq = j.seq ∧
      ((if j.seq = n.seq && j.fcode = 0#8 then { j with fcode := c, detail := detail } else j).fcode = 0#8 → j.fcode = 0#8 ∧ j.seq ≠ n.seq) := by
  split
  · exact ⟨rfl, fun he => absurd he hc⟩
  · next other => exact ⟨rfl, fun he => ⟨he, fun same => other (by simp [same, he])⟩⟩

/-- A node without a fault code after one has ended had none before, and is another. -/
theorem endNode_nodes {n k : Node} (hk : k ∈ (endNode s n).hub.nodes) :
    ∃ j ∈ s.hub.nodes, k.seq = j.seq ∧ (k.fcode = 0#8 → j.fcode = 0#8 ∧ j.seq ≠ n.seq) := by
  rw [endNode, stopRunning_hub] at hk
  obtain ⟨i, hi, rfl⟩ := List.mem_map.mp hk
  obtain ⟨j, hj, hi⟩ := List.mem_map.mp hi
  have failed : i.seq = j.seq ∧ (i.fcode = 0#8 → j.fcode = 0#8 ∧ j.seq ≠ n.seq) := by
    rw [← hi]
    exact failed_node (freeFault_ne_zero s.m) 0x00 n j
  refine ⟨j, hj, ?_⟩
  split <;> exact failed

theorem foldl_endNode_faulted : ∀ (l : List Node) (s : State), (∀ k ∈ s.hub.nodes, k.fcode = 0#8 → k.seq ∈ l.map (·.seq)) →
    ∀ k ∈ (l.foldl endNode s).hub.nodes, k.fcode ≠ 0#8
  | [], _, h, k, hk => fun he => absurd (h k hk he) List.not_mem_nil
  | n :: l, s, h, k, hk => by
    refine foldl_endNode_faulted l (endNode s n) (fun k hk he => ?_) k hk
    obtain ⟨j, hj, same, before⟩ := endNode_nodes hk
    obtain ⟨clean, other⟩ := before he
    rw [same]
    exact (List.mem_cons.mp (h j hj clean)).resolve_left other

/-- A domain that ends stops its contexts and faults its nodes; it awaits nobody. -/
theorem endDomain_spec (s : State) : (∀ x ∈ allCtxs s, x.num ∈ (endDomain s).hub.stopped) ∧ (∀ n ∈ (endDomain s).hub.nodes, n.fcode ≠ 0#8) ∧
    (endDomain s).hub.awaited = [] := by
  rw [endDomain_eq]
  generalize ht : (allCtxs s).foldl (fun s x => stopCtx s x.num) s = t
  have stopped : (t.hub.nodes.foldl endNode t).hub.stopped = t.hub.stopped :=
    foldl_keeps (P := fun u : State => u.hub.stopped = t.hub.stopped) (fun u n hu => (endNode_stopped u n).trans hu) _ rfl
  refine ⟨fun x hx => ?_, foldl_endNode_faulted _ t fun k hk _ => List.mem_map_of_mem hk, rfl⟩
  show x.num ∈ (t.hub.nodes.foldl endNode t).hub.stopped
  rw [stopped, ← ht]
  exact (foldl_stopCtx (allCtxs s) s).2 x hx

/-! ### Aborts and errors (R173, R177, R179) -/

theorem abort_next (s : State) (lost : Bool) :
    exec (.abort ⟨s.hub.lastCommit, lost⟩) s = .next (if lost then endDomain (rollBack s) else rollBack s) :=
  congrArg Host.Outcome.next (if_neg (by simp))

theorem abort_none {n : Nat} (lost : Bool) (h : n ≠ s.hub.lastCommit) : exec (.abort ⟨n, lost⟩) s = .next s :=
  congrArg Host.Outcome.next (if_pos h)

theorem onlySends_voteFrom_unsound (n : Nat) (d : BitVec 10) (s : State) : OnlySends s (voteFrom n d false s) := by
  unfold voteFrom
  split
  · exact .refl s
  · simp only [Bool.not_false, ↓reduceIte]
    exact onlySends_tellAbort s false

theorem voteUnsound_unsound (s : State) : (voteUnsound s).hub.sound = false := by
  unfold voteUnsound tellManager
  split
  · rw [(onlySends_voteFrom_unsound _ _ _).hub]
  · rfl

/-! ### Heartbeats (R178) -/

theorem beatDue_iff : beatDue s = true ↔ s.fab.ident ≠ 0x3FF#10 ∧ s.hub.fatal = false ∧ 1000000 ≤ wall s - s.hub.lastBeat := by
  simp [beatDue, and_assoc]

theorem heartbeatTick_none (h : beatDue s = false) : exec .heartbeatTick s = .next s := congrArg Host.Outcome.next (if_neg (by simp [h]))

theorem heartbeatTick_sends (h : beatDue s = true) (hm : s.fab.fm = false) (hi : s.fab.fmid ≠ s.fab.ident) : exec .heartbeatTick s = .next { s with
    hub := { s.hub with lastBeat := wall s }
    fab := { s.fab with outbox := s.fab.outbox ++ [shortMessage 0x26 s.fab.fmid 0#16 0#16 (bytesOfNat 8 0)] } } := by
  refine congrArg Host.Outcome.next ((if_pos h).trans ?_)
  rw [tellManager, if_neg hi]
  exact if_pos (by simp [hm])

theorem heartbeat_device (d : BitVec 10) : exec (.heartbeat ⟨d, 0#2⟩) s = .next (if s.fab.fm then
    { s with hub := { s.hub with beats := (d, wall s) :: s.hub.beats.filter fun b => b.1 ≠ d } } else s) := rfl

theorem heartbeat_fatal (d : BitVec 10) : exec (.heartbeat ⟨d, 1#2⟩) s =
    .next { s with hub := { s.hub with fatals := d :: s.hub.fatals.filter (· ≠ d) } } := rfl

/-! ### Location entries (R406) -/

section
variable {k lo n : Nat} (x : BitVec k) (v : BitVec n)

/-- A field written reads as written, and one beside it as before. -/
theorem extractLsb'_setBits (h : lo + n ≤ k) : (setBits x lo n v).extractLsb' lo n = v := by
  refine BitVec.eq_of_getLsbD_eq fun i hi => ?_
  rw [BitVec.getLsbD_extractLsb', getLsbD_setBits _ _ (by omega)]
  simp [hi]

theorem extractLsb'_setBits_other {at_ len : Nat} (h : at_ + len ≤ k) (apart : at_ + len ≤ lo ∨ lo + n ≤ at_) :
    (setBits x lo n v).extractLsb' at_ len = x.extractLsb' at_ len := by
  refine BitVec.eq_of_getLsbD_eq fun i hi => ?_
  rw [BitVec.getLsbD_extractLsb', BitVec.getLsbD_extractLsb', getLsbD_setBits _ _ (by omega), if_neg (by omega)]

end

theorem OnlySends.locOf {t : State} (h : OnlySends s t) (d : BitVec 10) : locOf t.fab d = locOf s.fab d := by
  rw [h.fab]
  rfl

/-- An entry written and spread is written here. -/
theorem onlySends_spreadLocation (s : State) (d : BitVec 10) (v : DWord) :
    OnlySends (if d.toNat ≤ 992 then putLocation s d v else s) (spreadLocation s d v) :=
  (OnlySends.refl _).foldl (fun u _ => (OnlySends.refl u).sendOut _) _

theorem locOf_spreadLocation {d : BitVec 10} (v : DWord) (h : d.toNat ≤ 992) : locOf (spreadLocation s d v).fab d = v := by
  rw [(onlySends_spreadLocation s d v).locOf, if_pos h, locOf_putLocation]

/-! ### Death (R178) -/

/-- The entry of an identity that no device holds, one incarnation on. -/
def deadEntry (v : DWord) : DWord := setBits (setBits v 0 16 (v.extractLsb' 0 16 + 1#16)) 26 1 0#1

theorem deadEntry_incarn (v : DWord) : (deadEntry v).extractLsb' 0 16 = v.extractLsb' 0 16 + 1#16 := by
  rw [deadEntry, extractLsb'_setBits_other _ _ (by decide) (by decide), extractLsb'_setBits _ _ (by decide)]

theorem deadEntry_absent (v : DWord) : (deadEntry v).getLsbD 26 = false := by
  rw [deadEntry, getLsbD_setBits _ _ (by decide)]
  rfl

/-- The state of a device declared dead before its domain is told: its entry, what names it, and that it has not been rebuilt. -/
def buried (s : State) (d : BitVec 10) : State :=
  let t := beatFrom d (purgeDevice (spreadLocation s d (deadEntry (locOf s.fab d))) d)
  { t with hub := { t.hub with fatals := t.hub.fatals.filter (· ≠ d), frail := d :: t.hub.frail.filter (· ≠ d) } }

theorem deathDue_of {d : BitVec 10} (hm : s.fab.fm = true) (hp : present s.fab d = true) (hd : d ≠ s.fab.ident)
    (hs : d ∈ s.hub.fatals ∨ bitsNat s.hub.ckptcfg 32 16 * 1000000 ≤ wall s - ((s.hub.beats.find? fun b => b.1 = d).map (·.2)).getD 0) :
    deathDue s d = true := by
  simpa [deathDue, silent, hm, hp, hd] using hs

theorem deviceDeclaredDead_next {d : BitVec 10} (h : deathDue s d = true) :
    exec (.deviceDeclaredDead d) s = .next (tellAbort (buried s d) (imageLost s d)) := by
  refine congrArg Host.Outcome.next (if_neg ?_)
  simp [h]

theorem deviceDeclaredDead_none {d : BitVec 10} (h : deathDue s d = false) : exec (.deviceDeclaredDead d) s = .next s := by
  refine congrArg Host.Outcome.next (if_pos ?_)
  simp [h]

theorem locOf_buried {d : BitVec 10} (h : d.toNat ≤ 992) : locOf (buried s d).fab d = deadEntry (locOf s.fab d) :=
  locOf_spreadLocation (s := s) _ h

/-- Nothing in the directories and at the multicast homes names a device declared dead. -/
theorem buried_purged (s : State) (d : BitVec 10) : (∀ e ∈ (buried s d).m.dir, e.agent / 4 ≠ d.toNat) ∧
    (∀ e ∈ (buried s d).m.bridgeDir, e.agent / 4 ≠ d.toNat) ∧ ∀ k ∈ (buried s d).fab.multicasts, d ∉ k.members := by
  refine ⟨fun e he => ?_, fun e he => ?_, fun k hk => ?_⟩
  · simpa using (List.mem_filter.mp he).2
  · simpa using (List.mem_filter.mp he).2
  · simpa using (List.mem_filter.mp hk).2

/-! ### Substitution (R179, R181, R407) -/

/-- The entry of an identity that a device at a vertex holds. -/
def heldEntry (v : DWord) (vertex : BitVec 10) (incarn : BitVec 16) : DWord := setBits (setBits (setBits v 0 16 incarn) 16 10 vertex) 26 1 1#1

theorem heldEntry_spec (v : DWord) (x : BitVec 10) (i : BitVec 16) : (heldEntry v x i).extractLsb' 16 10 = x ∧
    (heldEntry v x i).extractLsb' 0 16 = i ∧ (heldEntry v x i).getLsbD 26 = true := by
  refine ⟨?_, ?_, ?_⟩
  · rw [heldEntry, extractLsb'_setBits_other _ _ (by decide) (by decide), extractLsb'_setBits _ _ (by decide)]
  · rw [heldEntry, extractLsb'_setBits_other _ _ (by decide) (by decide), extractLsb'_setBits_other _ _ (by decide) (by decide),
      extractLsb'_setBits _ _ (by decide)]
  · rw [heldEntry, getLsbD_setBits _ _ (by decide)]
    rfl

/-- The device knows where an identity now is, and awaits it no longer. -/
def located (s : State) (d x : BitVec 10) (i : BitVec 16) : State :=
  let t := putLocation s d (heldEntry (locOf s.fab d) x i)
  { t with hub := { t.hub with awaited := s.hub.awaited.filter (· ≠ d) } }

theorem locOf_located (s : State) (d x : BitVec 10) (i : BitVec 16) : locOf (located s d x i).fab d = heldEntry (locOf s.fab d) x i :=
  locOf_putLocation s d _

theorem scramble_kept (m : Mem) (a n : Nat) : (scramble m a n).ip = m.ip ∧ (scramble m a n).dir = m.dir ∧ (scramble m a n).tlb = m.tlb := by
  unfold scramble
  exact ⟨rfl, rfl, rfl⟩

/-- What a device brings to the identity that it takes: nothing cached, and of the keys slot 0 alone (R407). -/
theorem blankMem_blank (m : Mem) : (blankMem m).ip = [] ∧ (blankMem m).dir = [] ∧ (blankMem m).tlb = [] := by
  have scrambled (ls : List Nat) := foldl_keeps (P := fun q : Mem => q.ip = [] ∧ q.dir = [] ∧ q.tlb = []) (f := fun q l => scramble q (128 * l) 128)
    (fun q l hq => ⟨(scramble_kept q _ _).1.trans hq.1, (scramble_kept q _ _).2.1.trans hq.2.1, (scramble_kept q _ _).2.2.trans hq.2.2⟩) ls
    (b := dropCaches m) ⟨rfl, rfl, rfl⟩
  unfold blankMem
  exact scrambled _

theorem standbySubstitute_standby {d x : BitVec 10} {i : BitVec 16} (hs : s.fab.standby = true) (hv : s.fab.vertex = x) :
    exec (.standbySubstitute d x i) s = .next (joinAs d i (located s d x i)) :=
  congrArg Host.Outcome.next (if_pos (by simp [hs, hv]))

/-- A device keeps its identity, and awaits another no longer. -/
def Knows (s : State) (d : BitVec 10) (t : State) : Prop := t.fab.ident = s.fab.ident ∧ d ∉ t.hub.awaited

section
variable {t u : State} {d : BitVec 10}

theorem putLocation_awaited {v : DWord} (hv : v.getLsbD 26 = true) : (putLocation t d v).hub.awaited = t.hub.awaited := by
  have held : ¬ ((locOf t.fab d).getLsbD 26 && !v.getLsbD 26 && v.extractLsb' 27 10 = t.fab.domain) = true := by simp [hv]
  unfold putLocation
  dsimp only
  rw [if_neg held]
  split <;> rfl

theorem OnlySends.knows (k : OnlySends t u) (h : Knows s d t) : Knows s d u := by
  rw [Knows, k.hub, k.fab]
  exact h

theorem Knows.fullCopy (h : Knows s d t) : Knows s d (fullCopy t) := h

theorem Knows.putLocation {v : DWord} (h : Knows s d t) (hv : v.getLsbD 26 = true) : Knows s d (putLocation t d v) := by
  refine ⟨h.1, ?_⟩
  rw [putLocation_awaited hv]
  exact h.2

theorem Knows.spreadLocation {v : DWord} (h : Knows s d t) (hv : v.getLsbD 26 = true) : Knows s d (spreadLocation t d v) := by
  refine (onlySends_spreadLocation t d v).knows ?_
  split
  · exact h.putLocation hv
  · exact h

theorem onlySends_sendGeneration (s : State) (d : BitVec 10) : OnlySends s (sendGeneration s d) := by
  have keys : OnlySends s ((s.m.escrow.filter fun e => e.1 = d).foldl (fun s e => escrowNotice s d 3 e.2) s) :=
    (OnlySends.refl s).foldl (fun u e => onlySends_escrowNotice ..) _
  unfold sendGeneration
  dsimp only
  split
  · exact keys
  · exact (keys.foldl (fun u e => (OnlySends.refl u).sendOut _) _).sendOut _

theorem located_knows (s : State) (d x : BitVec 10) (i : BitVec 16) : Knows s d (located s d x i) :=
  ⟨rfl, fun h => absurd (List.mem_filter.mp h).2 (by simp)⟩

end

/-- The fabric manager tells the others where an identity now is, and the standby what FAB_DOM of the dead device was. -/
def managerTells (s : State) (d x : BitVec 10) (i : BitVec 16) : State :=
  let t := located s d x i
  if t.fab.fm then
    sendOut (spreadLocation t d (heldEntry (locOf s.fab d) x i)) (fmMessage d 0x4010
      (BitVec.ofNat 64 (atBit 48 ((buddyOf t d).getD 0x3FF#10).toNat + atBit 32 t.fab.ident.toNat + atBit 16 t.fab.brid.toNat + t.fab.domain.toNat)))
  else t

theorem managerTells_knows (s : State) (d x : BitVec 10) (i : BitVec 16) : Knows s d (managerTells s d x i) := by
  unfold managerTells
  dsimp only
  split
  · exact ((OnlySends.refl _).sendOut _).knows ((located_knows s d x i).spreadLocation (heldEntry_spec _ x i).2.2)
  · exact located_knows s d x i

theorem standbySubstitute_elsewhere {d x : BitVec 10} {i : BitVec 16} (h : s.fab.standby = false ∨ s.fab.vertex ≠ x) :
    exec (.standbySubstitute d x i) s = .next (
      if (sendGeneration (managerTells s d x i) d).fab.buddy = d then fullCopy (sendGeneration (managerTells s d x i) d)
      else sendGeneration (managerTells s d x i) d) :=
  congrArg Host.Outcome.next (if_neg (by rcases h with h | h <;> simp [h]))

theorem standbySubstitute_other {d x : BitVec 10} {i : BitVec 16} (h : s.fab.standby = false ∨ s.fab.vertex ≠ x) :
    ∃ t, exec (.standbySubstitute d x i) s = .next t ∧ Knows s d t := by
  refine ⟨_, standbySubstitute_elsewhere h, ?_⟩
  have sent := (onlySends_sendGeneration _ d).knows (managerTells_knows s d x i)
  split
  · exact sent.fullCopy
  · exact sent

/-! ### The mirror (R171, R181, log entry 48) -/

theorem rebuildDone_next (hp : s.hub.mirrorPending = []) (hq : ∀ q ∈ s.hub.mirrorQueue, hasAux q.2.aux auxCopy = false)
    (ha : s.fab.ident ∉ s.hub.awaited) : exec .rebuildDone s = .next (castVote { s with hub := { s.hub with rebuild := false } }) := by
  refine congrArg Host.Outcome.next (if_pos ?_)
  simpa [hp, ha] using hq

/-- A line of a page of another device, no copy, load or request, is received as such. -/
theorem mirror_received {d : BitVec 10} {f : BitVec 36} {o st : BitVec 16} {x : BitVec 1024} (hg : hasAux st auxAgain = false)
    (hl : hasAux st auxLoad = false) : exec (.mirror d f o ⟨x, st⟩) s =
      .next (receiveLine { src := d, line := 512 * f.toNat + o.toNat / 128, data := x, state := lineBits st } st s) := by
  refine congrArg Host.Outcome.next ((if_neg ?_).trans (if_neg ?_))
  · simp [hg]
  · simp [hl]

/-- A line that is no copy and not of the owner or the reservation joins the pending generation; the last of its page is acknowledged. -/
theorem receiveLine_pending {e : MirrorLine} {st : BitVec 16} (hr : inReserved (128 * e.line) = false) (hw : hasAux st auxOwner = false)
    (hc : hasAux st auxCopy = false) : receiveLine e st s = { s with
      hub := { s.hub with mirrorNew := keepLine s.hub.mirrorNew e }
      fab := { s.fab with outbox := s.fab.outbox ++ if e.line % 512 = 511 then
        [{ mop := 0x2B, dst := e.src, tag := 0#16, addr := BitVec.ofNat 80 (e.line / 512 * 512), aux := 0#16, body := [] }] else [] } } := by
  have pending : ¬ (inReserved (128 * e.line) || hasAux st auxOwner) = true := by simp [hr, hw]
  have uncopied : ¬ hasAux st auxCopy = true := by simp [hc]
  unfold receiveLine
  dsimp only
  rw [if_neg pending, if_neg uncopied]
  split
  · rfl
  · rw [List.append_nil]

end

/-- Settles O47, a lemma for each event; what ABORT and the heartbeats carry is log entry 49's, the stream of the mirror log entry 28's, and the
bits of its AUX log entry 48's. -/
theorem recoveryEventResult : Obligations.RecoveryEventResult := by
  unfold Obligations.RecoveryEventResult
  refine ⟨fun s => ⟨abort_next s false, _, abort_next s true, rfl, endDomain_spec _⟩, fun s n l h => abort_none l h,
    fun m n => ⟨rfl, rfl, (undoMem_uncached m n).1, (undoMem_uncached m n).2, rfl, undoMem_outputs m n⟩, ?error,
    fun s => ⟨beatDue_iff, heartbeatTick_none, heartbeatTick_sends⟩, ?heartbeat, fun s d => deathDue_of, ?dead, fun s d => deviceDeclaredDead_none,
    ?joins, fun s d v i => standbySubstitute_other, fun s => rebuildDone_next, ?mirror, fun s f => rfl⟩
  case error =>
    rintro s t l rfl
    exact ⟨rfl, _, rfl, voteUnsound_unsound _⟩
  case heartbeat =>
    refine fun s d => ⟨fun h => ?_, fun h => ?_, heartbeat_fatal d⟩
    · rw [heartbeat_device, if_pos h]
    · rw [heartbeat_device, if_neg (by simp [h])]
  case dead =>
    intro s d h
    have told := onlySends_tellAbort (buried s d) (imageLost s d)
    obtain ⟨dir, bridges, homes⟩ := buried_purged s d
    refine ⟨_, _, deviceDeclaredDead_next h, rfl, fun hd => ?_, ?_, ?_, ?_⟩
    · rw [locIncarn, present, told.locOf, locOf_buried hd]
      exact ⟨deadEntry_incarn _, deadEntry_absent _⟩
    · rw [told.m]
      exact dir
    · rw [told.m]
      exact bridges
    · rw [told.fab]
      exact homes
  case joins =>
    intro s d v i standby there
    obtain ⟨ip, dir, tlb⟩ := blankMem_blank (located s d v i).m
    obtain ⟨vertex, incarn, held⟩ := heldEntry_spec (locOf s.fab d) v i
    have entry : locOf (joinAs d i (located s d v i)).fab d = heldEntry (locOf s.fab d) v i := locOf_located s d v i
    refine ⟨_, standbySubstitute_standby standby there, rfl, rfl, rfl, rfl, rfl, ip, dir, tlb, rfl, rfl, ?_⟩
    rw [locVertex, locIncarn, present, entry]
    exact ⟨vertex, incarn, held⟩
  case mirror =>
    intro s d f o st x again load owner copy reserved
    refine ⟨_, mirror_received again load, ?_⟩
    rw [receiveLine_pending reserved owner copy]
    exact ⟨List.mem_cons_self, rfl, rfl, rfl⟩

end Sys2Proof.Machine

/-! Boot, the security controller, the management endpoint, power and cooling (R178, R455 to R462). -/

namespace Sys2Proof.Machine

/-! ### Boot (R455) -/

section
variable {s : State}

theorem bootOn_eq (s : State) : bootOn s = { s with hub :=
    (if s.hub.flow then { s.hub with stage := 5#4, bootWaits := false } else { s.hub with stage := 4#4, bootWaits := true }) } := by
  unfold bootOn
  split <;> rfl

theorem powerGood_late (b : Bool) (h : s.hub.stage ≠ 0#4 ∨ s.hub.fail = true) : exec (.powerGood b) s = .next s := by
  refine congrArg Host.Outcome.next (if_pos ?_)
  rcases h with h | h <;> simp [h]

section
variable (hs : s.hub.stage = 0#4) (hf : s.hub.fail = false)
include hs hf

theorem bootOpen : ¬(s.hub.stage ≠ 0#4 || s.hub.fail) = true := by simp [hs, hf]

/-- A verified boot loads slot 0 and goes on to step 4. -/
theorem powerGood_verified : exec (.powerGood true) s = .next (bootOn { s with m := { s.m with keyFull := s.m.keyFull ||| 1#128 } }) :=
  congrArg Host.Outcome.next (if_neg (bootOpen hs hf))

/-- A boot that fails stops at the step of the check, which is a free value (log entry 54). -/
theorem powerGood_failed : exec (.powerGood false) s = .next (if failsLate s.m then
      { s with m := { s.m with keyFull := s.m.keyFull ||| 1#128, free := s.m.free + 1 }, hub := { s.hub with stage := 3#4, fail := true } }
    else { s with m := { s.m with free := s.m.free + 1 }, hub := { s.hub with stage := 1#4, fail := true } }) :=
  congrArg Host.Outcome.next (if_neg (bootOpen hs hf))

end

theorem flowSignalAsserted_next : exec .flowSignalAsserted s = .next { s with hub :=
    (if s.hub.bootWaits then { s.hub with flow := true, stage := 5#4, bootWaits := false } else { s.hub with flow := true }) } := by
  show Host.Outcome.next (if s.hub.bootWaits = true then _ else _) = _
  split <;> rfl

/-! ### SPDM (R456, R458, R459, log entry 33) -/

theorem spdm_answered {c : Byte} (b : List Byte) (h : s.hub.fail = false ∨ answersFailed c = true) :
    exec (.spdm c b) s = .next (reply s (Config.spdmAnswer c b)) := by
  refine congrArg Host.Outcome.next (if_neg ?_)
  rcases h with h | h <;> simp [h]

theorem spdm_silent {c : Byte} (b : List Byte) (hf : s.hub.fail = true) (hc : answersFailed c = false) : exec (.spdm c b) s = .next s := by
  refine congrArg Host.Outcome.next (if_pos ?_)
  rw [hf, hc]
  rfl

/-- A failed device answers GET_VERSION, GET_CAPABILITIES and GET_MEASUREMENTS only (R455). -/
theorem answersFailed_iff {c : Byte} : answersFailed c = true ↔ c = 0x84 ∨ c = 0xE1 ∨ c = 0xE0 := by
  simp [answersFailed, or_assoc]

/-- A slot filled is full, and every other as it was. -/
theorem getLsbD_slotFilled (full : BitVec 128) (k n : BitVec 7) : (full ||| 1#128 <<< k.toNat).getLsbD n.toNat = (full.getLsbD n.toNat || n = k) := by
  have := n.isLt
  have := k.isLt
  have one : (1#128 <<< k.toNat).getLsbD n.toNat = decide (n = k) := by
    rw [BitVec.getLsbD_shiftLeft, BitVec.getLsbD_one, Bool.eq_iff_iff]
    simp only [Bool.and_eq_true, decide_eq_true_eq, Bool.not_eq_true', decide_eq_false_iff_not, ← BitVec.toNat_inj]
    omega
  rw [BitVec.getLsbD_or, one]

section
variable (hf : s.hub.fail = false)
include hf

theorem keyset_fills {k : BitVec 7} (v : BitVec 512) (hk : k ≠ 0#7) (he : s.m.keyFull.getLsbD k.toNat = false) :
    exec (.keyset k v true) s = .next (reply (escrowNotice { s with m := { s.m with keyFull := s.m.keyFull ||| (1#128 <<< k.toNat) } } s.fab.buddy 1 k)
      [0x01, k.setWidth 8]) := by
  show execKeyset k v true s = _
  simp only [execKeyset, hf, he, hk, decide_false, Bool.not_true, Bool.or_self, Bool.false_eq_true, ↓reduceIte]

theorem keyset_refused {k : BitVec 7} (v : BitVec 512) {a : Bool} (h : a = false ∨ k = 0#7 ∨ s.m.keyFull.getLsbD k.toNat = true) :
    exec (.keyset k v a) s = .next (spdmError s) := by
  have refused : (!a || decide (k = 0#7) || s.m.keyFull.getLsbD k.toNat) = true := by simpa [or_assoc] using h
  show execKeyset k v a s = _
  simp only [execKeyset, hf, refused, Bool.false_eq_true, ↓reduceIte]

theorem keyerase_held {k : BitVec 7} (hk : k ≠ 0#7) :
    exec (.keyerase k true) s = .next { s with m := { s.m with outputs := s.m.outputs ++ [(s.m.interval, .keyEraseReply k)] } } := by
  show execKeyerase k true s = _
  simp only [execKeyerase, hf, hk, decide_false, Bool.not_true, Bool.or_self, Bool.false_eq_true, ↓reduceIte]

theorem keyerase_refused {k : BitVec 7} {a : Bool} (h : a = false ∨ k = 0#7) : exec (.keyerase k a) s = .next (spdmError s) := by
  have refused : (!a || decide (k = 0#7)) = true := by simpa using h
  show execKeyerase k a s = _
  simp only [execKeyerase, hf, refused, Bool.false_eq_true, ↓reduceIte]

end

/-! ### The management endpoint (R457) -/

/-- A vendor message that writes the cap does so in a secured session only (R460). -/
theorem mctpMessage_capOpen (b : List Byte) : exec (.mctpMessage 0x7E false (0x01 :: b)) s = .next s := congrArg Host.Outcome.next (ite_self s)

theorem mctpMessage_capSecured (b : List Byte) (hf : s.hub.fail = false) :
    exec (.mctpMessage 0x7E true (0x01 :: b)) s = exec (.pwrCfg (BitVec.ofNat 64 (natOfBytes (b.take 8)))) s :=
  congrArg Host.Outcome.next (if_neg (by rw [hf]; decide))

theorem mctpMessage_unserved {k : Byte} (x : Bool) (b : List Byte) (h0 : k ≠ 0x00) (h5 : k ≠ 0x05) (h6 : k ≠ 0x06) (h7 : k ≠ 0x7E) :
    exec (.mctpMessage k x b) s = .next (count s 0x0033#16 0#32 1) := by
  have other {n : Byte} (h : k ≠ n) : k.toNat ≠ n.toNat := fun e => h (BitVec.eq_of_toNat_eq e)
  show execMctpMessage k x b s = _
  unfold execMctpMessage
  split
  next e => exact absurd e (other h0)
  next e => exact absurd e (other h5)
  next e => exact absurd e (other h6)
  next e => exact absurd e (other h7)
  next => rfl

/-! ### Power and cooling (R461, R462) -/

/-- The condition of a throttle: AVG over CAP, or 105 °C. -/
theorem throttles_iff {c a t : BitVec 12} : (decide (c < a) || decide (840#12 ≤ t)) = true ↔ c.toNat < a.toNat ∨ 840 ≤ t.toNat := by
  rw [Bool.or_eq_true, decide_eq_true_eq, decide_eq_true_eq]
  rfl

theorem throttle_next (a t : BitVec 12) : exec (.throttle a t) s =
    .next (if s.hub.cap.toNat < a.toNat ∨ 840 ≤ t.toNat then { s with hub := measure s.hub a t } else s) :=
  congrArg Host.Outcome.next (if_congr throttles_iff rfl rfl)

theorem throttleClear_next (a t : BitVec 12) : exec (.throttleClear a t) s =
    .next (if s.hub.cap.toNat < a.toNat ∨ 840 ≤ t.toNat then s else { s with hub := measure s.hub a t }) :=
  congrArg Host.Outcome.next (if_congr throttles_iff rfl rfl)

/-- The devices that hear of a fatal fault (R178, log entry 49). -/
def fatalTo (f : Fabric) : List (BitVec 10) :=
  if f.ident = 0x3FF#10 then [] else if f.fm then domainOthers f else [f.fmid].filter (· ≠ 0x3FF#10)

theorem reportFatal_eq (s : State) : reportFatal s = { s with
    hub := { s.hub with fatal := true }
    fab := { s.fab with outbox := s.fab.outbox ++ (fatalTo s.fab).map fun d => shortMessage 0x26 d 0#16 1#16 (bytesOfNat 8 0) } } :=
  foldl_sendOut (fun d => shortMessage 0x26 d 0#16 1#16 (bytesOfNat 8 0)) (fatalTo s.fab) { s with hub := { s.hub with fatal := true } }

theorem fatalTo_manager {f : Fabric} (hi : f.ident ≠ 0x3FF#10) (hm : f.fm = false) (hd : f.fmid ≠ 0x3FF#10) : fatalTo f = [f.fmid] := by
  simp [fatalTo, hi, hm, hd]

theorem thermalFatal_next (t : BitVec 12) : exec (.thermalFatal t) s =
    .next (if 920 ≤ t.toNat then reportFatal { s with hub := measure s.hub s.hub.avg t } else s) := rfl

theorem flowLoss_next : exec .flowLoss s = .next (if s.hub.stage = 5#4 then reportFatal { s with hub := { s.hub with flow := false } }
    else { s with hub := { s.hub with flow := false } }) := rfl

end

/-- Settles O48: each event by its equation. The bytes of the replies are the model's choice (log entry 33), and so is which check of a boot
fails (log entry 54); the message of a fatal fault is log entry 49's. -/
theorem securityPowerResult : Obligations.SecurityPowerResult := by
  refine ⟨fun s hs hf => ⟨(powerGood_verified hs hf).trans (congrArg _ (bootOn_eq _)), powerGood_failed hs hf⟩, fun s b => powerGood_late b,
    fun s => flowSignalAsserted_next,
    fun s c b => ⟨fun h => spdm_answered b (h.imp_right answersFailed_iff.mpr), fun hf h1 h2 h3 => spdm_silent b hf ?silent⟩,
    fun s k v hf hk he => ⟨_, keyset_fills hf v hk he, fun n => ?filled, ?replied, ?cells⟩,
    fun s k v a hf => keyset_refused hf v, fun s k hf => keyerase_held hf, fun s k a hf => keyerase_refused hf,
    fun s x c b => ⟨rfl, mctpMessage_capOpen b, mctpMessage_capSecured b⟩, fun s k x b => mctpMessage_unserved x b, fun s x b => rfl,
    fun s a t h => (throttle_next a t).trans (congrArg _ (if_pos h)), fun s a t hc ht => ?clear, fun s a t => ⟨fun h => ?still, fun hc ht => ?quiet⟩,
    fun s t => ⟨fun hot => ⟨_, (thermalFatal_next t).trans (congrArg _ (if_pos hot)), ?fatal, ?tmax, fun hi hm hd => ?told⟩, fun cool => ?cool⟩,
    fun s => ⟨fun off => (flowLoss_next).trans (congrArg _ (if_neg off)),
      fun on => ⟨_, (flowLoss_next).trans (congrArg _ (if_pos on)), ?flowFatal, ?flow, fun hi hm hd => ?lost⟩⟩⟩
  case silent => exact Bool.eq_false_iff.mpr (mt answersFailed_iff.mp (by simp only [h1, h2, h3, or_self, not_false_eq_true]))
  case filled => simp only [reply, (onlySends_escrowNotice _ _ _ _).m, getLsbD_slotFilled]
  case replied => simp only [reply, (onlySends_escrowNotice _ _ _ _).hub]
  case cells => simp only [reply, (onlySends_escrowNotice _ _ _ _).m]
  case clear =>
    have cap : ¬s.hub.cap < a := Nat.not_lt.mpr hc
    have cool : ¬840#12 ≤ t := Nat.not_le.mpr ht
    rw [throttleClear_next, if_neg (by omega), measure, decide_eq_false cap, decide_eq_false cool]
  case still => rw [throttleClear_next, if_pos h]
  case quiet => rw [throttle_next, if_neg (by omega)]
  case fatal => rw [reportFatal_eq]
  case told => rw [reportFatal_eq, fatalTo_manager hi hm hd]; rfl
  case cool => rw [thermalFatal_next, if_neg (by omega)]
  case tmax => rw [reportFatal_eq]; rfl
  case flowFatal => rw [reportFatal_eq]
  case flow => rw [reportFatal_eq]
  case lost => rw [reportFatal_eq, fatalTo_manager hi hm hd]; rfl

end Sys2Proof.Machine

/-! Coherence messages and host accesses (R157 to R166, R174, R175, R425; log entries 28 and 29). -/

namespace Sys2Proof.Machine

/-! ### The directory after a request (R159, R162, R163) -/

section
variable (m : Mem) (a l : Nat)

theorem dirGet_dirOwn : dirGet (dirOwn m a l) a l = some .m := by simp [dirGet, dirOwn]

theorem dirGet_grantU : dirGet (grantU m a l) a l = some .u := by simp [dirGet, grantU]

theorem dirGet_dieDrop : dirGet (dieDrop m a l) a l = none := by
  simpa [dirGet, dieDrop, dirSet] using fun e _ other ha => other.resolve_left (not_not.mpr ha)

theorem grantU_hostDir : ∀ e ∈ (grantU m a l).hostDir, e.1 / 2 ≠ l := by simp [grantU]

/-- No other copy outlives a change of ownership (R162). -/
theorem dirOwn_alone : (∀ e ∈ (dirOwn m a l).dir, e.line = l → e.agent = a) ∧ ∀ e ∈ (dirOwn m a l).hostDir, e.1 / 2 ≠ l := by
  simp +contextual [dirOwn]

theorem recallLine_gone : ∀ u ∈ (recallLine m l).ucopies, u.line ≠ l := by
  unfold recallLine
  dsimp only
  split
  next none => simpa using none
  next => simp

end

/-- A line of which nobody has a copy is granted S where it takes no write, else E (R159). -/
theorem homeShare_first {m : Mem} {a l : Nat} (hd : ∀ e ∈ m.dir, e.line ≠ l) (hh : ∀ e ∈ m.hostDir, e.1 / 2 ≠ l)
    (hu : ∀ u ∈ m.ucopies, u.line ≠ l) : homeShare m a l = { m with dir :=
      { agent := a, line := l, state := if (frameRec m (l * 128)).attr = aWos then .s else .e } :: m.dir } := by
  have absent : dirGet m a l = none := by simpa [dirGet] using fun e he _ => hd e he
  have no_die : m.dir.any (fun e => e.line = l) = false := by simpa using hd
  have no_host : m.hostDir.any (fun e => e.1 / 2 = l) = false := by simpa using hh
  have kept : m.dir.map (fun e => if e.line = l then { e with state := .s } else e) = m.dir :=
    (List.map_congr_left fun e he => if_neg (hd e he)).trans (List.map_id _)
  have hosts : m.hostDir.map (fun e => if e.1 / 2 = l then (e.1, .s) else e) = m.hostDir :=
    (List.map_congr_left fun e he => if_neg (hh e he)).trans (List.map_id _)
  by_cases hw : (frameRec m (l * 128)).attr = 2#2
  · simp only [homeShare, recallLine_without hu, dirShare, absent, no_die, no_host, kept, hosts, hw, aWos, Option.isSome_none, decide_true, Bool.or_true, Bool.false_eq_true, ↓reduceIte]
    rfl
  · have written : ¬(frameRec m (l * 128)).attr = aWos := hw
    simp only [homeShare, recallLine_without hu, dirShare, absent, no_die, no_host, hw, written, Option.isSome_none, decide_false, Bool.or_self, Bool.false_eq_true, ↓reduceIte]

/-! ### Messages of the dies for a tracked device line (R157 to R163) -/

section
variable {s : State} {a : BitVec 12} {l : BitVec 45}

section
variable (ho : ownAgent s a = true) (hl : hostLineAt s (linePa l) = false)
include ho hl

theorem readOwn_next : exec (.readOwn a l) s =
    .next (if ownableLine s.m (linePa l) then { s with m := dirOwn (recallLine s.m l.toNat) a.toNat l.toNat } else s) := by
  show execReadOwn a l s = _
  simp only [execReadOwn, hl, ho, Bool.true_and, Bool.false_eq_true, ↓reduceIte]

variable (ht : trackedLine s.m (linePa l) = true)
include ht

theorem readShared_shares : exec (.readShared a l) s = .next { s with m := homeShare s.m a.toNat l.toNat } := by
  show execReadShared a l s = _
  simp only [execReadShared, hl, ho, ht, Bool.and_self, Bool.false_eq_true, ↓reduceIte]

/-- A grant by the home slice acts as the request that it answers (R162). -/
theorem grant_next (c : BitVec 3) : exec (.grant a l c) s = match stateOfCode c with
    | some .m => exec (.readOwn a l) s
    | some .e | some .s => exec (.readShared a l) s
    | some .u => .next s
    | none => .next { s with m := dieDrop s.m a.toNat l.toNat } := by
  rw [readOwn_next ho hl, readShared_shares ho hl ht]
  show execGrant a l c s = _
  simp only [execGrant, hl, ho, ht, Bool.not_true, Bool.false_eq_true, ↓reduceIte]
  rcases stateOfCode c with _ | _ | _ | _ | _ <;> rfl

end

/-- A die other than the home's that does not own an RC line gets a U copy, the first of the line (R163). -/
theorem readUpdate_first {op : BitVec 3} {w : Bool} {t : BitVec 4} (ho : ownAgent s a = true) (hd : inDevice (linePa l) = true)
    (ha : (frameRec s.m (linePa l)).attr = aRc) (hh : homeDie (linePa l) ≠ a.toNat % 4) (hm : ownsLine s.m a.toNat l.toNat = false)
    (hu : ∀ u ∈ s.m.ucopies, u.line ≠ l.toNat) : exec (.readUpdate a l op w t) s = .next { s with m := { (grantU s.m a.toNat l.toNat) with
      ucopies := { agent := a.toNat, line := l.toNat, op := op, wide := w, type := t, parts := [] } :: s.m.ucopies } } := by
  have ownable : ownableLine s.m (linePa l) = true := by simp [ownableLine, hd, ha]
  have no_other : (s.m.ucopies.any fun u => u.line = l.toNat && !(u.op = op && u.wide = w && u.type = t)) = false := by
    simpa using fun u hm he => absurd he (hu u hm)
  have no_own : (s.m.ucopies.any fun u => u.line = l.toNat && u.agent = a.toNat) = false := by
    simpa using fun u hm he => absurd he (hu u hm)
  show execReadUpdate a l op w t s = _
  simp only [execReadUpdate, ho, ownable, hh, hm, no_other, no_own, Bool.and_self, ne_eq, not_false_eq_true, decide_true, Bool.not_true, Bool.or_self,
    Bool.false_eq_true, ↓reduceIte]

theorem writeBack_owner {k : BitVec 128} {d : BitVec 1024} (hl : hostLineAt s (linePa l) = false) (hm : dirGet s.m a.toNat l.toNat = some .m) :
    exec (.writeBack a l k d) s = .next { s with m := dieDrop (mergeBytes s.m l.toNat k d) a.toNat l.toNat } := by
  show execWriteBack a l k d s = _
  simp only [execWriteBack, hl, hm, Bool.false_eq_true, ↓reduceIte]

theorem update_owner {k : BitVec 128} {d : BitVec 1024} (ho : ownAgent s a = true)
    (hm : dirGet s.m a.toNat l.toNat = some .m ∨ dirGet s.m a.toNat l.toNat = some .e) : exec (.update a l k d) s =
      .next { s with m := dirSet (updateBytes s.m (a.toNat % 4) l.toNat k d) a.toNat l.toNat (some .m) } := by
  refine congrArg Host.Outcome.next (if_pos ?_)
  simpa [ho, ownsLine] using hm

theorem invalidate_drops (hl : hostLineAt s (linePa l) = false) (ho : ownAgent s a = true) (hu : dirGet s.m a.toNat l.toNat ≠ some .u) :
    exec (.invalidate a l) s = .next { s with m := dieDrop s.m a.toNat l.toNat } := by
  show execInvalidate a l s = _
  simp only [execInvalidate, ho, hl, if_neg hu, Bool.not_true, Bool.not_false, Bool.false_eq_true, ↓reduceIte]

theorem acknowledge_device (hl : hostLineAt s (linePa l) = false) : exec (.acknowledge a l) s = .next s :=
  congrArg Host.Outcome.next (if_neg (by rw [hl, Bool.and_false]; exact Bool.false_ne_true))

theorem recall_holder (h : ∃ u ∈ s.m.ucopies, u.line = l.toNat ∧ u.agent = a.toNat) :
    exec (.recall a l) s = .next { s with m := recallLine s.m l.toNat } := by
  refine congrArg Host.Outcome.next (if_pos ?_)
  simpa using h

theorem partialReturn_holder (h : dirGet s.m a.toNat l.toNat = some .u) :
    exec (.partialReturn a l) s = .next { s with m := recallLine s.m l.toNat } :=
  congrArg Host.Outcome.next (if_pos h)

end

/-! ### Host accesses (R166, R174, R175, R425) -/

section
variable {s : State} {pa : BitVec 52}

/-- Nothing that the bridge records of a line is dirty elsewhere where it records nothing of it. -/
theorem hostWaits_free {q : HostReq} (hm : lineMarked s.m q.pa = false) (hd : q.snoop = none ∨ ∀ e ∈ s.m.bridgeDir, e.line ≠ q.pa.toNat / 128) :
    hostWaits s q = false := by
  rcases hd with h | h
  · simp [hostWaits, hm, h]
  · have owner : groupOwner s q.pa = false := by
      simpa [groupOwner] using fun e he hl => absurd hl (h e he)
    simp [hostWaits, hm, owner]

/-- A request of the host that waits for nothing is answered with the line's bytes, which no answer changes. -/
theorem askHost_answers {q : HostReq} (hw : hostWaits s q = false) (hu : ∀ u ∈ s.m.ucopies, u.line ≠ q.pa.toNat / 128) :
    ∃ m, askHost s q = { s with m := m } ∧ m.hostOut = s.m.hostOut ++ [(q.pa, some (hostLine s.m q.pa))] ∧ m.cells = s.m.cells ∧
      (q.snoop = none → q.copy = false → m = { s.m with hostOut := m.hostOut }) := by
  rw [askHost, if_neg (by simp [hw]), answerHost, recallLine_without hu]
  refine ⟨_, rfl, ?_⟩
  dsimp only
  rcases q with ⟨snoop, copy, qpa, interval⟩
  rcases snoop with _ | st
  · dsimp only
    split
    next shared => exact ⟨rfl, rfl, fun _ hc => by simp [hc] at shared⟩
    next => exact ⟨rfl, rfl, fun _ _ => rfl⟩
  · exact ⟨rfl, rfl, fun hs => absurd hs (by simp)⟩

theorem copyToMate_noBridge {f : Fabric} (hb : f.bridge = false) (n : Nat) (pa : BitVec 52) (w : Option (BitVec 64 × BitVec 512)) :
    copyToMate f n pa w = f := if_neg (by simp [hb])

section
variable (hr : hostReaches pa.toNat = true) (c : Bool)
include hr

theorem hostMemRead_asks : exec (.hostMemRead pa c) s =
    .next (askHost { s with fab := copyToMate s.fab s.m.interval pa none } { snoop := none, copy := c, pa := pa, interval := 0 }) := by
  show execHostMemRead pa c s = _
  simp only [execHostMemRead, hr, Bool.true_or, Bool.and_true, ↓reduceIte]

/-- A read of a line without a mark is answered with the line's bytes, which no copy granted with them changes. -/
theorem hostMemRead_answers (hm : lineMarked s.m pa = false) (hu : ∀ u ∈ s.m.ucopies, u.line ≠ pa.toNat / 128) :
    ∃ m, exec (.hostMemRead pa c) s = .next { s with m := m, fab := copyToMate s.fab s.m.interval pa none } ∧
      m.hostOut = s.m.hostOut ++ [(pa, some (hostLine s.m pa))] ∧ m.cells = s.m.cells ∧ (c = false → m = { s.m with hostOut := m.hostOut }) := by
  obtain ⟨m, answered, out, cells, only⟩ := askHost_answers (s := { s with fab := copyToMate s.fab s.m.interval pa none })
    (q := { snoop := none, copy := c, pa := pa, interval := 0 }) (hostWaits_free hm (.inl rfl)) hu
  exact ⟨m, (hostMemRead_asks hr c).trans (congrArg Host.Outcome.next answered), out, cells, only rfl⟩

/-- A read of a line with a mark is held (R175). -/
theorem hostMemRead_held (hm : lineMarked s.m pa = true) (hb : s.fab.bridge = false) : exec (.hostMemRead pa c) s =
    .next { s with m := { s.m with hostHeld := s.m.hostHeld ++ [{ snoop := none, copy := c, pa := pa, interval := markOf s.m pa }] } } := by
  rw [hostMemRead_asks hr, copyToMate_noBridge hb, askHost, if_pos (by simp [hostWaits, hm])]

end

/-- Where the host reaches no memory, a read is answered with poison and counted (R425, R464). -/
theorem hostMemRead_rejected (hr : hostReaches pa.toNat = false) (hj : inJournal pa.toNat = false) (c : Bool) : exec (.hostMemRead pa c) s =
    .next (count { s with m := { s.m with hostOut := s.m.hostOut ++ [(pa, none)] } } 0x0032#16 0#32 1) := by
  refine congrArg Host.Outcome.next (if_neg ?_)
  simp [hr, hj]

/-- A host write is logged under the next number of the event arbiter, here and at the buddy, and merged (R174). -/
theorem hostMemWrite_merges {k : BitVec 64} {d : BitVec 512} {r : InputRec} {u : State} (hr : hostReaches pa.toNat = true)
    (hp : publishedLine s.m pa.toNat = false) (hb : s.fab.bridge = false)
    (er : r = { interval := s.m.interval, seq := s.hub.jtail, pa := BitVec.ofNat 52 (pa.toNat / 64 * 64), mask := k, data := d })
    (eu : u = hubLog (takeSeq s).1 (inputAt s.hub.jtail) (inputRecord r)) :
    exec (.hostMemWrite pa k d) s =
      .next { u with m := { mergeHost u.m pa.toNat k d with inputs := (mergeHost u.m pa.toNat k d).inputs ++ [r] } } := by
  have bridge : u.fab.bridge = false := by rw [eu, (onlySends_hubLog ..).fab]; exact hb
  have logged : exec (.hostMemWrite pa k d) s = .next { u with
      m := { mergeHost u.m pa.toNat k d with inputs := (mergeHost u.m pa.toNat k d).inputs ++ [r] }
      fab := copyToMate u.fab u.m.interval pa (some (k, d)) } := by
    subst eu er
    refine congrArg Host.Outcome.next (if_neg ?_)
    simp [hr, hp]
  rw [logged, copyToMate_noBridge bridge]

theorem hostMemWrite_rejected (k : BitVec 64) (d : BitVec 512) (h : hostReaches pa.toNat = false ∨ publishedLine s.m pa.toNat = true) :
    exec (.hostMemWrite pa k d) s = .next (count s 0x0032#16 0#32 1) := by
  refine congrArg Host.Outcome.next (if_pos ?_)
  rcases h with h | h <;> simp [h]

theorem hostSnoop_elsewhere (c : BitVec 3) (hb : s.fab.bridge = false) : exec (.hostSnoop pa c) s = .next s := by
  refine congrArg Host.Outcome.next (if_pos ?_)
  simp [hb]

/-- A snoop of a host line that no device of the group holds asks nobody (R165). -/
theorem hostSnoop_asks (c : BitVec 3) (hb : s.fab.bridge = true) (hl : hostLineAt s pa.toNat = true)
    (hd : ∀ e ∈ s.m.bridgeDir, e.line ≠ pa.toNat / 128) :
    exec (.hostSnoop pa c) s = .next (askHost s { snoop := some c, copy := false, pa := pa, interval := 0 }) := by
  have near : (s.m.bridgeDir.filter fun e => e.line = pa.toNat / 128 && agentDevice e.agent ≠ s.fab.ident) = [] := by
    simpa [List.filter_eq_nil_iff] using fun e he h => absurd h (hd e he)
  show execHostSnoop pa c s = _
  simp only [execHostSnoop, hb, hl, near, List.foldl_nil, Bool.and_self, Bool.not_true, Bool.false_eq_true, ↓reduceIte]

end

/-- Settles O52: each message by the copy that it finds, each access of the host by its line. The codes of the states are the model's choice (log
entry 29), and where the input log lies is log entry 28's. -/
theorem coherenceEventResult : Obligations.CoherenceEventResult := by
  refine ⟨fun s a l ho hl ht => ⟨fun hd hh hu => ?first, fun hw => ?owns, fun c hc => ?grantM, fun c hc => ?grantS, ?grantI⟩,
    fun s a l op w t ho hd ha hh hm hu => ⟨_, readUpdate_first ho hd ha hh hm hu, dirGet_grantU .., rfl, ?host, rfl⟩,
    fun s a l k d hl => ⟨writeBack_owner hl, update_owner, invalidate_drops hl, acknowledge_device hl⟩,
    fun s a l => ⟨recall_holder, partialReturn_holder⟩, fun s pa hu => ⟨fun hr hm c => ?reads, fun hr hm hb c => hostMemRead_held hr c hm hb,
      hostMemRead_rejected⟩,
    fun s pa k d => ⟨fun hr hp hb r u => hostMemWrite_merges hr hp hb, hostMemWrite_rejected k d⟩,
    fun s pa c => ⟨hostSnoop_elsewhere c, fun hb hl hd hm hu => ?snoops⟩⟩
  case first =>
    refine ⟨_, readShared_shares ho hl ht, ?_⟩
    rw [homeShare_first hd hh hu, linePa, Nat.mul_comm]
    refine ⟨rfl, rfl, ?_⟩
    simp [dirGet, apply_ite]
  case owns =>
    obtain ⟨dies, hosts⟩ := dirOwn_alone (recallLine s.m l.toNat) a.toNat l.toNat
    exact ⟨_, (readOwn_next ho hl).trans (congrArg _ (if_pos hw)), dirGet_dirOwn .., dies, hosts, recallLine_gone s.m l.toNat⟩
  case grantM => rw [grant_next ho hl ht, hc]
  case grantS => rcases hc with hc | hc <;> rw [grant_next ho hl ht, hc]
  case grantI => exact ⟨_, grant_next ho hl ht 0#3, dirGet_dieDrop .., rfl⟩
  case host => exact grantU_hostDir s.m a.toNat l.toNat
  case reads =>
    obtain ⟨m, answered, out, cells, only⟩ := hostMemRead_answers hr c hm hu
    exact ⟨_, answered, out, cells, rfl, fun hc hb => by rw [copyToMate_noBridge hb, ← only hc]⟩
  case snoops =>
    obtain ⟨m, answered, out, cells, -⟩ := askHost_answers (q := { snoop := some c, copy := false, pa := pa, interval := 0 })
      (hostWaits_free hm (.inr hd)) hu
    exact ⟨_, by rw [hostSnoop_asks c hb hl hd, answered], out, cells⟩

end Sys2Proof.Machine

/-! Calls, returns and indirect jumps (R265 to R268). -/

namespace Sys2Proof.Machine

section
variable {s : State} {a : Byte} {t : VA}

/-- The pair's VA, where neither half is poisoned and the VA is aligned. -/
theorem pairTarget_ok (h : PairHolds s.w a t) : pairTarget s.w a = .ok t := by
  obtain ⟨lo, hi, ht, aligned⟩ := h
  simp only [pairTarget, consumeS, sReg, lo, hi, Bool.false_eq_true, ↓reduceIte, ← ht, if_pos aligned]

/-- The low half holds the bits of the pair's VA that alignment is about. -/
theorem pair_lowBits (x y : DWord) : ((y ++ x).setWidth 80 : VA).extractLsb' 0 2 = x.extractLsb' 0 2 := by
  ext i hi
  have low : i < 64 := by omega
  have wide : i < 80 := by omega
  simp only [BitVec.getElem_extractLsb', BitVec.getLsbD_setWidth, Nat.zero_add, wide, decide_true, Bool.true_and]
  rw [BitVec.getLsbD_append, if_pos low]

/-- A pair whose VA is not word aligned is no target (R266). -/
theorem pairTarget_misaligned {x y : DWord} (lo : s.w.s[Fin.ofNat 64 a.toNat] = ⟨x, false⟩)
    (hi : s.w.s[Fin.ofNat 64 (a.toNat + 1)] = ⟨y, false⟩) (h : x.extractLsb' 0 2 ≠ 0#2) : pairTarget s.w a = trap cMisaligned 0x00 := by
  rw [← pair_lowBits x y] at h
  simp only [pairTarget, consumeS, sReg, lo, hi, Bool.false_eq_true, ↓reduceIte, if_neg h]

/-- A call with room on the stack. -/
theorem callTo_calls (h : s.w.stack.length < 256) : callTo t s = .ok { s with w := calls s.w t } := if_neg h.ne

theorem callTo_overflow (h : s.w.stack.length = 256) : callTo t s = trap cStackOverflow 0x00 := if_pos h

theorem calli_next (hp : Passes s .no [.sregs a 2]) (ha : active s.w ≠ 0#64) (hl : s.w.stack.length < 256) (ht : PairHolds s.w a t) :
    exec (.calli a) s = .next { s with w := calls s.w t } := by
  refine exec_ok (show execCalli a s = _ from rfl) hp rfl ((warpOnce_runs ha).trans ?_)
  simp only [pairTarget_ok ht, callTo_calls hl]

theorem calli_misaligned (hp : Passes s .no [.sregs a 2]) (ha : active s.w ≠ 0#64) (ht : pairTarget s.w a = trap cMisaligned 0x00) :
    exec (.calli a) s = .next (takeTrap s { code := cMisaligned, detail := 0x00#8 }) := by
  refine exec_trap (i := .calli a) (show execCalli a s = _ from rfl) hp ((warpOnce_runs ha).trans ?_) (by decide)
  rw [ht]
  rfl

theorem jmpi_next (hp : Passes s .yes [.sregs a 2]) (ha : active s.w ≠ 0#64) (ht : PairHolds s.w a t) :
    exec (.jmpi a) s = .next { s with w := jumpTo s.w t } := by
  refine exec_ok (show execJmpi a s = _ from rfl) hp rfl ((warpOnce_runs ha).trans ?_)
  simp only [pairTarget_ok ht]

theorem jmpi_misaligned (hp : Passes s .yes [.sregs a 2]) (ha : active s.w ≠ 0#64) (ht : pairTarget s.w a = trap cMisaligned 0x00) :
    exec (.jmpi a) s = .next (takeTrap s { code := cMisaligned, detail := 0x00#8 }) := by
  refine exec_trap (i := .jmpi a) (show execJmpi a s = _ from rfl) hp ((warpOnce_runs ha).trans ?_) (by decide)
  rw [ht]
  rfl

/-- RET pops a call entry (R267). -/
theorem ret_pops {e : StackEntry} {rest : List StackEntry} (hp : Passes s .no []) (hs : s.w.stack = e :: rest) (hk : e.kind = .call) :
    exec .ret s = .next { s with w := jumpTo { s.w with stack := rest, exec := e.mask, m := e.m &&& ~~~s.w.gone } (s.w.lrhi ++ s.w.lr) } := by
  refine exec_ok (show execRet s = _ from rfl) hp rfl ?_
  simp only [hs, hk, ne_eq, not_true_eq_false, ↓reduceIte]

/-- RET has no other entry to return to (R267, R384). -/
theorem ret_traps (hp : Passes s .no []) (h : ∀ e rest, s.w.stack = e :: rest → e.kind ≠ .call) :
    exec .ret s = .next (takeTrap s { code := cIllegalInstruction, detail := 0x21#8 }) := by
  refine exec_trap (i := .ret) (show execRet s = _ from rfl) hp ?_ (by decide)
  split
  · rfl
  · next e rest hs => exact if_pos (h e rest hs)

end

/-- Settles O8: a call pushes its entry and goes to its target, a return pops it. -/
theorem callResult : Obligations.CallResult := by
  refine ⟨fun s o w hp ha hl => ?_, fun s o w hp ha => ?_, fun s a t hp ha hl ht => calli_next hp ha hl ht, fun s a hp ha => ?_,
    fun s e rest hp hs hk => ret_pops hp hs hk, fun s a t hp ha ht => jmpi_next hp ha ht, fun s a hp ha => ?_,
    fun s a x y ha lo hi hx => ?_, fun s o w hp ha hl => ?_, fun s o w hp => ?_, fun s hp h => ret_traps hp h⟩
  · exact exec_ok (show execCall o w s = _ from rfl) hp rfl ((warpOnce_runs ha).trans (callTo_calls hl))
  · exact exec_ok (show execCall o w s = _ from rfl) hp rfl (warpOnce_skips ha)
  · exact exec_ok (show execCalli a s = _ from rfl) hp rfl (warpOnce_skips ha)
  · exact exec_ok (show execJmpi a s = _ from rfl) hp rfl (warpOnce_skips ha)
  · have misaligned := pairTarget_misaligned lo hi hx
    exact ⟨fun hp => jmpi_misaligned hp ha misaligned, fun hp => calli_misaligned hp ha misaligned⟩
  · exact exec_trap (i := .call o w) (show execCall o w s = _ from rfl) hp ((warpOnce_runs ha).trans (callTo_overflow hl)) (by decide)
  · exact exec_ok (show execRcv o w s = _ from rfl) hp rfl rfl

end Sys2Proof.Machine

/-! The end of lanes and of warps, and the words that only wait (R240, R249, R269, R270). -/

namespace Sys2Proof.Machine

/-! ### The end of a warp (R269) -/

section
variable {s : State}

/-- What a warp that ends is left with. -/
theorem endWarp_w (s : State) : (endWarp s).w = { s.w with status := .done, claimed := 0#29, late := [], exec := 0#64, matReq := none } :=
  (retireQueues_frame _ _).1

theorem afterExit_ends (h : s.w.gone = 0xFFFFFFFFFFFFFFFF#64) : afterExit s = endWarp s := if_pos h

theorem afterExit_goesOn (h : s.w.gone ≠ 0xFFFFFFFFFFFFFFFF#64) (he : s.w.exec ≠ 0#64) : afterExit s = advance s :=
  (if_neg h).trans (if_neg he)

/-- A path without lanes resumes from the stack, where something is left to resume. -/
theorem afterExit_resumes {u : Warp} (h : s.w.gone ≠ 0xFFFFFFFFFFFFFFFF#64) (he : s.w.exec = 0#64)
    (hu : u = unwind (2 * s.w.stack.length + 1) true { s.w with status := .running, woken := false }) (hn : u.exec ≠ 0#64 ∨ u.stack ≠ []) :
    afterExit s = { s with w := u } := by
  have left : ¬(u.exec = 0#64 && u.stack.isEmpty) = true := by
    simpa [Decidable.imp_iff_not_or] using hn
  refine (if_neg h).trans ((if_pos he).trans ?_)
  rw [← hu]
  exact if_neg left

/-- EXIT with lanes active marks them exited, and what follows depends on those left. -/
theorem exit_next (hp : Passes s .yes []) (hr : s.w.rap = false) (ha : active s.w ≠ 0#64) :
    exec .exit s = .next (afterExit { s with w := leaves s.w (active s.w) }) := by
  refine exec_ok (show execExit s = _ from rfl) hp rfl ?_
  simp only [hr, Bool.false_eq_true, ↓reduceIte, if_neg ha]
  rfl

theorem exit_idle (hp : Passes s .yes []) (hr : s.w.rap = false) (ha : active s.w = 0#64) : exec .exit s = .next (advance s) := by
  refine exec_ok (show execExit s = _ from rfl) hp rfl ?_
  simp only [hr, Bool.false_eq_true, ↓reduceIte, if_pos ha]

/-- In the run-ahead processor EXIT stops the processor. -/
theorem exit_runAhead (hp : Passes s .yes []) (hr : s.w.rap = true) : exec .exit s = .next { s with w := { s.w with status := .done } } :=
  exec_ok (show execExit s = _ from rfl) hp rfl (if_pos hr)

end

/-! ### Words that wait, and the run-ahead entry (R249, R270) -/

section
variable {s : State} {n : BitVec 10} {o : BitVec 16} {w : BitVec 4}

theorem sleep_none (hp : Passes s .yes []) : exec (.sleep 0#10) s = .next (yieldTurn s) :=
  exec_ok (show execSleep 0#10 s = _ from rfl) hp rfl rfl

theorem sleep_parks (hp : Passes s .yes []) (hn : n ≠ 0#10) : exec (.sleep n) s = .next { s with
    w := { stepOver s.w with yields := true, status := .parked .sleep, since := s.w.cyc.toNat + 64 * n.toNat }, turn := 0 } :=
  exec_ok (show execSleep n s = _ from rfl) hp rfl (if_neg hn)

theorem rapent_next (hp : Passes s .yes []) (hr : s.w.rap = false) (hc : s.w.pc = s.b.code + 4#80) : exec (.rapent o w) s = .next (advance s) := by
  refine exec_ok (show execRapent o w s = _ from rfl) hp rfl (if_pos ?_)
  rw [hr, hc]
  simp

theorem rapent_traps (hp : Passes s .yes []) (h : s.w.rap = true ∨ s.w.pc ≠ s.b.code + 4#80) :
    exec (.rapent o w) s = .next (takeTrap s { code := cIllegalInstruction, detail := 0x05#8 }) := by
  refine exec_trap (i := .rapent o w) (show execRapent o w s = _ from rfl) hp (if_neg ?_) (by decide)
  rcases h with h | h <;> simp [h]

end

/-- Settles O9: EXIT by the lanes that are left, the waiting words by the turn that they give up. An empty stack under an empty EXEC, which log
entry 11 lets end the warp, is no case of the statement. -/
theorem exitResult : Obligations.ExitResult := by
  refine ⟨fun s hp hr => exit_runAhead hp hr, fun s hp hr ha => exit_idle hp hr ha, fun s hp hr ha he hg => ?_, fun s hp hr ha hg => ?_,
    fun s u hp hr ha he hg hu hn => ?_, fun s => rfl, fun s hp => ⟨?_, sleep_none hp⟩, fun s n hp hn => sleep_parks hp hn,
    fun s o w hp hr hc => rapent_next hp hr hc, fun s o w hp h => rapent_traps hp h⟩
  · exact (exit_next hp hr ha).trans (congrArg _ (afterExit_goesOn hg he))
  · exact ⟨_, (exit_next hp hr ha).trans (congrArg _ (afterExit_ends hg)), endWarp_w _⟩
  · refine (exit_next hp hr ha).trans (congrArg _ (afterExit_resumes hg he ?_ hn))
    have depth : (leaves s.w (active s.w)).stack.length = s.w.stack.length := List.length_map ..
    rw [hu, depth]
  · exact exec_ok (show execYield s = _ from rfl) hp rfl rfl

end Sys2Proof.Machine

/-! The return from a trap (R374, R386). -/

namespace Sys2Proof.Machine

section
variable {above below : List StackEntry} {e : StackEntry}

/-- The entries above the topmost trap entry are passed over. -/
theorem dropToTrap_append (ha : ∀ a ∈ above, a.kind ≠ .trap) (he : e.kind = .trap) : dropToTrap (above ++ e :: below) = some (e, below) := by
  induction above with
  | nil => exact if_pos he
  | cons a above ih =>
    obtain ⟨first, others⟩ := List.forall_mem_cons.mp ha
    exact (if_neg first).trans (ih others)

theorem dropToTrap_none {l : List StackEntry} (h : ∀ e ∈ l, e.kind ≠ .trap) : dropToTrap l = none := by
  induction l with
  | nil => rfl
  | cons e l ih =>
    obtain ⟨first, others⟩ := List.forall_mem_cons.mp h
    exact (if_neg first).trans (ih others)

/-- FLOOR is the depth of the topmost trap entry (R386). -/
theorem floorOf_eq (l : List StackEntry) : unwind.floorOf l =
    ((l.findIdx? fun b => b.kind = .trap).map fun i => BitVec.ofNat 9 (l.length - i)).getD 0#9 := by
  induction l with
  | nil => rfl
  | cons b l ih =>
    rw [unwind.floorOf, List.findIdx?_cons]
    by_cases h : b.kind = .trap
    · simp [h]
    · simp only [h, ih, decide_false, Bool.false_eq_true, ↓reduceIte, Option.map_map]
      congr 2
      funext i
      simp

/-- A path with lanes left that stands at no reconvergence point of the entry on top goes on as it is (R193). -/
theorem unwind_stays (n : Nat) {w : Warp} (h : ∀ b ∈ w.stack.head?, b.kind = .call ∨ b.kind = .trap ∨ w.pc ≠ b.rpc) : unwind n false w = w := by
  cases n with
  | zero => rfl
  | succ n =>
    cases hs : w.stack with
    | nil => simp only [unwind, hs]
    | cons b rest =>
      have top := h b (by rw [hs]; rfl)
      rcases top with hk | hk | hp
      · simp only [unwind, hs, hk, Bool.false_eq_true, ↓reduceIte]
      · simp only [unwind, hs, hk, Bool.false_eq_true, ↓reduceIte]
      · cases hk : b.kind <;> simp only [unwind, hs, hk, hp, decide_false, Bool.or_self, Bool.false_eq_true, ↓reduceIte]

variable {s : State}

theorem tret_next (hp : Passes s .no []) (hs : s.w.stack = above ++ e :: below) (ha : ∀ a ∈ above, a.kind ≠ .trap) (he : e.kind = .trap)
    (hm : e.mask ≠ 0#64) (hb : ∀ b ∈ below.head?, b.kind = .call ∨ b.kind = .trap ∨ e.pc ≠ b.rpc) :
    exec .tret s = .next { s with w := { s.w with
      stack := below, exec := e.mask, m := e.m &&& ~~~s.w.gone, pc := e.pc, enter := true, trapmask := 0#64, floor := unwind.floorOf below
      rp := unwind.rpOf e, rowResume := s.w.rowAt = some e.pc, status := .running, woken := false } } := by
  refine exec_ok (show execTret s = _ from rfl) hp rfl ?_
  simp only [trapReturn, hs, dropToTrap_append ha he, decide_eq_false hm]
  rw [unwind_stays _ hb]

theorem tret_traps (hp : Passes s .no []) (h : ∀ e ∈ s.w.stack, e.kind ≠ .trap) :
    exec .tret s = .next (takeTrap s { code := cIllegalInstruction, detail := 0x22#8 }) := by
  refine exec_trap (i := .tret) (show execTret s = _ from rfl) hp ?_ (by decide)
  simp only [trapReturn, dropToTrap_none h]
  rfl

end

/-- Settles O12: the topmost trap entry is found, and what it saved goes back. -/
theorem tretResult : Obligations.TretResult := by
  refine ⟨fun s above below e hp hs ha he hm hb => ?_, fun s hp h => tret_traps hp h⟩
  rw [← floorOf_eq]
  exact tret_next hp hs ha he hm hb

end Sys2Proof.Machine

/-! Special registers read (R189, R191, R358, R375). -/

namespace Sys2Proof.Machine

theorem rdsr_next {s : State} {d : Byte} {n : BitVec 10} (hp : Passes s (if rapRegister n then .yes else .no) [.sdst d])
    (hm : n = 8#10 → s.w.mat = none) : exec (.rdsr d n) s = .next (s.putScalar d ⟨specialReg s n, false⟩) := by
  refine exec_ok (show execRdsr d n s = _ from rfl) hp rfl (if_neg ?_)
  by_cases h : n = 8#10
  · simp [hm h]
  · simp [h]

/-! ### Registers made of fields -/

/-- The number that two fields side by side make. -/
theorem toNat_append_add {n m : Nat} (x : BitVec n) (y : BitVec m) : (x ++ y).toNat = x.toNat * 2 ^ m + y.toNat := by
  rw [BitVec.toNat_append, ← Nat.shiftLeft_add_eq_or_of_lt y.isLt, Nat.shiftLeft_eq]

/-- Fields side by side, widened, are the fields in their places. -/
theorem setWidth_append {n m k : Nat} (x : BitVec n) (y : BitVec m) : (x ++ y).setWidth k = x.setWidth k <<< m ||| y.setWidth k := by
  ext i hi
  simp only [BitVec.getElem_setWidth, BitVec.getLsbD_append, BitVec.getElem_or, BitVec.getElem_shiftLeft]
  by_cases hm : i < m
  · simp [hm]
  · simp [hm, BitVec.getLsbD_of_ge y i (Nat.le_of_not_lt hm)]

/-- A register holds fields whose number it is. -/
theorem ofNat_eq_setWidth {n k m : Nat} {x : BitVec n} (h : x.toNat = k) : BitVec.ofNat m k = x.setWidth m := by
  rw [← h, BitVec.ofNat_toNat]

section
variable (s : State)

/-- ACCSTAT: CFG, PEND and the operation that is pending (R358). -/
theorem specialReg_accstat : specialReg s 6#10 =
    (BitVec.ofBool s.x.cfg ++ s.w.accPend.extractLsb' 12 1 ++ 0#4 ++ s.w.accPend.extractLsb' 0 12).setWidth 64 := by
  simp only [setWidth_append, BitVec.setWidth_zero, BitVec.or_zero, ← BitVec.shiftLeft_add, BitVec.shiftLeft_or_distrib]
  show accStat s = _
  unfold accStat
  cases s.x.cfg <;> rfl

theorem specialReg_warpid : specialReg s 12#10 = (BitVec.ofBool s.w.twin ++ s.w.stage ++ 0#8 ++ s.w.widx).setWidth 64 := by
  refine ofNat_eq_setWidth ?_
  simp only [toNat_append_add, BitVec.toNat_ofBool, BitVec.toNat_ofNat, atBit]
  omega

theorem specialReg_blockid : specialReg s 13#10 = (s.b.z ++ s.b.y ++ s.b.x).setWidth 64 := by
  refine ofNat_eq_setWidth ?_
  simp only [toNat_append_add, atBit]
  omega

theorem specialReg_gang : specialReg s 15#10 = (s.b.gcount ++ 0#8 ++ s.b.member).setWidth 64 := by
  refine ofNat_eq_setWidth ?_
  simp only [toNat_append_add, BitVec.toNat_ofNat, atBit]
  omega

/-- The four parts of the origin record. -/
theorem specialReg_porig : specialReg s 19#10 ++ specialReg s 18#10 ++ specialReg s 17#10 ++ specialReg s 16#10 = s.w.porig := by
  have parts : s.w.porig.extractLsb' 192 64 ++ s.w.porig.extractLsb' 128 64 ++ s.w.porig.extractLsb' 64 64 ++ s.w.porig.extractLsb' 0 64 =
      s.w.porig := by
    rw [BitVec.extractLsb'_append_extractLsb'_eq_extractLsb' (start₁ := 128) (len₁ := 64) rfl,
      BitVec.extractLsb'_append_extractLsb'_eq_extractLsb' (start₁ := 64) (len₁ := 64) rfl,
      BitVec.extractLsb'_append_extractLsb'_eq_extractLsb' (start₁ := 0) (len₁ := 64) rfl]
    exact BitVec.extractLsb'_eq_self
  exact parts

/-- STACK: the depth, and FLOOR above it. -/
theorem specialReg_stack (h : s.w.stack.length ≤ 256) :
    specialReg s 21#10 = (s.w.floor ++ 0#7 ++ BitVec.ofNat 9 s.w.stack.length).setWidth 64 := by
  refine ofNat_eq_setWidth ?_
  simp only [toNat_append_add, BitVec.toNat_ofNat, atBit]
  omega

theorem specialReg_loc : specialReg s 23#10 = (s.w.span ++ s.w.core ++ s.w.part ++ s.w.slot ++ 0#2).setWidth 64 := by
  refine ofNat_eq_setWidth ?_
  simp only [toNat_append_add, BitVec.toNat_ofNat, atBit]
  omega

end

/-- Settles O13: RDSR writes the register, whose fields lie as their tables say. -/
theorem rdsrResult : Obligations.RdsrResult :=
  ⟨fun _ _ _ _ hp hm => rdsr_next hp hm, fun s => ⟨rfl, rfl, rfl, rfl, rfl, rfl, specialReg_accstat s, rfl, rfl, rfl⟩,
    fun s => ⟨BitVec.toNat_ofNat .., rfl, specialReg_warpid s, specialReg_blockid s, rfl, specialReg_gang s, specialReg_porig s⟩,
    fun s => ⟨rfl, specialReg_stack s, rfl, specialReg_loc s, rfl, rfl⟩⟩

end Sys2Proof.Machine

/-! Regrouping threads (R204, R293). -/

namespace Sys2Proof.Machine

section
variable {s : State} {a b : Byte}

/-- A form that pops its own queue, passed by the front end, ends as its own checks and effect say. -/
theorem issueOwn_passes {rap : RapUse} {l : List Opd} {k : State → Run State} (p : Passes s rap l) :
    issueOwn { rap := rap, opds := l } s k = finish s (namesHandle 0#4 (k s)) := by
  unfold Passes at p
  unfold issueOwn
  rewrite [p]
  rfl

/-- REORD of a warp that has arrived completes the collective, or waits on. -/
theorem reord_again (ha : arrived s.w = true) (hp : Passes s .no [.ssrc b]) :
    exec (.reord a b) s = .next (if (participants s).all arrived then completeReord s else { s with w := waiting s.w .reord, turn := 0 }) := by
  show execReord a b s = _
  simp only [execReord, ha, ↓reduceIte, issueOwn_passes hp]
  split <;> rfl

/-- REORD of a warp whose operands pass every check of R293 and R294 arrives, and the last arrival completes the collective. -/
theorem reord_arrives {s₁ s₂ : State} {x : Src} {y : DWord} (ha : arrived s.w = false) (hp : Passes s .no [.vsrc a false, .ssrc b])
    (hc : s.b.accord = false) (hs : s.w.stack = []) (hb : readS s b = .ok (s₁, ⟨y, false⟩)) (hx : readV s₁ false a = .ok (s₂, x))
    (hk : Clean (active s.w) x) (hw : y.toNat < 2 ^ 29) (hu : unclaimedLive s.w (y.setWidth 29) = none)
    (hv : ∀ r, r < 232 → (y.setWidth 29 : BitVec 29).getLsbD (r / 8) = true → vPending s.w r = false)
    (haw : (y.setWidth 29 : BitVec 29) &&& s.w.away = 0#29) :
    exec (.reord a b) s = .next (settleReord (arrive s₂ a x (y.setWidth 29))) := by
  have same : s₂.w = s.w := (readV_w hx).trans (readS_w hb)
  have settled : ((List.range 232).any fun r => (y.setWidth 29 : BitVec 29).getLsbD (r / 8) && vPending s.w r) = false := by
    simp only [List.any_eq_false, List.mem_range, Bool.and_eq_true, not_and, Bool.not_eq_true]
    exact hv
  show execReord a b s = _
  simp only [execReord, ha, Bool.false_eq_true, ↓reduceIte, issueOwn_passes hp, hc, hs, ne_eq, not_true_eq_false, hb, consumeS, hx, same,
    consumeV_clean hk, noHighBits hw, hu, settled, haw]
  rfl

/-- The only participant of a collective regroups its own threads (R204). -/
theorem completeReord_alone (h : participants s = [s.w]) : (completeReord s).w = regroup [s.w] (sortedThreads [s.w]).toArray 0 s.w := by
  simp [completeReord, h, mapWarps, List.findIdx?_cons]

end

/-- Settles O15: a warp arrives and the last arrival completes; alone, a warp regroups its own threads. -/
theorem reordResult : Obligations.ReordResult :=
  ⟨fun _ _ _ _ _ _ _ ha hp hc hs hb hx hk hw hu hv haw => reord_arrives ha hp hc hs hb hx hk hw hu hv haw,
    fun _ _ _ ha hp => reord_again ha hp, fun _ h => completeReord_alone h⟩

end Sys2Proof.Machine

/-! The launch of a gang (R223, log entry 25). -/

namespace Sys2Proof.Machine

/-! ### Reads of a hub unit -/

/-- A state differs from another in its memories alone. -/
def OnlyMemory (s t : State) : Prop := t = { s with m := t.m }

theorem OnlyMemory.hub {s t : State} (h : OnlyMemory s t) : t.hub = s.hub := (congrArg State.hub h :)

theorem hubPlace_onlyMemory {s t : State} {x : Ctx} {a : Access} {va : Nat} {p : Place} (h : hubPlace s x a va = .ok (t, p)) : OnlyMemory s t := by
  unfold hubPlace resolveVaOf at h
  split at h
  · cases h
  · cases h
  next e =>
  split at h
  · cases h
  split at h <;> cases h
  split at e
  · cases e
  · cases e
  · split at e <;> cases e
    rfl

theorem hubFetch_onlyMemory {s t : State} {x : Ctx} {va n k : Nat} (h : hubFetch s x va n = .ok (t, k)) : OnlyMemory s t := by
  unfold hubFetch at h
  split at h
  · cases h
  next placed =>
  have only := hubPlace_onlyMemory placed
  split at h
  · cases h
  · have recalled : t = _ := (congrArg Prod.fst (Except.ok.inj h)).symm
    unfold OnlyMemory at only ⊢
    rw [recalled, only]

theorem gangMembers_onlyMemory {s t : State} {x : Ctx} {c : BitVec 2048} {ms : List (BitVec 16)} (h : gangMembers s x c = .ok (t, ms)) :
    OnlyMemory s t := by
  unfold gangMembers at h
  split at h
  · cases h
  · next e => cases h; exact hubFetch_onlyMemory e

/-! ### The pool and the journal -/

section
variable {s : State} {n : Node}

theorem nodeOf_seq {q : DWord} (h : nodeOf s q = some n) : n.seq = q := by
  simpa using List.find?_some h

/-- A node of the pool that is replaced is found as what took its place. -/
theorem nodeOf_putNode {m : Node} (h : nodeOf s n.seq = some m) : nodeOf (putNode s n) n.seq = some n := by
  have seq : ((fun k : Node => decide (k.seq = n.seq)) ∘ fun k => if k.seq = n.seq then n else k) = fun k => decide (k.seq = n.seq) := by
    funext k
    rw [Function.comp_apply]
    split
    · next e => simp [e]
    · rfl
  rw [nodeOf, putNode, List.find?_map, seq, show s.hub.nodes.find? (fun k => decide (k.seq = n.seq)) = some m from h, Option.map_some,
    if_pos (nodeOf_seq h)]

theorem OnlySends.blocks {t : State} (h : OnlySends s t) : allBlocks t = allBlocks s := (congrArg allBlocks h :)

theorem hubLog_blocks (s : State) (pa : Nat) (data : List Byte) : allBlocks (hubLog s pa data) = allBlocks s := (onlySends_hubLog s pa data).blocks

theorem journalNode_blocks (s : State) (n : Node) : allBlocks (journalNode s n) = allBlocks s := by
  rw [journalNode, writeJournal, hubLog_blocks]

theorem writeJournal_hub (s : State) (e : BitVec 256) : (writeJournal s e).hub = s.hub := by
  rw [writeJournal, hubLog_hub]

theorem writeJournals_hub {α : Type} (f : α → BitVec 256) (l : List α) (s : State) : (l.foldl (fun t a => writeJournal t (f a)) s).hub = s.hub :=
  foldl_keeps (P := fun t : State => t.hub = s.hub) (fun t a ht => (writeJournal_hub t (f a)).trans ht) l rfl

/-- Once the entries of the numbers without a command are written, no gap is left to write. -/
theorem flushGaps_hub (s : State) : (flushGaps s).hub = { s.hub with gaps := [] } :=
  congrArg (fun h : Hub => { h with gaps := [] }) (writeJournals_hub (fun n => journalWord n 0#16 0#10 0 0 7 0x00 false 0#64 0) s.hub.gaps s)

theorem journalCard_hub (s : State) (n : Node) : (journalCard s n).hub = { s.hub with gaps := [] } := by
  rw [journalCard, hubLog_hub, journalNode_hub, flushGaps_hub]

theorem journalNode_nodeOf (s : State) (m : Node) (q : DWord) : nodeOf (journalNode s m) q = nodeOf s q := by
  rw [nodeOf, nodeOf, journalNode_hub]

/-- The record of a node that begins (R212, R393). -/
def begun (s : State) (n : Node) : Node := { n with state := .running, firstDispatch := some (wall s) }

theorem beginNode_running (h : n.state = .running) : beginNode s n = s := if_pos h

theorem beginNode_begins (h : n.state ≠ .running) : beginNode s n = journalNode (putNode s (begun s n)) (begun s n) := if_neg h

/-- A node that begins leaves the blocks and the reservation as they are. -/
theorem beginNode_keeps (s : State) (n : Node) :
    allBlocks (beginNode s n) = allBlocks s ∧ (beginNode s n).hub.reservation = s.hub.reservation := by
  by_cases h : n.state = .running
  · rw [beginNode_running h]
    exact ⟨rfl, rfl⟩
  · rw [beginNode_begins h, journalNode_blocks, journalNode_hub]
    exact ⟨rfl, rfl⟩

/-- A node of the pool that begins is found with its commitment. -/
theorem beginNode_committed {m : Node} (h : nodeOf s n.seq = some m) (hc : n.committed = true) :
    ∃ k, nodeOf (beginNode (putNode s n) n) n.seq = some k ∧ k.committed = true := by
  have put := nodeOf_putNode h
  by_cases hr : n.state = .running
  · exact ⟨n, by rw [beginNode_running hr, put], hc⟩
  · refine ⟨begun (putNode s n) n, ?_, hc⟩
    rw [beginNode_begins hr, journalNode_nodeOf]
    exact nodeOf_putNode (n := begun (putNode s n) n) put

/-! ### The leader (R223, steps 1 and 3 to 5) -/

section
variable (hn : nodeOf s n.seq = some n)
include hn

/-- GANG_RESERVE of the node whose turn it is, and GANG_RETRY once its delay is over, begin an attempt. -/
theorem attempt_begins (hw : gangWaits s n = true) (hh : hubHeld s.hub = false) {i : Instr}
    (hi : (i = .gangReserve n.seq ∧ n.attempt = 0 ∧ ∃ m, dispatchChoice s = some m ∧ m.seq = n.seq) ∨
      (i = .gangRetry n.seq ∧ 0 < n.attempt ∧ n.awaiting = [] ∧ ∃ due, n.timer = some due ∧ due ≤ wall s)) :
    exec i s = .next (sendReserve s n) := by
  rcases hi with ⟨rfl, ha, m, hm, hq⟩ | ⟨rfl, ha, hw', due, ht, hd⟩
  · show execGangReserve n.seq s = _
    simp [execGangReserve, hn, hw, hh, ha, hm, hq]
  · show execGangRetry n.seq s = _
    simp [execGangRetry, hn, hw, hh, ha, hw', ht, hd]

section
variable {d : BitVec 10} {due : Nat} (hc : n.committed = false) (ht : n.timer = some due)
include hc ht

section
variable (ha : d ∈ n.awaiting) (hd : wall s < due)
include ha hd

/-- An acknowledgement before the timer ends takes its device from those awaited, while others are. -/
theorem acknowledgement_noted (he : ∃ e ∈ n.awaiting, e ≠ d) : exec (.gangAcknowledgement n.seq d) s =
    .next (onNode s n.seq fun m => { m with awaiting := n.awaiting.filter (· ≠ d) }) := by
  have rest : (n.awaiting.filter (· ≠ d)).isEmpty = false := by simpa [List.filter_eq_nil_iff] using he
  show execGangAcknowledgement n.seq d s = _
  simp only [execGangAcknowledgement, hn, hc, ht, List.contains_iff_mem.mpr ha, Option.any_some, decide_eq_false (Nat.not_le.mpr hd), rest,
    Bool.not_true, Bool.not_false, Bool.or_self, Bool.false_eq_true, ↓reduceIte]

/-- The last acknowledgement commits the launch. -/
theorem acknowledgement_commits (he : ∀ e ∈ n.awaiting, e = d) {t : State} (e : t = beginNode
      (onNode (takeSeq s).1 n.seq fun m => { m with awaiting := [], timer := none, committed := true })
      { n with awaiting := [], timer := none, committed := true }) :
    exec (.gangAcknowledgement n.seq d) s = .next (tellMembers t n 0x28 (.gcommit t.fab.ident n.seq)) := by
  have rest : (n.awaiting.filter (· ≠ d)).isEmpty = true := by simpa [List.filter_eq_nil_iff] using he
  show execGangAcknowledgement n.seq d s = _
  simp only [execGangAcknowledgement, hn, hc, ht, List.contains_iff_mem.mpr ha, Option.any_some, decide_eq_false (Nat.not_le.mpr hd), rest,
    Bool.not_true, Bool.or_self, Bool.false_eq_true, ↓reduceIte, e]

end

/-- GANG_TIMEOUT releases the devices reserved; the fourth attempt is the last. -/
theorem timeout_next (ha : n.awaiting ≠ []) (hd : due ≤ wall s) {t : State} (e : t = tellMembers (takeSeq s).1 n 0x29 (.grelease s.fab.ident n.seq)) :
    exec (.gangTimeout n.seq) s = .next (if 4 ≤ n.attempt
      then endFaulted t { n with awaiting := [], timer := none } { code := cGangAbort, detail := 0x00 }
      else onNode t n.seq fun m => { m with awaiting := [], timer := some (wall t + n.attempt * gangTimeoutNs t) }) := by
  show execGangTimeout n.seq s = _
  simp only [execGangTimeout, hn, hc, ht, List.isEmpty_eq_false_iff.mpr ha, Option.any_some, decide_eq_true hd, Bool.not_true, Bool.or_self,
    Bool.false_eq_true, ↓reduceIte, e]

end
end
end

/-! ### A member device (R223, steps 2 to 4) -/

section
variable {s : State} {r : Reservation}

/-- The reservation first in the waiting list is taken up under the next number of the device. -/
theorem takeReservation_first {rest : List Reservation} (hn : s.hub.reservation = none) (hw : s.hub.waiting = r :: rest) :
    (takeReservation s).hub.reservation = some { r with journal := s.hub.jtail } ∧ (takeReservation s).hub.waiting = rest := by
  simp only [takeReservation, hn, hw, journalCard_hub, nextSeq, and_self]

theorem gangMessage_hub (s : State) (op : Byte) (d : BitVec 10) (q : DWord) (c : BitVec 16) (b : List Byte) (i : Instr) :
    (gangMessage s op d q c b i).hub = s.hub := ((OnlySends.refl s).deliverTo d i _).hub

/-- Serving a reservation leaves it held, acknowledged or not yet, and the others waiting. -/
theorem serveReservation_holds (hh : hubHeld s.hub = false) (hr : (takeReservation s).hub.reservation = some r) :
    ∃ k, (serveReservation s).hub.reservation = some { r with acked := k } ∧ (serveReservation s).hub.waiting = (takeReservation s).hub.waiting := by
  have unchanged : ∃ k, (takeReservation s).hub.reservation = some { r with acked := k } ∧
      (takeReservation s).hub.waiting = (takeReservation s).hub.waiting := ⟨r.acked, hr, rfl⟩
  simp only [serveReservation, hh, Bool.false_eq_true, ↓reduceIte, hr]
  split
  · exact unchanged
  split
  · exact unchanged
  split
  · split
    · next read =>
      refine ⟨r.acked, ?_⟩
      simp only [onNode, (gangMembers_onlyMemory read).hub, hr, and_self]
    · exact unchanged
  split
  · exact ⟨true, by rw [gangMessage_hub], by rw [gangMessage_hub]⟩
  · exact unchanged

/-- A reservation joins those that wait. -/
def awaitTurn (s : State) (r : Reservation) : State := { s with hub := { s.hub with waiting := s.hub.waiting ++ [r] } }

theorem reserve_next (l : BitVec 10) (seq : BitVec 64) (c : BitVec 16) (card : BitVec 2048) : exec (.reserve l seq c card) s =
    .next (serveReservation (awaitTurn s { leader := l, seq := seq, ctx := c, card := card, journal := 0#64, acked := false })) := rfl

/-- A device that holds no reservation and at which none waits takes up the one that arrives. -/
theorem serveReservation_taken (hh : hubHeld s.hub = false) (hn : s.hub.reservation = none) (hw : s.hub.waiting = []) :
    ∃ k, (serveReservation (awaitTurn s r)).hub.reservation = some { r with journal := s.hub.jtail, acked := k } ∧
      (serveReservation (awaitTurn s r)).hub.waiting = [] := by
  have first : (awaitTurn s r).hub.waiting = r :: [] := congrArg (· ++ [r]) hw
  obtain ⟨taken, rest⟩ := takeReservation_first (s := awaitTurn s r) hn first
  obtain ⟨k, held, waiting⟩ := serveReservation_holds (s := awaitTurn s r) hh taken
  exact ⟨k, held, waiting.trans rest⟩

section
variable (hr : s.hub.reservation = some r)
include hr

theorem reservationOf_held : reservationOf s r.leader r.seq = some r := by
  simp [reservationOf, hr]

/-- The state with the blocks of a reservation started and the reservation free. -/
def startedFor (s : State) (r : Reservation) : State :=
  let t := mapBlocks s fun b => if b.ctx = r.ctx && b.node = r.node s && !b.started then { b with started := true } else b
  { t with hub := { t.hub with reservation := none } }

omit hr in
theorem startedFor_blocks : ∀ b ∈ allBlocks (startedFor s r), b.ctx = r.ctx → b.node = r.node s → b.started = true := by
  intro b hb hc hn
  obtain ⟨c, -, rfl⟩ : ∃ c ∈ allBlocks s, (if c.ctx = r.ctx && c.node = r.node s && !c.started then { c with started := true } else c) = b :=
    List.mem_map.mp hb
  by_cases no : (c.ctx = r.ctx && c.node = r.node s && !c.started) = true
  · rw [if_pos no]
  · rw [if_neg no] at hc hn ⊢
    simpa [hc, hn] using no

/-- GCOMMIT lets the members begin and frees the reservation. -/
theorem gcommit_held : exec (.gcommit r.leader r.seq) s = .next (match nodeOf (startedFor s r) r.journal with
    | none => startedFor s r
    | some n => beginNode (putNode (startedFor s r) { n with committed := true }) { n with committed := true }) := by
  show execGcommit r.leader r.seq s = _
  simp only [execGcommit, reservationOf_held hr]
  rfl

/-- The blocks of a reservation that have not started, released (step 4). -/
def membersLeave (s : State) (r : Reservation) : State :=
  ((allBlocks s).filter fun b => b.bid ≠ 0 && b.ctx = r.ctx && b.node = r.node s && !b.started).foldl
    (fun t b => releaseBlock (mapWarps t fun w => if w.bid = b.bid then haltWarp b.ctx b.node w else w) b) s

/-- The reservation of a number free, its node out of the pool and its number a gap in the journal (R212). -/
def freeReservation (t : State) (j : DWord) : State :=
  settleJhead { t with hub := { t.hub with
    reservation := none, nodes := t.hub.nodes.filter fun n => n.seq ≠ j, gaps := t.hub.gaps ++ [j] } }

theorem grelease_held : exec (.grelease r.leader r.seq) s = .next (freeReservation (membersLeave s r) r.journal) := by
  show execGrelease r.leader r.seq s = _
  simp only [execGrelease, reservationOf_held hr]
  rfl

end

theorem freeReservation_spec (t : State) (j : DWord) :
    (freeReservation t j).hub.reservation = none ∧ nodeOf (freeReservation t j) j = none ∧ j ∈ (freeReservation t j).hub.gaps := by
  refine ⟨rfl, ?_, List.mem_append_right _ (List.mem_singleton_self _)⟩
  rw [nodeOf_eq_none, poolSeqs, freeReservation, settleJhead_nodes]
  simp

/-- What GCOMMIT leaves: the reservation free, its blocks started and its node committed. -/
theorem gcommit_spec (hr : s.hub.reservation = some r) : ∃ t, exec (.gcommit r.leader r.seq) s = .next t ∧ t.hub.reservation = none ∧
    (∀ b ∈ allBlocks t, b.ctx = r.ctx → b.node = r.node s → b.started = true) ∧
    ∀ n, nodeOf s r.journal = some n → ∃ k, nodeOf t r.journal = some k ∧ k.committed = true := by
  refine ⟨_, gcommit_held hr, ?_⟩
  have pool : nodeOf (startedFor s r) r.journal = nodeOf s r.journal := rfl
  cases hn : nodeOf s r.journal with
  | none =>
    rw [pool, hn]
    exact ⟨rfl, startedFor_blocks, fun n h => nomatch h⟩
  | some n =>
    rw [pool, hn]
    obtain ⟨m, hm, seq⟩ : ∃ m : Node, m = { n with committed := true } ∧ m.seq = r.journal := ⟨_, rfl, (nodeOf_seq hn :)⟩
    have done : m.committed = true := by rw [hm]
    simp only [← hm]
    obtain ⟨blocks, free⟩ := beginNode_keeps (putNode (startedFor s r) m) m
    have begins := beginNode_committed (n := m) (by rw [seq, pool, hn]) done
    rw [seq] at begins
    exact ⟨free, fun b hb => startedFor_blocks b (blocks ▸ hb), fun _ _ => begins⟩

end

/-- Settles O44: each message by what its device holds. That a reservation is served under a number of its own, and freed by GCOMMIT and GRELEASE,
is log entry 25's. -/
theorem gangEventResult : Obligations.GangEventResult := by
  refine ⟨fun s n hn hw hh i hi => ?begins, fun s n d due hn hc ha ht hd => ⟨fun he => acknowledgement_noted hn hc ht ha hd he, fun he =>
      ⟨_, rfl, acknowledgement_commits hn hc ht ha hd he rfl⟩⟩,
    fun s t n due hn hc ha ht hd e => ?times, fun s l seq c card => ⟨reserve_next .., fun hh hr hw => ?taken⟩,
    fun s r hr => ⟨gcommit_spec hr, _, grelease_held hr, freeReservation_spec ..⟩, fun s l seq h => ?other⟩
  case begins =>
    rw [attempt_begins hn hw hh hi]
    refine ⟨fun t ms ds e hds => ?_, fun f e => ?_, fun e => ?_⟩
    · simp only [sendReserve, e, hds]
    · simp only [sendReserve, e]
    · simp only [sendReserve, e]
  case times =>
    rw [timeout_next hn hc ht ha hd e]
    exact ⟨fun h => by rw [if_neg (Nat.not_le.mpr h)], fun h => by rw [if_pos h]⟩
  case taken =>
    obtain ⟨k, held, waiting⟩ := serveReservation_taken (r := ⟨l, seq, c, card, 0#64, false⟩) hh hr hw
    exact ⟨_, _, reserve_next .., held, rfl, rfl, rfl, rfl, rfl, waiting⟩
  case other =>
    exact ⟨by show execGcommit l seq s = _; simp only [execGcommit, h], by show execGrelease l seq s = _; simp only [execGrelease, h]⟩

end Sys2Proof.Machine

/-! Requests of QCTL and CTXCTL, and TAIL (R207 to R209, log entry 23). -/

namespace Sys2Proof.Machine

section
variable {s : State}

/-! ### The end of a request -/

theorem qctlEnd_go (s : State) (err : Bool) : (qctlEnd s err).hub.qctl.getLsbD 31 = false := by
  cases err
  · exact getLsbD_setBits _ _ (by decide)
  · exact (getLsbD_setBits _ _ (by decide)).trans (getLsbD_setBits _ _ (by decide))

theorem qctlEnd_err (s : State) : (qctlEnd s true).hub.qctl.getLsbD 30 = true := getLsbD_setBits _ _ (by decide)

theorem ctxctlEnd_go (s : State) : (ctxctlEnd s).hub.ctxctl.getLsbD 31 = false :=
  (getLsbD_setBits _ _ (by decide)).trans (getLsbD_setBits _ _ (by decide))

theorem ctxctlEnd_stopped (s : State) : (ctxctlEnd s).hub.ctxctl.getLsbD 30 = s.hub.stopped.contains (ctxctlCtx s) :=
  (getLsbD_setBits _ _ (by decide)).trans (by simp)

/-! ### QCTL -/

section
variable (hg : qctlRuns s 1 = true)
include hg

theorem queueEnable_ends {t : State} (h : enableQueue s (qctlQueue s) = .ok t) : exec .queueEnable s = .next (qctlEnd t false) := by
  show execQueueEnable s = _
  simp only [execQueueEnable, hg, h, Bool.not_true, Bool.false_eq_true, ↓reduceIte]

theorem queueEnable_refused (h : enableQueue s (qctlQueue s) = .error true) : exec .queueEnable s = .next (qctlEnd s true) := by
  show execQueueEnable s = _
  simp only [execQueueEnable, hg, h, Bool.not_true, Bool.false_eq_true, ↓reduceIte]

/-- GO stays while an access of the request waits (log entry 23). -/
theorem queueEnable_waits (h : enableQueue s (qctlQueue s) = .error false) : exec .queueEnable s = .next s := by
  show execQueueEnable s = _
  simp only [execQueueEnable, hg, h, Bool.not_true, Bool.false_eq_true, ↓reduceIte]

end

/-- A bad entry is refused before anything else of the request is read (R208). -/
theorem enableQueue_badEntry {q : BitVec 10}
    (h : queueBad (BitVec.ofNat 512 (hubTable s (bitsNat s.hub.qtbase 16 36 * 2 ^ 16 + 64 * q.toNat) 64).2) = true) :
    enableQueue s q = .error true := if_pos h

theorem queueDisable_runs (hg : qctlRuns s 0 = true) : exec .queueDisable s = .next (qctlEnd (dropQueue s (qctlQueue s)) false) :=
  congrArg Host.Outcome.next (if_pos hg)

theorem mem_dropQueue {n : BitVec 10} {q : SubQueue} : q ∈ (dropQueue s n).hub.queues ↔ q ∈ s.hub.queues ∧ q.num ≠ n := by
  simp [dropQueue]

/-! ### CTXCTL -/

theorem ctxQuery_runs (hg : ctxctlRuns s 0 = true) : exec .ctxQuery s = .next (ctxctlEnd s) :=
  congrArg Host.Outcome.next (if_pos hg)

theorem ctxResume_runs (hg : ctxctlRuns s 1 = true) : exec .ctxResume s = .next (ctxctlEnd (resumeCtx s (ctxctlCtx s))) :=
  congrArg Host.Outcome.next (if_pos hg)

theorem ctxStop_runs (hg : ctxctlRuns s 2 = true) : exec .ctxStop s = .next (ctxctlEnd (stopCtx s (ctxctlCtx s))) :=
  congrArg Host.Outcome.next (if_pos hg)

theorem mem_resumeCtx_stopped {c d : BitVec 16} : d ∈ (resumeCtx s c).hub.stopped ↔ d ∈ s.hub.stopped ∧ d ≠ c := by
  simp [resumeCtx, settleJhead]

theorem mem_stopCtx_stopped {c d : BitVec 16} : d ∈ (stopCtx s c).hub.stopped ↔ d ∈ s.hub.stopped ∨ d = c := by
  simp only [stopCtx, List.contains_iff_mem]
  split
  · next held => exact ⟨.inl, fun h => h.elim id (· ▸ held)⟩
  · rw [List.mem_cons, or_comm]

/-- No journal entry of a resumed context is held as FAULTED (R212). -/
theorem resumeCtx_releases {c : BitVec 16} : ∀ r ∈ (resumeCtx s c).hub.retained, r.ctx = c → r.faulted = false := by
  intro r hr hc
  obtain ⟨p, -, rfl⟩ := List.mem_map.mp (List.mem_of_mem_filter hr)
  by_cases own : p.ctx = c
  · rw [if_pos own]
  · rw [if_neg own] at hc
    exact absurd hc own

/-! ### TAIL_CHANGE -/

theorem tailChange_disabled {n : BitVec 10} (h : s.hub.queues.find? (fun q => q.num = n) = none) : exec (.tailChange n) s = .next s := by
  show execTailChange n s = _
  simp only [execTailChange, h]

theorem tailChange_enabled {n : BitVec 10} {q : SubQueue} (h : s.hub.queues.find? (fun q => q.num = n) = some q) :
    exec (.tailChange n) s = .next (readTail s q) := by
  show execTailChange n s = _
  simp only [execTailChange, h]

section
variable {q : SubQueue}

theorem readTail_ok {t : State} {v : Nat} (h : hubFetch s (ctxFor s (qCtx q.desc)) (qTailVa q.desc) 8 = .ok (t, v)) :
    readTail s q = if qSlots q.desc < (BitVec.ofNat 64 v - q.head).toNat then (failQueue t q cIllegalInstruction).getD t
      else putQueue t { q with tail := BitVec.ofNat 64 v } := by
  simp only [readTail, h]

theorem readTail_fault {f : TrapInfo} (h : hubFetch s (ctxFor s (qCtx q.desc)) (qTailVa q.desc) 8 = .error (some f)) :
    readTail s q = (faultQueue s q f).getD s := by
  simp only [readTail, h]

theorem readTail_waits (h : hubFetch s (ctxFor s (qCtx q.desc)) (qTailVa q.desc) 8 = .error none) : readTail s q = s := by
  simp only [readTail, h]

end

end

/-- Settles O41: each request by its equation, a change of TAIL by how its read ends. That a refused request ends at once with ERR, and that GO
stays while a read only stalls, is the model's choice (log entry 23). -/
theorem queueRequestResult : Obligations.QueueRequestResult := by
  refine ⟨fun s hg => ⟨fun _ => queueEnable_ends hg, fun h => ⟨queueEnable_refused hg h, qctlEnd_err s⟩, queueEnable_waits hg,
      enableQueue_badEntry⟩,
    fun s hg => ⟨_, queueDisable_runs hg, qctlEnd_go .., rfl, fun _ => mem_dropQueue⟩,
    fun s hg => ⟨_, ctxQuery_runs hg, rfl, ctxctlEnd_go s, by rw [ctxctlEnd_stopped, List.contains_iff_mem], rfl⟩,
    fun s hg => ⟨_, ctxResume_runs hg, fun _ => mem_resumeCtx_stopped, resumeCtx_releases, ctxctlEnd_go _, ?resumed, rfl⟩,
    fun s hg => ⟨_, ctxStop_runs hg, fun _ => mem_stopCtx_stopped, ctxctlEnd_go _, ?stopped, rfl⟩,
    fun s n => ⟨tailChange_disabled, fun q hq => ?tail⟩⟩
  case resumed =>
    have gone : ctxctlCtx s ∉ (resumeCtx s (ctxctlCtx s)).hub.stopped := fun h => (mem_resumeCtx_stopped.mp h).2 rfl
    exact (ctxctlEnd_stopped _).trans (Bool.eq_false_iff.mpr (mt List.contains_iff_mem.mp gone))
  case stopped =>
    have held : ctxctlCtx s ∈ (stopCtx s (ctxctlCtx s)).hub.stopped := mem_stopCtx_stopped.mpr (.inr rfl)
    exact (ctxctlEnd_stopped _).trans (List.contains_iff_mem.mpr held)
  case tail =>
    rw [tailChange_enabled hq]
    exact ⟨fun _ _ h => congrArg _ (readTail_ok h), fun _ h => congrArg _ (readTail_fault h), fun h => congrArg _ (readTail_waits h)⟩

end Sys2Proof.Machine

/-! Decoding is the inverse of encoding (R234 to R239): the laws of the family Encoding, put together. -/

namespace Sys2Proof.Laws

/-- Every instruction's word reads back, by the law of its form, major opcode by major opcode (R241); an event has no word. -/
theorem encoding_statement (i : Instr) : Encoding.Statement i := by
  cases i with
  | nop => exact Encoding.nop | exit => exact Encoding.exit | yield => exact Encoding.yield | sleep n => exact Encoding.sleep n
  | ret => exact Encoding.ret | jmpi a => exact Encoding.jmpi a | calli a => exact Encoding.calli a | trap n => exact Encoding.trap n
  | tret => exact Encoding.tret | tattach => exact Encoding.tattach | tdetach => exact Encoding.tdetach | ttrap a => exact Encoding.ttrap a
  | tdead a => exact Encoding.tdead a
  | br o w => exact Encoding.br o w | brP o w p => exact Encoding.brP o w p | brNp o w p => exact Encoding.brNp o w p
  | brZ o w s => exact Encoding.brZ o w s | brNz o w s => exact Encoding.brNz o w s
  | call o w => exact Encoding.call o w | rcv o w => exact Encoding.rcv o w | rapent o w => exact Encoding.rapent o w
  | rdsr d n => exact Encoding.rdsr d n
  | wrsr a n => exact Encoding.wrsr a n
  | sadd d a b => exact Encoding.sadd d a b | ssub d a b => exact Encoding.ssub d a b | smul d a b => exact Encoding.smul d a b
  | smulh d a b => exact Encoding.smulh d a b
  | sand d a b => exact Encoding.sand d a b | sor d a b => exact Encoding.sor d a b | sxor d a b => exact Encoding.sxor d a b
  | sandn d a b => exact Encoding.sandn d a b
  | sshl d a b => exact Encoding.sshl d a b | sshr d a b => exact Encoding.sshr d a b | sasr d a b => exact Encoding.sasr d a b
  | srot d a b => exact Encoding.srot d a b
  | seq d a b => exact Encoding.seq d a b | slt d a b => exact Encoding.slt d a b | sle d a b => exact Encoding.sle d a b
  | sne d a b => exact Encoding.sne d a b
  | smin d a b => exact Encoding.smin d a b | smax d a b => exact Encoding.smax d a b | sdiv d a b => exact Encoding.sdiv d a b
  | srem d a b => exact Encoding.srem d a b
  | smov d a => exact Encoding.smov d a | snot d a => exact Encoding.snot d a | sneg d a => exact Encoding.sneg d a
  | sclz d a => exact Encoding.sclz d a | spopc d a => exact Encoding.spopc d a | sbrev d a => exact Encoding.sbrev d a
  | vadd d a b => exact Encoding.vadd d a b | vsub d a b => exact Encoding.vsub d a b | vmul d a b => exact Encoding.vmul d a b
  | vmulh d a b => exact Encoding.vmulh d a b
  | vand d a b => exact Encoding.vand d a b | vor d a b => exact Encoding.vor d a b | vxor d a b => exact Encoding.vxor d a b
  | vandn d a b => exact Encoding.vandn d a b
  | vshl d a b => exact Encoding.vshl d a b | vshr d a b => exact Encoding.vshr d a b | vasr d a b => exact Encoding.vasr d a b
  | vrot d a b => exact Encoding.vrot d a b
  | vmin d a b => exact Encoding.vmin d a b | vmax d a b => exact Encoding.vmax d a b | vabsd d a b => exact Encoding.vabsd d a b
  | vmadi d a b => exact Encoding.vmadi d a b
  | vcmpEq d a b => exact Encoding.vcmpEq d a b | vcmpLt d a b => exact Encoding.vcmpLt d a b | vcmpLe d a b => exact Encoding.vcmpLe d a b
  | vcmpNe d a b => exact Encoding.vcmpNe d a b
  | vmov d a => exact Encoding.vmov d a | vnot d a => exact Encoding.vnot d a | vneg d a => exact Encoding.vneg d a
  | vabs d a => exact Encoding.vabs d a | vclz d a => exact Encoding.vclz d a | vpopc d a => exact Encoding.vpopc d a
  | vbrev d a => exact Encoding.vbrev d a | vfneg d a => exact Encoding.vfneg d a | vfabs d a => exact Encoding.vfabs d a
  | vrcp d a => exact Encoding.vrcp d a | vrsqrt d a => exact Encoding.vrsqrt d a | vsqrt d a => exact Encoding.vsqrt d a
  | vexp2 d a => exact Encoding.vexp2 d a | vlog2 d a => exact Encoding.vlog2 d a | vsin d a => exact Encoding.vsin d a
  | vcos d a => exact Encoding.vcos d a | vtanh d a => exact Encoding.vtanh d a
  | vfadd d a b => exact Encoding.vfadd d a b | vfsub d a b => exact Encoding.vfsub d a b | vfmul d a b => exact Encoding.vfmul d a b
  | vfmin d a b => exact Encoding.vfmin d a b
  | vfmad d a b => exact Encoding.vfmad d a b | vfmac d a b => exact Encoding.vfmac d a b | vfnmac d a b => exact Encoding.vfnmac d a b
  | vfmax d a b => exact Encoding.vfmax d a b
  | vcvt d a t s => exact Encoding.vcvt d a t s | vmxscale d a => exact Encoding.vmxscale d a | vmxq d a b => exact Encoding.vmxq d a b
  | vmxdq d a b => exact Encoding.vmxdq d a b
  | vshflIdx d a b => exact Encoding.vshflIdx d a b | vshflUp d a b => exact Encoding.vshflUp d a b
  | vshflDown d a b => exact Encoding.vshflDown d a b | vshflXor d a b => exact Encoding.vshflXor d a b
  | vbcast d a k => exact Encoding.vbcast d a k | vs2v d a => exact Encoding.vs2v d a | v2s d a k => exact Encoding.v2s d a k
  | voteAny d a => exact Encoding.voteAny d a | voteAll d a => exact Encoding.voteAll d a | voteBallot d a => exact Encoding.voteBallot d a
  | voteUni d a => exact Encoding.voteUni d a
  | vscanAdd d a => exact Encoding.vscanAdd d a | vscanMin d a => exact Encoding.vscanMin d a | vscanMax d a => exact Encoding.vscanMax d a
  | vscanOr d a => exact Encoding.vscanOr d a
  | vreduceAdd d a => exact Encoding.vreduceAdd d a | vreduceMin d a => exact Encoding.vreduceMin d a
  | vreduceMax d a => exact Encoding.vreduceMax d a | vreduceOr d a => exact Encoding.vreduceOr d a
  | mset d a => exact Encoding.mset d a | mget d a => exact Encoding.mget d a | msetx a => exact Encoding.msetx a
  | mgetx d => exact Encoding.mgetx d
  | pand d a b => exact Encoding.pand d a b | por d a b => exact Encoding.por d a b | pxor d a b => exact Encoding.pxor d a b
  | pandn d a b => exact Encoding.pandn d a b
  | reord a b => exact Encoding.reord a b
  | ldv d i h w g s => exact Encoding.ldv d i h w g s
  | gather d i h w g s => exact Encoding.gather d i h w g s
  | stv d i h w g s => exact Encoding.stv d i h w g s
  | scatter d i h w g s => exact Encoding.scatter d i h w g s
  | ldc d i w g s => exact Encoding.ldc d i w g s
  | sld d i h w g s => exact Encoding.sld d i h w g s
  | sst d i h w g s => exact Encoding.sst d i h w g s
  | lda d i h w g s => exact Encoding.lda d i h w g s
  | stl d i h w g s => exact Encoding.stl d i h w g s
  | tld d i h => exact Encoding.tld d i h | tst d i h => exact Encoding.tst d i h
  | hbind h a => exact Encoding.hbind h a | hset h a => exact Encoding.hset h a | hqry d h q => exact Encoding.hqry d h q
  | pref d a h => exact Encoding.pref d a h | flush d a h => exact Encoding.flush d a h | inval d a h => exact Encoding.inval d a h
  | pub d a h => exact Encoding.pub d a h | smap d a h => exact Encoding.smap d a h | sunmap a => exact Encoding.sunmap a
  | fenceWarp => exact Encoding.fenceWarp | fenceBlk => exact Encoding.fenceBlk | fenceDev => exact Encoding.fenceDev
  | fenceGang => exact Encoding.fenceGang | fenceSys => exact Encoding.fenceSys | fenceXp => exact Encoding.fenceXp
  | atomAdd d i h w r => exact Encoding.atomAdd d i h w r | atomMin d i h w r => exact Encoding.atomMin d i h w r
  | atomMax d i h w r => exact Encoding.atomMax d i h w r | atomAnd d i h w r => exact Encoding.atomAnd d i h w r
  | atomOr d i h w r => exact Encoding.atomOr d i h w r | atomXor d i h w r => exact Encoding.atomXor d i h w r
  | atomXchg d i h w r => exact Encoding.atomXchg d i h w r | atomCas d i h w r => exact Encoding.atomCas d i h w r
  | redAdd d i h w r => exact Encoding.redAdd d i h w r | redMin d i h w r => exact Encoding.redMin d i h w r
  | redMax d i h w r => exact Encoding.redMax d i h w r | redAnd d i h w r => exact Encoding.redAnd d i h w r
  | redOr d i h w r => exact Encoding.redOr d i h w r | redXor d i h w r => exact Encoding.redXor d i h w r
  | barArrive d a h => exact Encoding.barArrive d a h | barWait d a h => exact Encoding.barWait d a h
  | barArriveN d a h => exact Encoding.barArriveN d a h
  | rclm a => exact Encoding.rclm a | rrel a => exact Encoding.rrel a | rqry d => exact Encoding.rqry d
  | rqpool d => exact Encoding.rqpool d
  | qpush q a => exact Encoding.qpush q a | kvxs d a h => exact Encoding.kvxs d a h
  | kvx d i h => exact Encoding.kvx d i h
  | rld d o p h => exact Encoding.rld d o p h
  | rst d o p h => exact Encoding.rst d o p h
  | ratom d o p h => exact Encoding.ratom d o p h
  | rred d o p h => exact Encoding.rred d o p h
  | mcst d o p h => exact Encoding.mcst d o p h
  | mma c a b s t z => exact Encoding.mma c a b s t z | mmat c a b s t z => exact Encoding.mmat c a b s t z
  | mmap c a b s t z => exact Encoding.mmap c a b s t z
  | accz c => exact Encoding.accz c | accld c h s => exact Encoding.accld c h s | accst c h s => exact Encoding.accst c h s
  | accg c s => exact Encoding.accg c s | accmax c s => exact Encoding.accmax c s | accexp c s => exact Encoding.accexp c s
  | accsum c m s => exact Encoding.accsum c m s
  | cpy d a b => exact Encoding.cpy d a b | gath d a b => exact Encoding.gath d a b | scat d a b => exact Encoding.scat d a b
  | tcpy r d a b => exact Encoding.tcpy r d a b | fill d a b => exact Encoding.fill d a b | tdec d a b => exact Encoding.tdec d a b
  | encv d a b => exact Encoding.encv d a b | encc d a b => exact Encoding.encc d a b | encvp d a b => exact Encoding.encvp d a b
  | enccp d a b => exact Encoding.enccp d a b | migp d a b => exact Encoding.migp d a b | migb r d a b => exact Encoding.migb r d a b
  | avdec r d a b => exact Encoding.avdec r d a b | cbcast d a b => exact Encoding.cbcast d a b
  | creduce d a b => exact Encoding.creduce d a b | callred d a b => exact Encoding.callred d a b
  | cgath d a b => exact Encoding.cgath d a b | tdef d a => exact Encoding.tdef d a | trel r d a => exact Encoding.trel r d a
  | trdy r d a => exact Encoding.trdy r d a | tdrn r d a => exact Encoding.tdrn r d a | tqry d a => exact Encoding.tqry d a
  | ctload a s => exact Encoding.ctload a s | ctsave a s => exact Encoding.ctsave a s | ctinv s => exact Encoding.ctinv s
  | smovi d i => exact Encoding.smovi d i
  | movi d i => exact Encoding.movi d i
  | _ => exact nofun

/-- Settles O58, by the law of each instruction. -/
theorem encodingRoundTrip : Obligations.EncodingRoundTrip := encoding_statement

/-- Settles O57: each word is the one that the encoder writes for its instruction, so that the round trip reads it back; CTL has no
function 0x0D. -/
theorem decodeWords : Obligations.DecodeWords := by
  have read {i : Instr} {w : Word} (wf : i.wf = true) (e : encode i = some w) : decodeWord w = .ok i := encodingRoundTrip i w wf e
  exact ⟨read rfl rfl, read rfl rfl, read rfl rfl, read rfl rfl, read rfl rfl, read rfl rfl, read rfl rfl, read rfl rfl, read rfl rfl,
    read rfl rfl, read rfl rfl, read rfl rfl, read rfl rfl, read rfl rfl, read rfl rfl, read rfl rfl, read rfl rfl, read rfl rfl, rfl⟩

end Sys2Proof.Laws

/-! Scans and reductions over the active lanes (R291, R292). -/

namespace Sys2Proof.Machine

/-! ### Lanes in ascending order -/

theorem laneList_ascending (m : Mask) : (laneList m).Pairwise (· < ·) := (List.pairwise_lt_finRange 64).filter _

/-- What a vector form writes is read in the lanes of the mask only. -/
theorem writeV_congr {w : Warp} {wide : Bool} {d : Byte} {m : Mask} {f g : Src} (h : ∀ l : Fin 64, m.getLsbD l = true → f l = g l) :
    writeV w wide d m f = writeV w wide d m g := by
  have onLanes (k : Scalar → Lane) (old : Fin 64 → Lane) :
      (fun l : Fin 64 => if m.getLsbD l then k (f l) else old l) = fun l : Fin 64 => if m.getLsbD l then k (g l) else old l := by
    funext l
    split
    case isTrue hl => rw [h l hl]
    case isFalse => rfl
  unfold writeV setV
  simp only [onLanes fun x => ⟨x.val.setWidth 32, x.poison⟩,
    onLanes fun x => ⟨if x.poison then x.val.setWidth 32 else x.val.extractLsb' 32 32, x.poison⟩]

/-! ### The values of a scan (R291) -/

/-- The value of the next lane of a scan: the first lane as the form reads it, every other combined with the value of the lane before it. -/
def Fold.next (o : Fold) (w : Warp) (x : Src) (acc : Option Scalar) (l : Fin 64) : Scalar :=
  acc.elim (o.first w (x l)) fun p => o.step w p (x l)

section
variable {o : Fold} {w : Warp} {x : Src}

theorem scanList_cons (l : Fin 64) (r : List (Fin 64)) (acc : Option Scalar) :
    scanList o w x (l :: r) acc = (l, o.next w x acc l) :: scanList o w x r (some (o.next w x acc l)) := by
  cases acc <;> rfl

/-- The lanes above `l` have no part in its value. -/
theorem filter_le_of_lt {l : Fin 64} {r : List (Fin 64)} (h : ∀ k ∈ r, l < k) : (r.filter fun k => k.val ≤ l.val) = [] :=
  List.filter_eq_nil_iff.mpr fun k hk => by simpa using h k hk

/-- A scan over ascending lanes gives each of them the fold of the lanes up to it. -/
theorem scanList_find {l : Fin 64} {ls : List (Fin 64)} {acc : Option Scalar} (hs : ls.Pairwise (· < ·)) (hl : l ∈ ls) :
    ((scanList o w x ls acc).find? fun p => p.1 = l).map (·.2) =
      (ls.filter fun k => k.val ≤ l.val).foldl (fun a k => some (o.next w x a k)) acc := by
  induction ls generalizing acc with
  | nil => cases hl
  | cons k r ih =>
    obtain ⟨below, hr⟩ := List.pairwise_cons.mp hs
    rw [scanList_cons]
    by_cases hk : k = l
    · subst hk
      rw [List.find?_cons_of_pos (by simp), List.filter_cons_of_pos (by simp), filter_le_of_lt below]
      rfl
    · have hl : l ∈ r := (List.mem_cons.mp hl).resolve_left (Ne.symm hk)
      have le : k.val ≤ l.val := (below l hl).le
      rw [List.find?_cons_of_neg (by simpa using hk), List.filter_cons_of_pos (by simpa using le), ih hr hl]
      rfl

/-- Once a lane has been read, the fold goes on by the operation alone. -/
theorem foldl_next_some (r : List (Fin 64)) (p : Scalar) :
    r.foldl (fun a k => some (o.next w x a k)) (some p) = some (r.foldl (fun a k => o.step w a (x k)) p) := by
  induction r generalizing p with
  | nil => rfl
  | cons k r ih => exact ih _

/-- A scan gives each active lane the values up to it, combined. -/
theorem scanList_active {l : Fin 64} (hl : (active w).getLsbD l = true) :
    ((scanList o w x (laneList (active w)) none).find? fun p => p.1 = l).map (·.2) = some (scanValue o w x l) := by
  have mem := mem_laneList.mpr hl
  rw [scanList_find (laneList_ascending _) mem, scanValue]
  cases e : (laneList (active w)).filter fun k => k.val ≤ l.val with
  | nil => exact absurd (List.filter_eq_nil_iff.mp e l mem) (by simp)
  | cons k r => exact foldl_next_some r _

end

/-! ### The forms -/

section
variable {o : Fold} {s s₁ : State} {d a : Byte} {x : Src}

/-- An element type that the operation accepts passes its check (R259, R260). -/
theorem Fold.check_ok {w : Warp} (h : foldAccepts o (modeEt w) = true) : o.check w = .ok () := by
  unfold Fold.check
  split
  case isTrue => rfl
  case isFalse ho =>
    simp only [foldAccepts, ho, decide_false, Bool.false_or] at h
    exact require_true h

theorem scanForm_next (hk : foldAccepts o (modeEt s.w) = true) (hp : Passes s .no [vdst d (wideEt s), .vsrc a (wideEt s)])
    (hr : readV s (wideEt s) a = .ok (s₁, x)) :
    scanForm o d a s = .next (s₁.putVector [vdst d (wideEt s), .vsrc a (wideEt s)] (wideEt s) d (scanValue o s.w x)) := by
  refine issue_next hp ?_
  simp only [Fold.check_ok hk, hr, wideEt_readV hr, readV_w hr]
  rw [writeV_congr fun l hl => by rw [scanList_active hl, Option.getD_some]]

theorem reduceForm_next (hk : foldAccepts o (modeEt s.w) = true) (hp : Passes s .no [vdst d (wideEt s), .vsrc a (wideEt s)])
    (hr : readV s (wideEt s) a = .ok (s₁, x)) :
    reduceForm o d a s = .next (s₁.putVector [vdst d (wideEt s), .vsrc a (wideEt s)] (wideEt s) d fun _ =>
      spread ((laneList (active s.w)).map x) (treeRoot o s.w x).val) := by
  refine issue_next hp ?_
  simp only [Fold.check_ok hk, hr, wideEt_readV hr, readV_w hr, scalarOut_spread]
  rfl

end

theorem givesScan_of {form : Byte → Byte → Instr} {o : Fold} (e : ∀ d a s, exec (form d a) s = scanForm o d a s) : GivesScan form o :=
  fun _ _ _ _ _ hk hp hr => (e _ _ _).trans (scanForm_next hk hp hr)

theorem givesReduce_of {form : Byte → Byte → Instr} {o : Fold} (e : ∀ d a s, exec (form d a) s = reduceForm o d a s) : GivesReduce form o :=
  fun _ _ _ _ _ hk hp hr => (e _ _ _).trans (reduceForm_next hk hp hr)

/-- Settles O5: a scan by the fold of the lanes up to each, a reduction by its tree. -/
theorem scanReduceResult : Obligations.ScanReduceResult :=
  ⟨givesScan_of fun _ _ _ => rfl, givesScan_of fun _ _ _ => rfl, givesScan_of fun _ _ _ => rfl, givesScan_of fun _ _ _ => rfl,
    givesReduce_of fun _ _ _ => rfl, givesReduce_of fun _ _ _ => rfl, givesReduce_of fun _ _ _ => rfl, givesReduce_of fun _ _ _ => rfl⟩

end Sys2Proof.Machine

/-! Predicates, comparisons and masks (R271 to R273). -/

namespace Sys2Proof.Machine

/-! ### Predicates and comparisons (R272, R273) -/

theorem predOut_spread (x y : PLane) (f : Bool → Bool → Bool) : predOut x y f = spreadPred [x, y] (f x.bit y.bit) := rfl

theorem givesPredTwo_of {form : BitVec 4 → BitVec 4 → BitVec 4 → Instr} {f : Bool → Bool → Bool}
    (e : ∀ d a b s, exec (form d a b) s = predBin d a b f s) : GivesPredTwo form f := by
  intro s d a b hp
  refine exec_next (e d a b s) hp ?_
  simp only [predOut_spread]

/-- The code of the first of two poisoned sources, in operand order (R65). -/
theorem firstPoison_two (x y : Scalar) :
    firstPoison [x, y] = if x.poison then some x.code else if y.poison then some y.code else none := rfl

theorem compareForm_next {s s₁ s₂ : State} {d : BitVec 4} {a b : Byte} {x y : Src} {onInt : Int → Int → Bool} {onFloat : FVal → FVal → Bool}
    (hk : ((modeEt s.w).isInt || (modeEt s.w).isFloat) = true) (hp : Passes s .no [.pdst d, .vsrc a (wideEt s), .vsrc b (wideEt s)])
    (h₁ : readV s (wideEt s) a = .ok (s₁, x)) (h₂ : readV s₁ (wideEt s) b = .ok (s₂, y)) :
    compareForm d a b onInt onFloat s = .next (s₂.putPred [.pdst d, .vsrc a (wideEt s), .vsrc b (wideEt s)] d (active s.w) fun l =>
      if (x l).poison then ⟨false, true, (x l).code⟩ else if (y l).poison then ⟨false, true, (y l).code⟩
      else ⟨if (modeEt s.w).isInt then onInt (intOf s.w (x l).val) (intOf s.w (y l).val)
        else onFloat (floatIn s.w (x l).val) (floatIn s.w (y l).val), false, 0#8⟩) := by
  have accepted : numberType s.w = .ok () := require_true hk
  refine issue_next hp ?_
  simp only [accepted, h₁, wideEt_readV h₁, h₂, (readV_w h₂).trans (readV_w h₁), firstPoison_two]
  congr 4
  funext l
  cases (x l).poison <;> cases (y l).poison <;> rfl

/-- A comparison whose function on integers is another way of writing the table's. -/
theorem givesCompare_of {form : BitVec 4 → Byte → Byte → Instr} {onInt g : Int → Int → Bool} {onFloat : FVal → FVal → Bool}
    (e : ∀ d a b s, exec (form d a b) s = compareForm d a b onInt onFloat s) (h : ∀ x y, onInt x y = g x y) : GivesCompare form g onFloat := by
  obtain rfl : onInt = g := by funext x y; exact h x y
  exact fun _ _ _ _ _ _ _ _ hk hp h₁ h₂ => (e _ _ _ _).trans (compareForm_next hk hp h₁ h₂)

/-! ### Moves of masks (R271) -/

section
variable {s s₁ : State} {v : DWord}

theorem mset_next {d : BitVec 4} {a : Byte} (hp : Passes s .no [.pdst d, .ssrc a]) (hr : readS s a = .ok (s₁, ⟨v, false⟩)) :
    exec (.mset d a) s = .next (s₁.putPred [.pdst d, .ssrc a] d 0xFFFFFFFFFFFFFFFF#64 fun l => ⟨v.getLsbD l, false, 0#8⟩) := by
  refine exec_next (show execMset d a s = _ from rfl) hp ?_
  simp only [hr, consumeS, Bool.false_eq_true, ↓reduceIte]
  rfl

theorem msetx_next {a : Byte} (hp : Passes s .no [.ssrc a]) (hr : readS s a = .ok (s₁, ⟨v, false⟩)) :
    exec (.msetx a) s = .next (advance { s₁ with w := { s₁.w with exec := v &&& s.w.m } }) := by
  refine exec_ok (show execMsetx a s = _ from rfl) hp rfl ?_
  simp only [hr, consumeS, Bool.false_eq_true, ↓reduceIte, readS_w hr]

theorem mgetx_next {d : Byte} (hp : Passes s .no [.sdst d]) : exec (.mgetx d) s = .next (s.putScalar d ⟨s.w.exec, false⟩) :=
  exec_ok (show execMgetx d s = _ from rfl) hp rfl rfl

theorem mget_next {d : Byte} {a : BitVec 4} (hp : Passes s .no [.sdst d]) :
    exec (.mget d a) s = .next (s.putScalar d (match predPoison s.w 0xFFFFFFFFFFFFFFFF#64 a with
      | some c => poisonScalar c
      | none => ⟨laneMask fun l => (predLane s.w a l).bit, false⟩)) :=
  exec_ok (show execMget d a s = _ from rfl) hp rfl rfl

end

/-- Settles O6: each predicate operation and comparison by its function, each move of a mask by its own equation. -/
theorem predicateResult : Obligations.PredicateResult := by
  refine ⟨givesPredTwo_of fun _ _ _ _ => rfl, givesPredTwo_of fun _ _ _ _ => rfl, givesPredTwo_of fun _ _ _ _ => rfl,
    givesPredTwo_of fun _ _ _ _ => rfl, ?_, ?_, ?_, ?_, fun _ _ _ _ _ => mset_next, fun _ _ _ _ => msetx_next,
    fun _ _ _ hp => ⟨mgetx_next hp, mget_next hp⟩⟩
  · exact givesCompare_of (onInt := fun x y => x == y) (fun _ _ _ _ => rfl) fun x y => beq_eq_decide x y
  · exact givesCompare_of (onInt := fun x y => decide (x < y)) (fun _ _ _ _ => rfl) fun _ _ => rfl
  · exact givesCompare_of (onInt := fun x y => decide (x ≤ y)) (fun _ _ _ _ => rfl) fun _ _ => rfl
  · exact givesCompare_of (onInt := fun x y => x != y) (fun _ _ _ _ => rfl) fun x y => by rw [bne, beq_eq_decide, decide_not]

end Sys2Proof.Machine

/-! Fault records, precise faults and SOFTWARE_TRAP (R373, R377 to R385, R390). -/

namespace Sys2Proof.Machine

/-! ### Fault records (R380) -/

/-- A field above others, read where they end and further up. -/
theorem extractLsb'_above {n m lo len : Nat} {x : BitVec n} {v : BitVec len} (h : x.extractLsb' lo len = v) (y : BitVec m) :
    (x ++ y).extractLsb' (lo + m) len = v := by
  rw [BitVec.extractLsb'_append_eq_of_le (Nat.le_add_left ..), Nat.add_sub_cancel, h]

theorem extractLsb'_top {n m : Nat} (x : BitVec n) (v : BitVec m) : (x ++ v).extractLsb' 0 m = v := BitVec.extractLsb'_append_eq_right

section
variable (w : Warp) (b : Block) (seq : DWord) (pc : VA) (t : TrapInfo) (mask : Mask) (imp exited : Bool) (icode : Byte)

/-- The fields of a fault record side by side. -/
theorem faultRecord_eq : faultRecord w b seq pc t mask imp exited icode =
    seq ++ w.node ++ pc ++ t.va ++ mask ++ b.z ++ b.y ++ b.x ++ (if w.rap then 0xFF#8 else w.widx) ++ t.code ++ t.detail ++ t.hreg ++ t.subs ++
      t.bitoff ++ t.swn ++ BitVec.ofBool imp ++ BitVec.ofBool exited ++ 0#4 ++ icode ++ 0#24 := by
  refine (ofNat_eq_setWidth ?_).trans (BitVec.setWidth_eq _)
  have widx : (if w.rap then 0xFF#8 else w.widx).toNat = if w.rap then 0xFF else w.widx.toNat := by split <;> rfl
  rw [atBit, atBit, atBit, Nat.pow_add 2 192 256, Nat.pow_add 2 128 256, Nat.pow_add 2 48 256]
  simp only [toNat_append_add, BitVec.toNat_ofBool, BitVec.toNat_ofNat, atBit, widx]
  ring

theorem recCode_faultRecord : recCode (faultRecord w b seq pc t mask imp exited icode) = t.code := by
  rw [recCode, faultRecord_eq]
  iterate 10 refine extractLsb'_above ?_ _
  exact extractLsb'_top _ _

theorem recDetail_faultRecord : recDetail (faultRecord w b seq pc t mask imp exited icode) = t.detail := by
  rw [recDetail, faultRecord_eq]
  iterate 9 refine extractLsb'_above ?_ _
  exact extractLsb'_top _ _

theorem recMask_faultRecord : recMask (faultRecord w b seq pc t mask imp exited icode) = mask := by
  rw [recMask, faultRecord_eq]
  iterate 15 refine extractLsb'_above ?_ _
  exact extractLsb'_top _ _

theorem swn_faultRecord : (faultRecord w b seq pc t mask imp exited icode).extractLsb' 38 10 = t.swn := by
  rw [faultRecord_eq]
  iterate 5 refine extractLsb'_above ?_ _
  exact extractLsb'_top _ _

theorem pc_faultRecord : (faultRecord w b seq pc t mask imp exited icode).extractLsb' 304 80 = pc := by
  rw [faultRecord_eq]
  iterate 17 refine extractLsb'_above ?_ _
  exact extractLsb'_top _ _

theorem seq_faultRecord : (faultRecord w b seq pc t mask imp exited icode).extractLsb' 448 64 = seq := by
  rw [faultRecord_eq]
  iterate 19 refine extractLsb'_above ?_ _
  exact BitVec.extractLsb'_eq_self

end

/-- HND is one bit. -/
theorem getLsbD_hnd (i : Nat) : (1#512 <<< 35).getLsbD i = decide (i = 35) := by
  simp only [BitVec.getLsbD_shiftLeft, BitVec.getLsbD_one]
  grind

theorem getLsbD_withHnd (r : BitVec 512) : (withHnd r).getLsbD 35 = true := by
  rw [withHnd, BitVec.getLsbD_or, getLsbD_hnd]
  simp

/-- Fields beside HND read as before. -/
theorem extractLsb'_withHnd {lo len : Nat} (r : BitVec 512) (h : 36 ≤ lo) : (withHnd r).extractLsb' lo len = r.extractLsb' lo len := by
  refine BitVec.eq_of_getLsbD_eq fun i hi => ?_
  have beside : ¬lo + i = 35 := by omega
  rw [BitVec.getLsbD_extractLsb', BitVec.getLsbD_extractLsb', withHnd, BitVec.getLsbD_or, getLsbD_hnd, decide_eq_false beside, Bool.or_false]

/-! ### Delivery (R382, R383, R385, R390) -/

theorem writeSlot_w (s : State) (r : BitVec 512) : (writeSlot s r).w = { s.w with faultSlot := r } := (congrArg State.w (hubPost_offHub ..) :)
theorem writeSlot_x (s : State) (r : BitVec 512) : (writeSlot s r).x = s.x := (congrArg State.x (hubPost_offHub ..) :)
theorem appendRing_w (s : State) (x : Ctx) (r : BitVec 512) : (appendRing s x r).w = s.w := (congrArg State.w (appendRing_offHub s x r) :)
theorem haltNode_w (s : State) (c d : Byte) : (haltNode s c d).w = { s.w with status := .halted, matReq := none } := rfl

/-- The trap entry for a resume point (R383). -/
def trapEntry (w : Warp) (resume : VA) : StackEntry :=
  { kind := .trap, pc := resume, mask := w.exec, rpc := w.rp.getD (clauseVa resume), m := w.m, running := false, pooled := false, other := none }

/-- The warp as its handler is entered with a record and a lane mask (R383). -/
def inTrap (w : Warp) (handler : VA) (r : BitVec 512) (mask : Mask) (resume : VA) : Warp :=
  { w with stack := trapEntry w resume :: w.stack, trapmask := mask, floor := BitVec.ofNat 9 (w.stack.length + 1), rp := none, rowResume := false
           keys := [], keyPop := none, m := w.exec, pc := handler, enter := true, status := .running, woken := false, faultSlot := withHnd r }

section
variable {s : State} (r : BitVec 512) (mask : Mask) (resume : VA)

theorem deliver_enters (hr : s.w.rap = false) (hv : s.x.trapva ≠ 0#80) (hl : s.w.stack.length < 256) :
    (deliver s r mask resume).w = inTrap s.w s.x.trapva r mask resume := by
  simp only [deliver, hr, hv, hl.ne, Bool.false_eq_true, ↓reduceIte, writeSlot_w, writeSlot_x, inTrap, trapEntry]

/-- A run-ahead processor and a warp without a handler halt where they stand. -/
theorem deliver_halts (h : s.w.rap = true ∨ s.x.trapva = 0#80) : (deliver s r mask resume).w.status = .halted ∧
    (deliver s r mask resume).w.pc = s.w.pc ∧ (deliver s r mask resume).w.stack = s.w.stack := by
  unfold deliver
  split
  · simp only [haltNode_w, appendRing_w, and_self]
  next hr =>
  rw [if_pos (h.resolve_left hr)]
  simp only [haltNode_w, appendRing_w, writeSlot_w, and_self]

theorem deliver_overflows (hr : s.w.rap = false) (hv : s.x.trapva ≠ 0#80) (hl : s.w.stack.length = 256) :
    (deliver s r mask resume).w = { s.w with faultSlot := withHnd r, status := .halted, matReq := none } := by
  simp only [deliver, hr, hv, hl, Bool.false_eq_true, ↓reduceIte, haltNode_w, appendRing_w, writeSlot_w]

end

/-- No trap entry stands on the stack: the warp is in no handler. -/
theorem inHandler_eq_false {w : Warp} (h : ∀ e ∈ w.stack, e.kind ≠ .trap) : inHandler w = false :=
  List.any_eq_false.mpr fun e he => by simpa using h e he

theorem inHandler_iff {w : Warp} : inHandler w = true ↔ ∃ e ∈ w.stack, e.kind = .trap := by
  simp [inHandler]

/-- The record of a precise fault (R380). -/
def trapRecord (s : State) (f : TrapInfo) : BitVec 512 :=
  faultRecord s.w s.b s.hub.jtail s.w.pc f (f.mask.getD (active s.w)) false false 0x00

/-- Outside a handler a precise fault is delivered, to resume at the instruction or, of SOFTWARE_TRAP, at its successor. -/
theorem takeTrap_delivers {s : State} (f : TrapInfo) (h : inHandler s.w = false) : takeTrap s f =
    deliver (takeSeq s).1 (trapRecord s f) (f.mask.getD (active s.w)) (if f.next then (succOf s.w).1 else s.w.pc) :=
  if_neg (show ¬inHandler s.w = true by rw [h]; decide)

theorem takeTrap_enters {s : State} (f : TrapInfo) (hr : s.w.rap = false) (hv : s.x.trapva ≠ 0#80) (he : ∀ e ∈ s.w.stack, e.kind ≠ .trap)
    (hl : s.w.stack.length < 256) : (takeTrap s f).w =
      inTrap s.w s.x.trapva (trapRecord s f) (f.mask.getD (active s.w)) (if f.next then (succOf s.w).1 else s.w.pc) := by
  rw [takeTrap_delivers f (inHandler_eq_false he)]
  exact deliver_enters (s := (takeSeq s).1) _ _ _ hr hv hl

/-- A fault inside a handler is a double trap: the warp halts, and its fault slot stands (R385). -/
theorem takeTrap_doubles {s : State} (f : TrapInfo) (h : inHandler s.w = true) :
    (takeTrap s f).w = { s.w with status := .halted, matReq := none } := by
  have inside : inHandler (takeSeq s).1.w = true := h
  simp only [takeTrap, inside, ↓reduceIte, haltNode_w, appendRing_w]
  rfl

/-- The record that the fault slot holds: what the trap says, and HND. -/
theorem trapRecord_fields (s : State) (f : TrapInfo) : recCode (withHnd (trapRecord s f)) = f.code ∧
    recDetail (withHnd (trapRecord s f)) = f.detail ∧ recMask (withHnd (trapRecord s f)) = f.mask.getD (active s.w) ∧
    (withHnd (trapRecord s f)).getLsbD 35 = true :=
  ⟨(extractLsb'_withHnd _ (by decide)).trans (recCode_faultRecord ..), (extractLsb'_withHnd _ (by decide)).trans (recDetail_faultRecord ..),
    (extractLsb'_withHnd _ (by decide)).trans (recMask_faultRecord ..), getLsbD_withHnd _⟩

/-- Settles O11: a precise fault by the handler, the run-ahead processor, the stack and the trap entries that its warp has. -/
theorem preciseFaultEntersHandler : Obligations.PreciseFaultEntersHandler := by
  refine ⟨fun s f hf hr hv he hl => ⟨_, ?_, trapRecord_fields s f⟩, fun s f h he => ?_, fun s f hr hv he hl => ?_, fun s f h => ?_⟩
  · rw [takeTrap_enters f hr hv he hl, hf]
    rfl
  · rw [takeTrap_delivers f (inHandler_eq_false he)]
    exact deliver_halts (s := (takeSeq s).1) _ _ _ h
  · have full : (takeTrap s f).w = { s.w with faultSlot := withHnd (trapRecord s f), status := .halted, matReq := none } := by
      rw [takeTrap_delivers f (inHandler_eq_false he)]
      exact deliver_overflows (s := (takeSeq s).1) _ _ _ hr hv hl
    rw [full]
    exact ⟨rfl, (trapRecord_fields s f).1, rfl⟩
  · rw [takeTrap_doubles f (inHandler_iff.mpr h)]
    exact ⟨rfl, rfl, rfl⟩

/-! ### TRAP (R373) -/

/-- A word of the table is read as the instruction whose word it is. -/
theorem decodeTableWord_ofNat {w : Word} {i : Instr} (h : decodeWord w = .ok i) : decodeTableWord 32 w.toNat = some i := by
  have bytes : wordOfBytes (w.extractLsb' 0 8) (w.extractLsb' 8 8) (w.extractLsb' 16 8) (w.extractLsb' 24 8) = w := by
    unfold wordOfBytes
    rw [BitVec.extractLsb'_append_extractLsb'_eq_extractLsb' (start₁ := 16) (len₁ := 8) rfl,
      BitVec.extractLsb'_append_extractLsb'_eq_extractLsb' (start₁ := 8) (len₁ := 8) rfl,
      BitVec.extractLsb'_append_extractLsb'_eq_extractLsb' (start₁ := 0) (len₁ := 8) rfl]
    exact BitVec.extractLsb'_eq_self
  have word : BitVec.ofNat 32 (w.toNat % 2 ^ 32) = w := by rw [Nat.mod_eq_of_lt w.isLt, BitVec.ofNat_toNat, BitVec.setWidth_eq]
  simp only [decodeTableWord, word, bytesOfWord, decodeBytes, bytes, h, Option.map_some]

theorem encode_trap (n : BitVec 10) : encode (.trap n) = some (0x001C0000#32 + n.setWidth 32) := by
  refine congrArg some (BitVec.eq_of_toNat_eq ?_)
  simp [place]

theorem trap_raises {s : State} (n : BitVec 10) (hp : Passes s .no []) (ha : active s.w ≠ 0#64) : exec (.trap n) s =
    .next (takeTrap s { code := cSoftwareTrap, detail := n.setWidth 8, swn := n, next := true }) := by
  refine (show exec (.trap n) s = execTrap n s from rfl).trans ((issue_passes hp).trans ?_)
  simp only [warpOnce, if_neg ha, namesHandle, ite_self, finish]

/-- Settles O10: the word, no lane active, and the trap into the handler. -/
theorem trapEntersHandler : Obligations.TrapEntersHandler := by
  refine ⟨fun n => ⟨encode_trap n, ?_⟩, fun s n hp ha => ?_, fun s n hp hr ha hv he hl => ?_⟩
  · have word := decodeTableWord_ofNat (Laws.encodingRoundTrip (.trap n) _ rfl (encode_trap n))
    have num : (0x001C0000#32 + n.setWidth 32).toNat = 0x001C0000 + n.toNat := by
      have := n.isLt
      simp; omega
    rwa [num] at word
  · exact (show exec (.trap n) s = execTrap n s from rfl).trans (warpOnce_idle ha hp rfl)
  · obtain ⟨code, detail, mask, hnd⟩ := trapRecord_fields s { code := cSoftwareTrap, detail := n.setWidth 8, swn := n, next := true }
    refine ⟨_, _, trap_raises n hp ha, ?_, code, detail, ?_, mask, ?_, hnd, ?_⟩
    · rw [takeTrap_enters _ hr hv he hl]
      rfl
    · exact (extractLsb'_withHnd _ (by decide)).trans (swn_faultRecord ..)
    · exact (extractLsb'_withHnd _ (by decide)).trans (pc_faultRecord ..)
    · exact (extractLsb'_withHnd _ (by decide)).trans (seq_faultRecord ..)

end Sys2Proof.Machine

/-! Deliveries at an instruction boundary (R376, R387). -/

namespace Sys2Proof.Machine

section
variable {s : State}

/-- The warp whose oldest late fault is taken from its queue. -/
def takesLate (w : Warp) (rest : List (BitVec 512)) : Warp :=
  { w with late := rest, summary := w.summary && !(w.summary && rest.isEmpty), summaryDone := w.summaryDone || (w.summary && rest.isEmpty) }

/-- A TIMER interrupt with its detail, delivered to the warp as the deadline leaves it. -/
def deliverTimer (s : State) (detail : Byte) (w : Warp) : State :=
  deliver (takeSeq { s with w := w }).1 (faultRecord w s.b s.hub.jtail w.pc { code := cTimer, detail := detail } w.exec false false 0x00) w.exec w.pc

theorem deliverTimer_enters (detail : Byte) {w : Warp} (hv : s.x.trapva ≠ 0#80) (hr : w.rap = false) (hl : w.stack.length < 256) :
    ∃ r, (deliverTimer s detail w).w = inTrap w s.x.trapva r w.exec w.pc ∧ recCode (withHnd r) = cTimer ∧ recDetail (withHnd r) = detail :=
  ⟨_, deliver_enters (s := (takeSeq { s with w := w }).1) _ _ _ hr hv hl, (extractLsb'_withHnd _ (by decide)).trans (recCode_faultRecord ..),
    (extractLsb'_withHnd _ (by decide)).trans (recDetail_faultRecord ..)⟩

/-- The oldest late fault is delivered first, CYCDL before WALLDL (R387). -/
theorem boundaryTrap_open (hb : atBoundary s.w = true) (hh : inHandler s.w = false) (hr : s.w.rap = false) : boundaryTrap s =
    match s.w.late with
    | r :: rest => some (deliver { s with w := takesLate s.w rest } r (recMask r) s.w.pc)
    | [] => if cycDue s then some (deliverTimer s 0x02 { s.w with cycdl := 0#64 })
      else if s.w.walldl ≠ 0#64 && s.w.walldl.toNat ≤ wall s then some (deliverTimer s 0x03 { s.w with walldl := 0#64 })
      else none := by
  unfold boundaryTrap
  rw [if_neg (by rw [hb, hh, hr]; decide)]
  rfl

theorem boundaryTrap_inHandler (h : inHandler s.w = true) : boundaryTrap s = none :=
  if_pos (by rw [h, Bool.or_true]; rfl)

/-- What an event of the boundary leaves where its cause is due. -/
theorem atBoundaryOf_delivers {t : State} {due : State → Bool} (ha : AtWarp s s.w.wid) (hd : due s = true) (hb : boundaryTrap s = some t)
    (ht : t.w.wid = s.w.wid) : (.next (atBoundaryOf s s.w.wid due) : Host.Outcome State Fault Refusal) = .next t :=
  withWarp_next ha ((if_pos hd).trans (congrArg (·.getD s) hb)) (.inl ht)

theorem atBoundaryOf_inHandler {due : State → Bool} (ha : AtWarp s s.w.wid) (h : inHandler s.w = true) : atBoundaryOf s s.w.wid due = s := by
  have stays : (if due s then (boundaryTrap s).getD s else s) = s := by rw [boundaryTrap_inHandler h]; exact ite_self s
  exact (withWarp_atHome (f := fun s => if due s then (boundaryTrap s).getD s else s) ha (by rw [stays]; exact .focus s)).trans stays

/-- The deadlines and the late-fault queue apart, nothing of the warp has changed but what a handler's entry changes. -/
theorem entered_inTrap {t : State} {late : List (BitVec 512)} {summary done : Bool} {cycdl walldl : DWord} {r : BitVec 512} {mask : Mask}
    (h : t.w = inTrap { s.w with late := late, summary := summary, summaryDone := done, cycdl := cycdl, walldl := walldl } s.x.trapva r mask s.w.pc) :
    entered s t mask := by
  rw [entered, h]
  exact ⟨rfl, rfl, rfl, rfl, rfl, rfl, rfl, rfl, rfl, rfl, rfl, rfl, rfl, rfl⟩

variable (ha : AtWarp s s.w.wid) (hr : s.w.rap = false) (hv : s.x.trapva ≠ 0#80) (hl : s.w.stack.length < 256)
include ha hr hv hl

theorem timerDelivery_enters {detail : Byte} {c d : DWord} {due : State → Bool} (hd : due s = true)
    (hb : boundaryTrap s = some (deliverTimer s detail { s.w with cycdl := c, walldl := d })) :
    ∃ t, (.next (atBoundaryOf s s.w.wid due) : Host.Outcome State Fault Refusal) = .next t ∧ entered s t s.w.exec ∧
      t.w.cycdl = c ∧ t.w.walldl = d ∧ recCode t.w.faultSlot = cTimer ∧ recDetail t.w.faultSlot = detail := by
  obtain ⟨r, enters, record⟩ := deliverTimer_enters detail (w := { s.w with cycdl := c, walldl := d }) hv hr hl
  have slot := (congrArg Warp.faultSlot enters :)
  refine ⟨_, atBoundaryOf_delivers ha hd hb (congrArg Warp.wid enters :), entered_inTrap enters, (congrArg Warp.cycdl enters :),
    (congrArg Warp.walldl enters :), ?_⟩
  rw [slot]
  exact record

variable (hb : atBoundary s.w = true) (hh : inHandler s.w = false)
include hb hh

theorem lateDelivery_enters {r : BitVec 512} {rest : List (BitVec 512)} (hq : s.w.late = r :: rest) :
    ∃ t, exec (.impreciseFaultDelivery s.w.wid) s = .next t ∧ entered s t (recMask r) ∧ t.w.late = rest ∧ t.w.faultSlot = withHnd r := by
  have opens := boundaryTrap_open hb hh hr
  rw [hq] at opens
  have enters := deliver_enters (s := { s with w := takesLate s.w rest }) r (recMask r) s.w.pc hr hv hl
  exact ⟨_, atBoundaryOf_delivers ha (by rw [hq]; rfl) opens (congrArg Warp.wid enters :), entered_inTrap enters, (congrArg Warp.late enters :),
    (congrArg Warp.faultSlot enters :)⟩

theorem cycDelivery_enters (hq : s.w.late = []) (hc : cycDue s = true) : ∃ t, exec (.ttrapDeadline s.w.wid) s = .next t ∧ entered s t s.w.exec ∧
    t.w.cycdl = 0#64 ∧ t.w.walldl = s.w.walldl ∧ recCode t.w.faultSlot = cTimer ∧ recDetail t.w.faultSlot = 0x02 := by
  have opens := boundaryTrap_open hb hh hr
  rw [hq, hc] at opens
  exact timerDelivery_enters (due := fun s => s.w.late.isEmpty && cycDue s) ha hr hv hl (by rw [hq, hc]; rfl) opens

theorem wallDelivery_enters (hq : s.w.late = []) (hc : cycDue s = false) (hw : (s.w.walldl ≠ 0#64 && s.w.walldl.toNat ≤ wall s) = true) :
    ∃ t, exec (.tdeadDeadline s.w.wid) s = .next t ∧ entered s t s.w.exec ∧
      t.w.cycdl = s.w.cycdl ∧ t.w.walldl = 0#64 ∧ recCode t.w.faultSlot = cTimer ∧ recDetail t.w.faultSlot = 0x03 := by
  have opens := boundaryTrap_open hb hh hr
  rw [hq, hc, hw] at opens
  exact timerDelivery_enters (due := fun s => s.w.late.isEmpty && !cycDue s) ha hr hv hl (by rw [hq, hc]; rfl) opens

end

/-- Settles O38: the oldest late fault, else CYCDL, else WALLDL, each into the handler; within one, nothing. -/
theorem boundaryEventResult : Obligations.BoundaryEventResult := by
  refine ⟨fun s ha hb hh hr hv hl => ⟨fun r rest hq => lateDelivery_enters ha hr hv hl hb hh hq,
    fun hq h0 hc => cycDelivery_enters ha hr hv hl hb hh hq (by simp [cycDue, h0, hc]), fun hq hn h0 hc => ?_⟩,
    fun s ha h =>
      ⟨congrArg _ (atBoundaryOf_inHandler ha h), congrArg _ (atBoundaryOf_inHandler ha h), congrArg _ (atBoundaryOf_inHandler ha h)⟩⟩
  obtain ⟨t, ht, there, cyc, walldl, record⟩ := wallDelivery_enters ha hr hv hl hb hh hq (by simpa [cycDue] using hn) (by simp [h0, hc])
  exact ⟨t, ht, there, walldl, cyc, record⟩

end Sys2Proof.Machine

/-! Accumulator forms (R337, R346 to R354). -/

namespace Sys2Proof.Machine

/-! ### ACCZ and ACCLD (R347, R348, R350) -/

section
variable {s t : State} {c : BitVec 2}

section
variable (hp : Passes s .no []) (hm : s.w.mat = none)
include hp hm

theorem accz_idle (ha : active s.w = 0#64) : exec (.accz c) s = .next (advance s) :=
  exec_accOk (show execAccz c s = _ from rfl) hp rfl hm (if_pos ha)

theorem accz_next (ha : active s.w ≠ 0#64) : exec (.accz c) s = .next (accEffect s c.toFin
    (accRows { s.w.acc[c.toFin] with f64 := decide (modeEt s.w = .f64) } (active s.w) fun _ _ => AccRow.zero)
    (stateRows s.w.rowState (active s.w) fun _ _ => RowState.launch) 0) :=
  exec_accOk (show execAccz c s = _ from rfl) hp rfl hm (if_neg ha)

end

section
variable {h : BitVec 4} {i : BitVec 6} {k : AccCase} {f64 : Bool} {co : List Nat} (hp : Passes s .no [.sregs (i.setWidth 8) 2] h)
  (hm : s.w.mat = none) (hk : accChecks s c.toFin h i false = .ok (k, f64, co)) (hv : coordValid (handleAt s.w h).entry co = true)
include hp hm hk hv

theorem accld_idle (ha : active s.w = 0#64) : exec (.accld c h i) s = .next (advance s) := by
  refine exec_accOk (show execAccld c h i s = _ from rfl) hp rfl hm ?_
  simp only [hk, hv, if_pos ha, Bool.not_true, Bool.false_eq_true, ↓reduceIte]

/-- A load of the row state replaces the row states, any other the rows under the tag that it gives. -/
theorem accld_next {rows : List (Fin 64 × RowLoad)} {a : State} (ha : active s.w ≠ 0#64) (hr : readReady s 64 = .ok ())
    (hl : accRead s k h (handleAt s.w h) co = .ok (t, rows)) (he : a = { t with w := rowOrigins t.w rows }) :
    exec (.accld c h i) s = .next (
      if k = .state then accEffect a c.toFin a.w.acc[c.toFin] (stateRows a.w.rowState (active a.w) fun l r =>
        (((rows.find? fun x => x.1 = l).map (·.2)).map (loadedState r)).getD r) 0
      else accEffect a c.toFin (accRows { a.w.acc[c.toFin] with f64 := f64 } (active a.w) fun l r =>
        (((rows.find? fun x => x.1 = l).map (·.2)).map (loadedRow r)).getD r) a.w.rowState 0) := by
  subst he
  refine exec_accOk (show execAccld c h i s = _ from rfl) hp rfl hm ?_
  simp only [hk, hv, if_neg ha, hr, hl, Bool.not_true, Bool.false_eq_true, ↓reduceIte]
  exact (apply_ite Except.ok ..).symm

end

/-! ### The forms of the online softmax (R352 to R354) -/

section
variable {f : BitVec 6} {x : DWord} (hx : s.w.s[Fin.ofNat 64 f.toNat] = ⟨x, false⟩)
include hx

/-- An unpoisoned scalar under F32 tags is the operand of the form (R346). -/
theorem accScalar_ok {tags : List Bool} (ht : ∀ b ∈ tags, b = false) : accScalar tags f s = .ok x := by
  have operand : sReg s.w (Fin.ofNat 64 f.toNat) = ⟨x, false⟩ := hx
  have tagged : tags.any id = false := List.any_eq_false.mpr fun b hb => by simp [ht b hb]
  simp only [accScalar, operand, consumeS, tagged, Bool.false_eq_true, ↓reduceIte]

variable (hp : Passes s .no [.ssrc (f.setWidth 8)]) (hm : s.w.mat = none) (ht : (s.w.acc[c.toFin]).f64 = false)
include hp hm ht

theorem accmax_next : exec (.accmax c f) s = .next (if active s.w = 0#64 then advance s else accEffect s c.toFin s.w.acc[c.toFin]
    (stateRows s.w.rowState (active s.w) fun l r => maxState (f32Of x) (s.w.acc[c.toFin]).rows[l] r) 0) := by
  refine exec_accOk (show execAccmax c f s = _ from rfl) hp rfl hm ?_
  simp only [accScalar_ok hx (tags := [(s.w.acc[c.toFin]).f64]) (by simpa using ht)]
  exact (apply_ite Except.ok ..).symm

theorem accexp_next : exec (.accexp c f) s = .next (if active s.w = 0#64 then advance s else accEffect s c.toFin
    (accRows s.w.acc[c.toFin] (active s.w) fun l r => expRow (f32Of x) r s.w.rowState[l]) s.w.rowState
    (((laneList (active s.w)).map fun (l : Fin 64) => expZeros (f32Of x) (s.w.acc[c.toFin]).rows[l] s.w.rowState[l]).foldl (· + ·) 0)) := by
  refine exec_accOk (show execAccexp c f s = _ from rfl) hp rfl hm ?_
  simp only [accScalar_ok hx (tags := [(s.w.acc[c.toFin]).f64]) (by simpa using ht)]
  exact (apply_ite Except.ok ..).symm

theorem accsum_next {m : BitVec 2} (hn : (s.w.acc[m.toFin]).f64 = false) (hs : x.toNat < 4) : exec (.accsum c m f) s = .next (
    if active s.w = 0#64 then advance s else accEffect s c.toFin
      (accRows s.w.acc[c.toFin] (active s.w) fun l r => (sumStep x (modeCmp s.w) (c = m) r (s.w.acc[m.toFin]).rows[l] s.w.rowState[l]).1)
      (stateRows s.w.rowState (active s.w) fun l _ =>
        (sumStep x (modeCmp s.w) (c = m) (s.w.acc[c.toFin]).rows[l] (s.w.acc[m.toFin]).rows[l] s.w.rowState[l]).2) 0) := by
  refine exec_accOk (show execAccsum c m f s = _ from rfl) hp rfl hm ?_
  have legal : ¬x.toNat / 4 ≠ 0 := by omega
  simp only [accScalar_ok hx (tags := [(s.w.acc[c.toFin]).f64, (s.w.acc[m.toFin]).f64]) (by simpa using ⟨ht, hn⟩), if_neg legal]
  exact (apply_ite Except.ok ..).symm

end

end

/-- Settles O32: each form by its equation, with no lane active and with its rows. -/
theorem accumulatorResult : Obligations.AccumulatorResult := by
  refine ⟨fun s c hp hm => accz_next hp hm, fun s c hp hm => accz_idle hp hm, fun s c h i k f64 co hp hm ha hk hv => accld_idle hp hm hk hv ha,
    fun s c m f x hp hm ha hx ht => ?idle, fun s t c h i k f64 co rows hp hm ha hk hv hr hl => ?load, fun s c m f x hp hm ha hx ht => ?rows⟩
  case idle =>
    refine ⟨?_, ?_, fun hn hs => ?_⟩
    · rw [accmax_next hx hp hm ht, if_pos ha]
    · rw [accexp_next hx hp hm ht, if_pos ha]
    · rw [accsum_next hx hp hm ht hn hs, if_pos ha]
  case load =>
    refine ⟨_, _, accld_next hp hm hk hv ha hr hl rfl, rfl, fun h => if_neg h, fun h => if_pos h⟩
  case rows =>
    refine ⟨?_, ?_, fun hn hs => ?_⟩
    · rw [accmax_next hx hp hm ht, if_neg ha]
    · rw [accexp_next hx hp hm ht, if_neg ha]
    · rw [accsum_next hx hp hm ht hn hs, if_neg ha]

end Sys2Proof.Machine

/-! ACCZ as it is applied (R338, R347), and a split whose other path is in no warp slot (R194). -/

namespace Sys2Proof.Machine

section
variable {w : Warp} {e : StackEntry} {rest : List StackEntry} {c : PathCtx} (hs : w.stack = e :: rest) (hk : e.kind = .path) (ho : e.other = some c)
  (hm : c.m ≠ 0#64)
include hs hk ho hm

/-- At the reconvergence point of a split the other path comes into focus, where it has lanes left (R193, R194). -/
theorem unwind_takesPath (hp : w.pc = e.rpc) (n : Nat) :
    unwind (n + 1) false w = unwind n false { takePath w c with stack := { e with running := true, other := none } :: rest } := by
  have other : (e.other.filter fun c => c.m ≠ 0#64) = some c := by simp [ho, hm]
  simp only [unwind, hs, hk, hp, other, decide_true, Bool.or_true, ↓reduceIte]

theorem settle_takesPath (hp : w.pc = e.rpc) (hc : c.pc ≠ e.rpc) : (settle w).status = c.status := by
  rw [settle, unwind_takesPath hs hk ho hm hp, unwind_stays]
  · rfl
  · simpa using .inr (.inr hc)

/-- A warp whose next word stands there takes up the other path with its status. -/
theorem stepOver_takesPath (hp : (succOf w).1 = e.rpc) (hc : c.pc ≠ e.rpc) : (stepOver w).status = c.status :=
  settle_takesPath (w := { w with pc := (succOf w).1, enter := (succOf w).2, status := .running, woken := false, rowResume := false })
    hs hk ho hm hp hc

end

/-- The successor of a word depends on its address and its clause alone (R228). -/
theorem succOf_congr {w u : Warp} (hp : u.pc = w.pc) (hc : u.clause = w.clause) : succOf u = succOf w := by
  rw [succOf, litCount, hp, hc]
  rfl

/-- An accumulator form whose successor is that point leaves the warp with the other path's status. -/
theorem accEffect_takesPath {s : State} {e : StackEntry} {rest : List StackEntry} {c : PathCtx} (hs : s.w.stack = e :: rest) (hk : e.kind = .path)
    (ho : e.other = some c) (hm : c.m ≠ 0#64) (hp : (succOf s.w).1 = e.rpc) (hc : c.pc ≠ e.rpc) (a : Fin 4) (tile : Acc)
    (rows : Vector RowState 64) (n : Nat) : (accEffect s a tile rows n).w.status = c.status := by
  obtain ⟨k, f, hw⟩ : ∃ k f, (accEffect s a tile rows n).w = stepOver (flagInc { s.w with mat := k } f) := ⟨_, _, rfl⟩
  have succ : succOf (flagInc { s.w with mat := k } f) = succOf s.w := succOf_congr (by rw [flagInc_pc]) (by rw [flagInc_clause])
  rw [hw]
  exact stepOver_takesPath (by rw [flagInc_stack, ← hs]) hk ho hm (by rw [succ, hp]) hc

theorem accEffect_acc (s : State) (a : Fin 4) (tile : Acc) (rows : Vector RowState 64) (n : Nat) : (accEffect s a tile rows n).w.acc = s.w.acc := by
  simp [accEffect, advance]

/-- The first word of a clause without literals falls through to the second. -/
theorem succOf_first {w : Warp} (hp : w.pc = 0#80) (hc : w.clause = 0#512) : succOf w = (4#80, false) := by
  simp [succOf, wordIndex, litCount, bitsNat, hp, hc]

/-- The other path of a split, recorded as though its warp slot held no warp. -/
def slotlessPath : PathCtx :=
  { pc := 0#80, enter := true, clause := 0#512, exec := 1#64, m := 1#64, rp := none, status := .vacant, since := 0, woken := false }

/-- A split of which that path is left. -/
def slotlessEntry : StackEntry :=
  { kind := .path, rpc := 4#80, pc := 4#80, mask := 1#64, m := 1#64, running := false, pooled := true, other := some slotlessPath }

/-- A running warp under F64, at the word before the reconvergence point of that split. -/
def slotlessState : State :=
  { State.reset with w := { Warp.empty with wid := 1, status := .running, mode := 0x160#32, stack := [slotlessEntry] } }

theorem slotlessState_active : active slotlessState.w ≠ 0#64 := by
  have guard (l : Fin 64) : guardBit slotlessState.w l = true := rfl
  have active_eq : active slotlessState.w = 0xFFFFFFFFFFFFFFFF#64 &&& laneMask (guardBit slotlessState.w) := rfl
  rw [active_eq, any_lane]
  exact ⟨0, by decide, guard 0⟩

theorem slotlessState_passes : Passes slotlessState .no [] :=
  .of rfl rfl rfl rfl (by
    rw [consumeGuard, if_neg (by decide)]
    simp only [firstLane_none (f := fun l => (predLane slotlessState.w (slotlessState.w.mode.extractLsb' 0 4) l).poison) fun _ _ => rfl])

/-- Refutes O53: the word that moves the warp past accz ends its path, and the other path brings a status under which no warp has the name that
MATRIX_COMPLETE names, so that nothing is applied. The statement asks nothing of the paths on the stack, which no run leaves so. -/
theorem not_acczResets : ¬ Obligations.AcczResets := by
  intro h
  obtain ⟨t, u, issued, applied, tag, -⟩ := h slotlessState 0#2 ⟨⟨rfl, by decide⟩, rfl⟩ slotlessState_passes rfl slotlessState_active
  obtain rfl := Host.Outcome.next.inj ((accz_next slotlessState_passes rfl slotlessState_active).symm.trans issued)
  have vacant (tile : Acc) (rows : Vector RowState 64) : (accEffect slotlessState 0 tile rows 0).w.status = .vacant :=
    accEffect_takesPath (s := slotlessState) (e := slotlessEntry) rfl rfl rfl (by decide) (congrArg Prod.fst (succOf_first rfl rfl)) (by decide) ..
  have nobody (tile : Acc) (rows : Vector RowState 64) : warpOf (accEffect slotlessState 0 tile rows 0) 1 = none := by
    have alone : allWarps (accEffect slotlessState 0 tile rows 0) = [(accEffect slotlessState 0 tile rows 0).w] := rfl
    rw [warpOf, alone, List.find?_singleton, vacant]
    simp
  obtain rfl := Host.Outcome.next.inj ((congrArg Host.Outcome.next (withWarp_none (nobody ..))).symm.trans applied)
  have untagged := tag.mpr rfl
  rw [accEffect_acc] at untagged
  cases untagged

end Sys2Proof.Machine

/-! An atomic in memory out of its canonical form (R319, R320). -/

namespace Sys2Proof.Machine

section
variable {t : State} {p : Place} (hs : p.stash = false) (ha : p.attr = aSc)
include hs ha

/-- A write at an SC place, of whose line no partial copy is outstanding, puts its bytes into the cells. -/
theorem storeAt_sc_cells (core : Nat) (d : List Byte) (hu : t.m.ucopies = []) : (storeAt t core p d).m.cells = cellPut t.m.cells p.pa d := by
  have notIp : ¬aSc = aIp := by decide
  simp only [storeAt, hs, ha, notIp, Bool.false_eq_true, ↓reduceIte, recallLine_none hu]
  exact (homeWrite_cells ..).1

/-- A read-and-write there that writes puts the new value's bytes into the cells (R319). -/
theorem readWrite_sc_cells (core size : Nat) {f : Nat → Option Nat} {new : Nat} (hf : ∀ old, f old = some new) (hu : t.m.ucopies = []) :
    (readWrite t core p size f).1.m.cells = cellPut t.m.cells p.pa (bytesOfNat size new) := by
  have woken (b : Block) (s : State) : (wakeBarriers b s).m = s.m := by unfold wakeBarriers; split <;> rfl
  simp only [readWrite, hf, woken, ha, decide_true, Bool.or_true, ↓reduceIte, loadAt_sc hs ha, recallLine_none hu]
  exact storeAt_sc_cells hs ha core _ hu

end

/-- The atomic of a lane that its home accepts and its die holds for writing is performed (R62, R63, R162, R319). -/
theorem performAtom_next {t : State} {a : AtomJob} (hc : homeCheck t.m a.place = none) (hs : homeStalls t.m a.place = false)
    (hl : lineHeld t t.w.core.toNat a.place.pa true = true) : ∃ v, performAtom t a =
      ((readWrite t t.w.core.toNat a.place a.size (atomNew a.op (Elem.ofCode a.type) a.size a.x.toNat a.y.toNat)).1, some v) := by
  simp only [performAtom, hc, hs, hl, Bool.or_true, Bool.not_true, Bool.false_eq_true, ↓reduceIte]
  exact ⟨_, rfl⟩

/-- An SC page at 0, and memory that lists its first byte twice: what the cells hold once the first of the two is gone is the second. -/
def doubled : Mem := { Mem.reset with cells := [(0, 1#8), (0, 2#8)], frames := [{ frame := 0, attr := aSc, key := 0#7, changing := none }] }

def doubledState : State := { State.reset with m := doubled }

/-- A 32-bit AND with 0 at address 0. -/
def clearsFirst : AtomJob :=
  { place := { stash := false, off := 0, pa := 0, va := 0#80, attr := aSc, key := 0#7 }, op := 3#3, type := 4#4, size := 4, x := 0#64, y := 0#64 }

/-- Refutes O25: an AND with 0 takes the first of two cells that list byte 0 away, and the byte then reads as the second. The statement asks no
canonical form of the memory. -/
theorem not_atomicLaneReadsAndWrites : ¬ Obligations.AtomicLaneReadsAndWrites := by
  rintro ⟨-, performed⟩
  obtain ⟨u, m, old, -, -, run, -, written⟩ := performed doubledState clearsFirst rfl rfl (by decide) (by decide) (by decide) (.inl rfl) rfl
  obtain ⟨v, performs⟩ := performAtom_next (t := doubledState) (a := clearsFirst) (by decide) (by decide) (by decide)
  have cells : u.m.cells = cellPut doubled.cells 0 (bytesOfNat 4 0) := by
    rw [performs] at run
    rw [← (Prod.mk.inj run).1]
    exact readWrite_sc_cells (t := doubledState) rfl rfl _ _ (fun old => by simp [atomNew, atomValue, clearsFirst]) rfl
  have first : u.byteAt 0 = 0#8 := by simpa [clearsFirst, atomValue] using written 0 (by decide)
  rw [State.byteAt, cells] at first
  exact absurd first (by decide)

end Sys2Proof.Machine

/-! Links of the fabric (R403, R409 to R421; log entry 32). -/

namespace Sys2Proof.Machine

/-! ### Ports -/

theorem portAt_eq {k : Nat} {n : Fin 36} (h : n.val = k) (f : Fabric) : portAt f k = f.ports[n] := by
  subst h
  simp [portAt, List.getD]

theorem ports_onPort (s : State) (k : Nat) (f : Port → Port) (m : Fin 36) :
    (onPort s k f).fab.ports[m] = if m.val = k then f s.fab.ports[m] else s.fab.ports[m] :=
  vecOf_getElem _ m

section
variable {k : Nat} {n : Fin 36} (hn : n.val = k) (s : State) (f : Port → Port)
include hn

theorem port_onPort : (onPort s k f).fab.ports[n] = f s.fab.ports[n] := (ports_onPort ..).trans (if_pos hn)

theorem ports_onPort_other : ∀ m : Fin 36, m ≠ n → (onPort s k f).fab.ports[m] = s.fab.ports[m] := fun _ hm =>
  (ports_onPort ..).trans (if_neg fun e => hm (Fin.ext (e.trans hn.symm)))

end

/-- A message of some bytes fills a first flit (R413, R415). -/
theorem payloads_first {b : List Byte} (h : b ≠ []) : ∃ x, payloads 1 b = [x] := by
  cases b with
  | nil => exact absurd rfl h
  | cons x b => exact ⟨_, rfl⟩

/-- A management message for the far end waits as one flit at its port. -/
theorem toPeer_eq (s : State) (k : Nat) (mop : Byte) (aux : Nat) :
    ∃ q, toPeer s k mop aux = onPort s k fun p => { p with outbox := p.outbox ++ [q] } := by
  obtain ⟨x, one⟩ := payloads_first
    (b := messageBytes { mop := mop, dst := 0#10, tag := 0#16, addr := 0#80, aux := BitVec.ofNat 16 aux, body := [] })
    (by simp [messageBytes, bytesOfNat])
  refine ⟨⟨flitHeader 3#2 none (portAt s.fab k).peer s.fab.vertex s.hub.incarn, x⟩, ?_⟩
  simp only [toPeer, one, List.map_cons, List.map_nil]

/-- A flit that is routed joins a queue, and nothing else of a port has changed. -/
theorem ports_routeFlit (s : State) (q : Flit) (m : Fin 36) :
    ∃ o, (routeFlit s q).fab.ports[m] = { s.fab.ports[m] with outbox := o } := by
  unfold routeFlit
  split
  · rw [ports_onPort]
    split
    · exact ⟨_, rfl⟩
    · exact ⟨_, rfl⟩
  · exact ⟨_, rfl⟩

/-- The same of flits that are routed one after another. -/
theorem ports_routeFlits (l : List Flit) (s : State) (m : Fin 36) :
    ∃ o, (l.foldl routeFlit s).fab.ports[m] = { s.fab.ports[m] with outbox := o } := by
  refine foldl_keeps (P := fun t : State => ∃ o, t.fab.ports[m] = { s.fab.ports[m] with outbox := o }) (fun t q h => ?_) l ⟨_, rfl⟩
  obtain ⟨o, before⟩ := h
  obtain ⟨o', routed⟩ := ports_routeFlit t q m
  exact ⟨o', by rw [routed, before]⟩

theorem ports_voteUnsound (s : State) : (voteUnsound s).fab.ports = s.fab.ports := by
  unfold voteUnsound tellManager
  split
  · rw [(onlySends_voteFrom_unsound _ _ _).fab]
  · rfl

/-! ### The end of a rekey (R418, R419) -/

section
variable {s : State} {k : Nat} {n : Fin 36} (hn : n.val = k)
include hn

theorem rekeyEnded_idle (h : (s.fab.ports[n]).rekeyWaits = false) : rekeyEnded s k = s := by
  refine if_neg ?_
  rw [portAt_eq hn, h]
  exact Bool.false_ne_true

/-- A rekey that is not under way has no end. -/
theorem finishRekey_none (h : (s.fab.ports[n]).rekey = false) : finishRekey s k = s := by
  refine if_neg ?_
  rw [portAt_eq hn, h, Bool.false_and, Bool.false_and]
  exact Bool.false_ne_true

/-- A flit under the old bank that is not acknowledged holds the end of the rekey up (R419, step 4). -/
theorem finishRekey_waits {q : Flit} (hq : q ∈ (s.fab.ports[n]).replay) (hk : flitKg q.header ≠ (s.fab.ports[n]).txkg) : finishRekey s k = s := by
  refine if_neg ?_
  have held : ((s.fab.ports[n]).replay.all fun q => flitKg q.header = (s.fab.ports[n]).txkg) = false :=
    List.all_eq_false.mpr ⟨q, hq, by simpa using hk⟩
  rw [portAt_eq hn, held, Bool.and_false]
  exact Bool.false_ne_true

/-- With every flit under the old bank acknowledged the bank is erased and RETIRE sent (R419, steps 4 and 5). -/
theorem finishRekey_ends (hr : (s.fab.ports[n]).rekey = true) (hb : (s.fab.ports[n]).txBanks = 3#2) (hw : (s.fab.ports[n]).rekeyWaits = false)
    (ha : ∀ q ∈ (s.fab.ports[n]).replay, flitKg q.header = (s.fab.ports[n]).txkg) :
    ∃ q, finishRekey s k = onPort (onPort s k fun p => { p with rekey := false, txBanks := if p.txkg then 2#2 else 1#2 }) k
      fun p => { p with outbox := p.outbox ++ [q] } := by
  have acknowledged : ((s.fab.ports[n]).replay.all fun q => flitKg q.header = (s.fab.ports[n]).txkg) = true :=
    List.all_eq_true.mpr fun q hq => by simpa using ha q hq
  obtain ⟨q, sent⟩ := toPeer_eq (onPort s k fun p => { p with rekey := false, txBanks := if p.txkg then 2#2 else 1#2 }) k 0x32 0
  have quiet := rekeyEnded_idle (s := toPeer (onPort s k fun p => { p with rekey := false, txBanks := if p.txkg then 2#2 else 1#2 }) k 0x32 0) hn
    (by rw [sent, port_onPort hn, port_onPort hn]; exact hw)
  refine ⟨q, ?_⟩
  rw [← sent, ← quiet]
  refine if_pos ?_
  rw [portAt_eq hn, hr, hb, acknowledged]
  rfl

end

section
variable {s : State} {p : BitVec 6} {n : Fin 36}

/-! ### FLIT, NAK and DACK (R409, R416, R421) -/

theorem flit_away {h : BitVec 64} {b : List (BitVec 8)} {ok : Bool} (hs : (portAt s.fab p.toNat).state ≠ 2#2) : exec (.flit p h b ok) s = .next s :=
  congrArg _ (if_pos hs)

section
variable {h : BitVec 64} {b : List (BitVec 8)} {ok : Bool} (hs : (portAt s.fab p.toNat).state = 2#2)
include hs

theorem flit_refused (ha : linkAccepts (portAt s.fab p.toNat) h ok = false) :
    exec (.flit p h b ok) s = .next (onPort s p.toNat fun q => { q with nak := true }) := by
  refine congrArg _ ((if_neg (not_not.mpr hs)).trans (if_pos ?_))
  rw [ha]
  rfl

theorem flit_accepted (ha : linkAccepts (portAt s.fab p.toNat) h ok = true) {t : State}
    (ht : t = onPort s p.toNat fun q => { q with rxSeq := q.rxSeq + 1#12, nak := false }) : exec (.flit p h b ok) s =
      .next (if staleFlit s.fab h then { t with fab := { t.fab with stale := t.fab.stale + 1#64 } } else passFlit t p.toNat h b) := by
  subst ht
  refine congrArg _ ((if_neg (not_not.mpr hs)).trans (if_neg ?_))
  rw [ha]
  decide

end

/-- A port whose far end has acknowledged all but these flits, which are resent (R416). -/
def resends (rest : List Flit) (k : Nat) (q : Port) : Port :=
  { q with replay := rest, replays := if rest.isEmpty || q.replays = 0xFFFF#16 then q.replays else q.replays + 1#16
           fails := if rest.isEmpty then 0 else if k = 0 then q.fails + 1 else 1 }

section
variable (hn : n.val = p.toNat)
include hn

theorem nak_next {l : BitVec 12} {k : Nat} (hs : (s.fab.ports[n]).state = 2#2) (hr : (s.fab.ports[n]).rekey = false)
    (hk : k = (l - ((s.fab.ports[n]).txSeq - BitVec.ofNat 12 (s.fab.ports[n]).replay.length)).toNat) (hl : k ≤ (s.fab.ports[n]).replay.length) :
    exec (.nak p l) s = .next (onPort s p.toNat (resends ((s.fab.ports[n]).replay.drop k) k)) := by
  have idle := finishRekey_none (s := onPort s p.toNat (resends ((s.fab.ports[n]).replay.drop k) k)) hn (by rw [port_onPort hn]; exact hr)
  have known : ¬(s.fab.ports[n]).replay.length < k := Nat.not_lt.mpr hl
  rw [← idle]
  show execNak p l s = _
  simp only [execNak, portAt_eq hn, hs, ← hk, known, ne_eq, not_true_eq_false, decide_false, Bool.or_self, Bool.false_eq_true, ↓reduceIte]
  rfl

/-! ### LINK_TRAIN and LINK_DOWN (R403, R405, R412, R419) -/

section
variable {v : BitVec 10} (hf : s.hub.fail = false) (hg : 4 ≤ s.hub.stage.toNat) (hs : (s.fab.ports[n]).state = 0#2)
include hf hg hs

theorem linkTrain_eq : exec (.linkTrain p v) s = .next (if 32 ≤ n.val then onPort s p.toNat fun q => { q with state := 3#2 }
    else if assignedPeer s.fab n.val = some v.toNat then onPort s p.toNat (trainedPort s.m.interval v)
    else count s 0x0030#16 (BitVec.ofNat 32 n.val) 1) := by
  have booted : ¬s.hub.stage.toNat < 4 := Nat.not_lt.mpr hg
  have port : ¬36 ≤ n.val := Nat.not_le.mpr n.isLt
  show execLinkTrain p v s = _
  simp only [execLinkTrain, ← hn, portAt_eq rfl, hf, booted, port, hs, ne_eq, not_true_eq_false, decide_false, Bool.or_self,
    Bool.false_eq_true, ↓reduceIte]

end

/-- A link that is lost: its port is DOWN, its queued flits take other routes, and flits not acknowledged make the device unsound. -/
theorem linkDown_next (hs : (s.fab.ports[n]).state = 2#2) (hd : 17 ≤ (s.fab.ports[n]).fails) : exec (.linkDown p) s = .next (
    let t := (s.fab.ports[n]).outbox.foldl routeFlit
      (onPort s p.toNat fun q => { Port.reset with replays := q.replays, peer := q.peer, quiet := s.m.interval + 1 })
    if (s.fab.ports[n]).replay.isEmpty then t else voteUnsound t) := by
  have due : linkDownDue (s.fab.ports[n]) = true := by simp only [linkDownDue, hs, hd, decide_true, Bool.and_self]
  show execLinkDown p s = _
  simp only [execLinkDown, portAt_eq hn, due, Bool.not_true, Bool.false_eq_true, ↓reduceIte]

/-! ### Link keys (R418, R419) -/

/-- A port whose new flits carry the other bank. -/
def switchesBank (q : Port) : Port := { q with txkg := !q.txkg, txBanks := 3#2, generation := q.generation + 1#64, count := 0#64 }

/-- A receiver that has the new keys in the other bank. -/
def installsBank (q : Port) : Port :=
  { q with rekey := true, rekeyWaits := false, rxkg := !q.rxkg, rxBanks := q.rxBanks ||| (if q.rxkg then 1#2 else 2#2) }

section
variable (hs : (s.fab.ports[n]).state = 2#2)
include hs

theorem keyrdy_eq (hr : (s.fab.ports[n]).rekey = true) (hb : (s.fab.ports[n]).txBanks ≠ 3#2) :
    exec (.keyrdy p) s = .next (finishRekey (onPort s p.toNat switchesBank) p.toNat) := by
  refine congrArg _ (if_pos ?_)
  simp only [portAt_eq hn, hs, hr, decide_true, Bool.and_self, hb, ne_eq, not_false_eq_true]

/-- A transmitter whose bank is due asks for the rekey. -/
theorem rekey_asks (hd : rekeyDue (s.fab.ports[n]) = true) : ∃ q, exec (.rekey p) s =
    .next (onPort (onPort s p.toNat fun q => { q with rekey := true }) p.toNat fun r => { r with outbox := r.outbox ++ [q] }) := by
  obtain ⟨q, sent⟩ := toPeer_eq (onPort s p.toNat fun q => { q with rekey := true }) p.toNat 0x30 3
  refine ⟨q, ?_⟩
  rw [← sent]
  show execRekey p s = _
  simp only [execRekey, portAt_eq hn, hs, hd, ne_eq, not_true_eq_false, ↓reduceIte]

/-- A request of the far end is served. -/
theorem rekey_serves (hd : rekeyDue (s.fab.ports[n]) = false) (hr : (s.fab.ports[n]).rekey = false) : ∃ q, exec (.rekey p) s =
    .next (onPort (onPort s p.toNat installsBank) p.toNat fun r => { r with outbox := r.outbox ++ [q] }) := by
  obtain ⟨q, sent⟩ := toPeer_eq (onPort s p.toNat installsBank) p.toNat 0x31 0
  refine ⟨q, ?_⟩
  rw [← sent]
  show execRekey p s = _
  simp only [execRekey, portAt_eq hn, hs, hd, hr, ne_eq, not_true_eq_false, Bool.false_eq_true, ↓reduceIte]
  rfl

theorem retire_next (hb : (s.fab.ports[n]).rxBanks = 3#2) (hw : (s.fab.ports[n]).rekeyWaits = false) : exec (.retire p) s =
    .next (onPort s p.toNat fun q => { q with rekey := false, rxBanks := if q.rxkg then 2#2 else 1#2 }) := by
  have quiet := rekeyEnded_idle (s := onPort s p.toNat fun q => { q with rekey := false, rxBanks := if q.rxkg then 2#2 else 1#2 }) hn
    (by rw [port_onPort hn]; exact hw)
  rw [← quiet]
  refine congrArg _ (if_pos ?_)
  simp only [portAt_eq hn, hs, hb, decide_true, Bool.and_self]

end

end

theorem linkDown_early (h : linkDownDue (portAt s.fab p.toNat) = false) : exec (.linkDown p) s = .next s :=
  congrArg _ (if_pos (by rw [h]; rfl))

/-- DACK lowers the counts of its flow (R409). -/
theorem dack_next (s : State) (d : BitVec 10) (c : BitVec 2) : exec (.dack d c) s = .next { s with fab := { s.fab with
    flows := s.fab.flows.map fun q => if q.1 = d && q.2.1 = c then (q.1, q.2.1, q.2.2.1 - 1, q.2.2.2) else q } } := rfl

end

/-- Settles O49: each event by its equation. A NAK as a cumulative acknowledgement, 17 in `fails` for sixteen failed replays, and which
REKEY starts or serves a rekey are log entry 32, the model's choice. -/
theorem linkEventResult : Obligations.LinkEventResult := by
  refine ⟨fun s p h b ok => flit_away, fun s p h b ok hs => ⟨flit_refused hs, fun ha t ht => ?flit⟩, fun s p n l k hn hs hr hk hl => ?nak,
    fun s p n v hn hlow hf hg hs => ⟨fun hv => ?train, fun hv => ?stranger⟩, fun s p n v hn hhigh hf hg hs => ?attach,
    fun s p n hn hs hd => ?down, fun s p => linkDown_early, fun s p n hn hs hr hb held => ?keyrdy, fun s p n hn hs hr hb hw clear => ?ends,
    fun s p n hn hs => ⟨fun hd => ?asks, fun hd hr => ?serves, fun hb hw => ?retire⟩, fun s d c => ?dack⟩
  case flit =>
    rw [flit_accepted hs ha ht]
    exact ⟨fun stale => by rw [if_pos stale], fun fresh => by rw [if_neg (by rw [fresh]; exact Bool.false_ne_true)]⟩
  case nak =>
    refine ⟨_, nak_next hn hs hr hk hl, ?_, ?_, ports_onPort_other hn _ _⟩ <;> rw [port_onPort hn] <;> rfl
  case train =>
    refine ⟨_, (linkTrain_eq hn hf hg hs).trans (congrArg _ ((if_neg (Nat.not_le.mpr hlow)).trans (if_pos hv))), ?_⟩
    rw [port_onPort hn]
    exact ⟨rfl, rfl, rfl, rfl, rfl, rfl, ports_onPort_other hn _ _⟩
  case stranger => rw [linkTrain_eq hn hf hg hs, if_neg (Nat.not_le.mpr hlow), if_neg hv]
  case attach => exact ⟨_, (linkTrain_eq hn hf hg hs).trans (congrArg _ (if_pos hhigh)), port_onPort hn .., ports_onPort_other hn _ _⟩
  case down =>
    obtain ⟨o, lost⟩ := ports_routeFlits (s.fab.ports[n]).outbox
      (onPort s p.toNat fun q => { Port.reset with replays := q.replays, peer := q.peer, quiet := s.m.interval + 1 }) n
    rw [port_onPort hn] at lost
    refine ⟨_, linkDown_next hn hs hd, ?_⟩
    by_cases clear : (s.fab.ports[n]).replay = []
    · rw [if_pos (List.isEmpty_iff.mpr clear), lost]
      refine ⟨rfl, rfl, rfl, rfl, fun held => absurd clear held, fun quiet => ?_⟩
      rw [quiet]
      exact ports_onPort_other hn _ _
    · rw [if_neg (mt List.isEmpty_iff.mp clear), ports_voteUnsound, lost]
      refine ⟨rfl, rfl, rfl, rfl, fun _ => voteUnsound_unsound _, fun quiet => ?_⟩
      rw [quiet]
      exact ports_onPort_other hn _ _
  case keyrdy =>
    obtain ⟨q, hq, old⟩ := held
    refine ⟨_, (keyrdy_eq hn hs hr hb).trans (congrArg _ (finishRekey_waits hn (q := q) ?_ ?_)), ?_⟩
    · rwa [port_onPort hn]
    · rw [port_onPort hn, switchesBank, old]
      simp
    · rw [port_onPort hn]
      exact ⟨rfl, rfl, rfl, rfl, rfl⟩
  case ends =>
    obtain ⟨q, ended⟩ := finishRekey_ends (s := onPort s p.toNat switchesBank) hn (by rw [port_onPort hn]; exact hr) (by rw [port_onPort hn]; rfl)
      (by rw [port_onPort hn]; exact hw) (by rw [port_onPort hn]; exact fun q hq => Bool.eq_not_of_ne (clear q hq))
    refine ⟨_, (keyrdy_eq hn hs hr hb).trans (congrArg _ ended), ?_⟩
    rw [port_onPort hn, port_onPort hn, port_onPort hn]
    refine ⟨rfl, rfl, rfl, ?_⟩
    show (if (!(s.fab.ports[n]).txkg) = true then 2#2 else 1#2) = _
    cases (s.fab.ports[n]).txkg with
    | false => rfl
    | true => rfl
  case asks =>
    obtain ⟨q, asked⟩ := rekey_asks hn hs hd
    refine ⟨_, asked, ?_⟩
    rw [port_onPort hn, port_onPort hn]
    exact ⟨rfl, List.length_append, rfl⟩
  case serves =>
    obtain ⟨q, served⟩ := rekey_serves hn hs hd hr
    refine ⟨_, served, ?_⟩
    rw [port_onPort hn, port_onPort hn]
    exact ⟨rfl, rfl, rfl, rfl⟩
  case retire =>
    refine ⟨_, retire_next hn hs hb hw, ?_⟩
    rw [port_onPort hn]
    exact ⟨rfl, rfl⟩
  case dack =>
    refine ⟨_, dack_next s d c, rfl, fun q hq other => ?_, fun q hq hd hc => ?_⟩
    · exact List.mem_map.mpr ⟨q, hq, if_neg (by simpa using other)⟩
    · exact List.mem_map.mpr ⟨q, hq, by simp [hd, hc]⟩

end Sys2Proof.Machine
